-- ==== Sys2Proof/Word.lean ====
section
/-! DEFINITION. The word types of the ZN44 and their plainest arithmetic: bytes, 32-bit lane words, 64-bit scalars,
lane masks, and the number of a word read as unsigned or as two's complement. -/

namespace Sys2Proof

/-- One byte of memory or of the scratchpad. -/
abbrev Byte := BitVec 8

/-- One lane of a vector register, or one instruction word. -/
abbrev Word := BitVec 32

/-- A scalar register. -/
abbrev DWord := BitVec 64

/-- A set of lanes of one beam, lane 0 in bit 0. -/
abbrev Mask := BitVec 64

/-- A code address; 56 bits are architectural (R146). -/
abbrev Addr := BitVec 56

/-- The two's complement value of an `n`-bit number held as a `Nat`. -/
def sext (n x : Nat) : Int := if x % 2 ^ n < 2 ^ (n - 1) then (x % 2 ^ n : Nat) else (x % 2 ^ n : Nat) - (2 ^ n : Nat)

/-- The `n`-bit pattern of an integer. -/
def pattern (n : Nat) (z : Int) : Nat := (z % (2 ^ n : Nat)).toNat

/-- The bits [lo + len - 1 : lo] of a number. -/
def bits (x lo len : Nat) : Nat := x / 2 ^ lo % 2 ^ len

/-- Round up to a multiple of `k`. -/
def roundUp (x k : Nat) : Nat := (x + k - 1) / k * k

end Sys2Proof
end

