-- ==== Sys2Proof/Syntax.lean ====
section
/-! DEFINITION. The instructions of the beams and the steps of the device, one constructor per row of the opcode
table, with the operand forms of chapters 06 to 10. Register fields keep the eight bits of the field (R110); what an
encoding admits is said in WellFormed. -/

namespace Sys2Proof

/-- Register types (R20). -/
inductive Ty where
  | b32 | s32 | n32 | f32 | f16x2 | bf16x2 | s64 | n64 | b64 | s16x2 | n16x2 | s8x4 | n8x4
  deriving DecidableEq, Repr

/-- Scalar types (R168). -/
inductive STy where
  | s64 | n64 | b64
  deriving DecidableEq, Repr

/-- Formats (R18). -/
inductive Fmt where
  | n8 | s8 | n16 | s16 | n32 | s32 | n64 | s64 | f16 | bf16 | f32 | e4m3 | e5m2 | e2m1
  | n4x | mx8 | mx8b | mx4 | mxi8 | b8 | b16 | b32 | b64 | e8m0
  deriving DecidableEq, Repr

/-- Rounding modes (R35). -/
inductive Rnd where
  | rn | rz | ru | rd | ro | rna
  deriving DecidableEq, Repr

/-- Comparisons (R174, R190, R236). -/
inductive Cmp where
  | eq | ne | lt | le | gt | ge
  deriving DecidableEq, Repr

/-- Unknown disposition of a branch (R101). -/
inductive Disp where
  | uf | ut | uo | ux
  deriving DecidableEq, Repr

/-- Scopes (R218). -/
inductive Scope where
  | beam | cohort | core | die | dev | sys
  deriving DecidableEq, Repr

/-- Kleene operations (R175, R207). -/
inductive LogOp where
  | and | or | xor | not
  deriving DecidableEq, Repr

/-- Reduction operators (R212, R291). -/
inductive RedOp where
  | add | min | max
  deriving DecidableEq, Repr

/-- Shuffle modes (R209). -/
inductive ShMode where
  | at | off | wrap | xor
  deriving DecidableEq, Repr

/-- Vote kinds (R210). -/
inductive VoteKind where
  | all | any | uni
  deriving DecidableEq, Repr

/-- Atomic operators (R232). -/
inductive AtomOp where
  | add | min | max | and | or | xor | xchg | cas | inc | dec
  deriving DecidableEq, Repr

/-- Ordering of an atomic (R232). -/
inductive AOrd where
  | none | acq | rel | ar
  deriving DecidableEq, Repr

/-- Ordering of a fence (R235). -/
inductive FOrd where
  | acq | rel | ar | sc
  deriving DecidableEq, Repr

/-- Handler read modes (R268). -/
inductive GMode where
  | plain | record | replay
  deriving DecidableEq, Repr

/-- Collective kinds (R291). -/
inductive CollKind where
  | allreduce | redscatter | allgather
  deriving DecidableEq, Repr

/-- A register field. -/
abbrev Reg := BitVec 8

/-- Prism patterns of a vector source (R88, R113). -/
inductive Prism where
  | id
  | rot (q : BitVec 6)
  | bc (q : BitVec 6)
  | bfly (q : BitVec 6)
  | mir
  | mirg (q : BitVec 6)
  | rots (q : BitVec 6)
  deriving DecidableEq, Repr

/-- A source of default kind v: a vector register with its Prism and trap-if-empty policy, or a scalar register
(R110 to R113). -/
inductive VArg where
  | v (r : Reg) (p : Prism) (e : Bool)
  | s (r : Reg) (e : Bool)
  deriving DecidableEq, Repr

/-- A source of default kind v that an immediate may replace (R114). -/
inductive VArgI where
  | reg (a : VArg)
  | imm (w : Word)
  deriving DecidableEq, Repr

/-- A source of kind s with its empty policy. -/
structure SArg where
  r : Reg
  e : Bool
  deriving DecidableEq, Repr

/-- A source of kind s that an immediate may replace. -/
inductive SArgI where
  | reg (a : SArg)
  | imm (w : Word)
  deriving DecidableEq, Repr

/-- A source that can only be a vector register. -/
structure VOp where
  r : Reg
  p : Prism
  e : Bool
  deriving DecidableEq, Repr

/-- Sources of MOV (R193). -/
inductive MovSrc where
  | plain (a : VArgI)
  | idx (a : Reg) (ea : Bool) (b : VOp)
  deriving DecidableEq, Repr

/-- Destination of GETS (R161). -/
inductive GReg where
  | v (r : Reg)
  | s (r : Reg)
  deriving DecidableEq, Repr

/-- Source of SETS (R161). -/
inductive SetSrc where
  | v (a : VArg)
  | s (a : SArg)
  deriving DecidableEq, Repr

/-- Lane choice of VTOS (R178). -/
inductive LaneSel where
  | lead
  | lane (b : SArgI)
  deriving DecidableEq, Repr

/-- Memory operands (R219). -/
inductive MemArg where
  | uni (a : SArg) (disp : Option Word)
  | vec (a : Reg) (e : Bool) (disp : Option Word)
  | idx (a : SArg) (b : Reg) (eb : Bool)
  | all
  deriving DecidableEq, Repr

/-- Data of a store (R228). -/
inductive StSrc where
  | v (r : Reg)
  | s (r : Reg)
  deriving DecidableEq, Repr

/-- A block header (R119). -/
structure Header where
  len   : BitVec 16
  rsv   : BitVec 2
  x     : Bool
  g     : Bool
  k     : Bool
  y     : Bool
  rcv   : BitVec 18
  pf    : BitVec 2
  livea : BitVec 4
  livev : BitVec 8
  deriving DecidableEq, Repr

/-- A beam slot of the device: core, and slot 16q + i, or glint slot 64 + 4q + i (R423). -/
structure BeamKey where
  core : Nat
  slot : Nat
  deriving DecidableEq, Repr

/-- A cohort: its kernel and its index in the launch. -/
structure CohortKey where
  kernel : Nat
  index  : Nat
  deriving DecidableEq, Repr

/-- What names an arriving fabric message: the port that it came over, the sending endpoint, the virtual function, the
channel, the flow's sequence number and the tag (R393). -/
structure From where
  port : Nat
  src  : Nat
  vfn  : Nat
  vc   : Nat
  eseq : Nat
  tag  : Nat
  deriving DecidableEq, Repr

/-- I3C accesses (R458). -/
inductive I3cOp where
  | readBootst
  | readSensors
  | readLog
  | readPower (p : Nat)
  | setCeiling (p : Nat) (v : Nat)
  deriving DecidableEq, Repr

/-- A reset configuration: what the board and the flash hold when RESET_N is released (R438, R439). -/
structure BootImage where
  firmware  : List Byte
  config    : List Byte
  deriving DecidableEq, Repr


/-- One instruction of a beam or one step of the device: one constructor per row of the opcode table.
DESIGN CHOICE: log entry 46. -/
inductive Instr where
  -- control, beam, group and scalar side (chapter 07)
  | hdr (h : Header)
  | bra (off : BitVec 22)
  | brs (u : Disp) (k : BitVec 3) (t f n : BitVec 16)
  | brv (u : Disp) (c : BitVec 4) (t f n : BitVec 16)
  | jmpi (a : SArg)
  | call (off : BitVec 22)
  | ret
  | exit
  | nop
  | yield
  | brk (tag : BitVec 16)
  | trap (code : BitVec 16)
  | eret (skip : Bool)
  | bdec (n : BitVec 6) (off : BitVec 16)
  | delay (a : SArgI)
  | chunk (d a : Reg)
  | bsplit (d : Reg)
  | bfuse (d : Reg)
  | gjoin (d a : Reg)
  | gleave (d a : Reg)
  | gnew (d : Reg)
  | gets (d : GReg) (sp : Reg)
  | sets (sp : Reg) (a : SetSrc)
  | launch (d : Reg) (a b : SArg)
  | smov (t : STy) (d : Reg) (a : SArgI)
  | smovi (d : Reg) (a : SArg) (w : Word)
  | sadd (t : STy) (d : Reg) (a : SArg) (b : SArgI)
  | ssub (t : STy) (d : Reg) (a : SArg) (b : SArgI)
  | smul (t : STy) (d : Reg) (a : SArg) (b : SArgI)
  | smad (t : STy) (d : Reg) (a : SArg) (b : SArgI) (c : SArg)
  | sand (d : Reg) (a : SArg) (b : SArgI)
  | sor (d : Reg) (a : SArg) (b : SArgI)
  | sxor (d : Reg) (a : SArg) (b : SArgI)
  | sshl (t : STy) (d : Reg) (a : SArg) (b : SArgI)
  | sshr (t : STy) (d : Reg) (a : SArg) (b : SArgI)
  | ssar (t : STy) (d : Reg) (a : SArg) (b : SArgI)
  | smin (t : STy) (d : Reg) (a : SArg) (b : SArgI)
  | smax (t : STy) (d : Reg) (a : SArg) (b : SArgI)
  | scmp (c : Cmp) (t : STy) (d : Reg) (a : SArg) (b : SArgI)
  | ssel (t : STy) (d : Reg) (a : SArg) (b : SArgI) (k : Reg)
  | slea (sh : BitVec 3) (t : STy) (d : Reg) (a : SArg) (b : SArgI)
  | sbfe (t : STy) (d : Reg) (a : SArg) (b : SArgI)
  | spopc (t : STy) (d : Reg) (a : SArgI)
  | sclz (t : STy) (d : Reg) (a : SArgI)
  | klog (op : LogOp) (d a b : Reg)
  | stov (t : Ty) (d : Reg) (a : SArg)
  | vtos (t : Ty) (d : Reg) (a : VArg) (l : LaneSel)
  | sfill (t : STy) (d : Reg) (a : SArg) (b : SArgI)
  -- vector arithmetic, truth and cross-lane (chapter 08)
  | iadd (t : Ty) (d : Reg) (a : VArg) (b : VArgI)
  | isub (t : Ty) (d : Reg) (a : VArg) (b : VArgI)
  | imul (t : Ty) (d : Reg) (a : VArg) (b : VArgI)
  | imad (t : Ty) (d : Reg) (a : VArg) (b : VArgI) (c : VArg)
  | imulh (t : Ty) (d : Reg) (a : VArg) (b : VArgI)
  | imin (t : Ty) (d : Reg) (a : VArg) (b : VArgI)
  | imax (t : Ty) (d : Reg) (a : VArg) (b : VArgI)
  | iabs (t : Ty) (d : Reg) (a : VArgI)
  | ineg (t : Ty) (d : Reg) (a : VArgI)
  | and (t : Ty) (d : Reg) (a : VArg) (b : VArgI)
  | or (t : Ty) (d : Reg) (a : VArg) (b : VArgI)
  | xor (t : Ty) (d : Reg) (a : VArg) (b : VArgI)
  | not (t : Ty) (d : Reg) (a : VArgI)
  | shl (t : Ty) (d : Reg) (a : VArg) (b : VArgI)
  | shr (t : Ty) (d : Reg) (a : VArg) (b : VArgI)
  | sar (t : Ty) (d : Reg) (a : VArg) (b : VArgI)
  | bfe (t : Ty) (d : Reg) (a : VArg) (b : VArgI)
  | bfi (t : Ty) (d : Reg) (a : VArg) (b : VArgI) (c : VArg)
  | popc (t : Ty) (d : Reg) (a : VArgI)
  | clz (t : Ty) (d : Reg) (a : VArgI)
  | icmp (cmp : Cmp) (t : Ty) (d : Reg) (a : VArg) (b : VArgI)
  | lea (sh : BitVec 3) (t : Ty) (d : Reg) (a : VArg) (b : VArgI)
  | idot4 (t : Ty) (d : Reg) (a : VArg) (b : VArgI) (c : VArg)
  | mov (t : Ty) (d : Reg) (a : MovSrc)
  | fadd (t : Ty) (r : Rnd) (d : Reg) (a : VArg) (b : VArgI)
  | fsub (t : Ty) (r : Rnd) (d : Reg) (a : VArg) (b : VArgI)
  | fmul (t : Ty) (r : Rnd) (d : Reg) (a : VArg) (b : VArgI)
  | ffma (t : Ty) (r : Rnd) (d : Reg) (a : VArg) (b : VArgI) (c : VArg)
  | fmin (t : Ty) (d : Reg) (a : VArg) (b : VArgI)
  | fmax (t : Ty) (d : Reg) (a : VArg) (b : VArgI)
  | fcmp (cmp : Cmp) (d : Reg) (a : VArg) (b : VArgI)
  | frcp (t : Ty) (r : Rnd) (d : Reg) (a : VArgI)
  | frsq (t : Ty) (d : Reg) (a : VArgI)
  | fsqrt (t : Ty) (r : Rnd) (d : Reg) (a : VArgI)
  | fexp2 (t : Ty) (d : Reg) (a : VArgI)
  | flog2 (t : Ty) (d : Reg) (a : VArgI)
  | fsin (t : Ty) (d : Reg) (a : VArgI)
  | fcos (t : Ty) (d : Reg) (a : VArgI)
  | ftanh (t : Ty) (d : Reg) (a : VArgI)
  | fclass (d : Reg) (a : VArgI)
  | fdot2 (t : Ty) (r : Rnd) (d : Reg) (a : VArg) (b : VArgI) (c : VArg)
  | pfma (t : Ty) (r : Rnd) (d : Reg) (a : VArg) (b : VArgI) (c : VArg)
  | padd (t : Ty) (r : Rnd) (d : Reg) (a : VArg) (b : VArgI)
  | fscale (t : Ty) (r : Rnd) (d : Reg) (a : VArg) (b : VArgI)
  | cvt (dt st : Ty) (r : Rnd) (d : Reg) (a : VArgI)
  | pack (f : Fmt) (sat : Bool) (t : Ty) (p : BitVec 2) (r : Rnd) (d : Reg) (a : VArg) (b : VArgI)
  | unpk (t : Ty) (f : Fmt) (e : BitVec 3) (r : Rnd) (d : Reg) (a : VArgI)
  | pres (t : Ty) (d : Reg) (a : VArgI)
  | fill (t : Ty) (d : Reg) (a : VArg) (b : VArgI)
  | mkab (t : Ty) (d : Reg) (a : VArg) (c : Reg)
  | tsel (t : Ty) (d : Reg) (a : VArg) (b : VArgI) (c : Reg)
  | tlog (op : LogOp) (d a b : Reg)
  | tval (t : Ty) (d a : Reg)
  | frnd (t : Ty) (r : Rnd) (d : Reg) (a : VArgI)
  | shfl (m : ShMode) (t : Ty) (d : Reg) (a : VArg) (b : VArgI)
  | prm (t : Ty) (d : Reg) (a : VArg) (b : VArgI) (c : VArg)
  | vote (kind : VoteKind) (d a : Reg)
  | ballot (d a : Reg)
  | red (op : RedOp) (cnt : Bool) (t : Ty) (d : Reg) (a : VArgI)
  | scan (op : RedOp) (cnt : Bool) (t : Ty) (d : Reg) (a : VArgI)
  | laneMatch (all : Bool) (t : Ty) (d : Reg) (a : VArgI)
  | elect (d : Reg) (a : Option Reg)
  -- memory, atomics, messages and fences (chapter 09)
  | ld (sc : Scope) (t : Ty) (d : Reg) (m : MemArg)
  | st (sc : Scope) (t : Ty) (src : StSrc) (m : MemArg)
  | lds (sc : Scope) (t : Ty) (d : Reg) (m : MemArg)
  | sts (sc : Scope) (t : Ty) (src : StSrc) (m : MemArg)
  | ldu (sp : Bool) (sc : Scope) (t : Ty) (d : Reg) (m : MemArg)
  | stu (sp : Bool) (sc : Scope) (t : Ty) (d : Reg) (m : MemArg)
  | lda (sp : Bool) (sc : Scope) (t : Ty) (d : Reg) (m : MemArg)
  | stl (sp : Bool) (sc : Scope) (t : Ty) (src : StSrc) (m : MemArg)
  | atom (op : AtomOp) (o : AOrd) (nr : Bool) (sc : Scope) (t : Ty) (d : Reg) (a : VArg) (b : VArgI)
  | atoms (op : AtomOp) (o : AOrd) (nr : Bool) (sc : Scope) (t : Ty) (d : Reg) (a : VArg) (b : VArgI)
  | atomu (op : AtomOp) (o : AOrd) (sp : Bool) (sc : Scope) (t : Ty) (d : Reg) (a : SArg) (b : SArgI)
  | fence (o : FOrd) (sc : Scope)
  | waitv (cmp : Cmp) (acq sp : Bool) (sc : Scope) (t : Ty) (d : Reg) (a b : SArg)
  | cflush (sc : Scope) (m : MemArg)
  | cinv (sc : Scope) (m : MemArg)
  | pref (sc : Scope) (m : MemArg)
  | tlook (d a : Reg)
  | tins (d a : Reg)
  | tdel (d a : Reg)
  | msend (d : Reg) (a b : SArg)
  | mpoll (d a : Reg)
  | mwait (d : Reg) (a b : SArg)
  | mpop (d a : Reg)
  -- engines (chapter 10)
  | cpy (st : Bool) (map : BitVec 4) (ch : BitVec 3) (sc : Scope) (d a b : Reg)
  | cpyResume (sc : Scope) (a : Reg)
  | cpycsr (f : Fmt) (ch : BitVec 3) (sc : Scope) (d a b c : Reg)
  | gread (mode : GMode) (map : BitVec 4) (sc : Scope) (d a c : Reg) (off : Word)
  | greadResume (sc : Scope) (a : Reg)
  | gdone
  | binit (grp : Bool) (a : SArg) (b : SArgI)
  | barv (a : Reg)
  | bexp (a : SArg) (b : SArgI) (c : Option SArg)
  | bwait (d a : Reg)
  | binv (a : Reg)
  | btest (d a : Reg)
  | cnd (f : Fmt) (sc : Scope) (a b : Reg)
  | mma (fa fb : Fmt) (d : Reg) (a : VArg) (b : SArg)
  | mmas (fa : Fmt) (mixed : Bool) (d : Reg) (a : VArg) (b : SArg) (c : VArg)
  | mclr (d : Reg)
  | mlda (t : Ty) (d : Reg) (a : VArg) (c : Option VArg)
  | msta (f : Fmt) (r : Rnd) (d a : Reg) (b c : Option SArg)
  | coll (kind : CollKind) (op : RedOp) (fast cnt : Bool) (f : Fmt) (sc : Scope) (a b : Reg)
  | chwait (ch : BitVec 3) (a : Reg)
  | mapld (d : Reg) (sp : Bool) (a : Reg)
  -- trace, trap and system instructions (chapters 12, 17, 20)
  | tmark (a : Reg)
  | sample (a : Reg)
  | tlbinv (sc : Scope) (a : Option Reg)
  | ctxsv (a : Reg)
  | ctxld (a : Reg)
  | pgset (d a b : Reg) (lvl : BitVec 2)
  | fwcall (d a : Reg) (fn : BitVec 6)
  | clock (d : Reg)
  -- completions inside a core
  | registerFill (b : BeamKey) (n : Nat) (err : Mask)
  | mmaComplete (b : BeamKey)
  | walkComplete (core ctx : Nat) (va : Addr) (write : Bool)
  | copyBurst (core req burst : Nat)
  | copyComplete (core req : Nat)
  | engineFault (core req : Nat)
  | glintBirth (core req burst slot : Nat)
  | cpycsrComplete (core req : Nat)
  | cndComplete (core req : Nat)
  | collComplete (core req : Nat)
  | fuseWindowExpiry (b : BeamKey)
  | delayExpiry (b : BeamKey) (e : Nat)
  | waitvWake (b : BeamKey) (e : Nat)
  | waitvTimeout (b : BeamKey) (e : Nat)
  | mwaitWake (b : BeamKey) (e : Nat)
  | mwaitTimeout (b : BeamKey) (e : Nat)
  | fwcallAnswer (b : BeamKey) (e : Nat)
  | fwcallTimeout (b : BeamKey) (e : Nat)
  | agingPromotion (b : BeamKey) (e : Nat)
  | throttleRotation (core quad : Nat)
  -- the scheduler
  | timeSliceExpiry (part : Nat)
  | cohortPlace (kernel core : Nat)
  | cohortRestore (c : CohortKey) (core : Nat)
  | exchange (victim woken : CohortKey)
  | wakeRecheck (c : CohortKey)
  | evictionSave (c : CohortKey)
  | cohortRetire (c : CohortKey)
  | launchCmd (q core : Nat)
  | copyCmd (q : Nat)
  | copyCmdComplete (q seq : Nat)
  | wait (q : Nat)
  | waitRecheck (q : Nat)
  | signal (q : Nat)
  | timestamp (q : Nat)
  | preempt (q : Nat)
  | fenceCmd (q : Nat)
  | contextFault (ctx : Nat)
  | migrationWaitExpiry (b : BeamKey) (e : Nat)
  -- the fabric
  | memwr (f : From) (ctx : Nat) (va : Addr) (data : List Byte)
  | memrd (f : From) (ctx : Nat) (va : Addr) (len : Nat)
  | queueAppend (f : From) (q : Nat) (record : List Byte)
  | ringAppend (f : From) (handle : DWord) (seq : Nat) (data : List Byte)
  | collMessage (f : From) (group op crc kind redop fmt e : Nat) (data : List Byte)
  | reply (f : From) (status : Nat)
  | notifyResend (vf : Nat)
  | fabricTimeout (tag : Nat)
  /-- a flit: LSEQ, ACKSEQ, VC with the credits returned for it, and bytes 4 to 255 (R387) -/
  | flitReceive (port : Nat) (lseq ackseq : BitVec 12) (credit : BitVec 2 × BitVec 6) (rest : List Byte)
  | pathFailure (dest vc : Nat)
  | linkRetrain (port : Nat)
  | trainingComplete (port lanes : Nat)
  | laneLockLoss (port : Nat)
  | portFence (port : Nat)
  | portUnfence (port : Nat)
  | dcdCapacityAdd (part base limit : Nat)
  | dcdRelease (part base limit : Nat) (confirmed : Bool)
  -- Periscope and the Spectrograph
  | psctlWrite (core : Nat) (w : DWord)
  | psrpWrite (core : Nat) (w : DWord)
  | spctlWrite (core : Nat) (w : DWord)
  | sprpWrite (core : Nat) (w : DWord)
  | sgctlWrite (core : Nat) (w : DWord)
  | sgWrite (core quad n : Nat) (w : DWord)
  | sgstatW1c (core quad : Nat) (w : DWord)
  | registerPageWrite (core off : Nat) (w : DWord)
  | samplePeriod (core : Nat)
  -- the board, the boot and the power plane
  | i3cAccess (op : I3cOp)
  | pwrgood
  | resetNAssert
  | resetNRelease (img : BootImage)
  | thermtrip (die : Nat)
  | supplyTrip (part mhz : Nat)
  | cxlWriteAcknowledgement (pa : Nat) (ok : Bool)
  | congestionLevelChange (region level : Nat)
  | sliceIssueSlotCount (core : Nat)
  | diaphragmWrite (part reg : Nat) (v : Nat)
  | powerClockSetting (part : Nat) (watts mhz : Option Nat)
  | faultNAssertionEnd
  | boundaryScanAccess (tms tdi : Bool)
  | unknownRequestCode (f : From) (code : Nat)
  | discardedMessage (f : From) (typ : Nat)
  -- management requests of the host
  | create (f : From) (world root handler save savesz : Nat)
  | stop (f : From) (ctx : Nat)
  | resume (f : From) (ctx : Nat)
  | destroy (f : From) (ctx : Nat)
  | query (f : From) (ctx : Nat)
  | dbgstop (f : From) (ctx kernel cohort stop : Nat)
  | qcreate (f : From) (args : List Nat)
  | qstop (f : From) (q : Nat)
  | qresume (f : From) (q : Nat)
  | qreset (f : From) (q : Nat)
  | qdestroy (f : From) (q : Nat)
  | tlbflush (f : From) (ctx : Nat) (va : Option Addr)
  | lgcreate (f : From) (ctx va count : Nat)
  | lgdestroy (f : From) (ctx handle : Nat)
  | domain (f : From)
  | getVersion (f : From)
  | getCapabilities (f : From)
  | negotiateAlgorithms (f : From) (asym hash meas : Bool)
  | getDigests (f : From)
  | getCertificate (f : From) (slot offset len : Nat)
  | challenge (f : From) (slot : Nat) (nonce : List Byte)
  | getMeasurements (f : From) (index : Nat) (nonce : List Byte)
  deriving DecidableEq, Repr

end Sys2Proof
end

