-- ==== Sys2Proof/Config.lean ====
section
/-! DEFINITION. What one part or one board fixes, and the values that the spec leaves open: the free values are opaque,
so nothing can be proved of them (log entries 1, 5, 6, 7, 8 and 9). -/

namespace Sys2Proof.Config

/-- A free choice between two outcomes that the spec allows, the `n`-th of the run. DESIGN CHOICE: log entry 5. -/
opaque freeBit (n : Nat) : Bool

/-- A free number, the `n`-th of the run. DESIGN CHOICE: log entry 5. -/
opaque freeNat (n : Nat) : Nat

/-- A byte of a new scratchpad window that nothing has written (R348); `seed` tells placements apart.
DESIGN CHOICE: log entry 8. -/
opaque windowByte (seed addr : Nat) : Byte

/-- The special functions of R201 where the spec fixes no exact result: function, type and operand bits (R202).
DESIGN CHOICE: log entry 6. -/
opaque special (fn : Nat) (t : Ty) (x : Nat) : Nat

/-- The firmware's answer to FWCALL VERSION (R332). DESIGN CHOICE: log entry 9. -/
opaque firmwareVersion : BitVec 32

/-- The private key that the boot ROM derives from the fused seed and the firmware image's digest (R440).
DESIGN CHOICE: log entry 7. -/
opaque identityKey (seed digest : List Byte) : Nat

/-- The private key of the device certificate, from the fused seed alone (R440). DESIGN CHOICE: log entry 7. -/
opaque deviceKey (seed : List Byte) : Nat

/-- The vendor chain to the device certificate, in slot 0, for the device's public key (R440).
DESIGN CHOICE: log entry 7. -/
opaque vendorChain (device : List Byte) : List Byte

/-- What the alias certificate says before its signature, for the device's public key and that of the identity (R440).
DESIGN CHOICE: log entry 7. -/
opaque aliasBody (device identity : List Byte) : List Byte

/-- The random numbers of an SM2 signature, in the `n`-th step of the run. DESIGN CHOICE: log entry 7. -/
opaque signRandom (n : Nat) : List Nat

/-- The SM2 user identity under which the device signs its certificate and its SPDM responses. DESIGN CHOICE: log entry 7. -/
opaque signerIdentity : List Byte

/-- CTExponent of the SPDM CAPABILITIES response (R441). DESIGN CHOICE: log entry 9. -/
opaque spdmExponent : Byte

/-- DataTransferSize of the SPDM CAPABILITIES response (R441). DESIGN CHOICE: log entry 9. -/
opaque spdmTransfer : BitVec 32

/-- MaxSPDMmsgSize of the SPDM CAPABILITIES response (R441). DESIGN CHOICE: log entry 9. -/
opaque spdmLargest : BitVec 32

/-- Is a fabric endpoint a host, before any configuration image has named the hosts (R458, R462)?
DESIGN CHOICE: log entry 9. -/
opaque isHost (endpoint : Nat) : Bool

/-- The responder's nonce of an SPDM response, the `n`-th of the run. DESIGN CHOICE: log entry 9. -/
opaque spdmNonce (n : Nat) : List Byte

/-- The fuses (R438): the digest of the vendor key, the identity seed and MINSVN. DESIGN CHOICE: log entry 7. -/
opaque fuseKeyDigest : List Byte
/-- DESIGN CHOICE: log entry 7. -/
opaque fuseSeed : List Byte
/-- DESIGN CHOICE: log entry 7. -/
opaque fuseMinSvn : BitVec 64

/-- The boot ROM's bytes, measured at index 1 (R442). DESIGN CHOICE: log entry 7. -/
opaque bootRom : List Byte

/-- What firmware reads from a verified configuration image (R315, R394, R438, R443): the partitions, their Diaphragm
registers and the device's numbers, as numbers that the boot step gives their places. DESIGN CHOICE: log entry 9. -/
opaque configField (image : List Byte) (field part index : Nat) : Nat

/-- Readings of the board's sensors (R458). DESIGN CHOICE: log entry 9. -/
opaque sensor (n : Nat) : Nat

/-- TDO of a boundary-scan access when JTAG is enabled (R462, IEEE 1149.1). DESIGN CHOICE: log entry 9. -/
opaque boundaryScan (n : Nat) (tms tdi : Bool) : Bool

/-- The CRC-64 of a flit's bytes 0 to 247 (R387). DESIGN CHOICE: log entry 30. -/
opaque flitCheck (bs : List Byte) : BitVec 64

/-- Where the near memory's first slice lies among the device's physical addresses, in units of 8 GiB.
DESIGN CHOICE: log entry 13. -/
opaque nearOrigin : Nat

/-- Credits, in flits, that a port's peer grants a virtual channel (R392). DESIGN CHOICE: log entry 30. -/
opaque vcCredits (vc : Nat) : Nat

/-- Cycles over which a port's replay rate is measured (R388). DESIGN CHOICE: log entry 30. -/
opaque replayWindow : Nat

/-- The CRC-32 of a link group's list of device numbers (R401, R402). DESIGN CHOICE: log entry 9. -/
opaque listCrc (devs : List Nat) : Nat

/-- Bytes that the spec leaves open: a faulted collective's destination (R402), a malformed Condenser stream's results
(R285), the parts of a save record that hold unspecified bytes (R325), the unused places of a control image.
DESIGN CHOICE: log entry 8. -/
opaque openByte (n addr : Nat) : Byte

/-- What a byte of memory that nothing has written reads as: DESIGN CHOICE (log entry 1). DESIGN CHOICE: log entry 1. -/
def unlistedByte : Byte := 0x00

end Sys2Proof.Config
end

