-- ==== Sys2Proof/Decode.lean ====
section
/-! DEFINITION. The instruction words (chapter 06): the opcode map, the fields of the three words, the checks that
raise ENCODING traps, the decoder, and the encoder written from the same tables. -/

namespace Sys2Proof

/-- The major opcodes, in the order of the opcode map (R127). -/
inductive Op where
  | hdr | bra | brs | brv | jmpi | call | ret | exit | nop | yield | brk | trap | eret | bdec | delay | chunk
  | bsplit | bfuse | gjoin | gleave | gnew | gets | sets | launch | smov | smovi | sadd | ssub | smul | smad | sand | sor
  | sxor | sshl | sshr | ssar | smin | smax | scmp | ssel | slea | sbfe | spopc | sclz | klog | stov | vtos | sfill
  | iadd | isub | imul | imad | imulh | imin | imax | iabs | ineg | and | or | xor | not | shl | shr | sar
  | bfe | bfi | popc | clz | icmp | lea | idot4 | mov | fadd | fsub | fmul | ffma | fmin | fmax | fcmp | frcp
  | frsq | fsqrt | fexp2 | flog2 | fsin | fcos | ftanh | fclass | fdot2 | pfma | padd | fscale | cvt | pack | unpk | pres
  | fill | mkab | tsel | tlog | tval | frnd | shfl | prm | vote | ballot | red | scan | laneMatch | elect
  | ld | st | lds | sts | ldu | stu | lda | stl | atom | atoms | atomu | fence | waitv | cflush | cinv | pref
  | tlook | tins | tdel | msend | mpoll | mwait | mpop
  | cpy | cpycsr | gread | gdone | binit | barv | bexp | bwait | binv | btest | cnd | mma | mmas | mclr | mlda | msta
  | coll | chwait | mapld
  | tmark | sample | tlbinv | ctxsv | ctxld | pgset | fwcall | clock
  deriving DecidableEq, Repr

/-- Row 0x0_ of the opcode map. -/
def opRow0 : List (Option Op) :=
  [some .hdr, some .bra, some .brs, some .brv, some .jmpi, some .call, some .ret, some .exit,
   some .nop, some .yield, some .brk, some .trap, some .eret, some .bdec, some .delay, some .chunk]

/-- Row 0x1_ of the opcode map. -/
def opRow1 : List (Option Op) :=
  [some .bsplit, some .bfuse, some .gjoin, some .gleave, some .gnew, some .gets, some .sets, some .launch,
   some .smov, some .smovi, some .sadd, some .ssub, some .smul, some .smad, some .sand, some .sor]

/-- Row 0x2_ of the opcode map. -/
def opRow2 : List (Option Op) :=
  [some .sxor, some .sshl, some .sshr, some .ssar, some .smin, some .smax, some .scmp, some .ssel,
   some .slea, some .sbfe, some .spopc, some .sclz, some .klog, some .stov, some .vtos, some .sfill]

/-- Row 0x3_ of the opcode map. -/
def opRow3 : List (Option Op) :=
  [some .iadd, some .isub, some .imul, some .imad, some .imulh, some .imin, some .imax, some .iabs,
   some .ineg, some .and, some .or, some .xor, some .not, some .shl, some .shr, some .sar]

/-- Row 0x4_ of the opcode map. -/
def opRow4 : List (Option Op) :=
  [some .bfe, some .bfi, some .popc, some .clz, some .icmp, some .lea, some .idot4, some .mov,
   some .fadd, some .fsub, some .fmul, some .ffma, some .fmin, some .fmax, some .fcmp, some .frcp]

/-- Row 0x5_ of the opcode map. -/
def opRow5 : List (Option Op) :=
  [some .frsq, some .fsqrt, some .fexp2, some .flog2, some .fsin, some .fcos, some .ftanh, some .fclass,
   some .fdot2, some .pfma, some .padd, some .fscale, some .cvt, some .pack, some .unpk, some .pres]

/-- Row 0x6_ of the opcode map. -/
def opRow6 : List (Option Op) :=
  [some .fill, some .mkab, some .tsel, some .tlog, some .tval, some .frnd, some .shfl, some .prm,
   some .vote, some .ballot, some .red, some .scan, some .laneMatch, some .elect, none, none]

/-- Row 0x7_ of the opcode map. -/
def opRow7 : List (Option Op) :=
  [some .ld, some .st, some .lds, some .sts, some .ldu, some .stu, some .lda, some .stl,
   some .atom, some .atoms, some .atomu, some .fence, some .waitv, some .cflush, some .cinv, some .pref]

/-- Row 0x8_ of the opcode map. -/
def opRow8 : List (Option Op) :=
  [some .tlook, some .tins, some .tdel, some .msend, some .mpoll, some .mwait, some .mpop, none,
   none, none, none, none, none, none, none, none]

/-- Row 0x9_ of the opcode map. -/
def opRow9 : List (Option Op) :=
  [some .cpy, some .cpycsr, some .gread, some .gdone, some .binit, some .barv, some .bexp, some .bwait,
   some .binv, some .btest, some .cnd, some .mma, some .mmas, some .mclr, some .mlda, some .msta]

/-- Row 0xA_ of the opcode map. -/
def opRowA : List (Option Op) :=
  [some .coll, some .chwait, none, some .mapld, none, none, none, none,
   none, none, none, none, none, none, none, none]

/-- Row 0xB_ of the opcode map. -/
def opRowB : List (Option Op) :=
  [some .tmark, some .sample, some .tlbinv, some .ctxsv, some .ctxld, some .pgset, some .fwcall, some .clock,
   none, none, none, none, none, none, none, none]

/-- The opcode map; the rows 0xC to 0xF are unassigned. -/
def opRow : Nat → List (Option Op)
  | 0 => opRow0
  | 1 => opRow1
  | 2 => opRow2
  | 3 => opRow3
  | 4 => opRow4
  | 5 => opRow5
  | 6 => opRow6
  | 7 => opRow7
  | 8 => opRow8
  | 9 => opRow9
  | 10 => opRowA
  | 11 => opRowB
  | _ => []

/-- The opcode that a code names, if any. -/
def Op.ofCode (c : BitVec 8) : Option Op := ((opRow (c.toNat / 16))[c.toNat % 16]?).join

/-- The code of an opcode. -/
def Op.code : Op → BitVec 8
  | .hdr => 0x00
  | .bra => 0x01
  | .brs => 0x02
  | .brv => 0x03
  | .jmpi => 0x04
  | .call => 0x05
  | .ret => 0x06
  | .exit => 0x07
  | .nop => 0x08
  | .yield => 0x09
  | .brk => 0x0A
  | .trap => 0x0B
  | .eret => 0x0C
  | .bdec => 0x0D
  | .delay => 0x0E
  | .chunk => 0x0F
  | .bsplit => 0x10
  | .bfuse => 0x11
  | .gjoin => 0x12
  | .gleave => 0x13
  | .gnew => 0x14
  | .gets => 0x15
  | .sets => 0x16
  | .launch => 0x17
  | .smov => 0x18
  | .smovi => 0x19
  | .sadd => 0x1A
  | .ssub => 0x1B
  | .smul => 0x1C
  | .smad => 0x1D
  | .sand => 0x1E
  | .sor => 0x1F
  | .sxor => 0x20
  | .sshl => 0x21
  | .sshr => 0x22
  | .ssar => 0x23
  | .smin => 0x24
  | .smax => 0x25
  | .scmp => 0x26
  | .ssel => 0x27
  | .slea => 0x28
  | .sbfe => 0x29
  | .spopc => 0x2A
  | .sclz => 0x2B
  | .klog => 0x2C
  | .stov => 0x2D
  | .vtos => 0x2E
  | .sfill => 0x2F
  | .iadd => 0x30
  | .isub => 0x31
  | .imul => 0x32
  | .imad => 0x33
  | .imulh => 0x34
  | .imin => 0x35
  | .imax => 0x36
  | .iabs => 0x37
  | .ineg => 0x38
  | .and => 0x39
  | .or => 0x3A
  | .xor => 0x3B
  | .not => 0x3C
  | .shl => 0x3D
  | .shr => 0x3E
  | .sar => 0x3F
  | .bfe => 0x40
  | .bfi => 0x41
  | .popc => 0x42
  | .clz => 0x43
  | .icmp => 0x44
  | .lea => 0x45
  | .idot4 => 0x46
  | .mov => 0x47
  | .fadd => 0x48
  | .fsub => 0x49
  | .fmul => 0x4A
  | .ffma => 0x4B
  | .fmin => 0x4C
  | .fmax => 0x4D
  | .fcmp => 0x4E
  | .frcp => 0x4F
  | .frsq => 0x50
  | .fsqrt => 0x51
  | .fexp2 => 0x52
  | .flog2 => 0x53
  | .fsin => 0x54
  | .fcos => 0x55
  | .ftanh => 0x56
  | .fclass => 0x57
  | .fdot2 => 0x58
  | .pfma => 0x59
  | .padd => 0x5A
  | .fscale => 0x5B
  | .cvt => 0x5C
  | .pack => 0x5D
  | .unpk => 0x5E
  | .pres => 0x5F
  | .fill => 0x60
  | .mkab => 0x61
  | .tsel => 0x62
  | .tlog => 0x63
  | .tval => 0x64
  | .frnd => 0x65
  | .shfl => 0x66
  | .prm => 0x67
  | .vote => 0x68
  | .ballot => 0x69
  | .red => 0x6A
  | .scan => 0x6B
  | .laneMatch => 0x6C
  | .elect => 0x6D
  | .ld => 0x70
  | .st => 0x71
  | .lds => 0x72
  | .sts => 0x73
  | .ldu => 0x74
  | .stu => 0x75
  | .lda => 0x76
  | .stl => 0x77
  | .atom => 0x78
  | .atoms => 0x79
  | .atomu => 0x7A
  | .fence => 0x7B
  | .waitv => 0x7C
  | .cflush => 0x7D
  | .cinv => 0x7E
  | .pref => 0x7F
  | .tlook => 0x80
  | .tins => 0x81
  | .tdel => 0x82
  | .msend => 0x83
  | .mpoll => 0x84
  | .mwait => 0x85
  | .mpop => 0x86
  | .cpy => 0x90
  | .cpycsr => 0x91
  | .gread => 0x92
  | .gdone => 0x93
  | .binit => 0x94
  | .barv => 0x95
  | .bexp => 0x96
  | .bwait => 0x97
  | .binv => 0x98
  | .btest => 0x99
  | .cnd => 0x9A
  | .mma => 0x9B
  | .mmas => 0x9C
  | .mclr => 0x9D
  | .mlda => 0x9E
  | .msta => 0x9F
  | .coll => 0xA0
  | .chwait => 0xA1
  | .mapld => 0xA3
  | .tmark => 0xB0
  | .sample => 0xB1
  | .tlbinv => 0xB2
  | .ctxsv => 0xB3
  | .ctxld => 0xB4
  | .pgset => 0xB5
  | .fwcall => 0xB6
  | .clock => 0xB7

/-! ### Codes of the enumerated fields -/

def Ty.all : List Ty :=
  [.b32, .s32, .n32, .f32, .f16x2, .bf16x2, .s64, .n64, .b64, .s16x2, .n16x2, .s8x4, .n8x4]

/-- Type codes of R20. -/
def Ty.code : Ty → BitVec 4
  | .b32 => 0 | .s32 => 1 | .n32 => 2 | .f32 => 3 | .f16x2 => 4 | .bf16x2 => 5 | .s64 => 6 | .n64 => 7
  | .b64 => 8 | .s16x2 => 9 | .n16x2 => 10 | .s8x4 => 11 | .n8x4 => 12

/-- The type that a code names; 13 to 15 are reserved. -/
def Ty.ofCode (c : BitVec 4) : Option Ty := Ty.all[c.toNat]?

/-- Does the type take a register pair in the vector file (R21)? -/
def Ty.wide : Ty → Bool
  | .s64 | .n64 | .b64 => true
  | _ => false

def STy.code : STy → BitVec 2
  | .s64 => 0 | .n64 => 1 | .b64 => 2

def STy.ofCode (c : BitVec 2) : Option STy := [STy.s64, .n64, .b64][c.toNat]?

def Fmt.all : List Fmt :=
  [.n8, .s8, .n16, .s16, .n32, .s32, .n64, .s64, .f16, .bf16, .f32, .e4m3, .e5m2, .e2m1,
   .n4x, .mx8, .mx8b, .mx4, .mxi8, .b8, .b16, .b32, .b64, .e8m0]

/-- Format codes of R18. -/
def Fmt.code : Fmt → BitVec 5
  | .n8 => 0 | .s8 => 1 | .n16 => 2 | .s16 => 3 | .n32 => 4 | .s32 => 5 | .n64 => 6 | .s64 => 7 | .f16 => 8
  | .bf16 => 9 | .f32 => 10 | .e4m3 => 11 | .e5m2 => 12 | .e2m1 => 13 | .n4x => 14 | .mx8 => 15 | .mx8b => 16
  | .mx4 => 17 | .mxi8 => 18 | .b8 => 19 | .b16 => 20 | .b32 => 21 | .b64 => 22 | .e8m0 => 23

/-- The format that a code names; 24 to 31 are reserved (R19). -/
def Fmt.ofCode (c : BitVec 5) : Option Fmt := Fmt.all[c.toNat]?

def Rnd.code : Rnd → BitVec 3
  | .rn => 0 | .rz => 1 | .ru => 2 | .rd => 3 | .ro => 4 | .rna => 5

def Rnd.ofCode (c : BitVec 3) : Option Rnd := [Rnd.rn, .rz, .ru, .rd, .ro, .rna][c.toNat]?

def Cmp.code : Cmp → BitVec 3
  | .eq => 0 | .ne => 1 | .lt => 2 | .le => 3 | .gt => 4 | .ge => 5

def Cmp.ofCode (c : BitVec 3) : Option Cmp := [Cmp.eq, .ne, .lt, .le, .gt, .ge][c.toNat]?

def Disp.code : Disp → BitVec 2
  | .uf => 0 | .ut => 1 | .uo => 2 | .ux => 3

def Disp.ofCode (c : BitVec 2) : Option Disp := [Disp.uf, .ut, .uo, .ux][c.toNat]?

def Scope.code : Scope → BitVec 3
  | .beam => 0 | .cohort => 1 | .core => 2 | .die => 3 | .dev => 4 | .sys => 5

def Scope.ofCode (c : BitVec 3) : Option Scope := [Scope.beam, .cohort, .core, .die, .dev, .sys][c.toNat]?

def LogOp.code : LogOp → BitVec 2
  | .and => 0 | .or => 1 | .xor => 2 | .not => 3

def LogOp.ofCode (c : BitVec 2) : Option LogOp := [LogOp.and, .or, .xor, .not][c.toNat]?

def RedOp.code : RedOp → BitVec 2
  | .add => 0 | .min => 1 | .max => 2

def RedOp.ofCode (c : BitVec 2) : Option RedOp := [RedOp.add, .min, .max][c.toNat]?

def ShMode.code : ShMode → BitVec 2
  | .at => 0 | .off => 1 | .wrap => 2 | .xor => 3

def ShMode.ofCode (c : BitVec 2) : Option ShMode := [ShMode.at, .off, .wrap, .xor][c.toNat]?

def VoteKind.code : VoteKind → BitVec 2
  | .all => 0 | .any => 1 | .uni => 2

def VoteKind.ofCode (c : BitVec 2) : Option VoteKind := [VoteKind.all, .any, .uni][c.toNat]?

def AtomOp.code : AtomOp → BitVec 4
  | .add => 0 | .min => 1 | .max => 2 | .and => 3 | .or => 4 | .xor => 5 | .xchg => 6 | .cas => 7 | .inc => 8
  | .dec => 9

def AtomOp.ofCode (c : BitVec 4) : Option AtomOp :=
  [AtomOp.add, .min, .max, .and, .or, .xor, .xchg, .cas, .inc, .dec][c.toNat]?

def AOrd.code : AOrd → BitVec 2
  | .none => 0 | .acq => 1 | .rel => 2 | .ar => 3

def AOrd.ofCode (c : BitVec 2) : Option AOrd := [AOrd.none, .acq, .rel, .ar][c.toNat]?

def FOrd.code : FOrd → BitVec 2
  | .acq => 0 | .rel => 1 | .ar => 2 | .sc => 3

def FOrd.ofCode (c : BitVec 2) : Option FOrd := [FOrd.acq, .rel, .ar, .sc][c.toNat]?

def GMode.code : GMode → BitVec 2
  | .plain => 0 | .record => 1 | .replay => 2

def GMode.ofCode (c : BitVec 2) : Option GMode := [GMode.plain, .record, .replay][c.toNat]?

def CollKind.code : CollKind → BitVec 2
  | .allreduce => 0 | .redscatter => 1 | .allgather => 2

def CollKind.ofCode (c : BitVec 2) : Option CollKind := [CollKind.allreduce, .redscatter, .allgather][c.toNat]?

/-! ### The fields of the words -/

/-- Up to three instruction words with the length field; a word that the form does not carry is 0 (R107). -/
structure Raw where
  w0 : Word
  w1 : Word
  w2 : Word
  deriving DecidableEq, Repr

def Raw.l (r : Raw) : BitVec 2 := r.w0.extractLsb' 0 2
def Raw.op (r : Raw) : BitVec 8 := r.w0.extractLsb' 2 8
def Raw.m (r : Raw) : BitVec 6 := r.w0.extractLsb' 10 6
def Raw.d (r : Raw) : BitVec 8 := r.w0.extractLsb' 16 8
def Raw.a (r : Raw) : BitVec 8 := r.w0.extractLsb' 24 8
def Raw.hi0 (r : Raw) : BitVec 16 := r.w0.extractLsb' 16 16
def Raw.off22 (r : Raw) : BitVec 22 := r.w0.extractLsb' 10 22

def Raw.b (r : Raw) : BitVec 8 := r.w1.extractLsb' 0 8
def Raw.c (r : Raw) : BitVec 8 := r.w1.extractLsb' 8 8
def Raw.pb (r : Raw) : BitVec 3 := r.w1.extractLsb' 16 3
def Raw.qb (r : Raw) : BitVec 6 := r.w1.extractLsb' 19 6
def Raw.ea (r : Raw) : Bool := r.w1.getLsbD 25
def Raw.eb (r : Raw) : Bool := r.w1.getLsbD 26
def Raw.ec (r : Raw) : Bool := r.w1.getLsbD 27
def Raw.rnd (r : Raw) : BitVec 3 := r.w1.extractLsb' 28 3
def Raw.i (r : Raw) : Bool := r.w1.getLsbD 31
def Raw.lo1 (r : Raw) : BitVec 16 := r.w1.extractLsb' 0 16
def Raw.hi1 (r : Raw) : BitVec 16 := r.w1.extractLsb' 16 16

/-- The fields of word 2 with I = 0 read 0 when word 2 is an immediate (R106). -/
def Raw.v2 (r : Raw) : Word := if r.i then 0 else r.w2

def Raw.pa (r : Raw) : BitVec 3 := r.v2.extractLsb' 0 3
def Raw.qa (r : Raw) : BitVec 6 := r.v2.extractLsb' 3 6
def Raw.pc (r : Raw) : BitVec 3 := r.v2.extractLsb' 9 3
def Raw.qc (r : Raw) : BitVec 6 := r.v2.extractLsb' 12 6
def Raw.ka (r : Raw) : BitVec 2 := r.v2.extractLsb' 18 2
def Raw.kb (r : Raw) : BitVec 2 := r.v2.extractLsb' 20 2
def Raw.kc (r : Raw) : BitVec 2 := r.v2.extractLsb' 22 2
def Raw.z (r : Raw) : BitVec 8 := r.v2.extractLsb' 24 8

/-- Fields of the engine control word ECTL (R252). -/
def Raw.ectlScope (r : Raw) : BitVec 3 := r.w1.extractLsb' 16 3
def Raw.ectlResume (r : Raw) : Bool := r.w1.getLsbD 19
def Raw.ectlCh (r : Raw) : BitVec 3 := r.w1.extractLsb' 20 3
def Raw.ectlZero (r : Raw) : BitVec 8 := r.w1.extractLsb' 23 8

/-- Parts of M. -/
def Raw.ty (r : Raw) : BitVec 4 := r.w0.extractLsb' 10 4
def Raw.m54 (r : Raw) : BitVec 2 := r.w0.extractLsb' 14 2
def Raw.m10 (r : Raw) : BitVec 2 := r.w0.extractLsb' 10 2
def Raw.m42 (r : Raw) : BitVec 3 := r.w0.extractLsb' 12 3
def Raw.m32 (r : Raw) : BitVec 2 := r.w0.extractLsb' 12 2
def Raw.m5 (r : Raw) : Bool := r.w0.getLsbD 15
def Raw.m4 (r : Raw) : Bool := r.w0.getLsbD 14
def Raw.m0 (r : Raw) : Bool := r.w0.getLsbD 10
def Raw.fmt (r : Raw) : BitVec 5 := r.w0.extractLsb' 10 5

/-! ### What an opcode admits -/

/-- What a register field holds: the default kinds of R110, nothing, a selector or control byte, or a special index;
`nine` is the B field of VTOS.lead, where R178 names code 9. -/
inductive FK where
  | none | v | s | c | k | a | m | sel | nine
  deriving DecidableEq, Repr

/-- Layouts of the words. -/
inductive Layout where
  | std | ectl | offset
  deriving DecidableEq, Repr

/-- The form of one opcode: the lengths it allows (values of L), the length its operands need, the kinds of its
fields, which of them name pairs, where an immediate may stand, and the outcome of the checks of its own fields. -/
structure Form where
  lens : List Nat := [0, 1, 2]
  need : Nat := 0
  d    : FK := .none
  a    : FK := .none
  b    : FK := .none
  c    : FK := .none
  dp   : Bool := false
  ap   : Bool := false
  bp   : Bool := false
  cp   : Bool := false
  immA : Bool := false
  immB : Bool := false
  rnd  : Bool := false
  /-- own conditions of codes 1, 4, 5, 7, 8 and 9 that are broken -/
  bad1 : Bool := false
  bad4 : Bool := false
  bad5 : Bool := false
  bad7 : Bool := false
  bad8 : Bool := false
  bad9 : Bool := false
  /-- how words 1 and 2 are laid out: by R105 and R106, by R252, or by R115 to R119 and R145 -/
  lay  : Layout := .std
  deriving DecidableEq, Repr

/-- Type sets of R182 and R217. -/
def tyALL : List Ty := Ty.all
def tyINT : List Ty := [.b32, .s32, .n32, .s64, .n64, .b64, .s16x2, .n16x2, .s8x4, .n8x4]
def tyWHOLE : List Ty := [.b32, .s32, .n32, .s64, .n64, .b64]
def tyBITS : List Ty := [.b32, .b64]
def tyFLT : List Ty := [.f32, .f16x2, .bf16x2]
def tyNoBITS : List Ty := [.s32, .n32, .f32, .f16x2, .bf16x2, .s64, .n64, .s16x2, .n16x2, .s8x4, .n8x4]
def tyUNI : List Ty := [.b32, .s32, .n32, .f32, .s64, .n64, .b64]

/-- Is the code in M[3:0] a type of the set? -/
def Raw.tyIn (r : Raw) (set : List Ty) : Bool :=
  match Ty.ofCode r.ty with
  | some t => set.contains t
  | none => false

/-- Does M[3:0] name a 64-bit type? -/
def Raw.wide (r : Raw) : Bool :=
  match Ty.ofCode r.ty with
  | some t => t.wide
  | none => false

/-- Is the scalar type in M[1:0] one of the set, with M[5] zero (R168)? -/
def Raw.styIn (r : Raw) (set : List STy) : Bool :=
  match STy.ofCode r.m10 with
  | some t => set.contains t && !r.m5
  | none => false

/-- A typed vector form: type set, M[5:4] zero unless `m54` says what it may be. -/
def vecForm (r : Raw) (set : List Ty) (m54ok : Bool) (f : Form) : Form :=
  { f with bad5 := f.bad5 || !r.tyIn set || !m54ok }

/-- Destination and two sources, the second of which an immediate may replace. -/
def bin (r : Raw) (set : List Ty) (rnd : Bool := false) : Form :=
  vecForm r set (r.m54 == 0)
    { need := 1, d := .v, a := .v, b := .v, dp := r.wide, ap := r.wide, bp := r.wide, immB := true, rnd := rnd }

/-- Destination and three sources. -/
def tern (r : Raw) (set : List Ty) (rnd : Bool := false) : Form :=
  { bin r set rnd with c := .v, cp := r.wide }

/-- Destination and one source, which an immediate may replace, where the description names no immediate as well (R114).
DESIGN CHOICE: log entry 65. -/
def una (r : Raw) (set : List Ty) (rnd : Bool := false) : Form :=
  vecForm r set (r.m54 == 0) { d := .v, a := .v, dp := r.wide, ap := r.wide, immA := true, rnd := rnd }

/-- Scalar forms (R168); `opx` says whether M[4:2] is used. -/
def sbin (r : Raw) (set : List STy) (opx : Bool := false) : Form :=
  { need := 1, d := .s, a := .s, b := .s, immB := true, bad5 := !r.styIn set || (!opx && r.m42 != 0) }

def suna (r : Raw) : Form :=
  { d := .s, a := .s, immA := true, bad5 := !r.styIn [.s64, .n64, .b64] || r.m42 != 0 }

def sty3 : List STy := [.s64, .n64, .b64]

/-- One word with D, A scalar registers and M zero. -/
def oneDA (r : Raw) (d a : FK) : Form := { lens := [0], d := d, a := a, bad5 := r.m != 0 }

/-- A comparison selector in C (R190). -/
def Raw.badCmp (r : Raw) : Bool := (Cmp.ofCode (r.c.extractLsb' 0 3)).isNone || r.c.extractLsb' 3 5 != 0

def Raw.cScope (r : Raw) : BitVec 3 := r.c.extractLsb' 0 3
def Raw.cSp (r : Raw) : Bool := r.c.getLsbD 3
def Raw.cHi (r : Raw) : BitVec 4 := r.c.extractLsb' 4 4
def Raw.cDs (r : Raw) : Bool := r.c.getLsbD 7

/-- Control bytes (R218): `sp` allows bit 3, `ds` allows bit 7; the other high bits are zero. -/
def Raw.badCtl (r : Raw) (sp ds : Bool) : Bool :=
  (Scope.ofCode r.cScope).isNone || (!sp && r.cSp) || r.c.extractLsb' 4 3 != 0 || (!ds && r.cDs)

/-- Memory forms: R217 to R219. `d` is the kind of D, `spad` says that one register holds a vector address. -/
def memForm (r : Raw) (set : Option (List Ty)) (modes : List Nat) (d : FK) (spad : Bool) (badc : Bool) : Form :=
  let mode := r.m54.toNat
  { need := if mode = 2 then 1 else 0
    d := d
    a := if mode = 1 then .v else if mode = 3 then .none else .s
    b := if mode = 2 then .v else .none
    c := .sel
    dp := d == .v && r.wide
    ap := mode == 1 && !spad
    immB := mode == 0 || mode == 1
    bad5 := badc || !modes.contains mode || (match set with | some t => !r.tyIn t | none => r.ty != 0)
    bad7 := r.pa != 0 || r.qa != 0 || r.pb != 0 || r.qb != 0
    bad8 := r.ka != 0 || r.kb != 0 }

/-- Types of the atomic operators (R232). -/
def AtomOp.types : AtomOp → List Ty
  | .add => [.s32, .n32, .f32, .f16x2, .bf16x2, .s64, .n64]
  | .min | .max => [.s32, .n32, .f32, .f16x2, .bf16x2, .s64, .n64, .b32, .b64]
  | .and | .or | .xor => tyBITS
  | .xchg => tyALL
  | .cas => tyUNI
  | .inc | .dec => [.n32, .n64]

/-- Atomic forms (R218, R232). -/
def atomForm (r : Raw) (uni spad : Bool) : Form :=
  let op := AtomOp.ofCode r.cHi
  { need := 1
    d := if uni then .s else if r.cSp then .none else .v
    a := if uni then .s else .v
    b := if uni then .s else .v
    c := .sel
    dp := !uni && r.wide
    ap := !spad
    bp := !uni && r.wide
    immB := op != some .cas
    bad5 := (Scope.ofCode r.cScope).isNone ||
      (match op with | some o => !r.tyIn o.types || (uni && !r.tyIn tyUNI) | none => true)
    bad7 := r.pa != 0 || r.qa != 0 || r.pb != 0 || r.qb != 0 }

/-- Engine forms (R252). -/
def ectlForm (r : Raw) (f : Form) : Form :=
  { f with lay := .ectl
           bad5 := f.bad5 || r.ectlZero != 0 || (Scope.ofCode r.ectlScope).isNone }

/-- Is the code a format of the set? -/
def fmtIn (c : BitVec 5) (set : List Fmt) : Bool :=
  match Fmt.ofCode c with
  | some f => set.contains f
  | none => false

/-- Special registers (R162): index, 64 bits wide?, one value per lane?, writable?, privileged? -/
structure Special where
  idx  : Nat
  wide : Bool
  lane : Bool
  rw   : Bool
  pl1  : Bool
  deriving DecidableEq, Repr

def specials : List Special :=
  [⟨0x00, false, true, false, false⟩, ⟨0x01, false, true, false, false⟩, ⟨0x02, false, false, false, false⟩,
   ⟨0x03, false, false, false, false⟩, ⟨0x04, false, false, false, false⟩, ⟨0x05, false, false, false, false⟩,
   ⟨0x06, false, false, false, false⟩, ⟨0x07, false, false, false, false⟩, ⟨0x08, false, false, false, false⟩,
   ⟨0x09, true, false, false, false⟩, ⟨0x0A, true, false, false, false⟩, ⟨0x0B, false, false, true, false⟩,
   ⟨0x0C, false, false, true, false⟩, ⟨0x0D, false, true, true, false⟩, ⟨0x0E, false, false, true, false⟩,
   ⟨0x0F, false, false, false, false⟩, ⟨0x10, true, false, false, false⟩, ⟨0x11, true, false, false, false⟩,
   ⟨0x12, true, false, false, false⟩, ⟨0x13, true, false, false, false⟩, ⟨0x14, true, false, false, false⟩,
   ⟨0x15, true, false, false, false⟩, ⟨0x16, true, false, false, false⟩, ⟨0x17, true, false, false, false⟩,
   ⟨0x18, true, false, false, false⟩, ⟨0x19, true, false, false, false⟩, ⟨0x1A, false, false, false, false⟩] ++
  [⟨0x20, true, false, true, true⟩, ⟨0x21, false, false, true, true⟩, ⟨0x22, true, false, true, true⟩,
   ⟨0x23, false, false, true, true⟩, ⟨0x24, false, false, true, true⟩, ⟨0x25, false, false, true, true⟩,
   ⟨0x30, false, false, true, true⟩]

def special? (i : Reg) : Option Special := specials.find? (fun e => e.idx == i.toNat)

/-- Pack formats of R204. -/
def packFmts : List Fmt := [.n8, .s8, .n16, .s16, .f16, .bf16, .e4m3, .e5m2, .e2m1]

/-- Element bits of a pack format. -/
def Fmt.packBits : Fmt → Nat
  | .n16 | .s16 | .f16 | .bf16 => 16
  | .e2m1 => 4
  | _ => 8

/-- Format pairs of MMA (R287). -/
def mmaPair (fa fb : Fmt) : Bool :=
  match fa, fb with
  | .f16, .f16 | .bf16, .bf16 | .s8, .s8 | .e2m1, .e2m1 | .n4x, .n4x => true
  | .e4m3, .e4m3 | .e4m3, .e5m2 | .e5m2, .e4m3 | .e5m2, .e5m2 => true
  | _, _ => false

/-- Do two format codes name a pair of MMA? -/
def mmaFmts (a b : BitVec 5) : Bool :=
  match Fmt.ofCode a with
  | none => false
  | some fa =>
    match Fmt.ofCode b with
    | none => false
    | some fb => mmaPair fa fb

/-- The block-scaled formats with a scale array. -/
def mxFmts : List Fmt := [.mx8, .mx8b, .mx4, .mxi8]

/-- Every bit of the longer forms that is no field of A is zero; `a` says that A is a register operand.
DEDUCED: log entry 57. -/
def Raw.plainTail (r : Raw) (a immA : Bool) : Bool :=
  (r.w1 &&& (if a then 0x7DFFFFFF else 0x7FFFFFFF)) == 0 && (immA || !r.i) &&
  (r.i || (r.w2 &&& (if a then 0xFFF3FE00 else 0xFFFFFFFF)) == 0)

/-- Control, beam and group instructions and the special registers (chapter 07). DEDUCED: log entry 57. -/
def Op.formCtl (o : Op) (r : Raw) : Form :=
  match o with
  | .hdr => { lens := [1], lay := .offset }
  | .bra | .call => { lens := [0], lay := .offset }
  | .bdec => { lens := [0], lay := .offset }
  | .trap | .brk => { lens := [0], lay := .offset, bad5 := r.m != 0 }
  | .brs => { lens := [1], lay := .offset, bad5 := r.m5 || (r.m.extractLsb' 3 2 != 2 && r.hi1 != 0) }
  | .brv => { lens := [1], lay := .offset, bad5 := r.m54 != 2 && r.hi1 != 0 }
  | .jmpi => { a := .s, bad5 := r.m != 0 || !r.plainTail true false }
  | .ret | .nop => { bad5 := r.m != 0 || !r.plainTail false false }
  | .exit | .yield => { lens := [0], bad5 := r.m != 0 }
  | .eret => { lens := [0], bad5 := r.m.extractLsb' 1 5 != 0 }
  | .delay => { lens := [0, 2], a := .s, immA := true, bad5 := r.m != 0 || !r.plainTail true true }
  | .chunk => { oneDA r .s .s with bad4 := r.d.getLsbD 0 }
  | .bsplit | .bfuse | .gnew => oneDA r .s .none
  | .gjoin | .gleave => oneDA r .s .s
  | .gets =>
      let sp := special? r.a
      { d := if r.m0 then .v else .s
        a := .sel
        dp := r.m0 && (match sp with | some e => e.wide | none => false)
        bad5 := sp.isNone || r.m.extractLsb' 1 5 != 0 || !r.plainTail false false }
  | .sets =>
      let sp := special? r.d
      { d := .sel
        a := if r.m0 then .v else .s
        ap := r.m0 && (match sp with | some e => e.wide | none => false)
        bad5 := (match sp with | some e => !e.rw | none => true) || r.m.extractLsb' 1 5 != 0 ||
          !r.plainTail true false }
  | .launch => { lens := [1, 2], d := .s, a := .s, b := .s, bad5 := r.m != 0 }
  | _ => {}

/-- Scalar-side instructions (chapter 07). -/
def Op.formScalar (o : Op) (r : Raw) : Form :=
  match o with
  | .smov | .spopc | .sclz => suna r
  | .smovi => { lens := [2], d := .s, a := .s, immB := true, bad1 := !r.i, bad5 := !r.styIn [.b64] || r.m42 != 0 }
  | .sadd | .ssub | .smul | .smin | .smax | .sshl | .sbfe => sbin r sty3
  | .smad => { sbin r sty3 with c := .s }
  | .sand | .sor | .sxor => sbin r [.b64]
  | .sshr => sbin r [.n64, .b64]
  | .ssar => sbin r [.s64, .b64]
  | .scmp => { sbin r sty3 true with d := .k, bad5 := !r.styIn sty3 || (Cmp.ofCode r.m42).isNone }
  | .ssel => { sbin r sty3 with c := .k }
  | .slea => sbin r [.s64, .n64] true
  | .sfill => sbin r [.s64, .n64]
  | .klog =>
      { need := if r.m10 == 3 then 0 else 1, d := .k, a := .k, b := if r.m10 == 3 then .none else .k
        bad5 := r.m.extractLsb' 2 4 != 0 }
  | .stov => vecForm r tyALL (r.m54 == 0) { d := .v, a := .s, dp := r.wide }
  | .vtos =>
      vecForm r tyALL (!r.m5)
        { need := if r.m4 then 1 else 0, d := .s, a := .v, b := if r.m4 then .s else .nine, ap := r.wide
          immB := r.m4 }
  | _ => {}

/-- Integer instructions (R186 to R193). DEDUCED: log entry 57. -/
def Op.formInt (o : Op) (r : Raw) : Form :=
  match o with
  | .iadd | .isub | .imul | .imin | .imax => bin r tyINT
  | .imad => tern r tyINT
  | .imulh => bin r [.b32, .s32, .n32]
  | .iabs => una r [.s32, .s64, .s16x2, .s8x4]
  | .ineg => una r [.s32, .s64, .s16x2, .s8x4, .b32, .b64]
  | .and | .or | .xor => bin r tyBITS
  | .not => una r tyBITS
  | .shl | .bfe => { bin r tyWHOLE with bp := false }
  | .shr => { bin r [.n32, .n64, .b32, .b64] with bp := false }
  | .sar => { bin r [.s32, .s64, .b32, .b64] with bp := false }
  | .bfi => { tern r tyBITS with bp := false }
  | .popc | .clz => { una r tyWHOLE with dp := false }
  | .icmp => { bin r tyWHOLE with d := .c, c := .sel, dp := false, bad5 := (bin r tyWHOLE).bad5 || r.badCmp }
  | .lea =>
      { bin r [.s32, .n32, .s64, .n64] with
        c := .sel, dp := true, ap := true
        bad5 := (bin r [.s32, .n32, .s64, .n64]).bad5 || r.c.extractLsb' 3 5 != 0 }
  | .idot4 => tern r [.s8x4, .n8x4]
  | .mov =>
      if r.m54 == 1 then
        vecForm r tyALL true
          { need := 1, d := .v, a := .v, b := .v, dp := r.wide, ap := r.wide
            bad7 := r.pa != 0 || r.qa != 0, bad8 := r.ka != 0 || r.kb != 0 }
      else una r tyALL
  | _ => {}

/-- Floating-point, special-function and conversion instructions (R194 to R205). -/
def Op.formFloat (o : Op) (r : Raw) : Form :=
  match o with
  | .fadd | .fsub | .fmul => bin r tyFLT true
  | .ffma => tern r tyFLT true
  | .fmin | .fmax => bin r tyFLT
  | .fcmp => { bin r [.f32] with d := .c, c := .sel, bad5 := (bin r [.f32]).bad5 || r.badCmp }
  | .frcp | .fsqrt => una r tyFLT true
  | .frsq | .fexp2 | .flog2 | .fsin | .fcos | .ftanh => una r tyFLT
  | .fclass => una r [.f32]
  | .fdot2 => tern r [.f16x2, .bf16x2] true
  | .pfma => { tern r [.f16x2, .bf16x2] true with dp := true, cp := true }
  | .padd => { bin r [.f16x2, .bf16x2] true with dp := true, bp := true }
  | .fscale => bin r tyFLT true
  | .cvt =>
      let st := Ty.ofCode (r.c.extractLsb' 0 4)
      let whole := [Ty.b32, .s32, .n32, .f32, .s64, .n64, .b64]
      { una r whole true with
        need := 1, c := .sel
        ap := (match st with | some t => t.wide | none => false)
        bad5 := (una r whole true).bad5 || r.c.extractLsb' 4 4 != 0 ||
          (match st with | some t => !whole.contains t | none => true) }
  | .pack =>
      let f := Fmt.ofCode (r.c.extractLsb' 0 5)
      let base := vecForm r [.f32, .s32, .n32] true
        { need := 1, d := .v, a := .v, b := .v, c := .sel, immB := true, rnd := true }
      { base with
        bad5 := base.bad5 || r.c.extractLsb' 5 2 != 0 ||
          (match f with
           | some g => !packFmts.contains g || (r.c.getLsbD 7 && g != .e5m2) ||
               r.m54.toNat ≥ 16 / g.packBits
           | none => true) }
  | .unpk =>
      let f := Fmt.ofCode (r.c.extractLsb' 0 5)
      let base := una r [.f32, .s32, .n32] true
      { base with
        need := 1, c := .sel
        bad5 := base.bad5 ||
          (match f with
           | some g => !(packFmts.contains g || g == .e8m0) || (r.c.extractLsb' 5 3).toNat ≥ 32 / g.packBits
           | none => true) }
  | .pres => { una r tyNoBITS with d := .c, dp := false }
  | _ => {}

/-- Absence, truth and cross-lane instructions (R206 to R215). RED, SCAN and MATCH accept an immediate, of which their
descriptions say nothing (R114). DESIGN CHOICE: log entry 65. -/
def Op.formLane (o : Op) (r : Raw) : Form :=
  match o with
  | .frnd => una r tyFLT true
  | .fill => bin r tyNoBITS
  | .mkab => { bin r tyNoBITS with b := .c, bp := false, immB := false }
  | .tsel => { bin r tyALL with c := .c }
  | .tlog =>
      { need := if r.m10 == 3 then 0 else 1, d := .c, a := .c, b := if r.m10 == 3 then .none else .c
        bad5 := r.m.extractLsb' 2 4 != 0 }
  | .tval => { una r tyNoBITS with a := .c, ap := false, immA := false }
  | .shfl =>
      vecForm r tyALL true { need := 1, d := .v, a := .v, b := .v, dp := r.wide, ap := r.wide, immB := true }
  | .prm => { tern r tyALL with cp := false }
  | .vote => { d := .k, a := .c, bad5 := r.m.extractLsb' 2 4 != 0 || (VoteKind.ofCode r.m10).isNone }
  | .ballot => { d := .s, a := .c, bad5 := r.m != 0 }
  | .red | .scan =>
      let packed := !r.tyIn tyUNI
      let base := vecForm r tyALL ((RedOp.ofCode r.m54).isSome)
        { need := 1, d := .v, a := .v, c := .sel, dp := r.wide || r.c.getLsbD 0, ap := r.wide, immA := true }
      { base with bad5 := base.bad5 || r.c.extractLsb' 1 7 != 0 || (r.c.getLsbD 0 && packed) }
  | .laneMatch =>
      vecForm r tyALL (!r.m5) { d := if r.m4 then .k else .v, a := .v, ap := r.wide, immA := true }
  | .elect => { d := .c, a := if r.m0 then .c else .none, bad5 := r.m.extractLsb' 1 5 != 0 }
  | _ => {}

/-- Memory, atomic, message and fence instructions (chapter 09). -/
def Op.formMem (o : Op) (r : Raw) : Form :=
  match o with
  | .tlook | .tins | .tdel | .mpoll | .mpop => oneDA r .s .s
  | .ld => memForm r (some tyALL) [0, 1, 2] .v false (r.badCtl false false)
  | .lds => memForm r (some tyALL) [0, 1, 2] .v true (r.badCtl false false)
  | .lda => memForm r (some tyALL) [0, 1, 2] .v r.cSp (r.badCtl true false)
  | .ldu => memForm r (some tyUNI) [0] .s false (r.badCtl true false)
  | .st => memForm r (some tyALL) [0, 1, 2] (if r.cDs then .s else .v) false (r.badCtl false true)
  | .sts => memForm r (some tyALL) [0, 1, 2] (if r.cDs then .s else .v) true (r.badCtl false true)
  | .stl => memForm r (some tyALL) [0, 1, 2] (if r.cDs then .s else .v) r.cSp (r.badCtl true true)
  | .stu => memForm r (some tyUNI) [0] .s false (r.badCtl true false)
  | .atom => atomForm r false false
  | .atoms => atomForm r false true
  | .atomu => atomForm r true true
  | .fence =>
      { bad5 := r.m5 || (Scope.ofCode r.m42).isNone || !r.plainTail false false }
  | .waitv =>
      { need := 1, d := .s, a := .s, b := .s, c := .sel
        bad5 := !r.tyIn tyUNI || r.m5 || (Scope.ofCode r.cScope).isNone || r.cDs ||
          (Cmp.ofCode (r.c.extractLsb' 4 3)).isNone
        bad7 := r.pa != 0 || r.qa != 0 || r.pb != 0 || r.qb != 0
        bad8 := r.ka != 0 || r.kb != 0 }
  | .cflush | .cinv => memForm r none [0, 1, 2, 3] .none false (r.badCtl false false)
  | .pref => memForm r none [0, 1, 2] .none false (r.badCtl false false)
  | .msend | .mwait => { lens := [1], d := .s, a := .s, b := .s, bad5 := r.m != 0 }
  | _ => {}

/-- Copy, glint and barrier instructions (chapter 10). -/
def Op.formCopy (o : Op) (r : Raw) : Form :=
  match o with
  | .gdone => { lens := [0], bad5 := r.m != 0 }
  | .bwait | .btest => oneDA r .s .s
  | .barv | .binv => oneDA r .none .s
  | .cpy =>
      if r.ectlResume then
        ectlForm r { lens := [1], a := .s, bad5 := r.m != 0 || r.ectlCh != 0 }
      else ectlForm r { lens := [1], d := .s, a := .s, b := .s, bad5 := r.m5 }
  | .cpycsr =>
      ectlForm r
        { lens := [1], d := .s, a := .s, b := .s, c := .s, bad4 := r.d.getLsbD 0
          bad5 := r.m5 || r.ectlResume || r.b.toNat > 60 ||
            !fmtIn r.fmt [.n8, .s8, .n16, .s16, .n32, .s32, .n64, .s64, .f16, .bf16, .f32, .e4m3, .e5m2, .e2m1] }
  | .gread =>
      if r.ectlResume then
        ectlForm r { lens := [1], a := .s, bad5 := r.m != 0 || r.ectlCh != 0 }
      else
        ectlForm r
          { lens := [2], d := .s, a := .s, c := .s, immB := true
            bad1 := !r.i, bad5 := r.ectlCh != 0 || r.m54 == 3 }
  | .binit => { lens := [1, 2], a := .s, b := .s, immB := true, bad5 := r.m.extractLsb' 1 5 != 0, bad9 := r.m0 && r.i }
  | .bexp =>
      { lens := [1, 2], a := .s, b := .s, c := if r.m0 then .s else .none, immB := true
        bad5 := r.m.extractLsb' 1 5 != 0 }
  | _ => {}

/-- Condenser, matrix and collective instructions (chapter 10). -/
def Op.formMatrix (o : Op) (r : Raw) : Form :=
  match o with
  | .cnd =>
      ectlForm r
        { lens := [1], a := .s, b := .s
          bad5 := r.m5 || r.ectlResume || r.ectlCh != 0 || r.b.toNat > 60 ||
            !fmtIn r.fmt [.f32, .f16, .bf16, .e4m3, .e5m2, .s8] }
  | .coll =>
      ectlForm r
        { lens := [1], a := .s, b := .s, c := .sel
          bad5 := r.ectlResume || r.ectlCh != 0 || (CollKind.ofCode r.m10).isNone || (RedOp.ofCode r.m32).isNone ||
            (r.m10 == 2 && r.m32 != 0) || r.c.extractLsb' 5 3 != 0 ||
            !fmtIn (r.c.extractLsb' 0 5) [.f32, .bf16, .f16, .s32, .n32] }
  | .mma =>
      { need := 1, d := .a, a := .v, b := .s, c := .sel
        bad5 := r.m5 || r.c.extractLsb' 5 3 != 0 ||
          !mmaFmts r.fmt (r.c.extractLsb' 0 5) }
  | .mmas =>
      { need := 1, d := .a, a := .v, b := .s, c := .v
        bad5 := !fmtIn r.fmt mxFmts || (r.m5 && !fmtIn r.fmt [.mx8, .mx8b]) }
  | .mclr => oneDA r .a .none
  | .mlda =>
      { need := if r.m4 then 1 else 0, d := .a, a := .v, c := if r.m4 then .v else .none
        bad5 := r.m5 || !r.tyIn [.f32, .s32] }
  | .msta =>
      let mx := fmtIn r.fmt mxFmts
      { need := if mx || r.m5 then 1 else 0
        d := .s, a := .a, b := if mx then .s else .none, c := if r.m5 then .s else .none
        rnd := !fmtIn r.fmt [.f32, .s32]
        bad5 := !fmtIn r.fmt [.f32, .s32, .f16, .bf16, .mx8, .mx8b, .mx4, .mxi8] }
  | .chwait => { a := .s, bad5 := r.m.extractLsb' 3 3 != 0 || !r.plainTail false false }
  | .mapld => { lens := [0], d := .m, a := .s, bad5 := r.m.extractLsb' 1 5 != 0 }
  | _ => {}

/-- Trace, trap and system instructions (chapters 12, 17 and 20). -/
def Op.formSys (o : Op) (r : Raw) : Form :=
  match o with
  | .clock => oneDA r .s .none
  | .tmark | .sample | .ctxsv | .ctxld => oneDA r .none .s
  | .tlbinv =>
      { lens := [0], a := if r.m10 == 0 then .s else .none
        bad5 := r.m5 || (Scope.ofCode r.m42).isNone || r.m10.toNat ≥ 2 }
  | .pgset =>
      { lens := [1], d := .s, a := .s, b := .s
        bad5 := r.m.extractLsb' 2 4 != 0 || (r.w1 &&& 0x7FFFFF00) != 0 }
  | .fwcall => { lens := [0], d := .s, a := .s }
  | _ => {}

/-- The form of each opcode, read from its description. -/
def Op.form (o : Op) (r : Raw) : Form :=
  let n := o.code.toNat
  if n < 0x18 then o.formCtl r
  else if n < 0x30 then o.formScalar r
  else if n < 0x48 then o.formInt r
  else if n < 0x60 then o.formFloat r
  else if n < 0x70 then o.formLane r
  else if n < 0x90 then o.formMem r
  else if n < 0x9A then o.formCopy r
  else if n < 0xB0 then o.formMatrix r
  else o.formSys r

/-! ### The ENCODING checks -/

/-- The kind of an operand after KA, KB or KC (R110). -/
def FK.over (k : FK) (kk : BitVec 2) : FK := if kk == 1 && k == .v then .s else k

/-- Code 3: a field above the range of its kind. -/
def FK.badRange (k : FK) (x : Reg) : Bool :=
  match k with
  | .s => x.toNat > 63
  | .c | .a | .m => x.toNat > 15
  | .k => x.toNat > 7
  | _ => false

def FK.isReg (k : FK) : Bool := k == .v || k == .s

/-- Code 7: a Prism on a field that is no v source, or a parameter outside R113. -/
def badPrism (k : FK) (p : BitVec 3) (q : BitVec 6) : Bool :=
  if p == 0 && q == 0 then false
  else k != .v || p == 7 || ((p == 0 || p == 4) && q != 0) || (p == 5 && q.toNat > 6)

/-- Code 8: a kind outside R110; `k` is the default kind. -/
def badKind (k : FK) (kk : BitVec 2) : Bool := kk.toNat ≥ 2 || (kk == 1 && !k.isReg)

/-- The ENCODING code that the words of a known opcode raise, lowest first (R125, R126). -/
def Form.fault (f : Form) (r : Raw) : Option Nat :=
  let std := f.lay == .std
  let imm := std && r.i
  let ka := if imm && f.immA then FK.nine else if std then f.a.over r.ka else f.a
  let kb := if (imm || f.lay == .ectl) && f.immB then FK.nine else if std then f.b.over r.kb else f.b
  let kc := if std then f.c.over r.kc else f.c
  if !f.lens.contains r.l.toNat || r.l.toNat < f.need || f.bad1 || (f.lay != .offset && r.i && r.l.toNat < 2)
  then some 1
  else if f.lay != .offset &&
      (f.d.badRange r.d || ka.badRange r.a || kb.badRange r.b || kc.badRange r.c) then some 3
  else if f.bad4 || (f.dp && f.d == .v && r.d.getLsbD 0) || (f.ap && ka == .v && r.a.getLsbD 0) ||
      (f.bp && kb == .v && r.b.getLsbD 0) || (f.cp && kc == .v && r.c.getLsbD 0) then some 4
  else if f.bad5 || (f.lay != .offset &&
      ((f.d == .none && r.d != 0) || (ka == .none && r.a != 0) || (kb == .none && r.b != 0) ||
       (kc == .none && r.c != 0))) then some 5
  else if std && ((r.ea && !ka.isReg) || (r.eb && !kb.isReg) || (r.ec && !kc.isReg) || r.z != 0) then some 5
  else if std && (r.rnd.toNat ≥ 6 || (r.rnd != 0 && !f.rnd)) then some 6
  else if f.bad7 || (std && (badPrism ka r.pa r.qa || badPrism kb r.pb r.qb || badPrism kc r.pc r.qc)) then some 7
  else if f.bad8 || (std && (badKind f.a r.ka || badKind f.b r.kb || badKind f.c r.kc)) then some 8
  else if f.bad9 || (imm && !(f.immA || f.immB)) || (ka == .nine && r.a != 0) || (imm && r.b != 0) ||
      (kb == .nine && r.b != 0) then some 9
  else none

/-- The ENCODING code of the words, or none when they are an instruction. -/
def encodingFault (r : Raw) : Option Nat :=
  match Op.ofCode r.op with
  | none => if r.l == 3 then some 1 else some 2
  | some o => (o.form r).fault r

/-! ### The decoder -/

/-- The pattern that PA, PB or PC names with its parameter (R113). -/
def Prism.ofCode (p : BitVec 3) (q : BitVec 6) : Prism :=
  if p == 1 then .rot q else if p == 2 then .bc q else if p == 3 then .bfly q
  else if p == 4 then .mir else if p == 5 then .mirg q else if p == 6 then .rots q else .id

def Raw.va (r : Raw) : VArg := if r.ka == 1 then .s r.a r.ea else .v r.a (Prism.ofCode r.pa r.qa) r.ea
def Raw.vb (r : Raw) : VArg := if r.kb == 1 then .s r.b r.eb else .v r.b (Prism.ofCode r.pb r.qb) r.eb
def Raw.vc (r : Raw) : VArg := if r.kc == 1 then .s r.c r.ec else .v r.c (Prism.ofCode r.pc r.qc) r.ec
def Raw.vaI (r : Raw) : VArgI := if r.i then .imm r.w2 else .reg r.va
def Raw.vbI (r : Raw) : VArgI := if r.i then .imm r.w2 else .reg r.vb
def Raw.sa (r : Raw) : SArg := ⟨r.a, r.ea⟩
def Raw.sb (r : Raw) : SArg := ⟨r.b, r.eb⟩
def Raw.sc (r : Raw) : SArg := ⟨r.c, r.ec⟩
def Raw.saI (r : Raw) : SArgI := if r.i then .imm r.w2 else .reg r.sa
def Raw.sbI (r : Raw) : SArgI := if r.i then .imm r.w2 else .reg r.sb
def Raw.oa (r : Raw) : VOp := ⟨r.a, Prism.ofCode r.pa r.qa, r.ea⟩
def Raw.ob (r : Raw) : VOp := ⟨r.b, Prism.ofCode r.pb r.qb, r.eb⟩
def Raw.oc (r : Raw) : VOp := ⟨r.c, Prism.ofCode r.pc r.qc, r.ec⟩
def Raw.disp (r : Raw) : Option Word := if r.i then some r.w2 else none

/-- The memory operand (R219). -/
def Raw.mem (r : Raw) : MemArg :=
  if r.m54 == 0 then .uni r.sa r.disp
  else if r.m54 == 1 then .vec r.a r.ea r.disp
  else if r.m54 == 2 then .idx r.sa r.b r.eb
  else .all

def Raw.src (r : Raw) : StSrc := if r.cDs then .s r.d else .v r.d

/-- The header fields (R119). -/
def Raw.header (r : Raw) : Header :=
  { len := r.hi0, rsv := r.w0.extractLsb' 14 2, x := r.w0.getLsbD 13, g := r.w0.getLsbD 12, k := r.w0.getLsbD 11
    y := r.w0.getLsbD 10, rcv := r.w1.extractLsb' 14 18, pf := r.w1.extractLsb' 12 2
    livea := r.w1.extractLsb' 8 4, livev := r.w1.extractLsb' 0 8 }

def Op.buildCtl (o : Op) (r : Raw) : Option Instr :=
  match o with
  | .hdr => some (.hdr r.header)
  | .bra => some (.bra r.off22)
  | .brs => (Disp.ofCode (r.m.extractLsb' 3 2)).map (fun u => .brs u (r.m.extractLsb' 0 3) r.hi0 r.lo1 r.hi1)
  | .brv => (Disp.ofCode r.m54).map (fun u => .brv u r.ty r.hi0 r.lo1 r.hi1)
  | .jmpi => some (.jmpi r.sa)
  | .call => some (.call r.off22)
  | .ret => some .ret
  | .exit => some .exit
  | .nop => some .nop
  | .yield => some .yield
  | .brk => some (.brk r.hi0)
  | .trap => some (.trap r.hi0)
  | .eret => some (.eret r.m0)
  | .bdec => some (.bdec r.m r.hi0)
  | .delay => some (.delay r.saI)
  | .chunk => some (.chunk r.d r.a)
  | .bsplit => some (.bsplit r.d)
  | .bfuse => some (.bfuse r.d)
  | .gjoin => some (.gjoin r.d r.a)
  | .gleave => some (.gleave r.d r.a)
  | .gnew => some (.gnew r.d)
  | .gets => some (.gets (if r.m0 then .v r.d else .s r.d) r.a)
  | .sets => some (.sets r.d (if r.m0 then .v r.va else .s r.sa))
  | .launch => some (.launch r.d r.sa r.sb)
  | _ => none

def Op.buildScalar (o : Op) (r : Raw) : Option Instr :=
  let t := STy.ofCode r.m10
  match o with
  | .smov => t.map (fun t => .smov t r.d r.saI)
  | .smovi => some (.smovi r.d r.sa r.w2)
  | .sadd => t.map (fun t => .sadd t r.d r.sa r.sbI)
  | .ssub => t.map (fun t => .ssub t r.d r.sa r.sbI)
  | .smul => t.map (fun t => .smul t r.d r.sa r.sbI)
  | .smad => t.map (fun t => .smad t r.d r.sa r.sbI r.sc)
  | .sand => some (.sand r.d r.sa r.sbI)
  | .sor => some (.sor r.d r.sa r.sbI)
  | .sxor => some (.sxor r.d r.sa r.sbI)
  | .sshl => t.map (fun t => .sshl t r.d r.sa r.sbI)
  | .sshr => t.map (fun t => .sshr t r.d r.sa r.sbI)
  | .ssar => t.map (fun t => .ssar t r.d r.sa r.sbI)
  | .smin => t.map (fun t => .smin t r.d r.sa r.sbI)
  | .smax => t.map (fun t => .smax t r.d r.sa r.sbI)
  | .scmp => t.bind (fun t => (Cmp.ofCode r.m42).map (fun c => .scmp c t r.d r.sa r.sbI))
  | .ssel => t.map (fun t => .ssel t r.d r.sa r.sbI r.c)
  | .slea => t.map (fun t => .slea r.m42 t r.d r.sa r.sbI)
  | .sbfe => t.map (fun t => .sbfe t r.d r.sa r.sbI)
  | .spopc => t.map (fun t => .spopc t r.d r.saI)
  | .sclz => t.map (fun t => .sclz t r.d r.saI)
  | .klog => (LogOp.ofCode r.m10).map (fun op => .klog op r.d r.a r.b)
  | .stov => (Ty.ofCode r.ty).map (fun t => .stov t r.d r.sa)
  | .vtos => (Ty.ofCode r.ty).map (fun t => .vtos t r.d r.va (if r.m4 then .lane r.sbI else .lead))
  | .sfill => t.map (fun t => .sfill t r.d r.sa r.sbI)
  | _ => none

def Op.buildInt (o : Op) (r : Raw) : Option Instr :=
  (Ty.ofCode r.ty).bind fun t =>
  match o with
  | .iadd => some (.iadd t r.d r.va r.vbI)
  | .isub => some (.isub t r.d r.va r.vbI)
  | .imul => some (.imul t r.d r.va r.vbI)
  | .imad => some (.imad t r.d r.va r.vbI r.vc)
  | .imulh => some (.imulh t r.d r.va r.vbI)
  | .imin => some (.imin t r.d r.va r.vbI)
  | .imax => some (.imax t r.d r.va r.vbI)
  | .iabs => some (.iabs t r.d r.vaI)
  | .ineg => some (.ineg t r.d r.vaI)
  | .and => some (.and t r.d r.va r.vbI)
  | .or => some (.or t r.d r.va r.vbI)
  | .xor => some (.xor t r.d r.va r.vbI)
  | .not => some (.not t r.d r.vaI)
  | .shl => some (.shl t r.d r.va r.vbI)
  | .shr => some (.shr t r.d r.va r.vbI)
  | .sar => some (.sar t r.d r.va r.vbI)
  | .bfe => some (.bfe t r.d r.va r.vbI)
  | .bfi => some (.bfi t r.d r.va r.vbI r.vc)
  | .popc => some (.popc t r.d r.vaI)
  | .clz => some (.clz t r.d r.vaI)
  | .icmp => (Cmp.ofCode (r.c.extractLsb' 0 3)).map (fun c => .icmp c t r.d r.va r.vbI)
  | .lea => some (.lea (r.c.extractLsb' 0 3) t r.d r.va r.vbI)
  | .idot4 => some (.idot4 t r.d r.va r.vbI r.vc)
  | .mov => some (.mov t r.d (if r.m54 == 1 then .idx r.a r.ea r.ob else .plain r.vaI))
  | _ => none

def Op.buildFloat (o : Op) (r : Raw) : Option Instr :=
  (Ty.ofCode r.ty).bind fun t => (Rnd.ofCode r.rnd).bind fun rd =>
  match o with
  | .fadd => some (.fadd t rd r.d r.va r.vbI)
  | .fsub => some (.fsub t rd r.d r.va r.vbI)
  | .fmul => some (.fmul t rd r.d r.va r.vbI)
  | .ffma => some (.ffma t rd r.d r.va r.vbI r.vc)
  | .fmin => some (.fmin t r.d r.va r.vbI)
  | .fmax => some (.fmax t r.d r.va r.vbI)
  | .fcmp => (Cmp.ofCode (r.c.extractLsb' 0 3)).map (fun c => .fcmp c r.d r.va r.vbI)
  | .frcp => some (.frcp t rd r.d r.vaI)
  | .frsq => some (.frsq t r.d r.vaI)
  | .fsqrt => some (.fsqrt t rd r.d r.vaI)
  | .fexp2 => some (.fexp2 t r.d r.vaI)
  | .flog2 => some (.flog2 t r.d r.vaI)
  | .fsin => some (.fsin t r.d r.vaI)
  | .fcos => some (.fcos t r.d r.vaI)
  | .ftanh => some (.ftanh t r.d r.vaI)
  | .fclass => some (.fclass r.d r.vaI)
  | .fdot2 => some (.fdot2 t rd r.d r.va r.vbI r.vc)
  | .pfma => some (.pfma t rd r.d r.va r.vbI r.vc)
  | .padd => some (.padd t rd r.d r.va r.vbI)
  | .fscale => some (.fscale t rd r.d r.va r.vbI)
  | .cvt => (Ty.ofCode (r.c.extractLsb' 0 4)).map (fun st => .cvt t st rd r.d r.vaI)
  | .pack => (Fmt.ofCode (r.c.extractLsb' 0 5)).map (fun f => .pack f (r.c.getLsbD 7) t r.m54 rd r.d r.va r.vbI)
  | .unpk => (Fmt.ofCode (r.c.extractLsb' 0 5)).map (fun f => .unpk t f (r.c.extractLsb' 5 3) rd r.d r.vaI)
  | .pres => some (.pres t r.d r.vaI)
  | _ => none

def Op.buildLane (o : Op) (r : Raw) : Option Instr :=
  match o with
  | .tlog => (LogOp.ofCode r.m10).map (fun op => .tlog op r.d r.a r.b)
  | .vote => (VoteKind.ofCode r.m10).map (fun k => .vote k r.d r.a)
  | .ballot => some (.ballot r.d r.a)
  | .elect => some (.elect r.d (if r.m0 then some r.a else none))
  | o =>
    (Ty.ofCode r.ty).bind fun t =>
    match o with
    | .fill => some (.fill t r.d r.va r.vbI)
    | .mkab => some (.mkab t r.d r.va r.b)
    | .tsel => some (.tsel t r.d r.va r.vbI r.c)
    | .tval => some (.tval t r.d r.a)
    | .frnd => (Rnd.ofCode r.rnd).map (fun rd => .frnd t rd r.d r.vaI)
    | .shfl => (ShMode.ofCode r.m54).map (fun m => .shfl m t r.d r.va r.vbI)
    | .prm => some (.prm t r.d r.va r.vbI r.vc)
    | .red => (RedOp.ofCode r.m54).map (fun op => .red op (r.c.getLsbD 0) t r.d r.vaI)
    | .scan => (RedOp.ofCode r.m54).map (fun op => .scan op (r.c.getLsbD 0) t r.d r.vaI)
    | .laneMatch => some (.laneMatch r.m4 t r.d r.vaI)
    | _ => none

def Op.buildMem (o : Op) (r : Raw) : Option Instr :=
  match o with
  | .fence => (FOrd.ofCode r.m10).bind (fun f => (Scope.ofCode r.m42).map (fun s => .fence f s))
  | .tlook => some (.tlook r.d r.a)
  | .tins => some (.tins r.d r.a)
  | .tdel => some (.tdel r.d r.a)
  | .msend => some (.msend r.d r.sa r.sb)
  | .mpoll => some (.mpoll r.d r.a)
  | .mwait => some (.mwait r.d r.sa r.sb)
  | .mpop => some (.mpop r.d r.a)
  | o =>
    (Scope.ofCode r.cScope).bind fun sc =>
    match o with
    | .cflush => some (.cflush sc r.mem)
    | .cinv => some (.cinv sc r.mem)
    | .pref => some (.pref sc r.mem)
    | o =>
      (Ty.ofCode r.ty).bind fun t =>
      match o with
      | .ld => some (.ld sc t r.d r.mem)
      | .st => some (.st sc t r.src r.mem)
      | .lds => some (.lds sc t r.d r.mem)
      | .sts => some (.sts sc t r.src r.mem)
      | .ldu => some (.ldu r.cSp sc t r.d r.mem)
      | .stu => some (.stu r.cSp sc t r.d r.mem)
      | .lda => some (.lda r.cSp sc t r.d r.mem)
      | .stl => some (.stl r.cSp sc t r.src r.mem)
      | .atom =>
        (AtomOp.ofCode r.cHi).bind fun op => (AOrd.ofCode r.m54).map fun a =>
          .atom op a r.cSp sc t r.d r.va r.vbI
      | .atoms =>
        (AtomOp.ofCode r.cHi).bind fun op => (AOrd.ofCode r.m54).map fun a =>
          .atoms op a r.cSp sc t r.d r.va r.vbI
      | .atomu =>
        (AtomOp.ofCode r.cHi).bind fun op => (AOrd.ofCode r.m54).map fun a =>
          .atomu op a r.cSp sc t r.d r.sa r.sbI
      | .waitv => (Cmp.ofCode (r.c.extractLsb' 4 3)).map (fun c => .waitv c r.m4 r.cSp sc t r.d r.sa r.sb)
      | _ => none

def Op.buildCopy (o : Op) (r : Raw) : Option Instr :=
  match o with
  | .gdone => some .gdone
  | .binit => some (.binit r.m0 r.sa r.sbI)
  | .barv => some (.barv r.a)
  | .bexp => some (.bexp r.sa r.sbI (if r.m0 then some r.sc else none))
  | .bwait => some (.bwait r.d r.a)
  | .binv => some (.binv r.a)
  | .btest => some (.btest r.d r.a)
  | o =>
    (Scope.ofCode r.ectlScope).bind fun sc =>
    match o with
    | .cpy => some (if r.ectlResume then .cpyResume sc r.a else .cpy r.m4 r.ty r.ectlCh sc r.d r.a r.b)
    | .cpycsr => (Fmt.ofCode r.fmt).map (fun f => .cpycsr f r.ectlCh sc r.d r.a r.b r.c)
    | .gread =>
      if r.ectlResume then some (.greadResume sc r.a)
      else (GMode.ofCode r.m54).map (fun g => .gread g r.ty sc r.d r.a r.c r.w2)
    | _ => none

def Op.buildMatrix (o : Op) (r : Raw) : Option Instr :=
  match o with
  | .mma =>
    (Fmt.ofCode r.fmt).bind fun fa => (Fmt.ofCode (r.c.extractLsb' 0 5)).map fun fb => .mma fa fb r.d r.va r.sb
  | .mmas => (Fmt.ofCode r.fmt).map (fun fa => .mmas fa r.m5 r.d r.va r.sb r.vc)
  | .mclr => some (.mclr r.d)
  | .mlda => (Ty.ofCode r.ty).map (fun t => .mlda t r.d r.va (if r.m4 then some r.vc else none))
  | .msta =>
    (Fmt.ofCode r.fmt).bind fun f => (Rnd.ofCode r.rnd).map fun rd =>
      .msta f rd r.d r.a (if fmtIn r.fmt mxFmts then some r.sb else none) (if r.m5 then some r.sc else none)
  | .chwait => some (.chwait (r.m.extractLsb' 0 3) r.a)
  | .mapld => some (.mapld r.d r.m0 r.a)
  | .cnd =>
    (Fmt.ofCode r.fmt).bind fun f => (Scope.ofCode r.ectlScope).map fun sc => .cnd f sc r.a r.b
  | .coll =>
    (Fmt.ofCode (r.c.extractLsb' 0 5)).bind fun f => (Scope.ofCode r.ectlScope).bind fun sc =>
    (CollKind.ofCode r.m10).bind fun k => (RedOp.ofCode r.m32).map fun op =>
      .coll k op r.m4 r.m5 f sc r.a r.b
  | _ => none

def Op.buildSys (o : Op) (r : Raw) : Option Instr :=
  match o with
  | .tmark => some (.tmark r.a)
  | .sample => some (.sample r.a)
  | .tlbinv => (Scope.ofCode r.m42).map (fun s => .tlbinv s (if r.m10 == 0 then some r.a else none))
  | .ctxsv => some (.ctxsv r.a)
  | .ctxld => some (.ctxld r.a)
  | .pgset => some (.pgset r.d r.a r.b r.m10)
  | .fwcall => some (.fwcall r.d r.a r.m)
  | .clock => some (.clock r.d)
  | _ => none

/-- The instruction of words that pass the checks. -/
def Op.build (o : Op) (r : Raw) : Option Instr :=
  let n := o.code.toNat
  if n < 0x18 then o.buildCtl r
  else if n < 0x30 then o.buildScalar r
  else if n < 0x48 then o.buildInt r
  else if n < 0x60 then o.buildFloat r
  else if n < 0x70 then o.buildLane r
  else if n < 0x90 then o.buildMem r
  else if n < 0x9A then o.buildCopy r
  else if n < 0xB0 then o.buildMatrix r
  else o.buildSys r

/-- What the words are: an instruction, or the ENCODING code they raise. -/
inductive Decoded where
  | ok (i : Instr)
  | bad (code : Nat)
  deriving DecidableEq, Repr

/-- The decoder, total on any three words. -/
def decodeRaw (r : Raw) : Decoded :=
  match encodingFault r with
  | some c => .bad c
  | none =>
    match (Op.ofCode r.op).bind (fun o => o.build r) with
    | some i => .ok i
    | none => .bad 2

/-- The number of words of the form (R104); L = 0b11 names no form and takes one word. -/
def Raw.words (r : Raw) : Nat := if r.l == 3 then 1 else r.l.toNat + 1

/-- A little-endian word of a byte list (R3), zero past its end. -/
def leWord (bs : List Byte) (k : Nat) : Word :=
  (bs.getD (4 * k + 3) 0 ++ bs.getD (4 * k + 2) 0 ++ bs.getD (4 * k + 1) 0 ++ bs.getD (4 * k) 0 : BitVec 32)

/-- The words that begin a byte list; words that the form does not carry read 0. -/
def Raw.ofBytes (bs : List Byte) : Raw :=
  let w0 := leWord bs 0
  let l := w0.extractLsb' 0 2
  ⟨w0, if l == 1 || l == 2 then leWord bs 1 else 0, if l == 2 then leWord bs 2 else 0⟩

/-- The decoder on any bytes: the instruction and the bytes after it, or the code by which it is refused. -/
def decodeBytes (bs : List Byte) : Decoded × List Byte :=
  let r := Raw.ofBytes bs
  if bs.length < 4 * r.words then (.bad 1, bs) else (decodeRaw r, bs.drop (4 * r.words))

/-- The bytes of a word, lowest address first. -/
def wordBytes (w : Word) : List Byte :=
  [w.extractLsb' 0 8, w.extractLsb' 8 8, w.extractLsb' 16 8, w.extractLsb' 24 8]

/-- The words that the opcode table numbers as one number: bit 0 is the least significant bit of the first word, and
the bits above `nbits` are 0. -/
def tableBytes (nbits w : Nat) : List Byte :=
  let x := w % 2 ^ nbits
  wordBytes (BitVec.ofNat 32 x) ++ wordBytes (BitVec.ofNat 32 (x / 2 ^ 32)) ++
    wordBytes (BitVec.ofNat 32 (x / 2 ^ 64))

/-- What the decoder reads from a word of the opcode table. -/
def decodeTableWord (nbits w : Nat) : Option Instr :=
  match (decodeBytes (tableBytes nbits w)).1 with
  | .ok i => some i
  | .bad _ => none

/-! ### The encoder -/

/-- One encoded source: register, Prism pattern and parameter, policy and kind. -/
structure Fld where
  r : Reg := 0
  p : BitVec 3 := 0
  q : BitVec 6 := 0
  e : Bool := false
  k : BitVec 2 := 0
  deriving DecidableEq, Repr

def Prism.code : Prism → BitVec 3
  | .id => 0 | .rot _ => 1 | .bc _ => 2 | .bfly _ => 3 | .mir => 4 | .mirg _ => 5 | .rots _ => 6

def Prism.q : Prism → BitVec 6
  | .id | .mir => 0
  | .rot q | .bc q | .bfly q | .mirg q | .rots q => q

def VArg.fld : VArg → Fld
  | .v r p e => { r := r, p := p.code, q := p.q, e := e }
  | .s r e => { r := r, e := e, k := 1 }

def VArgI.fld : VArgI → Fld
  | .reg a => a.fld
  | .imm _ => {}

def VArgI.immediate : VArgI → Option Word
  | .reg _ => none
  | .imm w => some w

def SArg.fld (a : SArg) : Fld := { r := a.r, e := a.e }

def SArgI.fld : SArgI → Fld
  | .reg a => a.fld
  | .imm _ => {}

def SArgI.immediate : SArgI → Option Word
  | .reg _ => none
  | .imm w => some w

def VOp.fld (a : VOp) : Fld := { r := a.r, p := a.p.code, q := a.p.q, e := a.e }

def Reg.fld (r : Reg) : Fld := { r := r }

def b1 (b : Bool) : BitVec 1 := BitVec.ofBool b

/-- Does the operand need word 2 (R107): a Prism on A or C, or a kind? -/
def Fld.needs2 (f : Fld) : Bool := f.p != 0 || f.q != 0 || f.k != 0

/-- The words of an instruction in the layout of R104 to R106, in the shortest form that its fields allow (R132);
`min` is the length that the use of B or C asks for. -/
def asm (o : Op) (min : Nat) (m : BitVec 6) (d : Reg) (a b c : Fld) (rnd : BitVec 3) (imm : Option Word) : Raw :=
  let three := imm.isSome || a.needs2 || c.needs2 || b.k != 0
  let two := min ≥ 1 || b.r != 0 || c.r != 0 || a.e || b.e || c.e || b.p != 0 || b.q != 0 || rnd != 0
  let l : BitVec 2 := if three then 2 else if two then 1 else 0
  { w0 := (a.r ++ d ++ m ++ o.code ++ l : BitVec 32)
    w1 := (b1 imm.isSome ++ rnd ++ b1 c.e ++ b1 b.e ++ b1 a.e ++ b.q ++ b.p ++ c.r ++ b.r : BitVec 32)
    w2 := match imm with
      | some w => w
      | none => ((0 : BitVec 8) ++ c.k ++ b.k ++ a.k ++ c.q ++ c.p ++ a.q ++ a.p : BitVec 32) }

/-- The words of an engine instruction (R252). -/
def asmE (o : Op) (m : BitVec 6) (d a b c : Reg) (ch : BitVec 3) (resume : Bool) (sc : Scope) (imm : Option Word) :
    Raw :=
  let l : BitVec 2 := if imm.isSome then 2 else 1
  { w0 := (a ++ d ++ m ++ o.code ++ l : BitVec 32)
    w1 := (b1 imm.isSome ++ (0 : BitVec 8) ++ ch ++ b1 resume ++ sc.code ++ c ++ b : BitVec 32)
    w2 := imm.getD 0 }

/-- One-word forms. -/
def asm1 (o : Op) (m : BitVec 6) (d a : Reg) : Raw := ⟨(a ++ d ++ m ++ o.code ++ (0 : BitVec 2) : BitVec 32), 0, 0⟩

def asmOff (o : Op) (off : BitVec 22) : Raw := ⟨(off ++ o.code ++ (0 : BitVec 2) : BitVec 32), 0, 0⟩

def asmHi (o : Op) (m : BitVec 6) (hi : BitVec 16) : Raw := ⟨(hi ++ m ++ o.code ++ (0 : BitVec 2) : BitVec 32), 0, 0⟩

def asmBr (o : Op) (m : BitVec 6) (t f n : BitVec 16) : Raw :=
  ⟨(t ++ m ++ o.code ++ (1 : BitVec 2) : BitVec 32), (n ++ f : BitVec 32), 0⟩

def encodeHeader (h : Header) : Raw :=
  ⟨(h.len ++ h.rsv ++ b1 h.x ++ b1 h.g ++ b1 h.k ++ b1 h.y ++ Op.hdr.code ++ (1 : BitVec 2) : BitVec 32),
   (h.rcv ++ h.pf ++ h.livea ++ h.livev : BitVec 32), 0⟩

/-- M of a typed vector instruction. -/
def mTy (hi : BitVec 2) (t : Ty) : BitVec 6 := (hi ++ t.code : BitVec 6)

/-- M of a scalar instruction. -/
def mS (opx : BitVec 3) (t : STy) : BitVec 6 := (b1 false ++ opx ++ t.code : BitVec 6)

def encB (o : Op) (m : BitVec 6) (d : Reg) (a : VArg) (b : VArgI) (c : Fld := {}) (rnd : BitVec 3 := 0) : Raw :=
  asm o 1 m d a.fld b.fld c rnd b.immediate

def encU (o : Op) (m : BitVec 6) (d : Reg) (a : VArgI) (c : Fld := {}) (rnd : BitVec 3 := 0) (min : Nat := 0) : Raw :=
  asm o min m d a.fld {} c rnd a.immediate

def encS (o : Op) (m : BitVec 6) (d : Reg) (a : SArg) (b : SArgI) (c : Fld := {}) : Raw :=
  asm o 1 m d a.fld b.fld c 0 b.immediate

def MemArg.mode : MemArg → BitVec 2
  | .uni .. => 0 | .vec .. => 1 | .idx .. => 2 | .all => 3

def MemArg.aFld : MemArg → Fld
  | .uni a _ => a.fld
  | .vec a e _ => { r := a, e := e }
  | .idx a _ _ => a.fld
  | .all => {}

def MemArg.bFld : MemArg → Fld
  | .idx _ b e => { r := b, e := e }
  | _ => {}

def MemArg.immediate : MemArg → Option Word
  | .uni _ d => d
  | .vec _ _ d => d
  | _ => none

def MemArg.min : MemArg → Nat
  | .idx .. => 1
  | _ => 0

/-- The control byte (R218). -/
def ctl (hi : BitVec 4) (b3 : Bool) (sc : Scope) : Reg := (hi ++ b1 b3 ++ sc.code : BitVec 8)

def encM (o : Op) (t : BitVec 4) (d : Reg) (m : MemArg) (c : Reg) : Raw :=
  asm o m.min (m.mode ++ t : BitVec 6) d m.aFld m.bFld { r := c } 0 m.immediate

def StSrc.reg : StSrc → Reg
  | .v r | .s r => r

def StSrc.hi : StSrc → BitVec 4
  | .v _ => 0
  | .s _ => 8

def encodeCtl : Instr → Option Raw
  | .hdr h => some (encodeHeader h)
  | .bra off => some (asmOff .bra off)
  | .brs u k t f n => some (asmBr .brs (b1 false ++ u.code ++ k : BitVec 6) t f n)
  | .brv u c t f n => some (asmBr .brv (u.code ++ c : BitVec 6) t f n)
  | .jmpi a => some (asm .jmpi 0 0 0 a.fld {} {} 0 none)
  | .call off => some (asmOff .call off)
  | .ret => some (asm1 .ret 0 0 0)
  | .exit => some (asm1 .exit 0 0 0)
  | .nop => some (asm1 .nop 0 0 0)
  | .yield => some (asm1 .yield 0 0 0)
  | .brk tag => some (asmHi .brk 0 tag)
  | .trap c => some (asmHi .trap 0 c)
  | .eret s => some (asm1 .eret ((0 : BitVec 5) ++ b1 s : BitVec 6) 0 0)
  | .bdec n off => some (asmHi .bdec n off)
  | .delay a =>
    some (match a with
      | .reg s => if s.e then { asm .delay 0 0 0 s.fld {} {} 0 none with
                                  w0 := (s.r ++ (0 : Reg) ++ (0 : BitVec 6) ++ Op.delay.code ++ (2 : BitVec 2) : BitVec 32) }
                  else asm1 .delay 0 0 s.r
      | .imm w => asm .delay 0 0 0 {} {} {} 0 (some w))
  | .chunk d a => some (asm1 .chunk 0 d a)
  | .bsplit d => some (asm1 .bsplit 0 d 0)
  | .bfuse d => some (asm1 .bfuse 0 d 0)
  | .gjoin d a => some (asm1 .gjoin 0 d a)
  | .gleave d a => some (asm1 .gleave 0 d a)
  | .gnew d => some (asm1 .gnew 0 d 0)
  | .gets d sp => some (match d with | .v r => asm1 .gets 1 r sp | .s r => asm1 .gets 0 r sp)
  | .sets sp a =>
    some (match a with
      | .v x => asm .sets 0 1 sp x.fld {} {} 0 none
      | .s x => asm .sets 0 0 sp x.fld {} {} 0 none)
  | .launch d a b => some (asm .launch 1 0 d a.fld b.fld {} 0 none)
  | _ => none

def encodeScalar : Instr → Option Raw
  | .smov t d a => some (asm .smov 0 (mS 0 t) d a.fld {} {} 0 a.immediate)
  | .smovi d a w => some (asm .smovi 1 (mS 0 .b64) d a.fld {} {} 0 (some w))
  | .sadd t d a b => some (encS .sadd (mS 0 t) d a b)
  | .ssub t d a b => some (encS .ssub (mS 0 t) d a b)
  | .smul t d a b => some (encS .smul (mS 0 t) d a b)
  | .smad t d a b c => some (encS .smad (mS 0 t) d a b c.fld)
  | .sand d a b => some (encS .sand (mS 0 .b64) d a b)
  | .sor d a b => some (encS .sor (mS 0 .b64) d a b)
  | .sxor d a b => some (encS .sxor (mS 0 .b64) d a b)
  | .sshl t d a b => some (encS .sshl (mS 0 t) d a b)
  | .sshr t d a b => some (encS .sshr (mS 0 t) d a b)
  | .ssar t d a b => some (encS .ssar (mS 0 t) d a b)
  | .smin t d a b => some (encS .smin (mS 0 t) d a b)
  | .smax t d a b => some (encS .smax (mS 0 t) d a b)
  | .scmp c t d a b => some (encS .scmp (mS c.code t) d a b)
  | .ssel t d a b k => some (encS .ssel (mS 0 t) d a b k.fld)
  | .slea sh t d a b => some (encS .slea (mS sh t) d a b)
  | .sbfe t d a b => some (encS .sbfe (mS 0 t) d a b)
  | .spopc t d a => some (asm .spopc 0 (mS 0 t) d a.fld {} {} 0 a.immediate)
  | .sclz t d a => some (asm .sclz 0 (mS 0 t) d a.fld {} {} 0 a.immediate)
  | .klog op d a b =>
    some (asm .klog (if op = .not then 0 else 1) ((0 : BitVec 4) ++ op.code : BitVec 6) d a.fld b.fld {} 0 none)
  | .stov t d a => some (asm .stov 0 (mTy 0 t) d a.fld {} {} 0 none)
  | .vtos t d a l =>
    some (match l with
      | .lead => asm .vtos 0 (mTy 0 t) d a.fld {} {} 0 none
      | .lane b => asm .vtos 1 (mTy 1 t) d a.fld b.fld {} 0 b.immediate)
  | .sfill t d a b => some (encS .sfill (mS 0 t) d a b)
  | _ => none

def encodeInt : Instr → Option Raw
  | .iadd t d a b => some (encB .iadd (mTy 0 t) d a b)
  | .isub t d a b => some (encB .isub (mTy 0 t) d a b)
  | .imul t d a b => some (encB .imul (mTy 0 t) d a b)
  | .imad t d a b c => some (encB .imad (mTy 0 t) d a b c.fld)
  | .imulh t d a b => some (encB .imulh (mTy 0 t) d a b)
  | .imin t d a b => some (encB .imin (mTy 0 t) d a b)
  | .imax t d a b => some (encB .imax (mTy 0 t) d a b)
  | .iabs t d a => some (encU .iabs (mTy 0 t) d a)
  | .ineg t d a => some (encU .ineg (mTy 0 t) d a)
  | .and t d a b => some (encB .and (mTy 0 t) d a b)
  | .or t d a b => some (encB .or (mTy 0 t) d a b)
  | .xor t d a b => some (encB .xor (mTy 0 t) d a b)
  | .not t d a => some (encU .not (mTy 0 t) d a)
  | .shl t d a b => some (encB .shl (mTy 0 t) d a b)
  | .shr t d a b => some (encB .shr (mTy 0 t) d a b)
  | .sar t d a b => some (encB .sar (mTy 0 t) d a b)
  | .bfe t d a b => some (encB .bfe (mTy 0 t) d a b)
  | .bfi t d a b c => some (encB .bfi (mTy 0 t) d a b c.fld)
  | .popc t d a => some (encU .popc (mTy 0 t) d a)
  | .clz t d a => some (encU .clz (mTy 0 t) d a)
  | .icmp c t d a b => some (encB .icmp (mTy 0 t) d a b { r := ((0 : BitVec 5) ++ c.code : BitVec 8) })
  | .lea sh t d a b => some (encB .lea (mTy 0 t) d a b { r := ((0 : BitVec 5) ++ sh : BitVec 8) })
  | .idot4 t d a b c => some (encB .idot4 (mTy 0 t) d a b c.fld)
  | .mov t d a =>
    some (match a with
      | .plain x => encU .mov (mTy 0 t) d x
      | .idx x ea b => asm .mov 1 (mTy 1 t) d { r := x, e := ea } b.fld {} 0 none)
  | _ => none

def encodeFloat : Instr → Option Raw
  | .fadd t r d a b => some (encB .fadd (mTy 0 t) d a b {} r.code)
  | .fsub t r d a b => some (encB .fsub (mTy 0 t) d a b {} r.code)
  | .fmul t r d a b => some (encB .fmul (mTy 0 t) d a b {} r.code)
  | .ffma t r d a b c => some (encB .ffma (mTy 0 t) d a b c.fld r.code)
  | .fmin t d a b => some (encB .fmin (mTy 0 t) d a b)
  | .fmax t d a b => some (encB .fmax (mTy 0 t) d a b)
  | .fcmp c d a b => some (encB .fcmp (mTy 0 .f32) d a b { r := ((0 : BitVec 5) ++ c.code : BitVec 8) })
  | .frcp t r d a => some (encU .frcp (mTy 0 t) d a {} r.code)
  | .frsq t d a => some (encU .frsq (mTy 0 t) d a)
  | .fsqrt t r d a => some (encU .fsqrt (mTy 0 t) d a {} r.code)
  | .fexp2 t d a => some (encU .fexp2 (mTy 0 t) d a)
  | .flog2 t d a => some (encU .flog2 (mTy 0 t) d a)
  | .fsin t d a => some (encU .fsin (mTy 0 t) d a)
  | .fcos t d a => some (encU .fcos (mTy 0 t) d a)
  | .ftanh t d a => some (encU .ftanh (mTy 0 t) d a)
  | .fclass d a => some (encU .fclass (mTy 0 .f32) d a)
  | .fdot2 t r d a b c => some (encB .fdot2 (mTy 0 t) d a b c.fld r.code)
  | .pfma t r d a b c => some (encB .pfma (mTy 0 t) d a b c.fld r.code)
  | .padd t r d a b => some (encB .padd (mTy 0 t) d a b {} r.code)
  | .fscale t r d a b => some (encB .fscale (mTy 0 t) d a b {} r.code)
  | .cvt dt st r d a => some (encU .cvt (mTy 0 dt) d a { r := ((0 : BitVec 4) ++ st.code : BitVec 8) } r.code 1)
  | .pack f sat t p r d a b =>
    some (encB .pack (mTy p t) d a b { r := (b1 sat ++ (0 : BitVec 2) ++ f.code : BitVec 8) } r.code)
  | .unpk t f e r d a => some (encU .unpk (mTy 0 t) d a { r := (e ++ f.code : BitVec 8) } r.code 1)
  | .pres t d a => some (encU .pres (mTy 0 t) d a)
  | _ => none

def encodeLane : Instr → Option Raw
  | .fill t d a b => some (encB .fill (mTy 0 t) d a b)
  | .mkab t d a c => some (asm .mkab 1 (mTy 0 t) d a.fld c.fld {} 0 none)
  | .tsel t d a b c => some (encB .tsel (mTy 0 t) d a b c.fld)
  | .tlog op d a b =>
    some (asm .tlog (if op = .not then 0 else 1) ((0 : BitVec 4) ++ op.code : BitVec 6) d a.fld b.fld {} 0 none)
  | .tval t d a => some (asm .tval 0 (mTy 0 t) d a.fld {} {} 0 none)
  | .frnd t r d a => some (encU .frnd (mTy 0 t) d a {} r.code)
  | .shfl m t d a b => some (encB .shfl (mTy m.code t) d a b)
  | .prm t d a b c => some (encB .prm (mTy 0 t) d a b c.fld)
  | .vote k d a => some (asm .vote 0 ((0 : BitVec 4) ++ k.code : BitVec 6) d a.fld {} {} 0 none)
  | .ballot d a => some (asm .ballot 0 0 d a.fld {} {} 0 none)
  | .red op cnt t d a => some (encU .red (mTy op.code t) d a { r := ((0 : BitVec 7) ++ b1 cnt : BitVec 8) } 0 1)
  | .scan op cnt t d a => some (encU .scan (mTy op.code t) d a { r := ((0 : BitVec 7) ++ b1 cnt : BitVec 8) } 0 1)
  | .laneMatch all t d a => some (encU .laneMatch (mTy ((0 : BitVec 1) ++ b1 all : BitVec 2) t) d a)
  | .elect d a =>
    some (match a with
      | some c => asm .elect 0 1 d c.fld {} {} 0 none
      | none => asm .elect 0 0 d {} {} {} 0 none)
  | _ => none

def encodeMem : Instr → Option Raw
  | .ld sc t d m => some (encM .ld t.code d m (ctl 0 false sc))
  | .st sc t x m => some (encM .st t.code x.reg m (ctl x.hi false sc))
  | .lds sc t d m => some (encM .lds t.code d m (ctl 0 false sc))
  | .sts sc t x m => some (encM .sts t.code x.reg m (ctl x.hi false sc))
  | .ldu sp sc t d m => some (encM .ldu t.code d m (ctl 0 sp sc))
  | .stu sp sc t d m => some (encM .stu t.code d m (ctl 0 sp sc))
  | .lda sp sc t d m => some (encM .lda t.code d m (ctl 0 sp sc))
  | .stl sp sc t x m => some (encM .stl t.code x.reg m (ctl x.hi sp sc))
  | .atom op o nr sc t d a b => some (encB .atom (mTy o.code t) d a b { r := ctl op.code nr sc })
  | .atoms op o nr sc t d a b => some (encB .atoms (mTy o.code t) d a b { r := ctl op.code nr sc })
  | .atomu op o sp sc t d a b => some (encS .atomu (mTy o.code t) d a b { r := ctl op.code sp sc })
  | .fence o sc => some (asm1 .fence (b1 false ++ sc.code ++ o.code : BitVec 6) 0 0)
  | .waitv c acq sp sc t d a b =>
    some (asm .waitv 1 (mTy ((0 : BitVec 1) ++ b1 acq : BitVec 2) t) d a.fld b.fld
      { r := ctl ((0 : BitVec 1) ++ c.code : BitVec 4) sp sc } 0 none)
  | .cflush sc m => some (encM .cflush 0 0 m (ctl 0 false sc))
  | .cinv sc m => some (encM .cinv 0 0 m (ctl 0 false sc))
  | .pref sc m => some (encM .pref 0 0 m (ctl 0 false sc))
  | .tlook d a => some (asm1 .tlook 0 d a)
  | .tins d a => some (asm1 .tins 0 d a)
  | .tdel d a => some (asm1 .tdel 0 d a)
  | .msend d a b => some (asm .msend 1 0 d a.fld b.fld {} 0 none)
  | .mpoll d a => some (asm1 .mpoll 0 d a)
  | .mwait d a b => some (asm .mwait 1 0 d a.fld b.fld {} 0 none)
  | .mpop d a => some (asm1 .mpop 0 d a)
  | _ => none

def encodeCopy : Instr → Option Raw
  | .cpy st map ch sc d a b =>
    some (asmE .cpy (b1 false ++ b1 st ++ map : BitVec 6) d a b 0 ch false sc none)
  | .cpyResume sc a => some (asmE .cpy 0 0 a 0 0 0 true sc none)
  | .cpycsr f ch sc d a b c => some (asmE .cpycsr (b1 false ++ f.code : BitVec 6) d a b c ch false sc none)
  | .gread g map sc d a c off => some (asmE .gread (g.code ++ map : BitVec 6) d a 0 c 0 false sc (some off))
  | .greadResume sc a => some (asmE .gread 0 0 a 0 0 0 true sc none)
  | .gdone => some (asm1 .gdone 0 0 0)
  | .binit g a b => some (asm .binit 1 ((0 : BitVec 5) ++ b1 g : BitVec 6) 0 a.fld b.fld {} 0 b.immediate)
  | .barv a => some (asm1 .barv 0 0 a)
  | .bexp a b c =>
    some (match c with
      | some x => asm .bexp 1 1 0 a.fld b.fld x.fld 0 b.immediate
      | none => asm .bexp 1 0 0 a.fld b.fld {} 0 b.immediate)
  | .bwait d a => some (asm1 .bwait 0 d a)
  | .binv a => some (asm1 .binv 0 0 a)
  | .btest d a => some (asm1 .btest 0 d a)
  | _ => none

def encodeMatrix : Instr → Option Raw
  | .cnd f sc a b => some (asmE .cnd (b1 false ++ f.code : BitVec 6) 0 a b 0 0 false sc none)
  | .mma fa fb d a b =>
    some (asm .mma 1 (b1 false ++ fa.code : BitVec 6) d a.fld b.fld { r := ((0 : BitVec 3) ++ fb.code : BitVec 8) } 0 none)
  | .mmas fa mixed d a b c => some (asm .mmas 1 (b1 mixed ++ fa.code : BitVec 6) d a.fld b.fld c.fld 0 none)
  | .mclr d => some (asm1 .mclr 0 d 0)
  | .mlda t d a c =>
    some (match c with
      | some x => asm .mlda 1 (mTy 1 t) d a.fld {} x.fld 0 none
      | none => asm .mlda 0 (mTy 0 t) d a.fld {} {} 0 none)
  | .msta f r d a b c =>
    some (asm .msta (if b.isSome || c.isSome then 1 else 0) (b1 c.isSome ++ f.code : BitVec 6) d a.fld
      (match b with | some x => x.fld | none => {}) (match c with | some x => x.fld | none => {}) r.code none)
  | .coll k op fast cnt f sc a b =>
    some (asmE .coll (b1 cnt ++ b1 fast ++ op.code ++ k.code : BitVec 6) 0 a b
      ((0 : BitVec 3) ++ f.code : BitVec 8) 0 false sc none)
  | .chwait ch a => some (asm1 .chwait ((0 : BitVec 3) ++ ch : BitVec 6) 0 a)
  | .mapld d sp a => some (asm1 .mapld ((0 : BitVec 5) ++ b1 sp : BitVec 6) d a)
  | _ => none

def encodeSys : Instr → Option Raw
  | .tmark a => some (asm1 .tmark 0 0 a)
  | .sample a => some (asm1 .sample 0 0 a)
  | .tlbinv sc a =>
    some (match a with
      | some x => asm1 .tlbinv (b1 false ++ sc.code ++ (0 : BitVec 2) : BitVec 6) 0 x
      | none => asm1 .tlbinv (b1 false ++ sc.code ++ (1 : BitVec 2) : BitVec 6) 0 0)
  | .ctxsv a => some (asm1 .ctxsv 0 0 a)
  | .ctxld a => some (asm1 .ctxld 0 0 a)
  | .pgset d a b lvl => some (asm .pgset 1 ((0 : BitVec 4) ++ lvl : BitVec 6) d a.fld b.fld {} 0 none)
  | .fwcall d a fn => some (asm1 .fwcall fn d a)
  | .clock d => some (asm1 .clock 0 d 0)
  | _ => none

/-- The words of an instruction of a beam; a step of the device has none. -/
def encodeRaw (i : Instr) : Option Raw :=
  ((((((((encodeCtl i).orElse fun _ => encodeScalar i).orElse fun _ => encodeInt i).orElse fun _ =>
    encodeFloat i).orElse fun _ => encodeLane i).orElse fun _ => encodeMem i).orElse fun _ =>
    encodeCopy i).orElse fun _ => encodeMatrix i).orElse fun _ => encodeSys i

/-- The instruction words in program order. -/
def encode (i : Instr) : Option (List Word) :=
  (encodeRaw i).map fun r => [r.w0, r.w1, r.w2].take r.words

end Sys2Proof
end

