-- ==== Sys2Proof/Machine/Num.lean ====
section
/-! DEFINITION. Number formats and arithmetic (chapters 02 and 03): the codes of every format, the exact values they
name, rounding, saturation, comparison, and the element operations of the typed instructions. -/

namespace Sys2Proof

/-- The value of a code: absent, a NaN, an infinity, or (-1)^neg × m × 2^e exactly. -/
inductive Num where
  | absent
  | nan
  | inf (neg : Bool)
  | fin (neg : Bool) (m : Nat) (e : Int)
  deriving DecidableEq, Repr

/-- Flags in the places that `status` gives them (R41). -/
abbrev Flags := BitVec 32
def SAT : Flags := 1
def FMT : Flags := 2
def INV : Flags := 4

/-- A code and the flags that forming it raised. -/
abbrev Coded := Nat × Flags

/-! ### Formats -/

/-- Element bits of a format (R18); n4x counts its nibbles. -/
def Fmt.width : Fmt → Nat
  | .n8 | .s8 | .e4m3 | .e5m2 | .mx8 | .mx8b | .mxi8 | .b8 | .e8m0 => 8
  | .n16 | .s16 | .f16 | .bf16 | .b16 => 16
  | .n32 | .s32 | .f32 | .b32 => 32
  | .n64 | .s64 | .b64 => 64
  | .e2m1 | .n4x | .mx4 => 4

/-- Exponent bits, mantissa bits, bias, and whether the top exponent holds infinities and NaNs (R23). -/
structure FloatFmt where
  eb   : Nat
  mb   : Nat
  bias : Int
  ieee : Bool
  deriving DecidableEq, Repr

def Fmt.float? : Fmt → Option FloatFmt
  | .f32 => some ⟨8, 23, 127, true⟩
  | .f16 => some ⟨5, 10, 15, true⟩
  | .bf16 => some ⟨8, 7, 127, true⟩
  | .e5m2 | .mx8b => some ⟨5, 2, 15, true⟩
  | .e4m3 | .mx8 => some ⟨4, 3, 7, false⟩
  | .e2m1 | .mx4 => some ⟨2, 1, 1, false⟩
  | _ => none

/-- Is the format a raw bit format (R27)? -/
def Fmt.raw : Fmt → Bool
  | .b8 | .b16 | .b32 | .b64 => true
  | _ => false

/-- Is the format a signed integer format; mxi8 elements are s8 codes (R30)? -/
def Fmt.signed : Fmt → Bool
  | .s8 | .s16 | .s32 | .s64 | .mxi8 => true
  | _ => false

/-- The absent code (R18); a raw format has none, and its all-ones pattern stands for the bytes that R66 reads. -/
def Fmt.absent : Fmt → Nat
  | .e2m1 | .mx4 => 8
  | .n4x => 7
  | .s8 | .mxi8 => 0x80
  | .s16 => 0x8000
  | .s32 => 0x80000000
  | .s64 => 0x8000000000000000
  | f => 2 ^ Fmt.width f - 1

/-- Is the code the absent code of its format? -/
def Fmt.isAbsent (f : Fmt) (x : Nat) : Bool := !Fmt.raw f && x == Fmt.absent f

/-- The canonical NaN (R23). -/
def Fmt.nan : Fmt → Nat
  | .f32 => 0x7FC00000
  | .f16 => 0x7E00
  | .bf16 => 0x7FC0
  | .e4m3 | .mx8 => 0x7F
  | .e5m2 | .mx8b => 0x7E
  | _ => 0

/-- The largest finite code of a float format, without its sign. -/
def Fmt.maxFinite : Fmt → Nat
  | .f32 => 0x7F7FFFFF
  | .f16 => 0x7BFF
  | .bf16 => 0x7F7F
  | .e4m3 | .mx8 => 0x7E
  | .e5m2 | .mx8b => 0x7B
  | _ => 7

/-- The value of a float code (R23, R24). -/
def floatValue (f : Fmt) (p : FloatFmt) (x : Nat) : Num :=
  let neg := bits x (p.eb + p.mb) 1 == 1
  let ex := bits x p.mb p.eb
  let m := bits x 0 p.mb
  if x == Fmt.absent f then .absent
  else if p.ieee && ex == 2 ^ p.eb - 1 then (if m == 0 then .inf neg else .nan)
  else if !p.ieee && p.eb == 4 && bits x 0 7 == 0x7F then .nan
  else if ex == 0 then .fin neg m (1 - p.bias - p.mb)
  else .fin neg (2 ^ p.mb + m) (ex - p.bias - p.mb)

/-- An integer as an exact value. -/
def Num.ofInt (z : Int) : Num := .fin (decide (z < 0)) z.natAbs 0

/-- The value of a code of any format but n4x; raw codes read as unsigned. An mxi8 element is N × 2^-6 (R30). -/
def Fmt.value (f : Fmt) (x : Nat) : Num :=
  match Fmt.float? f with
  | some p => floatValue f p x
  | none =>
    if Fmt.isAbsent f x then .absent
    else if f == .mxi8 then
      let z := sext 8 x
      .fin (decide (z < 0)) z.natAbs (-6)
    else if f == .e8m0 then .fin false 1 (x - 127)
    else if Fmt.signed f then Num.ofInt (sext (Fmt.width f) x)
    else .fin false (x % 2 ^ Fmt.width f) 0

/-! ### Rounding (R35) -/

/-- The rounded quotient of a magnitude by 2^k, for a value of the given sign. -/
def roundShift (mode : Rnd) (neg : Bool) (m k : Nat) : Nat :=
  let q := m / 2 ^ k
  let r := m % 2 ^ k
  let up : Bool :=
    match mode with
    | .rn => decide (2 * r > 2 ^ k) || (2 * r == 2 ^ k && q % 2 == 1)
    | .rz => false
    | .ru => r != 0 && !neg
    | .rd => r != 0 && neg
    | .ro => r != 0 && q % 2 == 0
    | .rna => r != 0 && decide (2 * r ≥ 2 ^ k)
  if up then q + 1 else q

/-- A magnitude m × 2^e in units of 2^q, rounded. -/
def roundTo (mode : Rnd) (neg : Bool) (m : Nat) (e q : Int) : Nat :=
  if e ≥ q then m * 2 ^ (e - q).toNat else roundShift mode neg m (q - e).toNat

/-- The nearest integer under a mode, as a signed number. -/
def roundInt (mode : Rnd) (neg : Bool) (m : Nat) (e : Int) : Int :=
  let r := roundTo mode neg m e 0
  if neg then -(r : Int) else r

/-- The saturated integer code (R26). -/
def satCode (f : Fmt) (z : Int) : Coded :=
  let n := Fmt.width f
  if Fmt.signed f then
    let hi : Int := 2 ^ (n - 1) - 1
    if z > hi then (hi.toNat, SAT) else if z < -hi then (pattern n (-hi), SAT) else (pattern n z, 0)
  else
    let hi : Int := 2 ^ n - 2
    if z > hi then (hi.toNat, SAT) else if z < 0 then (0, SAT) else (z.toNat, 0)

/-- The sign bit of a float code. -/
def signBit (p : FloatFmt) (neg : Bool) : Nat := if neg then 2 ^ (p.eb + p.mb) else 0

/-- The zero of a float format; e2m1 forms have no negative zero (R25). -/
def zeroCode (p : FloatFmt) (neg : Bool) : Nat := if p.eb == 2 then 0 else signBit p neg

/-- What an overflow leaves (R38, R39); `sat` is the saturating conversion to e5m2. -/
def overflowCode (f : Fmt) (p : FloatFmt) (mode : Rnd) (sat : Bool) (neg : Bool) : Coded :=
  let s := signBit p neg
  let inf := s + (2 ^ p.eb - 1) * 2 ^ p.mb
  let maxf := s + Fmt.maxFinite f
  if !p.ieee || sat then (maxf, SAT)
  else
    match mode with
    | .rn | .rna => (inf, 0)
    | .rz | .ro => (maxf, 0)
    | .ru => (if neg then maxf else inf, 0)
    | .rd => (if neg then inf else maxf, 0)

/-- The code of a finite value in a float format, rounded once. -/
def roundFinite (f : Fmt) (p : FloatFmt) (mode : Rnd) (sat : Bool) (neg : Bool) (m : Nat) (e : Int) : Coded :=
  if m == 0 then (zeroCode p neg, 0)
  else
    let emin := 1 - p.bias
    let lead := (Nat.log2 m : Int) + e
    let q := max lead emin - p.mb
    let r := roundTo mode neg m e q
    if r == 0 then (zeroCode p neg, 0)
    else
      let code :=
        if r < 2 ^ p.mb then r
        else if r < 2 ^ (p.mb + 1) then ((q + p.mb + p.bias).toNat) * 2 ^ p.mb + (r - 2 ^ p.mb)
        else ((q + 1 + p.mb + p.bias).toNat) * 2 ^ p.mb
      if code > Fmt.maxFinite f then overflowCode f p mode sat neg else (signBit p neg + code, 0)

/-- Round(x, f, mode) of R139, by R35 and R38 to R40. -/
def roundNum (f : Fmt) (mode : Rnd) (sat : Bool) (x : Num) : Coded :=
  match Fmt.float? f with
  | some p =>
    match x with
    | .absent => (Fmt.absent f, 0)
    | .nan => if p.eb == 2 then (0, INV) else (Fmt.nan f, 0)
    | .inf neg =>
      if !p.ieee || sat then (signBit p neg + Fmt.maxFinite f, SAT)
      else (signBit p neg + (2 ^ p.eb - 1) * 2 ^ p.mb, 0)
    | .fin neg m e => roundFinite f p mode sat neg m e
  | none =>
    match x with
    | .absent => (Fmt.absent f, 0)
    | .nan => (0, INV)
    | .inf neg =>
      if Fmt.signed f then
        (if neg then pattern (Fmt.width f) (-(2 ^ (Fmt.width f - 1) - 1)) else 2 ^ (Fmt.width f - 1) - 1, SAT)
      else (if neg then 0 else 2 ^ Fmt.width f - 2, SAT)
    | .fin neg m e => satCode f (roundInt mode neg m e)

/-! ### Exact arithmetic -/

/-- The signed mantissa at exponent `e0`, which lies at or below the value's own. -/
def atExp (e0 : Int) : Num → Int
  | .fin neg m e => (if neg then -1 else 1) * (m * 2 ^ (e - e0).toNat : Nat)
  | _ => 0

def Num.expOf : Num → Option Int
  | .fin _ m e => if m == 0 then none else some e
  | _ => none

/-- The exact sum of terms, and whether it is an invalid operation. A zero sum takes the common sign of zero terms,
and otherwise + or, with `rd`, − (R195, R44). -/
def sumExact (rd : Bool) (xs : List Num) : Num × Bool :=
  if xs.any (fun x => x == .absent) then (.absent, false)
  else if xs.any (fun x => x == .nan) then (.nan, false)
  else
    let p := xs.any (fun x => x == .inf false)
    let n := xs.any (fun x => x == .inf true)
    if p && n then (.nan, true)
    else if p then (.inf false, false)
    else if n then (.inf true, false)
    else
      let e0 := (xs.filterMap Num.expOf).foldl min 2000
      let z := (xs.map (atExp e0)).foldl (· + ·) 0
      if z == 0 then
        let allNeg := xs.all (fun x => match x with | .fin neg m _ => neg && m == 0 | _ => false)
        let allPos := xs.all (fun x => match x with | .fin neg m _ => !neg && m == 0 | _ => false)
        (.fin (allNeg || (rd && !allPos)) 0 0, false)
      else (.fin (decide (z < 0)) z.natAbs e0, false)

/-- The exact product, and whether it is an invalid operation. -/
def mulExact (a b : Num) : Num × Bool :=
  match a, b with
  | .absent, _ | _, .absent => (.absent, false)
  | .nan, _ | _, .nan => (.nan, false)
  | .inf s, .inf t => (.inf (s != t), false)
  | .inf s, .fin t m _ => if m == 0 then (.nan, true) else (.inf (s != t), false)
  | .fin t m _, .inf s => if m == 0 then (.nan, true) else (.inf (s != t), false)
  | .fin s m e, .fin t n g => (.fin (s != t) (m * n) (e + g), false)

def Num.neg : Num → Num
  | .inf s => .inf (!s)
  | .fin s m e => .fin (!s) m e
  | x => x

def Num.isNan (x : Num) : Bool := x == .nan

/-- x × 2^n. -/
def Num.scale (n : Int) : Num → Num
  | .fin s m e => .fin s m (e + n)
  | x => x

/-- The order of two present numbers that are no NaN; zeros of either sign are equal. -/
def Num.lt (a b : Num) : Bool :=
  match a, b with
  | .inf s, .inf t => s && !t
  | .inf s, .fin .. => s
  | .fin .., .inf t => !t
  | .fin s m e, .fin t n g =>
    let e0 := min e g
    decide (atExp e0 (.fin s m e) < atExp e0 (.fin t n g))
  | _, _ => false

def Num.eqv (a b : Num) : Bool := !a.lt b && !b.lt a

def Num.isZero : Num → Bool
  | .fin _ m _ => m == 0
  | _ => false

/-- An invalid operation sets INV unless an input was a NaN already (R40). -/
def invFlag (inv : Bool) (xs : List Num) : Flags := if inv && !xs.any Num.isNan then INV else 0

/-! ### Elements of the register types (R20) -/

/-- The element format of a type; b types have none of their own. -/
def Ty.fmt : Ty → Fmt
  | .b32 => .b32 | .b64 => .b64
  | .s32 => .s32 | .n32 => .n32 | .f32 => .f32
  | .f16x2 => .f16 | .bf16x2 => .bf16
  | .s64 => .s64 | .n64 => .n64
  | .s16x2 => .s16 | .n16x2 => .n16 | .s8x4 => .s8 | .n8x4 => .n8

/-- Bits of one operand of the type. -/
def Ty.width (t : Ty) : Nat := if t.wide then 64 else 32

/-- Bytes of one access of the type (R221). -/
def Ty.size (t : Ty) : Nat := if t.wide then 8 else 4

def Ty.ewidth (t : Ty) : Nat := Fmt.width (Ty.fmt t)

/-- Is the type a raw bit type? -/
def Ty.raw (t : Ty) : Bool := Fmt.raw (Ty.fmt t)

/-- The elements of an operand, lowest first. -/
def Ty.elems (t : Ty) (x : Nat) : List Nat :=
  (List.range (Ty.width t / Ty.ewidth t)).map (fun k => bits x (k * Ty.ewidth t) (Ty.ewidth t))

/-- An operand from its elements. -/
def Ty.join (t : Ty) (es : List Nat) : Nat := es.foldr (fun e acc => e + 2 ^ Ty.ewidth t * acc) 0

/-- The operand whose every element is absent; all ones for a b type (R209). -/
def Ty.absent (t : Ty) : Nat := Ty.join t ((Ty.elems t 0).map (fun _ => Fmt.absent (Ty.fmt t)))

def Ty.isAbsent (t : Ty) (x : Nat) : Bool := Fmt.isAbsent (Ty.fmt t) x

def orFlags (fs : List Flags) : Flags := fs.foldl (· ||| ·) 0

/-- Apply an element operation to every element of the operands (R22). -/
def mapElems (t : Ty) (f : List Nat → Coded) (xs : List Nat) : Coded :=
  let rs := (List.range (Ty.width t / Ty.ewidth t)).map fun k =>
    f (xs.map fun x => bits x (k * Ty.ewidth t) (Ty.ewidth t))
  (Ty.join t (rs.map (·.1)), orFlags (rs.map (·.2)))

/-- The number of an integer element: two's complement for s types, unsigned otherwise. -/
def Fmt.int (f : Fmt) (x : Nat) : Int := if Fmt.signed f then sext (Fmt.width f) x else (x % 2 ^ Fmt.width f : Nat)

/-- R187: an exact integer operation on the elements, wrapped for b types, saturated otherwise; absent absorbs. -/
def intElem (f : Fmt) (op : List Int → Int) (xs : List Nat) : Coded :=
  if Fmt.raw f then (pattern (Fmt.width f) (op (xs.map (Fmt.int f))), 0)
  else if xs.any (Fmt.isAbsent f) then (Fmt.absent f, 0)
  else satCode f (op (xs.map (Fmt.int f)))

/-- R195: an exact float operation on the elements, rounded once; absent absorbs. -/
def floatElem (f : Fmt) (mode : Rnd) (op : List Num → Num × Bool) (xs : List Nat) : Coded :=
  let vs := xs.map (Fmt.value f)
  if vs.any (· == .absent) then (Fmt.absent f, 0)
  else
    let (r, inv) := op vs
    let (c, fl) := roundNum f mode false r
    (c, fl ||| invFlag inv vs)

def arg (xs : List Num) (k : Nat) : Num := xs.getD k .absent

def argI (xs : List Int) (k : Nat) : Int := xs.getD k 0

/-- a × b + c exactly. -/
def fmaExact (rd : Bool) (a b c : Num) : Num × Bool :=
  let (p, i) := mulExact a b
  let (s, j) := sumExact rd [p, c]
  (s, i || j)

/-- R196: the smaller or the larger element; −0 lies below +0, and a NaN gives the canonical NaN. -/
def floatPick (f : Fmt) (max : Bool) (x y : Nat) : Nat :=
  let a := Fmt.value f x
  let b := Fmt.value f y
  if a == .absent || b == .absent then Fmt.absent f
  else if a == .nan || b == .nan then Fmt.nan f
  else
    let neg := fun v : Num => match v with | .fin s _ _ => s | .inf s => s | _ => false
    let less := a.lt b || (a.eqv b && neg a && !neg b)
    if less != max then x else y

/-- Smaller or larger of two elements of any format, absent absorbing (R187, R196). -/
def pickElem (f : Fmt) (max : Bool) (x y : Nat) : Nat :=
  if (Fmt.float? f).isSome then floatPick f max x y
  else if Fmt.isAbsent f x || Fmt.isAbsent f y then Fmt.absent f
  else if decide (Fmt.int f x < Fmt.int f y) != max then x else y

/-- The sum of two elements of any format: rounded with rn, saturated, or wrapped (R58, R212). -/
def addElem (f : Fmt) (x y : Nat) : Coded :=
  if (Fmt.float? f).isSome then floatElem f .rn (fun v => sumExact false [arg v 0, arg v 1]) [x, y]
  else intElem f (fun v => argI v 0 + argI v 1) [x, y]

/-- A kept input as a reduction holds it: a NaN is the canonical one (R24, R57). DEDUCED: log entry 39. -/
def keptCode (f : Fmt) (v : Nat) : Nat := if (Fmt.float? f).isSome && Fmt.value f v == .nan then Fmt.nan f else v

/-- One node of a reduction: absent is skipped (R47, R57). -/
def redElem (f : Fmt) (op : RedOp) (x y : Nat) : Coded :=
  if Fmt.isAbsent f x then (keptCode f y, 0)
  else if Fmt.isAbsent f y then (x, 0)
  else
    match op with
    | .add => addElem f x y
    | .min => (pickElem f false x y, 0)
    | .max => (pickElem f true x y, 0)

/-! ### Truth values (R53 to R55) -/

/-- A truth value read from its code: 0b11 reads as UNKNOWN. -/
inductive Tri where
  | f | t | u
  deriving DecidableEq, Repr

def Tri.ofCode (c : BitVec 2) : Tri := if c == 0 then .f else if c == 1 then .t else .u

def Tri.code : Tri → BitVec 2
  | .f => 0 | .t => 1 | .u => 2

def Tri.ofBool (b : Bool) : Tri := if b then .t else .f

def Tri.and : Tri → Tri → Tri
  | .f, _ | _, .f => .f
  | .t, .t => .t
  | _, _ => .u

def Tri.or : Tri → Tri → Tri
  | .t, _ | _, .t => .t
  | .f, .f => .f
  | _, _ => .u

def Tri.not : Tri → Tri
  | .f => .t | .t => .f | .u => .u

def Tri.xor (a b : Tri) : Tri := (a.or b).and (a.and b).not

def LogOp.apply (op : LogOp) (a b : Tri) : Tri :=
  match op with
  | .and => a.and b
  | .or => a.or b
  | .xor => a.xor b
  | .not => a.not

/-- The outcome of a comparison of two present values that are no NaN. -/
def Cmp.holds (c : Cmp) (lt eq : Bool) : Bool :=
  match c with
  | .eq => eq
  | .ne => !eq
  | .lt => lt
  | .le => lt || eq
  | .gt => !lt && !eq
  | .ge => !lt

/-- R54: compare two codes of one format. -/
def compareElem (f : Fmt) (c : Cmp) (x y : Nat) : Tri :=
  if Fmt.isAbsent f x || Fmt.isAbsent f y then .u
  else
    let a := Fmt.value f x
    let b := Fmt.value f y
    if a == .nan || b == .nan then Tri.ofBool (c == .ne)
    else Tri.ofBool (c.holds (a.lt b) (a.eqv b))

/-! ### Scalars of R111 and R178 -/

/-- Sat of a 64-bit scalar to 32 bits, absent to absent (R111). -/
def narrow64 (signed : Bool) (x : Nat) : Coded :=
  let f64 : Fmt := if signed then .s64 else .n64
  let f32 : Fmt := if signed then .s32 else .n32
  if Fmt.isAbsent f64 x then (Fmt.absent f32, 0) else satCode f32 (Fmt.int f64 x)

/-- The operand that a scalar register gives to an instruction of type t (R111). -/
def scalarOperand (t : Ty) (x : Nat) : Coded :=
  match t with
  | .s32 => narrow64 true x
  | .n32 => narrow64 false x
  | .s64 | .n64 | .b64 => (x % 2 ^ 64, 0)
  | _ => (x % 2 ^ 32, 0)

/-- The 64 bits that a value of type t leaves in a scalar register (R178). -/
def widen (t : Ty) (x : Nat) : Nat :=
  match t with
  | .s32 => if Fmt.isAbsent .s32 x then Fmt.absent .s64 else pattern 64 (sext 32 x)
  | .n32 => if Fmt.isAbsent .n32 x then Fmt.absent .n64 else x
  | _ => x

/-- An immediate extended to an operand of type t (R114). -/
def extendImm (t : Ty) (w : Word) : Nat :=
  match t with
  | .s64 => if w == 0x80000000 then Fmt.absent .s64 else pattern 64 (sext 32 w.toNat)
  | .n64 => if w == 0xFFFFFFFF then Fmt.absent .n64 else w.toNat
  | _ => w.toNat

/-! ### Special functions (R201, R202) -/

/-- The integer square root, by bits from the top; `k` bits are decided. -/
def isqrtFrom (n : Nat) : Nat → Nat → Nat
  | 0, r => r
  | k + 1, r =>
    let c := r + 2 ^ k
    isqrtFrom n k (if c * c ≤ n then c else r)

def isqrt (n : Nat) : Nat := isqrtFrom n (Nat.log2 n / 2 + 1) 0

/-- 1/x with a sticky last bit, so that one rounding of it is a rounding of the exact value. -/
def recipSticky (neg : Bool) (m : Nat) (e : Int) : Num :=
  let k := Nat.log2 m + 80
  let q := 2 ^ k / m
  let r := 2 ^ k % m
  .fin neg (2 * q + (if r == 0 then 0 else 1)) (-(k : Int) - 1 - e)

/-- √x with a sticky last bit. -/
def sqrtSticky (m : Nat) (e : Int) : Num :=
  let odd := e % 2 != 0
  let m' := if odd then 2 * m else m
  let e' := if odd then e - 1 else e
  let n := m' * 2 ^ 160
  let q := isqrt n
  .fin false (2 * q + (if q * q == n then 0 else 1)) (e' / 2 - 80 - 1)

inductive SFn where
  | rcp | rsq | sqrt | exp2 | log2 | sin | cos | tanh
  deriving DecidableEq, Repr

def SFn.code : SFn → Nat
  | .rcp => 0 | .rsq => 1 | .sqrt => 2 | .exp2 => 3 | .log2 => 4 | .sin => 5 | .cos => 6 | .tanh => 7

/-- Is the value an integer, and is it an integer plus one half? -/
def isIntegral (m : Nat) (e : Int) : Bool := decide (e ≥ 0) || m % 2 ^ (-e).toNat == 0

def isHalfOdd (m : Nat) (e : Int) : Bool := !isIntegral m e && isIntegral (2 * m) e

def intOf (neg : Bool) (m : Nat) (e : Int) : Int := roundInt .rz neg m e

end Sys2Proof
end

