-- ==== Sys2Proof/Machine/State.lean ====
section
/-! DEFINITION. The state of the ZN44: everything the spec gives the machine, as plain data, and the state after
reset. INVENTORY.md lists each piece with the rule that names it. -/

namespace Sys2Proof.Machine

/-- Why a step stops with a fault. The spec gives the machine no such stop: each of these says that a caller asked for
an instruction of a beam in a state that names no beam for it. -/
inductive Fault where
  /-- Raised by the meaning of a beam instruction when no fragment is issuing. Safe: `step` sets the issuing fragment
  before it calls a meaning, so no step raises it. -/
  | noFragment
  deriving DecidableEq, Repr

/-- Why a step is refused. -/
inductive Refusal where
  /-- Raised by the dispatcher for an instruction that has no meaning yet. Safe: nothing is claimed of it. -/
  | notModelled (mnemonic : String)
  deriving DecidableEq, Repr

/-! ### Memory -/

/-- Bytes by address: addresses strictly rising, and no entry equal to what an unlisted address reads as. -/
abbrev Memory := List Host.Cell

/-- Addresses strictly rising. -/
def cellsSorted : List Host.Cell → Bool
  | [] => true
  | [_] => true
  | (a, _) :: (b, y) :: rest => decide (a < b) && cellsSorted ((b, y) :: rest)

/-- The canonical form of device memory. DESIGN CHOICE: log entry 1. -/
def Memory.wf (m : Memory) : Bool := cellsSorted m && m.all (fun c => c.2 != Config.unlistedByte)

/-! ### Beams -/

/-- State of a split-table entry (R80). -/
inductive EState where
  | free | run | join | held
  deriving DecidableEq, Repr

/-- The block a fragment is in (R119): its header's address and the fields that the fragment still needs. -/
structure Block where
  hdr   : Nat
  len   : Nat
  x     : Bool
  rcv   : Int
  livev : Nat
  livea : Nat
  deriving DecidableEq, Repr

/-- What a fragment waits in. -/
inductive WaitKind where
  | bwait | waitv | mwait | chwait | bfuse | delay | launch | fwcall | clock | pgset | cflush | msend | migrate
  deriving DecidableEq, Repr

/-- A wait of a fragment: the instruction, its words, the cycles counted so far (R237), the cycles that remain (R94,
R150), a wake that has arrived (R414), and a number that the kind of wait gives its meaning (a channel target, a fabric
tag, an answer). DESIGN CHOICE: log entry 25. -/
structure Wait where
  kind   : WaitKind
  ins    : Instr
  words  : Nat
  waited : Nat
  rem    : Option Nat
  woken  : Bool
  aux    : Nat
  deriving DecidableEq, Repr

/-- Which unit a long-latency result comes from (R78, R430, R412). -/
inductive FillSrc where
  | memory | special | other
  deriving DecidableEq, Repr

/-- A split-table entry with its fragment's return stack and the fragment's own issue state (R80, R146, R99, R435).
DEDUCED: log entry 18. -/
structure Entry where
  st      : EState
  pc      : Nat
  mask    : Mask
  join    : Option Nat
  parent  : Option Nat
  arrived : Mask
  rstack  : List Nat
  blk     : Option Block
  wait    : Option Wait
  /-- cycles a wait had counted, and its remaining fuse window, when its cohort was saved (R326) -/
  carry   : Option (Nat × Nat)
  /-- the fragment reached its header by a backward branch (R97, R120) -/
  back    : Bool
  /-- cycle of the fragment's last issue, or of the moment it became ready (R351) -/
  since   : Nat
  /-- consecutive cycles as a candidate without being chosen (R99, R352) -/
  passed  : Nat
  promoted : Bool
  /-- earliest issue cycle in deterministic issue mode (R435) -/
  ready   : Nat
  /-- the cycle of the fragment's last YIELD, until it issues again: it goes behind those of its class that were ready in
  that cycle (R149) -/
  yielded : Option Nat
  /-- a candidate of this cycle that was not chosen (R351, R430) -/
  cand    : Bool
  /-- the unit of the result that its next instruction waits for in this cycle (R430) -/
  owed    : Option FillSrc
  deriving DecidableEq, Repr

/-- A record of the divergence stack (R80, R81). -/
structure DRec where
  marker : Bool
  pc     : Nat
  mask   : Mask
  j      : Nat
  owner  : Nat
  rstack : List Nat
  /-- the block of a path that goes on inside its branch's block (log entry 14) -/
  blk    : Option Block
  /-- the path's target lies at or below its branch (R97, R120) -/
  back   : Bool
  deriving DecidableEq, Repr

/-- An accumulator tile: 32 × 32 words and their kept counts, row by row (R44, R60). -/
structure Tile where
  vals : List Word
  cnts : List Nat
  deriving DecidableEq, Repr

/-- Writer stamps (R86, R328): s0 to s63, k0 to k7, and status, ctl, epc, tcause, tlanes, tdet.x, tdet.y, tdet.z. -/
structure Stamps where
  s  : List (Option Nat)
  k  : List (Option Nat)
  sp : List (Option Nat)
  deriving DecidableEq, Repr

/-- Trap mode (R406 to R408, R331). -/
structure TrapMode where
  entry  : Nat
  /-- the trapped fragment's entry as it stood, and the entries in use at trap entry: they are the user's -/
  held   : Entry
  users  : List Nat
  /-- epc and the words of the instruction at trap entry (R152) -/
  epc    : Nat
  words  : Nat
  /-- records that the divergence stack held at trap entry: they are not the handler's -/
  depth  : Nat
  /-- the split table and divergence stack that a CTXLD has put in the user's place (R331) -/
  loaded : Option (List Entry × List DRec)
  /-- the banked s56 to s63, v240 to v255, their full bits and the stamps of the banked s -/
  bs     : List DWord
  bv     : List (List Word)
  bsFull : List Bool
  bvFull : List Bool
  bstamp : List (Option Nat)
  deriving DecidableEq, Repr

/-- A pending asynchronous cause (R413): a HWERR of code 3, or a debugger STOP. -/
structure Pending where
  stop   : Bool
  cause  : Nat
  lanes  : Mask
  x      : Nat
  y      : Nat
  z      : Nat
  deriving DecidableEq, Repr

/-- What a glint holds of its request (R269, R271). -/
structure Glint where
  req     : Nat
  burst   : Nat
  barrier : Nat
  issuer  : BeamKey
  deriving DecidableEq, Repr

/-- The record of one live beam. -/
structure Beam where
  key     : BeamKey
  cohort  : CohortKey
  id      : Nat
  w       : Nat
  nv      : Nat
  ns      : Nat
  nc      : Nat
  na      : Nat
  nk      : Nat
  laneg   : List Nat
  /-- first column of the beam's range, from the cohort's region base in its quadrant (R76, R326); of a beam that
  declares no vector register, its first lane group, so that the halves of a BSPLIT are buddies (R93) -/
  coloff  : Nat
  v       : List (List Word)
  s       : List DWord
  c       : List (List (BitVec 2))
  k       : List (BitVec 2)
  tiles   : List Tile
  vfull   : List Bool
  sfull   : List Bool
  stamps  : Stamps
  status  : BitVec 32
  ctl     : BitVec 32
  pl      : Bool
  epc     : Nat
  tcause  : BitVec 32
  tlanes  : Mask
  tdetx   : BitVec 32
  tdety   : BitVec 32
  tdetz   : BitVec 32
  exited  : Mask
  split   : List Entry
  dstack  : List DRec
  trap    : Option TrapMode
  pend    : Option Pending
  /-- the last 64 issued instructions, newest first: was the class MEM or ENG (R353)? -/
  hist    : List Bool
  glint   : Option Glint
  /-- sends to each ring (R247) -/
  sends   : List (DWord × Nat)
  /-- trace: the beam owes a SYNC; packets since the last (R426) -/
  owesSync : Bool
  packets : Nat
  /-- width that the last SYNC gave (R423) -/
  syncW   : Nat
  /-- an EXIT of the cohort's last lane waits for its requests (R347) -/
  retiring : Bool
  /-- deterministic issue mode (R435): cycle at which v0 to v255, s0 to s63, c and k (from 256, 320, 336) are ready -/
  rdy     : List (Nat × Nat)
  /-- bytes of the window that this beam's loads may still give in place of those that a copy has delivered since, until an
  acquire (R102, R103, R452) -/
  behind  : List Host.Cell
  deriving DecidableEq, Repr

/-- Where a returning result goes (R78): consecutive vector registers with their lanes' values, or a scalar. -/
inductive FillDst where
  | v (r : Nat) (mask : Mask) (vals : List (List Word)) (banked : Bool)
  | s (r : Nat) (val : DWord) (drop : Bool) (banked : Bool)
  deriving DecidableEq, Repr

/-- When and whence a result comes: the earliest cycle, the units that an uncorrectable error in it may name (R412), and
the lanes whose data cannot come because every CXL port of their range is down (R404). -/
structure Arrival where
  ready : Nat
  units : List Nat
  down  : Mask
  deriving DecidableEq, Repr

/-- What a load of the window that is in flight may still take of a copy's bytes (R102): the cohort, the type, and each lane
with its offset and the bytes that it has. -/
structure LoadTake where
  cohort : CohortKey
  ty     : Ty
  lanes  : List (Nat × Nat × List Byte)
  deriving DecidableEq, Repr

/-- A result in flight: its beam, entry, the PC of its producer, destination, absent patterns for failed lanes (R412),
the earliest cycle at which it is in place, the units of an error in it, the lanes whose data cannot come, and what a load of the window may still take. -/
structure Fill where
  beam   : BeamKey
  entry  : Nat
  /-- the active lanes of its producer -/
  mask   : Mask
  pc     : Nat
  dst    : FillDst
  absent : Word × Word
  src    : FillSrc
  ready  : Nat
  units  : List Nat
  down   : Mask
  take   : Option LoadTake
  deriving DecidableEq, Repr

/-- The operands of a matrix multiplication as they are read (R287, R288). -/
structure MmaOp where
  /-- the elements are integers -/
  int    : Bool
  /-- the operands have scales -/
  scaled : Bool
  fa     : Fmt
  fb     : Fmt
  /-- the packed row of A of each lane, and the lane's scale bytes; none where a Prism names no lane -/
  a      : List (Option (List Byte))
  xa     : List (Option (List Byte))
  /-- the window offset of B; none where it is absent -/
  off    : Option Nat
  /-- the bytes of B with its scales, that the product takes -/
  b      : List Byte
  /-- the tiles before the multiplication -/
  tiles  : List Tile
  deriving DecidableEq, Repr

/-- A matrix instruction in progress (R288): its operands, its tile and what it leaves there. -/
structure MmaPend where
  beam   : BeamKey
  op     : MmaOp
  tile   : Nat
  tiles  : List Tile
  flags  : BitVec 32
  ready  : Nat
  deriving DecidableEq, Repr

/-! ### Cohorts and kernels -/

inductive CState where
  | unplaced | resident | parked | retired | stopped
  deriving DecidableEq, Repr

/-- Why a resident cohort stops at its rest points (R97, R416). -/
inductive StopWhy where
  | evict | debug (n : Nat) (f : From)
  deriving DecidableEq, Repr

/-- What the device keeps of an entry of a parked beam: its block, its backward mark, its wait, and the address of the
instruction or header that it stands at. -/
structure SavedEntry where
  blk  : Option Block
  back : Bool
  wait : Option Wait
  pc   : Nat
  deriving DecidableEq, Repr

/-- What the device keeps of a parked beam beside its save record (log entry 14): its number, the registers and tiles that
the record holds (R98), its tiles, the identities of its lanes, those that have exited, its entries' blocks, backward marks
and waits, its stack records' blocks and backward marks, and its sends (R247). DESIGN CHOICE: log entry 14; DESIGN CHOICE: log entry 23. -/
structure SavedBeam where
  id     : Nat
  /-- the beam's area in the record -/
  area   : Nat
  place  : Nat
  lv     : Nat
  la     : Nat
  na     : Nat
  laneg  : List Nat
  exited : Mask
  ents   : List SavedEntry
  recs   : List (Option Block × Bool)
  sends  : List (DWord × Nat)
  deriving DecidableEq, Repr

/-- A pending REPLAY mark of a cohort: the barrier's offset, the code, the logged index, the log position, whether the phase
that the read counts in has completed, and the beams that have acquired it (R434). -/
structure Mark where
  off    : Nat
  code   : Nat
  logged : Nat
  pos    : Nat
  ended  : Bool
  acquired : List Nat
  deriving DecidableEq, Repr

/-- A cohort (R346): its resources (R349), window, hidden tags (R366), map slots (R255), biases (R265) and save
record (R324). -/
structure Cohort where
  key    : CohortKey
  core   : Nat
  st     : CState
  wsize  : Nat
  /-- placement number, which tells the bytes of one new window from another's -/
  seed   : Nat
  win    : List Host.Cell
  tags   : List Nat
  maps   : List (Option (List Byte))
  bias   : List DWord
  /-- window base in the core's scratchpad, in bytes -/
  wbase  : Nat
  /-- first column of the cohort's region in each quadrant, and its tiles there (R349) -/
  colbase  : List Nat
  tiles    : List (List Nat)
  /-- address and size of the save record -/
  save   : Option (Nat × Nat)
  /-- clock at the last placement or restore, and at parking -/
  placed : Nat
  parked : Nat
  /-- clock at which a parked cohort's wake condition was first met (R323) -/
  woken  : Option Nat
  /-- what the device keeps of a parked cohort's beams -/
  saved  : List SavedBeam
  stop   : Option StopWhy
  /-- a debugger stop that arrived while the cohort was being saved (R417) -/
  dbg    : Option (Nat × From)
  /-- beam slots that the cohort has taken: they stay its own until it leaves its core (R72, R347) -/
  slots  : List Nat
  marks  : List Mark
  deriving DecidableEq, Repr

/-- The fields of a LAUNCH record (R337). -/
structure Launch where
  entry   : Nat
  cohorts : Nat
  beams   : Nat
  width   : Nat
  v       : Nat
  s       : Nat
  c       : Nat
  a       : Nat
  taglog  : Nat
  window  : Nat
  args    : DWord
  deriving DecidableEq, Repr

inductive KState where
  | placing | running | completed | faulted
  deriving DecidableEq, Repr

/-- State of a group table entry (R357). -/
inductive GState where
  | free | live | withdrawn
  deriving DecidableEq, Repr

/-- An entry of a kernel's group table; entries that no group has used are not listed and read Free, GEN 1. -/
structure Group where
  index   : Nat
  st      : GState
  gen     : Nat
  /-- members by cohort index and beamid -/
  members : List (Nat × Nat)
  deriving DecidableEq, Repr

structure Kernel where
  id      : Nat
  launch  : Launch
  queue   : Nat
  seq     : Nat
  ctx     : Nat
  cls     : Nat
  st      : KState
  /-- cohorts placed so far, and retired -/
  placed  : Nat
  retired : Nat
  /-- clock of the last placement (R323) and order of taking (R350) -/
  lastPlaced : Nat
  order   : Nat
  groups  : List Group
  deriving DecidableEq, Repr

/-! ### Contexts, queues, partitions -/

inductive XState where
  | open_ | stopping | stopped | faulted
  deriving DecidableEq, Repr

/-- A context descriptor (R318) that is not Free, with the host that created it (R399). -/
structure Context where
  id      : Nat
  root    : Nat
  handler : Nat
  save    : Nat
  savesz  : Nat
  vf      : Nat
  world   : Bool
  st      : XState
  part    : Nat
  fusewin : Nat
  host    : Nat
  deriving DecidableEq, Repr

inductive QState where
  | running | blocked | stopped | faulted
  deriving DecidableEq, Repr

/-- A queue descriptor (R333) that is not Free, its address, the stop marks (R340), and the commands taken and not
completed. -/
structure Queue where
  num    : Nat
  ctx    : Nat
  desc   : Nat
  base   : Nat
  size   : Nat
  cls    : Nat
  weight : Nat
  st     : QState
  fcode  : Nat
  tail   : Nat
  head   : Nat
  done   : Nat
  fseq   : Nat
  hostStop : Bool
  ctxStop  : Bool
  /-- sequence numbers above `done` that have completed -/
  finished : List Nat
  /-- clock at which the LAUNCH at HEAD was first offered in vain (R323), or since which its write waits for a migrating
  page (R386) -/
  offered  : Option Nat
  /-- turns left in the current round of arbitration (R339) -/
  credit   : Nat
  /-- the untaken records as they were appended, by sequence number (R334) -/
  recs     : List (Nat × List Byte)
  deriving DecidableEq, Repr

/-- A COPY or PREEMPT command taken and not completed (R338): source, destination and length of a copy, or the cohorts
that a pre-emption still has to evict; the clock since which a copy's write waits for a migrating page (R386) or its access for ports that are down (R404), and
whether a copy or a TIMESTAMP has written and waits for acknowledgements (R314). -/
structure Cmd where
  queue : Nat
  seq   : Nat
  copy  : Option (Nat × Nat × Nat)
  cohorts : List CohortKey
  waits : Option Nat
  down  : Option Nat
  written : Bool
  deriving DecidableEq, Repr

/-- A near slice of 128 MiB (R7, R13): its number, the bytes that are near pages and those that cache far memory. -/
structure Slice where
  num   : Nat
  pages : Nat
  cache : Nat
  deriving DecidableEq, Repr

/-- A partition (R315) with what firmware and the Diaphragm give it (R395, R323, R354, R443, R444). -/
structure Partition where
  id       : Nat
  world    : Bool
  clusters : List Nat
  near     : List (Nat × Nat)
  far      : List (Nat × Nat)
  /-- the near slices that it owns (R13, R315) -/
  slices   : List Slice
  timeout  : Nat
  slice    : Nat
  cgctl    : BitVec 32
  egress   : List Nat
  ingress  : List Nat
  cap      : Nat
  farWin   : List (Nat × Nat)
  pwrMax   : Nat
  clkMax   : Nat
  /-- the ceiling that the board has set below PWR (R462), the settings in force, and the cycle of the last trip (R444) -/
  ceiling  : Nat
  pwr      : Nat
  clk      : Nat
  trip     : Option Nat
  /-- dynamic capacity that a release request holds (R405) -/
  held     : List (Nat × Nat)
  deriving DecidableEq, Repr

/-- A virtual function: its partition and its notification queue (R399). -/
structure Vf where
  id     : Nat
  part   : Nat
  notes  : List (Nat × Nat × Nat)
  count  : Nat
  deriving DecidableEq, Repr

/-! ### Cores -/

/-- A piece of a packet behind its delta: bytes, or a mask as wide as the beam's last SYNC said (R423). -/
inductive TracePiece where
  | raw (bs : List Byte)
  | mask (m : Mask)
  deriving DecidableEq, Repr

/-- A packet of this cycle that is not in the ring yet: packets of one cycle go there by quadrant, then by slot (R423). It
has the SYNC that it may need, whether its beam owed one, the beam's width and the width of its last SYNC. -/
structure Packet where
  beam   : BeamKey
  sync   : List Byte
  owed   : Bool
  w      : Nat
  syncW  : Nat
  typ    : Byte
  pieces : List TracePiece
  deriving DecidableEq, Repr

/-- Periscope of one core (R420 to R427). -/
structure TraceUnit where
  ctl    : DWord
  base   : DWord
  size   : DWord
  wp     : DWord
  rp     : DWord
  lost   : DWord
  wbase  : List DWord
  wlimit : List DWord
  /-- packets lost since the last LOSS packet, and the time of the last packet -/
  pending : Nat
  last    : Nat
  /-- the packets of this cycle, in the order in which they came -/
  cycle   : List Packet
  deriving DecidableEq, Repr

/-- Spectrograph of one core (R420, R430 to R433). -/
structure Spectro where
  ctl  : DWord
  sg   : List (List Nat)
  stat : List Nat
  spctl  : DWord
  spbase : DWord
  spsize : DWord
  spwp   : DWord
  sprp : DWord
  spdrop : DWord
  /-- increments of this cycle, by quadrant, counter and number: they come after the cycle's reads and writes (R432) -/
  due  : List (Nat × Nat × Nat)
  deriving DecidableEq, Repr

/-- One issue of a cycle: the beam, its entry, its pipe class, the lanes it fills, which of them are active, and whether all
lanes of the beam were. -/
structure Issued where
  beam   : BeamKey
  entry  : Nat
  scalar : Bool
  cls    : Nat
  width  : Nat
  lanes  : Mask
  full   : Bool
  deriving DecidableEq, Repr

/-- A quadrant: the issues of this cycle, the second half of a width-64 issue, the pointers of deterministic issue,
of the throttle and of sampling, and whether the throttle is engaged (R12, R351, R354, R433, R435). -/
structure Quad where
  issued  : List Issued
  second  : Option Issued
  rr      : Nat
  /-- the pointer of deterministic issue at the cycle's beginning (R431) -/
  start   : Nat
  rot     : Nat
  engaged : Bool
  samp    : Nat
  muBusy  : Nat
  /-- the throttle's pointer has moved in this cycle (R354) -/
  rotated : Bool
  deriving DecidableEq, Repr

/-- An entry of the orphan log (R279): the cohort whose window holds the granule, its offset, the bytes delivered. -/
structure Orphan where
  cohort : CohortKey
  off    : Nat
  bytes  : Nat
  deriving DecidableEq, Repr

/-- A table entry that a die's walk cache keeps (R381): context, level, the address bits above the level, the entry. -/
structure WalkEntry where
  ctx : Nat
  lvl : Nat
  idx : Nat
  val : Nat
  deriving DecidableEq, Repr

/-- A cached translation (R381): context, page number, page size, the leaf and where it lies. -/
structure TlbEntry where
  ctx   : Nat
  vpn   : Nat
  large : Bool
  leaf  : Nat
  at_   : Nat
  deriving DecidableEq, Repr

structure Core where
  id      : Nat
  wp      : List DWord
  orphans : List Orphan
  trace   : TraceUnit
  spec    : Spectro
  quads   : List Quad
  /-- physical addresses of the L1's lines and the bytes in which they are older than memory (R225); the lines of the
  instruction cache, and by physical address the older words that a fetch may still give, of those stored since the last
  CINV (R109) -/
  l1      : List Nat
  stale   : List Host.Cell
  icache  : List Nat
  iold    : List (Nat × Word)
  tlb     : List TlbEntry
  /-- this cycle has been counted (R430) and sampled (R433) -/
  counted : Bool
  sampled : Bool
  deriving DecidableEq, Repr

/-! ### Engine requests -/

/-- The operation that a collective takes part in (R402): the link group's partition and index, the operation's number,
the members, this device's rank, and what every member's message must agree with. -/
structure CollOp where
  part  : Nat
  group : Nat
  op    : Nat
  ranks : Nat
  rank  : Nat
  head  : List Nat
  deriving DecidableEq, Repr

/-- What an engine request asks for. -/
inductive ReqKind where
  | cpy (st : Bool) (image : Nat) (chan : Nat)
  | csr (fmt : Fmt) (idxBuf valBuf cap chan : Nat)
  | gread (target : Nat) (user : DWord) (mode : GMode) (log : Nat)
  | cnd (fmt : Fmt)
  | coll (kind : CollKind) (op : RedOp) (fast cnt : Bool) (fmt : Fmt) (what : CollOp)
  deriving DecidableEq, Repr

/-- How a burst or a request stands. -/
inductive BState where
  | waiting | done | faulted (kind : Nat) | read (bytes : List Byte) | running
  deriving DecidableEq, Repr

/-- Who wrote to far memory: a beam, an engine's request, a command of a queue, a message. -/
inductive Writer where
  | beam (b : BeamKey)
  | req (id : Nat)
  | cmd (queue seq : Nat)
  | msg (f : From)
  deriving DecidableEq, Repr

/-- A request of an engine (R254, R280): the map copied at issue (R256), the box start, the barrier, the scope, the
parameter registers, the state of its bursts, and where it stands. -/
structure Req where
  id      : Nat
  core    : Nat
  cohort  : CohortKey
  beam    : BeamKey
  /-- slot and number of the issuing beam at issue, and the address, the split entry, the lanes and the width of the fragment
  that issued (R448) -/
  slot    : Nat
  bid     : Nat
  pc      : Nat
  entry   : Nat
  mask    : Mask
  w       : Nat
  kind    : ReqKind
  map     : List Byte
  coords  : List (Option Int)
  barrier : Nat
  scope   : Scope
  params  : List DWord
  bursts  : List BState
  /-- in the fault list; dropped with kind LIST_FULL; orphaned by BINV (R280, R276) -/
  parked  : Bool
  dropped : Bool
  orphan  : Bool
  /-- FAULT.INDEX where this request wrote FAULT (R280) -/
  fault   : Option Nat
  /-- first burst that a copy has not counted (R281), bytes delivered, bytes counted (R453), and bytes whose count found
  no slot (R275) -/
  first     : Nat
  delivered : Nat
  counted   : Nat
  refused   : Nat
  /-- auxiliary n32 values read so far, by address (R65) -/
  aux     : List (Int × Nat)
  /-- clock since which a write waits for a migrating page (R386), or an access for ports that are down (R404) -/
  migSince : Option Nat
  down     : Option Nat
  /-- bursts in order of arrival, births in order, and whether the log is followed (R434) -/
  arrived : List Nat
  births  : List Nat
  follow  : Bool
  /-- contributions of a collective's members, by rank -/
  parts   : List (Nat × List Byte)
  /-- flags that the request raised (R43) -/
  flags   : BitVec 32
  /-- a CND's stream and window as they were when it issued (R452) -/
  was     : List Byte
  wasWin  : List Host.Cell
  deriving DecidableEq, Repr

/-! ### Fabric, link and management -/

inductive LinkSt where
  | down | training | up | degraded | fenced
  deriving DecidableEq, Repr

/-- A CXL port (R403): is its link up, and has its first training not ended (R460)? -/
structure CxlPort where
  id : Nat
  up : Bool
  training : Bool
  deriving DecidableEq, Repr

/-- An HDM decoder (R403): the range that it maps, the ports that it interleaves, and the granule in bytes. -/
structure Hdm where
  base  : Nat
  limit : Nat
  ports : List Nat
  gran  : Nat
  deriving DecidableEq, Repr

/-- A flit to send (R387): its link sequence and credits, once it is sent, its channel, its message's destination, BODY. -/
structure TxFlit where
  lseq : Nat
  cred : Nat
  vc   : Nat
  dest : Nat
  body : List Byte
  deriving DecidableEq, Repr

/-- A Traelm port (R387 to R392). -/
structure Port where
  id       : Nat
  st       : LinkSt
  lanes    : Nat
  replays  : Nat
  /-- link sequence of the next flit to send and of the next one that is expected -/
  txSeq    : Nat
  rxSeq    : Nat
  /-- flits that wait for their channel's turn, oldest first, and the replay buffer: those sent and not acknowledged -/
  queue    : List TxFlit
  buffer   : List TxFlit
  /-- by channel: flits sent that no credit has come back for, and flits received that no credit has gone back for -/
  used     : List Nat
  owed     : List Nat
  /-- flits of channel 1 sent since the last of channel 2 (R392) -/
  share    : Nat
  /-- failures of the expected flit; the flit that the peer has discarded last, with its failures; the clocks of the latest
  replays (R388) -/
  badRun   : Nat
  lost     : Option (Nat × Nat)
  recent   : List Nat
  /-- the clock at which the port left up or degraded (R391), and consecutive failed trainings -/
  left     : Option Nat
  failed   : Nat
  deriving DecidableEq, Repr

/-- A request of this device over the fabric that waits for its reply (R395). -/
inductive Pend where
  | msend (cohort : CohortKey) (b : BeamKey) (entry : Nat) (d : Nat) (drop : Bool)
  | coll (req : Nat) (peer : Nat)
  | note (vf : Nat) (n : Nat)
  deriving DecidableEq, Repr

structure FabReq where
  tag   : Nat
  /-- the device or host asked, and the partition that asks -/
  peer  : Nat
  part  : Option Nat
  since : Nat
  limit : Nat
  what  : Pend
  deriving DecidableEq, Repr

/-- Messages of the fabric, replies and requests, each with its ESEQ, a request with its TAG (R393). -/
inductive OutMsg where
  | reply (f : From) (eseq status : Nat) (body : List Byte)
  | ring (dev vc vfn eseq tag : Nat) (handle : DWord) (seq : Nat) (data : List Byte)
  | coll (dev vfn eseq tag group op : Nat) (head : List Nat) (data : List Byte)
  | notify (host eseq tag vf ctx value seq : Nat)
  deriving DecidableEq, Repr

/-- What leaves the device: flits, the answers of the management bus, the scan chain's output. -/
inductive Output where
  | flit (port : Nat) (bytes : List Byte)
  | i3c (words : List Nat)
  | tdo (bit : Bool)
  deriving DecidableEq, Repr

/-- A flow that this device receives or sends (R393): endpoint, channel, next sequence numbers, the messages that nothing
has acknowledged, oldest first, with the clocks at which they were sent, the port of its path, the fabric timeout of its
latest message, and the flow's next message, a host write, with the clock since which it waits for a migrating page (R386). -/
structure Flow where
  peer  : Nat
  vc    : Nat
  inSeq  : Nat
  outSeq : Nat
  unacked : List (OutMsg × Nat)
  port    : Option Nat
  limit   : Nat
  waits   : Option (Nat × Instr)
  deriving DecidableEq, Repr

/-- A link group of a partition (R401, R402). -/
structure LinkGroup where
  part   : Nat
  index  : Nat
  gen    : Nat
  live   : Bool
  devs   : List Nat
  crc    : Nat
  issued : Nat
  broken : Bool
  deriving DecidableEq, Repr

/-- A setting that the firmware writes: a partition's time slice (R323), fabric timeout (R395) and CGCTL (R354), the links'
replay threshold (R388), and an HDM decoder (R403). -/
inductive Setting where
  | slice (part cycles : Nat)
  | timeout (part cycles : Nat)
  | cgctl (part : Nat) (v : BitVec 32)
  | replayMax (n : Nat)
  | hdm (n : Nat) (d : Hdm)
  deriving DecidableEq, Repr

/-- Work that waits for resources (R350). -/
inductive Work where
  | restore (c : CohortKey)
  | place (kernel : Nat)
  | launch (queue seq : Nat)
  deriving DecidableEq, Repr

/-- Where a cohort would stand on a core: its window, its first column and its tiles in each quadrant, its beams' slots. -/
structure Spot where
  core  : Nat
  wbase : Nat
  cols  : List Nat
  tiles : List (List Nat)
  slots : List Nat
  deriving DecidableEq, Repr

/-- Room that the scheduler makes for some work (R100, R323): the cohorts that leave, the core, and the place that the work
takes there, where their leaving makes one. -/
structure Room where
  work    : Work
  victims : List CohortKey
  core    : Nat
  spot    : Option (Launch × Spot)
  /-- the room of an exchange: the cohort comes back on this core (R100) -/
  tied    : Bool
  deriving DecidableEq, Repr

/-- A collective message that arrived before this device issued its operation. -/
structure CollMsg where
  part  : Nat
  group : Nat
  op    : Nat
  head  : List Nat
  rank  : Nat
  data  : List Byte
  deriving DecidableEq, Repr

/-- Entries of the management log. -/
inductive LogEntry where
  | hwerr (code unit : Nat) (at_ : Nat)
  | corrected (unit : Nat) (at_ : Nat)
  | dropped (b : BeamKey)
  | diaphragm (part reg : Nat)
  | badMessage (src typ : Nat)
  | writeFailed (pa : Nat)
  | trip (part mhz : Nat)
  | thermal (die : Nat)
  deriving DecidableEq, Repr

/-- The SPDM connection state (R441). -/
inductive SpdmSt where
  | start | versioned | capable | negotiated
  deriving DecidableEq, Repr

/-- The management block: reset and boot state, the Diaphragm's lock and pins, the identity key and the measurements
(R438 to R443, R460 to R462). -/
structure Mgmt where
  pwrgood   : Bool
  inReset   : Bool
  /-- the boot ROM has passed every step and the management cores run -/
  running   : Bool
  bootst    : BitVec 32
  locked    : Bool
  pins      : DWord
  identity  : List Byte
  measures  : List (List Byte)
  spdm      : SpdmSt
  device    : Nat
  hosts     : List Nat
  thermtrip : Bool
  faultn    : Option Nat
  replayMax : Nat
  deriving DecidableEq, Repr

/-! ### The whole device -/

/-- Where an issue meets an uncorrectable error (R412): a fetched byte, a register or tile by set and number as in
REGISTER's `tdet.x`, or a word of the window. -/
inductive BadWord where
  | fetched (va : Nat)
  | reg (set r src : Nat)
  | window (off : Nat)
  deriving DecidableEq, Repr

/-- The fragment whose instruction is being executed: beam, split entry, the instruction's address, its words.
DESIGN CHOICE: log entry 3. -/
structure Cur where
  beam  : BeamKey
  entry : Nat
  pc    : Nat
  raw   : Raw
  words : Nat
  deriving DecidableEq, Repr

/-- A write to far memory that its CXL device has not acknowledged (R314, R404): who wrote, a beam's kernel, the line,
whether its scope was `.sys`, and the clock of the write. DEDUCED: log entry 62. -/
structure FarWrite where
  who   : Writer
  kernel : Option Nat
  line  : Nat
  sys   : Bool
  since : Nat
  deriving DecidableEq, Repr

/-- What happens next: a fragment goes on (it enters its header or issues its instruction), a step of the device, or
the next cycle. Only a list of turns holds the rest, which comes from outside the device: an issue or a step of the device
that meets an uncorrectable error, an error that was corrected, a write of another host of the pool to far memory, a CXL
link that goes up or down, a flit that the peer of a port has discarded, and a setting that the firmware writes (R412,
R280, R314, R403, R388, R323). DESIGN CHOICE: log entry 46. -/
inductive Turn where
  | run (b : BeamKey) (e : Nat)
  | event (i : Instr)
  | tick
  | hwerr (b : BeamKey) (e : Nat) (bad : BadWord)
  | corrected (unit at_ : Nat)
  | pool (pa : Nat) (bs : List Byte)
  | cxlLink (port : Nat) (up : Bool)
  | hwfail (i : Instr)
  | flitLost (port lseq : Nat)
  | setting (v : Setting)
  deriving DecidableEq, Repr

/-- The state of the machine. The lists of contexts, queues, kernels, cohorts, beams, cores, partitions, virtual
functions and ports name what is in use; what is not listed is Free or at its reset value. -/
structure State where
  clock   : Nat
  /-- the model's own fields: the number of the next free value, what happens next, the issuing fragment.
  DESIGN CHOICE: log entry 3. -/
  free    : Nat
  /-- DESIGN CHOICE: log entry 2; DESIGN CHOICE: log entry 46. -/
  turns   : List Turn
  /-- DESIGN CHOICE: log entry 3. -/
  cur     : Option Cur
  mem     : Memory
  /-- what far memory holds where the near cache holds newer bytes (R226, R239), and write-backs not acknowledged -/
  dirty   : List Host.Cell
  flushing : List Nat
  /-- bytes that the near cache may still give for far memory that another host of the pool has written since (R314) -/
  older   : List Host.Cell
  posted  : List FarWrite
  beams   : List Beam
  fills   : List Fill
  mmas    : List MmaPend
  cohorts : List Cohort
  kernels : List Kernel
  rooms   : List Room
  contexts : List Context
  queues  : List Queue
  cmds    : List Cmd
  parts   : List Partition
  vfs     : List Vf
  cores   : List Core
  /-- by physical address the older words that a core which is not listed may still fetch, of those that beams have stored
  since a CINV that covers it (R109) -/
  stored  : List (Nat × Word)
  /-- die L2 TLBs and the I/O dies' TLBs (R381), by die number: 0 to 3, and 4 and 5 -/
  dieTlb  : List (Nat × TlbEntry)
  /-- the walk caches, by die number (R381) -/
  walkc   : List (Nat × WalkEntry)
  reqs    : List Req
  nextId  : Nat
  ports   : List Port
  cxl     : List CxlPort
  hdm     : List Hdm
  flows   : List Flow
  /-- messages that no port can carry yet (R391) -/
  unsent  : List OutMsg
  fabric  : List FabReq
  links   : List LinkGroup
  collIn  : List CollMsg
  out     : List Output
  log     : List LogEntry
  mgmt    : Mgmt
  /-- congestion level of each of the 16 mesh regions (R354) -/
  levels  : List Nat
  deriving DecidableEq, Repr

/-! ### Reset -/

/-- A quadrant with nothing issued. DESIGN CHOICE: log entry 12. -/
def Quad.reset : Quad :=
  { issued := [], second := none, rr := 0, start := 0, rot := 0, engaged := false, samp := 0, muBusy := 0, rotated := false }

def TraceUnit.reset : TraceUnit :=
  { ctl := 0, base := 0, size := 0, wp := 0, rp := 0, lost := 0, wbase := List.replicate 8 0
    wlimit := List.replicate 8 0, pending := 0, last := 0, cycle := [] }

def Spectro.reset : Spectro :=
  { ctl := 0, sg := List.replicate 4 (List.replicate 18 0), stat := List.replicate 4 0, spctl := 0, spbase := 0
    spsize := 0, spwp := 0, sprp := 0, spdrop := 0, due := [] }

/-- A core at reset: trace and counter registers 0 (R420), channel pointers 0 (log entry 12).
DESIGN CHOICE: log entry 12. -/
def Core.reset (id : Nat) : Core :=
  { id := id, wp := List.replicate 8 0, orphans := [], trace := TraceUnit.reset, spec := Spectro.reset
    quads := List.replicate 4 Quad.reset, l1 := [], stale := [], icache := [], iold := [], tlb := [], counted := false
    sampled := false }

/-- A port at reset: LNKST 0, which is down (R389). DESIGN CHOICE: log entry 12. -/
def Port.reset (id : Nat) : Port :=
  { id := id, st := .down, lanes := 0, replays := 0, txSeq := 0, rxSeq := 0, queue := [], buffer := []
    used := List.replicate 4 0, owed := List.replicate 4 0, share := 0, badRun := 0, lost := none, recent := []
    left := none, failed := 0 }

/-- The management block while RESET_N is asserted: BOOTST 0 (R461), nothing locked, no identity.
DESIGN CHOICE: log entry 13. -/
def Mgmt.reset : Mgmt :=
  { pwrgood := false, inReset := true, running := false, bootst := 0, locked := false, pins := 0, identity := []
    measures := [], spdm := .start, device := 0, hosts := [], thermtrip := false, faultn := none, replayMax := 0 }

/-- The machine right after reset: no context, queue, kernel or beam exists, every register of R420, R389 and R461 is
0, the clock is 0 (R162) and memory lists nothing (R460; log entries 1, 2, 3, 12 and 13).
DESIGN CHOICE: log entry 12; DESIGN CHOICE: log entry 13. -/
def State.reset : State :=
  { clock := 0, free := 0, turns := [], cur := none, mem := [], dirty := [], flushing := [], older := [], posted := []
    beams := [], fills := []
    mmas := [], cohorts := [], kernels := [], rooms := [], contexts := [], queues := [], cmds := [], parts := [], vfs := []
    cores := [], stored := [], dieTlb := [], walkc := [], reqs := [], nextId := 0, ports := (List.range 16).map Port.reset
    cxl := (List.range 20).map fun k => { id := k, up := false, training := false }, hdm := [], flows := [], unsent := []
    fabric := [], links := [], collIn := [], out := [], log := [], mgmt := Mgmt.reset
    levels := List.replicate 16 0 }

end Sys2Proof.Machine
end

