-- ==== Sys2Proof/Machine/Cells.lean ====
section
/-! DEFINITION. Byte cells in canonical form, physical memory with the core's L1 and the near cache beside it, and the
one place where each kind of record of the state is found and replaced. -/

namespace Sys2Proof.Machine

/-! ### Cells -/

/-- The byte listed at an address. -/
def cellAt (a : Nat) : List Host.Cell → Option Byte
  | [] => none
  | (b, x) :: rest => if a = b then some x else cellAt a rest

/-- List a byte at an address, in its place. -/
def cellPut (a : Nat) (x : Byte) : List Host.Cell → List Host.Cell
  | [] => [(a, x)]
  | (b, y) :: rest =>
    if a < b then (a, x) :: (b, y) :: rest
    else if a = b then (a, x) :: rest
    else (b, y) :: cellPut a x rest

/-- List nothing at an address. -/
def cellDrop (a : Nat) (m : List Host.Cell) : List Host.Cell := m.filter (fun c => c.1 != a)

/-- The byte of device memory at an address. DESIGN CHOICE: log entry 1. -/
def Memory.read (m : Memory) (a : Nat) : Byte := (cellAt a m).getD Config.unlistedByte

/-- Write one byte of device memory, keeping the canonical form. DESIGN CHOICE: log entry 1. -/
def Memory.write (m : Memory) (a : Nat) (x : Byte) : Memory :=
  if x = Config.unlistedByte then cellDrop a m else cellPut a x m

/-- The number that bytes hold, lowest address first (R3). -/
def leNat (bs : List Byte) : Nat := bs.foldr (fun b acc => b.toNat + 256 * acc) 0

/-- The `n` bytes of a number, lowest address first. -/
def natLe : Nat → Nat → List Byte
  | 0, _ => []
  | n + 1, x => BitVec.ofNat 8 x :: natLe n (x / 256)

/-! ### Records of the state -/

/-- Replace every element that agrees with `x` on the key. -/
def replaceBy {α κ : Type} [BEq κ] (key : α → κ) (x : α) (xs : List α) : List α :=
  xs.map fun y => if key y == key x then x else y

def State.beam? (s : State) (k : BeamKey) : Option Beam := s.beams.find? (fun b => b.key == k)
def State.setBeam (s : State) (b : Beam) : State := { s with beams := replaceBy Beam.key b s.beams }
def State.cohort? (s : State) (k : CohortKey) : Option Cohort := s.cohorts.find? (fun c => c.key == k)
def State.setCohort (s : State) (c : Cohort) : State := { s with cohorts := replaceBy Cohort.key c s.cohorts }
def State.kernel? (s : State) (k : Nat) : Option Kernel := s.kernels.find? (fun c => c.id == k)
def State.setKernel (s : State) (k : Kernel) : State := { s with kernels := replaceBy Kernel.id k s.kernels }
def State.context? (s : State) (c : Nat) : Option Context := s.contexts.find? (fun x => x.id == c)
def State.setContext (s : State) (x : Context) : State := { s with contexts := replaceBy Context.id x s.contexts }
def State.queue? (s : State) (q : Nat) : Option Queue := s.queues.find? (fun x => x.num == q)
def State.setQueue (s : State) (q : Queue) : State := { s with queues := replaceBy Queue.num q s.queues }
def State.part? (s : State) (p : Nat) : Option Partition := s.parts.find? (fun x => x.id == p)
def State.setPart (s : State) (p : Partition) : State := { s with parts := replaceBy Partition.id p s.parts }
def State.vf? (s : State) (v : Nat) : Option Vf := s.vfs.find? (fun x => x.id == v)
def State.setVf (s : State) (v : Vf) : State := { s with vfs := replaceBy Vf.id v s.vfs }
def State.core? (s : State) (c : Nat) : Option Core := s.cores.find? (fun x => x.id == c)
def State.req? (s : State) (r : Nat) : Option Req := s.reqs.find? (fun x => x.id == r)
def State.setReq (s : State) (r : Req) : State := { s with reqs := replaceBy Req.id r s.reqs }
def State.port? (s : State) (p : Nat) : Option Port := s.ports.find? (fun x => x.id == p)
def State.setPort (s : State) (p : Port) : State := { s with ports := replaceBy Port.id p s.ports }

/-- A core's record; a core that nothing has configured stands at its reset values, and may fetch older words (R109). -/
def State.coreOf (s : State) (c : Nat) : Core := (s.core? c).getD { Core.reset c with iold := s.stored }

/-- The partition that a core belongs to (R315). -/
def State.partOfCore (s : State) (core : Nat) : Option Partition := s.parts.find? fun p => p.clusters.contains (core / 4)

/-- Add an entry to the management log. -/
def State.logged (s : State) (e : LogEntry) : State := { s with log := s.log ++ [e] }

/-- Replace element `k` of a list. -/
def setNth {α : Type} (xs : List α) (k : Nat) (x : α) : List α := xs.set k x

/-! ### Physical memory -/

/-- Does a list of [base, limit) ranges hold [a, a + n)? -/
def inRanges (rs : List (Nat × Nat)) (a n : Nat) : Bool := rs.any fun r => decide (r.1 ≤ a ∧ a + n ≤ r.2)

/-- Base of the register pages and their size (R419). -/
def regPageBase : Nat := 0xFFFFFFFC00000
def regPageOf (pa : Nat) : Option Nat :=
  if regPageBase ≤ pa ∧ pa < regPageBase + 64 * 0x10000 then some ((pa - regPageBase) / 0x10000) else none

/-- The line that holds an address (R225). -/
def lineOf (pa : Nat) : Nat := pa / 128 * 128

/-- The near-cache line of an address (R226). -/
def nearLine (pa : Nat) : Nat := pa / 256 * 256

/-- What a write of one byte does to a core's L1: the writing core's copy is updated, another core's copy goes stale
(R225). DEDUCED: log entry 10. -/
def Core.noteWrite (c : Core) (by_ : Option Nat) (pa : Nat) (old : Byte) : Core :=
  if by_ == some c.id then { c with stale := cellDrop pa c.stale }
  else if c.l1.contains (lineOf pa) && (cellAt pa c.stale).isNone then { c with stale := cellPut pa old c.stale }
  else c

/-- Keep a word's older value, unless an older one is kept. -/
def keepWord (pa : Nat) (old : Word) (ws : List (Nat × Word)) : List (Nat × Word) :=
  if ws.any fun w => w.1 == pa / 4 * 4 then ws else (pa / 4 * 4, old) :: ws

/-- What a write does to a core's fetches: until a CINV that covers the core a word gives its older value or its newer one.
A beam's store does so on every core, another agent's write where the core holds the line or may be fetching (R109).
DEDUCED: log entry 10. -/
def Core.noteStored (c : Core) (may : Bool) (pa : Nat) (old : Word) : Core :=
  if may || c.icache.contains (lineOf pa) then { c with iold := keepWord pa old c.iold } else c

/-- Does the core hold a resident cohort? -/
def State.coreBusy (s : State) (core : Nat) : Bool := s.cohorts.any fun c => c.core == core && c.st == .resident

/-- Write one byte of device memory, by a core or by another agent. DESIGN CHOICE: log entry 4. -/
def State.writeByte (s : State) (by_ : Option Nat) (pa : Nat) (x : Byte) : State :=
  let old := BitVec.ofNat 32 (leNat ((List.range 4).map fun k => s.mem.read (pa / 4 * 4 + k)))
  { s with
    mem := s.mem.write pa x
    stored := if by_.isSome then keepWord pa old s.stored else s.stored
    cores := s.cores.map fun c =>
      (c.noteWrite by_ pa (s.mem.read pa)).noteStored (by_.isSome || s.coreBusy c.id) pa old }

/-- Lines of far memory that the near slices of the address's partition hold at most (R13). DESIGN CHOICE: log entry 63. -/
def State.nearLines (s : State) (pa : Nat) : Option Nat :=
  (s.parts.find? fun p => inRanges p.far pa 1).map fun p => (p.slices.map (·.cache)).sum / 256

/-- The near cache makes room for a line: another, unspecified which, goes back to far memory (R13, R226).
DESIGN CHOICE: log entry 63. -/
def State.fitNear (s : State) (pa : Nat) : State :=
  match s.nearLines pa with
  | none => s
  | some n =>
    if s.dirty.length + s.older.length ≤ n then s
    else
      let ls := ((s.dirty ++ s.older).map fun c => nearLine c.1).eraseDups.filter fun l => s.nearLines l == some n
      let others := ls.filter (· != nearLine pa)
      if ls.length ≤ n || others.isEmpty then s
      else
        let out := others.getD (Config.freeNat s.free % others.length) 0
        { s with dirty := s.dirty.filter fun c => nearLine c.1 != out
                 older := s.older.filter fun c => nearLine c.1 != out }

/-- Far memory keeps its old byte when the near cache takes a newer one (R226). The near cache replaces no line by itself while
it has room. DESIGN CHOICE: log entry 63. -/
def State.keepFar (s : State) (pa : Nat) : State :=
  if (cellAt pa s.dirty).isSome then s
  else State.fitNear { s with dirty := cellPut pa (s.mem.read pa) s.dirty, older := cellDrop pa s.older } pa

/-- Write bytes at consecutive addresses; `cached` says that the page is TIER 2. -/
def State.writeBytes (s : State) (by_ : Option Nat) (cached : Bool) (pa : Nat) (bs : List Byte) : State :=
  match bs with
  | [] => s
  | x :: rest =>
    State.writeBytes ((if cached then s.keepFar pa else s).writeByte by_ pa x) by_ cached (pa + 1) rest

/-- The bytes of device memory at consecutive addresses. -/
def State.readBytes (s : State) (pa : Nat) : Nat → List Byte
  | 0 => []
  | n + 1 => s.mem.read pa :: s.readBytes (pa + 1) n

/-- A number in device memory. -/
def State.readNat (s : State) (pa n : Nat) : Nat := leNat (s.readBytes pa n)

/-- Write a number to near memory by an agent beneath every L1. -/
def State.writeNat (s : State) (pa n x : Nat) : State := s.writeBytes none false pa (natLe n x)

/-- A core drops lines of its L1, with what is older in them. DEDUCED: log entry 10. -/
def Core.dropLines (c : Core) (drop : Nat → Bool) : Core :=
  { c with l1 := c.l1.filter (fun l => !drop l), stale := c.stale.filter (fun x => !drop (lineOf x.1)) }

/-- A core drops lines of its instruction cache: fetches of them see every store (R109, R240). -/
def Core.dropFetch (c : Core) (drop : Nat → Bool) : Core :=
  { c with icache := c.icache.filter (fun l => !drop l), iold := c.iold.filter (fun w => !drop (lineOf w.1)) }

/-- Apply a change to one of the 256 cores; it is listed from then on. -/
def State.modCore (s : State) (c : Nat) (f : Core → Core) : State :=
  if (s.core? c).isSome then { s with cores := s.cores.map fun x => if x.id == c then f x else x }
  else if c < 256 then { s with cores := s.cores ++ [f { Core.reset c with iold := s.stored }] }
  else s

/-- A choice between two outcomes that a rule calls unspecified: of one kind, for one place, in one step.
DESIGN CHOICE: log entry 5. -/
def State.choose (s : State) (kind place : Nat) : Bool := Config.freeBit ((s.free * 64 + kind) * 2 ^ 64 + place)

/-- At most n entries: another than the newest, unspecified which, makes room. DESIGN CHOICE: log entry 5. -/
def State.keepMost {α : Type} (s : State) (n : Nat) (l : List α) : List α :=
  if l.length ≤ n then l else l.eraseIdx (1 + Config.freeNat s.free % n)

/-- Bytes as they stand with older ones where a list has them. -/
def olderBytes (old : List Host.Cell) (pa : Nat) (now : List Byte) : List Byte :=
  now.zipIdx.map fun p => (cellAt (pa + p.2) old).getD p.1

/-- The bytes that a core reads at a scope: memory, or for a narrow scope what its L1 holds, which may be older; the
choice is free where they differ (R225). DESIGN CHOICE: log entry 4. DESIGN CHOICE: log entry 5. -/
def State.coreRead (s : State) (c : Nat) (wide : Bool) (pa n : Nat) : List Byte :=
  let now := s.readBytes pa n
  if wide then now
  else
    let old := olderBytes (s.coreOf c).stale pa now
    if old == now then now else if s.choose 0 pa then old else now

/-- Lines of the L1: 256 KiB (R10). -/
def l1Lines : Nat := 2048

/-- The L1 takes a line. -/
def Core.allocate (c : Core) (s : State) (line : Nat) : Core :=
  if c.l1.contains line then c
  else
    let l1 := s.keepMost l1Lines (line :: c.l1)
    { c with l1 := l1, stale := if c.l1.length < l1Lines then c.stale else c.stale.filter fun y => l1.contains (lineOf y.1) }

/-- What a read leaves in the L1: the line is held; a read that took the bytes of memory replaces older ones, in whole
aligned units of 8 bytes, so that no later read mixes the halves of one store (R225, R304). DEDUCED: log entry 10. -/
def State.coreReadNote (s : State) (c : Nat) (wide : Bool) (pa n : Nat) : State :=
  let now := s.readBytes pa n
  let keep := s.coreRead c wide pa n != now
  s.modCore c fun x =>
    if wide then { x with stale := x.stale.filter fun y => !(decide (pa / 8 ≤ y.1 / 8 ∧ y.1 / 8 ≤ (pa + n - 1) / 8)) }
    else
      let x := if keep then x else { x with stale := x.stale.filter fun y => lineOf y.1 != lineOf pa }
      x.allocate s (lineOf pa)

/-- Is the address in a far range of some partition? -/
def State.isFar (s : State) (pa : Nat) : Bool := s.parts.any fun p => inRanges p.far pa 1

/-- One byte that another host of the pool writes to far memory (R226, R314): the near cache keeps a byte that this device
has written since, and may go on to give an older one to an access below `.sys`. -/
def State.poolByte (s : State) (pa : Nat) (x : Byte) : State :=
  if !s.isFar pa then s
  else if (cellAt pa s.dirty).isSome then { s with dirty := cellPut pa x s.dirty }
  else
    let old := s.mem.read pa
    let t := s.writeByte none pa x
    if (cellAt pa t.older).isSome then t else State.fitNear { t with older := cellPut pa old t.older } pa

def State.poolWrite (s : State) (pa : Nat) (bs : List Byte) : State :=
  (bs.zipIdx pa).foldl (fun (s : State) (p : Byte × Nat) => s.poolByte p.2 p.1) s

/-- The kernel for which a write to far memory was made. -/
def State.writerKernel (s : State) (who : Writer) : Option Nat :=
  match who with
  | .beam b => (s.beam? b).map (·.cohort.kernel)
  | .req r => (s.req? r).map (·.cohort.kernel)
  | _ => none

/-- A write to a far page waits for its CXL device's acknowledgement (R314). -/
def State.post (s : State) (who : Writer) (sys : Bool) (pa : Nat) : State :=
  let w : FarWrite := { who := who, kernel := s.writerKernel who, line := nearLine pa, sys := sys, since := s.clock }
  { s with posted := w :: s.posted.filter fun v => !(v.who == who && v.line == w.line && v.sys == sys) }

/-- Lines that the near cache holds newer are on their way to far memory, for a writer (R239, R314). -/
def State.flush (s : State) (who : Writer) (ls : List Nat) : State :=
  ls.foldl (fun (s : State) l => s.post who true l) { s with flushing := s.flushing ++ ls.filter fun l => !s.flushing.contains l }

/-- Does a write of a writer wait for its acknowledgement? -/
def State.unacked (s : State) (who : Writer) : Bool := s.posted.any fun w => w.who == who

/-- The port to which an HDM decoder sends an address: its granules go round its ports (R403). DEDUCED: log entry 33. -/
def Hdm.portOf (d : Hdm) (pa : Nat) : Nat := d.ports.getD ((pa - d.base) / d.gran % d.ports.length) 0

/-- Do the HDM decoders of an address lead to a CXL port that is down (R403, R404)? An address that none covers is reached
whatever the ports. DESIGN CHOICE: log entry 33. -/
def State.farDown (s : State) (pa : Nat) : Bool :=
  let ds := s.hdm.filter fun d => decide (d.base ≤ pa ∧ pa < d.limit)
  !ds.isEmpty && ds.all fun d => !s.cxl.any fun q => q.id == d.portOf pa && q.up

/-! ### Windows -/

/-- A byte of a cohort's window: written, or free (R348). DESIGN CHOICE: log entry 8. -/
def Cohort.byte (c : Cohort) (off : Nat) : Byte := (cellAt off c.win).getD (Config.windowByte c.seed off)

def Cohort.bytes (c : Cohort) (off : Nat) : Nat → List Byte
  | 0 => []
  | n + 1 => c.byte off :: c.bytes (off + 1) n

def Cohort.nat (c : Cohort) (off n : Nat) : Nat := leNat (c.bytes off n)

/-- Write bytes of a window. -/
def Cohort.put (c : Cohort) (off : Nat) (bs : List Byte) : Cohort :=
  { c with win := (bs.zipIdx off).foldl (fun w x => cellPut x.2 x.1 w) c.win }

def Cohort.putNat (c : Cohort) (off n x : Nat) : Cohort := c.put off (natLe n x)

/-- Is the granule that holds an offset tagged as a barrier (R366)? -/
def Cohort.tagged (c : Cohort) (off : Nat) : Bool := c.tags.contains (off / 32)

end Sys2Proof.Machine
end

