-- ==== Sys2Proof/Machine/Page.lean ====
section
/-! DEFINITION. Page tables, the walk, translations that a TLB keeps, and the permission checks (chapter 17, R66,
R315, R316). -/

namespace Sys2Proof.Machine

/-- Kinds of access that the permission checks tell apart (R378). -/
inductive Access where
  | read | write | rmw | fetch
  deriving DecidableEq, Repr

def Access.writes : Access → Bool
  | .write | .rmw => true
  | _ => false

/-! ### Entries -/

/-- The index of an address at a level (R375). -/
def levelIndex (lvl va : Nat) : Nat := bits va (56 - 10 * lvl) 10

def pteV (e : Nat) : Bool := bits e 0 1 == 1
def pteAP (e : Nat) : Bool := bits e 1 1 == 1
def pteR (e : Nat) : Bool := bits e 2 1 == 1
def pteW (e : Nat) : Bool := bits e 3 1 == 1
def pteX (e : Nat) : Bool := bits e 4 1 == 1
def pteS (e : Nat) : Bool := bits e 5 1 == 1
def pteTier (e : Nat) : Nat := bits e 6 2
def pteMig (e : Nat) : Bool := bits e 8 1 == 1
def pteA (e : Nat) : Bool := bits e 9 1 == 1
def pteD (e : Nat) : Bool := bits e 10 1 == 1
def ptePage (e : Nat) : Bool := bits e 11 1 == 1
def pteNext (e : Nat) : Nat := bits e 13 39 * 2 ^ 13
def pteFrame (e : Nat) : Nat := bits e 16 36 * 2 ^ 16

/-- Bytes of a page. -/
def pageBytes (large : Bool) : Nat := if large then 2 ^ 26 else 2 ^ 16

/-- Is the page a register page of a cluster that the partition owns (R419)? -/
def Partition.regPage (p : Partition) (pa : Nat) : Bool :=
  match regPageOf pa with
  | some c => p.clusters.contains c
  | none => false

/-- Order 2 of R378 for an entry at a level: reserved bits, and PAGE where it may not stand. -/
def pteBroken (lvl e : Nat) : Bool :=
  if ptePage e then
    decide (lvl ≤ 2) || bits e 52 12 != 0 || bits e 12 4 != 0 ||
      (!pteAP e && (pteTier e == 3 || (lvl == 3 && bits e 16 10 != 0)))
  else lvl == 4 || bits e 52 12 != 0 || bits e 12 1 != 0 || bits e 1 10 != 0

/-- Order 3 of R378: what the entry names lies in the partition. -/
def pteOutside (p : Partition) (lvl e : Nat) : Bool :=
  if ptePage e then
    if pteAP e then false
    else
      let n := pageBytes (lvl == 3)
      if pteTier e == 0 then !(inRanges p.near (pteFrame e) n || (lvl == 4 && p.regPage (pteFrame e)))
      else !inRanges p.far (pteFrame e) n
  else !inRanges p.near (pteNext e) 8192

/-! ### The walk -/

/-- Who translates: a beam of a core, an engine of a core, or an I/O die (R381). -/
inductive Via where
  | beam (core : Nat)
  | eng (core : Nat)
  | io (die : Nat)
  deriving DecidableEq, Repr

/-- The die of a core (R7). -/
def dieOf (core : Nat) : Nat := core / 64

def Via.core : Via → Option Nat
  | .beam c | .eng c => some c
  | .io _ => none

/-- The number of the die whose L2 TLB and walker serve it. -/
def Via.die : Via → Nat
  | .beam c | .eng c => dieOf c
  | .io d => d

/-- The I/O dies by what they serve here: accesses from the fabric, and those of the queues and the scheduler.
DEDUCED: log entry 50. -/
def viaHost : Via := .io 4
/-- The same for a plain access: A is set, and D where it writes. DEDUCED: log entry 50. -/
def viaQueue : Via := .io 5

/-- What tells one access's choice of a translation from another's: a beam's accesses have one for 64 bytes, an engine's
burst has one a page, large or small, and an access from outside one for 64 KiB (R67). DESIGN CHOICE: log entry 5. -/
def Via.choiceKey (v : Via) (large : Bool) (va : Nat) : Nat :=
  match v with
  | .beam _ => va / 64
  | .eng _ => 2 ^ 60 + va / pageBytes large
  | .io _ => 2 ^ 60 + va / 2 ^ 16

/-- How a walk ends: a leaf with its address and size, or a MEM.XLATE code. -/
inductive Walk where
  | leaf (at_ val : Nat) (large : Bool)
  | fault (code : Nat)
  deriving DecidableEq, Repr

/-- The address bits above a level (R375). -/
def levelPrefix (lvl va : Nat) : Nat := va / 2 ^ (56 - 10 * lvl)

/-- A table entry as the walker reads it: memory's, or one that its walk cache still keeps, unspecified which (R381). -/
def State.tableEntry (s : State) (v : Via) (ctx lvl va a : Nat) : Nat :=
  let e := s.readNat a 8
  let held := fun w : Nat × WalkEntry =>
    w.1 == v.die && w.2.ctx == ctx && w.2.lvl == lvl && w.2.idx == levelPrefix lvl va && w.2.val != e
  match s.walkc.find? held with
  | some w => if s.choose (8 + lvl) (v.choiceKey (decide (lvl ≤ 3)) va) then w.2.val else e
  | none => e

/-- Walk the levels that remain, from a table (R375, R378). -/
def State.walkFrom (s : State) (v : Via) (p : Partition) (ctx va : Nat) : List Nat → Nat → Walk
  | [], _ => .fault 1
  | lvl :: rest, table =>
    let a := table + 8 * levelIndex lvl va
    let e := s.tableEntry v ctx lvl va a
    if !pteV e then .fault 1
    else if pteBroken lvl e then .fault 4
    else if pteOutside p lvl e then .fault 1
    else if ptePage e then .leaf a e (lvl == 3)
    else s.walkFrom v p ctx va rest (pteNext e)

def State.walk (s : State) (v : Via) (x : Context) (va : Nat) : Walk :=
  match s.part? x.part with
  | some p => s.walkFrom v p x.id va [1, 2, 3, 4] x.root
  | none => .fault 1

/-- The table entries that a walk passes, by level. -/
def State.walkPath (s : State) (v : Via) (ctx va : Nat) : List Nat → Nat → List (Nat × WalkEntry)
  | [], _ => []
  | lvl :: rest, table =>
    let e := s.tableEntry v ctx lvl va (table + 8 * levelIndex lvl va)
    if ptePage e then []
    else (v.die, { ctx := ctx, lvl := lvl, idx := levelPrefix lvl va, val := e }) :: s.walkPath v ctx va rest (pteNext e)

/-- The first address of a range, and those at which it enters another 64 KiB page. -/
def pagesOf (va n : Nat) : List Nat :=
  if n == 0 then []
  else va :: (List.range ((va + n - 1) / 65536 - va / 65536)).map fun k => (va / 65536 + 1 + k) * 65536

/-! ### Translation -/

/-- May a cached translation serve an access? A write whose cached leaf has D = 0 walks again (R381). -/
def TlbEntry.serves (t : TlbEntry) (ctx va : Nat) (write : Bool) : Bool :=
  t.ctx == ctx && t.vpn == va / pageBytes t.large && (!write || pteD t.leaf)

/-- Does a walk end at what a TLB holds? -/
def Walk.agrees (w : Walk) (t : TlbEntry) : Bool :=
  match w with
  | .leaf a e large => a == t.at_ && e == t.leaf && large == t.large
  | .fault _ => false

/-- A cached translation that differs from the walk's and that the access takes, unspecified whether (R383, R385). -/
def State.stalePick (s : State) (v : Via) (kind va : Nat) (w : Walk) (ts : List TlbEntry) : Option TlbEntry :=
  match ts.find? fun t => !w.agrees t with
  | some t => if s.choose kind (v.choiceKey t.large va) then some t else none
  | none => none

/-- Where the leaf of an access comes from (R381). -/
inductive LeafFrom where
  | l1 (t : TlbEntry)
  | l2 (t : TlbEntry)
  | walk (w : Walk)
  deriving DecidableEq, Repr

/-- The leaf that an access uses: the core's L1 TLB, the die's L2 TLB, or the walk (R381, R383, R385).
DESIGN CHOICE: log entry 5. -/
def State.leafFrom (s : State) (v : Via) (write : Bool) (x : Context) (va : Nat) : LeafFrom :=
  let w := s.walk v x va
  let l1 := match v.core with
    | some c => (s.coreOf c).tlb.filter fun t => t.serves x.id va write
    | none => []
  let l2 := (s.dieTlb.filter fun t => t.1 == v.die && t.2.serves x.id va write).map (·.2)
  match s.stalePick v 2 va w l1 with
  | some t => .l1 t
  | none =>
    match s.stalePick v 3 va w l2 with
    | some t => .l2 t
    | none => .walk w

def LeafFrom.leaf : LeafFrom → Walk
  | .l1 t | .l2 t => .leaf t.at_ t.leaf t.large
  | .walk w => w

/-- A translated address: an address in a frame with its tier, an absent page, or a failed walk. -/
inductive Xl where
  | page (pa tier leaf at_ : Nat) (large : Bool)
  | absent (leaf at_ : Nat) (large : Bool)
  | fault (code : Nat)
  deriving DecidableEq, Repr

/-- Does the partition configure near slices as a cache of far memory (R380)? -/
def Partition.caches (p : Partition) : Bool := p.slices.any fun c => c.cache != 0

/-- The tier by which a context reaches a page: without cache slices TIER 2 is reached as TIER 1 (R380). -/
def State.tierFor (s : State) (x : Context) (e : Nat) : Nat :=
  if pteTier e == 2 && !((s.part? x.part).any Partition.caches) then 1 else pteTier e

/-- Translate an address of a context for an access, or for a write (R375 to R378, R380). -/
def State.xlate (s : State) (v : Via) (write : Bool) (x : Context) (va : Nat) : Xl :=
  match (s.leafFrom v write x va).leaf with
  | .fault c => .fault c
  | .leaf a e large =>
    if pteAP e then .absent e a large
    else .page (pteFrame e / pageBytes large * pageBytes large + va % pageBytes large) (s.tierFor x e) e a large

def Xl.leaf? : Xl → Option Nat
  | .page _ _ e _ _ => some e
  | .absent e _ _ => some e
  | .fault _ => none

/-- Trap groups of R409. -/
def gFETCH : Nat := 1
def gENCODING : Nat := 2
def gREGISTER : Nat := 3
def gPRIV : Nat := 4
def gARITH : Nat := 5
def gCONV : Nat := 6
def gXLATE : Nat := 8
def gPROT : Nat := 9
def gALIGN : Nat := 10
def gSPACE : Nat := 11
def gSYNC : Nat := 12
def gENGINE : Nat := 13
def gMSG : Nat := 14
def gDEBUG : Nat := 15
def gSOFTWARE : Nat := 16
def gHWERR : Nat := 17
def gREPLAY : Nat := 19

/-- Must the access wait for a migrating page (R386)? -/
def Xl.migrates (t : Xl) (acc : Access) : Bool :=
  match t with
  | .page _ _ e _ _ => acc.writes && pteMig e
  | _ => false

/-- The conditions of MEM.XLATE and MEM.PROT that an access meets, as group and code (R222, R66, R316, R378). A write
through a migrating leaf is not judged yet. DEDUCED: log entry 50. -/
def xlFaults (x : Context) (acc : Access) (t : Xl) : List (Nat × Nat) :=
  let prot := fun e : Nat =>
    (if (acc == .read || acc == .rmw) && !pteR e then [(gPROT, 1)] else []) ++
    (if acc.writes && !pteW e then [(gPROT, 2)] else []) ++
    (if pteS e && !x.world then [(gPROT, 3)] else [])
  match t with
  | .fault c => [(gXLATE, c)]
  | .absent e _ _ => if acc.writes then [(gXLATE, 2)] else prot e
  | .page _ _ e _ _ => if acc.writes && pteMig e then [] else prot e

/-- The FETCH code of a fetch, first of XLATE, ABSENT_PAGE and PROT (R124). -/
def fetchFault (x : Context) (t : Xl) : Option Nat :=
  match t with
  | .fault _ => some 4
  | .absent .. => some 6
  | .page _ _ e _ _ => if !pteX e || pteS e != x.world then some 5 else none

/-- The leaf with A, and for a write D, set (R379). DEDUCED: log entry 50. -/
def leafTouched (e : Nat) (write : Bool) : Nat :=
  let e := if pteA e then e else e + 2 ^ 9
  if write && !pteD e then e + 2 ^ 10 else e

def TlbEntry.same (t u : TlbEntry) : Bool := u.ctx == t.ctx && u.vpn == t.vpn && u.large == t.large

/-- The L1 TLB of 256 entries takes a leaf (R381). -/
def State.fillL1 (s : State) (v : Via) (t : TlbEntry) : State :=
  match v.core with
  | some c => s.modCore c fun k => { k with tlb := s.keepMost 256 (t :: k.tlb.filter fun u => !t.same u) }
  | none => s

/-- The L2 TLB of 16,384 entries of a die takes a leaf (R381). -/
def State.fillL2 (s : State) (v : Via) (t : TlbEntry) : State :=
  let mine := s.keepMost 16384 (t :: ((s.dieTlb.filter fun u => u.1 == v.die).map (·.2)).filter fun u => !t.same u)
  { s with dieTlb := mine.map (fun u => (v.die, u)) ++ s.dieTlb.filter fun u => u.1 != v.die }

/-- The walk cache keeps the table entries of a walk (R381). -/
def State.keepPath (s : State) (path : List (Nat × WalkEntry)) : State :=
  { s with walkc := path ++ s.walkc.filter fun w => !path.any fun p =>
      p.1 == w.1 && p.2.ctx == w.2.ctx && p.2.lvl == w.2.lvl && p.2.idx == w.2.idx }

/-- What a translation leaves behind. A walk sets A, and D for an access that writes, in the leaf that it has just read, so that its
compare-and-swap finds that value (R379), and fills both TLBs and the walk cache; a leaf of the L2 fills the L1 (R381). A
cached leaf has A set already, and D where it serves a write. DEDUCED: log entry 50. -/
def State.xlNoteAs (s : State) (v : Via) (write wrote : Bool) (x : Context) (va : Nat) : State :=
  match s.leafFrom v write x va with
  | .l1 _ => s
  | .l2 t => s.fillL1 v t
  | .walk (.fault _) => s
  | .walk (.leaf a e large) =>
    let e' := leafTouched e (wrote && !pteAP e)
    let t : TlbEntry := { ctx := x.id, vpn := va / pageBytes large, large := large, leaf := e', at_ := a }
    let path := s.walkPath v x.id va [1, 2, 3] x.root
    let s := if e' == e then s else s.writeNat a 8 e'
    ((s.fillL2 v t).fillL1 v t).keepPath path

/-- The same for a plain access: A is set, and D where it writes. DEDUCED: log entry 50. -/
def State.xlNote (s : State) (v : Via) (write : Bool) (x : Context) (va : Nat) : State := s.xlNoteAs v write write x va

/-- Drop translations: those that `drop` names, in the cores and dies that `core` and `die` name, and the entries of the
walk caches that `walks` names (R384). -/
def State.dropTlb (s : State) (core die : Nat → Bool) (drop : TlbEntry → Bool) (walks : Nat × WalkEntry → Bool) : State :=
  { s with
    cores := s.cores.map fun k => if core k.id then { k with tlb := k.tlb.filter (fun t => !drop t) } else k
    dieTlb := s.dieTlb.filter fun t => !(die t.1 && drop t.2)
    walkc := s.walkc.filter fun w => !walks w }

/-- Does a cached translation cover an address of a context? -/
def TlbEntry.covers (t : TlbEntry) (ctx va : Nat) : Bool := t.ctx == ctx && t.vpn == va / pageBytes t.large

/-- Does an entry of a walk cache cover an address of a context, from a level downwards? -/
def WalkEntry.covers (w : WalkEntry) (ctx lvl va : Nat) : Bool :=
  w.ctx == ctx && decide (lvl ≤ w.lvl) && w.idx / 2 ^ (10 * (w.lvl - lvl)) == levelPrefix lvl va

end Sys2Proof.Machine
end

