-- ==== Sys2Proof/Machine/Beams.lean ====
section
/-! DEFINITION. Registers, writer stamps, the split table and the divergence stack of one beam (chapter 04). Nothing here
looks beyond the beam. -/

namespace Sys2Proof.Machine

/-! ### Lanes -/

/-- The mask of lanes 0 to w − 1. -/
def fullMask (w : Nat) : Mask := BitVec.ofNat 64 (2 ^ w - 1)

/-- The quadrant of a beam slot (R76, R423). -/
def quadOf (slot : Nat) : Nat := if slot < 64 then slot / 16 else (slot - 64) / 4

/-- A slot's place in its quadrant: 0 to 15, or 16 to 19 of a glint slot. -/
def slotIndex (slot : Nat) : Nat := if slot < 64 then slot % 16 else 16 + (slot - 64) % 4

/-- The lanes of a mask, lowest first. -/
def lanesOf (m : Mask) : List Nat := (List.range 64).filter m.getLsbD

/-- The leading lane of a mask, 0 of an empty one. -/
def leadOf (m : Mask) : Nat := (lanesOf m).headD 0

/-- The mask of a list of lanes. -/
def maskOf (ls : List Nat) : Mask := ls.foldl (fun m i => m ||| (1#64 <<< i)) 0

/-- Lanes of the beam that have not exited. -/
def Beam.live (b : Beam) : Mask := fullMask b.w &&& ~~~b.exited

/-! ### Entries -/

def Entry.none_ : Entry :=
  { st := .free, pc := 0, mask := 0, join := none, parent := none, arrived := 0, rstack := [], blk := none
    wait := none, carry := none, back := false, since := 0, passed := 0, promoted := false, ready := 0
    yielded := none, cand := false, owed := none }

def Beam.entry (b : Beam) (e : Nat) : Entry := b.split.getD e Entry.none_

def Beam.setEntry (b : Beam) (e : Nat) (x : Entry) : Beam := { b with split := b.split.set e x }

/-- Indices of the entries in a state. -/
def Beam.entriesIn (b : Beam) (st : EState) : List Nat :=
  (List.range b.split.length).filter fun e => (b.entry e).st == st

/-- R80: one run entry, no join and no held entry, and an empty divergence stack. A beam in trap mode holds its trapped
fragment, so it is not converged. -/
def Beam.converged (b : Beam) : Bool :=
  b.trap.isNone && (b.entriesIn .run).length == 1 && (b.entriesIn .join).isEmpty && (b.entriesIn .held).isEmpty &&
    b.dstack.isEmpty

/-- Records that the running code may see: in trap mode only the handler's own (R82, R408). -/
def Beam.records (b : Beam) : List DRec :=
  match b.trap with
  | none => b.dstack
  | some t => b.dstack.take (b.dstack.length - t.depth)

/-- Does entry `e` own a record that its code may see: is the fragment in stacked mode (R82)? -/
def Beam.stacked (b : Beam) (e : Nat) : Bool := b.records.any fun r => r.owner == e

/-- Is the handler one fragment over all the trapped lanes (R408)? -/
def Beam.handlerWhole (b : Beam) : Bool :=
  match b.trap with
  | none => false
  | some t => (b.entriesIn .run).length == 1 && b.records.isEmpty &&
      (b.entriesIn .run).all (fun e => (b.entry e).mask == t.held.mask &&& ~~~b.exited)

/-! ### Writer stamps (R86) -/

def Stamps.none_ : Stamps := { s := List.replicate 64 none, k := List.replicate 8 none, sp := List.replicate 8 none }

/-- R86: may a fragment with leading lane `lead` write under a stamp? -/
def stampAllows (stamp : Option Nat) (lead : Nat) : Bool :=
  match stamp with
  | none => true
  | some l => decide (lead ≤ l)

/-- Every stamp of a converged beam is none, and so are the banked stamps of a handler in one fragment (R86, R408). -/
def Beam.restamp (b : Beam) : Beam :=
  if b.converged then { b with stamps := Stamps.none_ }
  else if b.handlerWhole then
    { b with trap := b.trap.map fun t => { t with bstamp := List.replicate 8 none } }
  else b

/-! ### Registers -/

/-- Is the number that of a banked register in trap mode (R79)? -/
def Beam.bankedV (b : Beam) (r : Nat) : Bool := b.trap.isSome && decide (240 ≤ r)
def Beam.bankedS (b : Beam) (r : Nat) : Bool := b.trap.isSome && decide (56 ≤ r)

/-- The lanes of a vector register. -/
def Beam.vreg (b : Beam) (r : Nat) : List Word :=
  match b.trap with
  | some t => if 240 ≤ r then t.bv.getD (r - 240) [] else b.v.getD r []
  | none => b.v.getD r []

def Beam.setVreg (b : Beam) (r : Nat) (x : List Word) : Beam :=
  match b.trap with
  | some t => if 240 ≤ r then { b with trap := some { t with bv := t.bv.set (r - 240) x } } else { b with v := b.v.set r x }
  | none => { b with v := b.v.set r x }

/-- The word of one lane. -/
def Beam.vl (b : Beam) (r i : Nat) : Word := (b.vreg r).getD i 0

/-- Write the lanes of a mask (R84). -/
def Beam.putV (b : Beam) (r : Nat) (m : Mask) (f : Nat → Word) : Beam :=
  b.setVreg r ((List.range b.w).map fun i => if m.getLsbD i then f i else b.vl r i)

/-- A scalar register. -/
def Beam.sreg (b : Beam) (r : Nat) : DWord :=
  match b.trap with
  | some t => if 56 ≤ r then t.bs.getD (r - 56) 0 else b.s.getD r 0
  | none => b.s.getD r 0

/-- Put 64 bits into a scalar register, whatever its stamp. -/
def Beam.storeS (b : Beam) (r : Nat) (x : DWord) : Beam :=
  match b.trap with
  | some t => if 56 ≤ r then { b with trap := some { t with bs := t.bs.set (r - 56) x } } else { b with s := b.s.set r x }
  | none => { b with s := b.s.set r x }

/-- May a fragment with leading lane `lead` write the register, and with which stamps afterwards (R86, R408)? None says
that the write is dropped. -/
def Beam.claimS (b : Beam) (lead r : Nat) : Option Beam :=
  match b.trap with
  | some t =>
    if 56 ≤ r then
      if b.handlerWhole then some b
      else if stampAllows (t.bstamp.getD (r - 56) none) lead then
        some { b with trap := some { t with bstamp := t.bstamp.set (r - 56) (some lead) } }
      else none
    else if stampAllows (b.stamps.s.getD r none) lead then
      some { b with stamps := { b.stamps with s := b.stamps.s.set r (some lead) } }
    else none
  | none =>
    if b.converged then some b
    else if stampAllows (b.stamps.s.getD r none) lead then
      some { b with stamps := { b.stamps with s := b.stamps.s.set r (some lead) } }
    else none

/-- A scalar write of a fragment with leading lane `lead`, under R86 and R408. -/
def Beam.putS (b : Beam) (lead r : Nat) (x : DWord) : Beam :=
  match b.claimS lead r with
  | some b' => b'.storeS r x
  | none => b

/-- Uniform truth registers. -/
def Beam.kreg (b : Beam) (r : Nat) : BitVec 2 := b.k.getD r 0

/-- R86: may a fragment with leading lane `lead` write the uniform truth register? -/
def Beam.admitsK (b : Beam) (lead r : Nat) : Bool := b.converged || stampAllows (b.stamps.k.getD r none) lead

def Beam.putK (b : Beam) (lead r : Nat) (x : BitVec 2) : Beam :=
  if b.converged then { b with k := b.k.set r x }
  else if b.admitsK lead r then
    { b with k := b.k.set r x, stamps := { b.stamps with k := b.stamps.k.set r (some lead) } }
  else b

/-- Places of the stamps of the special registers (R328). -/
inductive SpStamp where
  | status | ctl | epc | tcause | tlanes | tdetx | tdety | tdetz
  deriving DecidableEq, Repr

def SpStamp.at_ : SpStamp → Nat
  | .status => 0 | .ctl => 1 | .epc => 2 | .tcause => 3 | .tlanes => 4 | .tdetx => 5 | .tdety => 6 | .tdetz => 7

/-- A write of a beam-scope special register under R86 (R164). -/
def Beam.putSp (b : Beam) (lead : Nat) (p : SpStamp) (f : Beam → Beam) : Beam :=
  if b.converged then f b
  else if stampAllows (b.stamps.sp.getD p.at_ none) lead then
    { f b with stamps := { b.stamps with sp := b.stamps.sp.set p.at_ (some lead) } }
  else b

/-- Lane truth registers. -/
def Beam.cl (b : Beam) (r i : Nat) : BitVec 2 := (b.c.getD r []).getD i 0

def Beam.putC (b : Beam) (r : Nat) (m : Mask) (f : Nat → BitVec 2) : Beam :=
  { b with c := b.c.set r ((List.range b.w).map fun i => if m.getLsbD i then f i else b.cl r i) }

/-- Sticky flags (R41, R43). -/
def Beam.raise (b : Beam) (f : Flags) : Beam := { b with status := b.status ||| f }

/-! ### Full/empty bits (R78) -/

def Beam.vfullAt (b : Beam) (r : Nat) : Bool :=
  match b.trap with
  | some t => if 240 ≤ r then t.bvFull.getD (r - 240) true else b.vfull.getD r true
  | none => b.vfull.getD r true

def Beam.setVfull (b : Beam) (r : Nat) (x : Bool) : Beam :=
  match b.trap with
  | some t => if 240 ≤ r then { b with trap := some { t with bvFull := t.bvFull.set (r - 240) x } } else { b with vfull := b.vfull.set r x }
  | none => { b with vfull := b.vfull.set r x }

def Beam.sfullAt (b : Beam) (r : Nat) : Bool :=
  match b.trap with
  | some t => if 56 ≤ r then t.bsFull.getD (r - 56) true else b.sfull.getD r true
  | none => b.sfull.getD r true

def Beam.setSfull (b : Beam) (r : Nat) (x : Bool) : Beam :=
  match b.trap with
  | some t => if 56 ≤ r then { b with trap := some { t with bsFull := t.bsFull.set (r - 56) x } } else { b with sfull := b.sfull.set r x }
  | none => { b with sfull := b.sfull.set r x }

/-- Is every register of the beam full? -/
def Beam.allFull (b : Beam) : Bool :=
  b.vfull.all (fun x => x) && b.sfull.all (fun x => x) &&
    (match b.trap with | some t => t.bvFull.all (fun x => x) && t.bsFull.all (fun x => x) | none => true)

/-! ### Waits -/

/-- Has a flip, a fault or a BINV decided how a BWAIT ends (R370)? -/
def Wait.decided (w : Wait) : Bool := w.kind == .bwait && w.woken && decide (2 ^ 32 ≤ w.aux)

/-- Apply a change to every entry of the beam's fragments: in trap mode also to the trapped one, which is held, and to those
that a CTXLD has put in the user's place (R414, R331). -/
def Beam.mapEntries (b : Beam) (f : Entry → Entry) : Beam :=
  { b with split := b.split.map f
           trap := b.trap.map fun t => { t with held := f t.held, loaded := t.loaded.map fun l => (l.1.map f, l.2) } }

/-- Is there such an entry among all of these? -/
def Beam.anyEntry (b : Beam) (p : Entry → Bool) : Bool :=
  b.split.any p || b.trap.any fun t => p t.held || t.loaded.any fun l => l.1.any p

/-! ### Divergence and reconvergence (R80 to R83) -/

/-- The reconvergence header of an entry once a marker of its own has gone: that of its next record, or of the join
entry that it belongs to. -/
def Beam.joinBelow (b : Beam) (e : Nat) : Option Nat :=
  match b.records.find? (fun r => r.owner == e) with
  | some r => some r.j
  | none =>
    match (b.entry e).parent with
    | some p => some (b.entry p).pc
    | none => none

/-- A path's arrival at its reconvergence header by a backward branch is kept in the marker (R120). -/
def markBack (e j : Nat) : List DRec → List DRec
  | [] => []
  | r :: rs => if r.owner == e && r.marker && r.j == j then { r with back := true } :: rs else r :: markBack e j rs

/-- Remove the most recently pushed record that entry `e` owns, and go on from it: a path record gives its PC and
lanes, a marker its lanes less exited ones at J (R82, R146), which is a rest point where any path came there by a backward
branch (R120). An entry that owns none is freed (R83). -/
def Beam.pop (b : Beam) (e : Nat) : Beam :=
  match b.records.find? (fun r => r.owner == e) with
  | none => b.setEntry e Entry.none_
  | some r =>
    let x := b.entry e
    let came := x.back && x.pc == r.j
    let rest := b.dstack.erase r
    let b := { b with dstack := if came && !r.marker then markBack e r.j rest else rest }
    let go := fun (pc : Nat) (m : Mask) (j : Option Nat) =>
      b.setEntry e { x with st := .run, pc := pc, mask := m, join := j, arrived := 0, rstack := r.rstack, blk := r.blk
                            wait := none, carry := none
                            back := if r.marker then r.back || came else r.back }
    if r.marker then go r.j (r.mask &&& ~~~b.exited) (b.joinBelow e) else go r.pc (r.mask &&& ~~~b.exited) (some r.j)

/-- Pop until the fragment has lanes or its entry is free. -/
def Beam.popLive (b : Beam) (e : Nat) : Nat → Beam
  | 0 => b
  | fuel + 1 =>
    if (b.entry e).st == .run && (b.entry e).mask == 0 then (b.pop e).popLive e fuel else b

/-- Join entries whose lanes have all arrived or exited (R82, R83). -/
def Beam.ripe (b : Beam) : List Nat :=
  (b.entriesIn .join).filter fun j => ((b.entry j).mask &&& ~~~b.exited &&& ~~~(b.entry j).arrived) == 0

/-- Return one ripe join entry to run, with the lanes that arrived (R82, R146); where a lane came by a backward branch,
its header is a rest point (R120). -/
def Beam.resume (b : Beam) (j : Nat) : Beam :=
  let x := b.entry j
  (b.setEntry j { x with st := .run, mask := x.arrived &&& ~~~b.exited, arrived := 0, blk := none, wait := none
                         carry := none }).popLive j 20

/-- A join entry that has returned to run, for its RCV packet and the SYNC that this may need: the entry, its header, its
lanes (R425, R448). -/
structure Returned where
  entry : Nat
  pc    : Nat
  mask  : Mask
  deriving DecidableEq, Repr

/-- Let every ripe join entry return to run; the entries that did. -/
def Beam.settle (b : Beam) : Nat → Beam × List Returned
  | 0 => (b.restamp, [])
  | fuel + 1 =>
    match b.ripe with
    | [] => (b.restamp, [])
    | j :: _ =>
      let (b', js) := (b.resume j).settle fuel
      (b', { entry := j, pc := (b.entry j).pc, mask := (b.entry j).mask } :: js)

/-- Where a fragment arrives when it reaches header `h`, and the join entries that its lanes leave: its own JOIN names
its parent, the JOIN of an ancestor names that ancestor's parent (R82). The JOIN of an ancestor that owns records is that of
its marker, which holds the lanes already: they leave the ancestor and wait for the marker. DESIGN CHOICE: log entry 58. -/
def Beam.arrivalAt (b : Beam) (h : Nat) : Nat → Nat → List Nat → Option (Option Nat × List Nat)
  | 0, _, _ => none
  | fuel + 1, e, between =>
    let x := b.entry e
    if x.join == some h then
      let between := if x.st == .join then e :: between else between
      if x.st == .join && b.stacked e then some (none, between) else some (x.parent, between)
    else
      match x.parent with
      | some p => b.arrivalAt h fuel p (if x.st == .join then e :: between else between)
      | none => none

/-- Lanes leave join entries that they no longer wait at. -/
def Beam.leave (b : Beam) (m : Mask) (js : List Nat) : Beam :=
  js.foldl (fun (b : Beam) p =>
    let x := b.entry p
    b.setEntry p { x with mask := x.mask &&& ~~~m, arrived := x.arrived &&& ~~~m }) b

/-- What reaching a header does to the split table (R82): nothing, or an arrival after which the entry goes on
elsewhere. -/
def Beam.arrive (b : Beam) (e h : Nat) : Option (Beam × List Returned) :=
  match b.arrivalAt h 9 e [] with
  | none => none
  | some (target, between) =>
    if b.stacked e then some (((b.pop e).popLive e 20).settle 9)
    else
      let y := b.entry e
      let b := b.leave y.mask between
      let b := match target with
        | none => b
        | some j =>
          let x := b.entry j
          b.setEntry j { x with arrived := x.arrived ||| y.mask, back := x.back || y.back }
      some ((b.setEntry e Entry.none_).settle 9)

/-- One path of a branch: its target, its lanes, and whether it goes on at the next instruction, in the same block. -/
structure Path where
  target : Nat
  mask   : Mask
  inside : Bool
  deriving DecidableEq, Repr

/-- Paths with lanes, those of one target merged (R81, R144), in the order given; a path that one of its offsets names
is a transfer to that target. DESIGN CHOICE: log entry 58. -/
def mergePaths : List Path → List Path
  | [] => []
  | p :: ps =>
    let rest := mergePaths ps
    if p.mask == 0 then rest
    else
      let same := rest.filter (fun q => q.target == p.target)
      { p with mask := same.foldl (fun m q => m ||| q.mask) p.mask, inside := p.inside && same.all (·.inside) } :: rest.filter (fun q => q.target != p.target)

/-- Insert a path by its leading lane. -/
def pathInsert (p : Path) : List Path → List Path
  | [] => [p]
  | q :: qs => if leadOf p.mask ≤ leadOf q.mask then p :: q :: qs else q :: pathInsert p qs

/-- Diverge entry `e` over two or three paths to reconvergence header `j` (R81); none when the stack lacks room. A path
whose target lies at or below the branch is at a rest point (R97, R120). -/
def Beam.diverge (b : Beam) (e pc j : Nat) (paths : List Path) : Option Beam :=
  let x := b.entry e
  let free := b.entriesIn .free
  let back := fun p : Path => !p.inside && decide (p.target ≤ pc)
  let blk := fun p : Path => if p.inside then x.blk else none
  if paths.length ≤ free.length then
    let b := (paths.zip free).foldl (fun b pf =>
      b.setEntry pf.2 { x with st := .run, pc := pf.1.target, mask := pf.1.mask, join := some j, parent := some e
                               arrived := 0, blk := blk pf.1, wait := none, back := back pf.1 }) b
    some (b.setEntry e { x with st := .join, pc := j, arrived := 0, blk := none, wait := none, back := false })
  else if b.dstack.length + paths.length ≤ 16 then
    match paths.foldr pathInsert [] with
    | [] => none
    | first :: others =>
      let mark : DRec := { marker := true, pc := j, mask := x.mask, j := j, owner := e, rstack := x.rstack, blk := none
                           back := false }
      let recs := others.map fun p : Path =>
        ({ marker := false, pc := p.target, mask := p.mask, j := j, owner := e, rstack := x.rstack, blk := blk p, back := back p } : DRec)
      let b := { b with dstack := recs ++ mark :: b.dstack }
      some (b.setEntry e { x with pc := first.target, mask := first.mask, join := some j, blk := blk first, wait := none
                                  back := back first })
  else none

/-- Retire lanes of entry `e` (R83): the entry goes on without them, pops a record, or is freed. -/
def Beam.exitLanes (b : Beam) (e : Nat) : Beam × List Returned :=
  let x := b.entry e
  let b := { b with exited := b.exited ||| x.mask }
  ((b.setEntry e { x with mask := 0, blk := none }).popLive e 20).settle 9

/-- A beam with all of its lanes, its registers 0, full and without stamps. -/
def Beam.fresh (key : BeamKey) (cohort : CohortKey) (id w nv ns nc na nk : Nat) : Beam :=
  { key := key, cohort := cohort, id := id, w := w, nv := nv, ns := ns, nc := nc, na := na, nk := nk
    laneg := List.range w, coloff := 0
    v := List.replicate nv (List.replicate w 0), s := List.replicate ns 0
    c := List.replicate nc (List.replicate w 0), k := List.replicate nk 0
    tiles := List.replicate na { vals := List.replicate 1024 0, cnts := List.replicate 1024 0 }
    vfull := List.replicate nv true, sfull := List.replicate ns true, stamps := Stamps.none_, status := 0, ctl := 0
    pl := false, epc := 0, tcause := 0, tlanes := 0, tdetx := 0, tdety := 0, tdetz := 0, exited := 0
    split := List.replicate 8 Entry.none_, dstack := [], trap := none, pend := none, hist := [], glint := none, sends := []
    owesSync := false, packets := 0, syncW := w, retiring := false, rdy := [], behind := [] }

end Sys2Proof.Machine
end

