-- ==== Sys2Proof/Machine/Trace.lean ====
section
/-! DEFINITION. Periscope's packets and rings, and the register page of a core (chapter 20). -/

namespace Sys2Proof.Machine

/-- Unsigned LEB128 (R423). -/
def leb : Nat → Nat → List Byte
  | 0, _ => []
  | fuel + 1, n => if n < 128 then [BitVec.ofNat 8 n] else BitVec.ofNat 8 (n % 128 + 128) :: leb fuel (n / 128)

/-- A mask of a beam of width w in a packet. -/
def maskBytes (w : Nat) (m : Mask) : List Byte := natLe ((w + 7) / 8) m.toNat

/-- Fields of PSCTL (R421). -/
def TraceUnit.en (t : TraceUnit) : Bool := t.ctl.getLsbD 63
def TraceUnit.br (t : TraceUnit) : Bool := t.ctl.getLsbD 62
def TraceUnit.mark (t : TraceUnit) : Bool := t.ctl.getLsbD 61
def TraceUnit.memMode (t : TraceUnit) : Nat := if bits t.ctl.toNat 59 2 == 3 then 0 else bits t.ctl.toNat 59 2
def TraceUnit.dim (t : TraceUnit) : Bool := t.ctl.getLsbD 58
def TraceUnit.syncN (t : TraceUnit) : Nat := if bits t.ctl.toNat 32 16 == 0 then 256 else bits t.ctl.toNat 32 16

/-- Deterministic issue mode of a core (R435). -/
def Core.dim (c : Core) : Bool := c.trace.dim

/-- Free bytes of a ring; none while the reader's pointer is past the writer's (R422). -/
def ringFree (size wp rp : DWord) : Nat :=
  if rp.toNat > wp.toNat then 0 else size.toNat - (wp.toNat - rp.toNat)

/-- Write bytes into a ring at its write pointer, beneath every L1 (R422). -/
def State.ringWrite (s : State) (base size wp : Nat) (bs : List Byte) : State :=
  (bs.zipIdx wp).foldl (fun s x => s.writeByte none (base + x.2 % size) x.1) s

/-- The kernel of a beam. -/
def State.kernelOf (s : State) (b : Beam) : Option Kernel := s.kernel? b.cohort.kernel

/-- A fragment as a SYNC describes it: the kernel, the beam's slot, number and width, the split entry, the address of the
instruction that it issued, and its lanes (R426, R448). -/
structure Site where
  kernel : Nat
  key    : BeamKey
  id     : Nat
  w      : Nat
  entry  : Nat
  pc     : Nat
  mask   : Mask
  deriving DecidableEq, Repr

/-- An entry of a beam at an address. -/
def Beam.site (b : Beam) (e pc : Nat) (mask : Mask) : Site :=
  { kernel := b.cohort.kernel, key := b.key, id := b.id, w := b.w, entry := e, pc := pc, mask := mask }

/-- A SYNC packet (R424, R448). -/
def State.syncBytes (s : State) (x : Site) : List Byte :=
  let k := s.kernel? x.kernel
  [0x01, BitVec.ofNat 8 x.key.slot, BitVec.ofNat 8 x.id] ++ natLe 2 ((k.map (·.queue)).getD 0) ++
    natLe 8 ((k.map (·.seq)).getD 0) ++ natLe 8 s.clock ++ natLe 7 x.pc ++
    [BitVec.ofNat 8 x.w, BitVec.ofNat 8 x.entry] ++ natLe 8 x.mask.toNat

/-- The bytes of a packet from its delta and the width of the beam's last SYNC (R423). -/
def Packet.bytes (p : Packet) (delta w : Nat) : List Byte :=
  p.typ :: leb 10 delta ++ p.pieces.flatMap fun x => match x with | .raw bs => bs | .mask m => maskBytes w m

/-- A packet of a beam in this cycle, with the SYNC that it may need: it goes to the ring at the cycle's end, where its place
among the cycle's packets is known (R423). It takes over the SYNC that its beam owes (R426). DEDUCED: log entry 36. -/
def State.packet (s : State) (x : Site) (typ : Byte) (pieces : List TracePiece) : State :=
  if !(s.coreOf x.key.core).trace.en then s
  else
    let b := s.beam? x.key
    let p : Packet :=
      { beam := x.key, sync := s.syncBytes x, owed := (b.map (·.owesSync)).getD false, w := x.w
        syncW := (b.map fun b => if b.owesSync then b.w else b.syncW).getD x.w, typ := typ, pieces := pieces }
    let s := match b with
      | some b => s.setBeam { b with owesSync := false, syncW := p.syncW }
      | none => s
    s.modCore x.key.core fun c => { c with trace := { c.trace with cycle := c.trace.cycle ++ [p] } }

/-- Write a packet into the ring with the LOSS and the SYNC that must precede it, all together or not at all (R426, R427,
R448, R449). DEDUCED: log entry 36. -/
def State.writePacket (s : State) (p : Packet) : State :=
  let t := (s.coreOf p.beam.core).trace
  let b := s.beam? p.beam
  let owes := p.owed || t.pending != 0 || (b.any fun b => decide (t.syncN ≤ b.packets))
  let loss := if t.pending != 0 then 0x04 :: leb 10 t.pending else []
  let bs := loss ++ (if owes then p.sync else []) ++ p.bytes (if owes then 0 else s.clock - t.last)
    (if owes then p.w else p.syncW)
  if bs.length ≤ ringFree t.size t.wp t.rp then
    let s := s.ringWrite t.base.toNat t.size.toNat t.wp.toNat bs
    let s : State := { s with
      beams := s.beams.map fun x =>
        if x.key == p.beam then { x with packets := (if owes then 0 else x.packets) + 1 }
        else if t.pending != 0 && x.key.core == p.beam.core then { x with packets := 65536 } else x }
    s.modCore p.beam.core fun c =>
      { c with trace := { c.trace with wp := t.wp + BitVec.ofNat 64 bs.length, pending := 0, last := s.clock } }
  else
    let n := if owes then 2 else 1
    let s : State := { s with
      beams := s.beams.map fun x => if owes && x.key == p.beam then { x with owesSync := true } else x }
    s.modCore p.beam.core fun c =>
      { c with trace := { c.trace with lost := t.lost + BitVec.ofNat 64 n, pending := t.pending + n } }

/-- Does a packet stand before another of its cycle: by quadrant, then by slot (R423)? -/
def Packet.before (p q : Packet) : Bool :=
  decide (quadOf p.beam.slot < quadOf q.beam.slot) ||
    (quadOf p.beam.slot == quadOf q.beam.slot && decide (slotIndex p.beam.slot < slotIndex q.beam.slot))

/-- Put a packet behind those that it does not stand before. -/
def Packet.insert (p : Packet) : List Packet → List Packet
  | [] => [p]
  | q :: qs => if p.before q then p :: q :: qs else q :: p.insert qs

/-- A cycle's packets in the order of the ring; those of one slot stay as they came. -/
def cyclePackets (ps : List Packet) : List Packet := ps.foldl (fun l p => p.insert l) []

/-- A core's packets of this cycle go to its ring. -/
def State.flushTrace (s : State) (core : Nat) : State :=
  let ps := cyclePackets (s.coreOf core).trace.cycle
  if ps.isEmpty then s
  else
    (ps.foldl State.writePacket s).modCore core fun c => { c with trace := { c.trace with cycle := [] } }

/-- A BR packet (R425). -/
def State.brPacket (s : State) (b : Beam) (e pc kind : Nat) (mask t u : Mask) : State :=
  if (s.coreOf b.key.core).trace.br then
    s.packet (b.site e pc mask) 0x02
      [.raw [BitVec.ofNat 8 b.key.slot, BitVec.ofNat 8 (kind + 4 * e)], .mask t, .mask u]
  else s

/-- The BR packet of a JMPI (R425). -/
def State.jmpPacket (s : State) (b : Beam) (e pc : Nat) (mask : Mask) (target : Nat) : State :=
  if (s.coreOf b.key.core).trace.br then
    s.packet (b.site e pc mask) 0x02 [.raw ([BitVec.ofNat 8 b.key.slot, BitVec.ofNat 8 (3 + 4 * e)] ++ natLe 7 target)]
  else s

/-- The RCV packets of join entries that returned to run (R425, R448). -/
def State.rcvPackets (s : State) (b : Beam) (js : List Returned) : State :=
  js.foldl (fun (s : State) (j : Returned) =>
    if (s.coreOf b.key.core).trace.br then
      s.packet (b.site j.entry j.pc j.mask) 0x03 [.raw [BitVec.ofNat 8 b.key.slot, BitVec.ofNat 8 j.entry]]
    else s) s

/-- A SYNC is owed by a beam (R426). -/
def Beam.oweSync (b : Beam) : Beam := { b with owesSync := true }

/-! ### The register page (R419 to R422, R432) -/

/-- Do [base, base + size) lie in near frames of the partition that owns the core (R421)? -/
def State.ringPlaced (s : State) (core : Nat) (base size : DWord) : Bool :=
  match s.parts.find? (fun p => p.clusters.contains (core / 4)) with
  | some p => inRanges p.near base.toNat size.toNat
  | none => false

/-- Is the size one that a ring may have? -/
def ringSizeOk (size : DWord) : Bool :=
  let n := size.toNat
  decide (4096 ≤ n ∧ n ≤ 2 ^ 30) && n == 2 ^ Nat.log2 n

/-- A write of PSCTL (R421): EN only with a ring that may be used, DIM only on an idle core; an enable owes every beam a
SYNC (R426) and starts the deltas (R423). -/
def State.psctl (s : State) (core : Nat) (w : DWord) : State :=
  let c := s.coreOf core
  let t := c.trace
  let en := w.getLsbD 63 && ringSizeOk t.size && s.ringPlaced core t.base t.size
  let dim := if s.coreBusy core then t.dim else w.getLsbD 58
  let keep : DWord := w &&& 0x7800FFFF00000000
  let ctl := keep ||| (if en then 0x8000000000000000 else 0) ||| (if dim then 0x0400000000000000 else 0)
  let s := s.modCore core fun c =>
    { c with trace := { t with ctl := ctl, last := if en && !t.en then s.clock else t.last } }
  if en && !t.en then
    { s with beams := s.beams.map fun b => if b.key.core == core then b.oweSync else b }
  else s

/-- A write of SPCTL (R421). -/
def State.spctl (s : State) (core : Nat) (w : DWord) : State :=
  let p := (s.coreOf core).spec
  let en := w.getLsbD 63 && ringSizeOk p.spsize && s.ringPlaced core p.spbase p.spsize
  s.modCore core fun c =>
    { c with spec := { p with spctl := (w &&& 0xFFFFFFFF) ||| (if en then 0x8000000000000000 else 0) } }

/-- A write of SGCTL: EN, and CLR clears every counter and reads 0 (R420). -/
def State.sgctl (s : State) (core : Nat) (w : DWord) : State :=
  s.modCore core fun c =>
    { c with spec := { c.spec with
        ctl := w &&& 0x8000000000000000
        sg := if w.getLsbD 62 then List.replicate 4 (List.replicate 18 0) else c.spec.sg } }

/-- A write of a counter (R432). -/
def State.sgSet (s : State) (core q n : Nat) (w : DWord) : State :=
  s.modCore core fun c =>
    { c with spec := { c.spec with sg := c.spec.sg.modify q fun l => l.set n (w.toNat % 2 ^ 48) } }

/-- Write one to clear overflow bits (R420). -/
def State.sgstat (s : State) (core q : Nat) (w : DWord) : State :=
  s.modCore core fun c =>
    { c with spec := { c.spec with stat := c.spec.stat.modify q fun x => x &&& (2 ^ 18 - 1 - w.toNat % 2 ^ 18) } }

/-- Registers with no behaviour of their own: the value is stored, without its reserved bits (R6, R420). -/
def State.regPlain (s : State) (core off : Nat) (w : DWord) : State :=
  s.modCore core fun c =>
    let t := c.trace
    let p := c.spec
    if off == 0x008 then { c with trace := { t with base := w &&& 0xFFFFFFFFFF000 } }
    else if off == 0x010 then { c with trace := { t with size := w } }
    else if off == 0x020 then { c with trace := { t with rp := w } }
    else if 0x040 ≤ off ∧ off < 0x0C0 then
      let k := (off - 0x040) / 16
      if off % 16 == 0 then { c with trace := { t with wbase := t.wbase.set k (w &&& 0xC0FFFFFFFFFFFFFF) } }
      else { c with trace := { t with wlimit := t.wlimit.set k (w &&& 0xFFFFFFFFFFFFFF) } }
    else if off == 0x608 then { c with spec := { p with spbase := w &&& 0xFFFFFFFFFF000 } }
    else if off == 0x610 then { c with spec := { p with spsize := w } }
    else if off == 0x620 then { c with spec := { p with sprp := w } }
    else c

/-- Quadrant and counter of an offset in the counter blocks. -/
def sgPlace (off : Nat) : Option (Nat × Nat) :=
  if 0x200 ≤ off ∧ off < 0x600 ∧ off % 8 == 0 ∧ off % 0x100 ≤ 0x90 then some ((off - 0x200) / 0x100, off % 0x100 / 8)
  else none

/-- The value of a register of the page; an offset that no register occupies reads 0 (R419, R420). -/
def State.regRead (s : State) (core off : Nat) : DWord :=
  let c := s.coreOf core
  let t := c.trace
  let p := c.spec
  match sgPlace off with
  | some (q, n) =>
    if n == 18 then BitVec.ofNat 64 (p.stat.getD q 0) else BitVec.ofNat 64 ((p.sg.getD q []).getD n 0)
  | none =>
    if off == 0x000 then t.ctl else if off == 0x008 then t.base else if off == 0x010 then t.size
    else if off == 0x018 then t.wp else if off == 0x020 then t.rp else if off == 0x028 then t.lost
    else if 0x040 ≤ off ∧ off < 0x0C0 ∧ off % 8 == 0 then
      (if off % 16 == 0 then t.wbase else t.wlimit).getD ((off - 0x040) / 16) 0
    else if off == 0x100 then p.ctl
    else if off == 0x600 then p.spctl else if off == 0x608 then p.spbase else if off == 0x610 then p.spsize
    else if off == 0x618 then p.spwp else if off == 0x620 then p.sprp else if off == 0x628 then p.spdrop
    else 0

/-- A write of one register of the page. -/
def State.regWrite (s : State) (core off : Nat) (w : DWord) : State :=
  match sgPlace off with
  | some (q, n) => if n == 18 then s.sgstat core q w else s.sgSet core q n w
  | none =>
    if off == 0x000 then s.psctl core w
    else if off == 0x100 then s.sgctl core w
    else if off == 0x600 then s.spctl core w
    else s.regPlain core off w

/-- The core and offset that an address of the register pages names (R419). -/
def regCell (pa : Nat) : Nat × Nat :=
  let r := pa - regPageBase
  (4 * (r / 0x10000) + r % 0x10000 / 0x4000, r % 0x4000)

/-- Read 4 or 8 bytes of a register page. -/
def State.pageRead (s : State) (pa n : Nat) : List Byte :=
  let (core, off) := regCell pa
  let w := (s.regRead core (off / 8 * 8)).toNat
  natLe n (if n == 4 && off % 8 == 4 then w / 2 ^ 32 else w)

/-- Write 4 or 8 bytes of a register page: a half keeps the other half, which for a write-one-to-clear register is 0. -/
def State.pageWrite (s : State) (pa : Nat) (bs : List Byte) : State :=
  let (core, off) := regCell pa
  let r := off / 8 * 8
  let old := match sgPlace r with
    | some (_, 18) => 0
    | _ => (s.regRead core r).toNat
  let x := leNat bs
  let w := if bs.length == 8 then x
    else if off % 8 == 4 then x * 2 ^ 32 + old % 2 ^ 32 else old / 2 ^ 32 * 2 ^ 32 + x
  s.regWrite core r (BitVec.ofNat 64 w)

end Sys2Proof.Machine
end

