-- ==== Sys2Proof/Machine/Fetch.lean ====
section
/-! DEFINITION. Instruction fetch and the header checks (R108, R109, R118 to R124). -/

namespace Sys2Proof.Machine

/-- The context of a beam. -/
def State.contextOf (s : State) (b : Beam) : Option Context :=
  match s.kernelOf b with
  | some k => s.context? k.ctx
  | none => none

/-- A fetched word at a physical address: memory's, or after a store the older one, unspecified which (R109). -/
def State.fetchPa (s : State) (core pa : Nat) : Word :=
  let now := BitVec.ofNat 32 (s.readNat pa 4)
  match (s.coreOf core).iold.find? (fun w => w.1 == pa) with
  | some w => if w.2 == now then now else if s.choose 1 pa then w.2 else now
  | none => now

/-- Fetch one word, or the FETCH code that it raises (R124). A word of a register page reads the page's bytes.
DESIGN CHOICE: log entry 5. -/
def State.fetchWord (s : State) (core : Nat) (x : Context) (va : Nat) : Except Nat Word :=
  if va ≥ 2 ^ 56 then .error 4
  else
    let t := s.xlate (.beam core) false x va
    match fetchFault x t, t with
    | some c, _ => .error c
    | none, .page pa _ _ _ _ =>
      if (regPageOf pa).isSome then .ok (BitVec.ofNat 32 (leNat (s.pageRead pa 4))) else .ok (s.fetchPa core pa)
    | none, _ => .error 4

/-- Lines of the instruction cache: 128 KiB (R10). -/
def icacheLines : Nat := 1024

/-- What fetching a word leaves behind: the accessed bit, the translations, the line in the instruction cache.
DEDUCED: log entry 10. -/
def State.fetchNote (s : State) (core : Nat) (x : Context) (va : Nat) : State :=
  let t := s.xlate (.beam core) false x va
  let n := s.xlNote (.beam core) false x va
  match t with
  | .page pa _ _ _ _ =>
    n.modCore core fun c =>
      if (regPageOf pa).isSome || c.icache.contains (lineOf pa) then c
      else { c with icache := s.keepMost icacheLines (lineOf pa :: c.icache) }
  | _ => n

/-- Is a word the first word of a header at its address (R118)? -/
def headerWord (va : Nat) (w : Word) : Bool := va % 8 == 0 && w.extractLsb' 0 10 == 1#10

/-- Why an address cannot be entered as a header: a fetch failure, or no header there (R118). -/
def State.headerFault (s : State) (core : Nat) (x : Context) (va : Nat) : Option Nat :=
  match s.fetchWord core x va with
  | .error c => some c
  | .ok w => if headerWord va w then none else some 1

/-- K and G of a header word (R119). -/
def headerK (w : Word) : Bool := w.getLsbD 11
def headerG (w : Word) : Bool := w.getLsbD 12

/-- Is the address a header with K and G as given (R318, R343, R268)? -/
def State.headerIs (s : State) (core : Nat) (x : Context) (va : Nat) (ok : Word → Bool) : Bool :=
  match s.fetchWord core x va with
  | .error _ => false
  | .ok w => headerWord va w && ok w

/-- End of a block: the address past its last word. -/
def Block.stop (k : Block) : Nat := k.hdr + 8 + 4 * k.len

/-- Must the fragment enter a header before it can issue? -/
def Entry.atHeader (x : Entry) : Bool :=
  match x.blk with
  | none => true
  | some k => x.pc == k.stop

end Sys2Proof.Machine
end

