-- ==== Sys2Proof/Machine/Wire.lean ====
section
/-! DEFINITION. Messages of the fabric as bytes, the flits that carry them, the ports' channels, and the replay of flits
(R387, R388, R391 to R393, R397 to R402). -/

namespace Sys2Proof.Machine

/-! ### Messages (R393) -/

/-- Who is addressed, on which channel. -/
def OutMsg.dest : OutMsg → Nat
  | .reply f _ _ _ => f.src
  | .ring dev .. => dev
  | .coll dev .. => dev
  | .notify host .. => host

def OutMsg.vc : OutMsg → Nat
  | .reply f _ _ _ => f.vc
  | .ring _ vc .. => vc
  | .coll .. => 2
  | .notify .. => 3

def OutMsg.eseq : OutMsg → Nat
  | .reply _ e _ _ => e
  | .ring _ _ _ e .. => e
  | .coll _ _ e .. => e
  | .notify _ e .. => e

def OutMsg.vfn : OutMsg → Nat
  | .reply f _ _ _ => f.vfn
  | .ring _ _ v .. => v
  | .coll _ v .. => v
  | .notify _ _ _ v .. => v

/-- TAG: of a request its own, of a REPLY that of the request it answers. -/
def OutMsg.tag : OutMsg → Nat
  | .reply f _ _ _ => f.tag
  | .ring _ _ _ _ t .. => t
  | .coll _ _ _ t .. => t
  | .notify _ _ t .. => t

/-- TYPE. -/
def OutMsg.typ : OutMsg → Nat
  | .reply .. => 3
  | .ring .. => 4
  | .coll .. => 7
  | .notify .. => 6

def OutMsg.isReply : OutMsg → Bool
  | .reply .. => true
  | _ => false

/-- The payload: a REPLY's status and data (R397), a RING_APPEND's handle, SEQ and data (R400), a NOTIFY (R399), and a
COLL's operation, list CRC, kind, operator, format, element count, group and data (R402). -/
def OutMsg.payload : OutMsg → List Byte
  | .reply _ _ status body => natLe 1 status ++ body
  | .ring _ _ _ _ _ h seq data => natLe 8 h.toNat ++ natLe 8 seq ++ data
  | .coll _ _ _ _ group op head data =>
    natLe 4 op ++ natLe 4 (head.getD 4 0) ++ natLe 1 (head.getD 0 0) ++ natLe 1 (head.getD 1 0) ++ natLe 1 (head.getD 2 0) ++
      natLe 1 0 ++ natLe 4 (head.getD 3 0) ++ natLe 4 group ++ natLe 4 0 ++ data
  | .notify _ _ _ _ ctx value seq => natLe 2 0x80 ++ natLe 6 0 ++ natLe 8 ctx ++ natLe 8 value ++ natLe 8 seq

/-- A message's bytes: the header of 16 bytes, and the payload. -/
def OutMsg.bytes (src : Nat) (m : OutMsg) : List Byte :=
  natLe 1 m.typ ++ natLe 1 m.vc ++ natLe 2 (m.dest % 1024) ++ natLe 2 (src % 1024) ++ natLe 2 m.vfn ++ natLe 4 m.eseq ++
    natLe 2 m.payload.length ++ natLe 2 m.tag ++ m.payload

/-! ### Flits (R387) -/

/-- The bodies of a message's flits: 244 bytes each, the last one filled with zeros. -/
def flitBodies : Nat → List Byte → List (List Byte)
  | 0, _ => []
  | fuel + 1, bs =>
    if bs.isEmpty then []
    else (bs.take 244 ++ List.replicate (244 - bs.length) 0) :: flitBodies fuel (bs.drop 244)

/-- DESIGN CHOICE: log entry 60. -/
def OutMsg.flits (src : Nat) (m : OutMsg) : List TxFlit :=
  let bs := m.bytes src
  (flitBodies bs.length bs).map fun b => { lseq := 0, cred := 0, vc := m.vc, dest := m.dest, body := b }

/-- Bytes 0 to 3 of a flit (R387). -/
def flitHead (vc lseq ackseq cred : Nat) : List Byte :=
  natLe 4 (vc % 4 + lseq % 4096 * 2 ^ 2 + ackseq % 4096 * 2 ^ 14 + cred % 64 * 2 ^ 26)

/-- A flit's 256 bytes, with the link sequence of the last flit received intact. -/
def TxFlit.bytes (f : TxFlit) (ackseq : Nat) : List Byte :=
  let bs := flitHead f.vc f.lseq ackseq f.cred ++ f.body
  bs ++ natLe 8 (Config.flitCheck bs).toNat

/-! ### Ports -/

/-- May a port carry flits (R390)? -/
def Port.usable (p : Port) : Bool := p.st == .up || p.st == .degraded

/-- ACKSEQ of what a port sends. -/
def Port.ackseq (p : Port) : Nat := (p.rxSeq + 4095) % 4096

def Port.emit (p : Port) (f : TxFlit) : Output := .flit p.id (f.bytes p.ackseq)

/-- May the first waiting flit of a channel go: it has a credit? -/
def Port.open_ (p : Port) (vc : Nat) : Bool := (p.queue.any fun f => f.vc == vc) && decide (p.used.getD vc 0 < Config.vcCredits vc)

/-- The channel whose flit goes next: VC 3, then VC 0; VC 1 and VC 2 share the rest, 3 flits to 1 (R392). -/
def Port.nextVc (p : Port) : Option Nat :=
  if p.open_ 3 then some 3
  else if p.open_ 0 then some 0
  else if p.open_ 1 && (p.share < 3 || !p.open_ 2) then some 1
  else if p.open_ 2 then some 2
  else none

/-- A flit of a channel goes: it takes its link sequence, returns credits, and stays in the replay buffer (R387, R388). -/
def Port.sendFlit (p : Port) (f : TxFlit) : Port × TxFlit :=
  let n := min 63 (p.owed.getD f.vc 0 / 4)
  let f' := { f with lseq := p.txSeq, cred := n }
  ({ p with
    txSeq := (p.txSeq + 1) % 4096, queue := p.queue.erase f, buffer := p.buffer ++ [f']
    used := p.used.modify f.vc (· + 1), owed := p.owed.modify f.vc (· - 4 * n)
    share := if f.vc == 1 then min 3 (p.share + 1) else if f.vc == 2 then 0 else p.share }, f')

/-- A port sends what its credits and its replay buffer of 256 flits admit. -/
def Port.pump (p : Port) : Nat → Port × List Output
  | 0 => (p, [])
  | fuel + 1 =>
    if !p.usable || decide (256 ≤ p.buffer.length) then (p, [])
    else
      match p.nextVc.bind fun vc => p.queue.find? fun f => f.vc == vc with
      | none => (p, [])
      | some f =>
        let r := p.sendFlit f
        let q := r.1.pump fuel
        (q.1, p.emit r.2 :: q.2)

/-- Let a port send. -/
def State.pump (s : State) (p : Port) : State :=
  let r := p.pump p.queue.length
  { s with ports := replaceBy Port.id r.1 s.ports, out := s.out ++ r.2 }

/-- The partition of a virtual function. -/
def State.partOfVf (s : State) (vfn : Nat) : Option Partition := (s.vf? vfn).bind fun v => s.part? v.part

/-- Does a message wait at its source, because its partition's egress cap admits no traffic on channels 0 to 2 (R392, R443)?
DESIGN CHOICE: log entry 60. -/
def State.capped (s : State) (m : OutMsg) : Bool := decide (m.vc ≤ 2) && (s.partOfVf m.vfn).any fun p => p.cap == 0

/-- Send a message by a port, or keep it until one can carry it (R391). -/
def State.send (s : State) (port : Option Nat) (m : OutMsg) : State :=
  match if s.capped m then none else port.bind s.port? with
  | none => { s with unsent := s.unsent ++ [m] }
  | some p => s.pump { p with queue := p.queue ++ m.flits s.mgmt.device }

/-- What the board sees. -/
def State.emit (s : State) (o : Output) : State := { s with out := s.out ++ [o] }

/-! ### Flows and their paths (R391, R393) -/

def Flow.new (peer vc : Nat) : Flow :=
  { peer := peer, vc := vc, inSeq := 0, outSeq := 0, unacked := [], port := none, limit := 0, waits := none }

/-- The flow with a peer on a channel. -/
def State.flow (s : State) (peer vc : Nat) : Flow := (s.flows.find? fun f => f.peer == peer && f.vc == vc).getD (Flow.new peer vc)

def State.setFlow (s : State) (f : Flow) : State :=
  { s with flows := f :: s.flows.filter fun g => !(g.peer == f.peer && g.vc == f.vc) }

/-- The first port that can carry flits, another than the one given where there is another. -/
def State.freePort (s : State) (not : Option Nat) : Option Nat :=
  let us := (s.ports.filter Port.usable).map (·.id)
  match us.find? fun n => some n != not with
  | some n => some n
  | none => us.head?

/-- The port of a flow's path: it changes only where the old port cannot carry flits and holds none of the flow.
DESIGN CHOICE: log entry 60. -/
def State.route (s : State) (f : Flow) : Option Nat :=
  match f.port.bind s.port? with
  | some p =>
    if p.usable || (p.queue ++ p.buffer).any fun x => x.dest == f.peer && x.vc == f.vc then some p.id else s.freePort none
  | none => s.freePort none

/-- The fabric timeout of a virtual function's partition; of the device's own traffic its reset value, 10 µs (R395).
DESIGN CHOICE: log entry 60. -/
def State.limitOf (s : State) (vfn : Nat) : Nat := ((s.partOfVf vfn).map (·.timeout)).getD 22500

/-- Do messages of a flow wait in a port, or for one? -/
def State.inPort (s : State) (f : Flow) : Bool :=
  (s.ports.any fun p => (p.queue ++ p.buffer).any fun x => x.dest == f.peer && x.vc == f.vc) ||
    s.unsent.any fun m => m.dest == f.peer && m.vc == f.vc

/-- Messages that the flow still keeps: requests without a REPLY, and REPLYs that their requester may still wait for, all of
them while a port holds any of the flow. DESIGN CHOICE: log entry 60. -/
def State.kept (s : State) (f : Flow) : List (OutMsg × Nat) :=
  f.unacked.filter fun m => !m.1.isReply || s.inPort f || decide (s.clock < m.2 + f.limit)

/-- Send a message on its flow: it takes the flow's next ESEQ, and is kept until it is acknowledged (R393). -/
def State.transmit (s : State) (peer vc vfn : Nat) (mk : Nat → OutMsg) : State :=
  let f := s.flow peer vc
  let m := mk f.outSeq
  let port := s.route f
  (s.setFlow { f with outSeq := (f.outSeq + 1) % 2 ^ 32, unacked := s.kept f ++ [(m, s.clock)], port := port
                      limit := s.limitOf vfn }).send port m

/-- Answer a request: the REPLY goes back on the request's channel, with the next ESEQ of its own flow. -/
def State.respond (s : State) (f : From) (status : Nat) (body : List Byte) : State :=
  s.transmit f.src f.vc f.vfn fun eseq => .reply f eseq status body

/-- A path has failed: the flow takes another port, and its unacknowledged messages are sent again, in ESEQ order. Flits of
it that its old port has not sent are dropped (R393). -/
def State.pathFails (s : State) (dest vc : Nat) : State :=
  let f := s.flow dest vc
  let mine := fun x : TxFlit => x.dest == dest && x.vc == vc
  let port := s.freePort f.port
  let s : State := { s with
    ports := s.ports.map fun p => { p with queue := p.queue.filter fun x => !mine x }
    unsent := s.unsent.filter fun m => !(m.dest == dest && m.vc == vc) }
  if f.unacked.isEmpty then s
  else (f.unacked.map (·.1)).foldl (fun (s : State) m => s.send port m) (s.setFlow { f with port := port })

/-- Messages that waited for a port go, in their order, once one can carry them. -/
def State.sendWaiting (s : State) : State :=
  if (s.freePort none).isNone then s
  else s.unsent.foldl (fun (s : State) m =>
    let f := s.flow m.dest m.vc
    let port := s.route f
    (s.setFlow { f with port := port }).send port m) { s with unsent := [] }

/-- Has a flow waited for its port longer than the fabric timeout (R391)? -/
def State.stranded (s : State) (f : Flow) : Bool :=
  (f.port.bind s.port?).any fun p =>
    !p.usable && (p.left.any fun t => decide (t + f.limit < s.clock)) &&
      (p.queue ++ p.buffer).any fun x => x.dest == f.peer && x.vc == f.vc

/-- Messages of a port that has not come back within the fabric timeout are sent again over another path (R391). -/
def State.reroute (s : State) : State :=
  (s.flows.filter fun f => s.stranded f && (s.freePort f.port).isSome && s.freePort f.port != f.port).foldl
    (fun (s : State) f => s.pathFails f.peer f.vc) s

/-! ### Replay (R388, R391) -/

/-- A port goes to training; no lane is in use. -/
def Port.train (p : Port) (clock : Nat) : Port :=
  { p with st := .training, lanes := 0, badRun := 0, lost := none, left := if p.usable then some clock else p.left }

/-- Replays enter the count and the rate. DESIGN CHOICE: log entry 60. -/
def Port.replayed (p : Port) (clock n : Nat) : Port :=
  { p with replays := min 65535 (p.replays + n)
           recent := List.replicate n clock ++ p.recent.filter fun t => decide (clock < t + Config.replayWindow) }

/-- Does R388 take the port to training: 16 failed replays of one flit, or a rate above the threshold? -/
def Port.unfit (p : Port) (most : Nat) : Bool :=
  decide (16 < p.badRun) || (p.lost.any fun l => decide (16 < l.2)) || decide (most < p.recent.length)

/-- The port with R388 applied. -/
def Port.judged (p : Port) (most clock : Nat) : Port := if p.unfit most then p.train clock else p

/-- The flits of the replay buffer from one on are sent again. -/
def State.replay (s : State) (p : Port) (lseq : Option Nat) : State :=
  let fs : List TxFlit := match lseq with
    | some n => p.buffer.dropWhile fun f : TxFlit => f.lseq != n
    | none => p.buffer
  let p := p.replayed s.clock fs.length
  { s with ports := replaceBy Port.id p s.ports, out := s.out ++ fs.map p.emit }

/-- The peer has discarded a flit: that flit and every later one are sent again (R388). -/
def State.flitLost (s : State) (port lseq : Nat) : State :=
  match s.port? port with
  | none => s
  | some p =>
    if !p.usable || !(p.buffer.any fun f => f.lseq == lseq) then s
    else
      let n := match p.lost with | some l => if l.1 == lseq then l.2 + 1 else 1 | none => 1
      let p := { p with lost := some (lseq, n) }
      if 16 < n then s.setPort (p.train s.clock)
      else
        let s := s.replay p (some lseq)
        match s.port? port with
        | some q => s.setPort (q.judged s.mgmt.replayMax s.clock)
        | none => s

end Sys2Proof.Machine
end

