-- ==== Sys2Proof/Machine/Record.lean ====
section
/-! DEFINITION. Where a save record holds each piece of a cohort (R324, R325), a window wherever it lies, and requests
over the fabric (R393 to R396). -/

namespace Sys2Proof.Machine

/-! ### Layout of a save record -/

def Launch.lanes (l : Launch) : Nat := l.beams * l.width
def Launch.bmax (l : Launch) : Nat := min 64 (l.lanes / 8)
def Launch.ntiles (l : Launch) : Nat := l.beams * l.a

/-- Offsets of the segments. -/
def recMaps : Nat := 256
def recBeams : Nat := 1280
def Launch.recLaneData (l : Launch) : Nat := recBeams + l.bmax * 8192
def Launch.recTiles (l : Launch) : Nat := l.recLaneData + l.lanes * 4 * (l.v + 1)
def Launch.recWindow (l : Launch) : Nat := l.recTiles + l.ntiles * 6144
def Launch.recTags (l : Launch) : Nat := l.recWindow + l.window

/-- Size of a save record (R324). -/
def Launch.recSize (l : Launch) : Nat := roundUp (l.recTags + (l.window + 255) / 256) 4096

/-! ### A window, in a scratchpad or in a save record (R249) -/

/-- Address of a parked cohort's window image. -/
def State.parkedWindow (s : State) (c : Cohort) : Option Nat :=
  match c.st, c.save, s.kernel? c.key.kernel with
  | .parked, some (a, _), some k => some (a + k.launch.recWindow)
  | _, _, _ => none

/-- Bytes of a cohort's window. -/
def State.winBytes (s : State) (c : Cohort) (off n : Nat) : List Byte :=
  match s.parkedWindow c with
  | some a => s.readBytes (a + off) n
  | none => c.bytes off n

def State.winNat (s : State) (c : Cohort) (off n : Nat) : Nat := leNat (s.winBytes c off n)

/-- Write bytes of a cohort's window. -/
def State.winPut (s : State) (key : CohortKey) (off : Nat) (bs : List Byte) : State :=
  match s.cohort? key with
  | none => s
  | some c =>
    match s.parkedWindow c with
    | some a => s.writeBytes none false (a + off) bs
    | none => s.setCohort (c.put off bs)

/-- Is the granule that holds an offset of a cohort's window a barrier, wherever the window lies (R325, R366)? -/
def State.granule (s : State) (c : Cohort) (off : Nat) : Bool :=
  match c.st, c.save, s.kernel? c.key.kernel with
  | .parked, some (a, _), some k => (s.mem.read (a + k.launch.recTags + off / 256)).getLsbD (off / 32 % 8)
  | _, _, _ => c.tagged off

/-- Write data into a window: a barrier's granule keeps what barrier instructions and engine completions wrote (R365).
DEDUCED: log entry 43. -/
def State.winData (s : State) (key : CohortKey) (off : Nat) (bs : List Byte) : State :=
  match s.cohort? key with
  | none => s
  | some c =>
    if (bs.zipIdx off).any fun p => s.granule c p.2 then
      (bs.zipIdx off).foldl (fun (s : State) (p : Byte × Nat) => if s.granule c p.2 then s else s.winPut key p.2 [p.1]) s
    else s.winPut key off bs

/-! ### Requests over the fabric -/

/-- The TAG of the next request: one that no request of this device waits under (R393). -/
def State.tag (s : State) : Nat :=
  (((List.range (s.fabric.length + 1)).map fun k => (s.nextId + k) % 2 ^ 16).find? fun t => !s.fabric.any fun r => r.tag == t).getD 0

/-- A request of a partition of this device to a peer waits for its REPLY until the fabric timeout (R395). -/
def State.await (s : State) (part : Option Partition) (peer : Nat) (what : Pend) : State :=
  { s with
    nextId := s.nextId + 1
    fabric := s.fabric ++ [{ tag := s.tag, peer := peer, part := part.map (·.id), since := s.clock
                             limit := (part.map (·.timeout)).getD 22500, what := what }] }

end Sys2Proof.Machine
end

