-- ==== Sys2Proof/Machine/Ops.lean ====
section
/-! DEFINITION. The shared operations of the beam instructions: the issuing fragment, results that land, faulting a
kernel, taking a trap, returning from one, and the frame in which every meaning runs (R78, R85, R126, R152, R345, R346,
R406 to R408, R413). -/

namespace Sys2Proof.Machine

/-! ### Traps -/

/-- A trap: cause group and code, the faulting lanes (none: every active lane of the fragment) and the detail words. -/
structure Trap where
  group : Nat
  code  : Nat
  lanes : Option Mask
  x : Nat
  y : Nat
  z : Nat
  deriving DecidableEq, Repr

/-- A trap whose detail is an address (R410, A56). -/
def Trap.addr (group code : Nat) (lanes : Option Mask) (a z : Nat) : Trap :=
  { group := group, code := code, lanes := lanes, x := bits a 0 32, y := bits a 32 24, z := z }

/-- A trap with no detail words but the first. -/
def Trap.simple (group code x : Nat) : Trap := { group := group, code := code, lanes := none, x := x, y := 0, z := 0 }

/-- `tcause` of a trap (R165). -/
def Trap.cause (t : Trap) : BitVec 32 := BitVec.ofNat 32 (t.code % 2 ^ 16 * 2 ^ 16 + t.group % 32)

/-! ### Results that land (R78, R148) -/

/-- Put a returned result in place; lanes that have exited take nothing, and a banked register that has gone is
dropped. -/
def Beam.land (b : Beam) (f : Fill) : Beam :=
  match f.dst with
  | .v r m vals banked =>
    if banked && b.trap.isNone then b
    else
      (vals.zipIdx r).foldl (fun (b : Beam) (x : List Word × Nat) =>
        (b.putV x.2 (m &&& ~~~b.exited) fun i => x.1.getD i 0).setVfull x.2 true) b
  | .s r val drop banked =>
    if banked && b.trap.isNone then b
    else
      let b := b.setSfull r true
      if drop then b else b.storeS r val

/-- Put a matrix result in place (R288): its tiles, and the flags that it raised (R43). -/
def Beam.landMma (b : Beam) (m : MmaPend) : Beam :=
  ({ b with tiles := (m.tiles.zipIdx m.tile).foldl (fun (ts : List Tile) (x : Tile × Nat) => ts.set x.2 x.1) b.tiles }).raise m.flags

/-- Every pending result of a beam arrives (R406 step 1). -/
def State.landAll (s : State) (k : BeamKey) : State :=
  match s.beam? k with
  | none => s
  | some b =>
    let b := (s.fills.filter (fun f => f.beam == k)).foldl Beam.land b
    let b := (s.mmas.filter (fun m => m.beam == k)).foldl Beam.landMma b
    { s.setBeam b with fills := s.fills.filter (fun f => f.beam != k), mmas := s.mmas.filter (fun m => m.beam != k) }

/-- Does a result of the beam depend on what another agent has not answered: an MSEND's REPLY, or a far range whose ports are
down (R400, R404)? -/
def State.owed (s : State) (k : BeamKey) : Bool :=
  (s.fabric.any fun r => match r.what with | .msend _ b _ _ _ => b == k | _ => false) ||
    s.fills.any fun f => f.beam == k && f.down != 0

/-- A result that nothing delays; in deterministic issue mode it is in place `n` cycles after its issue (R4, R435). -/
def State.within (s : State) (core n : Nat) : Arrival :=
  { ready := if (s.coreOf core).dim then s.clock + n else s.clock, units := [], down := 0 }

/-- A long-latency result of a fragment is on its way to vector registers from `r` on (R78): they are empty until it
arrives. -/
def State.pendV (s : State) (b : Beam) (e pc r : Nat) (m : Mask) (vals : List (List Word)) (absent : Word × Word)
    (src : FillSrc) (at_ : Arrival) (take : Option LoadTake := none) : State :=
  let b' := (List.range vals.length).foldl (fun (b : Beam) k => b.setVfull (r + k) false) b
  { s.setBeam b' with
    fills := s.fills ++ [{ beam := b.key, entry := e, mask := (b.entry e).mask, pc := pc
                           dst := .v r m vals (b.trap.isSome && decide (240 ≤ r))
                           absent := absent, src := src, ready := at_.ready, units := at_.units, down := at_.down
                           take := take }] }

/-- A long-latency result is on its way to a scalar register; R86 decides at issue whether the write is performed. -/
def State.pendS (s : State) (b : Beam) (e pc lead r : Nat) (val : DWord) (absent : Word × Word) (src : FillSrc)
    (at_ : Arrival) (take : Option LoadTake := none) : State :=
  let c := b.claimS lead r
  { s.setBeam ((c.getD b).setSfull r false) with
    fills := s.fills ++ [{ beam := b.key, entry := e, mask := (b.entry e).mask, pc := pc
                           dst := .s r val c.isNone (b.trap.isSome && decide (56 ≤ r))
                           absent := absent, src := src, ready := at_.ready, units := at_.units, down := at_.down
                           take := take }] }

/-! ### Faulting queues and kernels -/

def QState.code : QState → Nat
  | .running => 1 | .blocked => 2 | .stopped => 3 | .faulted => 4

/-- The bytes of a queue descriptor (R333). -/
def Queue.image (q : Queue) : List Byte :=
  natLe 8 q.base ++ natLe 4 q.size ++ natLe 1 q.cls ++ natLe 1 q.weight ++ natLe 1 q.st.code ++ natLe 1 q.fcode ++
    natLe 2 q.ctx ++ natLe 2 q.num ++ natLe 4 0 ++ natLe 8 q.tail ++ natLe 8 q.head ++ natLe 8 q.done ++ natLe 8 q.fseq ++
    natLe 8 0

/-- Replace a queue and write its descriptor (R333). -/
def State.putQueue (s : State) (q : Queue) : State := (s.setQueue q).writeBytes none false q.desc q.image

/-- Add numbers to the largest run from `done` on (R333). -/
def advanceDone (finished : List Nat) : Nat → Nat → Nat
  | 0, done => done
  | fuel + 1, done => if finished.contains (done + 1) then advanceDone finished fuel (done + 1) else done

/-- Commands of a queue have ended: DONE passes them (R333). -/
def Queue.ended (q : Queue) (seqs : List Nat) : Queue :=
  let all := q.finished ++ seqs
  let done := advanceDone all all.length q.done
  { q with done := done, finished := all.filter fun n => decide (done < n) }

def State.queueEnd (s : State) (num seq : Nat) : State :=
  match s.queue? num with
  | none => s
  | some q => s.putQueue (q.ended [seq])

/-- A command faults its queue (R341); one that had been taken has ended (R340). -/
def State.queueFault (s : State) (num code seq : Nat) : State :=
  let s : State := match s.queue? num with
    | none => s
    | some q => if q.st == QState.faulted then s else s.putQueue { q with st := .faulted, fcode := code, fseq := seq }
  match s.queue? num with
  | none => s
  | some q => if seq ≤ q.head then s.queueEnd num seq else s

/-- Cohorts have left their cores: the PREEMPT commands that waited for them alone complete (R338).
DEDUCED: log entry 29. -/
def State.cohortsGone (s : State) (gone : CohortKey → Bool) : State :=
  let cmds := s.cmds.map fun c => { c with cohorts := c.cohorts.filter fun k => !gone k }
  let over_ := cmds.filter fun c => c.copy.isNone && c.cohorts.isEmpty
  over_.foldl (fun (s : State) (c : Cmd) => s.queueEnd c.queue c.seq)
    { s with cmds := cmds.filter fun c => !(c.copy.isNone && c.cohorts.isEmpty) }

/-- The body of a management REPLY behind its status: 7 zero bytes and the 8-byte result (R398). -/
def mgmtBody (result : Nat) : List Byte := natLe 7 0 ++ natLe 8 result

/-- Debugger stops of cohorts are over: their requests are answered with 0 (R417). -/
def State.stopsOver (s : State) (which : Cohort → Bool) : State :=
  (s.cohorts.filter which).foldl (fun (s : State) (c : Cohort) =>
    let s := match c.stop with
      | some (.debug _ f) => s.respond f 0 (mgmtBody 0)
      | _ => s
    match c.dbg with
    | some p => s.respond p.2 0 (mgmtBody 0)
    | none => s) s

/-- A Stopping context is Stopped once no cohort of it is resident (R318, R322). -/
def State.settleContext (s : State) (ctx : Nat) : State :=
  match s.context? ctx with
  | none => s
  | some x =>
    if x.st == .stopping && !(s.cohorts.any fun c => c.st == .resident && (s.kernel? c.key.kernel).any fun k => k.ctx == ctx)
    then s.setContext { x with st := .stopped } else s

/-- The kernel becomes Faulted (R345, R346): its cohorts stop, its groups end, its save records are freed, no REPLY finds its
beams, and its command ends, with `code` as a fault of its queue (R341). DEDUCED: log entry 29. -/
def State.kernelFault (s : State) (kid : Nat) (code : Option Nat) : State :=
  match s.kernel? kid with
  | none => s
  | some k =>
    if k.st == .faulted || k.st == .completed then s
    else
      let s := (s.setKernel { k with st := .faulted, groups := [] }).stopsOver fun c => c.key.kernel == kid
      let s : State := { s with
        cohorts := s.cohorts.map fun c =>
          if c.key.kernel == kid && c.st != .retired then { c with st := .stopped, save := none, stop := none, dbg := none }
          else c
        beams := s.beams.filter fun b => b.cohort.kernel != kid
        fills := s.fills.filter fun f => ((s.beam? f.beam).map (fun b => b.cohort.kernel != kid)).getD false
        mmas := s.mmas.filter fun m => ((s.beam? m.beam).map (fun b => b.cohort.kernel != kid)).getD false
        fabric := s.fabric.filter fun r => match r.what with | .msend c _ _ _ _ => c.kernel != kid | _ => true
        reqs := s.reqs.filter fun r =>
          !(r.cohort.kernel == kid && (r.parked || match r.kind with | .gread .. => true | _ => false)) }
      let s := (s.cohortsGone fun c => c.kernel == kid).settleContext k.ctx
      match code with
      | some c => s.queueFault k.queue c k.seq
      | none => s.queueEnd k.queue k.seq

/-! ### The issuing fragment -/

/-- The fragment whose instruction is executed. -/
structure Frag where
  b     : Beam
  e     : Nat
  pc    : Nat
  raw   : Raw
  words : Nat
  deriving DecidableEq, Repr

def State.frag (s : State) : Option Frag :=
  match s.cur with
  | none => none
  | some c =>
    match s.beam? c.beam with
    | none => none
    | some b => some { b := b, e := c.entry, pc := c.pc, raw := c.raw, words := c.words }

def Frag.entry (x : Frag) : Entry := x.b.entry x.e

/-- The active lanes. -/
def Frag.mask (x : Frag) : Mask := x.entry.mask

/-- The leading lane. -/
def Frag.lead (x : Frag) : Nat := leadOf x.mask

def Frag.w (x : Frag) : Nat := x.b.w
def Frag.op (x : Frag) : Nat := x.raw.op.toNat
def Frag.core (x : Frag) : Nat := x.b.key.core
def Frag.next (x : Frag) : Nat := x.pc + 4 * x.words

/-! ### Taking a trap (R85, R406, R407, R408) -/

/-- The wait that a trapped fragment keeps while it is held: of an asynchronous cause taken in the wait, and of a REPLAY behind
a BWAIT that is decided. Any other instruction starts anew after the trap (R413, R414, R434). -/
def Trap.keeps (t : Trap) (w : Option Wait) : Option Wait :=
  if (t.group == gDEBUG && t.code == 2) || (t.group == gHWERR && t.code == 3) then w
  else if t.group == gREPLAY then w.filter Wait.decided
  else none

/-- The beam in trap mode on the lanes of entry `e`, at `handler`. -/
def Beam.enterTrap (b : Beam) (e pc words handler : Nat) (t : Trap) : Beam :=
  let x := b.entry e
  let lanes := (t.lanes.getD x.mask) &&& fullMask b.w
  let own := b.dstack.any fun r => r.owner == e
  let tm : TrapMode :=
    { entry := e, held := { x with st := .held, pc := pc, wait := t.keeps x.wait }
      users := (List.range b.split.length).filter fun i => (b.entry i).st != .free
      epc := pc, words := words, depth := b.dstack.length, loaded := none
      bs := [BitVec.setWidth 64 t.cause, BitVec.ofNat 64 pc, lanes,
             BitVec.ofNat 64 (t.y % 2 ^ 32 * 2 ^ 32 + t.x % 2 ^ 32), BitVec.ofNat 64 (t.z % 2 ^ 32),
             BitVec.ofNat 64 (e % 8 + if own then 16 else 0), ~~~0, ~~~0]
      bv := List.replicate 16 (List.replicate b.w (~~~0))
      bsFull := List.replicate 8 true, bvFull := List.replicate 16 true, bstamp := List.replicate 8 none }
  let split := (b.split.map fun y => if y.st == .run then { y with st := .held } else y).set e
    { Entry.none_ with st := .run, pc := handler, mask := x.mask, since := x.since, ready := x.ready }
  { b with split := split, epc := pc, tcause := t.cause, tlanes := lanes, tdetx := BitVec.ofNat 32 t.x
           tdety := BitVec.ofNat 32 t.y, tdetz := BitVec.ofNat 32 t.z, pl := true, trap := some tm }.oweSync

/-- Taking a trap: earlier results arrive, the run entries are held, the trap registers are written, and the fragment
goes on at HANDLER with PL 1 (R406). While one of them depends on an answer from outside, the fragment stays where it is. A
trap in trap mode, or a HANDLER that is not a header with K and G clear, faults the kernel (R73, R318).
DEDUCED: log entry 24. -/
def State.trapEntry (s : State) (k : BeamKey) (e pc words : Nat) (t : Trap) : State :=
  match s.beam? k with
  | none => s
  | some b =>
    match s.contextOf b with
    | none => s
    | some x =>
      if b.trap.isNone && s.owed k then s
      else if b.trap.isSome || !s.headerIs k.core x x.handler (fun w => !headerK w && !headerG w) then
        s.kernelFault b.cohort.kernel (some 2)
      else
        let s := s.landAll k
        match s.beam? k with
        | none => s
        | some b => s.setBeam (b.enterTrap e pc words x.handler t)

/-! ### Leaving trap mode -/

/-- The user's split table while the handler runs: the trapped entry held at `epc`, and no entry of the handler. -/
def Beam.userSplit (b : Beam) (tm : TrapMode) : List Entry :=
  match tm.loaded with
  | some l => l.1
  | none => b.split.zipIdx.map fun p =>
      if p.2 == tm.entry then { tm.held with pc := b.epc } else if tm.users.contains p.2 then p.1 else Entry.none_

/-- The user's records of the divergence stack. -/
def Beam.userStack (b : Beam) (tm : TrapMode) : List DRec :=
  match tm.loaded with
  | some l => l.2
  | none => b.dstack.drop (b.dstack.length - tm.depth)

/-- Trap mode ends: the banked registers are hidden, the handler's fragments are gone, every held entry runs (R85,
R152), the trapped one at `pc` in block `blk`, in its wait where it goes on at the same place (R414); after a CTXLD each entry
runs where the image put it (R331). -/
def Beam.leaveTrap (b : Beam) (tm : TrapMode) (pc : Nat) (blk : Option Block) : Beam :=
  let split := (b.userSplit tm).zipIdx.map fun p =>
    if p.1.st == .held then
      if tm.loaded.isNone && p.2 == tm.entry then
        { p.1 with st := .run, pc := pc, mask := p.1.mask &&& ~~~b.exited, blk := blk
                   wait := if pc == tm.epc then p.1.wait else none }
      else { p.1 with st := .run, mask := p.1.mask &&& ~~~b.exited }
    else p.1
  { b with split := split, dstack := b.userStack tm, trap := none, pl := false }.oweSync

/-- ERET (R152, R331): where the trapped fragment goes on, and in which block. A handler that wrote `epc` resumes at a
header, or traps there. DESIGN CHOICE: log entry 58. -/
def Beam.eret (b : Beam) (skip : Bool) (tm : TrapMode) : Beam × List Returned :=
  let same := b.epc == tm.epc
  let pc := if skip && same then b.epc + 4 * tm.words else b.epc
  (b.leaveTrap tm pc (if same then tm.held.blk else none)).settle 9

/-- EXIT in trap mode (R148): the handler's lanes retire; when no trapped lane remains, trap mode ends. -/
def Beam.exitTrap (b : Beam) (e : Nat) (tm : TrapMode) : Beam × List Returned :=
  let m := (b.entry e).mask
  let b' := { b with exited := b.exited ||| m }
  if tm.held.mask &&& ~~~b'.exited == 0 then
    let te := tm.entry
    ((b'.leaveTrap tm b.epc none).popLive te 20).settle 9
  else b.exitLanes e

/-! ### The frame of a beam instruction -/

/-- Register sets of R410's detail words. -/
inductive RSet where
  | v | s | c | k | a | m
  deriving DecidableEq, Repr

def RSet.code : RSet → Nat
  | .v => 0 | .s => 1 | .c => 2 | .k => 3 | .a => 4 | .m => 5

/-- One register that an instruction names: set, number, source (0 D, 1 A, 2 B, 3 C, 4 computed index, 5 implied),
whether it is written, and its empty policy. -/
structure Use where
  set   : RSet
  r     : Nat
  src   : Nat
  dst   : Bool
  trap  : Bool
  /-- the field is checked against the declared count only, and not read: A of the indexed MOV (R77, R193) -/
  named : Bool := false
  deriving DecidableEq, Repr

/-- The declared count of a set (R75, R77). -/
def Beam.declared (b : Beam) : RSet → Nat
  | .v => b.nv | .s => b.ns | .c => b.nc | .k => b.nk | .a => b.na | .m => 16

/-- Does the beam have the register: declared, or banked in trap mode (R77, R79)? -/
def Beam.has (b : Beam) (u : Use) : Bool :=
  decide (u.r < b.declared u.set) || (u.set == .v && b.trap.isSome && decide (240 ≤ u.r ∧ u.r < 256)) ||
    (u.set == .s && b.trap.isSome && decide (56 ≤ u.r ∧ u.r < 64))

/-- The full bit that a use reads; truth registers, tiles and maps have none (R78). -/
def Beam.fullFor (b : Beam) (u : Use) : Bool :=
  u.named ||
    match u.set with
    | .v => b.vfullAt u.r
    | .s => b.sfullAt u.r
    | _ => true

/-- A REGISTER trap about a use (R410). DEDUCED: log entry 24. -/
def Use.fault (b : Beam) (u : Use) (code : Nat) : Trap :=
  { group := gREGISTER, code := code, lanes := none
    x := min u.r 0xFFFF + u.set.code * 2 ^ 16 + u.src * 2 ^ 24, y := b.declared u.set, z := 0 }

/-- What is checked before an instruction's own checks: privilege, and the registers that it names (R126, R129). -/
structure Guard where
  priv : Bool
  /-- a special register that only PL1 may write (R162) -/
  privSp : Option Nat := none
  /-- forbidden to a glint (R270) -/
  noGlint : Bool
  uses : List Use
  /-- places of registers that the instruction computes and reads (R193, R435) -/
  early : List Nat := []
  deriving DecidableEq, Repr

/-- PRIV, then BEYOND_DECLARED, then the glint rules (R126, R77, R270). DEDUCED: log entry 24. -/
def Frag.check (x : Frag) (g : Guard) : Option Trap :=
  if g.priv && !x.b.pl then some (Trap.simple gPRIV 1 x.op)
  else if g.privSp.isSome && !x.b.pl then some { Trap.simple gPRIV 2 x.op with y := g.privSp.getD 0 }
  else
    match g.uses.find? (fun u => !x.b.has u) with
    | some u => some (u.fault x.b 1)
    | none =>
      if g.noGlint && x.b.glint.isSome then
        some { group := gCONV, code := 2, lanes := none, x := x.op + x.w * 2 ^ 8, y := 2, z := 0 }
      else none

/-- The place of a register in a beam's list of ready cycles (R435); tiles and maps have none. -/
def Use.slot (u : Use) : Option Nat :=
  match u.set with
  | .v => some u.r | .s => some (256 + u.r) | .c => some (320 + u.r) | .k => some (336 + u.r)
  | _ => none

/-- Does the instruction wait for a source with policy 0 (R78)? -/
def Frag.waitsSrc (x : Frag) (g : Guard) : Bool := g.uses.any fun u => !u.dst && !u.trap && !x.b.fullFor u

/-- Deterministic issue mode: a source whose producer issued fewer cycles ago than its latency (R435). -/
def State.tooEarly (s : State) (x : Frag) (g : Guard) : Bool :=
  let late := fun r : Nat => x.b.rdy.any fun p => p.1 == r && decide (s.clock < p.2)
  (s.coreOf x.core).dim && (g.early.any late || g.uses.any fun u => !u.dst && !u.named && u.slot.any late)

/-- EMPTY under policy 1 (R78). DEDUCED: log entry 24. -/
def Frag.emptyTrap (x : Frag) (g : Guard) : Option Trap :=
  (g.uses.find? (fun u => u.trap && !x.b.fullFor u)).map fun u => u.fault x.b 2

/-- Does the instruction wait for an empty destination (R78)? -/
def Frag.waitsDst (x : Frag) (g : Guard) : Bool := g.uses.any fun u => u.dst && !x.b.fullFor u

/-- How the own effect of an instruction ends. -/
inductive Res where
  /-- complete: the PC moves past the instruction -/
  | done (s : State)
  /-- a transfer to a header (R118) -/
  | jump (s : State) (target : Nat)
  /-- the effect has settled where the fragment stands -/
  | stay (s : State)
  | trap (t : Trap)
  deriving DecidableEq, Repr

/-- The fragment goes on at the next instruction. -/
def Beam.advance (b : Beam) (e next : Nat) : Beam :=
  b.setEntry e { b.entry e with pc := next, wait := none, carry := none }

/-- The fragment goes on at a header; a transfer to or behind its own address is backward (R141). -/
def Beam.transfer (b : Beam) (e pc target : Nat) : Beam :=
  b.setEntry e { b.entry e with pc := target, blk := none, wait := none, carry := none, back := decide (target ≤ pc) }

/-- Deterministic issue mode: the fragment's next issue is at least `n` cycles away (R435). DEDUCED: log entry 40. -/
def State.later (s : State) (k : BeamKey) (e n : Nat) : State :=
  if (s.coreOf k.core).dim then
    match s.beam? k with
    | some b => s.setBeam (b.setEntry e { b.entry e with ready := max (b.entry e).ready (s.clock + n) })
    | none => s
  else s

/-- Deterministic issue mode: results of this issue can be read 4 cycles on (R435). -/
def Beam.noteReady (b : Beam) (uses : List Use) (at_ : Nat) : Beam :=
  let slots := uses.filterMap fun u => if u.dst then u.slot else none
  { b with rdy := slots.map (fun r => (r, at_)) ++ b.rdy.filter fun p => !slots.contains p.1 }

def State.noteReady (s : State) (k : BeamKey) (uses : List Use) : State :=
  if (s.coreOf k.core).dim then
    match s.beam? k with
    | some b => s.setBeam (b.noteReady uses (s.clock + 4))
    | none => s
  else s

/-- End an instruction by its result (R118, R126): a trap is taken on the state before it. -/
def State.finish (s : State) (x : Frag) (uses : List Use) (r : Res) : State :=
  match r with
  | .trap t => s.trapEntry x.b.key x.e x.pc x.words t
  | .stay s' => s'
  | .done s' =>
    match s'.beam? x.b.key with
    | some b => ((s'.setBeam (b.advance x.e x.next)).later x.b.key x.e 1).noteReady x.b.key uses
    | none => s'
  | .jump s' target =>
    match s'.beam? x.b.key with
    | some b => ((s'.setBeam (b.transfer x.e x.pc target)).later x.b.key x.e 2).noteReady x.b.key uses
    | none => s'

/-- Failing lanes of a pending HWERR that have not exited. DEDUCED: log entry 62. -/
def Pending.left (p : Pending) (b : Beam) : Mask := p.lanes &&& b.live

/-- Does the beam hold a pending cause that one of its fragments is still to take (R413)? DEDUCED: log entry 62. -/
def Beam.holdsCause (b : Beam) : Bool := b.pend.any fun p => p.stop || p.left b != 0

/-- A pending cause that this fragment takes before its issue (R413): a STOP at any fragment, a HWERR at the fragment
that issued the load, or that goes on with the lowest of its failing lanes. DEDUCED: log entry 62. -/
def Frag.pending (x : Frag) : Option Pending :=
  match x.b.pend with
  | some p =>
    if x.b.trap.isNone && (p.stop || (p.left x.b != 0 && x.mask.getLsbD (leadOf (p.left x.b)))) then some p else none
  | none => none

def Pending.toTrap (p : Pending) : Trap :=
  { group := p.cause % 32, code := p.cause / 2 ^ 16, lanes := if p.stop then none else some p.lanes, x := p.x, y := p.y, z := p.z }

/-- The pending cause is taken (R413). DEDUCED: log entry 62. -/
def State.takePending (s : State) (x : Frag) (p : Pending) : State :=
  if s.owed x.b.key then s else (s.setBeam { x.b with pend := none }).trapEntry x.b.key x.e x.pc x.words p.toTrap

/-- Operands are in place: an EMPTY trap, a wait for the destination, or the instruction's own effect. -/
def State.runOwn (s : State) (g : Guard) (body : Frag → State → Res) (x : Frag) : State :=
  match x.emptyTrap g with
  | some t => s.trapEntry x.b.key x.e x.pc x.words t
  | none => if x.waitsDst g then s else s.finish x g.uses (body x s)

/-- The frame of every meaning of a beam instruction: a pending cause comes first, then the checks of the guard; an
instruction that must wait for a register has no effect; otherwise its own effect ends by `finish`.
DEDUCED: log entry 24. -/
def State.runFrag (s : State) (g : Guard) (body : Frag → State → Res) : Host.Outcome State Fault Refusal :=
  match s.frag with
  | none => .fault .noFragment
  | some x =>
    match x.pending with
    | some p => .next (s.takePending x p)
    | none =>
      match x.check g with
      | some t => .next (s.trapEntry x.b.key x.e x.pc x.words t)
      | none => if x.waitsSrc g || s.tooEarly x g then .next s else .next (s.runOwn g body x)

/-- Why the target of a transfer cannot be entered: FETCH at the transferring instruction (R118, R141, R142). -/
def State.targetTrap (s : State) (x : Frag) (target : Nat) : Option Trap :=
  match s.contextOf x.b with
  | none => none
  | some c => (s.headerFault x.core c target).map fun code => Trap.addr gFETCH code none target 0

/-- A glint may not branch backwards (R270, R90). -/
def Frag.glintBack (x : Frag) (target : Nat) : Option Trap :=
  if x.b.glint.isSome && decide (target ≤ x.pc) then
    some { group := gCONV, code := 2, lanes := none, x := x.op + x.w * 2 ^ 8, y := 1, z := 0 }
  else none

/-- Why a transfer cannot be made. -/
def State.transferTrap (s : State) (x : Frag) (target : Nat) : Option Trap :=
  match s.targetTrap x target with
  | some t => some t
  | none => x.glintBack target

/-- Transfer, or trap when the target is no header. -/
def State.goto (s : State) (x : Frag) (target : Nat) (s' : State) : Res :=
  match s.transferTrap x target with
  | some t => .trap t
  | none => .jump s' target

/-- An effect on the issuing beam alone. -/
def State.beamDone (s : State) (b : Beam) : Res := .done (s.setBeam b)

end Sys2Proof.Machine
end

