-- ==== Sys2Proof/Machine/Operands.lean ====
section
/-! DEFINITION. Operand forms: Prism, scalar operands of vector instructions, immediates, register pairs, and the lists
of registers that the forms name (R21, R88, R110 to R114, R178). -/

namespace Sys2Proof.Machine

/-! ### Registers that operands name -/

/-- One or two registers of a set, the second, which the pair implies, where the type takes a pair (R410). -/
def regUses (set : RSet) (r : Reg) (wide : Bool) (src : Nat) (dst trap : Bool) : List Use :=
  { set := set, r := r.toNat, src := src, dst := dst, trap := trap } ::
    (if wide then [{ set := set, r := r.toNat + 1, src := 5, dst := dst, trap := trap }] else [])

def dstV (t : Ty) (d : Reg) : List Use := regUses .v d t.wide 0 true false
def dstS (d : Reg) : List Use := regUses .s d false 0 true false
def dstK (d : Reg) : List Use := regUses .k d false 0 true false
def dstC (d : Reg) : List Use := regUses .c d false 0 true false

/-- The s register of a pattern 6 Prism, read with policy 0 (R112). -/
def Prism.uses : Prism → List Use
  | .rots q => [{ set := .s, r := q.toNat, src := 5, dst := false, trap := false }]
  | _ => []

def VArg.uses (wide : Bool) (src : Nat) : VArg → List Use
  | .v r p e => regUses .v r wide src false e ++ Prism.uses p
  | .s r e => regUses .s r false src false e

def VArgI.uses (wide : Bool) (src : Nat) : VArgI → List Use
  | .reg a => VArg.uses wide src a
  | .imm _ => []

def VOp.uses (wide : Bool) (src : Nat) (a : VOp) : List Use := regUses .v a.r wide src false a.e ++ Prism.uses a.p

def SArg.uses (src : Nat) (a : SArg) : List Use := regUses .s a.r false src false a.e

def SArgI.uses (src : Nat) : SArgI → List Use
  | .reg a => SArg.uses src a
  | .imm _ => []

/-- Sources of a two-source vector instruction. -/
def useAB (t : Ty) (a : VArg) (b : VArgI) : List Use := VArg.uses t.wide 1 a ++ VArgI.uses t.wide 2 b

/-! ### Prism (R88, R113) -/

/-- The lane that lane `i` of a beam of width `w` reads, none where the pattern names no lane. -/
def prismLane (b : Beam) (p : Prism) (i : Nat) : Option Nat :=
  let w := b.w
  match p with
  | .id => some i
  | .rot q => some ((i + q.toNat) % w)
  | .bc q => if q.toNat < w then some q.toNat else none
  | .bfly q => some (i ^^^ (q.toNat % w))
  | .mir => some (w - 1 - i)
  | .mirg q =>
    let g := min (2 ^ q.toNat) w
    some (i / g * g + (g - 1 - i % g))
  | .rots r => some ((i + (b.sreg r.toNat).toNat % w) % w)

/-- A vector register or pair in one lane. -/
def Beam.vval (b : Beam) (wide : Bool) (r i : Nat) : Nat :=
  (b.vl r i).toNat + if wide then (b.vl (r + 1) i).toNat * 2 ^ 32 else 0

/-- A value through a Prism: an inactive or missing lane gives the absent code, all ones for a b type (R88). -/
def Frag.prism (x : Frag) (none_ : Nat) (p : Prism) (f : Nat → Nat) (i : Nat) : Nat :=
  match prismLane x.b p i with
  | some j => if x.mask.getLsbD j then f j else none_
  | none => none_

/-! ### Operands -/

/-- A source of kind v or s as an operand of type t in each lane, with the flags of its narrowing (R111). -/
def Frag.src (x : Frag) (t : Ty) : VArg → (Nat → Nat) × Flags
  | .v r p _ => (x.prism (Ty.absent t) p (x.b.vval t.wide r.toNat), 0)
  | .s r _ =>
    let c := scalarOperand t (x.b.sreg r.toNat).toNat
    (fun _ => c.1, c.2)

def Frag.srcI (x : Frag) (t : Ty) : VArgI → (Nat → Nat) × Flags
  | .reg a => x.src t a
  | .imm w => (fun _ => extendImm t w, 0)

def Frag.vop (x : Frag) (t : Ty) (a : VOp) : Nat → Nat := (x.src t (.v a.r a.p a.e)).1

/-- A scalar source. -/
def Frag.sval (x : Frag) (a : SArg) : Nat := (x.b.sreg a.r.toNat).toNat

/-- A scalar source or an immediate extended by the type (R114, R168). -/
def Frag.svalI (x : Frag) (t : STy) : SArgI → Nat
  | .reg a => x.sval a
  | .imm w => extendImm (match t with | .s64 => .s64 | .n64 => .n64 | .b64 => .b64) w

/-- The register type of a scalar type. -/
def STy.ty : STy → Ty
  | .s64 => .s64 | .n64 => .n64 | .b64 => .b64

def STy.fmt (t : STy) : Fmt := Ty.fmt (STy.ty t)

/-! ### Results -/

/-- Write one value a lane into a register or pair, in the active lanes (R84). -/
def Frag.putV (x : Frag) (wide : Bool) (d : Nat) (f : Nat → Nat) : Beam :=
  let b := x.b.putV d x.mask fun i => BitVec.ofNat 32 (f i)
  if wide then b.putV (d + 1) x.mask fun i => BitVec.ofNat 32 (f i / 2 ^ 32) else b

/-- A scalar result under R86. -/
def Frag.putS (x : Frag) (d : Reg) (v : Nat) : Beam := x.b.putS x.lead d.toNat (BitVec.ofNat 64 v)

end Sys2Proof.Machine
end

