-- ==== Sys2Proof/Machine/Flags.lean ====
section
/-! DEFINITION. Results with the flags that they raise in `status` (R26, R41 to R43). -/

namespace Sys2Proof.Machine

/-- Results of the active lanes, in lane order; an inactive lane computes nothing and raises no flag. -/
def Frag.results (x : Frag) (f : Nat → Coded) : List Coded :=
  (List.range x.w).map fun i => if x.mask.getLsbD i then f i else (0, 0)

/-- The flags of a list of results. -/
def flagsOf (rs : List Coded) : Flags := orFlags (rs.map (·.2))

/-- Write the results of the active lanes to a vector register or pair, and raise their flags and those of the operands
(R42). -/
def Frag.putCoded (x : Frag) (wide : Bool) (d : Reg) (fl : Flags) (f : Nat → Coded) : Beam :=
  let rs := x.results f
  (x.putV wide d.toNat fun i => (rs.getD i (0, 0)).1).raise (fl ||| flagsOf rs)

/-- Write a scalar result and raise its flags. -/
def Frag.putSCoded (x : Frag) (d : Reg) (c : Coded) : Beam := (x.putS d c.1).raise c.2

/-- Write truth values to the active lanes of a lane truth register (R53). -/
def Frag.putTri (x : Frag) (d : Reg) (fl : Flags) (f : Nat → Tri) : Beam :=
  (x.b.putC d.toNat x.mask fun i => (f i).code).raise fl

end Sys2Proof.Machine
end

