-- ==== Sys2Proof/Machine/Access.lean ====
section
/-! DEFINITION. The accesses of one memory instruction: addresses, the checks that come before any access, reading and
writing one lane, and the trace of accesses (R217 to R226, R231, R379, R386, R410, R428). -/

namespace Sys2Proof.Machine

/-- What a memory instruction does at each address. -/
structure Acc where
  spad    : Bool
  acc     : Access
  atomic  : Bool
  /-- bytes of one access -/
  n       : Nat
  uniform : Bool
  /-- scope `.die` or wider (R225) -/
  wide    : Bool
  /-- near pages only (R155, R245) -/
  near    : Bool
  /-- scope `.sys`: far memory itself is read (R226) -/
  sys     : Bool := false
  deriving DecidableEq, Repr

/-- Scopes of `.die` and wider (R218, R225). -/
def Scope.wide : Scope → Bool
  | .beam | .cohort | .core => false
  | .die | .dev | .sys => true

/-! ### Addresses (R219, R220) -/

/-- Registers that a memory operand reads. -/
def MemArg.uses (spad : Bool) : MemArg → List Use
  | .uni a _ => SArg.uses 1 a
  | .vec a e _ => regUses .v a (!spad) 1 false e
  | .idx a b eb => SArg.uses 1 a ++ regUses .v b false 2 false eb
  | .all => []

/-- A displacement is s32. -/
def dispOf (w : Option Word) : Int := sext 32 ((w.getD 0).toNat)

/-- The address of a lane, none where it is absent (R220, R61). -/
def Frag.addr (x : Frag) (spad : Bool) (m : MemArg) (i : Nat) : Option Int :=
  match m with
  | .uni a d => let b := x.sval a; if Fmt.isAbsent .n64 b then none else some ((b : Int) + dispOf d)
  | .vec r _ d =>
    let b := x.b.vval (!spad) r.toNat i
    if Fmt.isAbsent (if spad then .n32 else .n64) b then none else some ((b : Int) + dispOf d)
  | .idx a r _ =>
    let b := x.sval a
    let j := x.b.vval false r.toNat i
    if Fmt.isAbsent .n64 b || Fmt.isAbsent .s32 j then none else some ((b : Int) + sext 32 j)
  | .all => none

/-- The active lanes with a present address, lowest first. -/
def Frag.present (x : Frag) (f : Nat → Option Int) : List (Nat × Int) :=
  (lanesOf x.mask).filterMap fun i => (f i).map fun a => (i, a)

def MemArg.uniform : MemArg → Bool
  | .uni _ _ => true
  | _ => false

/-! ### Checks (R221, R222) -/

/-- The order of the memory groups (R222). -/
def groupRank (g : Nat) : Nat :=
  if g == gALIGN then 0 else if g == gSPACE then 1 else if g == gXLATE then 2 else if g == gPROT then 3 else 4

/-- Conditions of a scratchpad address. -/
def Cohort.spadFaults (c : Cohort) (k : Acc) (a : Int) : List (Nat × Nat) :=
  if a < 0 || a + k.n > c.wsize then [(gSPACE, 1)]
  else if k.acc.writes && c.tagged a.toNat then [(gSYNC, 1)]
  else []

/-- Conditions of the tier: NOT_NEAR, FAR_ATOMIC (R155, R234, R245, R419). A write that waits for a migrating page is not
judged yet (R386). -/
def tierFaults (k : Acc) (t : Xl) : List (Nat × Nat) :=
  match t with
  | .page pa tier _ _ _ =>
    if t.migrates k.acc then []
    else if k.near && (tier != 0 || (regPageOf pa).isSome) then [(gSPACE, 2)]
    else if k.atomic && (tier == 1 || (regPageOf pa).isSome) then [(gSPACE, 3)]
    else []
  | _ => []

/-- Conditions of a global address. -/
def State.globalFaults (s : State) (core : Nat) (c : Context) (k : Acc) (a : Int) : List (Nat × Nat) :=
  if a < 0 || a ≥ 2 ^ 56 then [(gXLATE, 3)]
  else
    let t := s.xlate (.beam core) k.acc.writes c a.toNat
    tierFaults k t ++ xlFaults c k.acc t

/-- Every condition that one address meets. -/
def State.accFaults (s : State) (x : Frag) (k : Acc) (a : Int) : List (Nat × Nat) :=
  (if a % k.n != 0 then [(gALIGN, 1)] else []) ++
  if k.spad then
    match s.cohort? x.b.cohort with
    | some c => c.spadFaults k a
    | none => []
  else
    match s.contextOf x.b with
    | some c => s.globalFaults x.core c k a
    | none => []

/-- The third detail word of a memory trap (R410). -/
def Frag.memZ (x : Frag) (k : Acc) : Nat :=
  Nat.log2 k.n + (if k.acc.writes then 16 else 0) + (if k.atomic then 32 else 0) + (if k.spad then 64 else 0) +
    (if k.uniform then 128 else 0) + x.op * 256

/-- The one trap that the lanes' conditions raise (R222). -/
def Frag.memTrap (x : Frag) (k : Acc) (fs : List (Nat × Int × Nat × Nat)) : Option Trap :=
  let rank := fun f : Nat × Int × Nat × Nat => groupRank f.2.2.1 * 256 + f.2.2.2
  match fs with
  | [] => none
  | f :: rest =>
    let worst := rest.foldl (fun (b : Nat × Int × Nat × Nat) g => if rank g < rank b then g else b) f
    let hit := fs.filter fun g => rank g == rank worst
    let lanes := if k.uniform then none else some (maskOf (hit.map (·.1)))
    let a := ((hit.map fun g : Nat × Int × Nat × Nat => g.2.1).headD 0 % 2 ^ 56).toNat
    some (Trap.addr worst.2.2.1 worst.2.2.2 lanes a (x.memZ k))

/-- The conditions of all lanes. -/
def State.laneFaults (s : State) (x : Frag) (k : Acc) (ls : List (Nat × Int)) : List (Nat × Int × Nat × Nat) :=
  ls.flatMap fun l => (s.accFaults x k l.2).map fun f => (l.1, l.2, f.1, f.2)

/-- Lanes whose write must wait for a migrating page (R386). -/
def State.migrating (s : State) (x : Frag) (k : Acc) (ls : List (Nat × Int)) : List (Nat × Int) :=
  if k.spad then []
  else
    match s.contextOf x.b with
    | some c => ls.filter fun l => (s.xlate (.beam x.core) k.acc.writes c l.2.toNat).migrates k.acc
    | none => []

/-- The fragment waits at the walker (R386), whatever it waited for before; the wait keeps what MIGRATING would report. -/
def State.migWait (s : State) (x : Frag) (k : Acc) (i : Instr) (ls : List (Nat × Int)) : State :=
  let y := x.entry
  if y.wait.any fun w => w.kind == .migrate then s
  else
    let m := if k.uniform then x.mask else maskOf (ls.map (·.1))
    let aux := m.toNat + 2 ^ 64 * (((ls.map fun l : Nat × Int => l.2).headD 0).toNat + 2 ^ 56 * x.memZ k)
    s.setBeam (x.b.setEntry x.e { y with
      wait := some { kind := .migrate, ins := i, words := x.words, waited := 0, rem := none, woken := false, aux := aux } })

/-- The checks come first, then a wait for a migrating page, then the accesses (R222, R386). -/
def State.access (s : State) (x : Frag) (k : Acc) (i : Instr) (ls : List (Nat × Int)) (go : Res) : Res :=
  match x.memTrap k (s.laneFaults x k ls) with
  | some t => .trap t
  | none =>
    match s.migrating x k ls with
    | [] => go
    | m => .stay (s.migWait x k i m)

/-- MIGRATION_WAIT_EXPIRY: a beam's write that has waited 65,536 cycles traps MIGRATING (R386), after a pending cause
(R413). -/
def execMigrationWaitExpiry (b : BeamKey) (e : Nat) (s : State) : Host.Outcome State Fault Refusal :=
  match s.beam? b with
  | none => .next s
  | some x =>
    let y := x.entry e
    match y.wait with
    | some w =>
      if w.kind == .migrate && y.st == .run && decide (65536 ≤ w.waited) then
        let hi := w.aux / 2 ^ 64
        let f : Frag := { b := x, e := e, pc := y.pc, raw := ⟨0, 0, 0⟩, words := w.words }
        match f.pending with
        | some p => .next (s.takePending f p)
        | none =>
          .next (s.trapEntry b e y.pc w.words (Trap.addr gXLATE 5 (some (BitVec.ofNat 64 w.aux)) (hi % 2 ^ 56) (hi / 2 ^ 56)))
      else .next s
    | none => .next s

/-! ### One lane's access -/

/-- Is a page of this tier read beneath the L1: at a wide scope, by an atomic, or in far memory (R225, R226, R234)? -/
def Acc.beneath (k : Acc) (tier : Nat) : Bool := k.wide || k.atomic || tier == 1

/-- The bytes of a frame: at a scope below `.sys` the near cache may still give far memory's older ones (R226, R314). -/
def State.frameRead (s : State) (core : Nat) (k : Acc) (tier pa : Nat) : List Byte :=
  let bs := s.coreRead core (k.beneath tier) pa k.n
  if tier == 2 && !k.sys && s.choose 4 pa then olderBytes s.older pa bs else bs

/-- Does the access give an older byte of the window, of those that a copy has overwritten since (R102, R103)? A plain load may.
DESIGN CHOICE: log entry 5. -/
def State.givesOld (s : State) (x : Frag) (k : Acc) (off : Nat) : Bool :=
  k.acc == .read && !k.atomic && (cellAt off x.b.behind).isSome && s.choose 7 (off + 2 ^ 22 * (x.b.key.slot + 2 ^ 10 * x.b.key.core))

/-- The bytes that a beam reads of its window. DESIGN CHOICE: log entry 4. -/
def State.spadRead (s : State) (x : Frag) (k : Acc) (c : Cohort) (a : Nat) : List Byte :=
  let now := c.bytes a k.n
  if x.b.behind.isEmpty then now
  else now.zipIdx.map fun p => if s.givesOld x k (a + p.2) then (cellAt (a + p.2) x.b.behind).getD p.1 else p.1

/-- What a beam has read of its window, or another beam has stored there, is no longer older for it. -/
def Beam.caughtUp (b : Beam) (keep : Nat → Bool) : Beam := { b with behind := b.behind.filter fun c => keep c.1 }

/-- The bytes that a checked address reads; an absent page gives `absent` (R66). -/
def State.laneRead (s : State) (x : Frag) (k : Acc) (absent : Nat) (a : Nat) : List Byte :=
  if k.spad then ((s.cohort? x.b.cohort).map fun c => s.spadRead x k c a).getD []
  else
    match s.contextOf x.b with
    | none => []
    | some c =>
      match s.xlate (.beam x.core) k.acc.writes c a with
      | .page pa tier _ _ _ =>
        if (regPageOf pa).isSome then s.pageRead pa k.n else s.frameRead x.core k tier pa
      | _ => natLe k.n absent

/-- What an access leaves in the TLBs, the page table and the L1; D is set with an atomic's write (R379, R305). A window's byte
that has been read as it stands is not read older later. -/
def State.laneNote (s : State) (x : Frag) (k : Acc) (a : Nat) : State :=
  if k.spad then
    match s.beam? x.b.key with
    | some b =>
      if b.behind.isEmpty then s
      else s.setBeam (b.caughtUp fun o => !decide (a ≤ o ∧ o < a + k.n) || s.givesOld x k o)
    | none => s
  else
    match s.contextOf x.b with
    | none => s
    | some c =>
      let t := s.xlate (.beam x.core) k.acc.writes c a
      let s := s.xlNoteAs (.beam x.core) k.acc.writes (k.acc == .write) c a
      match t with
      | .page pa tier _ _ _ =>
        if (regPageOf pa).isSome || k.acc == .write then s else s.coreReadNote x.core (k.beneath tier) pa k.n
      | _ => s

/-- A store's bytes are the newest for every beam of the cohort. -/
def State.newest (s : State) (c : CohortKey) (a n : Nat) : State :=
  if s.beams.any fun b => b.cohort == c && !b.behind.isEmpty then
    { s with beams := s.beams.map fun b => if b.cohort == c then b.caughtUp fun o => !decide (a ≤ o ∧ o < a + n) else b }
  else s

/-- A store to a window. -/
def State.spadPut (s : State) (c : Cohort) (a : Nat) (bs : List Byte) : State :=
  (s.setCohort (c.put a bs)).newest c.key a bs.length

/-- Write bytes at a checked address. -/
def State.laneWrite (s : State) (x : Frag) (k : Acc) (a : Nat) (bs : List Byte) : State :=
  if k.spad then
    match s.cohort? x.b.cohort with
    | some c => s.spadPut c a bs
    | none => s
  else
    match s.contextOf x.b with
    | none => s
    | some c =>
      let s := if k.acc == .rmw then s.xlNote (.beam x.core) true c a else s
      match s.xlate (.beam x.core) true c a with
      | .page pa tier _ _ _ =>
        if (regPageOf pa).isSome then s.pageWrite pa bs
        else
          let t := s.writeBytes (some x.core) (tier == 2) pa bs
          if tier == 1 then t.post (.beam x.b.key) k.sys pa else t
      | _ => s

/-! ### Latencies of deterministic issue mode (R223, R435) -/

/-- Cycles that lanes hold the scratchpad: the most rows, or for atomics the most operations, in one bank. -/
def bankCycles (atomic : Bool) (words : List Nat) : Nat :=
  let ws := if atomic then words else words.eraseDups
  let load := fun b => (ws.filter fun w => w % 384 == b)
  max 1 ((ws.map fun w => (if atomic then load (w % 384) else ((load (w % 384)).map (· / 384)).eraseDups).length).foldl max 0)

/-- Cycles of a scratchpad instruction; a width-64 beam counts its halves on their own. -/
def State.spadCycles (s : State) (x : Frag) (k : Acc) (ls : List (Nat × Int)) : Nat :=
  let base := ((s.cohort? x.b.cohort).map (·.wbase)).getD 0
  let words := fun l : Nat × Int => (List.range (k.n / 4)).map fun j => (base + l.2.toNat) / 4 + j
  let half := fun p : Nat → Bool => bankCycles k.atomic ((ls.filter fun l => p l.1).flatMap words)
  if x.w == 64 then half (· < 32) + half (32 ≤ ·) else half fun _ => true

/-- Tier and frame address of a lane's access; none of an absent page. -/
def State.laneTier (s : State) (x : Frag) (k : Acc) (a : Nat) : Option (Nat × Nat) :=
  match (s.contextOf x.b).map fun c => s.xlate (.beam x.core) k.acc.writes c a with
  | some (.page pa tier _ _ _) => some (tier, pa)
  | _ => none

/-- Units that may hold the data of a page of a tier (R412): its L1 line, near memory, far memory. -/
def Acc.units (k : Acc) (tier : Nat) : List Nat :=
  (if k.beneath tier then [] else [3]) ++ (if tier == 1 then [] else [4]) ++ (if tier == 0 then [] else [5])

/-- The cycle at which a load's value is in place: fixed in deterministic issue mode, open otherwise; the units that an
error in it names; and the lanes that read a range whose CXL ports are down, which fail once the fabric timeout has passed
(R404). DESIGN CHOICE: log entry 11. -/
def State.loadReady (s : State) (x : Frag) (k : Acc) (ls : List (Nat × Int)) : Arrival :=
  if k.spad then { s.within x.core (19 + s.spadCycles x k ls) with units := [2] }
  else
    let ts := ls.filterMap fun l => (s.laneTier x k l.2.toNat).map fun t => (l.1, t)
    let down := (ts.filter fun t => t.2.1 != 0 && s.farDown t.2.2).map (·.1)
    let lim := ((s.partOfCore x.core).map (·.timeout)).getD 0
    let at_ := s.within x.core (if ts.any fun t => t.2.1 != 0 then 1100 else 180)
    { ready := if down.isEmpty then at_.ready else max at_.ready (s.clock + lim)
      units := (ts.flatMap fun t => k.units t.2.1).eraseDups
      down := if k.uniform && !down.isEmpty then x.mask else maskOf down }

/-! ### MEMREC and DVAL (R428) -/

/-- Fits an s32. -/
def fits32 (z : Int) : Bool := decide (-(2 ^ 31) ≤ z ∧ z < 2 ^ 31)

/-- MODE, base and offsets of the lanes' addresses. -/
def memrecBody (ls : List (Nat × Int)) : Nat × Nat × List Byte :=
  match ls with
  | [] => (0, 0, natLe 4 0)
  | (i, a) :: rest =>
    let stride : Int :=
      match rest with
      | [] => 0
      | (j, b) :: _ => (b - a) / ((j : Int) - i)
    let base := a - stride * i
    if fits32 stride && decide (0 ≤ base) && ls.all (fun l => l.2 == base + stride * l.1) then
      (0, base.toNat, natLe 4 (pattern 32 stride))
    else (1, a.toNat, ls.flatMap fun l => natLe 4 (pattern 32 (l.2 - a)))

/-- One MEMREC of an instruction. -/
def State.memrec (s : State) (x : Frag) (k : Acc) (ls : List (Nat × Int)) : State :=
  if (s.coreOf x.core).trace.memMode != 1 then s
  else
    let acc := Nat.log2 k.n + (if k.acc.writes then 4 else 0) + (if k.atomic then 8 else 0) + (if k.spad then 16 else 0)
    let r := memrecBody ls
    s.packet (x.b.site x.e x.pc x.mask) 0x06
      [.raw ([BitVec.ofNat 8 x.b.key.slot, BitVec.ofNat 8 acc] ++ natLe 7 x.pc), .mask (maskOf (ls.map (·.1))),
        .raw (natLe 7 r.2.1 ++ [BitVec.ofNat 8 r.1] ++ r.2.2)]

/-- Does a write of bytes [a, a + n) touch an enabled watched region? -/
def TraceUnit.watched (t : TraceUnit) (spad : Bool) (a n : Nat) : Bool :=
  (t.wbase.zip t.wlimit).any fun r =>
    r.1.getLsbD 63 && r.1.getLsbD 62 == spad && decide (a < bits r.2.toNat 0 56 ∧ bits r.1.toNat 0 56 < a + n)

/-- One DVAL of a lane's write. -/
def State.dval (s : State) (x : Frag) (k : Acc) (a old new : Nat) : State :=
  let t := (s.coreOf x.core).trace
  if t.memMode == 2 && t.watched k.spad a k.n then
    s.packet (x.b.site x.e x.pc x.mask) 0x07
      [.raw ([BitVec.ofNat 8 x.b.key.slot, BitVec.ofNat 8 (Nat.log2 k.n)] ++ natLe 7 a ++ natLe 8 old ++ natLe 8 new ++
        natLe 7 x.pc)]
  else s

/-- Write one lane with its notes and its DVAL. -/
def State.lanePut (s : State) (x : Frag) (k : Acc) (a v : Nat) : State :=
  let old := leNat (s.laneRead x { k with wide := true, sys := true } 0 a)
  ((s.laneNote x k a).laneWrite x k a (natLe k.n v)).dval x k a old v

/-- A beam has acquired what copies have delivered to its window (R103, R266, R277, R308). -/
def State.catchUp (s : State) (k : BeamKey) : State :=
  match s.beam? k with
  | some b => s.setBeam { b with behind := [] }
  | none => s

/-- An acquire: one of scope `.die` or wider removes every line of the core's L1 (R225, R229, R235), and the bytes that copies
have delivered to the window are acquired (R103, R308). DESIGN CHOICE: log entry 4. -/
def State.acquire (s : State) (x : Frag) (acq : Bool) (sc : Scope) : State :=
  let s := if acq && sc != .beam then s.catchUp x.b.key else s
  if acq && Scope.wide sc then s.modCore x.core fun c => c.dropLines fun _ => true else s

/-! ### Copies that overwrite what beams read (R102, R103) -/

/-- The lanes of a load with the bytes that a copy has changed: each is taken or not, unspecified which.
DESIGN CHOICE: log entry 5. -/
def LoadTake.patch (t : LoadTake) (s : State) (n : Nat) (news : List (Nat × Byte)) : LoadTake :=
  { t with lanes := t.lanes.map fun l =>
      (l.1, l.2.1, l.2.2.zipIdx.map fun p =>
        match news.find? fun q => q.1 == l.2.1 + p.2 with
        | some q => if s.choose 13 (l.1 + 64 * (q.1 + 2 ^ 22 * n)) then q.2 else p.1
        | none => p.1) }

/-- A destination with the lanes' bytes as they are taken. -/
def FillDst.patch (d : FillDst) (t : LoadTake) : FillDst :=
  match d with
  | .v r m vals banked =>
    .v r m (vals.zipIdx.map fun v => v.1.zipIdx.map fun w =>
      match t.lanes.find? fun l => l.1 == w.2 with
      | some l => BitVec.ofNat 32 (leNat l.2.2 / 2 ^ (32 * v.2))
      | none => w.1) banked
  | .s r val drop banked =>
    match t.lanes with
    | l :: _ => .s r (BitVec.ofNat 64 (widen t.ty (leNat l.2.2))) drop banked
    | [] => .s r val drop banked

def Fill.patch (f : Fill) (s : State) (n : Nat) (c : CohortKey) (news : List (Nat × Byte)) : Fill :=
  match f.take with
  | some t =>
    if t.cohort == c && t.lanes.any fun l => news.any fun q => decide (l.2.1 ≤ q.1 ∧ q.1 < l.2.1 + l.2.2.length) then
      let t := t.patch s n news
      { f with take := some t, dst := f.dst.patch t }
    else f
  | none => f

/-- What an engine's delivery of data to a window leaves open: a load of another beam in flight may take each new byte, and a
later load of any beam may give the older one until an acquire (R102, R103, R301). DESIGN CHOICE: log entry 4. -/
def State.delivered (s : State) (by_ : BeamKey) (c : Cohort) (off : Nat) (bs : List Byte) : State :=
  let t := s.winData c.key off bs
  match t.cohort? c.key with
  | none => t
  | some d =>
    if c.st != .resident then t
    else
      let olds := (List.range bs.length).filterMap fun k =>
        if c.byte (off + k) == d.byte (off + k) then none else some (off + k, c.byte (off + k))
      let news := olds.map fun p => (p.1, d.byte p.1)
      { t with
        beams := t.beams.map fun b =>
          if b.cohort == c.key then
            { b with behind := olds.foldl (fun (l : List Host.Cell) p => if (cellAt p.1 l).isSome then l else cellPut p.1 p.2 l) b.behind }
          else b
        fills := t.fills.zipIdx.map fun f => if f.1.beam == by_ then f.1 else f.1.patch s f.2 c.key news }

/-- An engine's data for a cohort's window. -/
def State.deliver (s : State) (r : Req) (off : Nat) (bs : List Byte) : State :=
  match s.cohort? r.cohort with
  | some c => s.delivered r.beam c off bs
  | none => s

end Sys2Proof.Machine
end

