-- ==== Sys2Proof/Machine/Blocks.lean ====
section
/-! DEFINITION. Block-scaled formats: MX elements under their scales, n4x blocks with their outliers, the quantisers,
sparse-run spans, and conversions between formats (R29 to R34, R38, R68 to R70, R261). -/

namespace Sys2Proof

/-- Is the format one of the MX formats, with a scale array of its own (R29)? -/
def Fmt.mx : Fmt → Bool
  | .mx8 | .mx8b | .mx4 | .mxi8 => true
  | _ => false

/-- Is an element half a byte wide (R31)? -/
def Fmt.four (f : Fmt) : Bool := Fmt.width f == 4

def Fmt.atCode (c : Nat) : Fmt := (Fmt.ofCode (BitVec.ofNat 5 c)).getD .b8

def Num.zero : Num := .fin false 0 0

def Num.isAbsent (x : Num) : Bool := x == .absent

/-- Nibble `k` of packed 4-bit elements (R31). -/
def nibbleAt (bs : List Byte) (k : Nat) : Nat := (bs.getD (k / 2) 0).toNat / 16 ^ (k % 2) % 16

/-- Pack nibbles two to a byte (R31); an odd last one leaves the high nibble 0. -/
def packNibbles : List Nat → List Byte
  | [] => []
  | [a] => [BitVec.ofNat 8 a]
  | a :: b :: rest => BitVec.ofNat 8 (a + 16 * b) :: packNibbles rest

/-! ### Elements under a scale (R29, R30) -/

/-- An MX element under its block's scale code. -/
def mxValue (f : Fmt) (scale code : Nat) : Num :=
  if scale == 0xFF then .absent else (Fmt.value f code).scale ((scale : Int) - 127)

/-- Elements of an n4x block decoded so far: outliers found, a third met, the values. -/
abbrev Decoded4 := Nat × Bool × List Num

/-- One aligned pair of an n4x block (R32 to R34). -/
def n4xPair (e tail : Nat) (acc : Decoded4) (a b : Nat) : Decoded4 :=
  let (seen, bad, vs) := acc
  let plain := fun n : Nat =>
    if n == 7 then Num.absent else (Num.ofInt (if n ≥ 8 then (n : Int) - 16 else n)).scale ((e : Int) - 127)
  let outlier := fun h : Nat =>
    if seen ≥ 2 then Num.absent else mxValue .e4m3 e (16 * h + if seen == 0 then tail % 16 else tail / 16)
  if a == 8 then (seen + 1, bad || decide (seen ≥ 2), vs ++ [outlier b, Num.zero])
  else if b == 8 then (seen + 1, bad || decide (seen ≥ 2), vs ++ [Num.zero, outlier a])
  else (seen, bad, vs ++ [plain a, plain b])

/-- The 32 values of an n4x block, with FMT where a third outlier stands (R34). -/
def n4xDecode (bs : List Byte) : List Num × Flags :=
  let e := (bs.getD 16 0).toNat
  if e == 0xFF then (List.replicate 32 .absent, 0)
  else
    let tail := (bs.getD 17 0).toNat
    let r := (List.range 16).foldl (fun acc j => n4xPair e tail acc (nibbleAt bs (2 * j)) (nibbleAt bs (2 * j + 1)))
      ((0, false, []) : Decoded4)
    (r.2.2, if r.2.1 then FMT else 0)

/-- The bytes of a wholly absent n4x block (R135). -/
def n4xAbsent : List Byte := List.replicate 16 0x77 ++ [0xFF, 0x00]

/-! ### Magnitudes -/

def Num.abs : Num → Num
  | .inf _ => .inf false
  | .fin _ m e => .fin false m e
  | x => x

/-- ⌊log2⌋ of a finite magnitude that is not 0. -/
def Num.floorLog (m : Nat) (e : Int) : Int := (Nat.log2 m : Int) + e

/-- Magnitudes of the present elements that are no NaN. -/
def magnitudes (vs : List Num) : List Num := (vs.filter fun v => !v.isAbsent && !v.isNan).map Num.abs

/-- The largest of some magnitudes, 0 of none. -/
def maxMag (ms : List Num) : Num := ms.foldl (fun a b => if a.lt b then b else a) Num.zero

/-- Magnitudes in falling order. -/
def insertMag (x : Num) : List Num → List Num
  | [] => [x]
  | y :: ys => if y.lt x then x :: y :: ys else y :: insertMag x ys

def sortMags (ms : List Num) : List Num := ms.foldr insertMag []

/-! ### The MX quantiser (R261) -/

/-- The exponent of the largest element magnitude. -/
def mxEmax : Fmt → Int
  | .mx8 => 8 | .mx8b => 15 | .mx4 => 2 | _ => 0

/-- X of a block that holds a present element. -/
def mxScale (f : Fmt) (vs : List Num) : Int :=
  match maxMag (magnitudes vs) with
  | .inf _ => 127
  | .fin _ m e => if m == 0 then -127 else max (-127) (min 127 (Num.floorLog m e - mxEmax f))
  | _ => -127

/-- The scale code, the element codes, and the flags of a block of values. -/
def mxQuantise (f : Fmt) (mode : Rnd) (vs : List Num) : Nat × List Nat × Flags :=
  if vs.all Num.isAbsent then (0xFF, vs.map fun _ => Fmt.absent f, 0)
  else
    let x := mxScale f vs
    let cs := vs.map fun v =>
      if f == .mxi8 then roundNum .s8 mode true (v.scale (6 - x)) else roundNum f mode true (v.scale (-x))
    ((x + 127).toNat, cs.map (·.1), orFlags (cs.map (·.2)))

/-! ### The n4x quantiser (R261) -/

/-- The smallest X for which a magnitude × 2^−X is at most `c`, where 2^cl ≤ c < 2^(cl + 1). -/
def leastScale (c : Nat) (cl : Int) : Num → Int
  | .inf _ => 127
  | .fin _ m e =>
    if m == 0 then -127
    else
      let x := Num.floorLog m e - cl
      if (Num.fin false c 0).lt (.fin false m (e - x)) then x + 1 else x
  | _ => -127

/-- X of a block that holds a present element. -/
def n4xScale (vs : List Num) : Int :=
  let ms := sortMags (magnitudes vs)
  min 127 (max (-127) (max (leastScale 448 8 (ms.getD 0 Num.zero)) (leastScale 6 2 (ms.getD 2 Num.zero))))

/-- q of an element; none where it counts as |q| > 6 and has no number. -/
inductive Quot4 where
  | absent | nan | inf (neg : Bool) | int (z : Int)
  deriving DecidableEq, Repr

def quot4 (mode : Rnd) (x : Int) : Num → Quot4
  | .absent => .absent
  | .nan => .nan
  | .inf s => .inf s
  | .fin s m e => .int (roundInt mode s m (e - x))

/-- Does |q| exceed 6? -/
def Quot4.big : Quot4 → Bool
  | .absent => false
  | .nan | .inf _ => true
  | .int z => decide (6 < z.natAbs)

/-- The nibble of an element that is coded as an integer. -/
def Quot4.nibble : Quot4 → Coded
  | .absent => (7, 0)
  | .nan => (0, INV)
  | .inf s => (if s then 9 else 6, SAT)
  | .int z => if z > 6 then (6, SAT) else if z < -7 then (9, SAT) else (pattern 4 z, 0)

/-- Is the first of a pair its outlier: the larger magnitude, the lower index on a tie? -/
def firstOutlier (a b : Num) : Bool :=
  if b.isAbsent then true else if a.isAbsent then false else if a.isNan then true else if b.isNan then false
  else !a.abs.lt b.abs

/-- A block coded so far: outlier pairs, the tail, the nibbles, the flags. -/
abbrev Coded4 := Nat × Nat × List Nat × Flags

/-- Code one pair. -/
def n4xCodePair (mode : Rnd) (x : Int) (acc : Coded4) (a b : Num) : Coded4 :=
  let (seen, tail, ns, fl) := acc
  let qa := quot4 mode x a
  let qb := quot4 mode x b
  if (qa.big || qb.big) && decide (seen < 2) then
    let first := firstOutlier a b
    let c := roundNum .e4m3 mode true ((if first then a else b).scale (-x))
    let h := c.1 / 16
    (seen + 1, tail + (c.1 % 16) * 16 ^ seen, ns ++ (if first then [8, h] else [h, 8]), fl ||| c.2)
  else (seen, tail, ns ++ [qa.nibble.1, qb.nibble.1], fl ||| qa.nibble.2 ||| qb.nibble.2)

/-- The 18 bytes of a block of 32 values, and the flags. -/
def n4xQuantise (mode : Rnd) (vs : List Num) : List Byte × Flags :=
  if vs.all Num.isAbsent then (n4xAbsent, 0)
  else
    let x := n4xScale vs
    let r := (List.range 16).foldl
      (fun acc j => n4xCodePair mode x acc (vs.getD (2 * j) .absent) (vs.getD (2 * j + 1) .absent)) ((0, 0, [], 0) : Coded4)
    (packNibbles r.2.2.1 ++ [BitVec.ofNat 8 (x + 127).toNat, BitVec.ofNat 8 r.2.1], r.2.2.2)

/-! ### Conversions (R38) -/

/-- A code converted to another format; a raw format on either side copies bits. -/
def convertCode (src dst : Fmt) (mode : Rnd) (x : Nat) : Coded :=
  if Fmt.raw src || Fmt.raw dst then (x % 2 ^ Fmt.width dst, 0) else roundNum dst mode false (Fmt.value src x)

/-! ### Sparse-run spans (R68 to R70) -/

/-- Bytes of a record with P elements of a format. -/
def srfBytes (f : Fmt) (p : Nat) : Nat := 4 + roundUp ((p * Fmt.width f + 7) / 8) 4

/-- The elements that bytes hold, packed as in memory. -/
def unpackElems (f : Fmt) (bs : List Byte) (n : Nat) : List Nat :=
  (List.range n).map fun k => bits (leNat' bs) (k * Fmt.width f) (Fmt.width f)
where
  leNat' (bs : List Byte) : Nat := bs.foldr (fun b acc => b.toNat + 256 * acc) 0

/-- Elements packed as in memory, in whole bytes. -/
def packElems (f : Fmt) (cs : List Nat) : List Byte :=
  if Fmt.four f then packNibbles cs
  else cs.flatMap fun c => (List.range (Fmt.width f / 8)).map fun k => BitVec.ofNat 8 (c / 256 ^ k)

/-- One record: SKIP, P, the elements, the padding. -/
def srfRecord (f : Fmt) (skip : Nat) (es : List Nat) : List Byte :=
  let body := packElems f es
  [BitVec.ofNat 8 skip, BitVec.ofNat 8 (skip / 256), BitVec.ofNat 8 es.length, BitVec.ofNat 8 (es.length / 256)] ++ body ++
    List.replicate (roundUp body.length 4 - body.length) 0

/-- Records of a present run after a skip, split at 65,535 elements. -/
def srfRun (f : Fmt) : Nat → Nat → List Nat → List Byte
  | 0, _, _ => []
  | fuel + 1, skip, es =>
    if skip > 65535 then srfRecord f 65535 [] ++ srfRun f fuel (skip - 65535) es
    else srfRecord f skip (es.take 65535) ++ (if es.length > 65535 then srfRun f fuel 0 (es.drop 65535) else [])

/-- The runs of a row: lengths of absent elements to skip with the present run that follows each; absent runs shorter
than 4 stay inline. `skip` and `run` are what has been gathered. -/
def srfRuns (f : Fmt) : List Nat → Nat → List Nat → Nat → List (Nat × List Nat)
  | [], skip, run, _ => if run.isEmpty then [] else [(skip, run)]
  | e :: es, skip, run, abs =>
    if Fmt.isAbsent f e then srfRuns f es skip run (abs + 1)
    else if abs ≥ 4 then (if run.isEmpty then [] else [(skip, run)]) ++ srfRuns f es (if run.isEmpty then skip + abs else abs) [e] 0
    else if run.isEmpty then srfRuns f es skip (List.replicate abs (Fmt.absent f) ++ [e]) 0
    else srfRuns f es skip (run ++ List.replicate abs (Fmt.absent f) ++ [e]) 0

/-- The encoded span of a row (R70). -/
def srfEncode (f : Fmt) (row : List Nat) : List Byte :=
  ((srfRuns f row 0 [] 0).flatMap fun r => srfRun f (r.1 / 65535 + r.2.length / 65535 + 2) r.1 r.2) ++ [0, 0, 0, 0]

end Sys2Proof
end

