-- ==== Sys2Proof/Machine/Map.lean ====
section
/-! DEFINITION. Tensor maps: their fields, the checks of MAPLD, the scratchpad image of a box and its bursts, and where an
element of a box lies (R64, R65, R255 to R259). -/

namespace Sys2Proof.Machine

/-- A tensor map (R255). `bit4` is XPOSE of a load chain and RED of a store chain. -/
structure TMap where
  base    : Nat
  space   : Bool
  rank    : Nat
  nib     : Bool
  srf     : Bool
  fill    : Nat
  fmtc    : Nat
  wrap    : Nat
  indexed : Bool
  idxdim  : Nat
  ragged  : Bool
  ragdim  : Nat
  chain   : Nat
  conv    : Bool
  bit4    : Bool
  redop   : Nat
  cnt     : Bool
  fillv   : Nat
  dims    : List Nat
  strides : List Nat
  box     : List Nat
  crndc   : Nat
  cfmtc   : Nat
  aux     : Int
  deriving DecidableEq, Repr

/-- The fields of a 64-byte image. -/
def TMap.ofBytes (bs : List Byte) : TMap :=
  let f := fun k n => leNat ((bs.drop k).take n)
  let b7 := f 7 1
  let b8 := f 8 1
  let b10 := f 10 1
  let b11 := f 11 1
  let b57 := f 57 1
  { base := f 0 7, space := bits b7 7 1 == 1, rank := bits b7 4 3, nib := bits b7 3 1 == 1, srf := bits b7 2 1 == 1
    fill := bits b8 5 3, fmtc := bits b8 0 5, wrap := bits (f 9 1) 0 5
    indexed := bits b10 7 1 == 1, idxdim := bits b10 4 3, ragged := bits b10 3 1 == 1, ragdim := bits b10 0 3
    chain := bits b11 6 2, conv := bits b11 5 1 == 1, bit4 := bits b11 4 1 == 1, redop := bits b11 2 2
    cnt := bits b11 1 1 == 1, fillv := f 12 4
    dims := (List.range 5).map fun d => f (16 + 4 * d) 4
    strides := (List.range 4).map fun d => f (36 + 4 * d) 4
    box := (List.range 5).map fun d => f (52 + d) 1
    crndc := bits b57 5 3, cfmtc := bits b57 0 5, aux := sext 48 (f 58 6) }

namespace TMap

def fmt (m : TMap) : Fmt := Fmt.atCode m.fmtc
def cfmt (m : TMap) : Fmt := Fmt.atCode m.cfmtc
def dim (m : TMap) (d : Nat) : Nat := m.dims.getD d 1
def boxd (m : TMap) (d : Nat) : Nat := m.box.getD d 0 + 1
def wraps (m : TMap) (d : Nat) : Bool := bits m.wrap d 1 == 1
def isIdx (m : TMap) (d : Nat) : Bool := m.indexed && m.idxdim == d

/-- XPOSE and RED. -/
def xpose (m : TMap) : Bool := m.bit4 && m.chain == 1
def red (m : TMap) : Bool := m.bit4 && m.chain == 2

/-- The scratchpad-side format G (R259). -/
def g (m : TMap) : Fmt := if m.conv then m.cfmt else m.fmt

/-- CRND. -/
def crnd (m : TMap) : Rnd := (Rnd.ofCode (BitVec.ofNat 3 m.crndc)).getD .rn

/-- Bytes of an element of 8 bits or more. -/
def esize (f : Fmt) : Nat := max 1 (Fmt.width f / 8)

/-- Stride of a dimension, dimension 0's being the element size, or 1 for the 4-bit formats (R257). -/
def stride (m : TMap) (d : Nat) : Nat :=
  if d == 0 then (if Fmt.four m.fmt then 1 else esize m.fmt) else m.strides.getD (d - 1) 0

/-! ### The checks of MAPLD (R256) -/

/-- The first failing byte of orders 1 and 2. DEDUCED: log entry 41. -/
def bad12 (m : TMap) (bs : List Byte) : Option Nat :=
  let b := fun k => (bs.getD k 0).toNat
  if b 7 % 4 != 0 then some 7
  else if m.fill ≥ 3 then some 8
  else if b 9 / 32 != 0 then some 9
  else if b 11 % 2 != 0 || m.chain == 3 || m.redop == 3 then some 11
  else if m.crndc ≥ 6 then some 57
  else if m.fill == 2 && m.fmtc == 14 && m.fillv % 16 == 8 then some 12
  else if m.fmtc ≥ 23 then some 8
  else if m.srf && m.fmtc > 13 then some 7
  else none

/-- Order 3. -/
def bad3 (m : TMap) : Option Nat :=
  if m.rank == 0 || m.rank > 5 then some 7
  else
    match (List.range 5).findSome? fun d =>
      if m.dim d == 0 || (d ≥ m.rank && m.dim d != 1) then some (16 + 4 * d)
      else if d ≥ m.rank && m.boxd d != 1 then some (52 + d)
      else none with
    | some k => some k
    | none => if m.wrap / 2 ^ m.rank != 0 then some 9 else none

/-- Order 4. -/
def bad4 (m : TMap) : Option Nat :=
  let n := [m.ragged, m.indexed, Fmt.mx m.fmt, m.red && m.cnt].countP fun x => x
  if n > 1 then some (if m.ragged || m.indexed then 10 else 11)
  else if (m.ragged && m.ragdim + 2 > m.rank) || (m.indexed && m.idxdim ≥ m.rank) then some 10
  else none

/-- Orders 5 and 6. -/
def bad56 (m : TMap) : Option Nat :=
  let badStride := fun p : Nat → Bool => (List.range 4).findSome? fun d => if p (m.strides.getD d 0) then some (36 + 4 * d) else none
  if m.nib && !(m.fmt == .e2m1 || m.fmt == .mx4) then some 7
  else if Fmt.four m.fmt then
    match badStride fun x => x % 2 != 0 || (m.fmt == .n4x && x % 32 != 0) with
    | some k => some k
    | none => if m.fmt == .n4x && m.boxd 0 % 32 != 0 then some 52 else none
  else if m.base % esize m.fmt != 0 then some 0
  else badStride fun x => x % esize m.fmt != 0

/-- Orders 7 and 8. -/
def bad78 (m : TMap) : Option Nat :=
  if m.conv && (m.cfmtc ≥ 14 || m.cfmtc == m.fmtc) then some 57
  else if m.xpose && (m.rank == 1 || Fmt.four m.g || Fmt.mx m.g) then some 11
  else if (m.bit4 && m.chain == 0) || (m.cnt && !m.red) || (m.conv && m.chain == 0) then some 11
  else if m.srf && (m.bit4 || m.indexed) then some 7
  else none

/-- The byte of the first failing field, or none for a valid map. DEDUCED: log entry 41. -/
def bad (m : TMap) (bs : List Byte) : Option Nat :=
  match m.bad12 bs with
  | some k => some k
  | none =>
    match m.bad3 with
    | some k => some k
    | none =>
      match m.bad4 with
      | some k => some k
      | none =>
        match m.bad56 with
        | some k => some k
        | none => m.bad78

/-! ### The image and its bursts (R259) -/

/-- The box dimension that is innermost in the image. -/
def inner (m : TMap) : Nat := if m.xpose then 1 else 0

/-- The other dimensions, innermost first. -/
def outer (m : TMap) : List Nat := [1 - m.inner, 2, 3, 4]

/-- Elements of an image row. -/
def rowElems (m : TMap) : Nat := m.boxd m.inner

/-- Bytes of n elements of G. -/
def elemBytes (g : Fmt) (n : Nat) : Nat := if g == .n4x then n / 32 * 18 else (n * Fmt.width g + 7) / 8

def rowBytes (m : TMap) : Nat := elemBytes m.g m.rowElems

def rows (m : TMap) : Nat := (m.outer.map m.boxd).foldl (· * ·) 1

/-- Bursts of an image row. -/
def rowBursts (m : TMap) : Nat := (m.rowBytes + 127) / 128

/-- Bytes of scales of an image row. -/
def rowScales (m : TMap) : Nat := if Fmt.mx m.g then (m.rowElems + 31) / 32 else 0

/-- Bytes of the whole scale section. -/
def scaleBytes (m : TMap) : Nat := m.rows * m.rowScales

/-- Bytes of the element rows. -/
def bodyBytes (m : TMap) : Nat := m.rows * m.rowBytes

/-- Image size S. -/
def size (m : TMap) : Nat := m.bodyBytes + m.scaleBytes

def bursts (m : TMap) : Nat := m.rows * m.rowBursts + (m.scaleBytes + 127) / 128

/-- A burst of the image: the row and the bytes [lo, lo + n) of it, or a piece of the scale section. -/
inductive Piece where
  | row (r lo n : Nat)
  | scales (lo n : Nat)
  deriving DecidableEq, Repr

def piece (m : TMap) (k : Nat) : Piece :=
  if k < m.rows * m.rowBursts then
    let lo := k % m.rowBursts * 128
    .row (k / m.rowBursts) lo (min 128 (m.rowBytes - lo))
  else
    let lo := (k - m.rows * m.rowBursts) * 128
    .scales lo (min 128 (m.scaleBytes - lo))

/-- Offset of a piece in the image. -/
def at_ (m : TMap) : Piece → Nat
  | .row r lo _ => r * m.rowBytes + lo
  | .scales lo _ => m.bodyBytes + lo

/-- Bytes of a burst. -/
def burstBytes (m : TMap) (k : Nat) : Nat :=
  match m.piece k with
  | .row _ _ n => n
  | .scales _ n => n

/-- Box offsets of element j of image row r. -/
def offsets (m : TMap) (r j : Nat) : List Nat :=
  let w := m.outer.map m.boxd
  let o := fun k => r / ((w.take k).foldl (· * ·) 1) % w.getD k 1
  if m.inner == 0 then [j, o 0, o 1, o 2, o 3] else [o 0, j, o 1, o 2, o 3]

/-- The first element of a burst in its row: for n4x, of the block that its first byte lies in. -/
def firstElem (m : TMap) (lo : Nat) : Nat := if m.g == .n4x then lo / 18 * 32 else lo * 8 / Fmt.width m.g

/-! ### Where an element lies (R257, R64, R65) -/

/-- What an element stands for. -/
inductive Place where
  | fill
  | absent
  | at_ (ks : List Int)
  deriving DecidableEq, Repr

/-- Coordinate d of a box element, wrapped where its dimension wraps and is not the indexed one. -/
def coord (m : TMap) (st : List (Option Int)) (e : List Nat) (d : Nat) : Option Int :=
  (st.getD d (some 0)).map fun c : Int =>
    let k : Int := c + e.getD d 0
    if m.wraps d && !m.isIdx d then k % (m.dim d : Int) else k

/-- Does an element lie inside every dimension but the indexed one? None for an absent box. -/
def insideOthers (m : TMap) (st : List (Option Int)) (e : List Nat) : Option (List Int) :=
  let ks := (List.range 5).map (m.coord st e)
  if ks.any Option.isNone then none
  else
    let ks : List Int := ks.map fun k => k.getD 0
    if (List.range 5).all fun d => m.isIdx d || decide (0 ≤ ks.getD d 0 ∧ ks.getD d 0 < m.dim d) then some ks else none

/-- The auxiliary n32 that an element's place depends on: its index, or its row's length. -/
def auxAddr (m : TMap) (st : List (Option Int)) (e : List Nat) : Option Int :=
  match m.insideOthers st e with
  | none => none
  | some ks =>
    if m.indexed then
      let p := ks.getD m.idxdim 0
      if p < 0 then none else some (m.base + m.aux + 4 * p)
    else if m.ragged then some (m.base + m.aux + 4 * ks.getD (m.ragdim + 1) 0)
    else none

/-- The place of an element, from the n32 at its auxiliary address. -/
def place (m : TMap) (st : List (Option Int)) (e : List Nat) (aux : Nat) : Place :=
  match m.insideOthers st e with
  | none => .fill
  | some ks =>
    if m.indexed then
      let d := m.idxdim
      if ks.getD d 0 < 0 || aux == 0xFFFFFFFF then .absent
      else
        let row : Int := if m.wraps d then ((aux % m.dim d : Nat) : Int) else aux
        if row < m.dim d then .at_ (ks.set d row) else .absent
    else if m.ragged then
      if aux == 0xFFFFFFFF || ks.getD m.ragdim 0 ≥ (min aux (m.dim m.ragdim) : Nat) then .absent else .at_ ks
    else .at_ ks

/-- Does some dimension of the element wrap? -/
def wrapped (m : TMap) (st : List (Option Int)) (e : List Nat) : Bool :=
  (List.range 5).any fun d =>
    m.wraps d && !m.isIdx d && m.coord st e d != (st.getD d (some 0)).map fun c : Int => c + e.getD d 0

/-- Σ k_d × STRIDE_d over dimensions from `d0` on. -/
def dot (m : TMap) (ks : List Int) (d0 : Nat) : Int :=
  (((List.range 5).drop d0).map fun d => ks.getD d 0 * (m.stride d : Int)).foldl (· + ·) 0

/-- Byte address of an element of 8 bits or more, or the element's index for a 4-bit format. -/
def addr (m : TMap) (ks : List Int) : Int :=
  if Fmt.four m.fmt then m.dot ks 0 + (if m.nib then 1 else 0) else m.base + m.dot ks 0

/-- Address of the span of an element's row (R68, R260). DESIGN CHOICE: log entry 59. -/
def spanAddr (m : TMap) (ks : List Int) : Int := m.base + m.dot ks 1

/-- Index of an element in a dense array over the tensor whose dimension 0 has n0 places. -/
def dense (m : TMap) (ks : List Int) (k0 n0 : Int) : Int :=
  let k := fun d => ks.getD d 0
  let n := fun d => (m.dim d : Int)
  k0 + n0 * (k 1 + n 1 * (k 2 + n 2 * (k 3 + n 3 * k 4)))

/-- Address of the scale byte of an element (R258). -/
def scaleAddr (m : TMap) (ks : List Int) : Int :=
  m.base + m.aux + m.dense ks (ks.getD 0 0 / 32) (((m.dim 0 + 31) / 32 : Nat) : Int)

/-- Address of the kept count of a reduced element (R258). -/
def countAddr (m : TMap) (ks : List Int) : Int := m.base + m.aux + 2 * m.dense ks (ks.getD 0 0) (m.dim 0)

/-- The code that fills: absent, zero, or the immediate (R64, R255). -/
def fillCode (m : TMap) : Nat :=
  if m.fill == 0 then Fmt.absent m.fmt else if m.fill == 1 then 0 else m.fillv % 2 ^ Fmt.width m.fmt

/-- The value of a code that fills, read with a scale of 2^0 (R255). DEDUCED: log entry 42. -/
def fillValue (m : TMap) : Num :=
  let c := m.fillCode
  if m.fmt == .n4x then (if c == 7 then .absent else Num.ofInt (if c ≥ 8 then (c : Int) - 16 else c))
  else Fmt.value m.fmt c

end TMap

end Sys2Proof.Machine
end

