-- ==== Sys2Proof/Machine/Memory.lean ====
section
/-! DEFINITION. Loads, stores, atomics, CHUNK, FENCE, WAITV, the cache instructions and the tag table (R155, R227 to
R244, R305). -/

namespace Sys2Proof.Machine

/-! ### Loads (R227, R229, R230) -/

/-- The value that each lane receives: memory's, or Absent(t) where the address is absent (R62). -/
def State.loadVals (s : State) (x : Frag) (k : Acc) (t : Ty) (ls : List (Nat × Int)) (i : Nat) : Nat :=
  match ls.find? fun l => l.1 == i with
  | some l => leNat (s.laneRead x k (Ty.absent t) l.2.toNat)
  | none => Ty.absent t

/-- Values of the lanes as one or two lists of words. -/
def wordLists (t : Ty) (w : Nat) (f : Nat → Nat) : List (List Word) :=
  let lo := (List.range w).map fun i => BitVec.ofNat 32 (f i)
  if t.wide then [lo, (List.range w).map fun i => BitVec.ofNat 32 (f i / 2 ^ 32)] else [lo]

/-- The absent patterns of a type's one or two words (R412). -/
def absentWords (t : Ty) : Word × Word := (BitVec.ofNat 32 (Ty.absent t), BitVec.ofNat 32 (Ty.absent t / 2 ^ 32))

/-- What the accesses leave behind, in lane order. -/
def State.notes (s : State) (x : Frag) (k : Acc) (ls : List (Nat × Int)) : State :=
  ls.foldl (fun (s : State) (l : Nat × Int) => s.laneNote x k l.2.toNat) s

/-- What a load of the window may still take of a copy's bytes (R102). -/
def State.taking (s : State) (x : Frag) (k : Acc) (t : Ty) (ls : List (Nat × Int)) : Option LoadTake :=
  if k.spad then
    some { cohort := x.b.cohort, ty := t, lanes := ls.map fun l => (l.1, l.2.toNat, s.laneRead x k (Ty.absent t) l.2.toNat) }
  else none

/-- A result of a vector destination, on its way. -/
def State.sendV (s : State) (x : Frag) (t : Ty) (d : Reg) (f : Nat → Nat) (ready : Arrival) (take : Option LoadTake := none) : State :=
  match s.beam? x.b.key with
  | some b => s.pendV b x.e x.pc d.toNat x.mask (wordLists t x.w f) (absentWords t) .memory ready take
  | none => s

/-- A result of a scalar destination, on its way, widened by R178. -/
def State.sendS (s : State) (x : Frag) (t : Ty) (d : Reg) (v : Nat) (ready : Arrival) (take : Option LoadTake := none) : State :=
  match s.beam? x.b.key with
  | some b => s.pendS b x.e x.pc x.lead d.toNat (BitVec.ofNat 64 (widen t v))
      (BitVec.ofNat 32 (widen t (Ty.absent t)), BitVec.ofNat 32 (widen t (Ty.absent t) / 2 ^ 32)) .memory ready take
  | none => s

/-- Flags that a beam's instruction raises (R41, R42). -/
def State.raise (s : State) (k : BeamKey) (f : Flags) : State :=
  match s.beam? k with
  | some b => s.setBeam (b.raise f)
  | none => s

def loadAcc (t : Ty) (spad : Bool) (sc : Scope) (uniform : Bool) : Acc :=
  { spad := spad, acc := .read, atomic := false, n := Ty.size t, uniform := uniform, wide := Scope.wide sc, near := false
    sys := sc == .sys }

/-- A vector load; with `acq` its acquire follows the reads (R227, R229). -/
def State.load (s : State) (i : Instr) (spad acq : Bool) (sc : Scope) (t : Ty) (d : Reg) (m : MemArg) :
    Host.Outcome State Fault Refusal :=
  s.runFrag { priv := false, noGlint := false, uses := dstV t d ++ MemArg.uses spad m } fun x s =>
    let k := loadAcc t spad sc (MemArg.uniform m)
    let ls := x.present (x.addr spad m)
    s.access x k i ls
      (.done ((((s.notes x k ls).acquire x acq sc).sendV x t d (s.loadVals x k t ls) (s.loadReady x k ls)
        (s.taking x k t ls)).memrec x k ls))

def execLd (sc : Scope) (t : Ty) (d : Reg) (m : MemArg) (s : State) : Host.Outcome State Fault Refusal :=
  s.load (.ld sc t d m) false false sc t d m

def execLds (sc : Scope) (t : Ty) (d : Reg) (m : MemArg) (s : State) : Host.Outcome State Fault Refusal :=
  s.load (.lds sc t d m) true false sc t d m

/-- LDA: a load-acquire (R229). -/
def execLda (sp : Bool) (sc : Scope) (t : Ty) (d : Reg) (m : MemArg) (s : State) : Host.Outcome State Fault Refusal :=
  s.load (.lda sp sc t d m) sp true sc t d m

/-- The one access of a uniform instruction: the fragment's leading lane stands for it (R230). -/
def Frag.single (x : Frag) (spad : Bool) (m : MemArg) : List (Nat × Int) :=
  ((x.addr spad m x.lead).map fun a => (x.lead, a)).toList

/-- LDU: one access for the fragment; a write that R86 drops still performs the load (R230). -/
def execLdu (sp : Bool) (sc : Scope) (t : Ty) (d : Reg) (m : MemArg) (s : State) : Host.Outcome State Fault Refusal :=
  s.runFrag { priv := false, noGlint := false, uses := dstS d ++ MemArg.uses sp m } fun x s =>
    let k := loadAcc t sp sc true
    let ls := x.single sp m
    s.access x k (.ldu sp sc t d m) ls
      (.done (((s.notes x k ls).sendS x t d (s.loadVals x k t ls x.lead) (s.loadReady x k ls) (s.taking x k t ls)).memrec
        x k ls))

/-! ### What a release waits for (R229, R233, R235) -/

/-- Does a fragment of the beam wait for the acknowledgement of a CFLUSH? -/
def Beam.flushing (b : Beam) : Bool :=
  b.split.any fun y => y.wait.any fun w => match w.ins with | .cflush .. => true | _ => false

/-- Is an earlier access of the beam not yet performed at a release's scope: a CFLUSH that is not complete, or a write to far
memory that a `.sys` release waits for (R238, R298, R314)? DESIGN CHOICE: log entry 4. -/
def State.unperformed (s : State) (x : Frag) (sc : Scope) : Bool :=
  x.b.flushing || (sc == .sys && s.unacked (.beam x.b.key))

/-! ### Stores (R227 to R231) -/

/-- Registers that hold a store's data, read with policy 0 (R228). -/
def StSrc.uses (t : Ty) : StSrc → List Use
  | .v r => regUses .v r t.wide 0 false false
  | .s r => regUses .s r false 0 false false

/-- The data of a store in each lane, with the flags of a narrowing (R228, R111). -/
def Frag.data (x : Frag) (t : Ty) : StSrc → (Nat → Nat) × Flags
  | .v r => (x.b.vval t.wide r.toNat, 0)
  | .s r =>
    let c := scalarOperand t (x.b.sreg r.toNat).toNat
    (fun _ => c.1, c.2)

def storeAcc (t : Ty) (spad : Bool) (sc : Scope) (uniform : Bool) : Acc :=
  { spad := spad, acc := .write, atomic := false, n := Ty.size t, uniform := uniform, wide := Scope.wide sc, near := false
    sys := sc == .sys }

/-- The lanes store in ascending order, so that the highest lane's value stays (R231). -/
def State.storeAll (s : State) (x : Frag) (k : Acc) (f : Nat → Nat) (ls : List (Nat × Int)) : State :=
  ls.foldl (fun (s : State) (l : Nat × Int) => s.lanePut x k l.2.toNat (f l.1)) s

/-- A vector store (R227, R228); with `rel` it waits until every earlier access has been performed (R229). -/
def State.store (s : State) (i : Instr) (spad rel : Bool) (sc : Scope) (t : Ty) (d : StSrc) (m : MemArg) :
    Host.Outcome State Fault Refusal :=
  s.runFrag { priv := false, noGlint := false, uses := StSrc.uses t d ++ MemArg.uses spad m } fun x s =>
    let k := storeAcc t spad sc (MemArg.uniform m)
    let ls := x.present (x.addr spad m)
    let v := x.data t d
    if rel && s.unperformed x sc then .stay s
    else s.access x k i ls (.done (((s.storeAll x k v.1 ls).raise x.b.key v.2).memrec x k ls))

def execSt (sc : Scope) (t : Ty) (src : StSrc) (m : MemArg) (s : State) : Host.Outcome State Fault Refusal :=
  s.store (.st sc t src m) false false sc t src m

def execSts (sc : Scope) (t : Ty) (src : StSrc) (m : MemArg) (s : State) : Host.Outcome State Fault Refusal :=
  s.store (.sts sc t src m) true false sc t src m

/-- STL: a store-release; every earlier access has been performed (R229; log entry 4). -/
def execStl (sp : Bool) (sc : Scope) (t : Ty) (src : StSrc) (m : MemArg) (s : State) : Host.Outcome State Fault Refusal :=
  s.store (.stl sp sc t src m) sp true sc t src m

/-- STU: one access, of the value formed by R111 (R230). -/
def execStu (sp : Bool) (sc : Scope) (t : Ty) (d : Reg) (m : MemArg) (s : State) : Host.Outcome State Fault Refusal :=
  s.runFrag { priv := false, noGlint := false, uses := regUses .s d false 0 false false ++ MemArg.uses sp m } fun x s =>
    let k := storeAcc t sp sc true
    let ls := x.single sp m
    let v := x.data t (.s d)
    s.access x k (.stu sp sc t d m) ls (.done (((s.storeAll x k v.1 ls).raise x.b.key v.2).memrec x k ls))

/-! ### Atomics (R58, R59, R232 to R234, R305) -/

/-- The new value of a location from its old value, the operand and the CAS value (R232). -/
def atomNew (op : AtomOp) (t : Ty) (m x y : Nat) : Coded :=
  let f := Ty.fmt t
  let red := fun o : RedOp => mapElems t (fun v => redElem f o (v.getD 0 0) (v.getD 1 0)) [m, x]
  let count := fun z : Nat => if Ty.isAbsent t m || Ty.isAbsent t x then (m, 0) else ((z, 0) : Coded)
  match op with
  | .add => red .add
  | .min => red .min
  | .max => red .max
  | .and => (m &&& x, 0)
  | .or => (m ||| x, 0)
  | .xor => (m ^^^ x, 0)
  | .xchg => (x, 0)
  | .cas => (if m == x then y else m, 0)
  | .inc => count (if m ≥ x then 0 else m + 1)
  | .dec => count (if m == 0 || decide (m > x) then x else m - 1)

/-- One lane's atomic: the state after it, the old value and the flags; an unchanged location is not written (R305). -/
def State.atomLane (s : State) (x : Frag) (k : Acc) (op : AtomOp) (t : Ty) (f y : Nat → Nat) (l : Nat × Int) :
    State × Nat × Flags :=
  let a := l.2.toNat
  let m := leNat (s.laneRead x k (Ty.absent t) a)
  let c := atomNew op t m (f l.1) (y l.1)
  let s := s.laneNote x k a
  (if c.1 == m then s else s.laneWrite x k a (natLe k.n c.1), m, c.2)

/-- The lanes' atomics one at a time: the old value of each lane and the flags. -/
def State.atomAll (s : State) (x : Frag) (k : Acc) (op : AtomOp) (t : Ty) (f y : Nat → Nat) :
    List (Nat × Int) → State × List (Nat × Nat) × Flags
  | [] => (s, [], 0)
  | l :: ls =>
    let r := s.atomLane x k op t f y l
    let q := r.1.atomAll x k op t f y ls
    (q.1, (l.1, r.2.1) :: q.2.1, r.2.2 ||| q.2.2)

/-- The DVALs of the lanes' atomics that changed their location, in lane order, from the old values (R428). -/
def State.dvals (s : State) (x : Frag) (k : Acc) (op : AtomOp) (t : Ty) (f y old : Nat → Nat) (ls : List (Nat × Int)) : State :=
  ls.foldl (fun (s : State) (l : Nat × Int) =>
    let c := atomNew op t (old l.1) (f l.1) (y l.1)
    if c.1 == old l.1 then s else s.dval x k l.2.toNat (old l.1) c.1) s

/-- A list in an order that nothing fixes, from free numbers. DESIGN CHOICE: log entry 5. -/
def shuffle {α : Type} (seed : Nat) : Nat → List α → List α
  | 0, xs => xs
  | fuel + 1, xs =>
    let k := Config.freeNat (seed * 128 + fuel) % xs.length
    match xs.drop k with
    | [] => xs
    | a :: rest => a :: shuffle seed fuel (xs.take k ++ rest)

/-- Lanes in ascending order where their locations differ; in an unspecified order where two share one (R231). -/
def State.laneOrder (s : State) (ls : List (Nat × Int)) : List (Nat × Int) :=
  if ((ls.map (·.2)).eraseDups).length == ls.length then ls else shuffle s.free ls.length ls

/-- Is the ordering an acquire? -/
def AOrd.acquires : AOrd → Bool
  | .acq | .ar => true
  | _ => false

/-- Is the ordering a release? -/
def AOrd.releases : AOrd → Bool
  | .rel | .ar => true
  | _ => false

def atomAcc (t : Ty) (spad : Bool) (sc : Scope) (uniform : Bool) : Acc :=
  { spad := spad, acc := .rmw, atomic := true, n := Ty.size t, uniform := uniform, wide := Scope.wide sc, near := false
    sys := sc == .sys }

/-- Registers of the address of ATOM and ATOMS (R232). -/
def atomUses (spad : Bool) : VArg → List Use
  | .v r _ e => regUses .v r (!spad) 1 false e
  | .s r e => regUses .s r false 1 false e

/-- The address of ATOM and ATOMS in a lane. -/
def Frag.atomAddr (x : Frag) (spad : Bool) (a : VArg) (i : Nat) : Option Int :=
  match a with
  | .v r _ e => x.addr spad (.vec r e none) i
  | .s r e => x.addr spad (.uni ⟨r, e⟩ none) i

/-- The register of the CAS value: B + 1, or B + 2 for a 64-bit type (R232). DEDUCED: log entry 21. -/
def casUses (op : AtomOp) (t : Ty) (b : VArgI) : List Use :=
  let r := fun r : Reg => r.toNat + if t.wide then 2 else 1
  match op, b with
  | .cas, .reg (.v q _ _) =>
    { set := .v, r := r q, src := 5, dst := false, trap := false } ::
      (if t.wide then [{ set := .v, r := r q + 1, src := 5, dst := false, trap := false }] else [])
  | .cas, .reg (.s q _) => [{ set := .s, r := r q, src := 5, dst := false, trap := false }]
  | _, _ => []

/-- The CAS value of a lane, with the flags of a narrowing (R232, R111). DEDUCED: log entry 21. -/
def Frag.casVal (x : Frag) (op : AtomOp) (t : Ty) (b : VArgI) : (Nat → Nat) × Flags :=
  let r := fun r : Reg => r.toNat + if t.wide then 2 else 1
  match op, b with
  | .cas, .reg (.v q _ _) => (x.b.vval t.wide (r q), 0)
  | .cas, .reg (.s q _) =>
    let c := scalarOperand t (x.b.sreg (r q)).toNat
    (fun _ => c.1, c.2)
  | _, _ => (fun _ => 0, 0)

/-- ATOM and ATOMS (R233). -/
def State.atomic (s : State) (i : Instr) (spad : Bool) (op : AtomOp) (o : AOrd) (nr : Bool) (sc : Scope) (t : Ty) (d : Reg)
    (a : VArg) (b : VArgI) : Host.Outcome State Fault Refusal :=
  s.runFrag { priv := false, noGlint := false
              uses := (if nr then [] else dstV t d) ++ atomUses spad a ++ VArgI.uses t.wide 2 b ++ casUses op t b } fun x s =>
    let k := atomAcc t spad sc (match a with | .s _ _ => true | .v _ _ _ => false)
    let ls := x.present (x.atomAddr spad a)
    let v := x.srcI t b
    let y := x.casVal op t b
    let r := s.atomAll x k op t v.1 y.1 (s.laneOrder ls)
    let old := fun j : Nat => ((r.2.1.find? fun p => p.1 == j).map (·.2)).getD (Ty.absent t)
    let s' := ((r.1.dvals x k op t v.1 y.1 old ls).raise x.b.key (v.2 ||| y.2 ||| r.2.2)).acquire x (AOrd.acquires o) sc
    if AOrd.releases o && s.unperformed x sc then .stay s
    else s.access x k i ls (.done ((if nr then s' else s'.sendV x t d old (s.loadReady x k ls)).memrec x k ls))

def execAtom (op : AtomOp) (o : AOrd) (nr : Bool) (sc : Scope) (t : Ty) (d : Reg) (a : VArg) (b : VArgI) (s : State) :
    Host.Outcome State Fault Refusal :=
  s.atomic (.atom op o nr sc t d a b) false op o nr sc t d a b

def execAtoms (op : AtomOp) (o : AOrd) (nr : Bool) (sc : Scope) (t : Ty) (d : Reg) (a : VArg) (b : VArgI) (s : State) :
    Host.Outcome State Fault Refusal :=
  s.atomic (.atoms op o nr sc t d a b) true op o nr sc t d a b

/-- A scalar operand as a vector one. -/
def SArgI.toV : SArgI → VArgI
  | .reg a => .reg (.s a.r a.e)
  | .imm w => .imm w

/-- ATOMU: one operation at the uniform address (R233). -/
def execAtomu (op : AtomOp) (o : AOrd) (sp : Bool) (sc : Scope) (t : Ty) (d : Reg) (a : SArg) (b : SArgI) (s : State) :
    Host.Outcome State Fault Refusal :=
  s.runFrag { priv := false, noGlint := false
              uses := dstS d ++ SArg.uses 1 a ++ SArgI.uses 2 b ++ casUses op t (SArgI.toV b) } fun x s =>
    let k := atomAcc t sp sc true
    let ls := x.single sp (.uni a none)
    let v := x.srcI t (SArgI.toV b)
    let y := x.casVal op t (SArgI.toV b)
    let r := s.atomAll x k op t v.1 y.1 ls
    let old := ((r.2.1.head?).map (·.2)).getD (Ty.absent t)
    let s' := ((r.1.dvals x k op t v.1 y.1 (fun _ => old) ls).raise x.b.key (v.2 ||| y.2 ||| r.2.2)).acquire x (AOrd.acquires o) sc
    if AOrd.releases o && s.unperformed x sc then .stay s
    else s.access x k (.atomu op o sp sc t d a b) ls (.done ((s'.sendS x t d old (s.loadReady x k ls)).memrec x k ls))

/-! ### CHUNK (R154 to R156) -/

/-- Start, length and new NEXT of a claim; none when the counter gives nothing. -/
def chunkClaim (nx en mn dv : Nat) : Option (Nat × Nat) :=
  if [nx, en, mn, dv].any (Fmt.isAbsent .n32) || nx ≥ en then none
  else
    let rem := en - nx
    some (nx, min rem (max (max mn 1) (rem / max dv 1)))

def chunkAcc : Acc :=
  { spad := false, acc := .rmw, atomic := true, n := 16, uniform := true, wide := true, near := true }

/-- CHUNK: a claim from a counter, returned to s[D] and s[D + 1]. -/
def execChunk (d a : Reg) (s : State) : Host.Outcome State Fault Refusal :=
  s.runFrag (plain' d a) fun x s =>
    let k := chunkAcc
    let ls := x.single false (.uni ⟨a, false⟩ none)
    let ready := s.loadReady x k ls
    let put := fun (s : State) (r : Option (Nat × Nat)) =>
      let lo := (r.map (·.1)).getD (Fmt.absent .s64)
      let hi := (r.map (·.2)).getD (Fmt.absent .s64)
      (s.sendS x .s64 d lo ready).sendS x .s64 (d + 1) hi ready
    match ls with
    | [] => .done (put s none)
    | l :: _ =>
      let m := s.laneRead x k 0 l.2.toNat
      let f := fun j => leNat ((m.drop (4 * j)).take 4)
      let c := chunkClaim (f 0) (f 1) (f 2) (f 3)
      let s1 := s.laneNote x k l.2.toNat
      let s2 := match c with
        | some r => s1.laneWrite x k l.2.toNat (natLe 4 (r.1 + r.2))
        | none => s1
      s.access x k (.chunk d a) ls (.done (put s2 c))
where
  plain' (d a : Reg) : Guard :=
    { priv := false, noGlint := false, uses := regUses .s d true 0 true false ++ regUses .s a false 1 false false }

/-! ### FENCE (R235) -/

/-- FENCE: a release waits for what is not performed; every other earlier access is performed; an acquire drops the L1's
lines. DESIGN CHOICE: log entry 4. -/
def execFence (o : FOrd) (sc : Scope) (s : State) : Host.Outcome State Fault Refusal :=
  s.runFrag { priv := false, noGlint := false, uses := [] } fun x s =>
    let rel := o != .acq
    let acq := o != .rel
    if rel && s.unperformed x sc then
      match s.beam? x.b.key with
      | some b => .stay (s.setBeam (b.setEntry x.e { b.entry x.e with
          wait := some { kind := .cflush, ins := .fence o sc, words := x.words, waited := 0, rem := none, woken := false
                         aux := 0 } }))
      | none => .done s
    else .done (s.acquire x (acq && sc != .cohort) sc)

/-! ### WAITV (R236, R237) -/

/-- A wait of a fragment begins or goes on. DESIGN CHOICE: log entry 25. -/
def State.sleep (s : State) (x : Frag) (w : Wait) : State :=
  match s.beam? x.b.key with
  | some b => s.setBeam (b.setEntry x.e { b.entry x.e with wait := some w, carry := none })
  | none => s

/-- Cycles that a wait has counted and the cycles that its limit leaves, at its first read or a later one.
DESIGN CHOICE: log entry 25. -/
def Frag.waited (x : Frag) (kind : WaitKind) (lim : Option Nat) : Nat × Option Nat :=
  match x.entry.wait with
  | some w => if w.kind == kind then (w.waited, w.rem) else (0, lim)
  | none =>
    let c := (x.entry.carry.map (·.1)).getD 0
    (c, lim.map (· - c))

/-- Does the fragment sleep in a wait that nothing has woken? -/
def Frag.asleep (x : Frag) (kind : WaitKind) : Bool :=
  match x.entry.wait with
  | some w => w.kind == kind && !w.woken && w.rem != some 0
  | none => false

def waitvUses (d : Reg) (a b : SArg) : List Use :=
  dstS d ++ SArg.uses 1 a ++ SArg.uses 2 b ++ [{ set := .s, r := b.r.toNat + 1, src := 5, dst := false, trap := false }]

/-- WAITV: reads, and completes, times out, or sleeps again. DEDUCED: log entry 51. -/
def execWaitv (cmp : Cmp) (acq sp : Bool) (sc : Scope) (t : Ty) (d : Reg) (a b : SArg) (s : State) :
    Host.Outcome State Fault Refusal :=
  s.runFrag { priv := false, noGlint := true, uses := waitvUses d a b } fun x s =>
    let k := loadAcc t sp sc true
    let ls := x.single sp (.uni a none)
    let i : Instr := .waitv cmp acq sp sc t d a b
    if ls.isEmpty then
      .done (((s.setBeam (x.putS d (widen t (Ty.absent t)))).acquire x acq sc).memrec x k [])
    else if x.asleep .waitv then .stay s
    else
      let c := scalarOperand t (x.sval b)
      let lim := (x.b.sreg (b.r.toNat + 1)).toNat
      let r := x.waited .waitv (if Fmt.isAbsent .n64 lim then none else some lim)
      let m := s.loadVals x k t ls x.lead
      let first := fun s : State => if x.entry.wait.isSome then s else (s.raise x.b.key c.2).memrec x k ls
      let s1 := first (s.notes x k ls)
      let ends := compareElem (Ty.fmt t) cmp m c.1 == .t || r.2 == some 0
      s.access x k i ls
        (if ends then .done ((s1.acquire x acq sc).sendS x t d m (s.loadReady x k ls))
         else .stay (s1.sleep x { kind := .waitv, ins := i, words := x.words, waited := r.1, rem := r.2, woken := false
                                  aux := r.1 }))

/-- A wake reaches a fragment that waits: its next issue reads again (R414: a held fragment keeps it).
DESIGN CHOICE: log entry 25. -/
def State.wake (s : State) (b : BeamKey) (e : Nat) (kind : WaitKind) (ok : Wait → Bool) : State :=
  match s.beam? b with
  | none => s
  | some x =>
    let mine := fun w : Wait => w.kind == kind && ok w
    let at_ := fun y : Entry => { y with wait := y.wait.map fun w => if mine w then { w with woken := true } else w }
    match x.trap with
    | none => if (x.entry e).wait.any mine then s.setBeam (x.setEntry e (at_ (x.entry e))) else s
    | some t =>
      s.setBeam { x.setEntry e (at_ (x.entry e)) with
        trap := some { t with
          held := if t.entry == e then at_ t.held else t.held
          loaded := t.loaded.map fun l => (l.1.modify e at_, l.2) } }

/-- WAITV_WAKE: a write reaches the line, or 1,024 cycles have passed. -/
def execWaitvWake (b : BeamKey) (e : Nat) (s : State) : Host.Outcome State Fault Refusal :=
  .next (s.wake b e .waitv fun _ => true)

/-- WAITV_TIMEOUT: the limit has expired. -/
def execWaitvTimeout (b : BeamKey) (e : Nat) (s : State) : Host.Outcome State Fault Refusal :=
  .next (s.wake b e .waitv fun w => w.rem == some 0)

/-! ### Cache instructions (R238 to R241) -/

def cacheAcc : Acc :=
  { spad := false, acc := .read, atomic := false, n := 1, uniform := false, wide := true, near := false }

/-- Physical addresses that a cache instruction names: translated, with a frame and with permission (R238). -/
def State.named (s : State) (x : Frag) (m : MemArg) : List (Nat × Nat) :=
  match s.contextOf x.b with
  | none => []
  | some c =>
    (x.present (x.addr false m)).filterMap fun (l : Nat × Int) =>
      if l.2 < (0 : Int) ∨ l.2 ≥ (2 ^ 56 : Int) then none
      else
        let t := s.xlate (.beam x.core) false c l.2.toNat
        match t with
        | .page pa tier _ _ _ => if (xlFaults c .read t).isEmpty && (regPageOf pa).isNone then some (pa, tier) else none
        | _ => none

/-- Near-cache lines of far memory that the instruction names, of those that hold some bytes: every one that the partition's
near slices hold, or those of the lanes' pages far behind the near cache (R239, R240). -/
def State.farLines (s : State) (x : Frag) (m : MemArg) (cells : List Host.Cell) : List Nat :=
  let all := (cells.map fun c => nearLine c.1).eraseDups
  match m with
  | .all =>
    match (s.contextOf x.b).bind fun c => s.part? c.part with
    | some p => all.filter fun l => inRanges p.far l 1
    | none => []
  | _ => all.filter fun l => (s.named x m).any fun p => p.2 == 2 && nearLine p.1 == l

/-- Those that hold bytes newer than far memory. -/
def State.dirtyLines (s : State) (x : Frag) (m : MemArg) : List Nat := s.farLines x m s.dirty

def MemArg.cacheUses : MemArg → List Use := MemArg.uses false

/-- CFLUSH: at scope .sys it writes back what far memory lacks and waits for the acknowledgements (R239). -/
def execCflush (sc : Scope) (m : MemArg) (s : State) : Host.Outcome State Fault Refusal :=
  s.runFrag { priv := false, noGlint := false, uses := MemArg.cacheUses m } fun x s =>
    if sc != .sys then .done s
    else
      let ls := s.dirtyLines x m
      match x.entry.wait with
      | some _ => if ls.any s.flushing.contains then .stay s else .done s
      | none =>
        if ls.isEmpty then .done s
        else
          .stay ((s.flush (.beam x.b.key) ls).sleep x
            { kind := .cflush, ins := .cflush sc m, words := x.words, waited := 0, rem := none, woken := false, aux := 0 })

/-- Cores within a scope of a core (R240). -/
def Scope.covers (sc : Scope) (core other : Nat) : Bool :=
  match sc with
  | .beam | .cohort | .core => core == other
  | .die => dieOf core == dieOf other
  | .dev | .sys => true

/-- CINV (R240). The cores of a die are listed first, where a fetch of theirs may give older words (R109). -/
def execCinv (sc : Scope) (m : MemArg) (s : State) : Host.Outcome State Fault Refusal :=
  s.runFrag { priv := false, noGlint := false, uses := MemArg.cacheUses m } fun x s =>
    let ls := (s.named x m).map fun p => lineOf p.1
    let drop := fun l : Nat => match m with | .all => true | _ => ls.contains l
    let back := if sc == .sys then s.dirtyLines x m else []
    let clean := if sc == .sys then s.farLines x m s.older else []
    let s := if sc == .die && !s.stored.isEmpty then
        (List.range 64).foldl (fun (s : State) k => s.modCore (64 * dieOf x.core + k) fun c => c) s
      else s
    .done { s with
      cores := s.cores.map fun c => if Scope.covers sc x.core c.id then (c.dropLines drop).dropFetch drop else c
      stored := if Scope.covers sc 0 255 then s.stored.filter fun w => !drop (lineOf w.1) else s.stored
      dirty := s.dirty.filter fun c => !back.contains (nearLine c.1)
      older := s.older.filter fun c => !clean.contains (nearLine c.1) }

/-- PREF: a line enters the L1 at scope .core and narrower; a page whose tier is far has no place there, and a line of the
near cache shows nothing (R241, R226). -/
def execPref (sc : Scope) (m : MemArg) (s : State) : Host.Outcome State Fault Refusal :=
  s.runFrag { priv := false, noGlint := false, uses := MemArg.cacheUses m } fun x s =>
    if Scope.wide sc then .done s
    else
      let ps := s.named x m
      .done (s.modCore x.core fun c =>
        (ps.filter fun p => p.2 != 1).foldl (fun (c : Core) (p : Nat × Nat) => c.allocate s (lineOf p.1)) c)

/-! ### The tag table (R242 to R244) -/

/-- Sets of a cohort's tag table. -/
def State.tagSets (s : State) (b : Beam) : Nat :=
  match s.kernelOf b with
  | some k => if k.launch.taglog == 0 then 0 else 2 ^ k.launch.taglog
  | none => 0

/-- An entry: V, AGE and TAG. -/
structure TagEntry where
  v   : Bool
  age : Nat
  tag : Nat
  deriving DecidableEq, Repr

def TagEntry.ofNat (x : Nat) : TagEntry := { v := bits x 63 1 == 1, age := bits x 61 2, tag := bits x 0 48 }
def TagEntry.toNat (e : TagEntry) : Nat := (if e.v then 2 ^ 63 else 0) + e.age * 2 ^ 61 + e.tag

/-- Touch way `w`: the younger valid ways age by one, and it becomes the youngest. -/
def tagTouch (ws : List TagEntry) (w : Nat) : List TagEntry :=
  let age := (ws.getD w ⟨false, 0, 0⟩).age
  (ws.zipIdx).map fun p =>
    if p.2 == w then { p.1 with age := 0 } else if p.1.v && decide (p.1.age < age) then { p.1 with age := p.1.age + 1 } else p.1

/-- The way that holds a tag. -/
def tagHit (ws : List TagEntry) (tag : Nat) : Option Nat := ws.findIdx? fun e => e.v && e.tag == tag

/-- The way that TINS fills: the lowest invalid, else the oldest, lowest first. -/
def tagVictim (ws : List TagEntry) : Nat :=
  match ws.findIdx? fun e => !e.v with
  | some w => w
  | none => (ws.findIdx? fun e => e.age == (ws.map (·.age)).foldl max 0).getD 0

/-- TLOOK: the way that it answers and the set after it. -/
def tagLook (ws : List TagEntry) (tag : Nat) : List TagEntry × Option Nat :=
  match tagHit ws tag with
  | some w => (tagTouch ws w, some w)
  | none => (ws, none)

/-- TINS. -/
def tagIns (ws : List TagEntry) (tag : Nat) : List TagEntry × Option Nat :=
  match tagHit ws tag with
  | some w => (tagTouch ws w, some w)
  | none =>
    let w := tagVictim ws
    let e := ws.getD w ⟨false, 0, 0⟩
    let ws := if e.v then ws else ws.set w { e with age := 3 }
    ((tagTouch ws w).set w { v := true, age := 0, tag := tag }, some w)

/-- TDEL. -/
def tagDel (ws : List TagEntry) (tag : Nat) : List TagEntry × Option Nat :=
  match tagHit ws tag with
  | some w => (ws.set w { ws.getD w ⟨false, 0, 0⟩ with v := false, age := 0 }, some w)
  | none => (ws, none)

/-- A tag-table instruction: one set is read, acted on, and written back where it changed; reserved bits stay, and so does a
barrier's granule (R365). -/
def State.tagOp (s : State) (d a : Reg) (f : List TagEntry → Nat → List TagEntry × Option Nat) :
    Host.Outcome State Fault Refusal :=
  s.runFrag { priv := false, noGlint := false, uses := dstS d ++ regUses .s a false 1 false false } fun x s =>
    let t := s.tagSets x.b
    if t == 0 then .trap { group := gSPACE, code := 4, lanes := none, x := 0, y := 0, z := x.op * 256 }
    else
      let tag := (x.b.sreg a.toNat).toNat
      match s.cohort? x.b.cohort with
      | none => .done s
      | some c =>
        let ready : Arrival := { s.within x.core 20 with units := [2] }
        if tag ≥ 2 ^ 48 then .done (s.sendS x .n64 d (Fmt.absent .n64) ready)
        else
          let set := tag % t
          let at_ := fun w : Nat => c.wsize - 32 * t + 32 * set + 8 * w
          let ws := (List.range 4).map fun w => TagEntry.ofNat (c.nat (at_ w) 8)
          let r := f ws tag
          let c' := (List.range 4).foldl (fun (c : Cohort) (w : Nat) =>
            if r.1.getD w ⟨false, 0, 0⟩ == ws.getD w ⟨false, 0, 0⟩ || c.tagged (at_ w) then c
            else c.putNat (at_ w) 8 ((r.1.getD w ⟨false, 0, 0⟩).toNat + bits (c.nat (at_ w) 8) 48 13 * 2 ^ 48)) c
          let v := match r.2 with
            | some w => 4 * set + w
            | none => Fmt.absent .n64
          .done ((s.setCohort c').sendS x .n64 d v ready)

def execTlook (d a : Reg) (s : State) : Host.Outcome State Fault Refusal := s.tagOp d a tagLook
def execTins (d a : Reg) (s : State) : Host.Outcome State Fault Refusal := s.tagOp d a tagIns
def execTdel (d a : Reg) (s : State) : Host.Outcome State Fault Refusal := s.tagOp d a tagDel

end Sys2Proof.Machine
end

