-- ==== Sys2Proof/Machine/Control.lean ====
section
/-! DEFINITION. Block headers, branches, calls, pauses, traps, the return from trap mode, and the special registers
(R119 to R123, R141 to R152, R161 to R166). -/

namespace Sys2Proof.Machine

/-- A guard of uses alone. -/
def plain (uses : List Use) : Guard := { priv := false, noGlint := false, uses := uses }

/-! ### Headers (R121 to R123, R82) -/

/-- The fragment enters the block. -/
def Beam.enterBlock (b : Beam) (e pc : Nat) (h : Header) : Beam :=
  b.setEntry e { b.entry e with
    pc := pc + 8, back := false
    blk := some { hdr := pc, len := h.len.toNat, x := h.x, rcv := sext 18 h.rcv.toNat, livev := h.livev.toNat
                  livea := h.livea.toNat } }

/-- Split entries that have just returned to run issue from the next cycle on (R447). DEDUCED: log entry 40. -/
def State.laterAll (s : State) (k : BeamKey) (js : List Returned) : State :=
  js.foldl (fun (s : State) (j : Returned) => s.later k j.entry 1) s

/-- HDR: the header is checked; a fragment that has reached its JOIN arrives; any other enters the block (R82, R123). -/
def execHdr (h : Header) (s : State) : Host.Outcome State Fault Refusal :=
  s.runFrag (plain []) fun x s =>
    if h.rsv != 0 || h.len.toNat % 2 == 1 then .trap (Trap.addr gFETCH 7 none x.pc 0)
    else
      match x.b.arrive x.e x.pc with
      | some (b, js) => .stay (((s.setBeam b).rcvPackets x.b js).laterAll x.b.key js)
      | none => .stay (s.setBeam (x.b.enterBlock x.e x.pc h))

/-! ### Branches (R115, R117, R141 to R145) -/

/-- The address `off` units of 8 bytes from the instruction's address rounded down to 8. DESIGN CHOICE: log entry 58. -/
def Frag.target (x : Frag) (off : Int) : Nat := (((x.pc / 8 * 8 : Nat) : Int) + 8 * off).toNat

/-- The block that the instruction stands in. -/
def Frag.block (x : Frag) : Block := x.entry.blk.getD { hdr := x.pc, len := 0, x := false, rcv := 0, livev := 0, livea := 0 }

def execBra (off : BitVec 22) (s : State) : Host.Outcome State Fault Refusal :=
  s.runFrag (plain []) fun x s => s.goto x (x.target off.toInt) s

/-- UNKNOWN after the disposition: none where it traps (R101, R143). -/
def dispose (u : Disp) (t : Tri) : Option Tri :=
  match t with
  | .u => match u with | .uf => some .f | .ut => some .t | .uo => some .u | .ux => none
  | v => some v

/-- UNKNOWN_BRANCH: the truth register and its set (R410). -/
def unknownBranch (r : Nat) (lane : Bool) (ls : Mask) : Trap :=
  { group := gARITH, code := 1, lanes := some ls, x := r + if lane then 16 else 0, y := 0, z := 0 }

/-- A branch goes on with the next instruction, with the latency of a branch (R435). DEDUCED: log entry 40. -/
def State.past (s : State) (x : Frag) : Res := .done (s.later x.b.key x.e 2)

/-- Move to an offset, where `off = 0` goes on with the next instruction if `zeroNext`. -/
def State.branch (s : State) (x : Frag) (zeroNext : Bool) (off : Int) (s' : State) : Res :=
  if zeroNext && off == 0 then s'.past x else s.goto x (x.target off) s'

/-- BRS (R143). -/
def execBrs (u : Disp) (k : BitVec 3) (t f n : BitVec 16) (s : State) : Host.Outcome State Fault Refusal :=
  s.runFrag (plain [{ set := .k, r := k.toNat, src := 1, dst := false, trap := false }]) fun x s =>
    match dispose u (Tri.ofCode (x.b.kreg k.toNat)) with
    | none => .trap (unknownBranch k.toNat false x.mask)
    | some v =>
      let s' := s.brPacket x.b x.e x.pc 1 x.mask (if v == .t then x.mask else 0) (if v == .u then x.mask else 0)
      match v with
      | .t => s.branch x false t.toInt s'
      | .f => s.branch x true f.toInt s'
      | .u => s.branch x true n.toInt s'

/-- Active lanes whose truth value, after the disposition, is `v`. -/
def brvLanes (x : Frag) (u : Disp) (c : Nat) (v : Tri) : Mask :=
  maskOf ((lanesOf x.mask).filter fun i => dispose u (Tri.ofCode (x.b.cl c i)) == some v)

/-- Active lanes that hold UNKNOWN. -/
def brvUnknown (x : Frag) (c : Nat) : Mask :=
  maskOf ((lanesOf x.mask).filter fun i => Tri.ofCode (x.b.cl c i) == .u)

/-- The paths of a BRV in the order true, false, unknown, with equal targets merged (R144). -/
def brvPaths (x : Frag) (u : Disp) (c : Nat) (t f n : BitVec 16) : List Path :=
  let side := fun (v : Tri) (zero : Bool) (off : BitVec 16) =>
    let inside := zero && off == 0
    ({ target := if inside then x.next else x.target off.toInt, mask := brvLanes x u c v, inside := inside } : Path)
  mergePaths [side .t false t, side .f true f, side .u true n]

/-- The reconvergence header of a diverging BRV, or its trap: NO_RECONV, RCV_NOT_HEADER (R81, R122).
DESIGN CHOICE: log entry 58. -/
def State.reconv (s : State) (x : Frag) : Except Trap Nat :=
  let k := x.block
  if k.rcv == 0 then .error { group := gCONV, code := 3, lanes := none, x := x.op + x.w * 2 ^ 8, y := 0, z := 0 }
  else
    let j := ((k.hdr : Int) + 8 * k.rcv).toNat
    match s.targetTrap x j with
    | some t => .error { t with code := if t.code == 1 then 8 else t.code }
    | none => .ok j

/-- The entries that run the paths of entry `e` after it has diverged from a beam: its own, where the paths are stacked, and
those that were free (R81). DEDUCED: log entry 40. -/
def Beam.pathsOf (b old : Beam) (e : Nat) : List Nat :=
  (b.entriesIn .run).filter fun n => n == e || (old.entry n).st == .free

/-- BRV (R144): one path moves the fragment, several diverge (R81). -/
def execBrv (u : Disp) (c : BitVec 4) (t f n : BitVec 16) (s : State) : Host.Outcome State Fault Refusal :=
  s.runFrag (plain [{ set := .c, r := c.toNat, src := 1, dst := false, trap := false }]) fun x s =>
    let c := c.toNat
    if u == .ux && brvUnknown x c != 0 then .trap (unknownBranch c true (brvUnknown x c))
    else
      let ps := brvPaths x u c t f n
      match (ps.filter fun p => !p.inside).findSome? fun p => s.transferTrap x p.target with
      | some tr => .trap tr
      | none =>
        let packet := fun s : State => s.brPacket x.b x.e x.pc 0 x.mask (brvLanes x u c .t) (brvLanes x u c .u)
        match ps with
        | [] => (packet s).past x
        | [p] => if p.inside then (packet s).past x else .jump (packet s) p.target
        | _ =>
          match s.reconv x with
          | .error tr => .trap tr
          | .ok j =>
            match x.b.diverge x.e x.pc j ps with
            | none => .trap { group := gCONV, code := 4, lanes := none, x := x.op + x.w * 2 ^ 8, y := 0, z := 0 }
            | some b =>
              let s' := (b.pathsOf x.b x.e).foldl (fun (s : State) e => s.later x.b.key e 2) (packet (s.setBeam b))
              .stay s'

/-- JMPI (R142). -/
def execJmpi (a : SArg) (s : State) : Host.Outcome State Fault Refusal :=
  s.runFrag (plain (SArg.uses 1 a)) fun x s =>
    let v := x.sval a
    if Fmt.isAbsent .n64 v then .trap { group := gFETCH, code := 1, lanes := none, x := 2 ^ 32 - 1, y := 2 ^ 24 - 1, z := 0 }
    else if v ≥ 2 ^ 56 then .trap (Trap.addr gFETCH 4 none v 0)
    else s.goto x v (s.jmpPacket x.b x.e x.pc x.mask v)

/-- CALL pushes the header that follows the block (R147). DEDUCED: log entry 22. -/
def execCall (off : BitVec 22) (s : State) : Host.Outcome State Fault Refusal :=
  s.runFrag { priv := false, noGlint := true, uses := [] } fun x s =>
    let y := x.entry
    if y.rstack.length ≥ 8 then .trap (Trap.simple gREGISTER 3 0)
    else s.goto x (x.target off.toInt) (s.setBeam (x.b.setEntry x.e { y with rstack := x.block.stop :: y.rstack }))

/-- RET pops the return stack (R147). -/
def execRet (s : State) : Host.Outcome State Fault Refusal :=
  s.runFrag (plain []) fun x s =>
    match x.entry.rstack with
    | [] => .trap (Trap.simple gREGISTER 4 0)
    | t :: rest => s.goto x t (s.setBeam (x.b.setEntry x.e { x.entry with rstack := rest }))

/-- BDEC (R145): the branch uses the new count even where R86 drops the write. DEDUCED: log entry 40. -/
def execBdec (n : BitVec 6) (off : BitVec 16) (s : State) : Host.Outcome State Fault Refusal :=
  s.runFrag (plain [{ set := .s, r := n.toNat, src := 1, dst := false, trap := false },
                    { set := .s, r := n.toNat, src := 0, dst := true, trap := false }]) fun x s =>
    let v := (x.b.sreg n.toNat).toNat
    let packet := fun (m : Mask) (s : State) => s.brPacket x.b x.e x.pc 2 x.mask m 0
    let past := fun s : State => (packet 0 s).past x
    if Fmt.isAbsent .s64 v then past s
    else
      let c := satCode .s64 (sext 64 v - 1)
      let s' := s.setBeam ((x.b.putS x.lead n.toNat (BitVec.ofNat 64 c.1)).raise c.2)
      if sext 64 c.1 > 0 then s.goto x (x.target off.toInt) (packet x.mask s') else past s'

/-! ### Pauses and traps (R149 to R152) -/

def execNop (s : State) : Host.Outcome State Fault Refusal := s.runFrag (plain []) fun _ s => .done s

/-- YIELD: until its next issue behind the fragments of its class that are ready in this cycle, but in deterministic issue mode
(R149). -/
def execYield (s : State) : Host.Outcome State Fault Refusal :=
  s.runFrag (plain []) fun x s =>
    if (s.coreOf x.core).dim then .done s
    else s.beamDone (x.b.setEntry x.e { x.entry with yielded := some s.clock })

def execBrk (tag : BitVec 16) (s : State) : Host.Outcome State Fault Refusal :=
  s.runFrag (plain []) fun _ _ => .trap (Trap.simple gDEBUG 1 tag.toNat)

def execTrap (code : BitVec 16) (s : State) : Host.Outcome State Fault Refusal :=
  s.runFrag (plain []) fun _ _ => .trap (Trap.simple gSOFTWARE code.toNat 0)

/-- ERET (R152, R331): trap mode ends and every held entry runs. -/
def execEret (skip : Bool) (s : State) : Host.Outcome State Fault Refusal :=
  s.runFrag { priv := true, noGlint := false, uses := [] } fun x s =>
    match x.b.trap with
    | none => .done s
    | some tm =>
      let (b, js) := x.b.eret skip tm
      .stay (((s.setBeam b).rcvPackets x.b js).later x.b.key tm.entry 1)

/-- DELAY keeps the fragment from issuing for min(count, 4,096) cycles (R150). -/
def execDelay (a : SArgI) (s : State) : Host.Outcome State Fault Refusal :=
  s.runFrag (plain (SArgI.uses 1 a)) fun x s =>
    let n := x.svalI .n64 a
    if Fmt.isAbsent .n64 n || n == 0 then .done s
    else
      .stay (s.setBeam (x.b.setEntry x.e { x.entry with
        pc := x.next, carry := none
        wait := some { kind := .delay, ins := .delay a, words := x.words, waited := 0, rem := some (min n 4096)
                       woken := false, aux := 0 } }))

/-! ### Special registers (R161 to R166) -/

/-- Is the special register 64 bits wide (R162)? -/
def spWide (sp : Nat) : Bool :=
  sp == 0x09 || sp == 0x0A || (0x10 ≤ sp && sp ≤ 0x17) || sp == 0x18 || sp == 0x19 || sp == 0x20 || sp == 0x22

/-- Does the special register hold one value a lane (R162)? -/
def spLane (sp : Nat) : Bool := sp == 0x00 || sp == 0x01 || sp == 0x0D

/-- c0 to c15 of a lane, packed (R165): the fields as they stand, 0b11 included. DESIGN CHOICE: log entry 64. -/
def Beam.cpack (b : Beam) (i : Nat) : Nat :=
  ((List.range 16).map fun n => if n < b.nc then (b.cl n i).toNat * 4 ^ n else 0).foldl (· + ·) 0

/-- k0 to k7, packed, as they stand. DESIGN CHOICE: log entry 64. -/
def Beam.kpack (b : Beam) : Nat := ((List.range 8).map fun n => (b.kreg n).toNat * 4 ^ n).foldl (· + ·) 0

/-- The write pointer of a channel as a cohort sees it (R265). -/
def State.chanView (s : State) (b : Beam) (ch : Nat) : DWord :=
  let bias := ((s.cohort? b.cohort).map fun c => c.bias.getD ch 0).getD 0
  (s.coreOf b.key.core).wp.getD ch 0 + bias

/-- The value of a special register in a lane (R162). -/
def spValue (s : State) (x : Frag) (sp i : Nat) : Nat :=
  let b := x.b
  let k := s.kernelOf b
  if sp == 0x00 then i
  else if sp == 0x01 then b.laneg.getD i 0
  else if sp == 0x02 then b.w
  else if sp == 0x03 then b.id
  else if sp == 0x04 then b.cohort.index
  else if sp == 0x05 then b.key.core
  else if sp == 0x06 then quadOf b.key.slot
  else if sp == 0x07 then dieOf b.key.core
  else if sp == 0x08 then b.cohort.kernel
  else if sp == 0x09 then (k.map (·.seq)).getD 0
  else if sp == 0x0A then s.clock % 2 ^ 64
  else if sp == 0x0B then b.status.toNat
  else if sp == 0x0C then b.ctl.toNat
  else if sp == 0x0D then b.cpack i
  else if sp == 0x0E then b.kpack
  else if sp == 0x0F then (if b.pl then 1 else 0)
  else if 0x10 ≤ sp && sp ≤ 0x17 then (s.chanView b (sp - 0x10)).toNat
  else if sp == 0x18 then x.block.stop
  else if sp == 0x19 then (k.map (·.launch.args.toNat)).getD 0
  else if sp == 0x1A then (k.map (·.launch.cohorts)).getD 0
  else if sp == 0x20 then b.epc
  else if sp == 0x21 then b.tcause.toNat
  else if sp == 0x22 then b.tlanes.toNat
  else if sp == 0x23 then b.tdetx.toNat
  else if sp == 0x24 then b.tdety.toNat
  else if sp == 0x25 then b.tdetz.toNat
  else if sp == 0x30 then ((s.contextOf b).map (·.fusewin)).getD 0
  else 0

/-- Do flags of an earlier matrix instruction still come, which an access to `status` waits for (R42)?
DESIGN CHOICE: log entry 61. -/
def State.flagsOwed (s : State) (x : Frag) (sp : Nat) : Bool := sp == 0x0B && s.mmas.any fun m => m.beam == x.b.key

/-- GETS (R163). -/
def execGets (d : GReg) (sp : Reg) (s : State) : Host.Outcome State Fault Refusal :=
  match d with
  | .s r => s.runFrag (plain (dstS r)) fun x s =>
    if s.flagsOwed x sp.toNat then .stay s else s.beamDone (x.putS r (spValue s x sp.toNat x.lead))
  | .v r =>
    let w := spWide sp.toNat
    s.runFrag (plain (regUses .v r w 0 true false)) fun x s =>
      if s.flagsOwed x sp.toNat then .stay s
      else s.beamDone (x.putV w r.toNat fun i => spValue s x sp.toNat (if spLane sp.toNat then i else x.lead))

/-- Is the special register written at PL1 only (R162)? -/
def spPriv (sp : Nat) : Bool := (0x20 ≤ sp && sp ≤ 0x25) || sp == 0x30

/-- SETS of `cpack`: fields of undeclared registers are ignored (R165). -/
def Beam.putCpack (b : Beam) (m : Mask) (f : Nat → Nat) : Beam :=
  (List.range b.nc).foldl (fun b n => b.putC n m fun i => BitVec.ofNat 2 (f i / 4 ^ n)) b

/-- SETS of `kpack`: one write of the eight registers (R164). -/
def Beam.putKpack (b : Beam) (lead v : Nat) : Beam :=
  let k := (List.range 8).map fun n => BitVec.ofNat 2 (v / 4 ^ n)
  if b.converged then { b with k := k }
  else if b.stamps.k.all fun st => stampAllows st lead then
    { b with k := k, stamps := { b.stamps with k := List.replicate 8 (some lead) } }
  else b

/-- SETS of a beam-scope special register (R164, R165); reserved bits are ignored. -/
def Beam.putSpecial (b : Beam) (lead sp v : Nat) : Beam :=
  let w32 : BitVec 32 := BitVec.ofNat 32 v
  if sp == 0x0B then b.putSp lead .status fun b => { b with status := w32 &&& 7 }
  else if sp == 0x0C then b.putSp lead .ctl fun b => { b with ctl := w32 &&& 1 }
  else if sp == 0x0E then b.putKpack lead v
  else if sp == 0x20 then b.putSp lead .epc fun b => { b with epc := v % 2 ^ 56 }
  else if sp == 0x21 then b.putSp lead .tcause fun b => { b with tcause := w32 &&& 0xFFFF001F }
  else if sp == 0x22 then b.putSp lead .tlanes fun b => { b with tlanes := BitVec.ofNat 64 v &&& fullMask b.w }
  else if sp == 0x23 then b.putSp lead .tdetx fun b => { b with tdetx := w32 }
  else if sp == 0x24 then b.putSp lead .tdety fun b => { b with tdety := w32 }
  else if sp == 0x25 then b.putSp lead .tdetz fun b => { b with tdetz := w32 }
  else b

/-- The raw bits that SETS takes in a lane. -/
def Frag.setSrc (x : Frag) (w : Bool) : SetSrc → Nat → Nat
  | .v a => (x.src (if w then .b64 else .b32) a).1
  | .s a => fun _ => x.sval a

def SetSrc.uses' (w : Bool) : SetSrc → List Use
  | .v a => VArg.uses w 1 a
  | .s a => SArg.uses 1 a

/-- SETS (R164, R166). -/
def execSets (sp : Reg) (a : SetSrc) (s : State) : Host.Outcome State Fault Refusal :=
  let sp := sp.toNat
  let w := spWide sp
  s.runFrag { priv := false, privSp := if spPriv sp then some sp else none, noGlint := false, uses := SetSrc.uses' w a }
    fun x s =>
      let f := x.setSrc w a
      if s.flagsOwed x sp then .stay s
      else if sp == 0x0D then s.beamDone (x.b.putCpack x.mask f)
      else if sp == 0x30 then
        match s.contextOf x.b with
        | some c => .done (s.setContext { c with fusewin := f x.lead % 2 ^ 32 })
        | none => .done s
      else s.beamDone (x.b.putSpecial x.lead sp (f x.lead))

/-! ### The fragment's remaining steps of time -/

/-- DELAY_EXPIRY: the count has run out and the fragment may issue (R150). -/
def execDelayExpiry (b : BeamKey) (e : Nat) (s : State) : Host.Outcome State Fault Refusal :=
  match s.beam? b with
  | none => .next s
  | some x =>
    match (x.entry e).wait with
    | some w =>
      if w.kind == .delay && w.rem == some 0 then .next (s.setBeam (x.setEntry e { x.entry e with wait := none, since := s.clock }))
      else .next s
    | none => .next s

/-- AGING_PROMOTION: a ready fragment not chosen for 64 cycles goes ahead of its class (R99, R352). -/
def execAgingPromotion (b : BeamKey) (e : Nat) (s : State) : Host.Outcome State Fault Refusal :=
  match s.beam? b with
  | none => .next s
  | some x =>
    let y := x.entry e
    if y.st == .run && decide (y.passed ≥ 64) && !y.promoted then .next (s.setBeam (x.setEntry e { y with promoted := true }))
    else .next s

end Sys2Proof.Machine
end

