-- ==== Sys2Proof/Machine/Issue.lean ====
section
/-! DEFINITION. What a fragment executes next: its header or its instruction, fetched whole before any part of it runs
(R104, R108, R118 to R124), the pipe classes (R128), and what an issue leaves in its quadrant (R12, R351 to R353). -/

namespace Sys2Proof.Machine

/-- What a fetch gives: an instruction with its words, or a trap with the number of words fetched. -/
inductive Fetched where
  | ok (i : Instr) (r : Raw) (words : Nat)
  | trap (t : Trap) (words : Nat)
  deriving DecidableEq, Repr

/-- The raw words of a list. -/
def rawOf (ws : List Word) : Raw := ⟨ws.getD 0 0, ws.getD 1 0, ws.getD 2 0⟩

/-- ENCODING with the words as detail (R125, R410). -/
def encodingTrap (code : Nat) (r : Raw) : Trap :=
  { group := gENCODING, code := code, lanes := none, x := r.w0.toNat, y := r.w1.toNat, z := r.w2.toNat }

/-- A header of a fragment (R118, R119, R124). DESIGN CHOICE: log entry 58. -/
def State.fetchHeader (s : State) (core : Nat) (x : Context) (pc : Nat) : Fetched :=
  match s.fetchWord core x pc with
  | .error c => .trap (Trap.addr gFETCH c none pc 0) 0
  | .ok w0 =>
    if !headerWord pc w0 then .trap (Trap.addr gFETCH 1 none pc 0) 0
    else
      match s.fetchWord core x (pc + 4) with
      | .error c => .trap (Trap.addr gFETCH c none (pc + 4) 0) 0
      | .ok w1 => .ok (.hdr (Raw.header ⟨w0, w1, 0⟩)) ⟨w0, w1, 0⟩ 2

/-- Fetch words from an address on, inside a block that ends at `stop`. -/
def State.fetchWords (s : State) (core : Nat) (x : Context) (stop pc : Nat) : Nat → Except Trap (List Word)
  | 0 => .ok []
  | n + 1 =>
    if pc ≥ stop then .error (Trap.addr gFETCH 3 none stop 0)
    else
      match s.fetchWord core x pc with
      | .error c => .error (Trap.addr gFETCH c none pc 0)
      | .ok w =>
        match s.fetchWords core x stop (pc + 4) n with
        | .error t => .error t
        | .ok ws => .ok (w :: ws)

/-- Words of an instruction in a block, decoded; a header word inside a block is no instruction (R119, log entry 15).
DEDUCED: log entry 15. -/
def decodeHere (r : Raw) : Fetched :=
  if r.op == 0 then .trap (encodingTrap (if r.l == 1 then 5 else 1) r) r.words
  else
    match decodeRaw r with
    | .ok i => .ok i r r.words
    | .bad c => .trap (encodingTrap c r) r.words

/-- An instruction of a fragment inside its block. -/
def State.fetchInside (s : State) (core : Nat) (x : Context) (k : Block) (pc : Nat) : Fetched :=
  match s.fetchWords core x k.stop pc 1 with
  | .error t => .trap t 0
  | .ok ws =>
    match s.fetchWords core x k.stop pc (rawOf ws).words with
    | .error t => .trap t (rawOf ws).words
    | .ok ws => decodeHere (rawOf ws)

/-- What entry `e` executes next: the instruction that it waits in, its next header, or its next instruction. -/
def State.fetchFor (s : State) (b : Beam) (e : Nat) : Fetched :=
  let y := b.entry e
  match s.contextOf b with
  | none => .trap (Trap.addr gFETCH 4 none y.pc 0) 0
  | some x =>
    match y.wait with
    | some w => .ok w.ins ((encodeRaw w.ins).getD ⟨0, 0, 0⟩) w.words
    | none =>
      match y.blk with
      | none => s.fetchHeader b.key.core x y.pc
      | some k =>
        if y.pc == k.stop then
          if k.x then .trap (Trap.addr gFETCH 2 none y.pc 0) 0 else s.fetchHeader b.key.core x y.pc
        else s.fetchInside b.key.core x k y.pc

/-! ### Pipe classes (R128) -/

inductive Pipe where
  | scl | int | flt | sfn | xln | mem | eng | ctl
  deriving DecidableEq, Repr

def Pipe.code : Pipe → Nat
  | .scl => 0 | .int => 1 | .flt => 2 | .sfn => 3 | .xln => 4 | .mem => 5 | .eng => 6 | .ctl => 7

def pipeOfOp (op : Nat) : Pipe :=
  if op == 0x01 || op == 0x02 || (0x04 ≤ op && op ≤ 0x06) || op == 0x08 || op == 0x0D || (0x18 ≤ op && op ≤ 0x2F) then .scl
  else if (0x30 ≤ op && op ≤ 0x47) || (0x5D ≤ op && op ≤ 0x64) then .int
  else if (0x48 ≤ op && op ≤ 0x4E) || (0x57 ≤ op && op ≤ 0x5C) || op == 0x65 then .flt
  else if 0x4F ≤ op && op ≤ 0x56 then .sfn
  else if 0x66 ≤ op && op ≤ 0x6D then .xln
  else if op == 0x0F || (0x70 ≤ op && op ≤ 0x86) then .mem
  else if (0x90 ≤ op && op ≤ 0xA1) || op == 0xA3 then .eng
  else .ctl

/-- The class of an instruction; GETS and SETS go by their register operand. -/
def pipeOf (i : Instr) (op : Nat) : Pipe :=
  match i with
  | .gets (.s _) _ => .scl
  | .gets (.v _) _ => .int
  | .sets _ (.s _) => .scl
  | .sets _ (.v _) => .int
  | _ => pipeOfOp op

/-! ### The throttle (R353, R354) -/

/-- Priority class of a beam's kernel; a glint's is that of its issuer's kernel (R351). -/
def State.classOf (s : State) (b : Beam) : Nat := ((s.kernelOf b).map (·.cls)).getD 3

/-- Memory-heavy: 32 of the last 64 issues were MEM or ENG (R353). -/
def Beam.heavy (b : Beam) : Bool := decide (32 ≤ (b.hist.filter (fun x => x)).length)

/-- The quadrant's memory-heavy beams of classes 1 to 3. -/
def State.heavyBeams (s : State) (core quad : Nat) : List Beam :=
  s.beams.filter fun b => b.key.core == core && quadOf b.key.slot == quad && b.heavy && s.classOf b != 0

/-- N of CGCTL; 0 is read as 1. -/
def cgN (r : BitVec 32) : Nat := max 1 (r.extractLsb' 24 4).toNat

/-- Slots of the beams that the throttle serves: the N lowest at or after the rotating pointer (R354). -/
def State.servedSlots (s : State) (core quad : Nat) : List Nat :=
  let rot := ((s.coreOf core).quads.getD quad Quad.reset).rot
  let n := ((s.partOfCore core).map fun p => cgN p.cgctl).getD 1
  let slots := (s.heavyBeams core quad).map fun b => slotIndex b.key.slot
  let turn := (List.range 20).map fun k => (rot + k) % 20
  (turn.filter slots.contains).take n

/-- Does the throttle hold back this issue (R354, R435)? -/
def State.throttled (s : State) (b : Beam) (p : Pipe) : Bool :=
  let c := s.coreOf b.key.core
  let q := quadOf b.key.slot
  (c.quads.getD q Quad.reset).engaged && !c.dim && (p == .mem || p == .eng) && b.heavy && s.classOf b != 0 &&
    !(s.servedSlots b.key.core q).contains (slotIndex b.key.slot)

/-- What fetching the words leaves behind; an instruction that waits is not fetched again. -/
def State.fetchedNote (s : State) (b : Beam) (e words : Nat) : State :=
  match s.contextOf b with
  | none => s
  | some x =>
    if (b.entry e).wait.isSome then s
    else (List.range words).foldl (fun s k => s.fetchNote b.key.core x ((b.entry e).pc + 4 * k)) s

/-- Kinds of wait that are rest points (R97). -/
def WaitKind.rest : WaitKind → Bool
  | .bwait | .waitv | .mwait | .chwait | .bfuse => true
  | _ => false

/-- Is entry `e` at a rest point (R97, R120): in such a wait, or before a header with Y or reached backwards? In trap mode
there is none (R408). -/
def State.atRest (s : State) (b : Beam) (e : Nat) : Bool :=
  let y := b.entry e
  !b.trap.isSome && match y.wait with
  | some w => w.kind.rest
  | none =>
    y.atHeader && (y.back ||
      match s.fetchFor b e with
      | .ok (.hdr h) _ _ => h.y
      | _ => false)

/-- Is the fragment kept from going on because its cohort stops at rest points (R416)? A glint goes on to its end, handler
and all (R254, R415). -/
def State.stopped (s : State) (b : Beam) (e : Nat) : Bool :=
  ((s.cohort? b.cohort).map fun c => c.stop.isSome).getD false && b.glint.isNone && s.atRest b e

/-! ### The issue key (R351, R435) -/

/-- The key of R351, least first. -/
def State.issueKey (s : State) (b : Beam) (e : Nat) : List Nat :=
  let y := b.entry e
  if (s.coreOf b.key.core).dim then
    let q := (s.coreOf b.key.core).quads.getD (quadOf b.key.slot) Quad.reset
    [s.classOf b, (slotIndex b.key.slot + 20 - q.start) % 20, leadOf y.mask]
  else
    [s.classOf b, if y.promoted then 0 else 1, y.since, slotIndex b.key.slot, leadOf y.mask]

/-- Is a key before another? DESIGN CHOICE: log entry 55. -/
def keyLt : List Nat → List Nat → Bool
  | a :: as, b :: bs => decide (a < b) || (a == b && keyLt as bs)
  | _, _ => false

/-! ### The quadrant's record of an issue -/

def countMask (m : Mask) : Nat := (lanesOf m).length

/-- An issue of a fragment enters its quadrant's record; a width-64 issue fills the slots with its lower lanes, and in the
next cycle with its upper ones (R12). STOV and VTOS also take a vector issue of class XLN (R128). -/
def Quad.issue (q : Quad) (b : Beam) (e : Nat) (p : Pipe) (op : Nat) : Quad :=
  let m := (b.entry e).mask
  let v : Issued := { beam := b.key, entry := e, scalar := false, cls := p.code, width := min b.w 32
                      lanes := m &&& 0xFFFFFFFF, full := m == fullMask b.w }
  let half : Option Issued := if b.w == 64 then some { v with lanes := m >>> 32 } else none
  if p == .scl then
    let sc : Issued := { v with scalar := true, cls := Pipe.code .scl }
    if op == 0x2D || op == 0x2E then
      { q with issued := q.issued ++ [sc, { v with cls := Pipe.code .xln }]
               second := half.map fun h => { h with cls := Pipe.code .xln } }
    else { q with issued := q.issued ++ [sc] }
  else { q with issued := q.issued ++ [v], second := half }

/-- The fragment has been chosen: its age starts anew and its turn to yield or to be promoted is over. -/
def Entry.chosen (y : Entry) (clock : Nat) : Entry :=
  { y with since := clock, passed := 0, promoted := false, yielded := none, cand := false, owed := none }

/-- Put an issue on record. A second issue of one wait adds nothing to the history of the last 64 instructions (R353). -/
def State.noteIssue (s : State) (b : Beam) (e : Nat) (i : Instr) (op : Nat) : State :=
  let p := pipeOf i op
  let q := quadOf b.key.slot
  let hist := if (b.entry e).wait.isSome then b.hist else ((p == .mem || p == .eng) :: b.hist).take 64
  let s := s.setBeam { b.setEntry e ((b.entry e).chosen s.clock) with hist := hist }
  s.modCore b.key.core fun c =>
    { c with quads := c.quads.modify q fun y =>
        { y.issue b e p op with rr := if c.dim then (slotIndex b.key.slot + 1) % 20 else y.rr } }

/-- The state in which the meaning of a fetched instruction runs. -/
def State.ready (s : State) (b : Beam) (e : Nat) (i : Instr) (r : Raw) (words : Nat) : State :=
  let pc := (b.entry e).pc
  let s := s.fetchedNote b e words
  let s := if (b.entry e).atHeader && (b.entry e).wait.isNone then s else s.noteIssue b e i r.op.toNat
  { s with cur := some { beam := b.key, entry := e, pc := pc, raw := r, words := words } }

/-- A trap of the fetch itself, after a pending cause (R126, R413). -/
def State.fetchTrap (s : State) (b : Beam) (e words : Nat) (t : Trap) : State :=
  let pc := (b.entry e).pc
  let x : Frag := { b := b, e := e, pc := pc, raw := ⟨0, 0, 0⟩, words := words }
  match x.pending with
  | some p => s.takePending x p
  | none => s.trapEntry b.key e pc words t

end Sys2Proof.Machine
end

