-- ==== Sys2Proof/Machine/Width.lean ====
section
/-! DEFINITION. Groups, width changes and retirement (R83, R91 to R96, R157 to R160, R347, R357 to R361). -/

namespace Sys2Proof.Machine

/-! ### Groups -/

/-- The entry of a group table; one that no group has used is Free with GEN 1 (R357). -/
def Kernel.group (k : Kernel) (i : Nat) : Group :=
  (k.groups.find? fun g => g.index == i).getD { index := i, st := .free, gen := 1, members := [] }

def Kernel.setGroup (k : Kernel) (g : Group) : Kernel :=
  { k with groups := g :: k.groups.filter fun h => h.index != g.index }

/-- The live group that a handle names (R157). -/
def Kernel.named (k : Kernel) (h : Nat) : Option Group :=
  let g := k.group (bits h 0 16)
  if Fmt.isAbsent .n64 h || bits h 32 32 != 0 || bits h 0 16 ≥ 1024 || g.st != .live || g.gen != bits h 16 16 then none
  else some g

/-- How a beam is named among members. -/
def Beam.member (b : Beam) : Nat × Nat := (b.cohort.index, b.id)

/-- A group without a member; at COUNT 0 it ends (R358). -/
def Group.leave (g : Group) (m : Nat × Nat) : Group :=
  let ms := g.members.filter fun x => x != m
  if ms.isEmpty then
    if g.gen == 0xFFFF then { g with st := .withdrawn, members := [] } else { g with st := .free, gen := g.gen + 1, members := [] }
  else { g with members := ms }

/-- A beam leaves every group of its kernel (R160). -/
def State.leaveAll (s : State) (b : Beam) : State :=
  match s.kernelOf b with
  | none => s
  | some k =>
    s.setKernel { k with groups := k.groups.map fun g =>
      if g.st == .live && g.members.contains b.member then g.leave b.member else g }

/-- Live groups of the device (R158). -/
def State.liveGroups (s : State) : Nat := ((s.kernels.map fun k => (k.groups.filter fun g => g.st == .live).length)).sum

/-- GNEW (R158). -/
def execGnew (d : Reg) (s : State) : Host.Outcome State Fault Refusal :=
  s.runFrag { priv := false, noGlint := true, uses := dstS d } fun x s =>
    let none_ := s.beamDone (x.putS d (Fmt.absent .n64))
    match s.kernelOf x.b with
    | none => none_
    | some k =>
      match (List.range 1024).find? fun i => (k.group i).st == .free with
      | none => none_
      | some i =>
        if !x.b.converged || s.liveGroups ≥ 16384 then none_
        else
          let g := k.group i
          .done ((s.setKernel (k.setGroup { g with st := .live, members := [x.b.member] })).setBeam (x.putS d (i + g.gen * 2 ^ 16)))

/-- The code of a failed GJOIN or GLEAVE, or the group (R159). -/
def State.groupCheck (s : State) (x : Frag) (h : Nat) : Except Nat (Kernel × Group) :=
  if !x.b.converged then .error 4
  else
    match s.kernelOf x.b with
    | none => .error 1
    | some k =>
      match k.named h with
      | none => .error 1
      | some g => .ok (k, g)

def execGjoin (d a : Reg) (s : State) : Host.Outcome State Fault Refusal :=
  s.runFrag { priv := false, noGlint := true, uses := dstS d ++ regUses .s a false 1 false false } fun x s =>
    let ends := fun (s : State) (c : Nat) => s.beamDone (x.putS d c)
    match s.groupCheck x (x.b.sreg a.toNat).toNat with
    | .error c => ends s (0x100 + c)
    | .ok (k, g) =>
      if g.members.contains x.b.member then ends s 0x102
      else if g.members.length ≥ 4095 then ends s 0x103
      else ends (s.setKernel (k.setGroup { g with members := g.members ++ [x.b.member] })) 0

def execGleave (d a : Reg) (s : State) : Host.Outcome State Fault Refusal :=
  s.runFrag { priv := false, noGlint := true, uses := dstS d ++ regUses .s a false 1 false false } fun x s =>
    let ends := fun (s : State) (c : Nat) => s.beamDone (x.putS d c)
    match s.groupCheck x (x.b.sreg a.toNat).toNat with
    | .error c => ends s (0x100 + c)
    | .ok (k, g) =>
      if g.members.contains x.b.member then ends (s.setKernel (k.setGroup (g.leave x.b.member))) 0 else ends s 0x105

/-! ### Retirement -/

/-- A slot number that no beam has: what a request keeps of a beam that has retired (R43). DEDUCED: log entry 54. -/
def noSlot : Nat := 1000

/-- A beam retires: it leaves its groups, its results are dropped, and its requests report to no beam (R160, R148, R43).
DEDUCED: log entry 54. -/
def State.retire (s : State) (k : BeamKey) : State :=
  match s.beam? k with
  | none => s
  | some b =>
    let s := s.leaveAll b
    let gone : BeamKey := ⟨k.core, noSlot⟩
    { s with
      beams := (s.beams.filter fun x => x.key != k).map fun x =>
        { x with glint := x.glint.map fun g => if g.issuer == k then { g with issuer := gone } else g }
      fills := s.fills.filter fun f => f.beam != k
      mmas := s.mmas.filter fun m => m.beam != k
      reqs := s.reqs.map fun r => if r.beam == k then { r with beam := gone } else r
      fabric := s.fabric.map fun f =>
        match f.what with
        | .msend c b e d drop => if b == k then { f with what := .msend c gone e d drop } else f
        | _ => f }

/-- Beams of a cohort, glints apart, that have a live lane. -/
def State.liveBeams (s : State) (c : CohortKey) : List Beam :=
  s.beams.filter fun b => b.cohort == c && b.glint.isNone && b.live != 0

/-- After lanes have exited: a beam with no live lane retires; the cohort's last waits for the cohort's requests (R73,
R347). DEDUCED: log entry 54. -/
def State.afterExit (s : State) (k : BeamKey) : State :=
  match s.beam? k with
  | none => s
  | some b =>
    if b.live != 0 then s
    else if b.glint.isNone && (s.liveBeams b.cohort).isEmpty then s.setBeam { b with retiring := true }
    else s.retire k

/-! ### BSPLIT (R92) -/

/-- A free choice among a list; the only element of a list of one (Config.freeNat).
DESIGN CHOICE: log entry 5; DEDUCED: log entry 53. -/
def pick {α : Type} (seed : Nat) (xs : List α) : Option α :=
  match xs with
  | [] => none
  | [x] => some x
  | _ => xs[Config.freeNat seed % xs.length]?

/-- Does a cohort hold resources: resident, or stopped while a request of its own still drains (R346)? -/
def State.holds (s : State) (c : Cohort) : Bool :=
  c.st == .resident || (c.st == .stopped && s.reqs.any fun r => r.cohort == c.key && !r.parked)

/-- Free beam slots of a quadrant for a cohort: no beam stands there, and no other cohort has taken the slot (R72, R76,
R347). DEDUCED: log entry 53. -/
def State.freeSlots (s : State) (own : CohortKey) (core quad : Nat) : List Nat :=
  ((List.range 16).map fun i => 16 * quad + i).filter fun n =>
    (s.beam? ⟨core, n⟩).isNone &&
      !(s.cohorts.any fun c => c.key != own && c.core == core && s.holds c && c.slots.contains n)

/-- A cohort takes a beam slot (R349). -/
def State.takeSlot (s : State) (c : CohortKey) (slot : Nat) : State :=
  match s.cohort? c with
  | some y => if y.slots.contains slot then s else s.setCohort { y with slots := y.slots ++ [slot] }
  | none => s

/-- Vg: V rounded up to a multiple of 8 (R75). -/
def Beam.vg (b : Beam) : Nat := roundUp b.nv 8

/-- What a lane group counts in `coloff`: Vg columns, or 1 where the beam declares no vector register.
DESIGN CHOICE: log entry 23. -/
def Beam.unit (b : Beam) : Nat := max 1 b.vg

/-- The beam's range, in columns (lane groups where it declares no vector register). -/
def Beam.columns (b : Beam) : Nat := b.unit * (b.w / 8)

/-- PENDING (R92): an empty register, a matrix instruction in flight, or trap mode. -/
def State.pending (s : State) (b : Beam) : Bool := !b.allFull || (s.mmas.any fun m => m.beam == b.key) || b.trap.isSome

/-- The lower or the upper half of a list of lanes. -/
def cutLanes {α : Type} (h : Nat) (upper : Bool) (l : List α) : List α := if upper then l.drop h else l.take h

/-- The lower or the upper half of a beam's lanes. -/
def Beam.half (b : Beam) (upper : Bool) : Beam :=
  let h := b.w / 2
  let m := fun x : Mask => (if upper then x >>> h else x) &&& fullMask h
  Beam.oweSync { b with
    w := h, laneg := cutLanes h upper b.laneg, v := b.v.map (cutLanes h upper), c := b.c.map (cutLanes h upper)
    exited := m b.exited
    tlanes := b.tlanes &&& fullMask h
    coloff := b.coloff + if upper then b.unit * (h / 8) else 0
    split := b.split.map fun y => { y with mask := m y.mask }
    stamps := Stamps.none_ }

/-- The upper half as a beam of its own. -/
def Beam.upperHalf (b : Beam) (slot id : Nat) : Beam :=
  { b.half true with
    key := ⟨b.key.core, slot⟩, id := id, na := 0, tiles := [], hist := [], sends := [], pend := none, packets := 0, rdy := [] }

/-- The lowest beam number of a cohort that no live beam holds. -/
def State.freeId (s : State) (c : CohortKey) : Nat :=
  ((List.range 64).find? fun i => !((s.liveBeams c).any fun b => b.id == i)).getD 0

/-- The upper half joins every group of the lower (R361). -/
def State.joinAll (s : State) (b upper : Beam) : State :=
  match s.kernelOf b with
  | none => s
  | some k =>
    s.setKernel { k with groups := k.groups.map fun g =>
      if g.st == .live && g.members.contains b.member then { g with members := g.members ++ [upper.member] } else g }

/-- The two beams that a BSPLIT makes. -/
def State.splitBeam (s : State) (x : Frag) (d : Reg) (slot : Nat) : State :=
  let b := x.b.advance x.e x.next
  let lower := (b.half false).storeS d.toNat 0
  let upper := (b.upperHalf slot (s.freeId b.cohort)).storeS d.toNat 1
  let s := (s.setBeam lower).joinAll lower upper
  let s := { s with beams := s.beams ++ [upper] }
  let s := if upper.live == 0 then s.retire upper.key else s.takeSlot b.cohort slot
  if lower.live == 0 then s.retire lower.key else s

/-- BSPLIT (R92). DEDUCED: log entry 53. -/
def execBsplit (d : Reg) (s : State) : Host.Outcome State Fault Refusal :=
  s.runFrag { priv := false, noGlint := true, uses := dstS d } fun x s =>
    let fail := fun c : Nat => s.beamDone (x.putS d (0x100 + c))
    if !x.b.converged then fail 1
    else if x.w < 16 then fail 3
    else if s.pending x.b then fail 4
    else
      match pick s.free (s.freeSlots x.b.cohort x.core (quadOf x.b.key.slot)) with
      | none => fail 2
      | some slot =>
        if (s.liveBeams x.b.cohort).length ≥ 64 then fail 2 else .stay (s.splitBeam x d slot)

/-! ### BFUSE (R93 to R95) -/

/-- Columns of a cohort's region in a quadrant (R349). -/
def State.regionColumns (s : State) (b : Beam) : Nat :=
  match s.kernelOf b with
  | none => 0
  | some k =>
    let q := quadOf b.key.slot
    ((List.range k.launch.beams).filter fun j => j % 4 == q).length * b.unit * (k.launch.width / 8)

/-- The beam that starts at the first column of the buddy's range, or why there is none (R93).
DESIGN CHOICE: log entry 23. -/
def State.buddy (s : State) (b : Beam) : Except Nat Beam :=
  let n := b.columns
  let at_ := (b.coloff / n ^^^ 1) * n
  if at_ + n > s.regionColumns b then .error 1
  else
    match (s.liveBeams b.cohort).find? fun y => quadOf y.key.slot == quadOf b.key.slot && y.coloff == at_ && y.key != b.key with
    | none => .error 1
    | some y => if y.w != b.w then .error 2 else .ok y

/-- The entry of a beam that waits in BFUSE, with its destination and words. -/
def Beam.fusing (b : Beam) : Option (Nat × Reg × Wait) :=
  if b.trap.isSome then none
  else
    (b.entriesIn .run).findSome? fun e =>
      match (b.entry e).wait with
      | some w =>
        match w.ins with
        | .bfuse d => if w.kind == .bfuse then some (e, d, w) else none
        | _ => none
      | none => none

/-- Groups of a beam. -/
def State.groupsOf (s : State) (b : Beam) : List Nat :=
  ((s.kernelOf b).map fun k => ((k.groups.filter fun g => g.st == .live && g.members.contains b.member).map (·.index)).mergeSort).getD []

/-- Why a pair that has met cannot fuse (R94). -/
def State.pairFault (s : State) (pcs : Nat × Nat) (lower upper : Beam) : Option Nat :=
  if pcs.1 != pcs.2 then some 3
  else if lower.nv != upper.nv || lower.ns != upper.ns || lower.nc != upper.nc || upper.na > 0 then some 5
  else if s.groupsOf lower != s.groupsOf upper then some 6
  else none

/-- The fused beam (R95): it goes on at `next` on entry `e` of the lower beam. -/
def Beam.fuse (lower upper : Beam) (e next : Nat) (d : Reg) : Beam :=
  let w := lower.w
  let b : Beam := { lower with
    w := 2 * w, laneg := lower.laneg ++ upper.laneg
    v := lower.v.zipWith (· ++ ·) upper.v, c := lower.c.zipWith (· ++ ·) upper.c
    exited := (lower.exited &&& fullMask w) ||| (upper.exited &&& fullMask w) <<< w
    status := lower.status ||| upper.status, stamps := Stamps.none_ }
  (((b.setEntry e { b.entry e with mask := b.live }).advance e next).storeS d.toNat 0).oweSync

/-- A beam's BFUSE ends with a code. -/
def State.fuseEnds (s : State) (k : BeamKey) (e next : Nat) (d : Reg) (code : Nat) : State :=
  match s.beam? k with
  | none => s
  | some b => s.setBeam ((b.putS (leadOf (b.entry e).mask) d.toNat (BitVec.ofNat 64 code)).advance e next)

/-- The second beam of a pair has arrived (R94, R95). -/
def State.fusePair (s : State) (x : Frag) (d : Reg) (y : Beam) (ye : Nat) (yd : Reg) (yw : Wait) : State :=
  let ypc := (y.entry ye).pc
  let ynext := ypc + 4 * yw.words
  let mine := x.b.coloff < y.coloff
  let lower := if mine then x.b else y
  let upper := if mine then y else x.b
  match s.pairFault (x.pc, ypc) lower upper with
  | some c => (s.fuseEnds x.b.key x.e x.next d (0x100 + c)).fuseEnds y.key ye ynext yd (0x100 + c)
  | none =>
    let fused := if mine then lower.fuse upper x.e x.next d else lower.fuse upper ye ynext yd
    (s.retire upper.key).setBeam fused

/-- BFUSE (R93, R94): the beam's own checks come before its wait; a beam that waits meets its buddy or its window expires. -/
def execBfuse (d : Reg) (s : State) : Host.Outcome State Fault Refusal :=
  s.runFrag { priv := false, noGlint := true, uses := dstS d } fun x s =>
    let fail := fun c : Nat => s.beamDone (x.putS d (0x100 + c))
    let met : Option (Beam × Nat × Reg × Wait) := match s.buddy x.b with
      | .ok y => y.fusing.map fun f => (y, f)
      | .error _ => none
    if x.entry.wait.any fun w => w.kind == .bfuse then
      match met with
      | some (y, ye, yd, yw) => .stay (s.fusePair x d y ye yd yw)
      | none => .stay s
    else if x.w == 64 then fail 8
    else if !x.b.converged then fail 4
    else if s.pending x.b then fail 7
    else
      match s.buddy x.b, met with
      | .error c, _ => fail c
      | .ok _, some (y, ye, yd, yw) => .stay (s.fusePair x d y ye yd yw)
      | .ok _, none =>
        let win := match x.entry.carry with
          | some c => c.2
          | none => ((s.contextOf x.b).map (·.fusewin)).getD 0
        if win == 0 then fail 9
        else
          .stay (s.setBeam (x.b.setEntry x.e { x.entry with
            wait := some { kind := .bfuse, ins := .bfuse d, words := x.words, waited := 0, rem := some win
                           woken := false, aux := 0 }
            carry := none }))

/-- FUSE_WINDOW_EXPIRY: the beam's fuse window has run out (R94). -/
def execFuseWindowExpiry (b : BeamKey) (s : State) : Host.Outcome State Fault Refusal :=
  match s.beam? b with
  | none => .next s
  | some x =>
    match x.fusing with
    | some (e, d, w) =>
      if w.rem == some 0 && !s.stopped x e then .next (s.fuseEnds b e ((x.entry e).pc + 4 * w.words) d 0x109) else .next s
    | none => .next s

end Sys2Proof.Machine
end

