-- ==== Sys2Proof/Machine/Barrier.lean ====
section
/-! DEFINITION. The barrier object: its fields, engine counts and faults, orphans, and the barrier instructions (R253,
R274 to R280, R365 to R374, R434). -/

namespace Sys2Proof.Machine

/-! ### The record (R365) -/

structure Bar where
  phase : Nat
  st    : Nat
  exp   : Nat
  arr   : Nat
  valid : Nat
  src   : List Nat
  cnt   : List Int
  fault : Nat
  deriving DecidableEq, Repr

/-- A barrier from its 32 bytes. -/
def Bar.ofBytes (bs : List Byte) : Bar :=
  let f := fun k n => leNat ((bs.drop k).take n)
  let w := f 0 4
  { phase := bits w 0 1, st := bits w 1 3, exp := bits w 4 12, arr := bits w 16 12, valid := bits w 28 4
    src := (List.range 4).map fun k => f (4 + k) 1
    cnt := (List.range 4).map fun k => sext 32 (f (8 + 4 * k) 4), fault := f 24 4 }

/-- The control word. -/
def Bar.word (b : Bar) : Nat := b.phase + 2 * b.st + 16 * b.exp + 2 ^ 16 * b.arr + 2 ^ 28 * b.valid

/-- Bytes 0 to 27; the reserved bytes are not written. -/
def Bar.bytes (b : Bar) : List Byte :=
  natLe 4 b.word ++ b.src.flatMap (natLe 1) ++ (b.cnt.flatMap fun c => natLe 4 (pattern 32 c)) ++ natLe 4 b.fault

def State.bar (s : State) (c : CohortKey) (off : Nat) : Bar :=
  Bar.ofBytes (((s.cohort? c).map fun c => s.winBytes c off 32).getD [])

def State.putBar (s : State) (c : CohortKey) (off : Nat) (b : Bar) : State := s.winPut c off b.bytes

def State.tagged (s : State) (c : CohortKey) (off : Nat) : Bool := ((s.cohort? c).map fun c => c.tagged off).getD false

/-- Armed, faulted or orphaned; any other state of a tagged granule is malformed (R367, R372). -/
def Bar.formed (b : Bar) : Bool := b.st == 1 || b.st == 2 || b.st == 3

def Bar.slotValid (b : Bar) (k : Nat) : Bool := bits b.valid k 1 == 1

/-- R274: has the phase completed? -/
def Bar.complete (b : Bar) : Bool :=
  (b.st == 1 || b.st == 3) && b.arr == b.exp && (List.range 4).all fun k => !b.slotValid k || b.cnt.getD k 0 == 0

/-- The phase flips (R274). -/
def Bar.flip (b : Bar) : Bar :=
  { b with phase := 1 - b.phase, arr := 0, valid := 0, src := List.replicate 4 0, cnt := List.replicate 4 0 }

/-- The slot of a source core (R275). -/
def Bar.slotOf (b : Bar) (q : Nat) : Option Nat := (List.range 4).find? fun k => b.slotValid k && b.src.getD k 0 == q

/-- Apply a byte count of source core q; none where it is refused (R275). -/
def Bar.apply (b : Bar) (q : Nat) (d : Int) : Option Bar :=
  match (b.slotOf q).or ((List.range 4).find? fun k => !b.slotValid k) with
  | none => none
  | some k =>
    let c := (if b.slotValid k then b.cnt.getD k 0 else 0) + d
    if c < -(2 ^ 31) ∨ 2 ^ 31 ≤ c then none
    else some { b with
      valid := if b.slotValid k then b.valid else b.valid + 2 ^ k, src := b.src.set k q, cnt := b.cnt.set k c }

/-! ### Waiters (R277, R370) -/

/-- Does the entry wait in BWAIT on the barrier, not yet decided? The wait's number is the offset, and above bit 32 what
has decided it: 1 + PHASE of the flip that woke it, or 3 when the tag went. -/
def Entry.waitsOn (y : Entry) (off : Nat) : Bool := y.wait.any fun w => w.kind == .bwait && w.aux == off

/-- A waiter on a barrier wakes; `code` decides its wait where it is not 0. -/
def Entry.wakeOn (off code : Nat) (y : Entry) : Entry :=
  if y.waitsOn off then { y with wait := y.wait.map fun w => { w with woken := true, aux := off + code * 2 ^ 32 } } else y

/-- Every waiter on a barrier wakes, those too whose beam is in trap mode. -/
def State.wakeBar (s : State) (c : CohortKey) (off code : Nat) : State :=
  { s with beams := s.beams.map fun b => if b.cohort == c then b.mapEntries (Entry.wakeOn off code) else b }

/-- Does a fragment wait on the barrier? -/
def State.hasWaiters (s : State) (c : CohortKey) (off : Nat) : Bool :=
  s.beams.any fun b => b.cohort == c && b.anyEntry fun y => y.waitsOn off

/-- The phase in which reads with REPLAY marks on a barrier count is over (R434). -/
def State.marksOver (s : State) (c : CohortKey) (off : Nat) : State :=
  match s.cohort? c with
  | some k =>
    if k.marks.isEmpty then s
    else s.setCohort { k with marks := k.marks.map fun m => if m.off == off then { m with ended := true } else m }
  | none => s

/-- The check of R274 after a change of ARRIVED or a CNT. -/
def State.barChanged (s : State) (c : CohortKey) (off : Nat) (b : Bar) : State :=
  if b.complete then ((s.putBar c off b.flip).marksOver c off).wakeBar c off (1 + b.flip.phase) else s.putBar c off b

/-- A beam acquires the phase that a barrier has completed, the bytes counted in it, and with it what copies have delivered to
the window; a REPLAY mark of that phase does not meet it any more (R277, R278, R434). DESIGN CHOICE: log entry 4. -/
def State.acquirePhase (s : State) (k : BeamKey) (off : Nat) : State :=
  match s.beam? k with
  | none => s
  | some b =>
    let s := s.catchUp k
    match s.cohort? b.cohort with
    | some c =>
      if c.marks.isEmpty then s
      else s.setCohort { c with
        marks := c.marks.map fun m => if m.off == off && m.ended then { m with acquired := b.id :: m.acquired } else m }
    | none => s

/-! ### Engine counts and faults (R263, R275, R279, R280, R372) -/

/-- Enter a completion in a core's orphan log of 16 entries. -/
def State.orphaned (s : State) (core : Nat) (o : Orphan) : State :=
  s.modCore core fun c => if c.orphans.length < 16 then { c with orphans := c.orphans ++ [o] } else c

def State.dropReq (s : State) (id : Nat) : State := { s with reqs := s.reqs.filter fun r => r.id != id }

/-- Requests in the fault list of a core. -/
def State.faultList (s : State) (core : Nat) : List Req := s.reqs.filter fun r => r.core == core && r.parked && !r.dropped

/-- May the request write its barrier: not orphaned, and the barrier is not malformed? -/
def State.barLive (s : State) (r : Req) : Bool :=
  !r.orphan && s.tagged r.cohort r.barrier && (s.bar r.cohort r.barrier).formed

/-- The bursts of a request that parks: one that an engine resolves whole has faulted, and of a request that is dropped every
burst that has produced no glint is lost. -/
def Req.parkedBursts (r : Req) (full : Bool) (kind : Nat) : List BState :=
  match r.kind with
  | .cpy .. => r.bursts
  | .gread .. =>
    if full then r.bursts.map fun b => match b with | .waiting => .faulted kind | .read _ => .faulted kind | _ => b else r.bursts
  | _ => r.bursts.map fun _ => .faulted kind

/-- A request meets a fault: its barrier faults and it parks, where it is not parked already; with the list full it is dropped
with kind LIST_FULL; an orphaned request, or one of a malformed barrier, is dropped into the orphan log (R280). -/
def State.barFault (s : State) (id kind index : Nat) : State :=
  match s.req? id with
  | none => s
  | some r =>
    if !s.barLive r then (s.dropReq id).orphaned r.core { cohort := r.cohort, off := r.barrier, bytes := r.delivered }
    else
      let full := !r.parked && decide ((s.faultList r.core).length ≥ 64)
      let kind := if full then 32 else kind
      let index := if full then 0xFFFF else index
      let b := s.bar r.cohort r.barrier
      let word := index % 2 ^ 16 + ((b.slotOf r.core).getD 0xFF) * 2 ^ 16 + kind * 2 ^ 24
      let s := s.setReq { r with parked := true, dropped := r.dropped || full, migSince := none, down := none
                                 bursts := r.parkedBursts full kind
                                 fault := if b.fault == 0 then some index else r.fault }
      (s.putBar r.cohort r.barrier { b with st := 2, fault := if b.fault == 0 then word else b.fault }).wakeBar r.cohort
        r.barrier 0

/-- A count that found no slot: the barrier faults with SLOT_FULL, and the bytes wait for a resume (R275). -/
def State.barRefuse (s : State) (r : Req) (n : Nat) : State :=
  (s.setReq { r with refused := r.refused + n }).barFault r.id 28 0xFFFF

/-- FAULT of a barrier is cleared: no request is the one that wrote it. -/
def State.unmarked (s : State) (c : CohortKey) (off : Nat) : State :=
  { s with reqs := s.reqs.map fun r => if r.cohort == c && r.barrier == off then { r with fault := none } else r }

/-- A request counts `n` bytes on its barrier (R263, R279, R372). -/
def State.barCount (s : State) (id n : Nat) : State :=
  match s.req? id with
  | none => s
  | some r =>
    if !s.barLive r then s.orphaned r.core { cohort := r.cohort, off := r.barrier, bytes := n }
    else
      match (s.bar r.cohort r.barrier).apply r.core (-(n : Int)) with
      | none => s.barRefuse r n
      | some b => (s.setReq { r with counted := r.counted + n }).barChanged r.cohort r.barrier b

/-- A request counts one arrival (R267). DEDUCED: log entry 43. -/
def State.barArrive (s : State) (id : Nat) : State :=
  match s.req? id with
  | none => s
  | some r =>
    if !s.barLive r then s.orphaned r.core { cohort := r.cohort, off := r.barrier, bytes := r.delivered }
    else
      let b := s.bar r.cohort r.barrier
      s.barChanged r.cohort r.barrier { b with arr := (b.arr + 1) % 4096 }

/-- The flags of a request reach its issuing beam (R43). -/
def State.reqFlags (s : State) (id : Nat) : State :=
  match s.req? id with
  | none => s
  | some r => (s.raise r.beam r.flags).setReq { r with flags := 0 }

/-! ### Operands in the window (R253) -/

/-- An access of the window at issue, for its traps. -/
def winAcc (acc : Access) (n : Nat) : Acc :=
  { spad := true, acc := acc, atomic := false, n := n, uniform := true, wide := false, near := false }

/-- MEM.ALIGN, then MEM.SPACE, of an operand of `n` bytes that is aligned to `al`. -/
def State.winTrap (s : State) (x : Frag) (acc : Access) (size al off n : Nat) : Option Trap :=
  let k := winAcc acc size
  let w := ((s.cohort? x.b.cohort).map (·.wsize)).getD 0
  if off % al != 0 then x.memTrap k [(x.lead, (off : Int), gALIGN, 1)]
  else if off + n > w then x.memTrap k [(x.lead, (off : Int), gSPACE, 1)]
  else none

/-- A SYNC trap about a barrier (R410). -/
def State.syncTrap (s : State) (x : Frag) (code off : Nat) : Trap :=
  { group := gSYNC, code := code, lanes := none, x := off, y := (s.bar x.b.cohort off).word, z := x.op }

/-- The checks of R253 on a present barrier offset; `any` exempts it from the tag check. DEDUCED: log entry 43. -/
def State.barTrap (s : State) (x : Frag) (acc : Access) (any : Bool) (off : Nat) : Option Trap :=
  match s.winTrap x acc 32 32 off 32 with
  | some t => some t
  | none => if !any && !s.tagged x.b.cohort off then some (s.syncTrap x 3 off) else none

/-- The checks of R253 and R372, then an effect on the barrier. -/
def State.onBar (s : State) (x : Frag) (acc : Access) (off : Nat) (go : Bar → Res) : Res :=
  match s.barTrap x acc false off with
  | some t => .trap t
  | none =>
    let b := s.bar x.b.cohort off
    if b.formed then go b else .trap (s.syncTrap x 8 off)

/-! ### BINIT, BARV, BEXP, BINV (R276) -/

/-- EXPECTED of a BINIT: a count, or a group's member count; none where it is absent, stale or too large. -/
def State.binitCount (s : State) (x : Frag) (grp : Bool) (v : Nat) : Option Nat :=
  if grp then
    ((s.kernelOf x.b).bind fun k => (k.named v).map fun g => g.members.length).filter fun n => decide (n ≤ 4095)
  else if Fmt.isAbsent .n64 v || v > 4095 then none
  else some v

/-- Is the barrier in use: waiters, arrivals, counts, or requests in flight that name it (R276, R371)? -/
def State.barBusy (s : State) (c : CohortKey) (off : Nat) : Bool :=
  let b := s.bar c off
  s.hasWaiters c off || b.arr != 0 || ((List.range 4).any fun k => b.slotValid k && b.cnt.getD k 0 != 0) ||
    s.reqs.any fun r => r.cohort == c && r.barrier == off && !r.orphan && !r.dropped

/-- DEDUCED: log entry 43. -/
def execBinit (grp : Bool) (a : SArg) (b : SArgI) (s : State) : Host.Outcome State Fault Refusal :=
  s.runFrag (plain (SArg.uses 1 a ++ SArgI.uses 2 b)) fun x s =>
    let off := x.sval a
    let c := x.b.cohort
    if Fmt.isAbsent .n64 off then .done s
    else
      match s.barTrap x .write true off with
      | some t => .trap t
      | none =>
        match s.binitCount x grp (x.svalI .n64 b) with
        | none => .trap (s.syncTrap x 7 off)
        | some n =>
          if s.tagged c off && s.barBusy c off then .trap (s.syncTrap x 2 off)
          else
            let orphan := (s.coreOf x.core).orphans.any fun o => o.cohort == c && o.off == off
            match s.cohort? c with
            | none => .done s
            | some k =>
              let k := { k with tags := if k.tags.contains (off / 32) then k.tags else off / 32 :: k.tags }
              .done ((s.setCohort (k.put off (natLe 4 (16 * n + if orphan then 6 else 2) ++ natLe 28 0))).unmarked c off)

def execBarv (a : Reg) (s : State) : Host.Outcome State Fault Refusal :=
  s.runFrag (plain (regUses .s a false 1 false false)) fun x s =>
    let off := (x.b.sreg a.toNat).toNat
    if Fmt.isAbsent .n64 off then .done s
    else
      s.onBar x .write off fun b =>
        if b.arr == b.exp then .trap (s.syncTrap x 5 off)
        else .done (s.barChanged x.b.cohort off { b with arr := (b.arr + 1) % 4096 })

def execBexp (a : SArg) (b : SArgI) (c : Option SArg) (s : State) : Host.Outcome State Fault Refusal :=
  s.runFrag (plain (SArg.uses 1 a ++ SArgI.uses 2 b ++ ((c.map (SArg.uses 3)).getD []))) fun x s =>
    let off := x.sval a
    let n := x.svalI .n64 b
    let q := (c.map x.sval).getD x.core
    if Fmt.isAbsent .n64 off then .done s
    else
      s.onBar x .write off fun k =>
        if Fmt.isAbsent .n64 n then .done s
        else if n > 2 ^ 31 - 1 then .trap (s.syncTrap x 7 off)
        else if Fmt.isAbsent .n64 q then .done s
        else if q > 255 then .trap (s.syncTrap x 9 off)
        else
          match k.apply q n with
          | none => .trap (s.syncTrap x 6 off)
          | some k' => .done (s.barChanged x.b.cohort off k')

/-- BINV: the tag goes, waiters wake into SYNC 4, requests in flight become orphans, and parked ones are discarded
(R276, R371). -/
def execBinv (a : Reg) (s : State) : Host.Outcome State Fault Refusal :=
  s.runFrag (plain (regUses .s a false 1 false false)) fun x s =>
    let off := (x.b.sreg a.toNat).toNat
    let c := x.b.cohort
    if Fmt.isAbsent .n64 off then .done s
    else
      match s.barTrap x .write false off with
      | some t => .trap t
      | none =>
        let s := (s.putBar c off { s.bar c off with st := 0 }).wakeBar c off 3
        let mine := fun r : Req => r.cohort == c && r.barrier == off
        let s := { s with
          reqs := (s.reqs.filter fun r => !(mine r && r.parked)).map fun r => if mine r then { r with orphan := true } else r }
        match s.cohort? c with
        | none => .done s
        | some k => .done (s.setCohort { k with tags := k.tags.filter fun t => t != off / 32 })

/-! ### BWAIT, BTEST (R277, R278, R434, R453) -/

/-- Box offsets of the first element of a burst. -/
def TMap.burstBox (m : TMap) (k : Nat) : List Nat :=
  match m.piece k with
  | .row r lo _ => m.offsets r (m.firstElem lo)
  | .scales lo _ => m.offsets (lo / m.rowScales) (32 * (lo % m.rowScales))

/-- ENGINE trap of a faulted barrier (R410, R453). -/
def State.engineTrap (s : State) (x : Frag) (off : Nat) : Trap :=
  let b := s.bar x.b.cohort off
  let r := s.reqs.find? fun r => r.cohort == x.b.cohort && r.barrier == off && r.parked && r.fault.isSome
  let idx := b.fault % 2 ^ 16
  let e := match r with
    | some r => if idx == 0xFFFF then [] else (TMap.ofBytes r.map).burstBox idx
    | none => []
  let byte := fun d => e.getD d 0 % 256
  { group := gENGINE, code := b.fault / 2 ^ 24, lanes := none, x := b.fault
    y := byte 0 + 256 * byte 1 + 2 ^ 16 * byte 2 + 2 ^ 24 * byte 3
    z := ((r.map (·.counted)).getD 0) % 2 ^ 24 + 2 ^ 24 * byte 4 }

/-- A pending REPLAY mark on a barrier that meets a beam, which has not acquired the phase, and the cohort without it (R434).
DEDUCED: log entry 44. -/
def State.markOn (s : State) (c : CohortKey) (off bid : Nat) : Option (Cohort × Trap) :=
  match s.cohort? c with
  | none => none
  | some k =>
    (k.marks.find? fun m => m.off == off && !m.acquired.contains bid).map fun m =>
      ({ k with marks := k.marks.erase m },
       { group := gREPLAY, code := m.code, lanes := none, x := m.logged, y := m.pos, z := off })

/-- The REPLAY trap of a BWAIT: raising it clears the mark (R434); while an earlier result of the beam depends on an answer
from outside it is not raised yet (R406). -/
def State.replayTrap (s : State) (x : Frag) (off : Nat) (go : Res) : Res :=
  match s.markOn x.b.cohort off x.b.id with
  | some (k, t) =>
    if x.b.trap.isNone && s.owed x.b.key then .stay s else .stay ((s.setCohort k).trapEntry x.b.key x.e x.pc x.words t)
  | none => go

/-- BWAIT completes with a phase: it acquires it and writes it (R277). -/
def State.bwaitEnds (s : State) (x : Frag) (d : Reg) (off phase : Nat) : Res :=
  .done ((s.setBeam (x.putS d phase)).acquirePhase x.b.key off)

/-- BWAIT at its first issue, or woken without a decision: R253, then the order of R277. -/
def State.bwaitCheck (s : State) (x : Frag) (d a : Reg) (off : Nat) : Res :=
  s.onBar x .read off fun b =>
    if b.st == 2 then .trap (s.engineTrap x off)
    else
      s.replayTrap x off
        (if b.phase != ((x.b.sreg d.toNat).toNat) % 2 then s.bwaitEnds x d off b.phase
         else
           .stay (s.sleep x { kind := .bwait, ins := .bwait d a, words := x.words, waited := 0, rem := none
                              woken := false, aux := off }))

/-- BWAIT (R277). -/
def execBwait (d a : Reg) (s : State) : Host.Outcome State Fault Refusal :=
  s.runFrag { priv := false, noGlint := true, uses := dstS d ++ regUses .s a false 1 false false } fun x s =>
    let off := (x.b.sreg a.toNat).toNat
    match x.entry.wait with
    | some w =>
      let at_ := w.aux % 2 ^ 32
      let code := w.aux / 2 ^ 32
      if w.kind != .bwait then s.bwaitCheck x d a off
      else if !w.woken then .stay s
      else if code == 3 then .trap (s.syncTrap x 4 at_)
      else if code == 0 then s.bwaitCheck x d a at_
      else s.replayTrap x at_ (s.bwaitEnds x d at_ (code - 1))
    | none =>
      if Fmt.isAbsent .n64 off then s.beamDone (x.putS d (Fmt.absent .n64)) else s.bwaitCheck x d a off

/-- BTEST (R278): a flipped phase is acquired, and a read of STATE orphaned clears the core's orphan log of the granule and arms the barrier. -/
def execBtest (d a : Reg) (s : State) : Host.Outcome State Fault Refusal :=
  s.runFrag (plain (dstS d ++ regUses .s d false 0 false false ++ regUses .s a false 1 false false)) fun x s =>
    let off := (x.b.sreg a.toNat).toNat
    if Fmt.isAbsent .n64 off then s.beamDone (x.putS d (Fmt.absent .n64))
    else
      s.onBar x .read off fun b =>
        let flipped := b.phase != ((x.b.sreg d.toNat).toNat) % 2 && (b.st == 1 || b.st == 3)
        let s := s.setBeam (x.putS d b.word)
        let s := if flipped then s.acquirePhase x.b.key off else s
        if b.st == 3 then
          let c := x.b.cohort
          .done ((s.putBar c off { b with st := 1 }).modCore x.core fun k =>
            { k with orphans := k.orphans.filter fun o => !(o.cohort == c && o.off == off) })
        else .done s

end Sys2Proof.Machine
end

