-- ==== Sys2Proof/Machine/Digest.lean ====
section
/-! DEFINITION. SM3 and SM2, the digest and the signature that the boot ROM, the identity and SPDM use (R438 to R442). The spec
names the two algorithms; their contents are those of GB/T 32905 and GB/T 32918. PRESUMED: log entry 7. -/

namespace Sys2Proof.Machine

/-! ### Byte order of the two standards -/

/-- The number that bytes hold, highest first. -/
def beNat (bs : List Byte) : Nat := bs.foldl (fun acc b => acc * 256 + b.toNat) 0

/-- The `n` bytes of a number, highest first. -/
def natBe (n x : Nat) : List Byte := (List.range n).map fun k => BitVec.ofNat 8 (x / 256 ^ (n - 1 - k))

/-! ### SM3 -/

def rotl (x : Word) (n : Nat) : Word := x.rotateLeft n

/-- P0 and P1. -/
def sm3P0 (x : Word) : Word := x ^^^ rotl x 9 ^^^ rotl x 17
def sm3P1 (x : Word) : Word := x ^^^ rotl x 15 ^^^ rotl x 23

/-- The constant of round `j`, rotated. -/
def sm3T (j : Nat) : Word := rotl (if j < 16 then 0x79CC4519 else 0x7A879D8A) (j % 32)

/-- FF and GG of round `j`. -/
def sm3FF (j : Nat) (x y z : Word) : Word := if j < 16 then x ^^^ y ^^^ z else (x &&& y) ||| (x &&& z) ||| (y &&& z)
def sm3GG (j : Nat) (x y z : Word) : Word := if j < 16 then x ^^^ y ^^^ z else (x &&& y) ||| (~~~x &&& z)

/-- The padded message: a one bit, zeros, and the length in bits. -/
def sm3Pad (bs : List Byte) : List Byte :=
  bs ++ 0x80 :: List.replicate ((119 - bs.length % 64) % 64) 0 ++ natBe 8 (8 * bs.length)

/-- The 68 words of a block's expansion. -/
def sm3Expand (block : List Byte) : List Word :=
  (List.range 52).foldl (fun (w : List Word) j =>
    let at_ := fun k => w.getD (j + 16 - k) 0
    w ++ [sm3P1 (at_ 16 ^^^ at_ 9 ^^^ rotl (at_ 3) 15) ^^^ rotl (at_ 13) 7 ^^^ at_ 6])
    ((List.range 16).map fun k => BitVec.ofNat 32 (beNat ((block.drop (4 * k)).take 4)))

/-- One round over the registers A to H. -/
def sm3Round (w : List Word) (v : List Word) (j : Nat) : List Word :=
  let r := fun k => v.getD k 0
  let a12 := rotl (r 0) 12
  let ss1 := rotl (a12 + r 4 + sm3T j) 7
  let tt1 := sm3FF j (r 0) (r 1) (r 2) + r 3 + (ss1 ^^^ a12) + (w.getD j 0 ^^^ w.getD (j + 4) 0)
  let tt2 := sm3GG j (r 4) (r 5) (r 6) + r 7 + ss1 + w.getD j 0
  [tt1, r 0, rotl (r 1) 9, r 2, sm3P0 tt2, r 4, rotl (r 5) 19, r 6]

/-- One block. -/
def sm3Block (v : List Word) (block : List Byte) : List Word :=
  let w := sm3Expand block
  List.zipWith (· ^^^ ·) ((List.range 64).foldl (sm3Round w) v) v

/-- The digest of a byte string. PRESUMED: log entry 67. -/
def sm3 (bs : List Byte) : List Byte :=
  let p := sm3Pad bs
  let iv : List Word := [0x7380166F, 0x4914B2B9, 0x172442D7, 0xDA8A0600, 0xA96F30BC, 0x163138AA, 0xE38DEE4D, 0xB0FB0E4E]
  ((List.range (p.length / 64)).foldl (fun v k => sm3Block v ((p.drop (64 * k)).take 64)) iv).flatMap fun x => natBe 4 x.toNat

/-! ### SM2 on its P256 curve -/

def sm2P : Nat := 0xFFFFFFFEFFFFFFFFFFFFFFFFFFFFFFFFFFFFFFFF00000000FFFFFFFFFFFFFFFF
def sm2A : Nat := sm2P - 3
def sm2B : Nat := 0x28E9FA9E9D9F5E344D5A9E4BCF6509A7F39789F515AB8F92DDBCBD414D940E93
def sm2N : Nat := 0xFFFFFFFEFFFFFFFFFFFFFFFFFFFFFFFF7203DF6B21C6052B53BBF40939D54123
def sm2G : Nat × Nat :=
  (0x32C4AE2C1F1981195F9904466A39C9948FE30BBFF2660BE1715A4589334C74C7,
   0xBC3736A2F4F6779C59BDCEE36B692153D0A9877CC62A474002DF32E52139F0A0)

/-- Power by the lowest `fuel` bits of the exponent. -/
def powMod (m : Nat) : Nat → Nat → Nat → Nat
  | 0, _, _ => 1
  | fuel + 1, b, e => (if e % 2 == 1 then b else 1) * powMod m fuel (b * b % m) (e / 2) % m

/-- The inverse modulo a prime below 2^256. -/
def invMod (m x : Nat) : Nat := powMod m 256 (x % m) (m - 2)

/-- Differences modulo a number. -/
def subMod (m x y : Nat) : Nat := (x % m + m - y % m) % m

/-- The sum of two points; none is the point at infinity. -/
def sm2Add (u v : Option (Nat × Nat)) : Option (Nat × Nat) :=
  match u, v with
  | none, q => q
  | q, none => q
  | some (x1, y1), some (x2, y2) =>
    if x1 == x2 && (y1 + y2) % sm2P == 0 then none
    else
      let l := if x1 == x2 then (3 * x1 * x1 + sm2A) * invMod sm2P (2 * y1) % sm2P
        else subMod sm2P y2 y1 * invMod sm2P (subMod sm2P x2 x1) % sm2P
      let x := subMod sm2P (l * l) (x1 + x2)
      some (x, subMod sm2P (l * subMod sm2P x1 x) y1)

/-- A multiple of a point by the lowest `fuel` bits of a number. -/
def sm2Mul : Nat → Nat → Option (Nat × Nat) → Option (Nat × Nat)
  | 0, _, _ => none
  | fuel + 1, k, q => sm2Add (if k % 2 == 1 then q else none) (sm2Mul fuel (k / 2) (sm2Add q q))

/-- The public key of a private key: x, then y. PRESUMED: log entry 67. -/
def sm2Public (d : Nat) : List Byte :=
  match sm2Mul 256 (d % sm2N) (some sm2G) with
  | some q => natBe 32 q.1 ++ natBe 32 q.2
  | none => List.replicate 64 0

/-- The user identity of a boot image's signature: "HENAUNOV" (R439). PRESUMED: log entry 67. -/
def vendorIdentity : List Byte := [0x48, 0x45, 0x4E, 0x41, 0x55, 0x4E, 0x4F, 0x56]

/-- What is signed of a message: its digest behind that of the signer's identity, the curve and the public key.
PRESUMED: log entry 67. -/
def sm2Hash (user pub msg : List Byte) : Nat :=
  let z := sm3 (natBe 2 (8 * user.length) ++ user ++ natBe 32 sm2A ++ natBe 32 sm2B ++ natBe 32 sm2G.1 ++ natBe 32 sm2G.2 ++ pub)
  beNat (sm3 (z ++ msg))

/-- Does a signature, r then s, verify? PRESUMED: log entry 67. -/
def sm2Verify (user pub sig msg : List Byte) : Bool :=
  let x := beNat (pub.take 32)
  let y := beNat (pub.drop 32)
  let r := beNat (sig.take 32)
  let s := beNat (sig.drop 32)
  let t := (r + s) % sm2N
  pub.length == 64 && decide (x < sm2P ∧ y < sm2P) && y * y % sm2P == (x * x * x + sm2A * x + sm2B) % sm2P &&
    decide (1 ≤ r ∧ r < sm2N ∧ 1 ≤ s ∧ s < sm2N) && t != 0 &&
    match sm2Add (sm2Mul 256 s (some sm2G)) (sm2Mul 256 t (some (x, y))) with
    | some q => (sm2Hash user pub msg + q.1) % sm2N == r
    | none => false

/-- A signature with a private key and the first of some random numbers that serves; none of the numbers may, and then the
signature is open. PRESUMED: log entry 67. -/
def sm2Sign (user : List Byte) (d : Nat) (msg : List Byte) : List Nat → List Byte
  | [] => List.replicate 64 0
  | k :: ks =>
    match sm2Mul 256 (k % sm2N) (some sm2G) with
    | none => sm2Sign user d msg ks
    | some q =>
      let r := (sm2Hash user (sm2Public d) msg + q.1) % sm2N
      let s := invMod sm2N (1 + d) * subMod sm2N k (r * d) % sm2N
      if r == 0 || (r + k) % sm2N == 0 || s == 0 then sm2Sign user d msg ks else natBe 32 r ++ natBe 32 s

end Sys2Proof.Machine
end

