-- ==== Sys2Proof/Machine/Scalar.lean ====
section
/-! DEFINITION. The scalar and uniform-truth instructions and the two moves between the sides (R168 to R178). -/

namespace Sys2Proof.Machine

/-! ### Results (R170 to R174) -/

/-- A shift of R171: `f` gives the exact result from a and the count; an absent a or count of s64 or n64 gives absent. -/
def scalarShift (t : STy) (f : Int → Nat → Int) (a b : Nat) : Coded :=
  let m := STy.fmt t
  if Fmt.isAbsent m b then (Fmt.absent m, 0) else intElem m (fun v => f (argI v 0) b) [a]

/-- SSHL: a × 2^count; a count past the width behaves as any larger one (R171). -/
def sshlOf (t : STy) (a b : Nat) : Coded := scalarShift t (fun z n => z * 2 ^ min n 128) a b

/-- SSHR of n64 and b64. -/
def sshrOf (t : STy) (a b : Nat) : Coded := scalarShift t (fun z n => z / 2 ^ min n 128) a b

/-- SSAR: the pattern read as two's complement, divided towards −∞. -/
def ssarOf (t : STy) (a b : Nat) : Coded :=
  let m := STy.fmt t
  if Fmt.isAbsent m a || Fmt.isAbsent m b then (Fmt.absent m, 0) else (pattern 64 (sext 64 a / 2 ^ min b 128), 0)

/-- SBFE (R172). -/
def sbfeOf (t : STy) (a b : Nat) : Coded :=
  let m := STy.fmt t
  let len := min (bits b 8 7) 64
  let x := bits a (bits b 0 6) len
  if Fmt.isAbsent m a then (Fmt.absent m, 0)
  else if len == 0 then (0, 0)
  else if t == .s64 then (pattern 64 (sext len x), 0)
  else (x, 0)

/-- The number of 1 bits. -/
def popCount (n x : Nat) : Nat := ((List.range n).filter fun k => x.testBit k).length

/-- The number of leading 0 bits of an n-bit pattern. -/
def leadZeros (n x : Nat) : Nat := if x % 2 ^ n == 0 then n else n - 1 - Nat.log2 (x % 2 ^ n)

/-- A count of bits as n64; absent of absent (R170). -/
def scalarCount (t : STy) (f : Nat → Nat) (a : Nat) : Coded :=
  if Fmt.isAbsent (STy.fmt t) a then (Fmt.absent .n64, 0) else (f a, 0)

/-- SLEA (R173). -/
def sleaOf (t : STy) (sh a b : Nat) : Coded :=
  if Fmt.isAbsent .n64 a || Fmt.isAbsent (STy.fmt t) b then (Fmt.absent .n64, 0)
  else satCode .n64 (Fmt.int .n64 a + Fmt.int (STy.fmt t) b * 2 ^ sh)

/-! ### Frames -/

/-- A scalar instruction: the registers that it reads beside D, and its result. -/
def State.scalar (s : State) (d : Reg) (uses : List Use) (f : Frag → Coded) : Host.Outcome State Fault Refusal :=
  s.runFrag { priv := false, noGlint := false, uses := dstS d ++ uses } fun x s => s.beamDone (x.putSCoded d (f x))

/-- A scalar instruction of two sources. -/
def State.scalar2 (s : State) (t : STy) (d : Reg) (a : SArg) (b : SArgI) (f : Nat → Nat → Coded) :
    Host.Outcome State Fault Refusal :=
  s.scalar d (SArg.uses 1 a ++ SArgI.uses 2 b) fun x => f (x.sval a) (x.svalI t b)

/-- R170 for an exact operation of two sources. -/
def State.scalarInt (s : State) (t : STy) (d : Reg) (a : SArg) (b : SArgI) (op : Int → Int → Int) :
    Host.Outcome State Fault Refusal :=
  s.scalar2 t d a b fun p q => intElem (STy.fmt t) (fun v => op (argI v 0) (argI v 1)) [p, q]

/-- A bitwise operation on b64. -/
def State.scalarBits (s : State) (d : Reg) (a : SArg) (b : SArgI) (op : Nat → Nat → Nat) :
    Host.Outcome State Fault Refusal :=
  s.scalar2 .b64 d a b fun p q => (op p q, 0)

/-! ### Meanings -/

def execSmov (t : STy) (d : Reg) (a : SArgI) (s : State) : Host.Outcome State Fault Refusal :=
  s.scalar d (SArgI.uses 1 a) fun x => (x.svalI t a, 0)

def execSmovi (d : Reg) (a : SArg) (w : Word) (s : State) : Host.Outcome State Fault Refusal :=
  s.scalar d (SArg.uses 1 a) fun x => (x.sval a % 2 ^ 32 * 2 ^ 32 + w.toNat, 0)

def execSadd (t : STy) (d : Reg) (a : SArg) (b : SArgI) (s : State) : Host.Outcome State Fault Refusal :=
  s.scalarInt t d a b (· + ·)

def execSsub (t : STy) (d : Reg) (a : SArg) (b : SArgI) (s : State) : Host.Outcome State Fault Refusal :=
  s.scalarInt t d a b (· - ·)

def execSmul (t : STy) (d : Reg) (a : SArg) (b : SArgI) (s : State) : Host.Outcome State Fault Refusal :=
  s.scalarInt t d a b (· * ·)

def execSmad (t : STy) (d : Reg) (a : SArg) (b : SArgI) (c : SArg) (s : State) : Host.Outcome State Fault Refusal :=
  s.scalar d (SArg.uses 1 a ++ SArgI.uses 2 b ++ SArg.uses 3 c) fun x =>
    intElem (STy.fmt t) (fun v => argI v 0 * argI v 1 + argI v 2) [x.sval a, x.svalI t b, x.sval c]

def execSand (d : Reg) (a : SArg) (b : SArgI) (s : State) : Host.Outcome State Fault Refusal :=
  s.scalarBits d a b (· &&& ·)

def execSor (d : Reg) (a : SArg) (b : SArgI) (s : State) : Host.Outcome State Fault Refusal :=
  s.scalarBits d a b (· ||| ·)

def execSxor (d : Reg) (a : SArg) (b : SArgI) (s : State) : Host.Outcome State Fault Refusal :=
  s.scalarBits d a b (· ^^^ ·)

def execSshl (t : STy) (d : Reg) (a : SArg) (b : SArgI) (s : State) : Host.Outcome State Fault Refusal :=
  s.scalar2 t d a b (sshlOf t)

def execSshr (t : STy) (d : Reg) (a : SArg) (b : SArgI) (s : State) : Host.Outcome State Fault Refusal :=
  s.scalar2 t d a b (sshrOf t)

def execSsar (t : STy) (d : Reg) (a : SArg) (b : SArgI) (s : State) : Host.Outcome State Fault Refusal :=
  s.scalar2 t d a b (ssarOf t)

def execSmin (t : STy) (d : Reg) (a : SArg) (b : SArgI) (s : State) : Host.Outcome State Fault Refusal :=
  s.scalarInt t d a b (fun p q => if p ≤ q then p else q)

def execSmax (t : STy) (d : Reg) (a : SArg) (b : SArgI) (s : State) : Host.Outcome State Fault Refusal :=
  s.scalarInt t d a b (fun p q => if p ≤ q then q else p)

/-- SCMP writes a uniform truth register under R86 (R174). -/
def execScmp (c : Cmp) (t : STy) (d : Reg) (a : SArg) (b : SArgI) (s : State) : Host.Outcome State Fault Refusal :=
  s.runFrag { priv := false, noGlint := false, uses := dstK d ++ SArg.uses 1 a ++ SArgI.uses 2 b } fun x s =>
    s.beamDone (x.b.putK x.lead d.toNat (compareElem (STy.fmt t) c (x.sval a) (x.svalI t b)).code)

def execSsel (t : STy) (d : Reg) (a : SArg) (b : SArgI) (k : Reg) (s : State) : Host.Outcome State Fault Refusal :=
  s.scalar d (SArg.uses 1 a ++ SArgI.uses 2 b ++ regUses .k k false 3 false false) fun x =>
    match Tri.ofCode (x.b.kreg k.toNat) with
    | .t => (x.sval a, 0)
    | .f => (x.svalI t b, 0)
    | .u => (Fmt.absent (STy.fmt t), 0)

def execSlea (sh : BitVec 3) (t : STy) (d : Reg) (a : SArg) (b : SArgI) (s : State) : Host.Outcome State Fault Refusal :=
  s.scalar2 t d a b (sleaOf t sh.toNat)

def execSbfe (t : STy) (d : Reg) (a : SArg) (b : SArgI) (s : State) : Host.Outcome State Fault Refusal :=
  s.scalar2 t d a b (sbfeOf t)

def execSpopc (t : STy) (d : Reg) (a : SArgI) (s : State) : Host.Outcome State Fault Refusal :=
  s.scalar d (SArgI.uses 1 a) fun x => scalarCount t (popCount 64) (x.svalI t a)

def execSclz (t : STy) (d : Reg) (a : SArgI) (s : State) : Host.Outcome State Fault Refusal :=
  s.scalar d (SArgI.uses 1 a) fun x => scalarCount t (leadZeros 64) (x.svalI t a)

/-- KLOG (R175); `.not` reads kA alone. -/
def execKlog (op : LogOp) (d a b : Reg) (s : State) : Host.Outcome State Fault Refusal :=
  s.runFrag { priv := false, noGlint := false
              uses := dstK d ++ regUses .k a false 1 false false ++
                (if op == .not then [] else regUses .k b false 2 false false) } fun x s =>
    s.beamDone (x.b.putK x.lead d.toNat
      (LogOp.apply op (Tri.ofCode (x.b.kreg a.toNat)) (Tri.ofCode (x.b.kreg b.toNat))).code)

def execSfill (t : STy) (d : Reg) (a : SArg) (b : SArgI) (s : State) : Host.Outcome State Fault Refusal :=
  s.scalar2 t d a b fun p q => (if Fmt.isAbsent (STy.fmt t) p then q else p, 0)

/-- STOV broadcasts the value of R111 to the active lanes (R177). -/
def execStov (t : Ty) (d : Reg) (a : SArg) (s : State) : Host.Outcome State Fault Refusal :=
  s.runFrag { priv := false, noGlint := false, uses := dstV t d ++ SArg.uses 1 a } fun x s =>
    let c := scalarOperand t (x.sval a)
    s.beamDone ((x.putV t.wide d.toNat fun _ => c.1).raise c.2)

/-- The lane that VTOS takes: the lowest active one, or a named active one (R178). -/
def vtosLane (x : Frag) : LaneSel → Option Nat
  | .lead => some x.lead
  | .lane b =>
    let i := x.svalI .n64 b
    if Fmt.isAbsent .n64 i || i ≥ x.w || !x.mask.getLsbD i then none else some i

/-- The registers that a lane choice names. -/
def laneUses : LaneSel → List Use
  | .lead => []
  | .lane b => SArgI.uses 2 b

/-- VTOS is a long-latency producer of sD (R178, R78). A Prism on A applies before the lane is taken. -/
def execVtos (t : Ty) (d : Reg) (a : VArg) (l : LaneSel) (s : State) : Host.Outcome State Fault Refusal :=
  s.runFrag { priv := false, noGlint := false, uses := dstS d ++ VArg.uses t.wide 1 a ++ laneUses l } fun x s =>
    let (f, fl) := x.src t a
    let v := match vtosLane x l with
      | some i => f i
      | none => Ty.absent t
    .done (s.pendS (x.b.raise fl) x.e x.pc x.lead d.toNat (BitVec.ofNat 64 (widen t v)) (0, 0) .other (s.within x.core 4))

end Sys2Proof.Machine
end

