-- ==== Sys2Proof/Machine/Special.lean ====
section
/-! DEFINITION. The special functions (R201, R202): their values to about 2^-40, and results that are free within the bounds
that R201 states. -/

namespace Sys2Proof

/-! ### The functions in fixed point, with 64 fraction bits -/

def fxOne : Nat := 2 ^ 64

/-- π, and 2 / ln 2. -/
def fxPi : Nat := 57952155664616982739
def fxTwoLog2e : Nat := 53226052391377289966

/-- A magnitude m × 2^e. -/
def fxOf (m : Nat) (e : Int) : Nat := if e ≥ -64 then m * 2 ^ (e + 64).toNat else m / 2 ^ (-64 - e).toNat

/-- The product of the roots 2^(2^-k) that the fraction's bits select: 2^f, between 1 and 2. -/
def fxExp2 (f : Nat) : Nat → Nat → Nat → Nat
  | 0, _, acc => acc
  | fuel + 1, root, acc =>
    let r := isqrt (root * fxOne)
    if 2 * f ≥ fxOne then fxExp2 (2 * f - fxOne) fuel r (acc * r / fxOne) else fxExp2 (2 * f) fuel r acc

def exp2Frac (f : Nat) : Nat := fxExp2 f 48 (2 * fxOne) fxOne

/-- Bits of log2 y, of y between 1 and 2, by squaring. -/
def fxLog2 : Nat → Nat → Nat → Nat
  | 0, _, acc => acc
  | fuel + 1, y, acc =>
    let z := y * y / fxOne
    if z ≥ 2 * fxOne then fxLog2 fuel (z / 2) (2 * acc + 1) else fxLog2 fuel z (2 * acc)

/-- sin of an angle of at most π/2, by its series. -/
def fxSeries (q : Nat) : Nat → Nat → Int → Int
  | 0, _, _ => 0
  | fuel + 1, k, term => term + fxSeries q fuel (k + 2) (-(term * q / fxOne / ((k + 1) * (k + 2) : Nat)))

def fxSin (t : Nat) : Nat :=
  let a := t * fxPi / fxOne
  (fxSeries (a * a / fxOne) 16 1 a).toNat

/-- sin(π t) for a number of half turns t: its sign and its magnitude. -/
def sinTurns (t : Nat) : Bool × Nat :=
  let t := t % (2 * fxOne)
  let neg := decide (fxOne ≤ t)
  let t := if neg then t - fxOne else t
  (neg, fxSin (if 2 * t > fxOne then fxOne - t else t))

/-- tanh of a magnitude, which lies below the magnitude and below 1: so its unit in the last place is that of its own binade.
DESIGN CHOICE: log entry 6. -/
def tanhNum (neg : Bool) (m : Nat) (e : Int) : Num :=
  if Nat.log2 m + e < -12 then .fin neg (m * (fxOne - 1 - fxOf (m * m) (2 * e) / 3)) (e - 64)
  else if Nat.log2 m + e ≥ 5 then .fin neg (fxOne - 1) (-64)
  else
    let z := fxOf m e * fxTwoLog2e / fxOne
    let c := exp2Frac (fxOne - 1 - z % fxOne) / 2 ^ (z / fxOne + 1)
    .fin neg (min (fxOne - 1) ((fxOne - c) * fxOne / (fxOne + c))) (-64)

/-- The value of a function at a finite operand, to about 2^-40. DESIGN CHOICE: log entry 6. -/
def specialNum (fn : SFn) (neg : Bool) (m : Nat) (e : Int) : Num :=
  match fn with
  | .rsq =>
    match recipSticky false m e with
    | .fin _ q k => sqrtSticky q k
    | x => x
  | .exp2 =>
    let z := fxOf m e
    if Nat.log2 m + e ≥ 9 then .fin false 1 (if neg then -400 else 400)
    else if neg then .fin false (exp2Frac (fxOne - 1 - z % fxOne)) (-65 - (z / fxOne : Nat))
    else .fin false (exp2Frac (z % fxOne)) (-64 + (z / fxOne : Nat))
  | .log2 =>
    let n := Nat.log2 m
    let v : Int := (n + e) * 2 ^ 48 + (fxLog2 48 (fxOf m (-n)) 0 : Nat)
    .fin (decide (v < 0)) v.natAbs (-48)
  | .sin =>
    if Nat.log2 m + e < -20 then .fin neg (m * fxPi) (e - 64)
    else
    let r := sinTurns (fxOf (m % 2 ^ (1 - e).toNat) e)
    .fin (r.1 != neg) (if isHalfOdd m e then fxOne else r.2) (-64)
  | .cos =>
    let r := sinTurns (fxOf (m % 2 ^ (1 - e).toNat) e + fxOne / 2)
    .fin r.1 r.2 (-64)
  | .tanh => tanhNum neg m e
  | .rcp | .sqrt => .fin neg m e

/-! ### The bounds of R201 -/

/-- Exponent of the unit in the last place at a value. -/
def ulpExp (p : FloatFmt) : Num → Int
  | .fin _ m e => if m == 0 then 1 - p.bias - p.mb else max (Nat.log2 m + e) (1 - p.bias) - p.mb
  | _ => 1 - p.bias - p.mb

/-- The absolute bound that applies beside the units in the last place, by its exponent: only of .f32. -/
def absBound (fn : SFn) (m : Nat) (e : Int) : Option Int :=
  match fn with
  | .log2 => if Nat.log2 m + e == -1 || Nat.log2 m + e == 0 then some (-22) else none
  | .sin | .cos => some (-24)
  | _ => none

/-- How far from its value a function's result may lie: 1 or 2 units in the last place, or the absolute bound where it is
larger, with 2^-20 of a unit for the error of `specialNum`. DESIGN CHOICE: log entry 6. -/
def specialBound (fn : SFn) (f : Fmt) (p : FloatFmt) (y : Num) (m : Nat) (e : Int) : Num :=
  let u := ulpExp p y
  let n := if f == .f32 && fn != .rsq then u + 1 else u
  let n := match absBound fn m e with
    | some k => if f == .f32 then max n k else n
    | none => n
  (sumExact false [.fin false 1 n, .fin false 1 (u - 20)]).1

/-- Codes in the order of their values; −0 comes just before +0. -/
def codeKey (p : FloatFmt) (c : Nat) : Int :=
  if c ≥ signBit p true then -1 - ((c - signBit p true : Nat) : Int) else (c : Nat)

def keyCode (p : FloatFmt) (k : Int) : Nat := if k < 0 then signBit p true + (-1 - k).toNat else k.toNat

/-- A finite code within R201's bound of the function's value, free of what the spec does not fix (R202).
DESIGN CHOICE: log entry 6. -/
def freeFinite (fn : SFn) (t : Ty) (x : Nat) (neg : Bool) (m : Nat) (e : Int) : Nat :=
  let f := Ty.fmt t
  match Fmt.float? f with
  | some p =>
    let y := specialNum fn neg m e
    let d := specialBound fn f p y m e
    let lo := codeKey p (roundNum f .ru false (sumExact false [y, d.neg]).1).1
    let hi := codeKey p (roundNum f .rd false (sumExact false [y, d]).1).1
    keyCode p (if lo ≤ hi then lo + ((Config.special fn.code t x % (hi - lo + 1).toNat : Nat) : Int) else hi)
  | none => 0

/-- One element of a special function: the results that R201 fixes, and elsewhere a free value within its bounds. -/
def specialElem (fn : SFn) (t : Ty) (mode : Rnd) (x : Nat) : Coded :=
  let f := Ty.fmt t
  match Fmt.value f x with
  | .absent => (Fmt.absent f, 0)
  | .nan => (Fmt.nan f, 0)
  | .inf neg =>
    match fn with
    | .rcp => roundNum f mode false (.fin neg 0 0)
    | .rsq => if neg then (Fmt.nan f, INV) else roundNum f mode false (.fin false 0 0)
    | .sqrt => if neg then (Fmt.nan f, INV) else (x, 0)
    | .exp2 => if neg then roundNum f mode false (.fin false 0 0) else (x, 0)
    | .log2 => if neg then (Fmt.nan f, INV) else (x, 0)
    | .sin | .cos => (Fmt.nan f, INV)
    | .tanh => roundNum f mode false (.fin neg 1 0)
  | .fin neg m e =>
    let free : Coded := (freeFinite fn t x neg m e, 0)
    match fn with
    | .rcp => roundNum f mode false (if m == 0 then .inf neg else recipSticky neg m e)
    | .rsq =>
      if m == 0 then roundNum f mode false (.inf neg) else if neg then (Fmt.nan f, INV) else free
    | .sqrt =>
      if m == 0 then (x, 0) else if neg then (Fmt.nan f, INV) else roundNum f mode false (sqrtSticky m e)
    | .exp2 =>
      let z := intOf neg m e
      if z ≥ 200 then roundNum f .rn false (.inf false)
      else if isIntegral m e && z ≥ -200 then
        let (c, fl) := roundNum f .rn false (.fin false 1 z)
        if Fmt.value f c == .inf false || (Fmt.value f c).eqv (.fin false 1 z) then (c, fl) else free
      else if (roundNum f .rz false (.fin false 1 (z + 1))).1 == Fmt.maxFinite f && z ≥ 0 &&
          !((Fmt.value f (roundNum f .rz false (.fin false 1 z)).1).eqv (.fin false 1 z)) then
        roundNum f .rn false (.inf false)
      else free
    | .log2 =>
      if m == 0 then roundNum f mode false (.inf true)
      else if neg then (Fmt.nan f, INV)
      else if m == 2 ^ Nat.log2 m then roundNum f .rn false (Num.ofInt (Nat.log2 m + e))
      else free
    | .sin => if isIntegral m e then roundNum f mode false (.fin neg 0 0) else free
    | .cos =>
      if isHalfOdd m e then roundNum f mode false (.fin false 0 0)
      else if isIntegral m e then roundNum f mode false (.fin (intOf neg m e % 2 != 0) 1 0)
      else free
    | .tanh => if m == 0 then (x, 0) else free

end Sys2Proof
end

