-- ==== Sys2Proof/Machine/Vector.lean ====
section
/-! DEFINITION. The vector integer and floating-point instructions and the conversions (R180 to R205). -/

namespace Sys2Proof.Machine

/-! ### Frames (R180) -/

/-- A lane-by-lane instruction of one source. -/
def State.vec1 (s : State) (dw : Bool) (t : Ty) (d : Reg) (a : VArgI) (f : Nat → Coded) :
    Host.Outcome State Fault Refusal :=
  s.runFrag { priv := false, noGlint := false, uses := regUses .v d dw 0 true false ++ VArgI.uses t.wide 1 a }
    fun x s =>
      let p := x.srcI t a
      s.beamDone (x.putCoded dw d p.2 fun i => f (p.1 i))

/-- A lane-by-lane instruction of two sources of types ta and tb. -/
def State.vec2 (s : State) (dw : Bool) (ta tb : Ty) (d : Reg) (a : VArg) (b : VArgI) (f : Nat → Nat → Coded) :
    Host.Outcome State Fault Refusal :=
  s.runFrag { priv := false, noGlint := false
              uses := regUses .v d dw 0 true false ++ VArg.uses ta.wide 1 a ++ VArgI.uses tb.wide 2 b }
    fun x s =>
      let p := x.src ta a
      let q := x.srcI tb b
      s.beamDone (x.putCoded dw d (p.2 ||| q.2) fun i => f (p.1 i) (q.1 i))

/-- A lane-by-lane instruction of three sources. -/
def State.vec3 (s : State) (dw : Bool) (ta tb tc : Ty) (d : Reg) (a : VArg) (b : VArgI) (c : VArg)
    (f : Nat → Nat → Nat → Coded) : Host.Outcome State Fault Refusal :=
  s.runFrag { priv := false, noGlint := false
              uses := regUses .v d dw 0 true false ++ VArg.uses ta.wide 1 a ++ VArgI.uses tb.wide 2 b ++
                VArg.uses tc.wide 3 c }
    fun x s =>
      let p := x.src ta a
      let q := x.srcI tb b
      let r := x.src tc c
      s.beamDone (x.putCoded dw d (p.2 ||| q.2 ||| r.2) fun i => f (p.1 i) (q.1 i) (r.1 i))

/-- A comparison of two sources into a lane truth register (R190, R197). -/
def State.vecCmp (s : State) (c : Cmp) (t : Ty) (d : Reg) (a : VArg) (b : VArgI) : Host.Outcome State Fault Refusal :=
  s.runFrag { priv := false, noGlint := false, uses := dstC d ++ useAB t a b } fun x s =>
    let p := x.src t a
    let q := x.srcI t b
    s.beamDone (x.putTri d (p.2 ||| q.2) fun i => compareElem (Ty.fmt t) c (p.1 i) (q.1 i))

/-- R187 for an exact integer operation on every element. -/
def intLane (t : Ty) (op : List Int → Int) (xs : List Nat) : Coded := mapElems t (intElem (Ty.fmt t) op) xs

def State.int1 (s : State) (t : Ty) (d : Reg) (a : VArgI) (op : Int → Int) : Host.Outcome State Fault Refusal :=
  s.vec1 t.wide t d a fun p => intLane t (fun v => op (argI v 0)) [p]

def State.int2 (s : State) (t : Ty) (d : Reg) (a : VArg) (b : VArgI) (op : Int → Int → Int) :
    Host.Outcome State Fault Refusal :=
  s.vec2 t.wide t t d a b fun p q => intLane t (fun v => op (argI v 0) (argI v 1)) [p, q]

/-- A bitwise operation on b types. -/
def State.bits2 (s : State) (t : Ty) (d : Reg) (a : VArg) (b : VArgI) (op : Nat → Nat → Nat) :
    Host.Outcome State Fault Refusal :=
  s.vec2 t.wide t t d a b fun p q => (op p q, 0)

/-- R195 for an exact float operation on every element. -/
def State.float2 (s : State) (t : Ty) (r : Rnd) (d : Reg) (a : VArg) (b : VArgI) (op : Num → Num → Num × Bool) :
    Host.Outcome State Fault Refusal :=
  s.vec2 t.wide t t d a b fun p q => mapElems t (floatElem (Ty.fmt t) r fun v => op (arg v 0) (arg v 1)) [p, q]

/-! ### Integer results -/

/-- The type of a shift count or of a bit-field word: one register, n32 or raw (R188, R189). -/
def countTy (t : Ty) : Ty := if Ty.raw t then .b32 else .n32

/-- A shift of R188: an absent operand or count of an s or n type gives absent. -/
def laneShift (t : Ty) (f : Int → Nat → Int) (a n : Nat) : Coded :=
  if !Ty.raw t && Fmt.isAbsent .n32 n then (Ty.absent t, 0) else intElem (Ty.fmt t) (fun v => f (argI v 0) n) [a]

def shlLane (t : Ty) (a n : Nat) : Coded := laneShift t (fun z k => z * 2 ^ min k 128) a n
def shrLane (t : Ty) (a n : Nat) : Coded := laneShift t (fun z k => z / 2 ^ min k 128) a n

/-- SAR divides the two's complement value towards −∞ (R171). -/
def sarLane (t : Ty) (a n : Nat) : Coded :=
  if !Ty.raw t && (Fmt.isAbsent .n32 n || Fmt.isAbsent (Ty.fmt t) a) then (Ty.absent t, 0)
  else (pattern (Ty.width t) (sext (Ty.width t) a / 2 ^ min n 128), 0)

/-- BFE (R189, R172). -/
def bfeLane (t : Ty) (a b : Nat) : Coded :=
  let n := Ty.width t
  let len := min (bits b 8 7) n
  let x := bits (a % 2 ^ n) (bits b 0 6) len
  if Fmt.isAbsent (Ty.fmt t) a then (Ty.absent t, 0)
  else if len == 0 then (0, 0)
  else if Fmt.signed (Ty.fmt t) then (pattern n (sext len x), 0)
  else (x, 0)

/-- BFI (R189): the low LEN bits of a replace those of c from POS on. -/
def bfiLane (t : Ty) (a b c : Nat) : Coded :=
  let n := Ty.width t
  let pos := bits b 0 6
  let len := min (bits b 8 7) n
  let m := (2 ^ len - 1) * 2 ^ pos % 2 ^ n
  ((c &&& (2 ^ n - 1 - m)) ||| (a * 2 ^ pos % 2 ^ n &&& m), 0)

/-- A count of bits as n32 (R187). -/
def laneCount (t : Ty) (f : Nat → Nat) (a : Nat) : Coded :=
  if Fmt.isAbsent (Ty.fmt t) a then (Fmt.absent .n32, 0) else (f a, 0)

/-- LEA (R191). -/
def leaLane (t : Ty) (sh a b : Nat) : Coded :=
  if Fmt.isAbsent .n64 a || Fmt.isAbsent (Ty.fmt t) b then (Fmt.absent .n64, 0)
  else satCode .n64 (Fmt.int .n64 a + Fmt.int (Ty.fmt t) b * 2 ^ sh)

/-- The 32-bit type whose value IDOT4 sums into (R192). -/
def dotTy (t : Ty) : Ty := if t == .s8x4 then .s32 else .n32

/-- IDOT4 (R192). -/
def idot4Lane (t : Ty) (a b c : Nat) : Coded :=
  let f := Ty.fmt t
  let u := Ty.fmt (dotTy t)
  let as := Ty.elems t a
  let bs := Ty.elems t b
  if as.any (Fmt.isAbsent f) || bs.any (Fmt.isAbsent f) || Fmt.isAbsent u c then (Fmt.absent u, 0)
  else satCode u (((as.zip bs).map fun p => Fmt.int f p.1 * Fmt.int f p.2).foldl (· + ·) (Fmt.int u c))

/-! ### Integer meanings -/

def execIadd (t : Ty) (d : Reg) (a : VArg) (b : VArgI) (s : State) : Host.Outcome State Fault Refusal :=
  s.int2 t d a b (· + ·)
def execIsub (t : Ty) (d : Reg) (a : VArg) (b : VArgI) (s : State) : Host.Outcome State Fault Refusal :=
  s.int2 t d a b (· - ·)
def execImul (t : Ty) (d : Reg) (a : VArg) (b : VArgI) (s : State) : Host.Outcome State Fault Refusal :=
  s.int2 t d a b (· * ·)
def execImad (t : Ty) (d : Reg) (a : VArg) (b : VArgI) (c : VArg) (s : State) : Host.Outcome State Fault Refusal :=
  s.vec3 t.wide t t t d a b c fun p q r => intLane t (fun v => argI v 0 * argI v 1 + argI v 2) [p, q, r]
def execImulh (t : Ty) (d : Reg) (a : VArg) (b : VArgI) (s : State) : Host.Outcome State Fault Refusal :=
  s.int2 t d a b (fun p q => p * q / 2 ^ 32)
def execImin (t : Ty) (d : Reg) (a : VArg) (b : VArgI) (s : State) : Host.Outcome State Fault Refusal :=
  s.int2 t d a b (fun p q => if p ≤ q then p else q)
def execImax (t : Ty) (d : Reg) (a : VArg) (b : VArgI) (s : State) : Host.Outcome State Fault Refusal :=
  s.int2 t d a b (fun p q => if p ≤ q then q else p)
def execIabs (t : Ty) (d : Reg) (a : VArgI) (s : State) : Host.Outcome State Fault Refusal :=
  s.int1 t d a (fun p => (p.natAbs : Int))
def execIneg (t : Ty) (d : Reg) (a : VArgI) (s : State) : Host.Outcome State Fault Refusal :=
  s.int1 t d a (fun p => -p)
def execAnd (t : Ty) (d : Reg) (a : VArg) (b : VArgI) (s : State) : Host.Outcome State Fault Refusal :=
  s.bits2 t d a b (· &&& ·)
def execOr (t : Ty) (d : Reg) (a : VArg) (b : VArgI) (s : State) : Host.Outcome State Fault Refusal :=
  s.bits2 t d a b (· ||| ·)
def execXor (t : Ty) (d : Reg) (a : VArg) (b : VArgI) (s : State) : Host.Outcome State Fault Refusal :=
  s.bits2 t d a b (· ^^^ ·)
def execNot (t : Ty) (d : Reg) (a : VArgI) (s : State) : Host.Outcome State Fault Refusal :=
  s.vec1 t.wide t d a fun p => (2 ^ Ty.width t - 1 - p, 0)
def execShl (t : Ty) (d : Reg) (a : VArg) (b : VArgI) (s : State) : Host.Outcome State Fault Refusal :=
  s.vec2 t.wide t (countTy t) d a b (shlLane t)
def execShr (t : Ty) (d : Reg) (a : VArg) (b : VArgI) (s : State) : Host.Outcome State Fault Refusal :=
  s.vec2 t.wide t (countTy t) d a b (shrLane t)
def execSar (t : Ty) (d : Reg) (a : VArg) (b : VArgI) (s : State) : Host.Outcome State Fault Refusal :=
  s.vec2 t.wide t (countTy t) d a b (sarLane t)
def execBfe (t : Ty) (d : Reg) (a : VArg) (b : VArgI) (s : State) : Host.Outcome State Fault Refusal :=
  s.vec2 t.wide t .b32 d a b (bfeLane t)
def execBfi (t : Ty) (d : Reg) (a : VArg) (b : VArgI) (c : VArg) (s : State) : Host.Outcome State Fault Refusal :=
  s.vec3 t.wide t .b32 t d a b c (bfiLane t)
def execPopc (t : Ty) (d : Reg) (a : VArgI) (s : State) : Host.Outcome State Fault Refusal :=
  s.vec1 false t d a (laneCount t (popCount (Ty.width t)))
def execClz (t : Ty) (d : Reg) (a : VArgI) (s : State) : Host.Outcome State Fault Refusal :=
  s.vec1 false t d a (laneCount t (leadZeros (Ty.width t)))
def execIcmp (c : Cmp) (t : Ty) (d : Reg) (a : VArg) (b : VArgI) (s : State) : Host.Outcome State Fault Refusal :=
  s.vecCmp c t d a b
def execLea (sh : BitVec 3) (t : Ty) (d : Reg) (a : VArg) (b : VArgI) (s : State) : Host.Outcome State Fault Refusal :=
  s.vec2 true .n64 t d a b (leaLane t sh.toNat)
def execIdot4 (t : Ty) (d : Reg) (a : VArg) (b : VArgI) (c : VArg) (s : State) : Host.Outcome State Fault Refusal :=
  s.vec3 false t t (dotTy t) d a b c (idot4Lane t)

/-! ### MOV (R193) -/

/-- The register that a lane of an indexed MOV reads: absent index, a register that the beam lacks, or a register. -/
inductive IdxReg where
  | none_
  | bad (r : Nat)
  | reg (r : Nat)
  deriving DecidableEq, Repr

/-- The source register of one lane of an indexed MOV (R193); in trap mode v240 to v255 are the banked ones, whatever V is
(R79). DEDUCED: log entry 48. -/
def idxReg (b : Beam) (t : Ty) (a : Reg) (i : Nat) : IdxReg :=
  let k := if t.wide then 2 else 1
  let r := a.toNat + k * i
  let has := fun n => b.has { set := .v, r := n, src := 4, dst := false, trap := false }
  if Fmt.isAbsent .n32 i then .none_
  else if has r && (!t.wide || has (r + 1)) then .reg r
  else .bad r

/-- The indexed form: every lane's register is checked before any is read; an empty one blocks, or traps under policy 1.
DEDUCED: log entry 48. -/
def movIdx (t : Ty) (d a : Reg) (ea : Bool) (b : VOp) (x : Frag) (s : State) : Res :=
  let ix := x.vop .n32 b
  let rs := (lanesOf x.mask).map fun i => (i, idxReg x.b t a (ix i))
  let bad := rs.filterMap fun p => match p.2 with | .bad r => some (p.1, r) | _ => none
  let regs := rs.filterMap fun p => match p.2 with | .reg r => some r | _ => none
  let gone := regs.filter fun r => !(x.b.vfullAt r && (!t.wide || x.b.vfullAt (r + 1)))
  match bad, gone with
  | (i, r) :: more, _ =>
    .trap { (Use.fault x.b { set := .v, r := r, src := 4, dst := false, trap := false } 1) with
            lanes := some (maskOf (i :: more.map (·.1))) }
  | [], r :: _ =>
    if ea then .trap (Use.fault x.b { set := .v, r := r, src := 4, dst := false, trap := true } 2) else .stay s
  | [], [] =>
    s.beamDone (x.putV t.wide d.toNat fun i =>
      match idxReg x.b t a (ix i) with
      | .reg r => x.b.vval t.wide r i
      | _ => Ty.absent t)

/-- The registers that the issuing fragment's indexed MOV computes, by their places in the list of ready cycles (R193, R435). -/
def State.idxRead (s : State) (t : Ty) (a : Reg) (b : VOp) : List Nat :=
  match s.frag with
  | none => []
  | some x => (lanesOf x.mask).flatMap fun i =>
      match idxReg x.b t a (x.vop .n32 b i) with
      | .reg r => if t.wide then [r, r + 1] else [r]
      | _ => []

def execMov (t : Ty) (d : Reg) (a : MovSrc) (s : State) : Host.Outcome State Fault Refusal :=
  match a with
  | .plain v => s.vec1 t.wide t d v fun p => (p, 0)
  | .idx a ea b =>
    s.runFrag { priv := false, noGlint := false, early := s.idxRead t a b
                uses := dstV t d ++ [{ set := .v, r := a.toNat, src := 1, dst := false, trap := ea, named := true }] ++
                  VOp.uses false 2 b }
      (movIdx t d a ea b)

/-! ### Floating-point results -/

/-- The class bit of an f32 (R198). -/
def classOf (x : Nat) : Nat :=
  match Fmt.value .f32 x with
  | .absent => Fmt.absent .n32
  | .nan => 2 ^ 8
  | .inf neg => if neg then 1 else 2 ^ 7
  | .fin neg m _ =>
    if m == 0 then (if neg then 2 ^ 3 else 2 ^ 4)
    else if bits x 23 8 == 0 then (if neg then 2 ^ 2 else 2 ^ 5)
    else if neg then 2 ^ 1 else 2 ^ 6

/-- A sum of products and terms rounded to f32 once (R199). -/
def dotF32 (r : Rnd) (prods : List (Num × Num)) (terms : List Num) : Coded :=
  let ins := terms ++ prods.flatMap fun p => [p.1, p.2]
  if ins.any (· == .absent) then (Fmt.absent .f32, 0)
  else
    let ps := prods.map fun p => mulExact p.1 p.2
    let q := sumExact (r == .rd) (ps.map (·.1) ++ terms)
    let c := roundNum .f32 r false q.1
    (c.1, c.2 ||| invFlag (q.2 || ps.any (·.2)) ins)

/-- Element k of a packed operand, as a number. -/
def elemNum (t : Ty) (x k : Nat) : Num := Fmt.value (Ty.fmt t) ((Ty.elems t x).getD k 0)

/-- The lower and upper f32 of a pair. -/
def pairNum (x k : Nat) : Num := Fmt.value .f32 (bits x (32 * k) 32)

/-- Two coded halves as one pair. -/
def joinPair (lo hi : Coded) : Coded := (lo.1 + 2 ^ 32 * hi.1, lo.2 ||| hi.2)

/-- FSCALE of one element (R200). -/
def scaleElem (f : Fmt) (r : Rnd) (n x : Nat) : Coded :=
  if Fmt.isAbsent .s32 n || Fmt.isAbsent f x then (Fmt.absent f, 0)
  else roundNum f r false ((Fmt.value f x).scale (Fmt.int .s32 n))

/-- FRND of one element (R200). -/
def integralElem (f : Fmt) (r : Rnd) (x : Nat) : Coded :=
  match Fmt.value f x with
  | .fin neg m e => ((roundNum f .rn false (.fin neg (roundTo r neg m e 0) 0)).1, 0)
  | .nan => (Fmt.nan f, 0)
  | _ => (x, 0)

/-! ### Floating-point meanings -/

def execFadd (t : Ty) (r : Rnd) (d : Reg) (a : VArg) (b : VArgI) (s : State) : Host.Outcome State Fault Refusal :=
  s.float2 t r d a b fun p q => sumExact (r == .rd) [p, q]
def execFsub (t : Ty) (r : Rnd) (d : Reg) (a : VArg) (b : VArgI) (s : State) : Host.Outcome State Fault Refusal :=
  s.float2 t r d a b fun p q => sumExact (r == .rd) [p, q.neg]
def execFmul (t : Ty) (r : Rnd) (d : Reg) (a : VArg) (b : VArgI) (s : State) : Host.Outcome State Fault Refusal :=
  s.float2 t r d a b mulExact
def execFfma (t : Ty) (r : Rnd) (d : Reg) (a : VArg) (b : VArgI) (c : VArg) (s : State) :
    Host.Outcome State Fault Refusal :=
  s.vec3 t.wide t t t d a b c fun p q u =>
    mapElems t (floatElem (Ty.fmt t) r fun v => fmaExact (r == .rd) (arg v 0) (arg v 1) (arg v 2)) [p, q, u]
def execFmin (t : Ty) (d : Reg) (a : VArg) (b : VArgI) (s : State) : Host.Outcome State Fault Refusal :=
  s.vec2 t.wide t t d a b fun p q => mapElems t (fun v => (floatPick (Ty.fmt t) false (v.getD 0 0) (v.getD 1 0), 0)) [p, q]
def execFmax (t : Ty) (d : Reg) (a : VArg) (b : VArgI) (s : State) : Host.Outcome State Fault Refusal :=
  s.vec2 t.wide t t d a b fun p q => mapElems t (fun v => (floatPick (Ty.fmt t) true (v.getD 0 0) (v.getD 1 0), 0)) [p, q]
def execFcmp (c : Cmp) (d : Reg) (a : VArg) (b : VArgI) (s : State) : Host.Outcome State Fault Refusal :=
  s.vecCmp c .f32 d a b
def execFclass (d : Reg) (a : VArgI) (s : State) : Host.Outcome State Fault Refusal :=
  s.vec1 false .f32 d a fun p => (classOf p, 0)
def execFdot2 (t : Ty) (r : Rnd) (d : Reg) (a : VArg) (b : VArgI) (c : VArg) (s : State) :
    Host.Outcome State Fault Refusal :=
  s.vec3 false t t .f32 d a b c fun p q u =>
    dotF32 r [(elemNum t p 0, elemNum t q 0), (elemNum t p 1, elemNum t q 1)] [Fmt.value .f32 u]
def execPfma (t : Ty) (r : Rnd) (d : Reg) (a : VArg) (b : VArgI) (c : VArg) (s : State) :
    Host.Outcome State Fault Refusal :=
  s.vec3 true t t .b64 d a b c fun p q u =>
    joinPair (dotF32 r [(elemNum t p 0, elemNum t q 0)] [pairNum u 0])
      (dotF32 r [(elemNum t p 1, elemNum t q 1)] [pairNum u 1])

/-- PADD (R199). An immediate as B is extended with zeros, so its upper .f32 is +0 (R114). DESIGN CHOICE: log entry 65. -/
def execPadd (t : Ty) (r : Rnd) (d : Reg) (a : VArg) (b : VArgI) (s : State) : Host.Outcome State Fault Refusal :=
  s.vec2 true t .b64 d a b fun p u =>
    joinPair (dotF32 r [] [elemNum t p 0, pairNum u 0]) (dotF32 r [] [elemNum t p 1, pairNum u 1])
def execFscale (t : Ty) (r : Rnd) (d : Reg) (a : VArg) (b : VArgI) (s : State) : Host.Outcome State Fault Refusal :=
  s.vec2 t.wide t .s32 d a b fun p n => mapElems t (fun v => scaleElem (Ty.fmt t) r n (v.getD 0 0)) [p]
def execFrnd (t : Ty) (r : Rnd) (d : Reg) (a : VArgI) (s : State) : Host.Outcome State Fault Refusal :=
  s.vec1 t.wide t d a fun p => mapElems t (fun v => integralElem (Ty.fmt t) r (v.getD 0 0)) [p]

/-! ### Special functions (R201): long-latency producers -/

/-- A special function: its destination is empty until the results arrive, and its flags are in `status` by then
(R42). -/
def State.special (s : State) (fn : SFn) (t : Ty) (r : Rnd) (d : Reg) (a : VArgI) : Host.Outcome State Fault Refusal :=
  s.runFrag { priv := false, noGlint := false, uses := dstV t d ++ VArgI.uses t.wide 1 a } fun x s =>
    let p := x.srcI t a
    let rs := x.results fun i => mapElems t (fun v => specialElem fn t r (v.getD 0 0)) [p.1 i]
    .done (s.pendV (x.b.raise (p.2 ||| flagsOf rs)) x.e x.pc d.toNat x.mask [rs.map fun c => BitVec.ofNat 32 c.1] (0, 0)
      .special (s.within x.core 16))

def execFrcp (t : Ty) (r : Rnd) (d : Reg) (a : VArgI) (s : State) : Host.Outcome State Fault Refusal := s.special .rcp t r d a
def execFrsq (t : Ty) (d : Reg) (a : VArgI) (s : State) : Host.Outcome State Fault Refusal := s.special .rsq t .rn d a
def execFsqrt (t : Ty) (r : Rnd) (d : Reg) (a : VArgI) (s : State) : Host.Outcome State Fault Refusal := s.special .sqrt t r d a
def execFexp2 (t : Ty) (d : Reg) (a : VArgI) (s : State) : Host.Outcome State Fault Refusal := s.special .exp2 t .rn d a
def execFlog2 (t : Ty) (d : Reg) (a : VArgI) (s : State) : Host.Outcome State Fault Refusal := s.special .log2 t .rn d a
def execFsin (t : Ty) (d : Reg) (a : VArgI) (s : State) : Host.Outcome State Fault Refusal := s.special .sin t .rn d a
def execFcos (t : Ty) (d : Reg) (a : VArgI) (s : State) : Host.Outcome State Fault Refusal := s.special .cos t .rn d a
def execFtanh (t : Ty) (d : Reg) (a : VArgI) (s : State) : Host.Outcome State Fault Refusal := s.special .tanh t .rn d a

/-! ### Conversions -/

/-- CVT of one value (R203); a NaN becomes the canonical one also where both types are .f32 (R24, R38). -/
def cvtLane (dt st : Ty) (r : Rnd) (a : Nat) : Coded :=
  if Ty.raw dt || Ty.raw st then (a % 2 ^ Ty.width dt, 0)
  else
    let v := Fmt.value (Ty.fmt st) a
    roundNum (Ty.fmt dt) r false v

def execCvt (dt st : Ty) (r : Rnd) (d : Reg) (a : VArgI) (s : State) : Host.Outcome State Fault Refusal :=
  s.vec1 dt.wide st d a (cvtLane dt st r)

/-- Replace element j of width n in a 32-bit word. -/
def putElem (n j w x : Nat) : Nat := w - bits w (n * j) n * 2 ^ (n * j) + x % 2 ^ n * 2 ^ (n * j)

/-- The elements that PACK writes: place of the first (R204). -/
def packPlace (f : Fmt) (p : BitVec 2) : Nat := 2 * (if Fmt.width f == 16 then 0 else p.toNat)

/-- PACK of one lane, from the register's old word (R204). -/
def packLane (f : Fmt) (sat : Bool) (t : Ty) (p : BitVec 2) (r : Rnd) (w a b : Nat) : Coded :=
  let n := Fmt.width f
  let j := packPlace f p
  let c0 := roundNum f r sat (Fmt.value (Ty.fmt t) a)
  let c1 := roundNum f r sat (Fmt.value (Ty.fmt t) b)
  (putElem n (j + 1) (putElem n j w c0.1) c1.1, c0.2 ||| c1.2)

def execPack (f : Fmt) (sat : Bool) (t : Ty) (p : BitVec 2) (r : Rnd) (d : Reg) (a : VArg) (b : VArgI) (s : State) :
    Host.Outcome State Fault Refusal :=
  s.runFrag { priv := false, noGlint := false, uses := dstV t d ++ useAB t a b } fun x s =>
    let u := x.src t a
    let v := x.srcI t b
    s.beamDone (x.putCoded false d (u.2 ||| v.2) fun i =>
      packLane f sat t p r (x.b.vl d.toNat i).toNat (u.1 i) (v.1 i))

/-- A word whose every element is the absent code of a format. -/
def absentWord (f : Fmt) : Nat :=
  ((List.range (32 / Fmt.width f)).map fun k => Fmt.absent f * 2 ^ (Fmt.width f * k)).foldl (· + ·) 0

/-- The word that UNPK reads in a lane: a missing Prism lane holds the absent code in every element (R88, R205); a scalar
source gives its bits [31:0] as they stand (R111). DESIGN CHOICE: log entry 65. -/
def Frag.unpkSrc (x : Frag) (f : Fmt) : VArgI → Nat → Nat
  | .reg (.v r p _) => x.prism (absentWord f) p fun i => (x.b.vl r.toNat i).toNat
  | .reg (.s r _) => fun _ => (x.b.sreg r.toNat).toNat % 2 ^ 32
  | .imm w => fun _ => w.toNat

/-- UNPK of one lane (R205). -/
def unpkLane (t : Ty) (f : Fmt) (e : BitVec 3) (r : Rnd) (w : Nat) : Coded :=
  roundNum (Ty.fmt t) r false (Fmt.value f (bits w (Fmt.width f * e.toNat) (Fmt.width f)))

def execUnpk (t : Ty) (f : Fmt) (e : BitVec 3) (r : Rnd) (d : Reg) (a : VArgI) (s : State) :
    Host.Outcome State Fault Refusal :=
  s.runFrag { priv := false, noGlint := false, uses := dstV t d ++ VArgI.uses false 1 a } fun x s =>
    let u := x.unpkSrc f a
    s.beamDone (x.putCoded false d 0 fun i => unpkLane t f e r (u i))

end Sys2Proof.Machine
end

