-- ==== Sys2Proof/Machine/CrossLane.lean ====
section
/-! DEFINITION. The absence and truth instructions and the cross-lane instructions (R206 to R216). -/

namespace Sys2Proof.Machine

/-! ### Absence and truth (R206, R207) -/

def execPres (t : Ty) (d : Reg) (a : VArgI) (s : State) : Host.Outcome State Fault Refusal :=
  s.runFrag { priv := false, noGlint := false, uses := dstC d ++ VArgI.uses t.wide 1 a } fun x s =>
    let p := x.srcI t a
    s.beamDone (x.putTri d p.2 fun i => Tri.ofBool ((Ty.elems t (p.1 i)).all fun e => !Ty.isAbsent t e))

def execFill (t : Ty) (d : Reg) (a : VArg) (b : VArgI) (s : State) : Host.Outcome State Fault Refusal :=
  s.vec2 t.wide t t d a b fun p q =>
    mapElems t (fun v => (if Ty.isAbsent t (v.getD 0 0) then v.getD 1 0 else v.getD 0 0, 0)) [p, q]

def execMkab (t : Ty) (d : Reg) (a : VArg) (c : Reg) (s : State) : Host.Outcome State Fault Refusal :=
  s.runFrag { priv := false, noGlint := false
              uses := dstV t d ++ VArg.uses t.wide 1 a ++ regUses .c c false 2 false false } fun x s =>
    let p := x.src t a
    s.beamDone ((x.putV t.wide d.toNat fun i =>
      if Tri.ofCode (x.b.cl c.toNat i) == .t then Ty.absent t else p.1 i).raise p.2)

def execTsel (t : Ty) (d : Reg) (a : VArg) (b : VArgI) (c : Reg) (s : State) : Host.Outcome State Fault Refusal :=
  s.runFrag { priv := false, noGlint := false
              uses := dstV t d ++ useAB t a b ++ regUses .c c false 3 false false } fun x s =>
    let p := x.src t a
    let q := x.srcI t b
    s.beamDone ((x.putV t.wide d.toNat fun i =>
      match Tri.ofCode (x.b.cl c.toNat i) with
      | .t => p.1 i
      | .f => q.1 i
      | .u => Ty.absent t).raise (p.2 ||| q.2))

/-- TLOG (R207); `.not` reads cA alone. -/
def execTlog (op : LogOp) (d a b : Reg) (s : State) : Host.Outcome State Fault Refusal :=
  s.runFrag { priv := false, noGlint := false
              uses := dstC d ++ regUses .c a false 1 false false ++
                (if op == .not then [] else regUses .c b false 2 false false) } fun x s =>
    s.beamDone (x.putTri d 0 fun i =>
      LogOp.apply op (Tri.ofCode (x.b.cl a.toNat i)) (Tri.ofCode (x.b.cl b.toNat i)))

/-- The number 1 in every element of a type (R206). -/
def oneOf (t : Ty) : Nat := Ty.join t ((Ty.elems t 0).map fun _ => (roundNum (Ty.fmt t) .rn false (.fin false 1 0)).1)

def execTval (t : Ty) (d a : Reg) (s : State) : Host.Outcome State Fault Refusal :=
  s.runFrag { priv := false, noGlint := false, uses := dstV t d ++ regUses .c a false 1 false false } fun x s =>
    s.beamDone (x.putV t.wide d.toNat fun i =>
      match Tri.ofCode (x.b.cl a.toNat i) with
      | .t => oneOf t
      | .f => 0
      | .u => Ty.absent t)

/-! ### Shuffles (R209) -/

/-- The type in which a shuffle reads its index. -/
def shflTy : ShMode → Ty
  | .at | .xor => .n32
  | .off | .wrap => .s32

/-- The source lane of SHFL. -/
def shflLane (m : ShMode) (w i b : Nat) : Option Nat :=
  if Ty.isAbsent (shflTy m) b then none
  else
    match m with
    | .at => if b < w then some b else none
    | .off =>
      let j := (i : Int) + Fmt.int .s32 b
      if 0 ≤ j ∧ j < w then some j.toNat else none
    | .wrap => some (((i : Int) + Fmt.int .s32 b) % w).toNat
    | .xor => some (i ^^^ (b % w))

/-- A value at a source lane; an inactive or missing lane gives the absent code (R88). -/
def Frag.atLane (x : Frag) (t : Ty) (f : Nat → Nat) (j : Option Nat) : Nat :=
  match j with
  | some j => if j < x.w ∧ x.mask.getLsbD j then f j else Ty.absent t
  | none => Ty.absent t

def execShfl (m : ShMode) (t : Ty) (d : Reg) (a : VArg) (b : VArgI) (s : State) : Host.Outcome State Fault Refusal :=
  s.runFrag { priv := false, noGlint := false
              uses := dstV t d ++ VArg.uses t.wide 1 a ++ VArgI.uses false 2 b } fun x s =>
    let p := x.src t a
    let q := x.srcI (shflTy m) b
    s.beamDone ((x.putV t.wide d.toNat fun i => x.atLane t p.1 (shflLane m x.w i (q.1 i))).raise (p.2 ||| q.2))

def execPrm (t : Ty) (d : Reg) (a : VArg) (b : VArgI) (c : VArg) (s : State) : Host.Outcome State Fault Refusal :=
  s.runFrag { priv := false, noGlint := false
              uses := dstV t d ++ useAB t a b ++ VArg.uses false 3 c } fun x s =>
    let p := x.src t a
    let q := x.srcI t b
    let k := x.src .n32 c
    s.beamDone ((x.putV t.wide d.toNat fun i =>
      let j := k.1 i
      if Ty.isAbsent .n32 j then Ty.absent t
      else if j < x.w then x.atLane t p.1 (some j)
      else if j < 2 * x.w then x.atLane t q.1 (some (j - x.w))
      else Ty.absent t).raise (p.2 ||| q.2 ||| k.2))

/-! ### Votes (R210, R211, R214, R215) -/

/-- The truth values of a lane truth register in the active lanes. -/
def Frag.tris (x : Frag) (c : Reg) : List Tri := (lanesOf x.mask).map fun i => Tri.ofCode (x.b.cl c.toNat i)

def voteOf (kind : VoteKind) (ts : List Tri) : Tri :=
  match kind with
  | .all => ts.foldl Tri.and .t
  | .any => ts.foldl Tri.or .f
  | .uni => Tri.ofBool (ts.all fun t => some t == ts.head?)

def execVote (kind : VoteKind) (d a : Reg) (s : State) : Host.Outcome State Fault Refusal :=
  s.runFrag { priv := false, noGlint := false, uses := dstK d ++ regUses .c a false 1 false false } fun x s =>
    s.beamDone (x.b.putK x.lead d.toNat (voteOf kind (x.tris a)).code)

/-- BALLOT is a long-latency producer of sD (R211, R179). -/
def execBallot (d a : Reg) (s : State) : Host.Outcome State Fault Refusal :=
  s.runFrag { priv := false, noGlint := false, uses := dstS d ++ regUses .c a false 1 false false } fun x s =>
    let m := maskOf ((lanesOf x.mask).filter fun i => Tri.ofCode (x.b.cl a.toNat i) == .t)
    .done (s.pendS x.b x.e x.pc x.lead d.toNat m (0, 0) .other (s.within x.core 4))

/-- MATCH.any writes the lowest active lane with the same bits, MATCH.all a truth value (R214). -/
def execLaneMatch (all : Bool) (t : Ty) (d : Reg) (a : VArgI) (s : State) : Host.Outcome State Fault Refusal :=
  s.runFrag { priv := false, noGlint := false
              uses := (if all then dstK d else regUses .v d false 0 true false) ++ VArgI.uses t.wide 1 a } fun x s =>
    let p := x.srcI t a
    let ls := lanesOf x.mask
    if all then
      s.beamDone ((x.b.putK x.lead d.toNat (Tri.ofBool (ls.all fun i => p.1 i == p.1 x.lead)).code).raise p.2)
    else
      s.beamDone ((x.putV false d.toNat fun i => (ls.find? fun j => p.1 j == p.1 i).getD i).raise p.2)

def execElect (d : Reg) (a : Option Reg) (s : State) : Host.Outcome State Fault Refusal :=
  s.runFrag { priv := false, noGlint := false
              uses := dstC d ++ (match a with | some a => regUses .c a false 1 false false | none => []) } fun x s =>
    let pick := (lanesOf x.mask).find? fun i =>
      match a with
      | some a => Tri.ofCode (x.b.cl a.toNat i) == .t
      | none => true
    s.beamDone (x.putTri d 0 fun i => Tri.ofBool (some i == pick))

/-! ### Reductions (R47, R57, R212, R213) -/

/-- A leaf or node of the tree: nothing kept, or a value; with the kept count and the flags raised below it. -/
structure Node where
  val   : Option Nat
  count : Nat
  flags : Flags
  deriving DecidableEq, Repr

def Node.none_ : Node := { val := none, count := 0, flags := 0 }

/-- One node over two (R47). -/
def Node.join (f : Fmt) (op : RedOp) (a b : Node) : Node :=
  let fl := a.flags ||| b.flags
  let n := a.count + b.count
  match a.val, b.val with
  | none, v => { val := v, count := n, flags := fl }
  | v, none => { val := v, count := n, flags := fl }
  | some x, some y =>
    let c : Coded :=
      match op with
      | .add => addElem f x y
      | .min => (pickElem f false x y, 0)
      | .max => (pickElem f true x y, 0)
    { val := some c.1, count := n, flags := fl ||| c.2 }

/-- PairSum over a power of two of leaves, `k` levels deep from leaf `lo` (R47). -/
def pairSum (f : Fmt) (op : RedOp) (leaf : Nat → Node) : Nat → Nat → Node
  | 0, lo => leaf lo
  | k + 1, lo => Node.join f op (pairSum f op leaf k lo) (pairSum f op leaf k (lo + 2 ^ k))

/-- The runs of a scan over n leaves, the longest first, from bit k down (R47). -/
def scanRuns (f : Fmt) (op : RedOp) (leaf : Nat → Node) (n : Nat) : Nat → Nat → Node → Node
  | 0, _, acc => acc
  | k + 1, lo, acc =>
    if n.testBit k then scanRuns f op leaf n k (lo + 2 ^ k) (Node.join f op acc (pairSum f op leaf k lo))
    else scanRuns f op leaf n k lo acc

/-- The scan of leaves 0 to n − 1; over all leaves it is the reduction. -/
def scanOf (f : Fmt) (op : RedOp) (leaf : Nat → Node) (n : Nat) : Node := scanRuns f op leaf n 7 0 Node.none_

/-- The leaf of lane i for element e of the type: absent and inactive lanes keep nothing. -/
def Frag.leaf (x : Frag) (t : Ty) (p : Nat → Nat) (e i : Nat) : Node :=
  let v := bits (p i) (e * Ty.ewidth t) (Ty.ewidth t)
  let f := Ty.fmt t
  if x.mask.getLsbD i && !Ty.isAbsent t v then
    { val := some (keptCode f v), count := 1, flags := 0 }
  else Node.none_

/-- RED and SCAN: `upTo i` is the number of leaves that lane i covers. -/
def State.reduce (s : State) (op : RedOp) (cnt : Bool) (t : Ty) (d : Reg) (a : VArgI) (upTo : Nat → Nat → Nat) :
    Host.Outcome State Fault Refusal :=
  let dc := d.toNat + if t.wide then 2 else 1
  s.runFrag { priv := false, noGlint := false
              uses := dstV t d ++
                (if cnt then [{ set := .v, r := dc, src := 5, dst := true, trap := false }] else []) ++
                VArgI.uses t.wide 1 a } fun x s =>
    let p := x.srcI t a
    let nodes := fun i => (List.range (Ty.width t / Ty.ewidth t)).map fun e =>
      scanOf (Ty.fmt t) op (x.leaf t p.1 e) (upTo x.w i)
    let b := x.putCoded t.wide d p.2 fun i =>
      (Ty.join t ((nodes i).map fun n => n.val.getD (Fmt.absent (Ty.fmt t))), orFlags ((nodes i).map (·.flags)))
    s.beamDone (if cnt then b.putV dc x.mask fun i => BitVec.ofNat 32 (((nodes i).map (·.count)).headD 0) else b)

def execRed (op : RedOp) (cnt : Bool) (t : Ty) (d : Reg) (a : VArgI) (s : State) : Host.Outcome State Fault Refusal :=
  s.reduce op cnt t d a fun w _ => w
def execScan (op : RedOp) (cnt : Bool) (t : Ty) (d : Reg) (a : VArgI) (s : State) : Host.Outcome State Fault Refusal :=
  s.reduce op cnt t d a fun _ i => i + 1

end Sys2Proof.Machine
end

