-- ==== Sys2Proof/Machine/Burst.lean ====
section
/-! DEFINITION. What one burst of a request reads and writes: the engines' accesses, the load chain and the store chain
(R64 to R70, R254 to R261, R309, R456). -/

namespace Sys2Proof.Machine

/-! ### Accesses of an engine (R66, R280, R316, R456) -/

/-- The context in which a cohort's requests translate. -/
def State.ctxOf (s : State) (c : CohortKey) : Option Context := (s.kernel? c.kernel).bind fun k => s.context? k.ctx

/-- The barrier kind of a failed translation or permission check. -/
def faultKind : Nat × Nat → Nat
  | (g, c) => if g == gPROT then 17 else if c == 2 then 18 else 16

/-- One byte that an engine reads: none in an absent page, or the kind of the fault, which is HWERR in far memory whose CXL
port is down (R404). `win` names the cohort's window. -/
def State.engByte (s : State) (core : Nat) (c : CohortKey) (win : Bool) (a : Int) : Except Nat (Option Byte) :=
  if win then
    match s.cohort? c with
    | some k => if a < 0 || a ≥ k.wsize then .error 19 else .ok (some ((s.winBytes k a.toNat 1).getD 0 0))
    | none => .error 19
  else if a < 0 || a ≥ 2 ^ 56 then .error 16
  else
    match s.ctxOf c with
    | none => .error 16
    | some x =>
      let t := s.xlate (.eng core) false x a.toNat
      match xlFaults x .read t, t with
      | f :: _, _ => .error (faultKind f)
      | [], .page pa tier _ _ _ =>
        if (regPageOf pa).isSome then .error 16
        else if tier != 0 && s.farDown pa then .error 20
        else .ok (some (s.mem.read pa))
      | [], _ => .ok none

/-- Bytes of a byte stream: an absent page reads 0xFF (R66). -/
def State.engBytes (s : State) (core : Nat) (c : CohortKey) (win : Bool) (a : Int) : Nat → Except Nat (List Byte)
  | 0 => .ok []
  | n + 1 => do
    let b ← s.engByte core c win a
    let bs ← s.engBytes core c win (a + 1) n
    return b.getD 0xFF :: bs

/-- Does an object of n bytes touch an absent page? DEDUCED: log entry 42. -/
def State.engAbsent (s : State) (core : Nat) (c : CohortKey) (win : Bool) (a : Int) (n : Nat) : Bool :=
  [a, a + n - 1].any fun p => match s.engByte core c win p with | .ok none => true | _ => false

/-- An object of n bytes, none where it touches an absent page. -/
def State.engObject (s : State) (core : Nat) (c : CohortKey) (win : Bool) (a : Int) (n : Nat) : Except Nat (Option (List Byte)) :=
  do
    let bs ← s.engBytes core c win a n
    return if s.engAbsent core c win a n then none else some bs

/-- A write of an engine: bytes, or one nibble of a byte (R309). -/
inductive Wr where
  | bytes (a : Int) (bs : List Byte)
  | nib (a : Int) (hi : Bool) (code : Nat)
  deriving DecidableEq, Repr

/-- Address and length of a write. -/
def Wr.span : Wr → Int × Nat
  | .bytes a bs => (a, bs.length)
  | .nib a _ _ => (a, 1)

/-- The kind of fault that an engine's write of a byte meets; a migrating page is not judged here (R386). -/
def State.engWriteFault (s : State) (core : Nat) (c : CohortKey) (win : Bool) (a : Int) : Option Nat :=
  if win then
    match s.cohort? c with
    | some k => if a < 0 || a ≥ k.wsize then some 19 else none
    | none => some 19
  else if a < 0 || a ≥ 2 ^ 56 then some 16
  else
    match s.ctxOf c with
    | none => some 16
    | some x =>
      let t := s.xlate (.eng core) true x a.toNat
      match xlFaults x .write t, t with
      | f :: _, _ => some (faultKind f)
      | [], .page pa _ _ _ _ => if (regPageOf pa).isSome then some 16 else none
      | [], _ => some 16

/-- Both ends of every write. -/
def wrEnds (ws : List Wr) : List Int := ws.flatMap fun w => [w.span.1, w.span.1 + w.span.2 - 1]

/-- DESIGN CHOICE: log entry 19. -/
def State.engWritesFault (s : State) (core : Nat) (c : CohortKey) (win : Bool) (ws : List Wr) : Option Nat :=
  (wrEnds ws).findSome? (s.engWriteFault core c win)

/-- Does a write meet a migrating page? -/
def State.engMigrates (s : State) (core : Nat) (c : CohortKey) (win : Bool) (ws : List Wr) : Bool :=
  !win && (wrEnds ws).any fun a =>
    match s.ctxOf c with
    | some x => (s.xlate (.eng core) true x a.toNat).migrates .write
    | none => false

/-- Write one byte of a request at a checked address; the issuing core's L1 drops its line (R225), and a write to a far page
waits for its acknowledgement (R314). -/
def State.engPut (s : State) (r : Req) (win : Bool) (a : Int) (b : Byte) : State :=
  if win then s.deliver r a.toNat [b]
  else
    match (s.ctxOf r.cohort).map fun x => s.xlate (.eng r.core) true x a.toNat with
    | some (.page pa tier _ _ _) =>
      let t := (s.writeBytes none (tier == 2) pa [b]).modCore r.core fun k => k.dropLines fun l => l == lineOf pa
      if tier == 1 then t.post (.req r.id) (r.scope == .sys) pa else t
    | _ => s

/-- The byte that a nibble's write reads (R309). -/
def State.engOld (s : State) (core : Nat) (c : CohortKey) (win : Bool) (a : Int) : Byte :=
  match s.engByte core c win a with
  | .ok (some b) => b
  | _ => if win then 0 else
    match (s.ctxOf c).map fun x => s.xlate (.eng core) true x a.toNat with
    | some (.page pa _ _ _ _) => s.mem.read pa
    | _ => 0

/-- A byte with one nibble replaced. -/
def withNibble (old : Byte) (hi : Bool) (code : Nat) : Byte :=
  BitVec.ofNat 8 (if hi then old.toNat % 16 + 16 * code else old.toNat / 16 * 16 + code)

/-- Addresses that a write covers, in whole or in part. -/
def Wr.bytesOf : Wr → List Int
  | .bytes a bs => (List.range bs.length).map fun k => a + (k : Nat)
  | .nib a _ _ => [a]

/-- Perform a write; a nibble's byte was read as given, or else is read now. -/
def State.engWrite (s : State) (r : Req) (win : Bool) (old : Option Byte) : Wr → State
  | .bytes a bs => (bs.zipIdx).foldl (fun (s : State) (p : Byte × Nat) => s.engPut r win (a + p.2) p.1) s
  | .nib a hi code => s.engPut r win a (withNibble (old.getD (s.engOld r.core r.cohort win a)) hi code)

/-- Perform a burst's writes in order. The bytes that its nibbles' writes have read come in their order; a byte that the burst
itself has written before is as that write left it. -/
def State.engWrites (s : State) (r : Req) (win : Bool) (olds : List Byte) : List Wr → List Int → State
  | [], _ => s
  | w :: ws, seen =>
    let old := if w.bytesOf.any seen.contains then none else olds.head?
    let rest := match w with
      | .nib .. => olds.drop 1
      | .bytes .. => olds
    (s.engWrite r win old w).engWrites r win rest ws (w.bytesOf ++ seen)

/-- The bytes that the nibbles among some writes read. DESIGN CHOICE: log entry 4. -/
def State.engOlds (s : State) (core : Nat) (c : CohortKey) (win : Bool) (ws : List Wr) : List Byte :=
  ws.filterMap fun w => match w with
    | .nib a _ _ => some (s.engOld core c win a)
    | .bytes .. => none

/-- What the translations of some addresses leave behind (R379, R381). -/
def State.engNotes (s : State) (core : Nat) (c : CohortKey) (win : Bool) (write : Bool) (as : List Int) : State :=
  if win then s
  else
    as.foldl (fun (s : State) (a : Int) =>
      match s.ctxOf c with
      | some x => if 0 ≤ a ∧ a < 2 ^ 56 then s.xlNote (.eng core) write x a.toNat else s
      | none => s) s

/-! ### Elements of a request -/

/-- A request with its map in fields. -/
structure Xfer where
  r : Req
  m : TMap
  deriving DecidableEq, Repr

def Req.xfer (r : Req) : Xfer := { r := r, m := TMap.ofBytes r.map }

namespace Xfer

def obj (x : Xfer) (s : State) (a : Int) (n : Nat) : Except Nat (Option (List Byte)) :=
  s.engObject x.r.core x.r.cohort x.m.space a n

/-- The auxiliary n32 at an address: read at most once (R65); absent in an absent page. -/
def auxVal (x : Xfer) (s : State) (a : Int) : Except Nat Nat :=
  match x.r.aux.find? fun p => p.1 == a with
  | some p => .ok p.2
  | none => do
    let o ← x.obj s a 4
    return (o.map leNat).getD 0xFFFFFFFF

/-- Where element j of image row r lies. -/
def place (x : Xfer) (s : State) (r j : Nat) : Except Nat TMap.Place :=
  let e := x.m.offsets r j
  match x.m.auxAddr x.r.coords e with
  | none => .ok (x.m.place x.r.coords e 0)
  | some a => do
    let v ← x.auxVal s a
    return x.m.place x.r.coords e v

/-! #### Reading -/

/-- The n4x block that holds an element, and a block of an absent page (R66). -/
def block4 (x : Xfer) (s : State) (ks : List Int) : Except Nat (List Byte) := do
  let o ← x.obj s (x.m.base + 18 * (x.m.addr ks / 32)) 18
  return o.getD n4xAbsent

/-- The scale of an MX element. -/
def scale (x : Xfer) (s : State) (ks : List Int) : Except Nat Nat := do
  let o ← x.obj s (x.m.scaleAddr ks) 1
  return (o.map leNat).getD 0xFF

/-- The stored code of an element of any format but n4x. -/
def stored (x : Xfer) (s : State) (ks : List Int) : Except Nat Nat :=
  if Fmt.four x.m.fmt then do
    let i := x.m.addr ks
    let o ← x.obj s (x.m.base + i / 2) 1
    return (o.map fun bs => nibbleAt bs (i % 2).toNat).getD (Fmt.absent x.m.fmt)
  else do
    let o ← x.obj s (x.m.addr ks) (TMap.esize x.m.fmt)
    return (o.map leNat).getD (Fmt.absent x.m.fmt)

/-- Element i of a record whose elements begin at an address; one in an absent page is absent (R66). -/
def runElem (x : Xfer) (s : State) (a : Int) (i : Nat) : Except Nat Nat :=
  if Fmt.four x.m.fmt then do
    let o ← x.obj s (a + (i / 2 : Nat)) 1
    return (o.map fun bs => nibbleAt bs (i % 2)).getD (Fmt.absent x.m.fmt)
  else do
    let n := TMap.esize x.m.fmt
    let o ← x.obj s (a + (n * i : Nat)) n
    return (o.map leNat).getD (Fmt.absent x.m.fmt)

/-- Runs of elements that a span decodes to, each with its position, and the offset past the end record (R69). From a record
header in an absent page on, the row is absent. -/
def spanRuns (x : Xfer) (s : State) (span : Int) : Nat → Nat → Nat → Except Nat (List (Nat × List Nat))
  | 0, _, _ => .ok []
  | fuel + 1, pos, off =>
    let cap := x.m.stride 1
    if off + 4 > cap then .error 22
    else do
      let h ← x.obj s (span + off) 4
      match h with
      | none => return []
      | some h =>
        let skip := leNat (h.take 2)
        let p := leNat (h.drop 2)
        if skip == 0 && p == 0 then return []
        else if off + srfBytes x.m.fmt p > cap then .error 22
        else if pos + skip + p > x.m.dim 0 then .error 21
        else
          let es ← (List.range p).mapM (x.runElem s (span + off + 4))
          let rest ← x.spanRuns s span fuel (pos + skip + p) (off + srfBytes x.m.fmt p)
          return (pos + skip, es) :: rest

/-- Element k0 of a decoded span. DEDUCED: log entry 42. -/
def spanAt (x : Xfer) (runs : List (Nat × List Nat)) (k0 : Nat) : Nat :=
  (runs.findSome? fun r => if r.1 ≤ k0 ∧ k0 < r.1 + r.2.length then r.2[k0 - r.1]? else none).getD (Fmt.absent x.m.fmt)

/-- The code of an element of a format without blocks. -/
def code (x : Xfer) (s : State) (r j : Nat) : Except Nat Nat := do
  let p ← x.place s r j
  match p with
  | .fill => return x.m.fillCode
  | .absent => return Fmt.absent x.m.fmt
  | .at_ ks =>
    if x.m.srf then
      let runs ← x.spanRuns s (x.m.spanAddr ks) (x.m.dim 0 + 1) 0 0
      return x.spanAt runs (ks.getD 0 0).toNat
    else x.stored s ks

/-- The value of an element of a block-scaled format, and FMT of its n4x block. -/
def value (x : Xfer) (s : State) (r j : Nat) : Except Nat (Num × Flags) := do
  let p ← x.place s r j
  match p with
  | .fill => return (x.m.fillValue, 0)
  | .absent => return (.absent, 0)
  | .at_ ks =>
    if x.m.fmt == .n4x then
      let b ← x.block4 s ks
      let d := n4xDecode b
      return (d.1.getD (x.m.addr ks % 32).toNat .absent, d.2)
    else
      let sc ← x.scale s ks
      let c ← x.stored s ks
      return (mxValue x.m.fmt sc c, 0)

/-- An element of the image where G is no block-scaled format (R260). -/
def loaded (x : Xfer) (s : State) (r j : Nat) : Except Nat Coded := do
  if Fmt.mx x.m.fmt || x.m.fmt == .n4x then
    let v ← x.value s r j
    let c := roundNum x.m.cfmt x.m.crnd false v.1
    return (c.1, c.2 ||| v.2)
  else
    let c ← x.code s r j
    return if x.m.conv then convertCode x.m.fmt x.m.cfmt x.m.crnd c else (c, 0)

/-- Is image block b of row r exactly one block of the tensor, read whole? Its first element's coordinates. -/
def whole (x : Xfer) (s : State) (r b : Nat) : Except Nat (Option (List Int)) := do
  let ps ← (List.range 32).mapM fun k => x.place s r (32 * b + k)
  let wrap := (List.range 32).any fun k => x.m.wrapped x.r.coords (x.m.offsets r (32 * b + k))
  match ps with
  | .at_ ks :: _ =>
    let i := x.m.addr ks
    return if i % 32 == 0 && !wrap && ps.zipIdx.all fun q =>
        match q.1 with
        | .at_ js => x.m.addr js == i + q.2
        | _ => false
      then some ks else none
  | _ => return none

/-- An n4x image block (R260). -/
def block4Image (x : Xfer) (s : State) (r b : Nat) : Except Nat (List Byte × Flags) := do
  let w ← x.whole s r b
  match w with
  | some ks => do
    let bs ← x.block4 s ks
    return (bs, 0)
  | none => do
    let vs ← (List.range 32).mapM fun k => x.value s r (32 * b + k)
    let q := n4xQuantise x.m.crnd (vs.map (·.1))
    return (q.1, q.2 ||| orFlags (vs.map (·.2)))

/-- One MX block from codes with the scale that each stands under, none for an element that R64 makes absent: the codes
travel unchanged where one scale serves every element that needs one; otherwise the block is quantised (log entry 20).
DEDUCED: log entry 20. -/
def mxPack (f : Fmt) (mode : Rnd) (es : List (Nat × Option Nat)) : Nat × List Nat × Flags :=
  let val := fun e : Nat × Option Nat => match e.2 with | some sc => mxValue f sc e.1 | none => Num.absent
  let scales := es.filterMap (·.2)
  let same := fun ss : List Nat => ss.all fun c => c == ss.headD 0
  if scales.length == es.length && same scales then (scales.headD 0xFF, es.map (·.1), 0)
  else
    let live := es.filter fun e => !(val e).isAbsent && !(val e).isZero
    let ls := live.filterMap (·.2)
    if same ls then
      let sc := if !ls.isEmpty then ls.headD 0 else if es.all fun e => (val e).isAbsent then 0xFF else 127
      (sc, es.map fun e => if (val e).isAbsent then Fmt.absent f else e.1, 0)
    else mxQuantise f mode (es.map val)

/-- An MX image block of row r: its scale and its element codes. DEDUCED: log entry 20. -/
def mxImage (x : Xfer) (s : State) (r b : Nat) : Except Nat (Nat × List Nat × Flags) := do
  let es ← (List.range (min 32 (x.m.rowElems - 32 * b))).mapM fun k => do
    let p ← x.place s r (32 * b + k)
    match p with
    | .fill => return (x.m.fillCode, some 127)
    | .absent => return (Fmt.absent x.m.fmt, none)
    | .at_ ks => do
      let sc ← x.scale s ks
      let c ← x.stored s ks
      return (c, some sc)
  return mxPack x.m.fmt x.m.crnd es

/-- A piece of a list. -/
def slice {α : Type} (l : List α) (lo n : Nat) : List α := (l.drop lo).take n

/-- The image bytes of a burst and the flags of their conversion (R259, R260). -/
def loadPiece (x : Xfer) (s : State) : TMap.Piece → Except Nat (List Byte × Flags)
  | .row r lo n => do
    let g := x.m.g
    if g == .n4x then
      let b0 := lo / 18
      let bs ← (List.range ((lo + n + 17) / 18 - b0)).mapM fun k => x.block4Image s r (b0 + k)
      return (slice (bs.flatMap (·.1)) (lo - 18 * b0) n, orFlags (bs.map (·.2)))
    else if Fmt.mx g then
      let bb := 4 * Fmt.width g
      let bs ← (List.range ((n + bb - 1) / bb)).mapM fun k => x.mxImage s r (lo / bb + k)
      return (bs.flatMap fun b => packElems g b.2.1, orFlags (bs.map fun b => b.2.2))
    else
      let j0 := lo * 8 / Fmt.width g
      let j1 := min ((lo + n) * 8 / Fmt.width g) x.m.rowElems
      let cs ← (List.range (j1 - j0)).mapM fun k => x.loaded s r (j0 + k)
      return (packElems g (cs.map (·.1)), orFlags (cs.map (·.2)))
  | .scales lo n => do
    let bs ← (List.range n).mapM fun k => x.mxImage s ((lo + k) / x.m.rowScales) ((lo + k) % x.m.rowScales)
    return (bs.map fun b => BitVec.ofNat 8 b.1, 0)

/-! #### Writing -/

/-- The bytes of image row r in the window. -/
def rowImage (x : Xfer) (s : State) (image r : Nat) : List Byte :=
  ((s.cohort? x.r.cohort).map fun c => s.winBytes c (image + r * x.m.rowBytes) x.m.rowBytes).getD []

/-- The code of element j in an image row of a format without blocks, or of MX elements. -/
def imageCode (x : Xfer) (row : List Byte) (j : Nat) : Nat :=
  let g := x.m.g
  if Fmt.four g then nibbleAt row j else leNat (slice row (j * TMap.esize g) (TMap.esize g))

/-- The scale byte of an image block. -/
def imageScale (x : Xfer) (s : State) (image r b : Nat) : Nat :=
  ((s.cohort? x.r.cohort).map fun c => s.winNat c (image + x.m.bodyBytes + r * x.m.rowScales + b) 1).getD 0xFF

/-- The value of element j of an image row. -/
def imageValue (x : Xfer) (s : State) (image r : Nat) (row : List Byte) (j : Nat) : Num :=
  let g := x.m.g
  if g == .n4x then (n4xDecode (slice row (j / 32 * 18) 18)).1.getD (j % 32) .absent
  else if Fmt.mx g then mxValue g (x.imageScale s image r (j / 32)) (x.imageCode row j)
  else Fmt.value g (x.imageCode row j)

/-- FMT of the n4x blocks of an image row (R34). -/
def rowFlags (x : Xfer) (row : List Byte) : Flags :=
  if x.m.g == .n4x then orFlags ((List.range (x.m.rowElems / 32)).map fun b => (n4xDecode (slice row (18 * b) 18)).2) else 0

/-- The writes of one code of a format without blocks. -/
def putCode (x : Xfer) (ks : List Int) (c : Nat) : List Wr :=
  if Fmt.four x.m.fmt then
    let i := x.m.addr ks
    [.nib (x.m.base + i / 2) (i % 2 == 1) c]
  else [.bytes (x.m.addr ks) (natLe (TMap.esize x.m.fmt) c)]

/-- Writes at an element's place; an element outside is dropped (R64). -/
def atPlace (x : Xfer) (s : State) (r j : Nat) (f : List Int → List Wr) : Except Nat (List Wr) := do
  let p ← x.place s r j
  match p with
  | .at_ ks => return f ks
  | _ => return []

/-- Elements of image row r, from j0 to j1 − 1, to a tensor of a format without blocks. -/
def storeCodes (x : Xfer) (s : State) (image r j0 j1 : Nat) : Except Nat (List Wr × Flags) := do
  let row := x.rowImage s image r
  let cs := (List.range (j1 - j0)).map fun k =>
    let c := x.imageCode row (j0 + k)
    if x.m.conv then convertCode x.m.g x.m.fmt x.m.crnd c else (c, 0)
  let ws ← cs.zipIdx.mapM fun c => x.atPlace s r (j0 + c.2) fun ks => x.putCode ks c.1.1
  return (ws.flatten, orFlags (cs.map (·.2)))

/-- An n4x block for image elements 32b on, written whole where its first element lies inside (R260). -/
def storeBlock4 (x : Xfer) (s : State) (image r b : Nat) : Except Nat (List Wr × Flags) := do
  let row := x.rowImage s image r
  let q : List Byte × Flags := if x.m.conv then
      n4xQuantise x.m.crnd ((List.range 32).map fun k => x.imageValue s image r row (32 * b + k))
    else (slice row (18 * b) 18, 0)
  let ws ← x.atPlace s r (32 * b) fun ks => [.bytes (x.m.base + 18 * (x.m.addr ks / 32)) q.1]
  return (ws, q.2)

/-- The image elements of a row that lie in the tensor's MX block of element j, with their places. -/
def mxGroup (x : Xfer) (s : State) (r j : Nat) (at_ : List Int) : Except Nat (List (Nat × List Int)) := do
  let a := x.m.scaleAddr at_
  let lo := j - 31
  let ps ← (List.range (min x.m.rowElems (j + 32) - lo)).mapM fun k => do
    let p ← x.place s r (lo + k)
    match p with
    | .at_ ks => return if x.m.scaleAddr ks == a then [(lo + k, ks)] else []
    | _ => return []
  return ps.flatten

/-- Scale and element codes of such a group. -/
def mxStored (x : Xfer) (s : State) (image r : Nat) (row : List Byte) (js : List Nat) : Nat × List Nat × Flags :=
  if x.m.conv then mxQuantise x.m.fmt x.m.crnd (js.map (x.imageValue s image r row))
  else mxPack x.m.fmt x.m.crnd (js.map fun j => (x.imageCode row j, some (x.imageScale s image r (j / 32))))

/-- The writes of MX element j: its code if `codes`, its block's scale if `scales`. DEDUCED: log entry 20. -/
def storeMx (x : Xfer) (s : State) (image r j : Nat) (codes scales : Bool) : Except Nat (List Wr × Flags) := do
  let p ← x.place s r j
  match p with
  | .at_ ks => do
    let g ← x.mxGroup s r j ks
    let q := mxStored x s image r (x.rowImage s image r) (g.map (·.1))
    let c := ((g.zip q.2.1).findSome? fun e => if e.1.1 == j then some e.2 else none).getD 0
    return ((if codes then x.putCode ks c else []) ++
      (if scales then [.bytes (x.m.scaleAddr ks) [BitVec.ofNat 8 q.1]] else []), q.2.2)
  | _ => return ([], 0)

/-- A reduced element: its code in a plain format, the kept count, the flags (R57, R260). Block-scaled images reduce
their values in f32 (log entry 20). -/
def reduced (x : Xfer) (s : State) (image r : Nat) : Fmt × Node :=
  let row := x.rowImage s image r
  let block := Fmt.mx x.m.g || x.m.g == .n4x
  let f := if block then Fmt.f32 else x.m.g
  let op : RedOp := if x.m.redop == 0 then .add else if x.m.redop == 1 then .min else .max
  let leaf := fun j =>
    let c := if block then (roundNum .f32 .rn false (x.imageValue s image r row j)).1 else x.imageCode row j
    if Fmt.isAbsent f c then Node.none_
    else { val := some (keptCode f c), count := 1, flags := 0 }
  let n := scanRuns f op leaf x.m.rowElems 9 0 Node.none_
  (f, { n with flags := n.flags ||| x.rowFlags row })

/-- The writes of a reduced row: its element at c0 and, with CNT, its kept count (R258, R260). DEDUCED: log entry 20. -/
def storeReduced (x : Xfer) (s : State) (image r : Nat) : Except Nat (List Wr × Flags) := do
  let (f, n) := x.reduced s image r
  let c := n.val.getD (Fmt.absent f)
  let v := Fmt.value f c
  let put : (List Int → List Wr) × Flags :=
    if x.m.fmt == .n4x then
      let q := n4xQuantise x.m.crnd (v :: List.replicate 31 .absent)
      (fun ks => [.bytes (x.m.base + 18 * (x.m.addr ks / 32)) q.1], q.2)
    else if Fmt.mx x.m.fmt then
      let q := mxQuantise x.m.fmt x.m.crnd [v]
      (fun ks => x.putCode ks (q.2.1.headD 0) ++ [.bytes (x.m.scaleAddr ks) [BitVec.ofNat 8 q.1]], q.2.2)
    else
      let d := if x.m.conv then convertCode f x.m.fmt x.m.crnd c else (c, 0)
      (fun ks => x.putCode ks d.1, d.2)
  let ws ← x.atPlace s r 0 fun ks =>
    put.1 ks ++ (if x.m.cnt then [.bytes (x.m.countAddr ks) (natLe 2 (min n.count 65534))] else [])
  return (ws, put.2 ||| n.flags)

/-- The write of open bytes over the whole slot of a row whose span does not fit it (R70). DESIGN CHOICE: log entry 8. -/
def spoilSpan (x : Xfer) (s : State) : TMap.Piece → List Wr
  | .row r _ _ =>
    let place := (List.range (min x.m.rowElems (x.m.dim 0))).findSome? fun j => match x.place s r j with
      | .ok (.at_ ks) => some ks
      | _ => none
    match place with
    | some ks => [.bytes (x.m.spanAddr ks) ((List.range (x.m.stride 1)).map fun k => Config.openByte s.free k)]
    | none => []
  | .scales .. => []

/-- The write of a row as a sparse-run span (R70). DESIGN CHOICE: log entry 59. -/
def storeSpan (x : Xfer) (s : State) (image r : Nat) : Except Nat (List Wr × Flags) := do
  let row := x.rowImage s image r
  let es ← (List.range (min x.m.rowElems (x.m.dim 0))).mapM fun j => do
    let p ← x.place s r j
    let c := x.imageCode row j
    let d : Coded := if x.m.conv then convertCode x.m.g x.m.fmt x.m.crnd c else (c, 0)
    match p with
    | .at_ ks => return (d, some ks)
    | _ => return ((Fmt.absent x.m.fmt, d.2), none)
  let fl := orFlags (es.map fun e => e.1.2)
  match es.findSome? (·.2) with
  | none => return ([], fl)
  | some ks =>
    let bs := srfEncode x.m.fmt (es.map fun e => e.1.1)
    if bs.length > x.m.stride 1 then .error 23 else return ([.bytes (x.m.spanAddr ks) bs], fl)

/-- Does a store of spans break R260: it must start at 0 and cover dimension 0? DEDUCED: log entry 42. -/
def badSpan (x : Xfer) : Bool := x.r.coords.all Option.isSome && (x.r.coords.getD 0 (some 0) != some 0 || x.m.boxd 0 < x.m.dim 0)

/-- Several results of a burst as one. -/
def joined (rs : List (List Wr × Flags)) : List Wr × Flags := (rs.flatMap (·.1), orFlags (rs.map (·.2)))

/-- What a burst of a store copy writes (R260). A row's reduction, span or n4x block is written by the burst that holds
its last byte. -/
def storePiece (x : Xfer) (s : State) (image : Nat) : TMap.Piece → Except Nat (List Wr × Flags)
  | .row r lo n =>
    let g := x.m.g
    let last := lo + n == x.m.rowBytes
    let w := Fmt.width g
    let j0 := lo * 8 / w
    let j1 := min ((lo + n) * 8 / w) x.m.rowElems
    if x.m.red then (if last then x.storeReduced s image r else .ok ([], 0))
    else if x.m.srf then (if x.badSpan then .error 24 else if last then x.storeSpan s image r else .ok ([], 0))
    else if x.m.fmt == .n4x then do
      let bb := if g == .n4x then 18 else 4 * w
      let rs ← (List.range ((lo + n) / bb - lo / bb)).mapM fun k => x.storeBlock4 s image r (lo / bb + k)
      return joined rs
    else if Fmt.mx x.m.fmt then do
      let rs ← (List.range (j1 - j0)).mapM fun k => x.storeMx s image r (j0 + k) true x.m.conv
      return joined rs
    else x.storeCodes s image r j0 j1
  | .scales lo n => do
    if x.m.red then return ([], 0)
    else
      let rs ← (List.range n).mapM fun k => do
        let r := (lo + k) / x.m.rowScales
        let b := (lo + k) % x.m.rowScales
        let es ← (List.range (min 32 (x.m.rowElems - 32 * b))).mapM fun j => x.storeMx s image r (32 * b + j) false true
        return ((joined es).1, (0 : Flags))
      return joined rs

/-! #### Elements that a burst touches -/

/-- Elements of a piece, as image row and element. -/
def elems (x : Xfer) : TMap.Piece → List (Nat × Nat)
  | .row r lo n =>
    let g := x.m.g
    let w := Fmt.width g
    let j0 := if g == .n4x then lo / 18 * 32 else lo * 8 / w
    let j1 := min x.m.rowElems (if g == .n4x then (lo + n + 17) / 18 * 32 else (lo + n) * 8 / w)
    (List.range (j1 - j0)).map fun k => (r, j0 + k)
  | .scales lo n =>
    (List.range n).flatMap fun k =>
      let b := (lo + k) % x.m.rowScales
      (List.range (min 32 (x.m.rowElems - 32 * b))).map fun j => ((lo + k) / x.m.rowScales, 32 * b + j)

/-- The auxiliary values that the elements depend on, read or kept from an earlier burst. -/
def auxRead (x : Xfer) (s : State) (es : List (Nat × Nat)) : List (Int × Nat) :=
  es.foldl (fun (l : List (Int × Nat)) (e : Nat × Nat) =>
    match x.m.auxAddr x.r.coords (x.m.offsets e.1 e.2) with
    | none => l
    | some a =>
      if l.any fun p => p.1 == a then l
      else
        match x.auxVal s a with
        | .ok v => l ++ [(a, v)]
        | .error _ => l) x.r.aux

/-- The addresses that reading an element translates: its element, its scale, or its span. -/
def touched (x : Xfer) (s : State) (es : List (Nat × Nat)) : List Int :=
  es.flatMap fun e =>
    match x.place s e.1 e.2 with
    | .ok (.at_ ks) =>
      if x.m.srf then
        let n := match x.spanRuns s (x.m.spanAddr ks) (x.m.dim 0 + 1) 0 0 with
          | .ok runs => ((runs.map fun r => srfBytes x.m.fmt r.2.length).foldl (· + ·) 0) + 3
          | .error _ => 0
        (List.range (n / 65536 + 1)).map (fun k : Nat => x.m.spanAddr ks + 65536 * (k : Int)) ++ [x.m.spanAddr ks + n]
      else if x.m.fmt == .n4x then
        let a := x.m.base + 18 * (x.m.addr ks / 32)
        [a, a + 17]
      else if Fmt.mx x.m.fmt then
        [if Fmt.four x.m.fmt then x.m.base + x.m.addr ks / 2 else x.m.addr ks, x.m.scaleAddr ks]
      else if Fmt.four x.m.fmt then [x.m.base + x.m.addr ks / 2]
      else [x.m.addr ks]
    | _ => []

/-- Is a burst of a handler read one that produces no glint (R269)? -/
def noGlint (x : Xfer) (s : State) (es : List (Nat × Nat)) : Except Nat Bool := do
  if x.r.coords.any Option.isNone then return true
  else if es.all fun e => (x.m.insideOthers x.r.coords (x.m.offsets e.1 e.2)).isNone then return true
  else if x.m.indexed then
    let ps ← es.mapM fun e => x.place s e.1 e.2
    return ps.all fun p => match p with | .at_ _ => false | _ => true
  else return false

end Xfer

end Sys2Proof.Machine
end

