-- ==== Sys2Proof/Machine/Copy.lean ====
section
/-! DEFINITION. Map slots, copies with their channels, and engine faults with their resumption (R253, R254, R256, R262 to
R266, R280, R281). -/

namespace Sys2Proof.Machine

/-! ### MAPLD (R256) -/

/-- An image of 64 bytes is read by 64-bit words, at a multiple of 8 (R221). DEDUCED: log entry 41. -/
def mapWord (spad : Bool) : Acc :=
  { spad := spad, acc := .read, atomic := false, n := 8, uniform := true, wide := false, near := false }

/-- The words of an image. -/
def Frag.mapWords (x : Frag) (a : Nat) : List (Nat × Int) := (List.range 8).map fun j => (x.lead, ((a + 8 * j : Nat) : Int))

/-- The conditions that an image's words meet, each reported for the image (R222). DEDUCED: log entry 41. -/
def State.mapFaults (s : State) (x : Frag) (spad : Bool) (a : Nat) : List (Nat × Int × Nat × Nat) :=
  (s.laneFaults x (mapWord spad) (x.mapWords a)).map fun f => (f.1, (a : Int), f.2.2)

/-- The one trap that an image's address raises: its access size is 64 bytes (R410). -/
def Frag.mapTrap (x : Frag) (spad : Bool) (fs : List (Nat × Int × Nat × Nat)) : Option Trap :=
  x.memTrap { mapWord spad with n := 64 } fs

/-- The bytes of an image at a checked address. DEDUCED: log entry 41. -/
def State.mapImage (s : State) (x : Frag) (spad : Bool) (a : Nat) : List Byte :=
  (List.range 8).flatMap fun j => s.laneRead x (mapWord spad) (2 ^ 64 - 1) (a + 8 * j)

/-- ENGINE traps raised at issue (R410). -/
def Frag.engTrap (x : Frag) (code slot byte : Nat) : Trap :=
  { group := gENGINE, code := code, lanes := none, x := slot + byte * 2 ^ 8, y := x.op, z := 0 }

def execMapld (d : Reg) (sp : Bool) (a : Reg) (s : State) : Host.Outcome State Fault Refusal :=
  s.runFrag (plain ({ set := .m, r := d.toNat, src := 0, dst := true, trap := false } :: regUses .s a false 1 false false))
    fun x s =>
    let v := (x.b.sreg a.toNat).toNat
    if Fmt.isAbsent .n64 v then .done s
    else
      match x.mapTrap sp (s.mapFaults x sp v) with
      | some t => .trap t
      | none =>
        let bs := s.mapImage x sp v
        match (TMap.ofBytes bs).bad bs with
        | some byte => .trap (x.engTrap 1 d.toNat byte)
        | none =>
          let s := s.notes x (mapWord sp) (x.mapWords v)
          match s.cohort? x.b.cohort with
          | some c => .done (s.setCohort { c with maps := c.maps.set d.toNat (some bs) })
          | none => .done s

/-! ### Issue of an engine request (R253, R254) -/

/-- Which engine a request belongs to. -/
def ReqKind.engine : ReqKind → Nat
  | .cpy .. | .csr .. => 0
  | .gread .. => 1
  | .cnd _ => 2
  | .coll .. => 3

/-- Requests in an engine's queue. -/
def State.queued (s : State) (core eng : Nat) : Nat :=
  (s.reqs.filter fun r => r.core == core && !r.parked && r.kind.engine == eng).length

/-- Is the engine's queue of 64 entries full (R254)? -/
def State.engineFull (s : State) (core eng : Nat) : Bool := decide (64 ≤ s.queued core eng)

/-- A new request. -/
def Req.new (id : Nat) (x : Frag) (kind : ReqKind) (map : List Byte) (coords : List (Option Int)) (barrier : Nat)
    (sc : Scope) (params : List DWord) (bursts : Nat) : Req :=
  { id := id, core := x.core, cohort := x.b.cohort, beam := x.b.key, slot := x.b.key.slot, bid := x.b.id, pc := x.pc, entry := x.e
    mask := x.mask, w := x.w, kind := kind, map := map
    coords := coords, barrier := barrier, scope := sc, params := params, bursts := List.replicate bursts .waiting
    parked := false, dropped := false, orphan := false, fault := none, first := 0, delivered := 0, counted := 0
    refused := 0, aux := [], migSince := none, down := none, arrived := [], births := [], follow := true, parts := []
    flags := 0, was := [], wasWin := [] }

/-- Enqueue a request. -/
def State.enqueue (s : State) (r : Req) : State := { s with nextId := s.nextId + 1, reqs := s.reqs ++ [r] }

/-- The map in a slot of the cohort. -/
def State.mapIn (s : State) (c : CohortKey) (slot : Nat) : Option (List Byte) :=
  ((s.cohort? c).bind fun c => c.maps[slot]?).join

/-- Coordinate registers that the issuing fragment's map needs: ⌈RANK / 2⌉ (R262). -/
def State.coordRegs (s : State) (slot : Nat) : Nat :=
  match s.frag with
  | none => 1
  | some x => ((s.mapIn x.b.cohort slot).map fun bs => ((TMap.ofBytes bs).rank + 1) / 2).getD 1

/-- Uses of consecutive s registers: the named one and the implied ones after it. -/
def groupUses (r : Reg) (n src : Nat) : List Use :=
  (List.range n).map fun j => { set := .s, r := r.toNat + j, src := if j == 0 then src else 5, dst := false, trap := false }

/-- Box start from its coordinate registers (R262). -/
def Frag.coords (x : Frag) (r : Reg) (rank : Nat) : List (Option Int) :=
  (List.range 5).map fun d =>
    if d ≥ rank then some 0
    else
      let w := bits (x.b.sreg (r.toNat + d / 2)).toNat (32 * (d % 2)) 32
      if w == 0x80000000 then none else some (sext 32 w)

/-- The barrier operand of an engine instruction: nothing for an absent offset, a trap, or the rest (R253). -/
def State.engBarrier (s : State) (x : Frag) (off : Nat) (go : Res) : Res :=
  if Fmt.isAbsent .n64 off then .done s
  else
    match s.barTrap x .read false off with
    | some t => .trap t
    | none => go

/-! ### CPY (R260, R262) -/

/-- Does the resolved c0 of an n4x store break R260? -/
def TMap.badStart (m : TMap) (coords : List (Option Int)) : Bool :=
  m.fmt == .n4x && match m.coord coords [0, 0, 0, 0, 0] 0 with
    | some k => k % 32 != 0
    | none => false

def execCpy (st : Bool) (map : BitVec 4) (ch : BitVec 3) (sc : Scope) (d a b : Reg) (s : State) :
    Host.Outcome State Fault Refusal :=
  let slot := map.toNat
  s.runFrag { priv := false, noGlint := true
              uses := regUses .s d false 0 false false ++ regUses .s a false 1 false false ++ groupUses b (s.coordRegs slot) 2 }
    fun x s =>
      let off := (x.b.sreg a.toNat).toNat
      let image := (x.b.sreg d.toNat).toNat
      s.engBarrier x off
        (if Fmt.isAbsent .n64 image then .done s
         else
           match s.mapIn x.b.cohort slot with
           | none => .trap (x.engTrap 5 slot 0)
           | some bs =>
             let m := TMap.ofBytes bs
             let coords := x.coords b m.rank
             match s.winTrap x (if st then .read else .write) 1 1 image m.size with
             | some t => .trap t
             | none =>
               if m.chain == (if st then 1 else 2) then .trap (x.engTrap 4 slot 0)
               else if m.bursts > 65536 then .trap (x.engTrap 3 slot 0)
               else if st && m.badStart coords then .trap (x.engTrap 6 slot 0)
               else if s.engineFull x.core 0 then .stay s
               else .done (s.enqueue (Req.new s.nextId x (.cpy st image ch.toNat) bs coords off sc [] m.bursts)))

/-! ### The engine's bursts (R262 to R264, R386) -/

def Req.setBurst (r : Req) (k : Nat) (b : BState) : Req := { r with bursts := r.bursts.set k b }

def BState.isFault : BState → Bool
  | .faulted _ => true
  | _ => false

/-- The lowest faulting burst and its kind. -/
def Req.lowest (r : Req) : Option (Nat × Nat) :=
  (r.bursts.zipIdx).findSome? fun b => match b.1 with | .faulted k => some (b.2, k) | _ => none

/-- Is a burst not resolved: it waits, or a store has read the bytes whose nibbles it writes (R309)? -/
def BState.open_ : BState → Bool
  | .waiting | .read _ => true
  | _ => false

def Req.hasWaiting (r : Req) : Bool :=
  r.bursts.any fun b => match r.kind with | .cpy .. => b.open_ | _ => b == .waiting

/-- Bytes of the bursts from one on, up to another. -/
def Req.bytesFrom (r : Req) (lo hi : Nat) : Nat :=
  let m := TMap.ofBytes r.map
  ((List.range (hi - lo)).map fun k => m.burstBytes (lo + k)).foldl (· + ·) 0

/-- The channel of a copy or a CPYCSR. -/
def ReqKind.chan : ReqKind → Option Nat
  | .cpy _ _ c => some c
  | .csr _ _ _ _ c => some c
  | _ => none

/-- Is the request the first of its channel (R264)? -/
def State.headOfChan (s : State) (r : Req) : Bool :=
  (s.reqs.find? fun q => q.core == r.core && !q.parked && q.kind.chan == r.kind.chan).any fun q => q.id == r.id

/-- A channel's write pointer grows. -/
def State.wpAdd (s : State) (core ch n : Nat) : State :=
  s.modCore core fun c => { c with wp := c.wp.modify ch fun w => w + BitVec.ofNat 64 n }

/-- What reading the elements of a burst leaves behind. -/
def State.burstNotes (s : State) (x : Xfer) (es : List (Nat × Nat)) (reads : List Int) : State :=
  let aux := es.filterMap fun e => x.m.auxAddr x.r.coords (x.m.offsets e.1 e.2)
  s.engNotes x.r.core x.r.cohort x.m.space false (aux.eraseDups ++ reads)

/-- A burst or a request meets a fault. What it reads in far memory whose port is down fails once the fabric timeout has passed
(R404). DESIGN CHOICE: log entry 33. -/
def State.engFails (s : State) (r : Req) (kind : Nat) (go : Req → State) : State :=
  if kind != 20 then go r
  else
    match r.down with
    | none => s.setReq { r with down := some s.clock }
    | some t => if s.clock < t + ((s.partOfCore r.core).map (·.timeout)).getD 0 then s else go r

/-- Has a request writes that are not performed at its SCOPE (R262, R314)? DESIGN CHOICE: log entry 19. -/
def State.unfinished (s : State) (r : Req) : Bool := r.scope == .sys && s.unacked (.req r.id)

/-- A burst of a load copy is written to the image. -/
def State.loadBurst (s : State) (r : Req) (image ch k : Nat) : State :=
  let x := r.xfer
  let p := x.m.piece k
  let es := x.elems p
  let aux := x.auxRead s es
  match x.loadPiece s p with
  | .error f => s.engFails r f fun r => s.setReq { r.setBurst k (.faulted f) with aux := aux }
  | .ok (bs, fl) =>
    let s1 := s.burstNotes x es (x.touched s es)
    let s1 := s1.deliver r (image + x.m.at_ p) bs
    let r' := { r.setBurst k .done with
      aux := aux, flags := r.flags ||| fl, delivered := r.delivered + bs.length, down := none }
    let s1 := s1.setReq r'
    if r.lowest.isSome then s1 else s1.wpAdd r.core ch bs.length

/-- A burst of a store copy faults; of a row whose span does not fit its slot the slot's bytes are open (R70). -/
def State.storeFails (s : State) (r : Req) (p : TMap.Piece) (kind : Nat) : State :=
  let x := r.xfer
  let ws := if kind == 23 then x.spoilSpan s p else []
  if (s.engWritesFault r.core r.cohort x.m.space ws).isSome || s.engMigrates r.core r.cohort x.m.space ws then s
  else s.engWrites r x.m.space [] ws []

/-- A burst of a store copy is written to the tensor; a write through a migrating leaf waits, at most 65,536 cycles. One that
writes nibbles reads their bytes first, and writes them back later (R309). -/
def State.storeBurst (s : State) (r : Req) (image k : Nat) : State :=
  let x := r.xfer
  let p := x.m.piece k
  let es := x.elems p
  let aux := x.auxRead s es
  match x.storePiece s image p with
  | .error f => s.engFails r f fun r => (s.storeFails r p f).setReq { r.setBurst k (.faulted f) with aux := aux }
  | .ok (ws, fl) =>
    match s.engWritesFault r.core r.cohort x.m.space ws with
    | some f => s.setReq { r.setBurst k (.faulted f) with aux := aux, migSince := none }
    | none =>
      if s.engMigrates r.core r.cohort x.m.space ws then
        match r.migSince with
        | none => s.setReq { r with migSince := some s.clock, aux := aux }
        | some t => if s.clock - t < 65536 then s else s.setReq { r.setBurst k (.faulted 16) with migSince := none }
      else
        let olds := s.engOlds r.core r.cohort x.m.space ws
        let read := match r.bursts[k]? with
          | some (.read bs) => some bs
          | _ => if olds.isEmpty then some [] else none
        match read with
        | none => s.setReq { r.setBurst k (.read olds) with aux := aux, migSince := none }
        | some bs =>
        let s1 := s.burstNotes x es []
        let s1 := s1.engNotes r.core r.cohort x.m.space true (wrEnds ws)
        let s1 := s1.engWrites r x.m.space bs ws []
        s1.setReq { r.setBurst k .done with
          aux := aux, flags := r.flags ||| fl, delivered := r.delivered + x.m.burstBytes k, migSince := none
          down := none }

/-! ### Handler reads: bursts (R268, R269, R272) -/

/-- Has the burst returned, and does it wait for its birth? -/
def Req.returned (r : Req) (k : Nat) : Bool :=
  match r.kind, r.bursts[k]? with
  | .gread .., some (.read _) => true
  | _, _ => false

/-- Bursts of a core that wait in the burst buffers. DEDUCED: log entry 44. -/
def State.buffered (s : State) (core : Nat) : Nat :=
  ((s.reqs.filter fun r => r.core == core && !r.dropped).map fun r =>
    ((List.range r.bursts.length).filter r.returned).length).foldl (· + ·) 0

/-- What the order log says of the next birth (R434). -/
inductive LogNext where
  | any
  | burst (k : Nat)
  | diverged (code logged : Nat)
  | later
  deriving DecidableEq, Repr

/-- A burst that this read has yet to bear: waiting, or in the burst buffer. One that has faulted produces no glint (R269). -/
def Req.unborn (r : Req) (k : Nat) : Bool :=
  match r.bursts[k]? with
  | some .waiting => true
  | some (.read _) => true
  | _ => false

/-- The next birth under `.rep`: the log's entry, its divergence, or a wait for a burst that has not returned. -/
def State.logNext (s : State) (r : Req) (mode : GMode) (log : Nat) : LogNext :=
  if mode != .replay then .any
  else if !r.follow then
    match r.arrived.find? r.returned with
    | some k => .burst k
    | none => .later
  else
    let f := fun off => ((s.cohort? r.cohort).map fun c => s.winNat c (log + off) 4).getD 0
    let j := r.births.length
    if f 0 ≤ j then .diverged 2 0xFFFFFFFF
    else
      let k := f (4 + 4 * j)
      if !r.unborn k then .diverged 1 k else if r.returned k then .burst k else .later

/-- May a burst take a place of the buffer? The last place is for one that can be born before any other of its read, so that
the buffer always empties (R272). -/
def State.admits (s : State) (r : Req) (k : Nat) : Bool :=
  let n := s.buffered r.core
  decide (n < 255) || (decide (n < 256) && match r.kind with
    | .gread _ _ mode log =>
      match s.logNext { r.setBurst k (.read []) with arrived := r.arrived ++ [k] } mode log with
      | .any => true
      | .burst j => j == k
      | .diverged .. => true
      | .later => false
    | _ => false)

/-- A handler read whose bursts are all resolved is complete. -/
def State.reqEnds (s : State) (id : Nat) : State :=
  match s.req? id with
  | none => s
  | some r => if r.bursts.all (· == .done) && r.refused == 0 then s.dropReq id else s

/-- A burst of a handler read: counted directly, faulted, or read (R269). -/
def State.readBurst (s : State) (r : Req) (k : Nat) : State :=
  let x := r.xfer
  let p := x.m.piece k
  let es := x.elems p
  if !s.admits r k then s
  else
    let aux := x.auxRead s es
    match x.noGlint s es with
    | .error f => s.engFails r f fun r => s.setReq { r.setBurst k (.faulted f) with aux := aux }
    | .ok true =>
      let s1 := (s.burstNotes x es []).setReq { r.setBurst k .done with aux := aux, delivered := r.delivered + 128 }
      (s1.barCount r.id 128).reqEnds r.id
    | .ok false =>
      match x.loadPiece s p with
      | .error f => s.engFails r f fun r => s.setReq { r.setBurst k (.faulted f) with aux := aux }
      | .ok (bs, fl) =>
        ((s.burstNotes x es (x.touched s es)).setReq
          { r.setBurst k (.read bs) with
            aux := aux, arrived := r.arrived ++ [k], flags := r.flags ||| fl, down := none }).reqFlags r.id

/-- COPY_BURST: a burst of a copy in channel and image order, or a burst read of a handler read.
DESIGN CHOICE: log entry 19. -/
def execCopyBurst (core req burst : Nat) (s : State) : Host.Outcome State Fault Refusal :=
  match s.req? req with
  | none => .next s
  | some r =>
    if r.core != core || r.dropped || !(r.bursts[burst]?.any BState.open_) then .next s
    else
      match r.kind with
      | .cpy st image ch =>
        if r.parked || !s.headOfChan r || (r.bursts.take burst).any BState.open_ then .next s
        else if st then .next (s.storeBurst r image burst) else .next (s.loadBurst r image ch burst)
      | .gread .. => .next (if r.returned burst then s else s.readBurst r burst)
      | _ => .next s

/-! ### Completion and faults (R263, R264, R280) -/

/-- Count, and drop the request where the count was taken. -/
def State.countAndEnd (s : State) (id n : Nat) : State :=
  let s := s.barCount id n
  match s.req? id with
  | some r => if r.refused == 0 then s.dropReq id else s
  | none => s

/-- COPY_COMPLETE: every burst is delivered, and a store's writes are performed at its SCOPE (R262, R314). -/
def execCopyComplete (core req : Nat) (s : State) : Host.Outcome State Fault Refusal :=
  match s.req? req with
  | none => .next s
  | some r =>
    match r.kind with
    | .cpy st _ ch =>
      if r.core == core && !r.parked && !r.dropped && r.bursts.all (· == .done) && !s.unfinished r then
        let n := r.bytesFrom r.first r.bursts.length
        let s := if st then s.wpAdd core ch n else s
        .next ((s.reqFlags req).countAndEnd req n)
      else .next s
    | _ => .next s

/-- A copy with faulted bursts: the pointer moves on, the bytes below the lowest are counted, and the request parks. -/
def State.copyFault (s : State) (r : Req) (st : Bool) (ch k kind : Nat) : State :=
  let n := r.bytesFrom r.first k
  let rest := r.bytesFrom k r.bursts.length
  let s := (s.wpAdd r.core ch (if st then n + rest else rest)).reqFlags r.id
  let s := if n != 0 && s.barLive r then s.barCount r.id n else s
  match s.req? r.id with
  | none => s
  | some r' =>
    let s := s.setReq { r' with first := k }
    if r'.parked then s else s.barFault r.id kind k

/-- ENGINE_FAULT: the faulted bursts of a request whose other bursts are resolved fault its barrier; in a request without
one, an uncorrectable error has been found in what it reads next (R280, R412). -/
def execEngineFault (core req : Nat) (s : State) : Host.Outcome State Fault Refusal :=
  match s.req? req with
  | none => .next s
  | some r =>
    if r.core != core || r.parked || r.dropped then .next s
    else
      match r.kind with
      | .cpy st _ ch =>
        match r.hasWaiting, r.lowest with
        | false, some (k, kind) => .next (if s.unfinished r then s else s.copyFault r st ch k kind)
        | true, _ => .next (s.setReq (r.setBurst (r.bursts.findIdx BState.open_) (.faulted 20)))
        | false, none => .next s
      | .gread .. =>
        match r.hasWaiting, r.lowest with
        | false, some (k, kind) => .next (s.barFault req kind k)
        | true, _ => .next (s.setReq (r.setBurst (r.bursts.findIdx (· == .waiting)) (.faulted 20)))
        | false, none => .next s
      | _ => .next (s.barFault req 20 0xFFFF)

/-! ### Resumption (R281, R454) -/

/-- A parked request is queued again: a copy restarts at its lowest faulting burst, a handler read reads its faulted
bursts again with their index entries. A burst that has produced a glint is not touched, though its glint was lost (R454).
DEDUCED: log entry 44. -/
def Req.restart (r : Req) : Req :=
  let r := { r with parked := false, fault := none, refused := 0, down := none }
  match r.kind with
  | .gread .. =>
    { r with aux := if (TMap.ofBytes r.map).indexed then [] else r.aux
             bursts := r.bursts.map fun b => if b == .faulted 29 then .done else if b.isFault then .waiting else b }
  | _ =>
    match r.lowest with
    | some (k, _) => { r with bursts := r.bursts.zipIdx.map fun b => if b.2 < k then b.1 else .waiting }
    | none => r

/-- One request of a resume: to the end of its queue, with a refused count tried again (R275). DEDUCED: log entry 43. -/
def State.restartReq (s : State) (r : Req) : State :=
  let s := { s.dropReq r.id with reqs := (s.dropReq r.id).reqs ++ [r.restart] }
  let s := if r.refused == 0 then s else s.barCount r.id r.refused
  match s.req? r.id with
  | some q => if q.refused == 0 && q.bursts.all (· == .done) then s.dropReq r.id else s
  | none => s

/-- A faulted barrier is armed again and FAULT cleared (R281, R367), and its phase is checked (R368); a malformed one is left
as it is. DEDUCED: log entry 43. -/
def State.rearm (s : State) (c : CohortKey) (off : Nat) : State :=
  let b := s.bar c off
  if b.formed then (s.unmarked c off).barChanged c off { b with st := if b.st == 2 then 1 else b.st, fault := 0 } else s

/-- A resume (R281): the checks of R253, a stall while the queue lacks room for the requests (R254), then the barrier is
armed and they are queued. DEDUCED: log entry 43. -/
def State.resumeReqs (s : State) (a : Reg) (eng : Nat) : Host.Outcome State Fault Refusal :=
  s.runFrag { priv := false, noGlint := true, uses := regUses .s a false 1 false false } fun x s =>
    let off := (x.b.sreg a.toNat).toNat
    let c := x.b.cohort
    s.engBarrier x off
      (let mine := fun r : Req => r.core == x.core && r.cohort == c && r.barrier == off && r.parked
       let rs := s.reqs.filter fun r => mine r && !r.dropped && r.kind.engine == eng &&
         (match r.kind with | .csr .. => false | _ => true)
       let s' : State := { s with reqs := s.reqs.filter fun r => !(mine r && r.dropped) }
       if !rs.isEmpty && decide (64 < s.queued x.core eng + rs.length) then .stay s
       else .done (rs.foldl State.restartReq (s'.rearm c off)))

def execCpyResume (_sc : Scope) (a : Reg) (s : State) : Host.Outcome State Fault Refusal := s.resumeReqs a 0
def execGreadResume (_sc : Scope) (a : Reg) (s : State) : Host.Outcome State Fault Refusal := s.resumeReqs a 1

/-! ### CHWAIT (R266) -/

def execChwait (ch : BitVec 3) (a : Reg) (s : State) : Host.Outcome State Fault Refusal :=
  s.runFrag { priv := false, noGlint := true, uses := regUses .s a false 1 false false } fun x s =>
    let waiting := x.entry.wait.any fun w => w.kind == .chwait
    let target := match x.entry.wait with
      | some w => if w.kind == .chwait then w.aux else (x.b.sreg a.toNat).toNat
      | none => (x.b.sreg a.toNat).toNat
    if Fmt.isAbsent .n64 target then .done s
    else if target ≤ (s.chanView x.b ch.toNat).toNat then .done (s.catchUp x.b.key)
    else if waiting then .stay s
    else
      .stay (s.sleep x { kind := .chwait, ins := .chwait ch a, words := x.words, waited := 0, rem := none, woken := false
                         aux := target })

end Sys2Proof.Machine
end

