-- ==== Sys2Proof/Machine/Coll.lean ====
section
/-! DEFINITION. Collectives over a link group (R57, R291 to R293, R401, R402). -/

namespace Sys2Proof.Machine

/-! ### Codes and parameters -/

def CollKind.num : CollKind → Nat
  | .allreduce => 0 | .redscatter => 1 | .allgather => 2

def RedOp.num : RedOp → Nat
  | .add => 0 | .min => 1 | .max => 2

/-- The parameter group of R291: source, destination, element count, handle and place of the counts. -/
structure CollArgs where
  src : Nat
  dst : Nat
  e   : Nat
  h   : Nat
  cnt : Nat
  deriving DecidableEq, Repr

def collArgs (ps : List DWord) : CollArgs :=
  let p := fun j => (ps.getD j 0).toNat
  { src := bits (p 0) 0 32, dst := bits (p 0) 32 32, e := p 1, h := p 2, cnt := bits (p 3) 0 32 }

/-- What every member's message must agree with (R402). -/
def collHead (kind : CollKind) (op : RedOp) (f : Fmt) (e crc : Nat) : List Nat :=
  [CollKind.num kind, RedOp.num op, (Fmt.code f).toNat, e, crc]

/-- The live link group of a partition that a handle names (R401). -/
def State.linkOf (s : State) (part h : Nat) : Option LinkGroup :=
  s.links.find? fun g => g.part == part && g.live && h == g.index + g.gen * 2 ^ 16

def State.setLink (s : State) (g : LinkGroup) : State :=
  { s with links := s.links.map fun x => if x.part == g.part && x.index == g.index then g else x }

/-! ### Faults -/

/-- The destination's bytes after a fault are unspecified (R402), those of them that lie in the window. DEDUCED: log entry 35. -/
def State.collSpoiled (s : State) (r : Req) (kind : CollKind) (f : Fmt) (o : CollOp) : State :=
  let a := collArgs r.params
  let n := (match kind with | .allreduce => a.e | .redscatter => a.e / max 1 o.ranks | .allgather => o.ranks * a.e) * (Fmt.width f / 8)
  let w := ((s.cohort? r.cohort).map (·.wsize)).getD 0
  s.deliver r a.dst ((List.range (min n (w - a.dst))).map fun k => Config.openByte s.free k)

/-- A collective faults its barrier; with FABRIC its group is broken. -/
def State.collFault (s : State) (id kind : Nat) : State :=
  match s.req? id with
  | none => s
  | some r =>
    match r.kind with
    | .coll k _ _ _ f o =>
      if r.parked then s
      else
        let s := if kind == 31 then
            { s with links := s.links.map fun g => if g.part == o.part && g.index == o.group then { g with broken := true } else g }
          else s
        (s.collSpoiled r k f o).barFault id kind 0xFFFF
    | _ => s

/-! ### Issue -/

/-- The contributions that have arrived for an operation; any whose head differs is a mismatch (R402). -/
def State.collArrived (s : State) (o : CollOp) : List CollMsg :=
  s.collIn.filter fun m => m.part == o.part && m.group == o.group && m.op == o.op

/-- A contribution cut into the data of messages, whose payloads hold at most 4,096 bytes (R393). -/
def collCuts : Nat → List Byte → List (List Byte)
  | 0, _ => [[]]
  | fuel + 1, bs => if bs.length ≤ 4072 then [bs] else bs.take 4072 :: collCuts fuel (bs.drop 4072)

/-- Send the contribution to every other member; each message waits for its REPLY (R395, R402).
DESIGN CHOICE: log entry 60. -/
def State.collSend (s : State) (id vfn : Nat) (p : Partition) (o : CollOp) (devs : List Nat) (data : List Byte) : State :=
  (devs.filter fun d => d != s.mgmt.device).foldl (fun (s : State) d =>
    (collCuts data.length data).foldl (fun (s : State) bs =>
      let tag := s.tag
      (s.await (some p) d (.coll id d)).transmit d 2 vfn fun eseq => .coll d vfn eseq tag o.group o.op o.head bs) s) s

/-- A member's data joins its contribution: the messages of a flow arrive in order (R393). -/
def addPart (ps : List (Nat × List Byte)) (rank : Nat) (bs : List Byte) : List (Nat × List Byte) :=
  if ps.any fun p => p.1 == rank then ps.map fun p => if p.1 == rank then (rank, p.2 ++ bs) else p else ps ++ [(rank, bs)]

/-- Does a message differ from its operation: its head does, or its source is not in this device's list (R402)? -/
def CollOp.differs (o : CollOp) (head : List Nat) (rank : Nat) : Bool := head != o.head || decide (o.ranks ≤ rank)

/-- The request takes its operation's number, contributes, and meets the messages that came before it.
DEDUCED: log entry 35. -/
def State.collStart (s : State) (id : Nat) (kind : CollKind) (op : RedOp) (fast cnt : Bool) (f : Fmt) (g : LinkGroup)
    (p : Partition) : State :=
  match s.req? id with
  | none => s
  | some r =>
    let a := collArgs r.params
    let o : CollOp :=
      { part := g.part, group := g.index, op := g.issued, ranks := g.devs.length
        rank := (g.devs.findIdx? (· == s.mgmt.device)).getD 0, head := collHead kind op f a.e g.crc }
    let s := (s.setLink { g with issued := g.issued + 1 }).setReq { r with kind := .coll kind op fast cnt f o }
    if g.broken then s.collFault id 31
    else if kind == .redscatter && a.e % o.ranks != 0 then s.barFault id 30 0xFFFF
    else
      let n := a.e * (Fmt.width f / 8)
      let w := ((s.cohort? r.cohort).map (·.wsize)).getD 0
      if a.src + n > w then s.collFault id 19
      else
        let data := ((s.cohort? r.cohort).map fun c => s.winBytes c a.src n).getD []
        let ms := s.collArrived o
        let vfn := ((s.kernel? r.cohort.kernel).bind fun k => (s.context? k.ctx).map (·.vf)).getD 0xFFFF
        let s := s.collSend id vfn p o g.devs data
        let s := { s with collIn := s.collIn.filter fun m => !ms.contains m }
        if ms.any fun m => o.differs m.head m.rank then s.collFault id 30
        else
          match s.req? id with
          | some r => s.setReq { r with parts := ms.foldl (fun ps (m : CollMsg) => addPart ps m.rank m.data) [(o.rank, data)] }
          | none => s

/-- COLL (R291): a stale or absent handle is a mismatch (R401). -/
def execColl (kind : CollKind) (op : RedOp) (fast cnt : Bool) (f : Fmt) (sc : Scope) (a b : Reg) (s : State) :
    Host.Outcome State Fault Refusal :=
  s.runFrag { priv := false, noGlint := true, uses := regUses .s a false 1 false false ++ groupUses b 4 2 } fun x s =>
    let bar := (x.b.sreg a.toNat).toNat
    s.engBarrier x bar
      (if s.engineFull x.core 3 then .stay s
       else
         let id := s.nextId
         let none_ : CollOp := { part := 0, group := 0, op := 0, ranks := 0, rank := 0, head := [] }
         let r := Req.new id x (.coll kind op fast cnt f none_) [] [] bar sc ((List.range 4).map fun j => x.b.sreg (b.toNat + j)) 1
         let s := s.enqueue r
         match (s.partOfCore x.core).bind fun p => (s.linkOf p.id (collArgs r.params).h).map fun g => (p, g) with
         | none => .done (s.collFault id 30)
         | some (p, g) => .done (s.collStart id kind op fast cnt f g p))

/-! ### The result (R57, R292) -/

/-- Element `k` of a contribution as a leaf: `keep` gives the code that a present element is held with. -/
def collLeaf (f : Fmt) (keep : Nat → Nat) (data : List Byte) (k : Nat) : Node :=
  let w := Fmt.width f / 8
  let v := leNat (Xfer.slice data (w * k) w)
  if Fmt.isAbsent f v then Node.none_
  else { val := some (keep v), count := 1, flags := 0 }

/-- Any order and any tree (`.fast`, R292): two nodes, chosen freely, become one until one remains.
DEDUCED: log entry 35. -/
def anyTree (f : Fmt) (op : RedOp) (seed : Nat) : Nat → List Node → Node
  | 0, ns => ns.headD Node.none_
  | fuel + 1, ns =>
    match shuffle (seed + fuel) ns.length ns with
    | a :: b :: rest => anyTree f op seed fuel (Node.join f op a b :: rest)
    | l => l.headD Node.none_

/-- Ranks in ascending order, or in any order. -/
def collReduce (f : Fmt) (op : RedOp) (fast : Bool) (seed : Nat) (ns : List Node) : Node :=
  if fast then anyTree f op seed ns.length ns else ns.foldl (Node.join f op) Node.none_

/-- The result's elements with their counts and flags. DEDUCED: log entry 35. -/
def collResult (kind : CollKind) (op : RedOp) (fast : Bool) (f : Fmt) (o : CollOp) (e seed : Nat)
    (parts : List (List Byte)) : List Node :=
  let red := fun k => collReduce f op fast (seed * 2 ^ 40 + k * 2 ^ 12) (parts.map fun d => collLeaf f (keptCode f) d k)
  match kind with
  | .allreduce => (List.range e).map red
  | .redscatter => (List.range (e / o.ranks)).map fun k => red (o.rank * (e / o.ranks) + k)
  | .allgather => parts.flatMap fun d => (List.range e).map fun k => collLeaf f id d k

/-- Does a message of a collective wait for its member's REPLY (R293, R395)? DEDUCED: log entry 35. -/
def State.collWaits (s : State) (id : Nat) : Bool :=
  s.fabric.any fun q => match q.what with
    | .coll r _ => r == id
    | _ => false

/-- COLL_COMPLETE: with every member's contribution at hand and every member reached, the destination and the counts are
written, and their bytes are counted. -/
def execCollComplete (core req : Nat) (s : State) : Host.Outcome State Fault Refusal :=
  match s.req? req with
  | none => .next s
  | some r =>
    match r.kind with
    | .coll kind op fast cnt f o =>
      let a := collArgs r.params
      let size := a.e * (Fmt.width f / 8)
      let parts := (List.range o.ranks).map fun k => ((r.parts.find? fun p => p.1 == k).map (·.2)).getD []
      if r.core != core || r.parked || r.dropped || r.parts.length != o.ranks || parts.any (fun d => decide (d.length < size)) || s.collWaits req then
        .next s
      else
        let ns := collResult kind op fast f o a.e s.free parts
        let data := ns.flatMap fun n => natLe (Fmt.width f / 8) (n.val.getD (Fmt.absent f))
        let counts := if cnt then ns.flatMap fun n => natLe 2 (min n.count 65534) else []
        let w := ((s.cohort? r.cohort).map (·.wsize)).getD 0
        if a.dst + data.length > w || (cnt && decide (a.cnt + counts.length > w)) then .next (s.collFault req 19)
        else
          let s := (s.deliver r a.dst data).deliver r a.cnt counts
          let n := data.length + counts.length
          let fl := orFlags (ns.map fun n => n.flags ||| if n.count ≥ 65534 then SAT else 0)
          let s := s.setReq { r with flags := fl, delivered := n }
          .next ((s.reqFlags req).countAndEnd req n)
    | _ => .next s

/-! ### Messages and their failures (R293, R395, R402) -/

/-- The request of this device that takes part in an operation. -/
def State.collReq (s : State) (part group op : Nat) : Option Req :=
  s.reqs.find? fun r =>
    match r.kind with
    | .coll _ _ _ _ _ o => !r.parked && o.ranks != 0 && o.part == part && o.group == group && o.op == op
    | _ => false

/-- A contribution of a rank meets its operation: a part of it, a mismatch, or one that this device has not issued. -/
def State.collDeliver (s : State) (g : LinkGroup) (op rank : Nat) (head : List Nat) (data : List Byte) : State :=
  match s.collReq g.part g.index op with
  | some r =>
    match r.kind with
    | .coll _ _ _ _ _ o =>
      if o.differs head rank then s.collFault r.id 30 else s.setReq { r with parts := addPart r.parts rank data }
    | _ => s
  | none =>
    if op < g.issued then s
    else { s with collIn := s.collIn ++ [{ part := g.part, group := g.index, op := op, head := head, rank := rank, data := data }] }

end Sys2Proof.Machine
end

