-- ==== Sys2Proof/Machine/Image.lean ====
section
/-! DEFINITION. Beam control images: their layout and checks, CTXSV and CTXLD (R328 to R331). -/

namespace Sys2Proof.Machine

/-- What a control image holds. The stack is in its own order, the last record pushed first. -/
structure Image where
  w      : Nat
  trape  : Nat
  split  : List Entry
  stack  : List DRec
  stamps : Stamps
  us     : List DWord
  uv     : List (List Word)
  deriving DecidableEq, Repr

/-- Bytes of an image of a beam of width `w`. -/
def imageSize (w : Nat) : Nat := 2560 + 64 * w

/-! ### Writing an image -/

/-- Bytes filled up to `n` with open bytes, which `fill` gives by their place from `off` on. -/
def padTo (fill : Nat → Byte) (off n : Nat) (bs : List Byte) : List Byte :=
  bs ++ (List.range (n - bs.length)).map fun k => fill (off + bs.length + k)

def EState.imageCode : EState → Nat
  | .free => 0 | .run => 3 | .join => 2 | .held => 3

def entryBytes (live : Mask) (y : Entry) : List Byte :=
  natLe 8 (y.pc % 2 ^ 56 + y.st.imageCode * 2 ^ 56) ++ natLe 8 (y.mask &&& live).toNat ++
    natLe 8 (match y.join with | some j => j % 2 ^ 56 + 2 ^ 63 | none => 0) ++
    natLe 1 (y.parent.getD 0xFF) ++ natLe 1 y.rstack.length ++ natLe 6 0

def recordImage (live : Mask) (r : DRec) : List Byte :=
  natLe 8 (r.pc % 2 ^ 56 + if r.marker then 2 ^ 63 else 0) ++ natLe 8 (r.mask &&& live).toNat ++ natLe 8 r.j ++
    natLe 1 r.rstack.length ++ natLe 1 r.owner ++ natLe 6 0

/-- A return stack, bottom first. -/
def stackImage (fill : Nat → Byte) (off : Nat) (rs : List Nat) : List Byte :=
  padTo fill off 64 (rs.reverse.flatMap (natLe 8))

def stampImage (t : Stamps) : List Byte := (t.s ++ t.k ++ t.sp).map fun x => BitVec.ofNat 8 (x.getD 0xFF)

/-- The image's bytes; `live` are the beam's lanes that have not exited, `fill` the bytes of unused places. -/
def Image.bytes (m : Image) (live : Mask) (fill : Nat → Byte) : List Byte :=
  let recs := m.stack.reverse
  natLe 2 0x0100 ++ natLe 1 m.w ++ natLe 1 recs.length ++ natLe 4 m.trape ++ natLe 4 (imageSize m.w) ++ natLe 52 0 ++
    m.split.flatMap (entryBytes live) ++
    padTo fill 320 512 (recs.flatMap (recordImage live)) ++
    (m.split.zipIdx.flatMap fun p => stackImage fill (832 + 64 * p.2) p.1.rstack) ++
    padTo fill 1344 1024 (recs.zipIdx.flatMap fun p => stackImage fill (1344 + 64 * p.2) p.1.rstack) ++
    stampImage m.stamps ++ natLe 48 0 ++ m.us.flatMap (fun x => natLe 8 x.toNat) ++
    m.uv.flatMap fun r => r.flatMap fun x => natLe 4 x.toNat

/-! ### Reading an image -/

/-- `n` bytes at a place as a number. -/
def natAt (bs : List Byte) (off n : Nat) : Nat := leNat ((bs.drop off).take n)

def readStack (bs : List Byte) (k n : Nat) : List Nat := ((List.range (min n 8)).map fun j => natAt bs (832 + 64 * k + 8 * j) 8).reverse

def readEntry (bs : List Byte) (k : Nat) : Entry :=
  let o := 64 + 32 * k
  let st := bits (natAt bs o 8) 56 2
  let parent := natAt bs (o + 24) 1
  { Entry.none_ with
    st := if st == 0 then .free else if st == 1 then .run else if st == 2 then .join else .held
    pc := natAt bs o 7, mask := BitVec.ofNat 64 (natAt bs (o + 8) 8)
    join := if bits (natAt bs (o + 16) 8) 63 1 == 1 then some (natAt bs (o + 16) 7) else none
    parent := if parent == 0xFF then none else some parent
    rstack := readStack bs k (natAt bs (o + 25) 1) }

def readRecord (bs : List Byte) (k : Nat) : DRec :=
  let o := 320 + 32 * k
  { marker := bits (natAt bs o 8) 63 1 == 1, pc := natAt bs o 7, mask := BitVec.ofNat 64 (natAt bs (o + 8) 8)
    j := natAt bs (o + 16) 7, owner := natAt bs (o + 25) 1, rstack := readStack bs (8 + k) (natAt bs (o + 24) 1), blk := none
    back := false }

def readStamps (bs : List Byte) : Stamps :=
  let f := fun lo n => (List.range n).map fun j =>
    let x := natAt bs (2368 + lo + j) 1
    if x == 0xFF then none else some x
  { s := f 0 64, k := f 64 8, sp := f 72 8 }

/-- The image that bytes hold. -/
def Image.ofBytes (bs : List Byte) : Image :=
  let w := natAt bs 2 1
  { w := w, trape := natAt bs 4 1, split := (List.range 8).map (readEntry bs)
    stack := ((List.range (min 16 (natAt bs 3 1))).map (readRecord bs)).reverse, stamps := readStamps bs
    us := (List.range 8).map fun j => BitVec.ofNat 64 (natAt bs (2496 + 8 * j) 8)
    uv := (List.range 16).map fun r => (List.range w).map fun i => BitVec.ofNat 32 (natAt bs (2560 + 4 * (w * r + i)) 4) }

/-! ### The checks of R330 -/

/-- Are the bytes from `off` on zero? -/
def zeroAt (bs : List Byte) (off n : Nat) : Bool := ((bs.drop off).take n).all (· == 0)

/-- Check 1: version, width, size, depth, zero bytes. -/
def imageShape (bs : List Byte) (w : Nat) : Bool :=
  natAt bs 0 2 == 0x0100 && natAt bs 2 1 == w && natAt bs 8 4 == imageSize w && decide (natAt bs 3 1 ≤ 16) &&
    zeroAt bs 5 3 && zeroAt bs 12 52 && zeroAt bs 2448 48 &&
    (List.range 8).all (fun k => zeroAt bs (64 + 32 * k + 26) 6) &&
    (List.range (natAt bs 3 1)).all fun k => zeroAt bs (320 + 32 * k + 26) 6

/-- Check 2: no run entry; parents are join entries; depths; owners that are not free. -/
def imageLinks (bs : List Byte) (m : Image) : Bool :=
  m.split.all (fun y => y.st != .run && match y.parent with
    | some p => decide (p < 8) && (m.split.getD p Entry.none_).st == .join
    | none => true) &&
    (List.range 8).all (fun k => natAt bs (64 + 32 * k + 25) 1 ≤ 8) &&
    (List.range m.stack.length).all (fun k => natAt bs (320 + 32 * k + 24) 1 ≤ 8) &&
    m.stack.all fun r => decide (r.owner < 8) && (m.split.getD r.owner Entry.none_).st != .free

/-- Are masks pairwise disjoint? -/
def disjoint : List Mask → Bool
  | [] => true
  | m :: ms => ms.all (fun n => m &&& n == 0) && disjoint ms

/-- Check 3: masks within the beam's live lanes, the held ones disjoint. -/
def imageMasks (m : Image) (live : Mask) : Bool :=
  (m.split.map (·.mask) ++ m.stack.map (·.mask)).all (fun x => x &&& ~~~live == 0) &&
    disjoint ((m.split.filter fun y => y.st == .held).map (·.mask))

/-- Check 4: writer stamps. -/
def imageStamps (m : Image) (w : Nat) : Bool :=
  (m.stamps.s ++ m.stamps.k ++ m.stamps.sp).all fun x => match x with | some i => decide (i < w) | none => true

/-- The first condition that an image breaks (R330). -/
def imageFault (bs : List Byte) (w : Nat) (live : Mask) : Option Nat :=
  let m := Image.ofBytes bs
  if !imageShape bs w then some 1
  else if !imageLinks bs m then some 2
  else if !imageMasks m live then some 3
  else if !imageStamps m w then some 4
  else none

/-! ### Lanes that have arrived -/

/-- Is join entry `j` an ancestor of entry `e`, at most `fuel` steps up? -/
def descends (split : List Entry) (j : Nat) : Nat → Nat → Bool
  | 0, _ => false
  | fuel + 1, e =>
    match (split.getD e Entry.none_).parent with
    | some p => p == j || descends split j fuel p
    | none => false

/-- Lanes of a join entry that have arrived at it: those that no fragment, and no inner join entry or record of the stack
of an entry under it, holds (R82). An image does not hold them. -/
def arrivedAt (split : List Entry) (stack : List DRec) (j : Nat) : Mask :=
  let away := (split.zipIdx.filter fun p =>
      p.1.st == .run || p.1.st == .held || (p.1.st == .join && p.2 != j && descends split j 8 p.2)).map (·.1.mask) ++
    (stack.filter fun r => descends split j 8 r.owner).map (·.mask)
  away.foldl (fun m x => m &&& ~~~x) (split.getD j Entry.none_).mask

/-- Split entries with their arrived lanes. -/
def withArrived (split : List Entry) (stack : List DRec) : List Entry :=
  split.zipIdx.map fun p => if p.1.st == .join then { p.1 with arrived := arrivedAt split stack p.2 } else p.1

/-! ### CTXSV and CTXLD (R329, R331) -/

/-- Bytes that nothing fixes, the `n`-th step's. DESIGN CHOICE: log entry 8. -/
def State.openBytes (s : State) : Nat → Byte := Config.openByte s.free

/-- The user's image of a beam in trap mode. DEDUCED: log entry 38. -/
def Beam.userImage (b : Beam) (tm : TrapMode) (fill : Nat → Byte) : Image :=
  { w := b.w, trape := tm.entry, split := b.userSplit tm, stack := b.userStack tm, stamps := b.stamps
    us := (List.range 8).map fun j =>
      if 56 + j < b.ns then b.s.getD (56 + j) 0 else BitVec.ofNat 64 (leNat ((List.range 8).map fun n => fill (2496 + 8 * j + n)))
    uv := (List.range 16).map fun r =>
      if 240 + r < b.nv then b.v.getD (240 + r) []
      else (List.range b.w).map fun i => BitVec.ofNat 32 (leNat ((List.range 4).map fun n => fill (2560 + 4 * (b.w * r + i) + n))) }

/-- The accesses of an image: 64 bytes each, the first at sA. -/
def imageAcc (acc : Access) : Acc :=
  { spad := false, acc := acc, atomic := false, n := 64, uniform := true, wide := false, near := false }

def Frag.imageUnits (x : Frag) (a : Nat) : List (Nat × Int) :=
  (List.range (imageSize x.w / 64)).map fun j => (x.lead, ((a + 64 * j : Nat) : Int))

def execCtxsv (a : Reg) (s : State) : Host.Outcome State Fault Refusal :=
  s.runFrag { priv := true, noGlint := false, uses := regUses .s a false 1 false false } fun x s =>
    let p := (x.b.sreg a.toNat).toNat
    match x.b.trap with
    | none => .done s
    | some tm =>
      if Fmt.isAbsent .n64 p then .done s
      else
        let k := imageAcc .write
        let us := x.imageUnits p
        let bs := (x.b.userImage tm s.openBytes).bytes x.b.live s.openBytes
        s.access x k (.ctxsv a) us
          (.done (us.zipIdx.foldl (fun (s : State) (u : (Nat × Int) × Nat) =>
            (s.laneNote x k u.1.2.toNat).laneWrite x k u.1.2.toNat ((bs.drop (64 * u.2)).take 64)) s))

/-- The block among some that an address lies in. -/
def blockAt (ks : List Block) (pc : Nat) : Option Block := ks.find? fun k => decide (k.hdr + 8 ≤ pc ∧ pc < k.stop)

/-- An entry of an image in place of the user's entry: one that stands where it stood keeps its block and its wait.
DEDUCED: log entry 38. -/
def Entry.inherit (y old : Entry) (ks : List Block) : Entry :=
  if y.st != .free && old.st == y.st && old.pc == y.pc then
    { y with blk := old.blk, wait := old.wait, carry := old.carry, back := old.back, since := old.since }
  else { y with blk := blockAt ks y.pc, since := old.since }

/-- The beam with an image in its user's place (R329). DEDUCED: log entry 38. -/
def Beam.loadImage (b : Beam) (tm : TrapMode) (m : Image) : Beam :=
  let old := b.userSplit tm
  let ks := old.filterMap (·.blk) ++ (b.userStack tm).filterMap (·.blk) ++ tm.held.blk.toList
  let stack := m.stack.map fun r => { r with blk := blockAt ks r.pc }
  let split := withArrived (m.split.zipIdx.map fun p => p.1.inherit (old.getD p.2 Entry.none_) ks) stack
  { b with
    trap := some { tm with loaded := some (split, stack) }
    stamps := m.stamps
    s := m.us.zipIdx.foldl (fun l x => l.set (56 + x.2) x.1) b.s
    v := m.uv.zipIdx.foldl (fun l x => l.set (240 + x.2) x.1) b.v }

def execCtxld (a : Reg) (s : State) : Host.Outcome State Fault Refusal :=
  s.runFrag { priv := true, noGlint := false, uses := regUses .s a false 1 false false } fun x s =>
    let p := (x.b.sreg a.toNat).toNat
    match x.b.trap with
    | none => .done s
    | some tm =>
      if Fmt.isAbsent .n64 p then .done s
      else
        let k := imageAcc .read
        let us := x.imageUnits p
        let bs := us.flatMap fun u => s.laneRead x k (2 ^ 512 - 1) u.2.toNat
        s.access x k (.ctxld a) us
          (match imageFault bs x.w x.b.live with
           | some n => .trap { group := gREGISTER, code := 5, lanes := none, x := 0, y := 0, z := n }
           | none => (s.notes x k us).beamDone (x.b.loadImage tm (Image.ofBytes bs)))

end Sys2Proof.Machine
end

