-- ==== Sys2Proof/Machine/Message.lean ====
section
/-! DEFINITION. Rings and messages (R245 to R251, R400). -/

namespace Sys2Proof.Machine

/-! ### Handles (R245) -/

/-- What a ring handle names. -/
inductive Ring where
  | window (dev kernel cohort off : Nat)
  | mem (va : Nat)
  | bad
  deriving DecidableEq, Repr

def ringOf (h : Nat) : Ring :=
  if bits h 63 1 == 1 then (if bits h 56 7 != 0 then .bad else .mem (bits h 0 56))
  else .window (bits h 53 10) (bits h 38 15) (bits h 22 16) (bits h 0 22)

/-! ### Where a ring lies -/

/-- The bytes of a ring: a cohort's window, or a context's memory as a core translates it. -/
inductive Space where
  | window (c : CohortKey)
  | mem (core : Nat) (ctx : Nat)
  deriving DecidableEq, Repr

/-- The physical address of one byte of a context's memory, of those that `State.access` has checked. -/
def State.ringPa (s : State) (core ctx : Nat) (write : Bool) (va : Nat) : Option Nat :=
  match (s.context? ctx).map fun x => s.xlate (.beam core) write x va with
  | some (.page pa _ _ _ _) => some pa
  | _ => none

/-- The bytes of a descriptor or of a buffer. -/
def State.spBytes (s : State) (sp : Space) (a n : Nat) : List Byte :=
  match sp with
  | .window c => ((s.cohort? c).map fun c => s.winBytes c a n).getD []
  | .mem core ctx => (List.range n).map fun k => ((s.ringPa core ctx false (a + k)).map s.mem.read).getD 0

def State.spNat (s : State) (sp : Space) (a n : Nat) : Nat := leNat (s.spBytes sp a n)

/-- What the translations of a write to memory leave (R379, R381). -/
def State.ringNotes (s : State) (core ctx a n : Nat) : State :=
  match s.context? ctx with
  | some x => (pagesOf a n).foldl (fun (s : State) va => s.xlNote (.beam core) true x va) s
  | none => s

/-- The interface writes beneath every L1 but that of the context's own core, whose beam the write belongs to (R249, R297,
R310). -/
def State.spPut (s : State) (sp : Space) (a : Nat) (bs : List Byte) : State :=
  match sp with
  | .window c => s.winData c a bs
  | .mem core ctx =>
    (bs.zipIdx a).foldl (fun (s : State) (p : Byte × Nat) =>
      match s.ringPa core ctx true p.2 with
      | some pa => s.writeByte (some core) pa p.1
      | none => s) (s.ringNotes core ctx a bs.length)

/-! ### Descriptors (R246) -/

/-- A ring's descriptor: where it lies, its buffer, size and pointers. -/
structure RingDesc where
  sp   : Space
  desc : Nat
  buf  : Nat
  size : Nat
  tail : Nat
  head : Nat
  deriving DecidableEq, Repr

/-- Bytes that a window holds; no bound for memory, whose pages are checked. -/
def State.spEnd (s : State) : Space → Nat
  | .window c => ((s.cohort? c).map (·.wsize)).getD 0
  | .mem .. => 2 ^ 56

/-- The descriptor of an open and valid ring (R246). -/
def State.ring? (s : State) (sp : Space) (d : Nat) : Option RingDesc :=
  if d % 32 != 0 || decide (d + 32 > s.spEnd sp) then none
  else
    let f := fun k n => s.spNat sp (d + k) n
    let base := f 0 4
    let size := f 4 4
    let buf := match sp with
      | .window _ => base
      | .mem .. => d / 2 ^ 32 * 2 ^ 32 + base
    if f 16 4 != 1 || f 20 4 != 0 || f 24 8 != 0 || base % 32 != 0 || decide (size < 512 ∨ 1048576 < size) ||
        size != 2 ^ Nat.log2 size || decide (buf + size > s.spEnd sp) then none
    else some { sp := sp, desc := d, buf := buf, size := size, tail := f 8 4, head := f 12 4 }

/-- Does the whole buffer lie in near pages? One that does not makes its ring invalid (R246); a window's buffer lies in the
window. -/
def State.ringNear (s : State) (r : RingDesc) : Bool :=
  match r.sp with
  | .window _ => true
  | .mem core ctx =>
    (pagesOf r.buf r.size).all fun a =>
      match (s.context? ctx).map fun x => s.xlate (.beam core) false x a with
      | some (.page pa tier _ _ _) => tier == 0 && (regPageOf pa).isNone
      | _ => false

/-! ### Appending (R247, R249) -/

/-- Bytes of a record with a payload of n bytes. -/
def recordBytes (n : Nat) : Nat := 8 + roundUp n 8

/-- Bytes in use. -/
def RingDesc.used (r : RingDesc) : Nat := (r.tail + 2 ^ 32 - r.head) % 2 ^ 32

/-- Bytes of the PAD record that must come first. -/
def RingDesc.pad (r : RingDesc) (n : Nat) : Nat :=
  let left := r.size - r.tail % r.size
  if left < recordBytes n then left else 0

/-- Does a message of n bytes fit? -/
def RingDesc.fits (r : RingDesc) (n : Nat) : Bool := decide (r.used + r.pad n + recordBytes n ≤ r.size)

/-- The aligned 8-byte units of the buffer's space that hold n bytes from a position on; a position that is no multiple of 8,
which software has made so, raises no trap (R246). -/
def RingDesc.unitsAt (r : RingDesc) (pos n : Nat) : List Nat :=
  (List.range ((pos % 8 + n + 7) / 8)).map fun k => r.buf + (pos / 8 * 8 + 8 * k) % r.size

/-- The units that an append of n bytes writes. -/
def RingDesc.units (r : RingDesc) (n : Nat) : List Nat := r.unitsAt r.tail (r.pad n + recordBytes n)

/-- Append a message to an open and valid ring that it fits (R249). -/
def State.ringPut (s : State) (r : RingDesc) (seq : Nat) (data : List Byte) : State :=
  let n := data.length
  let pad := r.pad n
  let s := if pad == 0 then s
    else s.spPut r.sp (r.buf + r.tail % r.size) (natLe 8 (2 ^ 16) ++ List.replicate (pad - 8) 0)
  let pos := r.buf + (r.tail + pad) % r.size
  let s := s.spPut r.sp (pos + 8) (data ++ List.replicate (roundUp n 8 - n) 0)
  let s := s.spPut r.sp pos (natLe 8 (n + seq % 2 ^ 32 * 2 ^ 32))
  s.spPut r.sp (r.desc + 8) (natLe 4 (r.tail + pad + recordBytes n))

/-- The receiving interface: RING_FULL, NO_RING, or the append (R248, R249). -/
def State.append (s : State) (sp : Space) (d seq : Nat) (data : List Byte) : State × Nat :=
  match s.ring? sp d with
  | none => (s, 0x102)
  | some r => if r.fits data.length then (s.ringPut r seq data, 0) else (s, 0x101)

/-- A cohort that may receive: its kernel runs and its window exists (R248). -/
def State.receiver (s : State) (kernel cohort : Nat) : Option (Kernel × Cohort) :=
  match s.kernel? kernel, s.cohort? ⟨kernel, cohort⟩ with
  | some k, some c => if c.st == .resident || c.st == .parked then some (k, c) else none
  | _, _ => none

/-! ### MSEND (R248, R400) -/

/-- The SEQ of a beam's next send to a ring, and the beam after it (R247). DEDUCED: log entry 51. -/
def Beam.sendSeq (b : Beam) (h : DWord) : Nat × Beam :=
  let n := ((b.sends.find? fun p => p.1 == h).map (·.2)).getD 0
  (n, { b with sends := (h, n + 1) :: b.sends.filter fun p => p.1 != h })

/-- The payload's bytes: an access of the window that is 4-byte aligned (R248). -/
def State.payloadTrap (s : State) (x : Frag) (p n : Nat) : Option Trap :=
  let k : Acc := { spad := true, acc := .read, atomic := false, n := n, uniform := true, wide := false, near := false }
  let fs := (if p % 4 != 0 then [(gALIGN, 1)] else []) ++
    match s.cohort? x.b.cohort with
    | some c => c.spadFaults k p
    | none => []
  x.memTrap k (fs.map fun f => (x.lead, (p : Int), f.1, f.2))

/-- An access of a memory ring's descriptor (R245, R246): a read, and where TAIL or HEAD moves a write as well.
DEDUCED: log entry 51. -/
def descAcc (acc : Access) : Acc :=
  { spad := false, acc := acc, atomic := false, n := 32, uniform := true, wide := true, near := true }

/-- The interface's write of the buffer. -/
def bufAcc (acc : Access) : Acc :=
  { spad := false, acc := acc, atomic := false, n := 8, uniform := true, wide := true, near := true }

/-- MSG traps (R410). -/
def msgTrap (code h n : Nat) : Trap :=
  { group := gMSG, code := code, lanes := none, x := h % 2 ^ 32, y := h / 2 ^ 32, z := min n (2 ^ 32 - 1) }

/-- A misaligned window descriptor (R222, R246). -/
def Frag.descTrap (x : Frag) (off : Nat) : Option Trap :=
  if off % 32 == 0 then none
  else x.memTrap { descAcc .rmw with spad := true } [(x.lead, (off : Int), gALIGN, 1)]

/-- Answer of an MSEND that ends at once. -/
def State.msendDone (s : State) (x : Frag) (d : Reg) (code : Nat) : Res :=
  .done (s.sendS x .n64 d code (s.loadReady x chunkAcc []))

/-- The result register is empty until the REPLY (R248, R179); a banked register is told by its number + 64. -/
def State.msendAway (s : State) (x : Frag) (d : Reg) (dev vc : Nat) (h : DWord) (seq : Nat) (data : List Byte) : State :=
  match s.beam? x.b.key with
  | none => s
  | some b =>
    let c := b.claimS x.lead d.toNat
    let s := s.setBeam ((c.getD b).setSfull d.toNat false)
    let vfn := ((s.contextOf x.b).map (·.vf)).getD 0xFFFF
    let tag := s.tag
    let r := d.toNat + if b.bankedS d.toNat then 64 else 0
    (s.await (s.partOfCore x.core) dev (.msend b.cohort b.key x.e r c.isNone)).transmit dev vc vfn fun eseq =>
      .ring dev vc vfn eseq tag h seq data

/-- MSEND to a window ring (R245, R248, R396). -/
def State.msendWindow (s : State) (x : Frag) (d : Reg) (h : DWord) (dev kernel cohort off : Nat) (data : List Byte) : Res :=
  let q := x.b.sendSeq h
  let s := s.setBeam q.2
  if dev != s.mgmt.device then
    let vc := if s.classOf x.b == 0 then 0 else 1
    if ((s.partOfCore x.core).map fun p => p.egress.contains dev).getD false then
      .done (s.msendAway x d dev vc h q.1 data)
    else s.msendDone x d 0x103
  else
    match s.receiver kernel cohort with
    | none => s.msendDone x d 0x102
    | some (k, _) =>
      if (s.kernelOf x.b).map (·.ctx) != some k.ctx then s.msendDone x d 0x103
      else
        let r := s.append (.window ⟨kernel, cohort⟩) off q.1 data
        r.1.msendDone x d r.2

/-- MSEND to a memory ring of the issuing context: the pages of its bytes are checked as accesses of the instruction (R245,
R248), before the rest of the buffer is judged (R246). DEDUCED: log entry 51. -/
def State.msendMem (s : State) (x : Frag) (d : Reg) (i : Instr) (h : DWord) (va : Nat) (data : List Byte) : Res :=
  match s.kernelOf x.b with
  | none => .done s
  | some k =>
    let sp := Space.mem x.core k.ctx
    let q := x.b.sendSeq h
    let ls := [(x.lead, (va : Int))]
    s.access x (descAcc .read) i ls
      (let s1 := (s.setBeam q.2).laneNote x (descAcc .read) va
       match s1.ring? sp va with
       | none => s1.msendDone x d 0x102
       | some r =>
         if r.fits data.length then
           let us := (r.units data.length).map fun u : Nat => (x.lead, (u : Int))
           s.access x (bufAcc .write) i us
             (if s1.ringNear r then s.access x (descAcc .rmw) i ls ((s1.ringPut r q.1 data).msendDone x d 0)
              else s1.msendDone x d 0x102)
         else s1.msendDone x d (if s1.ringNear r then 0x101 else 0x102))

def msgUses (d : Reg) (a : SArg) : List Use := dstS d ++ SArg.uses 1 a

def execMsend (d : Reg) (a b : SArg) (s : State) : Host.Outcome State Fault Refusal :=
  s.runFrag { priv := false, noGlint := false
              uses := msgUses d a ++ SArg.uses 2 b ++ [{ set := .s, r := b.r.toNat + 1, src := 5, dst := false, trap := false }] }
    fun x s =>
      let h := x.sval a
      let p := x.sval b
      let n := (x.b.sreg (b.r.toNat + 1)).toNat
      if [h, p, n].any (Fmt.isAbsent .n64) then s.beamDone (x.putS d (Fmt.absent .n64))
      else if n < 1 || n > 256 then .trap (msgTrap 1 h n)
      else
        match ringOf h with
        | .bad => .trap (msgTrap 2 h 0)
        | ring =>
          match s.payloadTrap x p n with
          | some t => .trap t
          | none =>
            let data := ((s.cohort? x.b.cohort).map fun c => c.bytes p n).getD []
            match ring with
            | .bad => .trap (msgTrap 2 h 0)
            | .window dev kernel cohort off =>
              match x.descTrap off with
              | some t => .trap t
              | none => s.msendWindow x d (BitVec.ofNat 64 h) dev kernel cohort off data
            | .mem va => s.msendMem x d (.msend d a b) (BitVec.ofNat 64 h) va data

/-! ### Consumers (R250, R251) -/

/-- The header of the record at a position: LEN, PAD. -/
def State.ringHeader (s : State) (r : RingDesc) (head : Nat) : Nat × Bool :=
  let w := s.spNat r.sp (r.buf + head % r.size) 8
  (bits w 0 16, bits w 16 1 == 1)

/-- HEAD past PAD records, while the ring is not empty. -/
def State.pastPads (s : State) (r : RingDesc) : Nat → Nat → Nat
  | 0, head => head
  | fuel + 1, head =>
    if head == r.tail then head
    else if (s.ringHeader r head).2 then s.pastPads r fuel ((head + (r.size - head % r.size)) % 2 ^ 32)
    else head

/-- The units of the headers that a consumer reads: of PAD records, and of the record behind them. -/
def State.headersRead (s : State) (r : RingDesc) : Nat → Nat → List Nat
  | 0, _ => []
  | fuel + 1, head =>
    if head == r.tail then []
    else r.unitsAt head 8 ++
      (if (s.ringHeader r head).2 then s.headersRead r fuel ((head + (r.size - head % r.size)) % 2 ^ 32) else [])

/-- The ring of a consumer, with its checks; `go` gets the descriptor. A kind 0 handle names the issuing cohort's own
window by OFFSET alone. The pages of the headers that are read are checked as accesses of the instruction (R245), before the
rest of the buffer is judged (R246). DEDUCED: log entry 51. -/
def State.consume (s : State) (x : Frag) (i : Instr) (h : Nat) (go : State → RingDesc → Res) : Res :=
  match ringOf h with
  | .bad => .trap (msgTrap 2 h 0)
  | .window _ _ _ off =>
    match x.descTrap off with
    | some t => .trap t
    | none =>
      match s.ring? (.window x.b.cohort) off with
      | none => .trap (msgTrap 3 h 0)
      | some r => go s r
  | .mem va =>
    match s.kernelOf x.b with
    | none => .done s
    | some k =>
      s.access x (descAcc .read) i [(x.lead, (va : Int))]
        (let s1 := s.laneNote x (descAcc .read) va
         match s1.ring? (.mem x.core k.ctx) va with
         | none => .trap (msgTrap 3 h 0)
         | some r =>
           let us := (s1.headersRead r 4 r.head).map fun u : Nat => (x.lead, (u : Int))
           s.access x (bufAcc .read) i us
             (if s1.ringNear r then go (s1.notes x (bufAcc .read) us) r else .trap (msgTrap 3 h 0)))

/-- HEAD is written back where it moved. -/
def State.putHead (s : State) (r : RingDesc) (head : Nat) : State :=
  if head == r.head then s else s.spPut r.sp (r.desc + 12) (natLe 4 head)

/-- HEAD moves where it must, which is a write of the descriptor: a memory ring's page is checked for it, and waited for
(R245, R386). DEDUCED: log entry 51. -/
def State.moveHead (s : State) (x : Frag) (i : Instr) (r : RingDesc) (head : Nat) (go : State → Res) : Res :=
  match r.sp with
  | .window _ => go (s.putHead r head)
  | .mem .. =>
    if head == r.head then go s else s.access x (descAcc .rmw) i [(x.lead, (r.desc : Int))] (go (s.putHead r head))

/-- When the answer about a ring comes, and the unit that an error in it names: a window's ring lies in the scratchpad (R412). -/
def State.ringReady (s : State) (x : Frag) (r : RingDesc) : Arrival :=
  let a := s.loadReady x chunkAcc []
  match r.sp with
  | .window _ => { a with units := [2] }
  | .mem .. => { a with units := [4] }

/-- What MPOLL and MWAIT return: the header's place, absent from an empty ring. A record returned is an acquire of scope
`.sys` (R251, R310). DEDUCED: log entry 51. -/
def State.polled (s : State) (x : Frag) (i : Instr) (d : Reg) (r : RingDesc) : Res :=
  let head := s.pastPads r 4 r.head
  s.moveHead x i r head fun s =>
    if head == r.tail then .done (s.sendS x .n64 d (Fmt.absent .n64) (s.ringReady x r))
    else .done ((s.acquire x true .sys).sendS x .n64 d (r.buf + head % r.size) (s.ringReady x r))

/-- MPOLL (R250): an absent handle gives absent, as at MWAIT and MPOP. DEDUCED: log entry 51. -/
def execMpoll (d a : Reg) (s : State) : Host.Outcome State Fault Refusal :=
  s.runFrag { priv := false, noGlint := false, uses := msgUses d ⟨a, false⟩ } fun x s =>
    let h := (x.b.sreg a.toNat).toNat
    if Fmt.isAbsent .n64 h then s.beamDone (x.putS d (Fmt.absent .n64))
    else s.consume x (.mpoll d a) h fun s r => s.polled x (.mpoll d a) d r

/-- MWAIT: MPOLL, but an empty ring puts the fragment to sleep until TAIL changes or the limit expires.
DEDUCED: log entry 51. -/
def execMwait (d : Reg) (a b : SArg) (s : State) : Host.Outcome State Fault Refusal :=
  s.runFrag { priv := false, noGlint := true, uses := msgUses d a ++ SArg.uses 2 b } fun x s =>
    let h := x.sval a
    let i : Instr := .mwait d a b
    if Fmt.isAbsent .n64 h then s.beamDone (x.putS d (Fmt.absent .n64))
    else if x.asleep .mwait then .stay s
    else
      s.consume x i h fun s r =>
        let lim := x.sval b
        let c := x.waited .mwait (if Fmt.isAbsent .n64 lim then none else some lim)
        if s.pastPads r 4 r.head != r.tail || c.2 == some 0 then s.polled x i d r
        else .stay (s.sleep x { kind := .mwait, ins := i, words := x.words, waited := c.1, rem := c.2, woken := false, aux := r.tail })

/-- MWAIT_WAKE: the ring's TAIL has changed. -/
def execMwaitWake (b : BeamKey) (e : Nat) (s : State) : Host.Outcome State Fault Refusal :=
  .next (s.wake b e .mwait fun _ => true)

/-- MWAIT_TIMEOUT: the limit has expired. -/
def execMwaitTimeout (b : BeamKey) (e : Nat) (s : State) : Host.Outcome State Fault Refusal :=
  .next (s.wake b e .mwait fun w => w.rem == some 0)

/-- MPOP: HEAD past the record at HEAD; the bytes freed. DEDUCED: log entry 51. -/
def execMpop (d a : Reg) (s : State) : Host.Outcome State Fault Refusal :=
  s.runFrag { priv := false, noGlint := false, uses := msgUses d ⟨a, false⟩ } fun x s =>
    let h := (x.b.sreg a.toNat).toNat
    if Fmt.isAbsent .n64 h then s.beamDone (x.putS d (Fmt.absent .n64))
    else
      s.consume x (.mpop d a) h fun s r =>
        let head := s.pastPads r 4 r.head
        if head == r.tail then .done (s.sendS x .n64 d (Fmt.absent .n64) (s.ringReady x r))
        else
          let next := (head + recordBytes (s.ringHeader r head).1) % 2 ^ 32
          s.moveHead x (.mpop d a) r next fun s =>
            .done (s.sendS x .n64 d ((next + 2 ^ 32 - r.head) % 2 ^ 32) (s.ringReady x r))

end Sys2Proof.Machine
end

