-- ==== Sys2Proof/Machine/Queue.lean ====
section
/-! DEFINITION. Accesses from outside the cores, queue records and appends, and LAUNCH (R167, R333 to R337, R381, R397). -/

namespace Sys2Proof.Machine

/-! ### Accesses through the I/O dies' TLB (R381, R385) -/

/-- The first condition of MEM.XLATE or MEM.PROT that a range of a context meets. -/
def State.ioFault (s : State) (v : Via) (x : Context) (acc : Access) (va n : Nat) : Option (Nat × Nat) :=
  if va + n > 2 ^ 56 then some (gXLATE, 3)
  else (pagesOf va n).findSome? fun a => (xlFaults x acc (s.xlate v acc.writes x a)).head?

/-- Does a write of a range wait for a migrating page (R386)? -/
def State.ioMigrates (s : State) (v : Via) (x : Context) (va n : Nat) : Bool :=
  (pagesOf va n).any fun a => (s.xlate v true x a).migrates .write

/-- One byte; an absent page reads 0xFF (R66). -/
def State.ioByte (s : State) (v : Via) (x : Context) (va : Nat) : Byte :=
  match s.xlate v false x va with
  | .page pa _ _ _ _ =>
    if (regPageOf pa).isSome then (s.pageRead (pa / 8 * 8) 8).getD (pa % 8) 0 else s.mem.read pa
  | _ => 0xFF

def State.ioRead (s : State) (v : Via) (x : Context) (va : Nat) : Nat → List Byte
  | 0 => []
  | n + 1 => s.ioByte v x va :: s.ioRead v x (va + 1) n

def State.ioNat (s : State) (v : Via) (x : Context) (va n : Nat) : Nat := leNat (s.ioRead v x va n)

/-- Does a range lie in far memory whose CXL ports are all down (R404)? -/
def State.ioDown (s : State) (v : Via) (write : Bool) (x : Context) (va n : Nat) : Bool :=
  (pagesOf va n).any fun a => match s.xlate v write x a with
    | .page pa tier _ _ _ => tier != 0 && s.farDown pa
    | _ => false

/-- A range as aligned 8-byte units, or the parts of them at its ends (R397). -/
def unitsOf : Nat → Nat → List Byte → List (Nat × List Byte)
  | 0, _, _ => []
  | fuel + 1, va, bs => if bs.isEmpty then [] else (va, bs.take (8 - va % 8)) :: unitsOf fuel (va + 8 - va % 8) (bs.drop (8 - va % 8))

/-- Write one unit at `.sys`: a write to far memory, or through the near cache, waits for its acknowledgement (R314, R338,
R397). DESIGN CHOICE: log entry 19. -/
def State.ioUnit (s : State) (who : Writer) (v : Via) (x : Context) (va : Nat) (bs : List Byte) : State :=
  match s.xlate v true x va with
  | .page pa tier _ _ _ =>
    if (regPageOf pa).isSome then (if bs.length == 8 || (bs.length == 4 && pa % 4 == 0) then s.pageWrite pa bs else s)
    else
      let t := s.writeBytes none (tier == 2) pa bs
      if tier == 1 then t.post who true pa
      else if tier == 2 then t.flush who ([nearLine pa, nearLine (pa + bs.length - 1)].eraseDups)
      else t
  | _ => s

def State.ioWrite (s : State) (who : Writer) (v : Via) (x : Context) (va : Nat) (bs : List Byte) : State :=
  (unitsOf (bs.length + 1) va bs).foldl (fun (s : State) (u : Nat × List Byte) => s.ioUnit who v x u.1 u.2) s

/-- What the translations of a range leave behind (R379, R381). -/
def State.ioNotes (s : State) (v : Via) (x : Context) (va n : Nat) (write : Bool) : State :=
  (pagesOf va n).foldl (fun (s : State) a => s.xlNote v write x a) s

/-! ### Records (R334, R335, R337) -/

/-- First byte of a record's tail that must be zero, by type. -/
def recordEnd (ty : Nat) : Nat :=
  if ty == 1 then 48 else if ty == 2 then 40 else if ty == 3 || ty == 4 then 32 else if ty == 5 || ty == 6 then 24 else 16

def recAt (r : List Byte) (off n : Nat) : Nat := leNat ((r.drop off).take n)

/-- Is a record valid: TYPE 1 to 7, and its zero bytes zero? -/
def recordValid (r : List Byte) : Bool :=
  let ty := recAt r 0 1
  r.length == 64 && decide (1 ≤ ty ∧ ty ≤ 7) && ((r.drop 1).take 7).all (· == 0) && (r.drop (recordEnd ty)).all (· == 0)

/-- Virtual address of the slot of a sequence number. -/
def Queue.slot (q : Queue) (seq : Nat) : Nat := q.base + 64 * ((seq - 1) % max 1 q.size)

/-- The record that the scheduler copies: none where its slot cannot be read. Each byte of an untaken slot that software has
stored into is the appended one or the stored one, unspecified which (R334, R5). DESIGN CHOICE: log entry 5. -/
def State.record (s : State) (q : Queue) (seq : Nat) : Option (List Byte) :=
  match s.context? q.ctx with
  | none => none
  | some x =>
    if (s.ioFault viaQueue x .read (q.slot seq) 64).isSome then none
    else
      let stored := s.ioRead viaQueue x (q.slot seq) 64
      match q.recs.find? fun r => r.1 == seq with
      | none => some stored
      | some r => some ((stored.zip r.2).zipIdx.map fun p =>
          if p.1.1 != p.1.2 && s.choose 5 (64 * q.slot seq + p.2) then p.1.2 else p.1.1)

/-- Append a record to a queue of context `x` (R335): the result of R167. The interface finds the ring in the context's
near pages, whatever their W. A device's own append needs an Open context as well (R322). -/
def State.queueAppend (s : State) (device : Bool) (num : Nat) (owned : Queue → Bool) (rcd : List Byte) : State × Nat :=
  match s.queue? num with
  | none => (s, 2 ^ 63 + 2)
  | some q =>
    if !owned q then (s, 2 ^ 63 + 2)
    else if q.st == .stopped || q.st == .faulted then (s, 2 ^ 63 + 3)
    else
      match s.context? q.ctx with
      | none => (s, 2 ^ 63 + 2)
      | some x =>
        if device && x.st != .open_ then (s, 2 ^ 63 + 3)
        else if !recordValid rcd then (s, 2 ^ 63 + 4)
        else if q.tail - q.head ≥ q.size then (s, 2 ^ 63 + 1)
        else
          let bs := rcd.take 8 ++ natLe 8 (q.tail + 1) ++ rcd.drop 16
          let at_ := q.slot (q.tail + 1)
          let s := (s.ioNotes viaQueue x at_ 64 true).ioWrite (.cmd num (q.tail + 1)) viaQueue x at_ bs
          (s.putQueue { q with tail := q.tail + 1, recs := (q.recs.filter fun r => decide (q.head < r.1)) ++ [(q.tail + 1, bs)] },
            q.tail + 1)

/-! ### LAUNCH (R167) -/

def launchAcc : Acc :=
  { spad := false, acc := .read, atomic := false, n := 64, uniform := true, wide := false, near := false }

/-- LAUNCH: the record is read as an access of the beam and appended to a queue of its context. -/
def execLaunch (d : Reg) (a b : SArg) (s : State) : Host.Outcome State Fault Refusal :=
  s.runFrag { priv := false, noGlint := false, uses := dstS d ++ SArg.uses 1 a ++ SArg.uses 2 b } fun x s =>
    let q := x.sval a
    let p := x.sval b
    if Fmt.isAbsent .n64 q || Fmt.isAbsent .n64 p then s.beamDone (x.putS d (Fmt.absent .n64))
    else
      let k := launchAcc
      let us := [(x.lead, (p : Int))]
      s.access x k (.launch d a b) us
        (let bs := s.laneRead x k (2 ^ 512 - 1) p
         let ctx := (s.kernelOf x.b).map (·.ctx)
         let r := (s.notes x k us).queueAppend true q (fun y => decide (q ≤ 8191) && some y.ctx == ctx) bs
         match r.1.beam? x.b.key with
         | some b => .done (r.1.setBeam (b.putS x.lead d.toNat (BitVec.ofNat 64 r.2)))
         | none => .done r.1)

end Sys2Proof.Machine
end

