-- ==== Sys2Proof/Machine/Save.lean ====
section
/-! DEFINITION. Save records, written and read, and the wake conditions of parked cohorts (R97, R98, R324 to R328, R373,
R418, R457). -/

namespace Sys2Proof.Machine

/-! ### What is live at the rest points (R98) -/

/-- LIVEV and LIVEA at an entry's rest point: the beam's V and A in a blocking instruction, else the header's fields, of
which 255 and 15 mean every declared one (R98, R122). -/
def State.liveAt (s : State) (b : Beam) (e : Nat) : Nat × Nat :=
  match (b.entry e).wait, s.fetchFor b e with
  | some _, _ => (b.nv, b.na)
  | none, .ok (.hdr h) _ _ =>
    (if h.livev.toNat == 255 then b.nv else min b.nv h.livev.toNat, if h.livea.toNat == 15 then b.na else min b.na h.livea.toNat)
  | none, _ => (b.nv, b.na)

/-- The device's own note of a beam that is saved. DESIGN CHOICE: log entry 14. -/
def State.savedBeam (s : State) (b : Beam) : SavedBeam :=
  let ls := (b.entriesIn .run).map (s.liveAt b)
  let areas := ((s.kernel? b.cohort.kernel).map (·.launch.bmax)).getD 1
  { id := b.id, area := b.id % areas, place := b.coloff, lv := (ls.map (·.1)).foldl max 0, la := (ls.map (·.2)).foldl max 0, na := b.na, laneg := b.laneg
    exited := b.exited, ents := b.split.map fun y => { blk := y.blk, back := y.back, wait := y.wait, pc := y.pc }, recs := b.dstack.map fun r => (r.blk, r.back)
    sends := b.sends }

/-! ### Writing a record (R325, R326) -/

/-- KIND of a wait record. -/
def WaitKind.saveCode : WaitKind → Nat
  | .bwait => 1 | .waitv => 2 | .mwait => 3 | .chwait => 4 | .bfuse => 5
  | _ => 0

def waitRecord (w : Option Wait) : List Byte :=
  match w with
  | none => natLe 32 0
  | some w =>
    natLe 8 w.kind.saveCode ++ natLe 8 (if w.kind == .waitv || w.kind == .mwait then w.waited else 0) ++
      natLe 8 (if w.kind == .bfuse then w.rem.getD 0 else 0) ++ natLe 8 0

def pendCode (p : Option Pending) : Nat :=
  match p with
  | none => 0
  | some p => if p.stop then 2 else 1

def pendRecord (p : Option Pending) : List Byte :=
  match p with
  | none => natLe 32 0
  | some p =>
    natLe 4 p.cause ++ natLe 4 0 ++ natLe 8 p.lanes.toNat ++ natLe 4 p.x ++ natLe 4 p.y ++ natLe 4 p.z ++ natLe 4 0

/-- The beam state block: 1,024 bytes. -/
def stateBlock (b : Beam) : List Byte :=
  natLe 1 b.id ++ natLe 1 b.w ++ natLe 1 (quadOf b.key.slot) ++ natLe 1 (pendCode b.pend) ++ natLe 4 (if b.nv = 0 then 0 else b.coloff) ++
    natLe 4 b.kpack ++ natLe 4 b.status.toNat ++ natLe 4 b.ctl.toNat ++ natLe 4 b.tcause.toNat ++ natLe 8 b.epc ++
    natLe 8 b.tlanes.toNat ++ natLe 4 b.tdetx.toNat ++ natLe 4 b.tdety.toNat ++ natLe 4 b.tdetz.toNat ++ natLe 12 0 ++
    b.split.flatMap (fun y => waitRecord y.wait) ++ pendRecord b.pend ++ natLe 672 0

/-- A beam's control image in a record: its last two segments are zero (R328). DEDUCED: log entry 38. -/
def Beam.saveImage (b : Beam) : Image :=
  { w := b.w, trape := 0, split := b.split, stack := b.dstack, stamps := b.stamps, us := List.replicate 8 0
    uv := List.replicate 16 (List.replicate b.w 0) }

/-- Write a beam: its area, its lanes' data and its tiles, the first of which is tile `t` of the cohort. -/
def State.saveBeam (s : State) (at_ : Nat) (l : Launch) (k : SavedBeam) (t : Nat) (b : Beam) : State :=
  let area := at_ + recBeams + 8192 * k.area
  let s := s.writeBytes none false area (b.saveImage.bytes b.live s.openBytes)
  let s := s.writeBytes none false (area + 6656) (stateBlock b)
  let s := s.writeBytes none false (area + 7680) ((b.s.take 64).flatMap fun x => natLe 8 x.toNat)
  let s := b.laneg.zipIdx.foldl (fun (s : State) (p : Nat × Nat) =>
    s.writeBytes none false (at_ + l.recLaneData + p.1 * 4 * (l.v + 1))
      (natLe 4 (b.cpack p.2) ++ (List.range k.lv).flatMap fun r => natLe 4 ((b.v.getD r []).getD p.2 0).toNat)) s
  (b.tiles.take k.la).zipIdx.foldl (fun (s : State) (p : Tile × Nat) =>
    s.writeBytes none false (at_ + l.recTiles + 6144 * (t + p.2))
      (p.1.vals.flatMap (fun x => natLe 4 x.toNat) ++ p.1.cnts.flatMap (natLe 2))) s

/-- Bits of the granules that are tagged. -/
def tagBytes (c : Cohort) : List Byte :=
  (List.range ((c.wsize + 255) / 256)).map fun j =>
    BitVec.ofNat 8 (((List.range 8).map fun k => if c.tags.contains (8 * j + k) then 2 ^ k else 0).foldl (· + ·) 0)

/-- Beams of a cohort in ascending `beamid`, with their first tile in the record. -/
def insertBeam (b : Beam) : List Beam → List Beam
  | [] => [b]
  | c :: cs => if b.id ≤ c.id then b :: c :: cs else c :: insertBeam b cs

def withTiles : Nat → List Beam → List (Beam × Nat)
  | _, [] => []
  | t, b :: bs => (b, t) :: withTiles (t + b.na) bs

/-- Orphan-log entries of the cohort go; a granule that is tagged still becomes orphaned (R373). -/
def State.saveOrphans (s : State) (c : Cohort) : State :=
  let os := (s.coreOf c.core).orphans.filter fun o => o.cohort == c.key
  let s := s.modCore c.core fun k => { k with orphans := k.orphans.filter fun o => o.cohort != c.key }
  os.foldl (fun (s : State) (o : Orphan) =>
    if s.tagged c.key o.off then s.putBar c.key o.off { s.bar c.key o.off with st := 3 } else s) s

/-- Write a cohort's record at an address. -/
def State.saveRecord (s : State) (k : Kernel) (c : Cohort) (at_ : Nat) (bs : List Beam) : State :=
  let l := k.launch
  let s := s.writeBytes none false at_ ((List.range l.recSize).map s.openBytes)
  let view := fun ch => ((s.coreOf c.core).wp.getD ch 0 + c.bias.getD ch 0).toNat
  let s := s.writeBytes none false at_ (natLe 8 k.seq ++ natLe 4 k.id ++ natLe 4 c.key.index ++ natLe 4 bs.length ++
    natLe 4 c.wsize ++ (List.range 8).flatMap (fun ch => natLe 8 (view ch)) ++ natLe 168 0)
  let s := s.writeBytes none false (at_ + recMaps) (c.maps.flatMap fun m => m.getD (List.replicate 64 0))
  let s := (withTiles 0 bs).foldl (fun (s : State) (p : Beam × Nat) => s.saveBeam at_ l (s.savedBeam p.1) p.2 p.1) s
  let s := s.writeBytes none false (at_ + l.recWindow) (c.bytes 0 c.wsize)
  s.writeBytes none false (at_ + l.recTags) (tagBytes c)

/-! ### Reading a record (R98, R418) -/

/-- A wait goes on with what its record has counted and its operands as the registers hold them (R237, R326, R418): its next
issue looks again. A BWAIT whose end is decided keeps that end (R370); one that could name no barrier is issued anew. -/
def Wait.revive (w : Wait) (waited rem : Nat) (s64 : Nat → Nat) : Option Wait :=
  let timed := fun r : Nat =>
    some { w with woken := true, waited := waited, rem := if Fmt.isAbsent .n64 (s64 r) then none else some (s64 r - waited) }
  match w.ins with
  | .waitv _ _ _ _ _ _ _ v => timed (v.r.toNat + 1)
  | .mwait _ _ v => timed v.r.toNat
  | .bfuse _ => some { w with rem := some rem }
  | .chwait _ a => some { w with aux := s64 a.toNat }
  | .bwait _ a => if w.decided then some w else if s64 a.toNat < 2 ^ 32 then some { w with woken := true, aux := s64 a.toNat } else none
  | _ => none

/-- What the device keeps of an entry that is not listed. -/
def SavedEntry.none_ : SavedEntry := { blk := none, back := false, wait := none, pc := 0 }

/-- A split entry of a parked beam: it runs again, and its wait goes on where the record still names that wait and its address;
another one that it names begins with what the record has counted. -/
def Entry.revive (y : Entry) (kept : SavedEntry) (wait : List Byte) (clock : Nat) (s64 : Nat → Nat) : Entry :=
  let st := if y.st == .held || y.st == .run then .run else y.st
  let inside := kept.blk.any fun k => decide (k.hdr + 8 ≤ y.pc ∧ y.pc ≤ k.stop)
  let code := natAt wait 0 1
  { y with
    st := st, blk := if inside then kept.blk else none, back := kept.back, since := clock, ready := clock
    wait := if code == 0 || kept.pc != y.pc then none
      else (kept.wait.filter fun w => w.kind.saveCode == code).bind fun w => w.revive (natAt wait 8 8) (natAt wait 16 8) s64
    carry := if code == 0 then none else some (natAt wait 8 8, natAt wait 16 8) }

/-- Stack records with the blocks that their paths stand in, and their backward marks. -/
def reviveRecs (rs : List DRec) (ks : List (Option Block × Bool)) : List DRec :=
  rs.zipIdx.map fun p =>
    let k := ks.getD p.2 (none, false)
    { p.1 with blk := k.1.filter fun k => decide (k.hdr + 8 ≤ p.1.pc ∧ p.1.pc ≤ k.stop), back := k.2 }

def readPend (blk : List Byte) : Option Pending :=
  let code := natAt blk 3 1
  if code == 1 || code == 2 then
    some { stop := code == 2, cause := natAt blk 320 4, lanes := BitVec.ofNat 64 (natAt blk 328 8), x := natAt blk 336 4
           y := natAt blk 340 4, z := natAt blk 344 4 }
  else none

/-- The identities of `w` lanes: those that the device has kept, and after them the numbers that follow.
DESIGN CHOICE: log entry 14. -/
def SavedBeam.lanes (n : SavedBeam) (w : Nat) : List Nat :=
  n.laneg.take w ++ (List.range (w - n.laneg.length)).map fun k => n.laneg.getLastD 0 + 1 + k

/-- A parked beam as its record and the device's note give it, for a slot of a core; none where its image is invalid
(R327, R330). The record's W is the beam's width; one that is no width fits no image. `t` is its first tile in the record.
DESIGN CHOICE: log entry 14. -/
def State.readBeam (s : State) (k : Kernel) (c : CohortKey) (at_ : Nat) (n : SavedBeam) (t : Nat) (key : BeamKey) : Option Beam :=
  let l := k.launch
  let area := at_ + recBeams + 8192 * n.area
  let blk := s.readBytes (area + 6656) 1024
  let w := natAt blk 1 1
  let laneg := n.lanes w
  let img := s.readBytes area (imageSize w)
  if !([8, 16, 32, 64].contains w) || (imageFault img w (fullMask w &&& ~~~n.exited)).isSome then none
  else
    let m := Image.ofBytes img
    let stack := reviveRecs m.stack n.recs
    let s64 := fun r : Nat => s.readNat (area + 7680 + 8 * r) 8
    let split := withArrived (m.split.zipIdx.map fun p =>
      p.1.revive (n.ents.getD p.2 SavedEntry.none_) ((blk.drop (64 + 32 * p.2)).take 32) s.clock s64) stack
    let lane := fun i off => s.readNat (at_ + l.recLaneData + laneg.getD i 0 * 4 * (l.v + 1) + 4 * off) 4
    let tile := fun j : Nat =>
      let o := at_ + l.recTiles + 6144 * (t + j)
      if j < n.la then
        ({ vals := (List.range 1024).map fun q => BitVec.ofNat 32 (s.readNat (o + 4 * q) 4)
           cnts := (List.range 1024).map fun q => s.readNat (o + 4096 + 2 * q) 2 } : Tile)
      else { vals := List.replicate 1024 0xFFFFFFFF, cnts := List.replicate 1024 0 }
    let b := Beam.fresh key c (natAt blk 0 1) w l.v l.s l.c n.na 8
    some { b with
      laneg := laneg, exited := n.exited, coloff := if l.v = 0 then n.place else natAt blk 4 4
      v := (List.range l.v).map fun r => (List.range w).map fun i => if r < n.lv then BitVec.ofNat 32 (lane i (1 + r)) else 0xFFFFFFFF
      s := (List.range l.s).map fun r => BitVec.ofNat 64 (s64 r)
      c := (List.range l.c).map fun r => (List.range w).map fun i => BitVec.ofNat 2 (lane i 0 / 4 ^ r)
      k := (List.range 8).map fun r => BitVec.ofNat 2 (natAt blk 8 4 / 4 ^ r)
      tiles := (List.range n.na).map tile
      stamps := m.stamps, status := BitVec.ofNat 32 (natAt blk 12 4 % 8), ctl := BitVec.ofNat 32 (natAt blk 16 4 % 2)
      tcause := BitVec.ofNat 32 (natAt blk 20 4) &&& 0xFFFF001F, epc := natAt blk 24 8 % 2 ^ 56, tlanes := BitVec.ofNat 64 (natAt blk 32 8) &&& fullMask w
      tdetx := BitVec.ofNat 32 (natAt blk 40 4), tdety := BitVec.ofNat 32 (natAt blk 44 4)
      tdetz := BitVec.ofNat 32 (natAt blk 48 4)
      split := split, dstack := stack, pend := readPend blk, sends := n.sends, owesSync := true }

/-- Notes with their first tiles. -/
def savedTiles : Nat → List SavedBeam → List (SavedBeam × Nat)
  | _, [] => []
  | t, n :: ns => (n, t) :: savedTiles (t + n.na) ns

/-- The beams of a parked cohort, in the slots that `slot` gives by place; none where an image is invalid. -/
def State.readBeams (s : State) (k : Kernel) (c : Cohort) (at_ : Nat) (slot : Nat → BeamKey) : Option (List Beam) :=
  (savedTiles 0 c.saved).zipIdx.mapM fun p => s.readBeam k c.key at_ p.1.1 p.1.2 (slot p.2)

/-- The tags that a record's bitmap holds. -/
def readTags (bs : List Byte) (n : Nat) : List Nat := (List.range n).filter fun g => (bs.getD (g / 8) 0).getLsbD (g % 8)

/-- Every SRC that names the old core names the new one (R275). -/
def Bar.moved (b : Bar) (old new : Nat) : Bar := { b with src := b.src.map fun q => if q == old then new else q }

/-! ### Wake conditions (R457) -/

/-- What the scheduler reads at the location of a parked WAITV, at its scope: below `.sys` the near cache may give an older byte,
one choice for a cycle (R226). DESIGN CHOICE: log entry 5. -/
def State.parkedRead (s : State) (c : Cohort) (x : Context) (sp sys : Bool) (t : Ty) (a : Int) : Option Nat :=
  let n := Ty.size t
  if a < 0 || a % n != 0 then none
  else if sp then (if a + n > c.wsize then none else some (s.winNat c a.toNat n))
  else if (s.ioFault viaQueue x .read a.toNat n).isSome then none
  else
    match s.xlate viaQueue false x a.toNat with
    | .absent .. => some (Ty.absent t)
    | .page pa tier _ _ _ =>
      if tier == 2 && !sys && Config.freeBit ((s.clock * 64 + 17) * 2 ^ 64 + pa) then
        some (leNat (olderBytes s.older pa (s.readBytes pa n)))
      else some (s.ioNat viaQueue x a.toNat n)
    | .fault _ => some (s.ioNat viaQueue x a.toNat n)

/-- Would the wait of a parked fragment now complete? Each wait is judged by its own condition; one that would trap is
over as well. -/
def State.waitOver (s : State) (c : Cohort) (x : Context) (b : Beam) (w : Wait) : Bool :=
  let s64 := fun r : Reg => (b.sreg r.toNat).toNat
  match w.ins with
  | .bwait d a =>
    let off := s64 a
    let k := s.bar c.key off
    w.decided || Fmt.isAbsent .n64 off || off % 32 != 0 || decide (off + 32 > c.wsize) || !s.tagged c.key off || !k.formed || k.st == 2 ||
      k.phase != s64 d % 2
  | .waitv cmp _ sp sc t _ a v =>
    let hit := match s.parkedRead c x sp (sc == .sys) t (s64 a.r) with
      | some m => compareElem (Ty.fmt t) cmp m (scalarOperand t (s64 v.r)).1 == .t
      | none => false
    Fmt.isAbsent .n64 (s64 a.r) || hit || w.rem == some 0
  | .mwait _ a _ =>
    let ring := match ringOf (s64 a.r) with
      | .bad => none
      | .window _ _ _ off => some (Space.window c.key, off)
      | .mem va => some (Space.mem c.core x.id, va)
    let full := match ring with
      | none => true
      | some (sp, d) =>
        match s.ring? sp d with
        | none => true
        | some r => s.pastPads r 4 r.head != r.tail
    Fmt.isAbsent .n64 (s64 a.r) || full || w.rem == some 0
  | .chwait ch a =>
    let view := match c.save with
      | some (r, _) => s.readNat (r + 24 + 8 * ch.toNat) 8
      | none => 0
    Fmt.isAbsent .n64 (s64 a) || decide (s64 a ≤ view)
  | .bfuse _ => w.rem == some 0
  | _ => true

/-- Is the wake condition of a parked cohort met? -/
def State.wakeMet (s : State) (c : Cohort) : Bool :=
  match s.kernel? c.key.kernel, c.save with
  | some k, some (at_, _) =>
    match s.context? k.ctx, s.readBeams k c at_ (fun j => ⟨c.core, 2000 + j⟩) with
    | some x, some bs =>
      bs.any fun b => (b.entriesIn .run).any fun e =>
        match (b.entry e).wait with
        | none => true
        | some w => s.waitOver c x b w
    | _, _ => true
  | _, _ => false

end Sys2Proof.Machine
end

