-- ==== Sys2Proof/Machine/Sched.lean ====
section
/-! DEFINITION. The scheduler: the resources of a core, what is placed next, placement, eviction, restore and retirement
of cohorts (R97, R98, R100, R323, R324, R339, R344 to R350, R416 to R418, R457). -/

namespace Sys2Proof.Machine

/-! ### Resources of a core (R349) -/

/-- Beams of a new cohort in a quadrant: beam j stands in quadrant j mod 4. -/
def Launch.inQuad (l : Launch) (q : Nat) : Nat := (l.beams + 3 - q) / 4
def Launch.vg (l : Launch) : Nat := roundUp l.v 8
def Launch.columns (l : Launch) (q : Nat) : Nat := l.inQuad q * l.vg * l.width / 8
def Launch.quadTiles (l : Launch) (q : Nat) : Nat := l.inQuad q * l.a

/-- The cohorts that hold resources of a core, with their launches. -/
def State.holders (s : State) (core : Nat) : List (Cohort × Launch) :=
  (s.cohorts.filter fun c => c.core == core && s.holds c).filterMap fun c =>
    (s.kernel? c.key.kernel).map fun k => (c, k.launch)

/-- The lowest start, at a multiple of `step`, of `need` units below `limit` outside the ranges taken.
DEDUCED: log entry 17. -/
def firstFit (step limit need : Nat) (taken : List (Nat × Nat)) : Option Nat :=
  let ok := fun a : Nat => decide (a + need ≤ limit) && taken.all fun r => decide (a + need ≤ r.1 ∨ r.1 + r.2 ≤ a)
  ((0 :: taken.map fun r => roundUp (r.1 + r.2) step).filter ok).foldl
    (fun (best : Option Nat) a => some (match best with | none => a | some b => min a b)) none

/-- Does some work still wait for resources? -/
def State.waitsFor (s : State) : Work → Bool
  | .restore c =>
    match s.cohort? c, (s.kernel? c.kernel).bind fun k => s.context? k.ctx with
    | some y, some x => y.st == .parked && y.woken.isSome && x.st == .open_
    | _, _ => false
  | .place k => (s.kernel? k).any fun j => j.st == .placing && (s.context? j.ctx).any fun x => x.st == .open_
  | .launch q n =>
    (s.queue? q).any fun y =>
      (y.st == .running || y.st == .blocked) && y.offered.isSome && y.head + 1 == n &&
        (s.context? y.ctx).any fun x => x.st == .open_

/-- The room that the scheduler makes for some work. -/
def State.room? (s : State) (w : Work) : Option Room := if s.waitsFor w then s.rooms.find? fun r => r.work == w else none

/-- Is the work a LAUNCH at the HEAD of a queue? -/
def Work.isLaunch : Work → Bool
  | .launch .. => true
  | _ => false

/-- The places on a core that are kept for other work than `w`: those of a Blocked queue's LAUNCH hold back no other queue (R339).
DESIGN CHOICE: log entry 17. -/
def State.keptFor (s : State) (w : Work) (core : Nat) : List (Launch × Spot) :=
  (s.rooms.filter fun r => r.work != w && s.waitsFor r.work && !(w.isLaunch && r.work.isLaunch)).filterMap fun r =>
    r.spot.filter fun p => p.2.core == core

/-- Free beam slots of a quadrant for some work, once the cohorts that `gone` names have left. -/
def State.slotsFree (s : State) (w : Work) (gone : CohortKey → Bool) (core quad : Nat) : List Nat :=
  let taken := ((s.holders core).filter fun h => !gone h.1.key).flatMap (fun h => h.1.slots) ++
    (s.keptFor w core).flatMap fun p => p.2.slots
  ((List.range 16).map fun i => 16 * quad + i).filter fun n =>
    !taken.contains n && ((s.beam? ⟨core, n⟩).map fun b => gone b.cohort).getD true

/-- The lowest free slots for beams of these quadrants. -/
def assign (free : Nat → List Nat) : List Nat → Option (List Nat)
  | [] => some []
  | q :: qs =>
    match free q with
    | [] => none
    | n :: rest => (assign (fun k => if k == q then rest else free k) qs).map (n :: ·)

/-- The lowest free tiles of a quadrant: tiles need not lie together (R349). DEDUCED: log entry 17. -/
def freeTiles (need : Nat) (taken : List Nat) : Option (List Nat) :=
  let fs := (List.range 16).filter fun n => !taken.contains n
  if need ≤ fs.length then some (fs.take need) else none

/-- A place for a cohort of a launch, its beams in these quadrants, on a core from which some cohorts have gone.
DEDUCED: log entry 17. -/
def State.spot (s : State) (w : Work) (gone : CohortKey → Bool) (l : Launch) (quads : List Nat) (core : Nat) : Option Spot :=
  let hs := (s.holders core).filter fun h => !gone h.1.key
  let ks := s.keptFor w core
  let cols := (List.range 4).mapM fun q => firstFit 1 8192 (l.columns q)
    (hs.map (fun h => (h.1.colbase.getD q 0, h.2.columns q)) ++ ks.map fun p => (p.2.cols.getD q 0, p.1.columns q))
  let tiles := (List.range 4).mapM fun q => freeTiles (l.quadTiles q)
    (hs.flatMap (fun h => h.1.tiles.getD q []) ++ ks.flatMap fun p => p.2.tiles.getD q [])
  match firstFit 1536 3145728 l.window
      (hs.map (fun h => (h.1.wbase, h.1.wsize)) ++ ks.map fun p => (p.2.wbase, p.1.window)), cols, tiles,
      assign (s.slotsFree w gone core) quads with
  | some a, some c, some t, some b => some { core := core, wbase := a, cols := c, tiles := t, slots := b }
  | _, _, _, _ => none

/-- Free beam slots of a core. -/
def State.freeCount (s : State) (core : Nat) : Nat :=
  ((List.range 4).map fun q => ((List.range 16).filter fun i =>
    (s.beam? ⟨core, 16 * q + i⟩).isNone && !((s.holders core).any fun h => h.1.slots.contains (16 * q + i))).length).sum

def Partition.cores (p : Partition) : List Nat := p.clusters.flatMap fun c => (List.range 4).map fun i => 4 * c + i

/-- The place on the core with the most free beam slots, of equal ones on the lowest (R350); a cohort for which another one
has been exchanged stands where that one stood (R100). DEDUCED: log entry 17. -/
def State.bestSpot (s : State) (w : Work) (p : Partition) (l : Launch) (quads : List Nat) : Option Spot :=
  let cores := p.cores.filter fun k => (s.room? w).all fun r => !r.tied || r.core == k
  (cores.filterMap (s.spot w (fun _ => false) l quads)).foldl (fun (best : Option Spot) x =>
    match best with
    | none => some x
    | some y =>
      if s.freeCount y.core < s.freeCount x.core || (s.freeCount y.core == s.freeCount x.core && decide (x.core < y.core))
      then some x else best) none

/-- Quadrants of a new cohort's beams, in the order of their numbers. -/
def Launch.quads (l : Launch) : List Nat := (List.range l.beams).map (· % 4)

/-- Quadrants of a parked cohort's beams, as its record holds them (R326). -/
def State.savedQuads (s : State) (c : Cohort) : List Nat :=
  match c.save with
  | some (at_, _) => c.saved.map fun b => s.readNat (at_ + recBeams + 8192 * b.area + 6658) 1 % 4
  | none => []

/-- The save record that a context's area has room for (R324). -/
def State.reserve (s : State) (x : Context) (l : Launch) : Option (Nat × Nat) :=
  let taken := (s.cohorts.filter fun c => (s.kernel? c.key.kernel).any fun k => k.ctx == x.id).filterMap fun c =>
    c.save.map fun r => (r.1 - x.save, r.2)
  (firstFit 4096 (x.savesz * 65536) l.recSize taken).map fun a => (x.save + a, l.recSize)

/-! ### Placement (R348) -/

/-- A tile as a cohort begins with it: absent, count 0. -/
def Tile.absent : Tile := { vals := List.replicate 1024 0xFFFFFFFF, cnts := List.replicate 1024 0 }

/-- Beam j of a new cohort. DEDUCED: log entry 18. -/
def Launch.beam (l : Launch) (c : CohortKey) (key : BeamKey) (clock j : Nat) : Beam :=
  let b := Beam.fresh key c j l.width l.v l.s l.c l.a 8
  { b with
    laneg := (List.range l.width).map fun i => j * l.width + i
    coloff := j / 4 * max 1 l.vg * l.width / 8
    v := List.replicate l.v (List.replicate l.width 0xFFFFFFFF)
    s := (List.range l.s).map fun r => if r == 0 then l.args else if r == 1 then BitVec.ofNat 64 l.cohorts else ~~~0
    tiles := List.replicate l.a Tile.absent
    split := (List.replicate 8 Entry.none_).set 0
      { Entry.none_ with st := .run, pc := l.entry, mask := fullMask l.width, back := true, since := clock, ready := clock }
    owesSync := true }

/-- The tag table of a new window: zeros at its end (R242). -/
def Launch.tagTable (l : Launch) : List Host.Cell :=
  let n := if l.taglog == 0 then 0 else 32 * 2 ^ l.taglog
  (List.range n).map fun i => (l.window - n + i, 0)

/-- Place the next cohort of a kernel. DEDUCED: log entry 10. -/
def State.placeCohort (s : State) (k : Kernel) (sp : Spot) (save : Nat × Nat) : State :=
  let l := k.launch
  let key : CohortKey := ⟨k.id, k.placed⟩
  let c : Cohort :=
    { key := key, core := sp.core, st := .resident, wsize := l.window, seed := s.nextId, win := l.tagTable, tags := []
      maps := List.replicate 16 none, bias := List.replicate 8 0, wbase := sp.wbase, colbase := sp.cols, tiles := sp.tiles
      save := some save, placed := s.clock, parked := 0, woken := none, saved := [], stop := none, dbg := none
      slots := sp.slots, marks := [] }
  let bs := sp.slots.zipIdx.map fun p => l.beam key ⟨sp.core, p.1⟩ s.clock p.2
  let s := (s.modCore sp.core fun x => x.dropLines fun _ => true).setKernel
    { k with placed := k.placed + 1, lastPlaced := s.clock, st := if k.placed + 1 == l.cohorts then .running else k.st }
  { s with cohorts := s.cohorts ++ [c], beams := s.beams ++ bs, nextId := s.nextId + 1
           rooms := s.rooms.filter fun r => r.work != .place k.id && s.waitsFor r.work }

/-! ### What is placed next (R339, R344, R350) -/

def insertBy {α : Type} (lt : α → α → Bool) (x : α) : List α → List α
  | [] => [x]
  | y :: ys => if lt y x then y :: insertBy lt x ys else x :: y :: ys

def sortBy {α : Type} (lt : α → α → Bool) (xs : List α) : List α := xs.foldr (insertBy lt) []

/-- The partition and context of a kernel. -/
def State.home (s : State) (k : Kernel) : Option (Partition × Context) :=
  (s.context? k.ctx).bind fun x => (s.part? x.part).map fun p => (p, x)

/-- Kernels of a partition whose contexts are Open. -/
def State.openKernels (s : State) (part : Nat) : List Kernel :=
  s.kernels.filter fun k => (s.context? k.ctx).any fun x => x.part == part && x.st == .open_

/-- Parked cohorts of Open contexts whose wake condition is met: by class, longest parked first (R350 item 1). -/
def State.wokenCohorts (s : State) (part : Nat) : List (Cohort × Kernel) :=
  let ps := s.cohorts.filterMap fun c =>
    if c.st == .parked && c.woken.isSome then
      ((s.openKernels part).find? fun k => k.id == c.key.kernel).map fun k => (c, k)
    else none
  sortBy (fun a b => decide (a.2.cls < b.2.cls ∨ (a.2.cls = b.2.cls ∧ a.1.parked < b.1.parked))) ps

/-- Kernels with a cohort to place, by class and order of taking (R350 item 2). -/
def State.placingKernels (s : State) (part : Nat) : List Kernel :=
  sortBy (fun a b => decide (a.cls < b.cls ∨ (a.cls = b.cls ∧ a.order < b.order)))
    ((s.openKernels part).filter fun k => k.st == .placing)

/-- The place of a kernel's next cohort, and its save record. -/
def State.nextPlace (s : State) (k : Kernel) : Option (Spot × (Nat × Nat)) :=
  match s.home k with
  | none => none
  | some (p, x) =>
    match s.reserve x k.launch, s.bestSpot (.place k.id) p k.launch k.launch.quads with
    | some r, some sp => some (sp, r)
    | _, _ => none

/-- The place of a parked cohort. -/
def State.parkedSpot (s : State) (c : Cohort) (k : Kernel) : Option Spot :=
  (s.home k).bind fun h => s.bestSpot (.restore c.key) h.1 k.launch (s.savedQuads c)

/-- The restore or placement that comes next: the first parked cohort that fits, then the first kernel's next cohort (R350
items 1 and 2). DEDUCED: log entry 17. -/
def State.cohortWork (s : State) (p : Partition) : Option Instr :=
  let a := (s.wokenCohorts p.id).findSome? fun c =>
    (s.parkedSpot c.1 c.2).map fun sp => Instr.cohortRestore c.1.key sp.core
  match a with
  | some i => some i
  | none => (s.placingKernels p.id).findSome? fun k => (s.nextPlace k).map fun r => Instr.cohortPlace k.id r.1.core

/-! ### Eviction (R323) -/

def State.victimKey (s : State) (c : Cohort) : List Nat :=
  [3 - ((s.kernel? c.key.kernel).map (·.cls)).getD 3, c.placed]

/-- Cohorts of classes 1 to 3 on a core, in the order in which they are evicted. -/
def State.evictable (s : State) (core : Nat) : List Cohort :=
  sortBy (fun a b => keyLt (s.victimKey a) (s.victimKey b))
    (s.cohorts.filter fun c => c.core == core && c.st == .resident && (s.kernel? c.key.kernel).any fun k => k.cls != 0)

/-- The shortest prefix whose eviction makes room. -/
def State.victims (s : State) (w : Work) (l : Launch) (quads : List Nat) (core : Nat) : Option (List CohortKey) :=
  let vs := (s.evictable core).map (·.key)
  ((List.range (vs.length + 1)).map vs.take).find? fun ks => (s.spot w ks.contains l quads core).isSome

/-- Mark a resident cohort for eviction, unless it stops already. -/
def State.evict (s : State) (k : CohortKey) : State :=
  match s.cohort? k with
  | some c => if c.st == .resident && c.stop.isNone then s.setCohort { c with stop := some .evict } else s
  | none => s

/-- Do cohorts still leave for some work? -/
def State.leaving (s : State) (w : Work) : Bool :=
  (s.room? w).any fun r => r.victims.any fun k => (s.cohort? k).any fun c => c.st == .resident && c.stop == some .evict

/-- Cohorts of a core are evicted for some work, and the place that they leave is kept for it. DESIGN CHOICE: log entry 17. -/
def State.evictFor (s : State) (w : Work) (l : Launch) (quads : List Nat) (ks : List CohortKey) (core : Nat) (tied : Bool) :
    State :=
  let room : Room := { work := w, victims := ks, core := core, spot := (s.spot w ks.contains l quads core).map fun p => (l, p), tied := tied }
  ks.foldl State.evict { s with rooms := (s.rooms.filter fun r => r.work != w && s.waitsFor r.work) ++ [room] }

/-- Class-0 work of a partition fits no core: the fewest cohorts that make room for it are evicted, on the lowest core.
DEDUCED: log entry 17. -/
def State.makeRoom (s : State) (w : Work) (p : Partition) (l : Launch) (quads : List Nat) : State :=
  if s.leaving w then s
  else
    let best := (sortBy (fun a b => decide (a < b)) p.cores).foldl (fun (best : Option (List CohortKey × Nat)) core =>
      match s.victims w l quads core, best with
      | some ks, some bs => if ks.length < bs.1.length then some (ks, core) else best
      | some ks, none => some (ks, core)
      | none, _ => best) none
    match best with
    | some (ks, core) => s.evictFor w l quads ks core false
    | none => s

/-- A LAUNCH record's fields (R337). -/
def launchOf (r : List Byte) : Launch :=
  { entry := recAt r 16 8, cohorts := recAt r 24 4, beams := recAt r 28 1, width := recAt r 29 1, v := recAt r 30 2
    s := recAt r 32 1, c := recAt r 33 1, a := recAt r 34 1, taglog := recAt r 35 1, window := recAt r 36 4
    args := BitVec.ofNat 64 (recAt r 40 8) }

/-- The LAUNCH that stands at a queue's HEAD and was offered in vain. -/
def State.offeredLaunch (s : State) (q : Queue) : Option Launch :=
  if (q.st == .running || q.st == .blocked) && q.offered.isSome && decide (q.head < q.tail) then
    match s.record q (q.head + 1) with
    | some r => if recAt r 0 1 == 1 then some (launchOf r) else none
    | none => none
  else none

/-- Queues of a partition whose contexts are Open. -/
def State.openQueues (s : State) (part : Nat) : List Queue :=
  s.queues.filter fun q => (s.context? q.ctx).any fun x => x.part == part && x.st == .open_

/-- COHORT_PLACE: the next cohort of a Placing kernel is placed where R350 puts it; for a class-0 cohort that fits no core
the scheduler makes room. DESIGN CHOICE: log entry 52. -/
def execCohortPlace (kernel core : Nat) (s : State) : Host.Outcome State Fault Refusal :=
  match s.kernel? kernel with
  | none => .next s
  | some k =>
    match s.home k with
    | none => .next s
    | some (p, x) =>
      if k.st != .placing || x.st != .open_ then .next s
      else
        match s.nextPlace k with
        | some (sp, r) =>
          .next (if s.cohortWork p == some (.cohortPlace kernel core) && sp.core == core then s.placeCohort k sp r else s)
        | none =>
          .next (if k.cls == 0 && (s.reserve x k.launch).isSome then
            s.makeRoom (.place k.id) p k.launch k.launch.quads else s)

/-! ### Stopping at rest points, and saving (R97, R313, R416, R417) -/

/-- Has a request completed or parked: nothing of it is still to come but what a resume asks for? The bursts that a parked handler
read has not read go on (R373, R374). -/
def Req.settled (r : Req) : Bool :=
  r.parked && match r.kind with
    | .gread .. => !(r.bursts.any BState.open_)
    | _ => true

/-- Is the cohort at rest and drained? DEDUCED: log entry 62. -/
def State.drained (s : State) (c : Cohort) : Bool :=
  let bs := s.beams.filter fun b => b.cohort == c.key
  bs.all (fun b => b.glint.isNone && b.trap.isNone && b.allFull && !b.retiring && (b.entriesIn .run).all (s.atRest b)) &&
    s.fills.all (fun f => !(bs.any fun b => b.key == f.beam)) && s.mmas.all (fun m => !(bs.any fun b => b.key == m.beam)) &&
    s.posted.all (fun f => match f.who with | .beam k => !(bs.any fun b => b.key == k) | _ => true) &&
    s.reqs.all (fun r => r.cohort != c.key || r.settled) &&
    s.fabric.all fun f => match f.what with | .msend k _ _ _ _ => k != c.key | _ => true

/-- A STOP with a number becomes pending on a beam (R413, R417); where a cause is pending already it is dropped into the
log. -/
def stopPending (n : Nat) : Pending :=
  { stop := true, cause := 2 * 2 ^ 16 + gDEBUG, lanes := ~~~0, x := n, y := 0, z := 0 }

def State.holdStop (s : State) (n : Nat) (b : Beam) : State :=
  if b.holdsCause then s.logged (.dropped b.key) else s.setBeam { b with pend := some { stopPending n with lanes := b.live } }

/-- Does anything still ask for the cohort's eviction: its context stops, or a PREEMPT names it? -/
def State.evictNext (s : State) (c : CohortKey) : Bool :=
  ((s.kernel? c.kernel).any fun k => (s.context? k.ctx).any fun x => x.st == .stopping) ||
    s.cmds.any fun m => m.cohorts.contains c

/-- What the device keeps of the parked cohort's requests: they name no beam slot while it is parked, as those of a beam that has
retired never do again (R43). -/
def Req.unseated (r : Req) (c : CohortKey) : Req :=
  if r.cohort == c && r.beam.slot != noSlot then { r with beam := ⟨r.core, noSlot + 1⟩ } else r

/-- A request of a restored cohort on its core: its beam's place, where that lives. -/
def Req.reseated (r : Req) (core : Nat) (bs : List Beam) : Req :=
  let key : Option BeamKey := if r.beam.slot == noSlot then none else (bs.find? fun b => b.id == r.bid).map (·.key)
  { r with core := core, beam := key.getD ⟨core, noSlot⟩ }

/-- Save a cohort whole. -/
def State.park (s : State) (k : Kernel) (c : Cohort) (at_ : Nat) : State :=
  let s : State := match c.dbg with
    | some d => (s.beams.filter fun b => b.cohort == c.key && b.live != 0).foldl (fun (s : State) b => s.holdStop d.1 b) s
    | none => s
  let s : State := match c.dbg with
    | some d => s.respond d.2 0 (mgmtBody 0)
    | none => s
  let bs := (s.beams.filter fun b => b.cohort == c.key).foldr insertBeam []
  let saved := bs.map s.savedBeam
  let s := s.saveOrphans c
  match s.cohort? c.key with
  | none => s
  | some c =>
    let s := s.saveRecord k c at_ bs
    let c := { c with
      st := .parked, win := [], saved := saved, parked := s.clock, woken := none, stop := none, dbg := none, slots := [] }
    let s : State := { s.setCohort c with
      beams := s.beams.filter fun b => b.cohort != c.key
      reqs := s.reqs.map fun r => r.unseated c.key }
    let s := if s.wakeMet c then s.setCohort { c with woken := some s.clock } else s
    (s.cohortsGone (· == c.key)).settleContext k.ctx

/-- EVICTION_SAVE: a cohort that stops at its rest points is there and drained: it is saved and parked, or for a debugger
stop each of its beams holds the pending STOP. DESIGN CHOICE: log entry 52. -/
def execEvictionSave (c : CohortKey) (s : State) : Host.Outcome State Fault Refusal :=
  match s.cohort? c, s.kernel? c.kernel with
  | some y, some k =>
    if y.st != .resident || !s.drained y then .next s
    else
      match y.stop, y.save with
      | some .evict, some (at_, _) => .next (s.park k y at_)
      | some (.debug n f), _ =>
        let s := (s.liveBeams c).foldl (fun (s : State) b => s.holdStop n b) s
        let s := s.respond f 0 (mgmtBody 0)
        .next (s.setCohort { y with stop := if s.evictNext c then some .evict else none })
      | _, _ => .next s
  | _, _ => .next s

/-! ### Restoring (R418) -/

/-- Load a parked cohort's record on a core. -/
def State.restoreAt (s : State) (k : Kernel) (c : Cohort) (at_ : Nat) (sp : Spot) : State :=
  let old := c.core
  match s.readBeams k c at_ (fun j => ⟨sp.core, sp.slots.getD j noSlot⟩) with
  | none => s.kernelFault k.id (some 2)
  | some bs =>
    let l := k.launch
    let s := s.modCore sp.core fun x => x.dropLines fun _ => true
    let win := ((s.readBytes (at_ + l.recWindow) c.wsize).zipIdx).map fun p => (p.2, p.1)
    let tags := readTags (s.readBytes (at_ + l.recTags) ((c.wsize + 255) / 256)) (c.wsize / 32)
    let maps := (List.range 16).map fun j =>
      let m := s.readBytes (at_ + recMaps + 64 * j) 64
      if m.all (· == 0) then none else some m
    let wp := (s.coreOf sp.core).wp
    let bias := (List.range 8).map fun ch => BitVec.ofNat 64 (s.readNat (at_ + 24 + 8 * ch) 8) - wp.getD ch 0
    let c := { c with
      core := sp.core, st := .resident, win := win, tags := tags, maps := maps, bias := bias, wbase := sp.wbase
      colbase := sp.cols, tiles := sp.tiles, placed := s.clock, woken := none, saved := []
      slots := bs.map fun b => b.key.slot }
    let s : State := { s.setCohort c with
      rooms := s.rooms.filter fun r => r.work != .restore c.key && s.waitsFor r.work
      beams := s.beams ++ bs
      reqs := s.reqs.map fun r => if r.cohort == c.key then r.reseated sp.core bs else r }
    tags.foldl (fun (s : State) g => s.putBar c.key (32 * g) ((s.bar c.key (32 * g)).moved old sp.core)) s

/-- COHORT_RESTORE: a parked cohort whose wake condition is met comes back where R350 puts it; for one of class 0 that fits
no core the scheduler makes room. DESIGN CHOICE: log entry 52. -/
def execCohortRestore (c : CohortKey) (core : Nat) (s : State) : Host.Outcome State Fault Refusal :=
  match s.cohort? c, s.kernel? c.kernel with
  | some y, some k =>
    match s.home k, y.save with
    | some (p, x), some (at_, _) =>
      if y.st != .parked || y.woken.isNone || x.st != .open_ then .next s
      else
        match s.parkedSpot y k with
        | some sp =>
          .next (if s.cohortWork p == some (.cohortRestore c core) && sp.core == core then s.restoreAt k y at_ sp else s)
        | none => .next (if k.cls == 0 then s.makeRoom (.restore c) p k.launch (s.savedQuads y) else s)
    | _, _ => .next s
  | _, _ => .next s

/-- WAKE_RECHECK: the wake condition of a parked cohort is judged again. -/
def execWakeRecheck (c : CohortKey) (s : State) : Host.Outcome State Fault Refusal :=
  match s.cohort? c with
  | none => .next s
  | some y =>
    if y.st != .parked then .next s
    else
      let w := if s.wakeMet y then (match y.woken with | some t => some t | none => some s.clock) else none
      .next (s.setCohort { y with woken := w })

/-! ### The exchange (R100) and the time slice (R323) -/

/-- Is a fragment blocked in WAITV: nothing has woken it, and its limit has not expired? -/
def Entry.sleepsV (y : Entry) : Bool := y.wait.any fun w => w.kind == .waitv && !w.woken && w.rem != some 0

/-- Is every resident beam of a cohort blocked in WAITV? -/
def State.allAsleep (s : State) (c : CohortKey) : Bool :=
  (s.beams.filter fun b => b.cohort == c).all fun b =>
    b.trap.isNone && !(b.entriesIn .run).isEmpty && (b.entriesIn .run).all fun e => (b.entry e).sleepsV

/-- The victim of an exchange for a parked cohort. -/
def State.exchangeVictim (s : State) (p : Partition) (k : Kernel) (c : Cohort) : Option Cohort :=
  let fits := fun v : Cohort =>
    v.st == .resident && v.stop.isNone && p.cores.contains v.core && (s.kernel? v.key.kernel).any (fun j => j.cls == k.cls) &&
      s.allAsleep v.key && (s.spot (.restore c.key) (· == v.key) k.launch (s.savedQuads c) v.core).isSome
  (sortBy (fun a b => decide (a.placed < b.placed ∨ (a.placed = b.placed ∧ a.core < b.core))) (s.cohorts.filter fits)).head?

/-- EXCHANGE: no core holds a woken cohort: a sleeper in WAITV of its class gives way, one at a time, and the cohort comes
back in its place. -/
def execExchange (victim woken : CohortKey) (s : State) : Host.Outcome State Fault Refusal :=
  match s.cohort? woken, s.kernel? woken.kernel, s.cohort? victim with
  | some c, some k, some v =>
    match s.home k with
    | none => .next s
    | some (p, x) =>
      if c.st == .parked && c.woken.isSome && x.st == .open_ && (s.parkedSpot c k).isNone && !s.leaving (.restore woken) &&
          (s.exchangeVictim p k c).map (·.key) == some victim then
        .next (s.evictFor (.restore woken) k.launch (s.savedQuads c) [victim] v.core true)
      else .next s
  | _, _, _ => .next s

/-- Work that waits for placement: the work, its class and context, its launch and its beams' quadrants, and the clock from
which its wait counts. -/
structure Waiting where
  work  : Work
  cls   : Nat
  ctx   : Nat
  l     : Launch
  quads : List Nat
  since : Nat
  deriving DecidableEq, Repr

def State.waiting (s : State) (part : Nat) : List Waiting :=
  let qs := (s.openQueues part).filterMap fun q =>
    (s.offeredLaunch q).map fun l => ({ work := .launch q.num (q.head + 1), cls := q.cls, ctx := q.ctx, l := l, quads := l.quads
                                        since := q.offered.getD s.clock } : Waiting)
  qs ++ (s.placingKernels part).map (fun k => ({ work := .place k.id, cls := k.cls, ctx := k.ctx, l := k.launch, quads := k.launch.quads
                                                 since := k.lastPlaced } : Waiting)) ++
    (s.wokenCohorts part).map fun p => ({ work := .restore p.1.key, cls := p.2.cls, ctx := p.2.ctx, l := p.2.launch
                                          quads := s.savedQuads p.1, since := p.1.woken.getD s.clock } : Waiting)

/-- The cohort that the expired slice evicts for waiting work: of another context, of its class or a lower one, resident
longest. -/
def State.sliceVictim (s : State) (p : Partition) (w : Waiting) : Option Cohort :=
  let fits := fun v : Cohort =>
    v.st == .resident && v.stop.isNone && p.cores.contains v.core &&
      (s.kernel? v.key.kernel).any fun j => decide (w.cls ≤ j.cls) && j.ctx != w.ctx
  (sortBy (fun a b => decide (a.placed < b.placed)) (s.cohorts.filter fits)).head?

/-- What an expired slice evicts, and the work for which it does. DEDUCED: log entry 17. -/
def State.sliceChoice (s : State) (p : Partition) : Option (Waiting × Cohort) :=
  if p.slice == 0 then none
  else
    let late := (s.waiting p.id).filter fun w => decide (p.slice < s.clock - w.since) && !s.leaving w.work
    (sortBy (fun a b => decide (a.cls < b.cls)) late).findSome? fun w => (s.sliceVictim p w).map fun v => (w, v)

/-- TIME_SLICE_EXPIRY: work of a partition has waited longer than the slice. -/
def execTimeSliceExpiry (part : Nat) (s : State) : Host.Outcome State Fault Refusal :=
  match s.part? part with
  | none => .next s
  | some p =>
    match s.sliceChoice p with
    | some (w, c) => .next (s.evictFor w.work w.l w.quads [c.key] c.core false)
    | none => .next s

/-! ### Retirement (R347) -/

/-- Is a cohort the last of its kernel? -/
def State.lastCohort (s : State) (c : CohortKey) : Bool :=
  (s.kernel? c.kernel).any fun k => k.retired + 1 == k.launch.cohorts

/-- May a cohort whose last lane has exited retire: no request, glint or MSEND of its own is left?
DEDUCED: log entry 62. -/
def State.mayRetire (s : State) (c : CohortKey) : Bool :=
  let bs := s.beams.filter fun b => b.cohort == c
  !bs.isEmpty && bs.all (·.retiring) && s.reqs.all (fun r => r.cohort != c || r.settled) &&
    !(s.lastCohort c && s.posted.any fun f => f.kernel == some c.kernel) &&
    s.fabric.all fun f => match f.what with | .msend k _ _ _ _ => k != c | _ => true

/-- A kernel's last cohort has retired: it is Completed, its groups end and its command completes (R345). -/
def State.complete (s : State) (k : Kernel) : State :=
  ({ s with kernels := s.kernels.filter (fun j => j.id != k.id)
            cohorts := s.cohorts.filter fun c => c.key.kernel != k.id }).queueEnd k.queue k.seq

/-- COHORT_RETIRE: the last beam of a cohort retires, and the cohort with it. -/
def execCohortRetire (c : CohortKey) (s : State) : Host.Outcome State Fault Refusal :=
  match s.cohort? c with
  | none => .next s
  | some y =>
    if y.st != .resident || !s.mayRetire c then .next s
    else
      let s := s.stopsOver (·.key == c)
      let s := (s.beams.filter fun b => b.cohort == c).foldl (fun (s : State) b => s.retire b.key) s
      let s : State := { s with reqs := s.reqs.filter fun r => r.cohort != c }
      let s := s.modCore y.core fun k => { k with orphans := k.orphans.filter fun o => o.cohort != c }
      let s := s.setCohort
        { y with st := .retired, win := [], tags := [], save := none, stop := none, dbg := none, slots := [] }
      match s.kernel? c.kernel with
      | none => .next s
      | some k =>
        let k := { k with retired := k.retired + 1 }
        let s := (s.setKernel k).cohortsGone (· == c)
        let s := if k.retired == k.launch.cohorts then s.complete k else s
        .next (s.settleContext k.ctx)

end Sys2Proof.Machine
end

