-- ==== Sys2Proof/Machine/Commands.lean ====
section
/-! DEFINITION. The scheduler takes the commands of the queues: LAUNCH, COPY, WAIT, SIGNAL, TIMESTAMP, PREEMPT, FENCE
(R338 to R344). -/

namespace Sys2Proof.Machine

/-! ### The checks of a LAUNCH (R343, R344) -/

/-- ENTRY is no header with K set and G clear that the context may fetch. -/
def State.entryBad (s : State) (x : Context) (va : Nat) : Bool :=
  let t := s.xlate viaQueue false x va
  let w := BitVec.ofNat 32 (s.ioNat viaQueue x va 4)
  decide (2 ^ 56 ≤ va) || (fetchFault x t).isSome || !(headerWord va w && headerK w && !headerG w)

/-- Does a check of R343 refuse the record? -/
def State.launchBad (s : State) (x : Context) (l : Launch) : Bool :=
  let nq := (l.beams + 3) / 4
  l.cohorts == 0 || l.beams == 0 || decide (64 < l.beams) || !([8, 16, 32, 64].contains l.width) ||
    decide (256 < l.v ∨ 64 < l.s ∨ 16 < l.c ∨ 16 < l.a) || !(l.taglog == 0 || decide (4 ≤ l.taglog ∧ l.taglog ≤ 12)) ||
    l.window % 32 != 0 || decide (3145728 < l.window) || (l.taglog != 0 && decide (l.window < 32 * 2 ^ l.taglog)) ||
    decide (8192 < nq * l.vg * l.width / 8) || decide (16 < nq * l.a) || decide (x.savesz * 65536 < l.recSize) ||
    s.entryBad x l.entry

/-- Does a kernel hold its identifier: it is live, or a request of its own has not drained (R344)? -/
def State.idHeld (s : State) (n : Nat) : Bool :=
  (s.kernels.any fun k => k.id == n && (k.st == .placing || k.st == .running)) ||
    s.reqs.any fun r => r.cohort.kernel == n && !r.parked

/-- The lowest free identifier below 32,768. -/
def State.nextKernelId (s : State) : Option Nat :=
  ((List.range (s.kernels.length + s.reqs.length + 1)).find? fun n => !s.idHeld n).filter fun n => decide (n < 32768)

/-- Where the first cohort of a LAUNCH would stand: its kernel's identifier, its place and its save record. -/
def State.launchPlace (s : State) (w : Work) (p : Partition) (x : Context) (l : Launch) : Option (Nat × Spot × Nat × Nat) :=
  match s.nextKernelId, s.bestSpot w p l l.quads, s.reserve x l with
  | some n, some sp, some r => some (n, sp, r)
  | _, _, _ => none

/-! ### May a command be taken? (R338, R341) -/

/-- What the scheduler finds of the command at HEAD. -/
inductive Take where
  | wait | go | fault (code : Nat)
  deriving DecidableEq, Repr

/-- The valid record at HEAD with the expected SEQ (R334). -/
def State.headCmd (s : State) (q : Queue) : Option (List Byte) :=
  match s.record q (q.head + 1) with
  | some r => if recordValid r && recAt r 8 8 == q.head + 1 then some r else none
  | none => none

/-- The work that a queue's LAUNCH at HEAD is. -/
def Queue.work (q : Queue) : Work := .launch q.num (q.head + 1)

/-- A phase word that is misaligned or that the access may not reach (R341). DESIGN CHOICE: log entry 28. -/
def State.wordBad (s : State) (x : Context) (acc : Access) (va : Nat) : Bool :=
  va % 8 != 0 || (s.ioFault viaQueue x acc va 8).isSome

/-- A command that writes one word: not before every earlier command is done; a write to a migrating page waits, for 65,536
cycles at most (R386). -/
def State.wordTake (s : State) (x : Context) (q : Queue) (acc : Access) (va : Nat) : Take :=
  if q.done != q.head then .wait
  else if s.wordBad x acc va then .fault 4
  else if s.ioMigrates viaQueue x va 8 then (if q.offered.any fun t => decide (t + 65536 ≤ s.clock) then .fault 4 else .wait)
  else .go

/-- Judge the command at HEAD. DESIGN CHOICE: log entry 28. -/
def State.judge (s : State) (p : Partition) (x : Context) (q : Queue) (r : List Byte) : Take :=
  let ty := recAt r 0 1
  let va := recAt r 16 8
  if ty == 1 then
    if s.launchBad x (launchOf r) then .fault 1
    else if (s.cohortWork p).isSome then .wait
    else if (s.launchPlace q.work p x (launchOf r)).isSome then .go else .wait
  else if ty == 3 then
    if s.wordBad x .read va || s.wordBad x .rmw va then .fault 4
    else
      let m := s.ioNat viaQueue x va 8
      if !Fmt.isAbsent .n64 m && decide (recAt r 24 8 ≤ m) then .go else .wait
  else if ty == 4 then s.wordTake x q .rmw va
  else if ty == 5 then s.wordTake x q .write va
  else if ty == 6 then (if q.cls == 0 then .go else .fault 5)
  else if ty == 7 then (if q.done == q.head then .go else .wait)
  else .go

/-- May the scheduler look at the queue's HEAD? -/
def Queue.serves (q : Queue) : Bool := (q.st == .running || q.st == .blocked) && decide (q.head < q.tail)

/-! ### Arbitration (R339) -/

/-- Turns of a queue in a round. -/
def Queue.turns (q : Queue) : Nat := if q.cls == 0 then 1 else max 1 q.weight

/-- The queue whose command is taken next, of those whose command can be taken. -/
def nextOf (qs : List Queue) : Option Nat :=
  let low := fun ys : List Queue => (sortBy (fun a b => decide (a.num < b.num)) ys).head?.map (·.num)
  match low (qs.filter fun q => q.credit != 0) with
  | some n => some n
  | none => low qs

def State.nextQueue (s : State) (p : Partition) : Option Nat :=
  let qs := (s.openQueues p.id).filter fun q =>
    q.serves && match s.context? q.ctx, s.headCmd q with
      | some x, some r => s.judge p x q r == .go
      | _, _ => false
  match nextOf (qs.filter fun q => q.cls == 0) with
  | some n => some n
  | none => nextOf (qs.filter fun q => q.cls != 0)

/-- The command at HEAD is taken: a turn of the queue is used, and a new round begins where none was left. -/
def State.taken (s : State) (part : Nat) (x : Context) (q : Queue) : State :=
  let peers := fun y : Queue => (y.cls == 0) == (q.cls == 0) && (s.openQueues part).any fun z => z.num == y.num
  let s : State := if q.credit == 0 then
      { s with queues := s.queues.map fun y => if peers y then { y with credit := y.turns } else y }
    else s
  s.putQueue
    { q with recs := q.recs.filter (fun r => decide (q.head + 1 < r.1)), head := q.head + 1, st := .running, offered := none, credit := (if q.credit == 0 then q.turns else q.credit) - 1 }

/-- The command at HEAD cannot be taken: the queue is Blocked. A LAUNCH that lacks resources and a write that waits for a
migrating page count from here (R323, R386). -/
def State.blocked (s : State) (p : Partition) (x : Context) (q : Queue) (r : List Byte) : State :=
  let ty := recAt r 0 1
  let l := launchOf r
  let starts := (ty == 1 && (s.launchPlace q.work p x l).isNone) ||
    ((ty == 4 || ty == 5) && q.done == q.head && s.ioMigrates viaQueue x (recAt r 16 8) 8)
  let since := match q.offered with
    | some t => some t
    | none => if starts then some s.clock else none
  let s := s.putQueue { q with st := .blocked, offered := since }
  if ty == 1 && q.cls == 0 && s.nextKernelId.isSome && (s.reserve x l).isSome && (s.bestSpot q.work p l l.quads).isNone then
    s.makeRoom q.work p l l.quads
  else s

/-- What reading the record at HEAD, and what it has to be judged by, leaves behind; no page holds an address from 2^56 on
(R379, R381). -/
def State.judgeNotes (s : State) (x : Context) (q : Queue) (r : List Byte) : State :=
  let s := s.ioNotes viaQueue x (q.slot (q.head + 1)) 64 false
  let va := recAt r 16 8
  let n := if recAt r 0 1 == 1 then 4 else if recAt r 0 1 == 3 then 8 else 0
  if va + n ≤ 2 ^ 56 then s.ioNotes viaQueue x va n false else s

/-- The frame of a command of one type: an invalid record faults the queue (R334), a command that must wait blocks it, and
one that may be taken is taken when it is the queue's turn. DESIGN CHOICE: log entry 28. -/
def State.command (s : State) (num ty : Nat) (act : Partition → Context → Queue → List Byte → State → State) : State :=
  match s.queue? num with
  | none => s
  | some q =>
    match s.context? q.ctx with
    | none => s
    | some x =>
      match s.part? x.part with
      | none => s
      | some p =>
        if x.st != .open_ || !q.serves then s
        else
          match s.headCmd q with
          | none => s.queueFault num 7 (q.head + 1)
          | some r =>
            if recAt r 0 1 != ty then s
            else
              let t := s.judgeNotes x q r
              match s.judge p x q r with
              | .fault c => t.queueFault num c (q.head + 1)
              | .wait => t.blocked p x q r
              | .go =>
                if s.nextQueue p == some num then act p x q r (t.taken p.id x q)
                else if q.st == .blocked then t.putQueue { q with st := .running }
                else t

/-! ### The commands -/

/-- The kernel of a LAUNCH that has been taken, with cohort 0 placed. -/
def State.launched (s : State) (q : Queue) (l : Launch) (n : Nat) (sp : Spot) (save : Nat × Nat) : State :=
  let k : Kernel :=
    { id := n, launch := l, queue := q.num, seq := q.head + 1, ctx := q.ctx, cls := q.cls, st := .placing, placed := 0
      retired := 0, lastPlaced := s.clock, order := s.nextId, groups := [] }
  ({ s with
      kernels := s.kernels.filter (fun j : Kernel => j.id != n) ++ [k]
      cohorts := s.cohorts.filter fun c : Cohort => c.key.kernel != n }).placeCohort k sp save

/-- LAUNCH_CMD: the kernel is Placing and its first cohort stands on the core that R350 gives it (R343 to R345).
DESIGN CHOICE: log entry 52. -/
def execLaunchCmd (q core : Nat) (s : State) : Host.Outcome State Fault Refusal :=
  .next (s.command q 1 fun p x y r t =>
    match s.launchPlace y.work p x (launchOf r) with
    | some (n, sp, save) => if sp.core == core then t.launched y (launchOf r) n sp save else s
    | none => s)

/-- COPY_CMD: taken at once. -/
def execCopyCmd (q : Nat) (s : State) : Host.Outcome State Fault Refusal :=
  .next (s.command q 2 fun _ _ y r t =>
    { t with cmds := t.cmds ++ [{ queue := q, seq := y.head + 1, copy := some (recAt r 16 8, recAt r 24 8, recAt r 32 8)
                                  cohorts := [], waits := none, down := none, written := false }] })

/-- The command leaves the list of those that run. -/
def State.dropCmd (s : State) (q seq : Nat) : State :=
  { s with cmds := s.cmds.filter fun c => !(c.queue == q && c.seq == seq) }

/-- A COPY ends in COPY_FAULT (R341). -/
def State.copyFails (s : State) (q seq : Nat) : State := (s.dropCmd q seq).queueFault q 3 seq

/-- A change of a command that runs. -/
def State.modCmd (s : State) (q seq : Nat) (f : Cmd → Cmd) : State :=
  { s with cmds := s.cmds.map fun d => if d.queue == q && d.seq == seq then f d else d }

/-- The command waits, since the clock given or from now on; once it has waited for so long, its COPY fails.
DESIGN CHOICE: log entry 33. -/
def State.copyWaits (s : State) (q seq : Nat) (since : Option Nat) (n : Nat) (f : Cmd → Cmd) : State :=
  match since with
  | some t => if t + n ≤ s.clock then s.copyFails q seq else s
  | none => s.modCmd q seq f

/-- A command that has written ends once its writes are acknowledged (R314, R338). DESIGN CHOICE: log entry 19. -/
def State.cmdEnds (s : State) (q seq : Nat) : State :=
  if s.unacked (.cmd q seq) then s else (s.dropCmd q seq).queueEnd q seq

/-- COPY_CMD_COMPLETE: every byte is written, performed at `.sys`, or a range faults the queue and nothing is written, as
far memory does whose CXL ports have been down for the fabric timeout; a write to a migrating page waits for 65,536 cycles at
most (R338, R341, R386, R404). DESIGN CHOICE: log entry 19; DESIGN CHOICE: log entry 28. -/
def execCopyCmdComplete (q seq : Nat) (s : State) : Host.Outcome State Fault Refusal :=
  match s.cmds.find? fun c => c.queue == q && c.seq == seq with
  | none => .next s
  | some c =>
    match c.copy, (s.queue? q).bind fun y => s.context? y.ctx with
    | some _, none => .next (s.copyFails q seq)
    | some (src, dst, len), some x =>
      if c.written then .next (s.cmdEnds q seq)
      else
        let fails := decide (2 ^ 32 < len) || (s.ioFault viaQueue x .read src len).isSome ||
          (s.ioFault viaQueue x .write dst len).isSome
        if fails then .next (s.copyFails q seq)
        else if s.ioMigrates viaQueue x dst len then
          .next (s.copyWaits q seq c.waits 65536 fun d => { d with waits := some s.clock })
        else if s.ioDown viaQueue false x src len || s.ioDown viaQueue true x dst len then
          .next (s.copyWaits q seq c.down (((s.part? x.part).map (·.timeout)).getD 0) fun d => { d with down := some s.clock })
        else
          let bs := s.ioRead viaQueue x src len
          let s := (s.ioNotes viaQueue x src len false).ioNotes viaQueue x dst len true
          .next (((s.ioWrite (.cmd q seq) viaQueue x dst bs).modCmd q seq fun d => { d with written := true }).cmdEnds q seq)
    | _, _ => .next s

/-- WAIT: taken and complete when the acquire read gives a present value that is at least VALUE. -/
def State.waitCmd (s : State) (q : Nat) : State :=
  s.command q 3 fun _ _ y _ t => t.queueEnd q (y.head + 1)

def execWait (q : Nat) (s : State) : Host.Outcome State Fault Refusal := .next (s.waitCmd q)

/-- WAIT_RECHECK: the word of a Blocked queue is read again, at a write to its line and at least every 1,024 cycles. -/
def execWaitRecheck (q : Nat) (s : State) : Host.Outcome State Fault Refusal :=
  .next (if (s.queue? q).any fun y => y.st == .blocked then s.waitCmd q else s)

/-- A command has written its word at `.sys`: it ends once the write is acknowledged (R314, R338). -/
def State.wordWritten (s : State) (q seq va : Nat) : State :=
  if s.unacked (.cmd q seq) then
    { s with cmds := s.cmds ++ [{ queue := q, seq := seq, copy := some (0, va, 0), cohorts := [], waits := none, down := none
                                  written := true }] }
  else s.queueEnd q seq

/-- SIGNAL: the atomic max of VALUE into the word. -/
def execSignal (q : Nat) (s : State) : Host.Outcome State Fault Refusal :=
  .next (s.command q 4 fun _ x y r t =>
    let va := recAt r 16 8
    let m := t.ioNat viaQueue x va 8
    let v := (atomNew .max .n64 m (recAt r 24 8) 0).1
    let t := t.ioNotes viaQueue x va 8 (v != m)
    (if v == m then t else t.ioWrite (.cmd q (y.head + 1)) viaQueue x va (natLe 8 v)).wordWritten q (y.head + 1) va)

/-- TIMESTAMP: `clock` is stored. -/
def execTimestamp (q : Nat) (s : State) : Host.Outcome State Fault Refusal :=
  .next (s.command q 5 fun _ x y r t =>
    let va := recAt r 16 8
    ((t.ioNotes viaQueue x va 8 true).ioWrite (.cmd q (y.head + 1)) viaQueue x va (natLe 8 t.clock)).wordWritten q (y.head + 1) va)

/-- PREEMPT: every resident cohort of classes 1 to 3 on the named clusters of the partition is evicted. -/
def execPreempt (q : Nat) (s : State) : Host.Outcome State Fault Refusal :=
  .next (s.command q 6 fun p _ y r t =>
    let named := fun c : Cohort =>
      c.st == .resident && p.clusters.contains (c.core / 4) && bits (recAt r 16 8) (c.core / 4) 1 == 1 &&
        (t.kernel? c.key.kernel).any fun k => k.cls != 0
    let ks := (t.cohorts.filter named).map (·.key)
    if ks.isEmpty then t.queueEnd q (y.head + 1)
    else
      ks.foldl State.evict
        { t with cmds := t.cmds ++ [{ queue := q, seq := y.head + 1, copy := none, cohorts := ks, waits := none
                                      down := none, written := false }] })

/-- FENCE: taken when every earlier command of the queue is done. -/
def execFenceCmd (q : Nat) (s : State) : Host.Outcome State Fault Refusal :=
  .next (s.command q 7 fun _ _ y _ t => t.queueEnd q (y.head + 1))

end Sys2Proof.Machine
end

