-- ==== Sys2Proof/Machine/System.lean ====
section
/-! DEFINITION. Translation, firmware calls, results that arrive with an error, and the throttle (R332, R354, R381 to R386,
R399, R412, R413). -/

namespace Sys2Proof.Machine

/-! ### TLBINV, PGSET and walks (R381 to R385) -/

/-- What a scope of TLBINV reaches: a core's L1 TLB and its die's L2, those of a die with its walk cache, or every one. -/
def State.tlbDrop (s : State) (core : Nat) (sc : Scope) (drop : TlbEntry → Bool) (walks : WalkEntry → Bool) : State :=
  match sc with
  | .beam | .cohort | .core => s.dropTlb (· == core) (· == dieOf core) drop fun _ => false
  | .die => s.dropTlb (fun c => dieOf c == dieOf core) (· == dieOf core) drop fun w => w.1 == dieOf core && walks w.2
  | .dev | .sys => s.dropTlb (fun _ => true) (fun _ => true) drop fun w => walks w.2

/-- TLBINV (R384): the page that holds an address, or every entry of the issuing context. -/
def execTlbinv (sc : Scope) (a : Option Reg) (s : State) : Host.Outcome State Fault Refusal :=
  s.runFrag { priv := true, noGlint := false
              uses := match a with | some r => regUses .s r false 1 false false | none => [] } fun x s =>
    match s.kernelOf x.b with
    | none => .done s
    | some k =>
      match a with
      | none => .done (s.tlbDrop x.core sc (fun t => t.ctx == k.ctx) fun w => w.ctx == k.ctx)
      | some r =>
        let va := (x.b.sreg r.toNat).toNat
        if Fmt.isAbsent .n64 va then .done s
        else .done (s.tlbDrop x.core sc (fun t => t.covers k.ctx va) fun w => w.covers k.ctx w.lvl va)

/-- The table that holds the entry for an address at a level, through valid table entries alone (R382). -/
def State.tableAt (s : State) (p : Partition) (va : Nat) : List Nat → Nat → Option Nat
  | [], table => some table
  | lvl :: rest, table =>
    let e := s.readNat (table + 8 * levelIndex lvl va) 8
    if !pteV e || ptePage e || pteBroken lvl e || pteOutside p lvl e then none else s.tableAt p va rest (pteNext e)

/-- Does a translation lie below the entry for an address at a level (R375)? -/
def TlbEntry.below (t : TlbEntry) (ctx lvl va : Nat) : Bool :=
  let n := 2 ^ (56 - 10 * lvl)
  t.ctx == ctx && (t.vpn * pageBytes t.large / n == va / n || t.covers ctx va)

/-- A refusal of PGSET. -/
def pgRefusal (code : Nat) : Nat := 0xFFF0000000000000 + code

/-- What PGSET does: its result and the state (R382). -/
def State.pgset (s : State) (x : Context) (lvl va e : Nat) : State × Nat :=
  match s.part? x.part with
  | none => (s, pgRefusal 1)
  | some p =>
    match s.tableAt p va ((List.range (lvl - 1)).map (· + 1)) x.root with
    | none => (s, pgRefusal 1)
    | some table =>
      if bits e 52 12 != 0 || (pteV e && pteBroken lvl e) then (s, pgRefusal 2)
      else if pteV e && pteOutside p lvl e then (s, pgRefusal 3)
      else
        let a := table + 8 * levelIndex lvl va
        let old := s.readNat a 8
        ((s.writeNat a 8 e).dropTlb (fun _ => true) (fun _ => true) (fun t => t.below x.id lvl va)
          fun w => w.2.covers x.id lvl va, old)

/-- PGSET (R382); the invalidation is complete when it ends. -/
def execPgset (d a b : Reg) (lvl : BitVec 2) (s : State) : Host.Outcome State Fault Refusal :=
  s.runFrag { priv := true, noGlint := false
              uses := dstS d ++ regUses .s a false 1 false false ++ regUses .s b false 2 false false } fun x s =>
    let va := (x.b.sreg a.toNat).toNat
    let ends := fun (r : State × Nat) =>
      match r.1.beam? x.b.key with
      | some y => Res.done (r.1.setBeam (y.putS x.lead d.toNat (BitVec.ofNat 64 r.2)))
      | none => .done r.1
    if Fmt.isAbsent .n64 va then ends (s, pgRefusal 4)
    else if va ≥ 2 ^ 56 then ends (s, pgRefusal 5)
    else
      match s.contextOf x.b with
      | none => .done s
      | some c => ends (s.pgset c (lvl.toNat + 1) va (x.b.sreg b.toNat).toNat)

/-- WALK_COMPLETE: a walk for an access of a core, or from outside the cores where the number names none, ends with its
leaf in the TLBs and its A and D bits set; a walk that faults, and one that must wait for a migrating page, leaves nothing
(R379, R381, R386). -/
def execWalkComplete (core ctx : Nat) (va : Addr) (write : Bool) (s : State) : Host.Outcome State Fault Refusal :=
  match s.context? ctx with
  | none => .next s
  | some x =>
    let v : Via := if core < 256 then .beam core else .io (4 + core % 2)
    let acc : Access := if write then .write else .read
    let t := s.xlate v write x va.toNat
    if (xlFaults x acc t).isEmpty && !t.migrates acc then .next (s.xlNote v write x va.toNat) else .next s

/-! ### FWCALL and notifications (R332, R399) -/

def XState.code : XState → Nat
  | .open_ => 1 | .stopping => 2 | .stopped => 3 | .faulted => 4

/-- Parked cohorts of a context. -/
def State.parkedCount (s : State) (ctx : Nat) : Nat :=
  (s.cohorts.filter fun c => c.st == .parked && (s.kernel? c.key.kernel).any fun k => k.ctx == ctx).length

/-- The n64 that QUERY and FWCALL CTX_STATE return (R319). -/
def State.contextWord (s : State) (x : Context) : Nat := x.st.code + s.parkedCount x.id * 256

/-- Send the first notification of a virtual function's queue; it is sent again when the fabric timeout has passed. -/
def State.sendNote (s : State) (v : Nat) : State :=
  match s.vf? v with
  | none => s
  | some f =>
    match f.notes with
    | [] => s
    | (ctx, value, n) :: _ =>
      match s.context? ctx with
      | none => s
      | some x =>
        let tag := s.tag
        (s.await (s.part? f.part) x.host (.note v n)).transmit x.host 3 v fun eseq => .notify x.host eseq tag v ctx value n

/-- Queue a value for the host: 0, or NOTIFY_FULL. -/
def State.notify (s : State) (x : Context) (value : Nat) : State × Nat :=
  match s.vf? x.vf with
  | none => (s, 0x103)
  | some f =>
    if f.notes.length ≥ 64 then (s, 0x103)
    else
      let s := s.setVf { f with notes := f.notes ++ [(x.id, value, f.count + 1)], count := f.count + 1 }
      (if f.notes.isEmpty then s.sendNote f.id else s, 0)

/-- Cycles of 100 µs (R4). DEDUCED: log entry 45. -/
def fwLimit : Nat := 225000

/-- FWCALL: the fragment waits for the firmware's answer, which its wait then holds. DEDUCED: log entry 49. -/
def execFwcall (d a : Reg) (fn : BitVec 6) (s : State) : Host.Outcome State Fault Refusal :=
  s.runFrag { priv := true, noGlint := false, uses := dstS d ++ regUses .s a false 1 false false } fun x s =>
    match x.entry.wait with
    | some w =>
      if w.woken then s.beamDone (x.putS d w.aux) else .stay s
    | none =>
      .stay (s.sleep x { kind := .fwcall, ins := .fwcall d a fn, words := x.words, waited := 0, rem := some fwLimit
                         woken := false, aux := (x.b.sreg a.toNat).toNat })

/-- The firmware's answer to a function with an argument (R332). DEDUCED: log entry 49. -/
def State.fwAnswer (s : State) (x : Context) (fn value : Nat) : State × Nat :=
  if fn == 0 then (s, Config.firmwareVersion.toNat)
  else if fn == 1 then (s, s.contextWord x)
  else if fn == 2 then s.notify x value
  else (s, 0x102)

/-- A wait for the firmware ends with an answer. -/
def State.fwEnd (s : State) (b : BeamKey) (e n : Nat) : State :=
  match s.beam? b with
  | none => s
  | some x => s.setBeam (x.setEntry e { x.entry e with wait := (x.entry e).wait.map fun w => { w with woken := true, aux := n } })

/-- A wait for the firmware that has no answer yet. -/
def Beam.calling (b : Beam) (e : Nat) : Option Wait :=
  match (b.entry e).wait with
  | some w => if w.kind == .fwcall && !w.woken then some w else none
  | none => none

/-- FWCALL_ANSWER: the answer arrives before the limit. -/
def execFwcallAnswer (b : BeamKey) (e : Nat) (s : State) : Host.Outcome State Fault Refusal :=
  match s.beam? b with
  | none => .next s
  | some x =>
    match x.calling e, s.contextOf x with
    | some w, some c =>
      match w.ins with
      | .fwcall _ _ fn =>
        if w.rem == some 0 then .next s
        else
          let r := s.fwAnswer c fn.toNat w.aux
          .next (r.1.fwEnd b e r.2)
      | _ => .next s
    | _, _ => .next s

/-- FWCALL_TIMEOUT: 100 µs have passed. DEDUCED: log entry 49. -/
def execFwcallTimeout (b : BeamKey) (e : Nat) (s : State) : Host.Outcome State Fault Refusal :=
  match (s.beam? b).bind fun x => x.calling e with
  | some w => .next (if w.rem == some 0 then s.fwEnd b e 0x101 else s)
  | none => .next s

/-! ### Uncorrectable errors and returning results (R78, R412, R413, R462) -/

/-- An uncorrectable error enters the management log, and FAULT_N is asserted for 1 µs from now where PINS.FAULTPIN is
set (R412, R462). DESIGN CHOICE: log entry 37. -/
def State.hwError (s : State) (code unit at_ : Nat) : State :=
  let s := s.logged (.hwerr code unit at_)
  if s.mgmt.pins.getLsbD 2 then { s with mgmt := { s.mgmt with faultn := some (s.clock + 2250) } } else s

/-- The lanes of a result that fail: of a scalar result, every lane of its fragment. -/
def Fill.failing (f : Fill) (err : Mask) : Mask :=
  match f.dst with
  | .v _ m _ _ => err &&& m
  | .s _ _ _ _ => if err == 0 then 0 else f.mask

/-- A result whose failing lanes hold the absent code of its type. -/
def Fill.failed (f : Fill) (err : Mask) : Fill :=
  match f.dst with
  | .v r m vals bk =>
    { f with dst := .v r m (vals.zipIdx.map fun p => p.1.zipIdx.map fun q =>
        if (err &&& m).getLsbD q.2 then (if p.2 == 0 then f.absent.1 else f.absent.2) else q.1) bk }
  | .s r _ drop bk => { f with dst := .s r (BitVec.ofNat 64 (f.absent.1.toNat + f.absent.2.toNat * 2 ^ 32)) drop bk }

/-- HWERR RETURNED of the instruction at `pc` is put on a beam (R412, R413): pending, dropped into the log where a cause is
pending already, or the end of the kernel in trap mode. -/
def State.hwPend (s : State) (k : BeamKey) (pc unit n : Nat) (lanes : Mask) : State :=
  match s.beam? k with
  | none => s
  | some b =>
    if b.trap.isSome then s.kernelFault b.cohort.kernel (some 2)
    else if b.holdsCause then s.logged (.dropped b.key)
    else
      s.setBeam { b with
        pend := some { stop := false, cause := 3 * 2 ^ 16 + gHWERR, lanes := lanes, x := bits pc 0 32
                       y := bits pc 32 24 + unit * 2 ^ 24, z := n } }

/-- A result returns with an error in some lanes: unit 5 where its CXL ports are down, else one of those that the data may
have come from. -/
def State.returned (s : State) (f : Fill) (lanes : Mask) : State :=
  let unit := if f.down != 0 then 5 else f.units.getD (Config.freeNat s.free % max 1 f.units.length) 4
  (s.hwError 3 unit f.pc).hwPend f.beam f.pc unit s.log.length lanes

/-- REGISTER_FILL: result `n` of those in flight arrives, at the earliest in its cycle, with an uncorrectable error in the
lanes `err` of data that memory returns, and in those whose CXL ports are down (R404). DESIGN CHOICE: log entry 11; DESIGN CHOICE: log entry 37. -/
def execRegisterFill (b : BeamKey) (n : Nat) (err : Mask) (s : State) : Host.Outcome State Fault Refusal :=
  match s.fills[n]?, s.beam? b with
  | some f, some x =>
    if f.beam != b || decide (s.clock < f.ready) then .next s
    else
      let bad := if f.src == .memory then f.failing ((err ||| f.down) &&& fullMask x.w) else 0
      let g := if bad == 0 then f else f.failed bad
      let s := { s.setBeam (x.land g) with fills := s.fills.eraseIdx n }
      .next (if bad == 0 then s else s.returned f bad)
  | _, _ => .next s

/-! ### The throttle (R354) -/

/-- THROTTLE_ROTATION: every 256 cycles the pointer of an engaged quadrant moves past the beams that it served. -/
def execThrottleRotation (core quad : Nat) (s : State) : Host.Outcome State Fault Refusal :=
  let q := (s.coreOf core).quads.getD quad Quad.reset
  if q.engaged && !q.rotated && decide (s.clock % 256 = 0) then
    let rot := match (s.servedSlots core quad).getLast? with
      | some n => (n + 1) % 20
      | none => q.rot
    .next (s.modCore core fun c => { c with quads := c.quads.modify quad fun y => { y with rot := rot, rotated := true } })
  else .next s

def cgEn (r : BitVec 32) : Bool := r.getLsbD 31
def cgThresh (r : BitVec 32) : Nat := (r.extractLsb' 16 8).toNat
def cgHyst (r : BitVec 32) : Nat := (r.extractLsb' 8 8).toNat

/-- Is the throttle engaged at a level: above THRESH it engages, below THRESH − HYST it releases? -/
def cgEngaged (r : BitVec 32) (level : Nat) (now : Bool) : Bool :=
  cgEn r && (decide (cgThresh r < level) || (now && decide (cgThresh r ≤ level + cgHyst r)))

/-- CONGESTION_LEVEL_CHANGE: the averaged level of a region of 16 cores. DESIGN CHOICE: log entry 55. -/
def execCongestionLevelChange (region level : Nat) (s : State) : Host.Outcome State Fault Refusal :=
  .next (((List.range 16).map fun i => 16 * region + i).foldl (fun (s : State) core =>
    match s.partOfCore core with
    | some p => s.modCore core fun c => { c with quads := c.quads.map fun q => { q with engaged := cgEngaged p.cgctl level q.engaged } }
    | none => s) { s with levels := s.levels.set region level })

end Sys2Proof.Machine
end

