-- ==== Sys2Proof/Machine/Manage.lean ====
section
/-! DEFINITION. Arriving messages, and the management requests of the host: contexts, queues, debugger stops, translations,
link groups and the domain (R319 to R322, R340, R342, R385, R389, R393, R396, R398, R401, R417). -/

namespace Sys2Proof.Machine

/-! ### Arriving messages (R393, R396) -/

/-- Does the Diaphragm admit the source: a partition's mask, or VC 3 from a number of the host's, and over the management port
from any host's number where PINS.MGMTPORT is set (R396, R462)? DESIGN CHOICE: log entry 26. -/
def State.accepts (s : State) (f : From) (p : Option Partition) : Bool :=
  (f.vc == 3 && (s.mgmt.hosts.contains f.src || (s.mgmt.pins.getLsbD 0 && f.port == 0 && Config.isHost f.src))) ||
    p.any fun q => q.ingress.contains f.src

/-- Channels that carry a message's TYPE (R392). -/
def channelsOf (typ : Nat) : List Nat :=
  if typ == 1 || typ == 2 then [1] else if typ == 4 || typ == 5 then [0, 1] else if typ == 7 then [2] else if typ == 6 then [3]
  else [0, 1, 2, 3]

/-- Is a message the next of its flow (R393)? Before the firmware runs, the management port alone carries messages, on VC 3
(R438, R458). DESIGN CHOICE: log entry 26. -/
def State.expects (s : State) (f : From) : Bool :=
  !s.mgmt.inReset && (s.mgmt.running || (f.port == 0 && f.vc == 3)) && f.eseq == (s.flow f.src f.vc).inSeq

/-- The next message of a flow has been taken. -/
def State.tookNext (s : State) (f : From) : State :=
  let w := s.flow f.src f.vc
  s.setFlow { w with inSeq := (w.inSeq + 1) % 2 ^ 32, waits := none }

/-- A message of a TYPE is applied when it is the next of its flow and the firmware runs; one that is not the next is
discarded, and before the firmware runs one has no effect. One that the Diaphragm does not admit is refused, and one on a
channel that does not carry its TYPE is discarded and counted (R392, R393, R396, R438). DESIGN CHOICE: log entry 26. -/
def State.arriving (s : State) (f : From) (typ : Nat) (p : Option Partition) (go : State → State) : State :=
  if !s.expects f then s
  else
    let s := s.tookNext f
    if !s.mgmt.running then s
    else if !(channelsOf typ).contains f.vc then s.logged (.badMessage f.src typ)
    else if s.accepts f p then go s else s.respond f 3 []

/-- A management request: its answer is a status and a result. -/
def State.request (s : State) (f : From) (go : State → State × Nat × Nat) : State :=
  s.arriving f 6 (s.partOfVf f.vfn) fun s =>
    let r := go s
    r.1.respond f r.2.1 (mgmtBody r.2.2)

/-- A request is refused and changes nothing. -/
def State.refuse (s : State) (code : Nat) : State × Nat × Nat := (s, code, 0)

/-- The context that a request names, owned by its virtual function (R319). -/
def State.owned (s : State) (f : From) (ctx : Nat) (go : Context → State × Nat × Nat) : State × Nat × Nat :=
  match s.context? ctx with
  | none => s.refuse 5
  | some x => if x.vf == f.vfn then go x else s.refuse 5

/-! ### Contexts (R319 to R322) -/

/-- The lowest number below a limit that is not used. DESIGN CHOICE: log entry 27. -/
def lowestFree (limit : Nat) (used : List Nat) : Option Nat :=
  ((List.range (min limit (used.length + 1))).find? fun n => !used.contains n)

/-- ROOT and SAVE: aligned, and in the partition. -/
def Partition.holdsContext (p : Partition) (root save savesz : Nat) : Bool :=
  root % 8192 == 0 && save % 65536 == 0 && savesz != 0 && decide (savesz < 2 ^ 32) && inRanges p.near root 8192 &&
    inRanges p.near save (savesz * 65536)

/-- CREATE. DESIGN CHOICE: log entry 27. -/
def execCreate (f : From) (world root handler save savesz : Nat) (s : State) : Host.Outcome State Fault Refusal :=
  .next (s.request f fun s =>
    match lowestFree 4096 (s.contexts.map (·.id)), s.partOfVf f.vfn with
    | none, _ => s.refuse 1
    | _, none => s.refuse 3
    | some n, some p =>
      if world % 2 == 1 && !p.world then s.refuse 2
      else if !p.holdsContext root save savesz then s.refuse 3
      else
        let x : Context :=
          { id := n, root := root, handler := handler % 2 ^ 56, save := save, savesz := savesz, vf := f.vfn
            world := world % 2 == 1, st := .open_, part := p.id, fusewin := 4096, host := f.src }
        ({ s with contexts := s.contexts ++ [x] }, 0, n))

/-- The queues of a context take a change. -/
def State.modQueues (s : State) (ctx : Nat) (g : Queue → Queue) : State :=
  (s.queues.filter fun q => q.ctx == ctx).foldl (fun (s : State) q => s.putQueue (g q)) s

def Queue.serving (q : Queue) : Bool := q.st == .running || q.st == .blocked

/-- Resident cohorts of a context. -/
def State.residents (s : State) (ctx : Nat) : List Cohort :=
  s.cohorts.filter fun c => c.st == .resident && (s.kernel? c.key.kernel).any fun k => k.ctx == ctx

/-- STOP: Stopping, until every resident cohort is saved. -/
def execStop (f : From) (ctx : Nat) (s : State) : Host.Outcome State Fault Refusal :=
  .next (s.request f fun s => s.owned f ctx fun x =>
    if x.st != .open_ then s.refuse 4
    else
      let s := s.setContext { x with st := .stopping }
      let s := s.modQueues ctx fun q => { q with ctxStop := true, st := if q.serving then .stopped else q.st }
      let s := ((s.residents ctx).map (·.key)).foldl State.evict s
      (s.settleContext ctx, 0, 0))

/-- A stopped queue without a stop mark runs. -/
def Queue.resumed (q : Queue) : Queue :=
  if q.st == .stopped && !q.hostStop && !q.ctxStop then { q with st := .running } else q

/-- RESUME. -/
def execResume (f : From) (ctx : Nat) (s : State) : Host.Outcome State Fault Refusal :=
  .next (s.request f fun s => s.owned f ctx fun x =>
    if x.st != .stopped then s.refuse 4
    else ((s.setContext { x with st := .open_ }).modQueues ctx fun q => Queue.resumed { q with ctxStop := false }, 0, 0))

/-- Notifications of a context are discarded; the next one of the queue is sent where the first one went (R399). -/
def State.dropNotes (s : State) (x : Context) : State :=
  match s.vf? x.vf with
  | none => s
  | some v =>
    let kept := v.notes.filter fun n => n.1 != x.id
    let first := kept.head? == v.notes.head?
    let s := s.setVf { v with notes := kept }
    if first then s
    else ({ s with fabric := s.fabric.filter fun r => match r.what with | .note k _ => k != v.id | _ => true }).sendNote v.id

/-- DESTROY (R321): kernels fault and their parked cohorts are discarded, translations go, and the number is free. -/
def execDestroy (f : From) (ctx : Nat) (s : State) : Host.Outcome State Fault Refusal :=
  .next (s.request f fun s => s.owned f ctx fun x =>
    if x.st != .stopped && x.st != .faulted then s.refuse 4
    else
      let s := ((s.kernels.filter fun k => k.ctx == ctx).map (·.id)).foldl (fun (s : State) k => s.kernelFault k none) s
      let s := s.dropTlb (fun _ => true) (fun _ => true) (fun t => t.ctx == ctx) fun w => w.2.ctx == ctx
      let s := s.dropNotes x
      ({ s with contexts := s.contexts.filter fun y => y.id != ctx }, 0, 0))

/-- QUERY. -/
def execQuery (f : From) (ctx : Nat) (s : State) : Host.Outcome State Fault Refusal :=
  .next (s.request f fun s => s.owned f ctx fun x => (s, 0, s.contextWord x))

/-- CONTEXT_FAULT: an uncorrectable error in a context's root table, descriptor or save area (R320): its kernels fault
without a save, and its queues are Faulted with CONTEXT (R341). DEDUCED: log entry 29. -/
def execContextFault (ctx : Nat) (s : State) : Host.Outcome State Fault Refusal :=
  match s.context? ctx with
  | none => .next s
  | some x =>
    if x.st == .faulted then .next s
    else
      let s := (s.hwError 0 4 x.root).setContext { x with st := .faulted }
      let s := s.modQueues ctx fun q =>
        if q.st == .faulted then q else { q with st := .faulted, fcode := 6, fseq := q.head + 1 }
      .next (((s.kernels.filter fun k => k.ctx == ctx).map (·.id)).foldl (fun (s : State) k => s.kernelFault k none) s)

/-! ### Debugger stops (R417) -/

/-- Does a stop of the cohort still pend? DEDUCED: log entry 56. -/
def State.stopPends (s : State) (c : Cohort) : Bool :=
  (match c.stop with | some (.debug ..) => true | _ => false) || c.dbg.isSome ||
    (s.beams.any fun b => b.cohort == c.key && b.pend.any (·.stop)) ||
    (c.st == .parked && match c.save with
      | some (at_, _) => c.saved.any fun b => s.readNat (at_ + recBeams + 8192 * b.area + 6659) 1 == 2
      | none => false)

/-- Put the stop into a parked cohort's record: PEND 2 and PCAUSE of each beam (R326); a beam that holds a cause already
drops it into the log (R413). DEDUCED: log entry 56. -/
def State.stopParked (s : State) (c : Cohort) (at_ n : Nat) : State :=
  c.saved.foldl (fun (s : State) (b : SavedBeam) =>
    let blk := at_ + recBeams + 8192 * b.area + 6656
    if s.readNat (blk + 3) 1 != 0 then s.logged (.dropped ⟨c.core, noSlot⟩)
    else
      let p := { stopPending n with lanes := fullMask b.laneg.length &&& ~~~b.exited }
      (s.writeNat (blk + 3) 1 2).writeBytes none false (blk + 320) (pendRecord (some p))) s

/-- DBGSTOP: a resident cohort stops at its rest points and the REPLY follows then; a parked one keeps the stop in its
record; one that is being saved takes it with the save. DEDUCED: log entry 56. -/
def execDbgstop (f : From) (ctx kernel cohort stop : Nat) (s : State) : Host.Outcome State Fault Refusal :=
  .next (s.arriving f 6 (s.partOfVf f.vfn) fun s =>
    let no := fun code => s.respond f code (mgmtBody 0)
    match s.context? ctx with
    | none => no 5
    | some x =>
      if x.vf != f.vfn then no 5
      else if x.st != .open_ then no 4
      else
        match (s.kernel? kernel).filter fun k => k.ctx == ctx, s.cohort? ⟨kernel, cohort⟩ with
        | some _, some c =>
          if c.st != .resident && c.st != .parked then no 9
          else if s.stopPends c then no 6
          else
            match c.st, c.stop, c.save with
            | .parked, _, some (at_, _) => (s.stopParked c at_ (stop % 2 ^ 32)).respond f 0 (mgmtBody 0)
            | .resident, some .evict, _ => s.setCohort { c with dbg := some (stop % 2 ^ 32, f) }
            | _, _, _ => s.setCohort { c with stop := some (.debug (stop % 2 ^ 32) f) }
        | _, _ => no 9)

/-! ### Queues (R333, R340, R342) -/

/-- The physical address of a range's first byte, when every page of it is a near page of the context. -/
def State.nearPages (s : State) (x : Context) (va n : Nat) : Option Nat :=
  let near := fun a : Nat =>
    match s.xlate viaHost false x a with
    | .page pa tier e _ _ => tier == 0 && (regPageOf pa).isNone && !(pteS e && !x.world)
    | _ => false
  if va + n ≤ 2 ^ 56 && (pagesOf va n).all near then
    match s.xlate viaHost false x va with
    | .page pa _ _ _ _ => some pa
    | _ => none
  else none

/-- QCREATE ctx, descriptor, base, size, class, weight. -/
def execQcreate (f : From) (args : List Nat) (s : State) : Host.Outcome State Fault Refusal :=
  .next (s.request f fun s =>
    let a := fun k => args.getD k 0
    s.owned f (a 0) fun x =>
      let size := a 3
      let good := a 1 % 64 == 0 && a 2 % 4096 == 0 && decide (16 ≤ size ∧ size ≤ 65536 ∧ size = 2 ^ Nat.log2 size) &&
        decide (a 4 ≤ 3) && (a 4 == 0 || decide (1 ≤ a 5 ∧ a 5 ≤ 255))
      match lowestFree 8192 (s.queues.map (·.num)) with
      | none => s.refuse 1
      | some n =>
        match if good && (s.nearPages x (a 2) (64 * size)).isSome then s.nearPages x (a 1) 64 else none with
        | none => s.refuse 3
        | some pa =>
          let q : Queue :=
            { num := n, ctx := x.id, desc := pa, base := a 2, size := size, cls := a 4, weight := a 5 % 256, st := .running
              fcode := 0, tail := 0, head := 0, done := 0, fseq := 0, hostStop := false, ctxStop := false, finished := []
              offered := none, credit := 0, recs := [] }
          (({ s with queues := s.queues ++ [q] }).putQueue q, 0, n))

/-- The queue that a request names, owned by its virtual function through its context. DESIGN CHOICE: log entry 27. -/
def State.ownQueue (s : State) (f : From) (num : Nat) (go : Queue → State × Nat × Nat) : State × Nat × Nat :=
  match s.queue? num with
  | none => s.refuse 5
  | some q => if (s.context? q.ctx).any fun x => x.vf == f.vfn then go q else s.refuse 5

/-- QSTOP. DESIGN CHOICE: log entry 27. -/
def execQstop (f : From) (q : Nat) (s : State) : Host.Outcome State Fault Refusal :=
  .next (s.request f fun s => s.ownQueue f q fun y =>
    if y.serving then (s.putQueue { y with hostStop := true, st := .stopped }, 0, 0) else s.refuse 4)

/-- QRESUME. -/
def execQresume (f : From) (q : Nat) (s : State) : Host.Outcome State Fault Refusal :=
  .next (s.request f fun s => s.ownQueue f q fun y =>
    if y.st == .stopped then (s.putQueue (Queue.resumed { y with hostStop := false }), 0, 0) else s.refuse 4)

/-- QRESET: every command that it skips has ended. -/
def Queue.skipAll (q : Queue) : Queue :=
  let q := { q with head := q.tail, fcode := 0, offered := none, st := if q.hostStop || q.ctxStop then .stopped else .running
                    finished := q.finished ++ (List.range (q.tail - q.head)).map fun k => q.head + 1 + k }
  q.ended []

def execQreset (f : From) (q : Nat) (s : State) : Host.Outcome State Fault Refusal :=
  .next (s.request f fun s => s.ownQueue f q fun y =>
    if y.st == .faulted then (s.putQueue y.skipAll, 0, 0) else s.refuse 4)

/-- QDESTROY: the descriptor's STATE is Free, and its FCODE 0 (R333). -/
def execQdestroy (f : From) (q : Nat) (s : State) : Host.Outcome State Fault Refusal :=
  .next (s.request f fun s => s.ownQueue f q fun y =>
    if y.st != .stopped && y.st != .faulted then s.refuse 4
    else if y.done != y.head then s.refuse 6
    else (({ s with queues := s.queues.filter fun z => z.num != q }).writeNat (y.desc + 14) 2 0, 0, 0))

/-! ### Translations (R385) -/

/-- TLBFLUSH: TLBINV.dev of one address, or of the whole context. -/
def execTlbflush (f : From) (ctx : Nat) (va : Option Addr) (s : State) : Host.Outcome State Fault Refusal :=
  .next (s.request f fun s => s.owned f ctx fun x =>
    (match va with
      | some a => s.tlbDrop 0 .dev (fun t => t.covers x.id a.toNat) fun w => w.covers x.id w.lvl a.toNat
      | none => s.tlbDrop 0 .dev (fun t => t.ctx == x.id) fun w => w.ctx == x.id, 0, 0))

/-! ### Link groups (R401) -/

/-- The list of device numbers, in near pages. -/
def State.deviceList (s : State) (x : Context) (va count : Nat) : Option (List Nat) :=
  if count == 0 || decide (1024 < count) || (s.ioFault viaHost x .read va (2 * count)).isSome || (s.nearPages x va (2 * count)).isNone
  then none
  else some ((List.range count).map fun k => s.ioNat viaHost x (va + 2 * k) 2)

/-- LGCREATE. DESIGN CHOICE: log entry 30. -/
def execLgcreate (f : From) (ctx va count : Nat) (s : State) : Host.Outcome State Fault Refusal :=
  .next (s.request f fun s => s.owned f ctx fun x =>
    match s.part? x.part with
    | none => s.refuse 3
    | some p =>
      let mine := s.links.filter fun g => g.part == p.id
      match lowestFree 64 ((mine.filter fun g => g.live).map (·.index)), s.deviceList x va count with
      | none, _ => s.refuse 1
      | _, none => s.refuse 3
      | some n, some devs =>
        let me := s.mgmt.device
        if (devs.filter (· == me)).length != 1 then s.refuse 6
        else if !(devs.all fun d => d == me || (p.egress.contains d && p.ingress.contains d)) then s.refuse 7
        else
          let gen := ((mine.find? fun g => g.index == n).map (·.gen)).getD 1
          let g : LinkGroup :=
            { part := p.id, index := n, gen := gen, live := true, devs := devs, crc := Config.listCrc devs, issued := 0
              broken := false }
          let s := { s.ioNotes viaHost x va (2 * count) false with
            links := g :: s.links.filter fun h => !(h.part == p.id && h.index == n) }
          (s, 0, n + gen * 2 ^ 16))

/-- LGDESTROY: GEN advances. DESIGN CHOICE: log entry 27. -/
def execLgdestroy (f : From) (ctx handle : Nat) (s : State) : Host.Outcome State Fault Refusal :=
  .next (s.request f fun s => s.owned f ctx fun x =>
    match s.linkOf x.part handle with
    | none => s.refuse 4
    | some g =>
      ({ s.setLink { g with live := false, gen := (g.gen + 1) % 2 ^ 16 } with
          collIn := s.collIn.filter fun m => !(m.part == g.part && m.group == g.index) }, 0, 0))

/-! ### The domain, and unknown requests (R389, R398) -/

def LinkSt.code : LinkSt → Nat
  | .down => 0 | .training => 1 | .up => 2 | .degraded => 3 | .fenced => 4

/-- LNKST of a port. -/
def Port.lnkst (p : Port) : Nat := p.st.code + p.lanes * 2 ^ 12 + min p.replays 65535 * 2 ^ 16

/-- The answer to DOMAIN. -/
def State.domain (s : State) (f : From) : State :=
  s.respond f 0 (mgmtBody (s.mgmt.device % 2 ^ 16 + s.mgmt.bootst.toNat * 2 ^ 32) ++ s.ports.flatMap fun p => natLe 4 p.lnkst)

/-- DOMAIN: the device number, BOOTST, and the 16 LNKST words. Before the firmware runs, and where the boot ROM has stopped at a
check, the management port answers it to a host (R438, R458, R461). DESIGN CHOICE: log entry 26. -/
def execDomain (f : From) (s : State) : Host.Outcome State Fault Refusal :=
  if s.mgmt.running then .next (s.arriving f 6 (s.partOfVf f.vfn) fun s => s.domain f)
  else if !s.expects f then .next s
  else .next (if Config.isHost f.src then (s.tookNext f).domain f else (s.tookNext f).respond f 3 [])

/-- UNKNOWN_REQUEST_CODE: refused with 8 unless the code is one of the table's. An SPDM request that the device does not support
is taken and not answered (R441). PRESUMED: log entry 31. -/
def execUnknownRequestCode (f : From) (code : Nat) (s : State) : Host.Outcome State Fault Refusal :=
  let known := [0x01, 0x02, 0x03, 0x04, 0x05, 0x06, 0x10, 0x11, 0x12, 0x13, 0x14, 0x20, 0x30, 0x31, 0x32]
  .next (if known.contains code then s
    else if code == 0x40 then s.arriving f 6 (s.partOfVf f.vfn) fun s => s
    else s.request f fun s => s.refuse 8)

end Sys2Proof.Machine
end

