-- ==== Sys2Proof/Machine/Link.lean ====
section
/-! DEFINITION. The host's accesses and appends, messages between devices and their replies, the ports, and far memory's
capacity (R336, R385 to R405). -/

namespace Sys2Proof.Machine

/-! ### Host accesses (R397) -/

/-- The status of a condition that an access meets. -/
def hostStatus : Nat × Nat → Nat
  | (g, c) => if g == gPROT then 3 else if c == 2 then 4 else 2

/-- The answer to an access of a context: the first of its checks that fails, or what `go` does (R397). `hw` says that the
access meets an uncorrectable error. -/
def State.hostAccess (s : State) (f : From) (ctx : Nat) (acc : Access) (va n : Nat) (hw : Bool) (go : Context → State → State) :
    State :=
  match (s.context? ctx).filter fun x => x.vf == f.vfn with
  | none => s.respond f 1 []
  | some x =>
    match s.ioFault viaHost x acc va n with
    | some c => s.respond f (hostStatus c) []
    | none =>
      if acc.writes && s.ioMigrates viaHost x va n then s.respond f 2 []
      else
        let s := s.ioNotes viaHost x va n acc.writes
        if hw then (s.hwError 0 4 va).respond f 5 []
        else if s.ioDown viaHost acc.writes x va n then (s.hwError 0 5 va).respond f 5 []
        else go x s

/-- The cycles for which an access of the host may have to wait: for a migrating page 65,536, for far memory whose port is down
the fabric timeout; none where it need not wait (R386, R404). DESIGN CHOICE: log entry 33. -/
def State.hostWait (s : State) (f : From) (ctx : Nat) (acc : Access) (va n : Nat) : Option Nat :=
  ((s.context? ctx).filter fun x => x.vf == f.vfn && (s.ioFault viaHost x acc va n).isNone).bind fun x =>
    if acc.writes && s.ioMigrates viaHost x va n then some 65536
    else if s.ioDown viaHost acc.writes x va n then some (s.limitOf f.vfn)
    else none

/-- An access of the host waits, at the head of its flow, or is applied. -/
def State.hostArrives (s : State) (f : From) (ctx : Nat) (acc : Access) (va n : Nat) (i : Instr) (go : State) : State :=
  let w := s.flow f.src f.vc
  match if s.expects f && s.mgmt.running && f.vc == 1 && s.accepts f (s.partOfVf f.vfn) then s.hostWait f ctx acc va n else none with
  | none => go
  | some m =>
    match w.waits with
    | none => s.setFlow { w with waits := some (s.clock, i) }
    | some t => if t.1 + m ≤ s.clock then go else s

/-- MEMWR: nothing is written unless the whole range may be; a migrating page makes the message wait, 65,536 cycles at most
(R386), and so does far memory whose port is down (R404). The REPLY follows once the bytes are performed at `.sys` (R314, R397). A
payload holds at most 4,088 bytes of data (R393, R397). DESIGN CHOICE: log entry 26. -/
def State.memwr (s : State) (f : From) (ctx : Nat) (va : Addr) (data : List Byte) (hw : Bool) : State :=
  let n := data.length
  let go := s.arriving f 1 (s.partOfVf f.vfn) fun s =>
    if n > 4088 then s.logged (.badMessage f.src 1)
    else s.hostAccess f ctx .write va.toNat n hw fun x s =>
      let t := s.ioWrite (.msg f) viaHost x va.toNat data
      if t.unacked (.msg f) then t else t.respond f 0 []
  if n > 4088 then go else s.hostArrives f ctx .write va.toNat n (.memwr f ctx va data) go

def execMemwr (f : From) (ctx : Nat) (va : Addr) (data : List Byte) (s : State) : Host.Outcome State Fault Refusal :=
  .next (s.memwr f ctx va data false)

/-- MEMRD of 1 to 4,096 bytes: an absent page reads 0xFF (R66); far memory whose port is down makes it wait for the fabric timeout
(R404). DESIGN CHOICE: log entry 26. -/
def State.memrd (s : State) (f : From) (ctx : Nat) (va : Addr) (len : Nat) (hw : Bool) : State :=
  let bad := len == 0 || decide (4096 < len)
  let go := s.arriving f 2 (s.partOfVf f.vfn) fun s =>
    if bad then s.logged (.badMessage f.src 2)
    else s.hostAccess f ctx .read va.toNat len hw fun x s => s.respond f 0 (s.ioRead viaHost x va.toNat len)
  if bad then go else s.hostArrives f ctx .read va.toNat len (.memrd f ctx va len) go

def execMemrd (f : From) (ctx : Nat) (va : Addr) (len : Nat) (s : State) : Host.Outcome State Fault Refusal :=
  .next (s.memrd f ctx va len false)

/-! ### Appends from outside (R249, R336, R400) -/

/-- QUEUE_APPEND: the result of R167 in the REPLY; class 0 takes channels 0 and 1, the others channel 1 alone.
DESIGN CHOICE: log entry 26. -/
def execQueueAppend (f : From) (q : Nat) (record : List Byte) (s : State) : Host.Outcome State Fault Refusal :=
  .next (s.arriving f 5 (s.partOfVf f.vfn) fun s =>
    let mine := fun y : Queue =>
      (s.context? y.ctx).any (fun x => x.vf == f.vfn) && (f.vc == 1 || (f.vc == 0 && y.cls == 0))
    let r := s.queueAppend false q mine record
    r.1.respond f 0 (natLe 8 r.2))

/-- RING_APPEND: the result of R248 in the REPLY; a message of a non-secure partition is refused at a secure one's ring (R437).
DESIGN CHOICE: log entry 26. -/
def execRingAppend (f : From) (handle : DWord) (seq : Nat) (data : List Byte) (s : State) : Host.Outcome State Fault Refusal :=
  match ringOf handle.toNat with
  | .window dev kernel cohort off =>
    let home := (s.kernel? kernel).bind fun k => (s.home k).map (·.1)
    .next (s.arriving f 4 (match home with | some p => some p | none => s.partOfVf f.vfn) fun s =>
      if home.any (·.world) && (s.partOfVf f.vfn).any (fun p => !p.world) then s.respond f 3 []
      else if dev != s.mgmt.device || (s.receiver kernel cohort).isNone || data.isEmpty || decide (256 < data.length) then s.respond f 2 []
      else
        let r := s.append (.window ⟨kernel, cohort⟩) off seq data
        r.1.respond f (r.2 % 256) [])
  | _ => .next (s.arriving f 4 (s.partOfVf f.vfn) fun s => s.respond f 2 [])

/-- COLL_MESSAGE: a member's contribution to operation `op` of a group (R402); the sender's rank is its place in the list, and
a sender outside this device's list differs from every member.
DESIGN CHOICE: log entry 30. -/
def execCollMessage (f : From) (group op crc kind redop fmt e : Nat) (data : List Byte) (s : State) :
    Host.Outcome State Fault Refusal :=
  let p := s.partOfVf f.vfn
  .next (s.arriving f 7 p fun s =>
    let g := s.links.find? fun g => some g.part == p.map (·.id) && g.index == group && g.live
    let s := match g with
      | some g =>
        s.collDeliver g op ((g.devs.findIdx? (· == f.src)).getD g.devs.length) [kind, redop, fmt, e, crc] data
      | none => s
    s.respond f 0 [])

/-! ### Replies and their absence (R393, R395) -/

/-- The result of an MSEND lands in its register, where the sender is still there (R248, R86, R400): a number above 63 is a
banked one. -/
def State.msendEnds (s : State) (c : CohortKey) (b : BeamKey) (e d : Nat) (drop : Bool) (code : Nat) : State :=
  match (s.beam? b).filter fun x => x.cohort == c with
  | none => s
  | some x =>
    s.setBeam (x.land { beam := b, entry := e, mask := 0, pc := 0, dst := .s (d % 64) (BitVec.ofNat 64 code) drop (decide (64 ≤ d))
                        absent := (0, 0), src := .other, ready := 0, units := [], down := 0, take := none })

/-- What a REPLY's status means to the request that waited for it. -/
def State.answered (s : State) (r : FabReq) (status : Nat) : State :=
  match r.what with
  | .msend c b e d drop => s.msendEnds c b e d drop (if status == 0 then 0 else 0x100 + status)
  | .coll req _ => if status == 0 then s else s.collFault req 31
  | .note v n =>
    match s.vf? v with
    | none => s
    | some f =>
      match f.notes with
      | m :: rest => if m.2.2 == n then (s.setVf { f with notes := rest }).sendNote v else s
      | [] => s

/-- A REPLY acknowledges the request that carries its TAG, and every earlier message of the flow (R393). -/
def State.acked (s : State) (f : From) : State :=
  let w := s.flow f.src f.vc
  match w.unacked.findIdx? fun m => !m.1.isReply && m.1.tag == f.tag with
  | some k => s.setFlow { w with unacked := (w.unacked.take k).filter (fun m => m.1.isReply) ++ w.unacked.drop (k + 1) }
  | none => s

/-- REPLY: the request that waits for it, of the same TAG and peer, is answered; where none waits any more, or the Diaphragm
does not admit the source, it is discarded (R393, R395, R396). DESIGN CHOICE: log entry 26. -/
def execReply (f : From) (status : Nat) (s : State) : Host.Outcome State Fault Refusal :=
  if !s.expects f then .next s
  else
    let s := s.tookNext f
    match s.fabric.find? fun r => r.tag == f.tag && r.peer == f.src with
    | none => .next (s.acked f)
    | some r =>
      if !s.accepts f (r.part.bind s.part?) then .next s
      else .next (({ s with fabric := s.fabric.filter fun q => q != r }.acked f).answered r status)

/-- Has the request waited for its timeout? -/
def FabReq.expired (r : FabReq) (clock : Nat) : Bool := decide (r.since + r.limit ≤ clock)

/-- NOTIFY_RESEND: the first notification of a queue goes again when its REPLY is overdue (R399). -/
def execNotifyResend (vf : Nat) (s : State) : Host.Outcome State Fault Refusal :=
  let mine := fun r : FabReq => match r.what with | .note v _ => v == vf | _ => false
  match s.fabric.find? mine with
  | some r => .next (if r.expired s.clock then ({ s with fabric := s.fabric.filter fun q => !mine q }).sendNote vf else s)
  | none => .next s

/-- FABRIC_TIMEOUT: an MSEND ends with UNREACHABLE, a COLL faults its barrier with kind FABRIC (R395). -/
def execFabricTimeout (tag : Nat) (s : State) : Host.Outcome State Fault Refusal :=
  match s.fabric.find? fun r => r.tag == tag with
  | none => .next s
  | some r =>
    if !r.expired s.clock then .next s
    else
      let t : State := { s with fabric := s.fabric.filter fun q => q.tag != tag }
      match r.what with
      | .msend c b e d drop => .next (t.msendEnds c b e d drop 0x104)
      | .coll req _ => .next (t.collFault req 31)
      | .note .. => .next s

/-- PATH_FAILURE: the unacknowledged messages of a flow are sent again, in ESEQ order, over another path (R393). -/
def execPathFailure (dest vc : Nat) (s : State) : Host.Outcome State Fault Refusal :=
  .next (s.pathFails dest vc)

/-! ### Ports (R388 to R391) -/

/-- Flits that the peer has received intact leave the replay buffer, and an old failure with them. -/
def Port.acked (p : Port) (ackseq : Nat) : Port :=
  match p.buffer.findIdx? fun b => b.lseq == ackseq with
  | some k =>
    let buffer := p.buffer.drop (k + 1)
    { p with buffer := buffer, lost := p.lost.filter fun l => buffer.any fun b => b.lseq == l.1 }
  | none => p

/-- Does a received flit of 256 bytes pass its check (R387)? -/
def flitIntact (lseq ackseq : BitVec 12) (credit : BitVec 2 × BitVec 6) (rest : List Byte) : Bool :=
  rest.length == 252 && leNat (rest.drop 244) ==
    (Config.flitCheck (flitHead credit.1.toNat lseq.toNat ackseq.toNat credit.2.toNat ++ rest.take 244)).toNat

/-- FLIT_RECEIVE: a flit that fails its check is discarded and its sender replays it; R388 may then take the port to training.
A flit that passes acknowledges others; the next one is taken and returns credits, and the port sends what they admit. -/
def execFlitReceive (port : Nat) (lseq ackseq : BitVec 12) (credit : BitVec 2 × BitVec 6) (rest : List Byte) (s : State) :
    Host.Outcome State Fault Refusal :=
  match s.port? port with
  | none => .next s
  | some p =>
    let vc := credit.1.toNat
    if !p.usable then .next s
    else if !flitIntact lseq ackseq credit rest then
      .next (s.setPort (Port.judged { (p.replayed s.clock 1) with badRun := p.badRun + 1 } s.mgmt.replayMax s.clock))
    else
      let p := p.acked ackseq.toNat
      if lseq.toNat == p.rxSeq then
        .next (s.pump { p with
          rxSeq := (p.rxSeq + 1) % 4096, badRun := 0, owed := p.owed.modify vc (· + 1)
          used := p.used.modify vc (· - 4 * credit.2.toNat) })
      else .next (s.pump p)

/-- LINK_RETRAIN: firmware takes a port that is down to training; reset release does so as a part of its own step. Without the
firmware no port leaves down (R438). -/
def execLinkRetrain (port : Nat) (s : State) : Host.Outcome State Fault Refusal :=
  match s.port? port with
  | none => .next s
  | some p =>
    if p.st != .down || !s.mgmt.running then .next s
    else .next (s.setPort { (p.train s.clock) with failed := 0 })

/-- Firmware has finished bring-up once no Traelm or CXL port is in training (R460, R461). DESIGN CHOICE: log entry 30. -/
def State.bringUp (s : State) : State :=
  if s.mgmt.running && s.ports.all (fun p => p.st != .training) && s.cxl.all (fun p => !p.training) then
    { s with mgmt := { s.mgmt with bootst := s.mgmt.bootst ||| 0x80000000#32 } }
  else s

/-- The port is up or degraded on some lanes: its replay buffer is sent again, then what waits (R391). -/
def State.portUp (s : State) (p : Port) (st : LinkSt) (lanes : Nat) : State :=
  let s := s.replay { p with st := st, lanes := lanes, failed := 0, left := none } none
  let s := match s.port? p.id with
    | some q => s.pump q
    | none => s
  s.sendWaiting.bringUp

/-- TRAINING_COMPLETE: up on 8 lanes, degraded on the largest of 4 and 2 that works, or a failure; the third in a row takes
the port down. -/
def execTrainingComplete (port lanes : Nat) (s : State) : Host.Outcome State Fault Refusal :=
  match s.port? port with
  | none => .next s
  | some p =>
    if p.st != .training then .next s
    else if lanes ≥ 8 then .next (s.portUp p .up 8)
    else if lanes ≥ 2 then .next (s.portUp p .degraded (if lanes ≥ 4 then 4 else 2))
    else if p.failed ≥ 2 then .next (s.setPort { p with st := .down, failed := 0 }).bringUp
    else .next (s.setPort { p with failed := p.failed + 1 })

/-- LANE_LOCK_LOSS: a lane in use loses lock. -/
def execLaneLockLoss (port : Nat) (s : State) : Host.Outcome State Fault Refusal :=
  match s.port? port with
  | none => .next s
  | some p => .next (if p.usable then s.setPort (p.train s.clock) else s)

/-- PORT_FENCE: firmware, where it runs (R438), fences a port in any state. -/
def execPortFence (port : Nat) (s : State) : Host.Outcome State Fault Refusal :=
  match s.port? port with
  | none => .next s
  | some p => .next (if s.mgmt.running then (s.setPort { (p.train s.clock) with st := .fenced }).bringUp else s)

/-- PORT_UNFENCE: firmware takes a fenced port to training. -/
def execPortUnfence (port : Nat) (s : State) : Host.Outcome State Fault Refusal :=
  match s.port? port with
  | none => .next s
  | some p => .next (if p.st == .fenced && s.mgmt.running then s.setPort { (p.train s.clock) with failed := 0 } else s)

/-! ### Far memory (R404, R405, R444) -/

/-- Ranges without one of them. -/
def cutRange (rs : List (Nat × Nat)) (base limit : Nat) : List (Nat × Nat) :=
  (rs.flatMap fun r => [(r.1, min r.2 base), (max r.1 limit, r.2)]).filter fun r => decide (r.1 < r.2)

/-- Bytes of far memory that the device maps. -/
def State.farBytes (s : State) : Nat := (s.parts.flatMap fun p => p.far.map fun r => r.2 - r.1).sum

/-- Bytes of a near slice (R7). -/
def sliceBytes : Nat := 2 ^ 27

/-- First physical address of a near slice: the 64 slices follow each other. DESIGN CHOICE: log entry 13. -/
def sliceBase (k : Nat) : Nat := Config.nearOrigin % 2 ^ 18 * 2 ^ 33 + k * sliceBytes

/-- Do two ranges overlap? -/
def rangesMeet (a b : Nat × Nat) : Bool := decide (a.1 < b.2 ∧ b.1 < a.2)

/-- May a range be far memory: beside near memory and the register pages, and apart from the far ranges there are? -/
def farFree (fs : List (Nat × Nat)) (r : Nat × Nat) : Bool :=
  decide (r.1 < r.2 ∧ r.2 ≤ regPageBase) && !rangesMeet r (sliceBase 0, sliceBase 64) && !fs.any (rangesMeet r)

/-- Far ranges in order, as long as all of them hold at most so many bytes (R9, R403). DESIGN CHOICE: log entry 13. -/
def farWithin : Nat → List (Nat × Nat) → List (Nat × Nat)
  | _, [] => []
  | left, r :: rs => if r.2 - r.1 ≤ left then r :: farWithin (left - (r.2 - r.1)) rs else farWithin left rs

/-- What counts of a far range that firmware grants: the parts of it inside the partition's windows that are nobody's yet, and
beside near memory (R444, R315). DESIGN CHOICE: log entry 13. -/
def newFar (old wins : List (Nat × Nat)) (r : Nat × Nat) : List (Nat × Nat) :=
  let inside := (wins.map fun w => (max w.1 r.1, min w.2 r.2)).filter fun q => decide (q.1 < q.2)
  (inside.foldl (fun (new : List (Nat × Nat)) q =>
    new ++ (old ++ new).foldl (fun rs o => cutRange rs o.1 o.2) [q]) []).filter (farFree [])

/-- DCD_CAPACITY_ADD: a range joins the partition's far ranges; what of it lies in a window of FAR and is nobody's yet counts
(R444, R315), and at most 16 TiB are mapped (R403). -/
def execDcdCapacityAdd (part base limit : Nat) (s : State) : Host.Outcome State Fault Refusal :=
  match s.part? part with
  | none => .next s
  | some p =>
    let new := farWithin (2 ^ 44 - s.farBytes) (newFar (s.parts.flatMap (·.far)) p.farWin (base, limit))
    .next (s.setPart { p with far := p.far ++ new })

/-- DCD_RELEASE: held until the host has confirmed that no PTE names the range; then the range is gone. -/
def execDcdRelease (part base limit : Nat) (confirmed : Bool) (s : State) : Host.Outcome State Fault Refusal :=
  match s.part? part with
  | none => .next s
  | some p =>
    if confirmed then
      .next (s.setPart { p with
        far := cutRange p.far base limit
        held := p.held.filter fun r => r != (base, limit) })
    else .next (s.setPart { p with held := if p.held.contains (base, limit) then p.held else p.held ++ [(base, limit)] })

/-- Does a fragment wait for a line to reach far memory: in a CFLUSH.sys that names it, or in a release fence of scope `.sys`
after a write of that scope (R404)? DESIGN CHOICE: log entry 33. -/
def State.awaitsLine (s : State) (line : Nat) (b : Beam) (e : Nat) : Bool :=
  let y := b.entry e
  y.st == .run && y.wait.any fun w =>
    match w.ins with
    | .cflush _ m => (s.dirtyLines { b := b, e := e, pc := y.pc, raw := ⟨0, 0, 0⟩, words := w.words } m).contains line
    | .fence _ .sys => s.posted.any fun f => f.who == .beam b.key && f.line == line && f.sys
    | _ => false

/-- The fragments that wait for a line whose write has failed: HWERR is put on them (R404, R413).
DESIGN CHOICE: log entry 33. -/
def State.writeLost (s : State) (line n : Nat) : State :=
  (s.beams.flatMap fun b => ((List.range b.split.length).filter (s.awaitsLine line b)).map fun e => (b.key, b.entry e)).foldl
    (fun (t : State) (p : BeamKey × Entry) => t.hwPend p.1 p.2.pc 5 n p.2.mask) s

/-- What the end of a write means to the message or the command that made it: with its last acknowledgement a MEMWR is answered,
with a failure it is answered HWERR, and a COPY fails (R338, R341, R397). DESIGN CHOICE: log entry 33. -/
def State.writeEnds (s : State) (ok : Bool) (who : Writer) : State :=
  let t : State := if ok then s else { s with posted := s.posted.filter fun f => f.who != who }
  match who with
  | .msg f => if t.unacked who then t else t.respond f (if ok then 0 else 5) []
  | .cmd q seq =>
    if !ok && t.cmds.any (fun c => c.queue == q && c.seq == seq && c.copy.any fun x => x.2.2 != 0) then t.copyFails q seq else t
  | _ => s

/-- CXL_WRITE_ACKNOWLEDGEMENT: far memory holds a line that was written back or written, or the write has failed: that is
logged, and reported to whoever waits for it (R239, R314, R404). Of a line that nothing has written there is none (R460).
DESIGN CHOICE: log entry 33. -/
def execCxlWriteAcknowledgement (pa : Nat) (ok : Bool) (s : State) : Host.Outcome State Fault Refusal :=
  let l := nearLine pa
  let done := fun t : State =>
    ({ t with flushing := t.flushing.filter (· != l), posted := t.posted.filter fun f => f.line != l } : State)
  if !s.flushing.contains l && !s.posted.any (fun f => f.line == l) then .next s
  else
    let t : State := if ok then
        done { s with dirty := if s.flushing.contains l then s.dirty.filter fun c => nearLine c.1 != l else s.dirty }
      else done (((s.logged (.writeFailed pa)).hwError 0 5 pa).writeLost l s.log.length)
    .next (((s.posted.filter fun f => f.line == l).map (·.who)).eraseDups.foldl (State.writeEnds · ok) t)

/-- DISCARDED_MESSAGE: a reserved TYPE, or a zero field that is not zero; the message is counted in the log, and the flow
goes on behind it (R393). DESIGN CHOICE: log entry 26. -/
def execDiscardedMessage (f : From) (typ : Nat) (s : State) : Host.Outcome State Fault Refusal :=
  .next (State.logged (if s.expects f then s.tookNext f else s) (.badMessage f.src typ))

end Sys2Proof.Machine
end

