-- ==== Sys2Proof/Machine/Board.lean ====
section
/-! DEFINITION. Reset and boot, the Diaphragm's registers, power and clocks, trips, and the board's pins (R412, R438 to
R444, R458 to R462). -/

namespace Sys2Proof.Machine

/-! ### Boot images (R439) -/

def imgBytes (b : List Byte) (off n : Nat) : List Byte := (b.drop off).take n

/-- What DIGEST and the measurements cover: bytes 0 to 15 and the body. -/
def imgCovered (b : List Byte) : List Byte := imgBytes b 0 16 ++ imgBytes b 192 (recAt b 4 4)

/-- Blown bits of MINSVN. -/
def minSvn : Nat := ((List.range 64).filter Config.fuseMinSvn.getLsbD).length

/-- The first check that an image fails, 1 to 6. -/
def imgFault (b : List Byte) (magic : Nat) : Option Nat :=
  if b.length < 192 || recAt b 0 4 != magic then some 1
  else if sm3 (imgBytes b 16 64) != Config.fuseKeyDigest then some 2
  else if recAt b 8 2 < minSvn then some 3
  else if sm3 (imgCovered b) != imgBytes b 80 32 then some 4
  else if !sm2Verify vendorIdentity (imgBytes b 16 64) (imgBytes b 112 64) (imgBytes b 80 32) then some 5
  else if (imgBytes b 10 6 ++ imgBytes b 176 16).any (· != 0) then some 6
  else none

/-- BOOTST of a failing check (R461). -/
def bootFailed (step check : Nat) : BitVec 32 := BitVec.ofNat 32 (2 ^ 30 + step * 2 ^ 16 + check * 2 ^ 8)

/-! ### What the configuration image gives (R315, R394, R395, R443) -/

/-- Pairs of a configuration image's list. -/
def cfgPairs (b : List Byte) (field part : Nat) : List (Nat × Nat) :=
  (List.range (Config.configField b field part 0 % 65)).map fun i =>
    (Config.configField b field part (2 * i + 1), Config.configField b field part (2 * i + 2))

/-- The far windows of a partition: of each base and limit bits [51:16] (R443). DESIGN CHOICE: log entry 13. -/
def cfgWindows (b : List Byte) (part : Nat) : List (Nat × Nat) :=
  (((cfgPairs b 5 part).take 8).map fun r => (r.1 % 2 ^ 36 * 65536, r.2 % 2 ^ 36 * 65536)).filter fun r => decide (r.1 < r.2)

def cfgBits (b : List Byte) (field part n : Nat) : List Nat :=
  (List.range n).filter fun i => Config.configField b field part (i + 1) % 2 == 1

/-- Ranges in ascending order, those that touch joined. -/
def joinRanges : List (Nat × Nat) → List (Nat × Nat)
  | [] => []
  | r :: rs =>
    match joinRanges rs with
    | q :: qs => if r.2 == q.1 then (r.1, q.2) :: qs else r :: q :: qs
    | [] => [r]

/-- The near pages of some slices. -/
def nearOf (cs : List Slice) : List (Nat × Nat) :=
  joinRanges ((cs.map fun c => (sliceBase c.num, sliceBase c.num + c.pages)).filter fun r => decide (r.1 < r.2))

/-- CGCTL at reset: EN 1, N 2, THRESH 192, HYST 32 (R354). -/
def cgReset : BitVec 32 := 0x82C02000

/-- A partition as it is set up at boot, beside those before it: whole clusters and slices, the parts of its far ranges that none
of those owns, within its far windows and outside near memory, its settings at their ceilings (R315, R443, R444).
DESIGN CHOICE: log entry 13. -/
def cfgPartition (b : List Byte) (old : List Partition) (p : Nat) : Partition :=
  let f := fun k => Config.configField b k p 0
  let wins := cfgWindows b p
  let slices := ((cfgBits b 3 p 64).filter fun k => !(old.any fun q => q.slices.any fun c => c.num == k)).map fun k =>
    let pages := min (Config.configField b 6 p k * 65536) sliceBytes
    ({ num := k, pages := pages, cache := sliceBytes - pages } : Slice)
  let mapped := old.flatMap (·.far)
  let far := (cfgPairs b 4 p).foldl (fun (rs : List (Nat × Nat)) r => rs ++ newFar (mapped ++ rs) wins r) []
  { id := p, world := f 1 % 2 == 1, clusters := (cfgBits b 2 p 64).filter fun c => !(old.any fun q => q.clusters.contains c)
    near := nearOf slices, slices := slices
    far := farWithin (2 ^ 44 - (mapped.map fun r => r.2 - r.1).sum) far
    timeout := 22500, slice := 2250000, cgctl := cgReset
    egress := cfgBits b 7 p 1024, ingress := cfgBits b 8 p 1024, cap := f 9 % 2 ^ 32, farWin := wins, pwrMax := f 10 % 2 ^ 16, clkMax := f 11 % 2 ^ 16
    ceiling := f 10 % 2 ^ 16, pwr := f 10 % 2 ^ 16, clk := f 11 % 2 ^ 16, trip := none, held := [] }

/-- Partitions that the configuration image names. -/
def cfgParts (b : List Byte) : List Partition :=
  (cfgBits b 12 0 40).foldl (fun ps p => ps ++ [cfgPartition b ps p]) []

/-- Virtual functions: each belongs to one partition (R315). DESIGN CHOICE: log entry 13. -/
def cfgVfs (b : List Byte) : List Vf :=
  let ps := cfgParts b
  ((List.range 384).map fun v => ({ id := v, part := Config.configField b 13 0 v, notes := [], count := 0 } : Vf)).filter fun v =>
    ps.any fun p => p.id == v.part

/-! ### Settings of the firmware (R323, R354, R388, R395, R403) -/

/-- Does an HDM decoder have a form that the device supports (R403)? -/
def Hdm.valid (d : Hdm) : Bool :=
  decide (d.base < d.limit) && [1, 2, 4, 8, 16].contains d.ports.length && d.ports.all (fun p => decide (p < 20)) &&
    [256, 512, 1024, 2048, 4096, 8192, 16384].contains d.gran

/-- The throttle of a partition's quadrants stands as CGCTL and their region's level say. -/
def State.cgSet (s : State) (p : Partition) : State :=
  p.cores.foldl (fun (s : State) core =>
    s.modCore core fun c => { c with quads := c.quads.map fun q =>
      { q with engaged := cgEngaged p.cgctl (s.levels.getD (core / 16) 0) q.engaged } }) (s.setPart p)

/-- Firmware writes a setting; one that its rule does not admit changes nothing. DESIGN CHOICE: log entry 46. -/
def State.setting (s : State) (v : Setting) : State :=
  if !s.mgmt.running then s
  else
    match v with
    | .slice p n => match s.part? p with | some q => s.setPart { q with slice := n } | none => s
    | .timeout p n =>
      match s.part? p with
      | some q => if 2250 ≤ n ∧ n ≤ 2250000000 then s.setPart { q with timeout := n } else s
      | none => s
    | .cgctl p v => match s.part? p with | some q => s.cgSet { q with cgctl := v &&& 0x8FFFFF00 } | none => s
    | .replayMax n => { s with mgmt := { s.mgmt with replayMax := n } }
    | .hdm n d =>
      if !d.valid then s
      else if n < s.hdm.length then { s with hdm := s.hdm.set n d }
      else if s.hdm.length < 32 then { s with hdm := s.hdm ++ [d] }
      else s

/-! ### Reset and boot (R438, R460) -/

/-- PWRGOOD: the supplies are within tolerance. -/
def execPwrgood (s : State) : Host.Outcome State Fault Refusal :=
  .next { s with mgmt := { s.mgmt with pwrgood := true } }

/-- Far memory after a reset: the near cache's newer bytes are there or lost, unspecified which.
DESIGN CHOICE: log entry 47. -/
def State.farLost (s : State) : Memory :=
  s.dirty.foldl (fun (m : Memory) c => if Config.freeBit (s.free * 2 ^ 64 + c.1) then m.write c.1 c.2 else m) s.mem

/-- RESET_N_ASSERT: every context, queue, cohort, trace ring and the Diaphragm's lock are discarded; memory keeps its
bytes. DESIGN CHOICE: log entry 47. -/
def execResetNAssert (s : State) : Host.Outcome State Fault Refusal :=
  .next { State.reset with
    mem := s.farLost, free := s.free, turns := s.turns, out := s.out, mgmt := { Mgmt.reset with pwrgood := s.mgmt.pwrgood } }

/-- The state once the boot ROM has passed every step: the Diaphragm is written and locked, the identity key and the
measurements stand, the firmware runs, has configured the partitions and trains the Traelm and CXL ports (R460). The measurement
of the configuration covers its whole image (R442). -/
def State.booted (s : State) (img : BootImage) : State :=
  let fw := img.firmware
  let cf := img.config
  { s with
    parts := cfgParts cf, vfs := cfgVfs cf, ports := s.ports.map fun p => { (p.train s.clock) with failed := 0 }
    cxl := s.cxl.map fun p => { p with training := true }
    mgmt := { s.mgmt with
      inReset := false, running := true, bootst := BitVec.ofNat 32 (recAt fw 8 2 % 256), locked := true
      pins := BitVec.ofNat 64 (Config.configField cf 14 0 0 % 16)
      identity := natBe 32 (Config.identityKey Config.fuseSeed (sm3 (imgCovered fw)))
      measures := [sm3 Config.bootRom, sm3 (imgCovered fw), sm3 (imgBytes cf 0 (192 + recAt cf 4 4)),
        sm3 (Config.fuseKeyDigest ++ natLe 8 Config.fuseMinSvn.toNat)]
      spdm := .start, device := Config.configField cf 15 0 0 % 1024
      hosts := (List.range (Config.configField cf 16 0 0 % 65)).map fun i => Config.configField cf 16 0 (i + 1)
      replayMax := Config.configField cf 17 0 0 } }

/-- RESET_N_RELEASE: the management port trains (R389, R458), and the boot ROM runs its steps and stops at the first check that
fails; every other port stays down then (R438, R439, R461). DESIGN CHOICE: log entry 30. -/
def execResetNRelease (img : BootImage) (s : State) : Host.Outcome State Fault Refusal :=
  if !s.mgmt.inReset || !s.mgmt.pwrgood then .next s
  else
    let stopped := fun step check : Nat =>
      { s with
        ports := s.ports.map fun p => if p.id == 0 then { (p.train s.clock) with failed := 0 } else p
        mgmt := { s.mgmt with inReset := false, running := false, bootst := bootFailed step check } }
    match imgFault img.firmware 0x4E5A4657 with
    | some c => .next (stopped 2 c)
    | none =>
      match imgFault img.config 0x4E5A4347 with
      | some c => .next (stopped 3 c)
      | none => .next (s.booted img)

/-! ### Trips and settings (R444, R459) -/

/-- THERMTRIP: THERMTRIP_N is asserted and every clock stops, until RESET_N is asserted. DEDUCED: log entry 45. -/
def execThermtrip (die : Nat) (s : State) : Host.Outcome State Fault Refusal :=
  .next { s.logged (.thermal die) with mgmt := { s.mgmt with thermtrip := true } }

/-- SUPPLY_TRIP: the clock falls, whatever firmware has set or sets in this cycle. -/
def execSupplyTrip (part mhz : Nat) (s : State) : Host.Outcome State Fault Refusal :=
  match s.part? part with
  | none => .next s
  | some p => .next ((s.logged (.trip part mhz)).setPart { p with clk := min p.clk mhz, trip := some s.clock })

/-- POWER_CLOCK_SETTING: clamped to the ceilings; a clock setting in the cycle of a trip is lost. -/
def execPowerClockSetting (part : Nat) (watts mhz : Option Nat) (s : State) : Host.Outcome State Fault Refusal :=
  match s.part? part with
  | none => .next s
  | some p =>
    let pwr := match watts with | some w => min w (min p.pwrMax p.ceiling) | none => p.pwr
    let clk := match mhz with
      | some m => if p.trip == some s.clock then p.clk else min m p.clkMax
      | none => p.clk
    .next (s.setPart { p with pwr := pwr, clk := clk })

/-- DIAPHRAGM_WRITE: a firmware write to a locked register is ignored and logged (R443). -/
def execDiaphragmWrite (part reg : Nat) (_v : Nat) (s : State) : Host.Outcome State Fault Refusal :=
  .next (if s.mgmt.locked then s.logged (.diaphragm part reg) else s)

/-! ### Pins and the management bus (R458, R462) -/

/-- FAULT_N_ASSERTION_END: the assertion, extended by later errors, has lasted its time. DEDUCED: log entry 45. -/
def execFaultNAssertionEnd (s : State) : Host.Outcome State Fault Refusal :=
  match s.mgmt.faultn with
  | some t => .next (if t ≤ s.clock then { s with mgmt := { s.mgmt with faultn := none } } else s)
  | none => .next s

/-- BOUNDARY_SCAN_ACCESS: TDO follows the scan chain where PINS.JTAG is set, and is held low where it is not. -/
def execBoundaryScanAccess (tms tdi : Bool) (s : State) : Host.Outcome State Fault Refusal :=
  .next (s.emit (.tdo (s.mgmt.pins.getLsbD 3 && Config.boundaryScan s.free tms tdi)))

/-- A log entry as words of the management bus: its kind and its fields. DESIGN CHOICE: log entry 32. -/
def LogEntry.words : LogEntry → List Nat
  | .hwerr code unit at_ => [1, code, unit, at_]
  | .corrected unit at_ => [8, unit, at_, 0]
  | .dropped b => [2, b.core, b.slot, 0]
  | .diaphragm part reg => [3, part, reg, 0]
  | .badMessage src typ => [4, src, typ, 0]
  | .writeFailed pa => [5, pa, 0, 0]
  | .trip part mhz => [6, part, mhz, 0]
  | .thermal die => [7, die, 0, 0]

/-- I3C_ACCESS: BOOTST, the sensors, the management log and the power settings are read; where PINS.I3CW is set, a
partition's power ceiling is written below PWR. DESIGN CHOICE: log entry 32; DEDUCED: log entry 45. -/
def execI3cAccess (op : I3cOp) (s : State) : Host.Outcome State Fault Refusal :=
  if s.mgmt.inReset then .next s
  else
    match op with
    | .readBootst => .next (s.emit (.i3c [s.mgmt.bootst.toNat]))
    | .readSensors => .next (s.emit (.i3c ((List.range 8).map fun k => Config.sensor (8 * s.free + k))))
    | .readLog => .next (s.emit (.i3c (s.log.flatMap LogEntry.words)))
    | .readPower p =>
      match s.part? p with
      | some q => .next (s.emit (.i3c [q.pwr, q.ceiling, q.pwrMax]))
      | none => .next s
    | .setCeiling p v =>
      match s.part? p with
      | some q =>
        .next (if s.mgmt.pins.getLsbD 1 && decide (v < q.pwrMax) then s.setPart { q with ceiling := v, pwr := min q.pwr v } else s)
      | none => .next s

end Sys2Proof.Machine
end

