-- ==== Sys2Proof/Machine/Condenser.lean ====
section
/-! DEFINITION. Compressed sparse rows and the Condenser (R48, R267, R282 to R285, R450, R451). -/

namespace Sys2Proof.Machine

/-! ### CPYCSR (R267) -/

/-- Bytes of n elements of a format, packed. -/
def fmtBytes (f : Fmt) (n : Nat) : Nat := (n * Fmt.width f + 7) / 8

def execCpycsr (f : Fmt) (ch : BitVec 3) (sc : Scope) (d a b c : Reg) (s : State) : Host.Outcome State Fault Refusal :=
  s.runFrag { priv := false, noGlint := true
              uses := groupUses d 2 0 ++ regUses .s a false 1 false false ++ groupUses b 4 2 ++ regUses .s c false 3 false false }
    fun x s =>
      let v := fun r : Nat => (x.b.sreg r).toNat
      let idx := v d.toNat
      let val := v (d.toNat + 1)
      let cap := v c.toNat
      let n := bits (v (b.toNat + 3)) 32 32
      s.engBarrier x (v a.toNat)
        (if Fmt.isAbsent .n64 idx || Fmt.isAbsent .n64 val then .done s
         else
           match (s.winTrap x .write 1 1 idx (4 * (n + 1) + 4 * cap)).or (s.winTrap x .write 1 1 val (fmtBytes f cap)) with
           | some t => .trap t
           | none =>
             if s.engineFull x.core 0 then .stay s
             else
               .done (s.enqueue (Req.new s.nextId x (.csr f idx val cap ch.toNat) [] [] (v a.toNat) sc
                 ((List.range 4).map fun j => x.b.sreg (b.toNat + j)) 1)))

/-- The row pointers r to r + n are present and do not fall. -/
def csrOk (ps : List Nat) : Bool :=
  !ps.any (Fmt.isAbsent .n32) && (ps.zip (ps.drop 1)).all fun p => p.1 ≤ p.2

/-- What a CPYCSR delivers: the index buffer and the value buffer, or the kind of its fault; with the addresses read. -/
def State.csrData (s : State) (r : Req) (f : Fmt) (cap : Nat) : Except Nat (List Byte × List Byte × List Int) := do
  let p := fun j => (r.params.getD j 0).toNat
  let row := bits (p 3) 0 32
  let n := bits (p 3) 32 32
  let rd := fun (a : Int) (k : Nat) => s.engBytes r.core r.cohort false a k
  let base : Int := p 0 + 4 * row
  let bs ← rd base (4 * (n + 1))
  let ps := (List.range (n + 1)).map fun k => leNat (Xfer.slice bs (4 * k) 4)
  if !csrOk ps then throw 26
  else
    let p0 := ps.headD 0
    let z := ps.getLastD 0 - p0
    if z > cap then throw 27
    else
      let cols ← rd (p 1 + 4 * p0 : Nat) (4 * z)
      let w := Fmt.width f
      let first := p0 * w / 8
      let raw ← rd (p 2 + first : Nat) (((p0 + z) * w + 7) / 8 - first)
      let vals := if Fmt.four f then packNibbles ((List.range z).map fun k => nibbleAt raw (p0 % 2 + k)) else raw
      let pages := fun (a : Int) (k : Nat) => (pagesOf a.toNat k).map fun q : Nat => (q : Int)
      return (ps.flatMap (fun q => natLe 4 (q - p0)) ++ cols, vals,
        pages base (4 * (n + 1)) ++ pages (p 1 + 4 * p0 : Nat) (4 * z) ++ pages (p 2 + first : Nat) raw.length)

/-- CPYCSR_COMPLETE: everything is read and delivered, and one arrival is counted; or the barrier faults. -/
def execCpycsrComplete (core req : Nat) (s : State) : Host.Outcome State Fault Refusal :=
  match s.req? req with
  | none => .next s
  | some r =>
    match r.kind with
    | .csr f idx val cap ch =>
      if r.core != core || r.parked || r.dropped || !s.headOfChan r then .next s
      else
        match s.csrData r f cap with
        | .error k => .next (s.engFails r k fun _ => s.barFault req k 0xFFFF)
        | .ok (is, vs, reads) =>
          let s := s.engNotes core r.cohort false false reads
          let s := (s.deliver r idx is).deliver r val vs
          let s := (s.wpAdd core ch (is.length + vs.length)).setReq { r with delivered := is.length + vs.length }
          .next ((s.barArrive req).dropReq req)
    | _ => .next s

/-! ### CND (R282) -/

/-- The stream of a request: empty where its address or its length is absent (R282). -/
def State.cndStream (s : State) (r : Req) : Except Nat (List Byte) :=
  let a := (r.params.getD 0 0).toNat
  let n := (r.params.getD 1 0).toNat
  if Fmt.isAbsent .n64 a || Fmt.isAbsent .n64 n then .ok [] else s.engBytes r.core r.cohort false a n

/-- The request keeps its stream and its window as they are at its issue (R452). -/
def State.cndSource (s : State) (r : Req) : Req :=
  { r with was := match s.cndStream r with | .ok bs => bs | .error _ => []
           wasWin := ((s.cohort? r.cohort).map (·.win)).getD [] }

/-- The fields of sB + 2 and sB + 3. -/
structure CndShape where
  x : Nat
  t : Nat
  y : Nat
  n : Nat
  b : Nat
  ok : Bool
  deriving DecidableEq, Repr

def cndShape (p2 p3 : DWord) : CndShape :=
  let b := bits p3.toNat 48 4
  { x := bits p2.toNat 0 32, t := bits p2.toNat 32 32, y := bits p3.toNat 0 32, n := bits p3.toNat 32 16, b := b
    ok := decide (1 ≤ b ∧ b ≤ 8) && bits p3.toNat 52 12 == 0 }

def execCnd (f : Fmt) (sc : Scope) (a b : Reg) (s : State) : Host.Outcome State Fault Refusal :=
  s.runFrag { priv := false, noGlint := true, uses := regUses .s a false 1 false false ++ groupUses b 4 2 } fun x s =>
    let bar := (x.b.sreg a.toNat).toNat
    let sh := cndShape (x.b.sreg (b.toNat + 2)) (x.b.sreg (b.toNat + 3))
    s.engBarrier x bar
      (match if sh.ok then s.winTrap x .write 1 1 sh.y (6 * sh.n * sh.b) else none with
       | some t => .trap t
       | none =>
         if s.engineFull x.core 2 then .stay s
         else
           .done (s.enqueue (s.cndSource (Req.new s.nextId x (.cnd f) [] [] bar sc
             ((List.range 4).map fun j => x.b.sreg (b.toNat + j)) 1))))

/-! ### The stream (R283, R285, R450) -/

/-- A group: its value's code and its positions. -/
structure CndGroup where
  value : Nat
  pos   : List Nat
  deriving DecidableEq, Repr

/-- A row segment. -/
structure CndSeg where
  row    : Nat
  base   : Nat
  fmt    : Fmt
  groups : List CndGroup
  deriving DecidableEq, Repr

/-- The value formats by code. -/
def cndFmt (c : Nat) : Option Fmt :=
  if c == 1 then some .s8 else if c == 8 then some .f16 else if c == 9 then some .bf16 else if c == 11 then some .e4m3 else none

/-- The positions of a group after `prev`, up to its token, and the bytes that follow; none where they are malformed. -/
def cndPositions : Nat → Int → List Byte → Option (List Nat × List Byte)
  | 0, _, _ => none
  | fuel + 1, prev, bs =>
    let step := fun (d : Nat) (rest : List Byte) =>
      let p := prev + d
      if d == 0 || p ≥ 65536 then none else (cndPositions fuel p rest).map fun r => (p.toNat :: r.1, r.2)
    match bs with
    | [] => none
    | b :: rest =>
      if b == 0xFF then some ([], rest)
      else if b == 0 then
        match rest with
        | lo :: hi :: rest => step (lo.toNat + 256 * hi.toNat) rest
        | _ => none
      else step b.toNat rest

/-- `g` groups of a format. -/
def cndGroups (f : Fmt) : Nat → List Byte → Option (List CndGroup × List Byte)
  | 0, bs => some ([], bs)
  | g + 1, bs =>
    let w := Fmt.width f / 8
    if bs.length < w then none
    else
      (cndPositions (bs.length + 1) (-1) (bs.drop w)).bind fun r =>
        (cndGroups f g r.2).map fun q => ({ value := leNat (bs.take w), pos := r.1 } :: q.1, q.2)

/-- The segments of a stream; none where it is malformed. -/
def cndSegs (n : Nat) : Nat → List Byte → Option (List CndSeg)
  | 0, _ => none
  | fuel + 1, bs =>
    if bs.isEmpty then some []
    else if bs.length < 8 then none
    else
      let f := fun k m => leNat (Xfer.slice bs k m)
      match cndFmt (f 6 1) with
      | none => none
      | some fmt =>
        if f 7 1 != 0 || f 1 3 ≥ n then none
        else
          (cndGroups fmt (f 0 1) (bs.drop 8)).bind fun r =>
            (cndSegs n fuel r.2).map fun rest => { row := f 1 3, base := f 4 2, fmt := fmt, groups := r.1 } :: rest

/-! ### Sums (R48, R71, R283, R284) -/

/-- A partial sum: none before its first term; with kept count and flags. -/
structure CndSum where
  val   : Option Nat
  count : Nat
  flags : Flags
  deriving DecidableEq, Repr

def CndSum.zero : CndSum := { val := none, count := 0, flags := 0 }

/-- Add a term with one Round(·, f32, rn); the first term starts the sum. -/
def CndSum.add (a : CndSum) (v : Nat) (n : Nat) (fl : Flags) : CndSum :=
  match a.val with
  | none => { val := some v, count := a.count + n, flags := a.flags ||| fl }
  | some u =>
    let c := addElem .f32 u v
    { val := some c.1, count := a.count + n, flags := a.flags ||| fl ||| c.2 }

/-- Steps 1 and 2 of R48: the product of a group with a column's activations, none without one. -/
def cndProduct (f : Fmt) (g : CndGroup) (acts : List Nat) : Option (Nat × Nat × Flags) :=
  if Fmt.isAbsent f g.value then none
  else
    let s := (acts.filter fun a => !Fmt.isAbsent .f32 a).foldl (fun (c : CndSum) a => c.add a 1 0) CndSum.zero
    match s.val with
    | none => none
    | some v =>
      let w := (roundNum .f32 .rn false (Fmt.value f g.value)).1
      let p := floatElem .f32 .rn (fun xs => mulExact (arg xs 0) (arg xs 1)) [w, v]
      some (p.1, s.count, s.flags ||| p.2)

/-- The sum of a segment for one column: step 3. -/
def cndSegment (sg : CndSeg) (acts : CndGroup → List Nat) : CndSum :=
  sg.groups.foldl (fun (c : CndSum) g =>
    match cndProduct sg.fmt g (acts g) with
    | none => c
    | some p => c.add p.1 p.2.1 p.2.2) CndSum.zero

/-- A byte that the window held when the request issued. -/
def State.cndWas (s : State) (r : Req) (off : Nat) : Byte :=
  ((s.cohort? r.cohort).map fun c => { c with win := r.wasWin }.byte off).getD 0

/-- A byte of an activation: one that has changed since the issue is read as it was or as it is, unspecified which (R452).
DESIGN CHOICE: log entry 5. -/
def State.cndSees (s : State) (r : Req) (off : Nat) (now : Byte) : Byte :=
  let old := s.cndWas r off
  if old != now && s.choose 14 off then old else now

/-- The same of the stream's bytes. DESIGN CHOICE: log entry 5. -/
def State.cndReads (s : State) (r : Req) (bs : List Byte) : List Byte :=
  bs.zipIdx.map fun p =>
    let old := r.was.getD p.2 p.1
    if old != p.1 && s.choose 16 p.2 then old else p.1

/-- Activation at a position in f32, or the kind of its fault (R282). -/
def State.activation (s : State) (r : Req) (af : Fmt) (sh : CndShape) (j p : Nat) : Except Nat Nat := do
  let w := Fmt.width af / 8
  let off := sh.x + j * sh.t + p * w
  let bs ← s.engBytes r.core r.cohort true (off : Nat) w
  let c := leNat (bs.zipIdx.map fun b => s.cndSees r (off + b.2) b.1)
  return if Fmt.isAbsent af c then Fmt.absent .f32 else (roundNum .f32 .rn false (Fmt.value af c)).1

/-- Results of every row and column. -/
abbrev CndOut := List CndSum

/-- Fold one segment into the rows of one column. DESIGN CHOICE: log entry 59. -/
def State.cndColumn (s : State) (r : Req) (af : Fmt) (sh : CndShape) (out : CndOut) (sg : CndSeg) (j : Nat) :
    Except Nat CndOut := do
  let acts ← sg.groups.mapM fun g => do
    let as ← g.pos.mapM fun p => s.activation r af sh j (sg.base + p)
    return (g, as)
  let seg := (acts.foldl (fun (c : CndSum) (ga : CndGroup × List Nat) =>
    match cndProduct sg.fmt ga.1 ga.2 with
    | none => c
    | some p => c.add p.1 p.2.1 p.2.2) CndSum.zero)
  let i := sg.row * sh.b + j
  return match seg.val with
    | none => out
    | some v => out.set i ((out.getD i CndSum.zero).add v seg.count seg.flags)

/-- The whole computation: results, or the kind of the fault. -/
def State.cndRun (s : State) (r : Req) (af : Fmt) (sh : CndShape) (bs : List Byte) : Except Nat CndOut := do
  match cndSegs sh.n (bs.length + 1) bs with
  | none => throw 25
  | some segs =>
    let pairs := segs.flatMap fun sg => (List.range sh.b).map fun j => (sg, j)
    pairs.foldlM (fun (out : CndOut) (p : CndSeg × Nat) => s.cndColumn r af sh out p.1 p.2)
      (List.replicate (sh.n * sh.b) CndSum.zero)

/-- The bytes of results and counts, and the flags with SAT of a count that reaches its bound (R46). -/
def cndBytes (out : CndOut) : List Byte × Flags :=
  (out.flatMap (fun c => natLe 4 (c.val.getD (Fmt.absent .f32))) ++ out.flatMap (fun c => natLe 2 (min c.count 65534)),
    orFlags (out.map fun c => c.flags ||| if c.count ≥ 65534 then SAT else 0))

/-- A faulted request leaves its result region unspecified. The spec says so of a malformed stream only; of an activation outside
the window, a failed translation and an unreadable byte the model says the same. DESIGN CHOICE: log entry 8. -/
def State.cndSpoiled (s : State) (r : Req) (sh : CndShape) : State :=
  s.deliver r sh.y ((List.range (6 * sh.n * sh.b)).map fun k => Config.openByte s.free k)

/-- The result bytes as they stay: one that another write has changed since `olds` keeps the Condenser's value or that write's,
unspecified which (R452). DESIGN CHOICE: log entry 5. -/
def State.cndTaken (s : State) (r : Req) (y : Nat) (olds : Nat → Byte) (bs : List Byte) : List Byte :=
  match s.cohort? r.cohort with
  | none => bs
  | some c => bs.zipIdx.map fun p =>
      let now := c.byte (y + p.2)
      if now != olds p.2 && s.choose 15 p.2 then now else p.1

/-- CND_COMPLETE: first the results are written, then, in a step of its own, they are counted (R452). -/
def execCndComplete (core req : Nat) (s : State) : Host.Outcome State Fault Refusal :=
  match s.req? req with
  | none => .next s
  | some r =>
    match r.kind with
    | .cnd af =>
      let sh := cndShape (r.params.getD 2 0) (r.params.getD 3 0)
      if r.core != core || r.parked || r.dropped then .next s
      else if !sh.ok then .next (s.barFault req 25 0xFFFF)
      else
        match r.bursts with
        | .read bs :: _ =>
          let s := s.deliver r sh.y (s.cndTaken r sh.y (fun k => bs.getD k 0) bs)
          .next ((s.reqFlags req).countAndEnd req bs.length)
        | _ =>
          match (s.cndStream r).bind fun bs => (s.cndRun r af sh (s.cndReads r bs)).map fun o => (bs, o) with
          | .error k => .next (s.engFails r k fun _ => (s.cndSpoiled r sh).barFault req k 0xFFFF)
          | .ok (bs, out) =>
            let q := cndBytes out
            let a : Int := ((r.params.getD 0 0).toNat : Nat)
            let s := s.engNotes core r.cohort false false ((pagesOf a.toNat bs.length).map fun q : Nat => (q : Int))
            let s := s.deliver r sh.y (s.cndTaken r sh.y (fun k => s.cndWas r (sh.y + k)) q.1)
            .next (s.setReq { r.setBurst 0 (.read q.1) with flags := q.2, delivered := q.1.length, down := none })
    | _ => .next s

end Sys2Proof.Machine
end

