-- ==== Sys2Proof/Machine/Glint.lean ====
section
/-! DEFINITION. Handler reads, glints, and EXIT (R148, R268 to R273, R347, R408, R434). -/

namespace Sys2Proof.Machine

/-! ### GREAD (R268, R273) -/

/-- Registers that GREAD names: coordinates, barrier, user argument, log offset. -/
def State.greadUses (s : State) (slot : Nat) (mode : GMode) (d a c : Reg) : List Use :=
  groupUses d (s.coordRegs slot) 0 ++ regUses .s a false 1 false false ++ groupUses c (if mode == .plain then 1 else 2) 3

/-- The order log of a handler read with b bursts: nothing for an absent offset, a trap outside the window. -/
def State.logTrap (s : State) (x : Frag) (mode : GMode) (log b : Nat) : Option Trap :=
  if mode == .plain then none else s.winTrap x (if mode == .record then .write else .read) 1 1 log (4 + 4 * b)

def execGread (mode : GMode) (map : BitVec 4) (sc : Scope) (d a c : Reg) (off : Word) (s : State) :
    Host.Outcome State Fault Refusal :=
  let slot := map.toNat
  s.runFrag { priv := false, noGlint := true, uses := s.greadUses slot mode d a c } fun x s =>
    let bar := (x.b.sreg a.toNat).toNat
    let log := if mode == .plain then 0 else (x.b.sreg (c.toNat + 1)).toNat
    let target := x.target (sext 32 off.toNat)
    s.engBarrier x bar
      (if mode != .plain && Fmt.isAbsent .n64 log then .done s
       else
         match s.mapIn x.b.cohort slot, s.contextOf x.b with
         | none, _ => .trap (x.engTrap 5 slot 0)
         | some bs, ctx =>
           let m := TMap.ofBytes bs
           if !(ctx.any fun cx => s.headerIs x.core cx target headerG) then .trap (x.engTrap 2 slot 0)
           else if m.chain != 0 then .trap (x.engTrap 4 slot 0)
           else if m.bursts > 65536 then .trap (x.engTrap 3 slot 0)
           else
             match s.logTrap x mode log m.bursts with
             | some t => .trap t
             | none =>
               if s.engineFull x.core 1 then .stay s
               else
                 let r := Req.new s.nextId x (.gread target (x.b.sreg c.toNat) mode log) bs (x.coords d m.rank) bar sc [] m.bursts
                 let s := if mode == .record then s.deliver r log (natLe 4 0) else s
                 .done (s.enqueue r))

/-! ### GLINT_BIRTH (R269, R272, R273, R434) -/

/-- Whole padding bytes of a burst from byte n on (R269). -/
def padByte (f : Fmt) (k : Nat) : Byte :=
  if f == .n4x then (n4xAbsent.getD (k % 18) 0)
  else if Fmt.four f then 0x88
  else BitVec.ofNat 8 (Fmt.absent f / 256 ^ (k % TMap.esize f))

/-- The 128 bytes of a burst: the read bytes, with the half byte and the bytes past the row's end absent. -/
def glintBytes (f : Fmt) (odd : Bool) (bs : List Byte) : List Byte :=
  let bs := if odd then bs.dropLast ++ [BitVec.ofNat 8 ((bs.getLastD 0).toNat % 16 + 0x80)] else bs
  bs ++ (List.range (128 - bs.length)).map (padByte f)

/-- Valid elements of a burst: those of its row whose bits lie in it. -/
def TMap.valid (m : TMap) : TMap.Piece → Nat
  | .row _ lo n =>
    if m.g == .n4x then 32 * ((lo + n + 17) / 18 - (lo + 17) / 18)
    else min ((lo + n) * 8 / Fmt.width m.g) m.rowElems - lo * 8 / Fmt.width m.g
  | .scales _ n => n

/-- Coordinate d of a burst's first element as the glint sees it: wrapped, an index left as its position. -/
def Req.glintCoord (r : Req) (k d : Nat) : Nat :=
  let m := TMap.ofBytes r.map
  if d ≥ m.rank then 0 else pattern 32 ((m.coord r.coords (m.burstBox k) d).getD 0)

/-- The glint of a burst (R269, R270). DEDUCED: log entry 44. -/
def Req.glint (r : Req) (k slot target : Nat) (user : DWord) (bs : List Byte) (seed : Nat) : Beam :=
  let m := TMap.ofBytes r.map
  let n := m.valid (m.piece k)
  let odd := match m.piece k with
    | .row .. => Fmt.four m.fmt && n % 2 == 1
    | .scales .. => false
  let data := glintBytes m.fmt odd bs
  let b := Beam.fresh ⟨r.core, slot⟩ r.cohort r.bid 32 16 8 4 0 2
  let c := r.glintCoord k
  let ones : List Word := List.replicate 32 (~~~0)
  let b := { b with
    laneg := (List.range 32).map fun i => Config.freeNat (seed * 64 + i) % 2 ^ 32
    v := (List.range 32).map (fun i => BitVec.ofNat 32 (leNat (Xfer.slice data (4 * i) 4))) :: List.replicate 15 ones
    s := [BitVec.ofNat 64 k, BitVec.ofNat 64 (c 0 + 2 ^ 32 * c 1), BitVec.ofNat 64 (c 2 + 2 ^ 32 * c 3),
          BitVec.ofNat 64 (c 4 + 2 ^ 32 * n), user, BitVec.ofNat 64 r.barrier, ~~~0, ~~~0]
    glint := some { req := r.id, burst := k, barrier := r.barrier, issuer := r.beam } }
  (b.setEntry 0 { Entry.none_ with st := .run, pc := target, mask := fullMask 32 }).oweSync

/-- A request leaves a REPLAY mark on its barrier, and its waiters look again. -/
def State.addMark (s : State) (r : Req) (j code logged : Nat) : State :=
  match s.cohort? r.cohort with
  | some c => (s.setCohort { c with 
      marks := c.marks ++ [{ off := r.barrier, code := code, logged := logged, pos := j, ended := false, acquired := [] }] }).wakeBar
        r.cohort r.barrier 0
  | none => s

/-- The fragment that issued a request, as a SYNC describes it, whether or not its beam lives (R448). -/
def Req.site (r : Req) : Site :=
  { kernel := r.cohort.kernel, key := ⟨r.core, if r.beam.slot < 80 then r.beam.slot else r.slot⟩, id := r.bid, w := r.w
    entry := r.entry, pc := r.pc, mask := r.mask }

/-- A replay diverges: the log is followed no more, Periscope hears of it, and without REPLAY_GO the barrier carries a
mark; a beam that has retired has none (R434). DEDUCED: log entry 44. -/
def State.replayDiverges (s : State) (r : Req) (code logged k : Nat) : State :=
  let j := r.births.length
  let s := s.setReq { r with follow := false }
  let s := s.packet r.site 0x08
    [.raw (natLe 1 r.site.key.slot ++ natLe 1 code ++ natLe 4 r.barrier ++ natLe 4 j ++ natLe 4 logged ++ natLe 4 k)]
  if (s.beam? r.beam).any fun b => b.ctl.getLsbD 0 then s else s.addMark r j code logged

/-- A birth: the log of a recording read, the burst's state, the glint. DEDUCED: log entry 44. -/
def State.birth (s : State) (r : Req) (k slot target : Nat) (user : DWord) (mode : GMode) (log : Nat) (bs : List Byte) : State :=
  let j := r.births.length
  let s := s.setReq { r.setBurst k .running with births := r.births ++ [k] }
  let s := if mode == .record then
      (s.deliver r (log + 4 + 4 * j) (natLe 4 k)).deliver r log (natLe 4 (j + 1))
    else s
  { s with beams := s.beams ++ [r.glint k slot target user bs s.free] }

/-- GLINT_BIRTH: a burst of the buffer becomes a glint in a free slot; under `.rep` in the log's order. -/
def execGlintBirth (core req burst slot : Nat) (s : State) : Host.Outcome State Fault Refusal :=
  match s.req? req with
  | none => .next s
  | some r =>
    if r.core != core || r.dropped || slot < 64 || slot ≥ 80 || (s.beam? ⟨core, slot⟩).isSome then .next s
    else
      match r.kind, r.bursts[burst]? with
      | .gread target user mode log, some (.read bs) =>
        match s.logNext r mode log with
        | .any => .next (s.birth r burst slot target user mode log bs)
        | .burst k => if k == burst then .next (s.birth r burst slot target user mode log bs) else .next s
        | .later => .next s
        | .diverged code logged =>
          let first := (r.arrived.find? r.returned).getD burst
          .next (s.replayDiverges r code logged first)
      | _, _ => .next s

/-! ### The end of a glint (R270, R271) -/

/-- A glint's slot is free again. -/
def State.dropGlint (s : State) (k : BeamKey) : State :=
  { s with
    beams := s.beams.filter fun b => b.key != k
    fills := s.fills.filter fun f => f.beam != k }

/-- The CONVERGENCE trap of a glint rule: what was broken (R90, R410). -/
def Frag.glintTrap (x : Frag) (y : Nat) : Trap :=
  { group := gCONV, code := 2, lanes := none, x := x.op + x.w * 2 ^ 8, y := y, z := 0 }

/-- GDONE: it waits for the glint's accesses at its request's SCOPE; the flags reach the issuing beam, 128 bytes are counted,
the slot is free. -/
def execGdone (s : State) : Host.Outcome State Fault Refusal :=
  s.runFrag (plain []) fun x s =>
    match x.b.glint with
    | none => .trap (x.glintTrap 2)
    | some g =>
      if !x.b.converged then .trap (x.glintTrap 3)
      else if s.unperformed x (((s.req? g.req).map (·.scope)).getD .beam) then .stay s
      else
        let s := (s.raise g.issuer x.b.status).dropGlint x.b.key
        let s := match s.req? g.req with
          | some r => s.setReq { r.setBurst g.burst .done with delivered := r.delivered + 128 }
          | none => s
        .stay ((s.barCount g.req 128).reqEnds g.req)

/-- A handler's EXIT ends its glint without GDONE: GLINT_LOST (R270). DEDUCED: log entry 44. -/
def State.glintLost (s : State) (k : BeamKey) (g : Glint) : State :=
  let s := s.dropGlint k
  match s.req? g.req with
  | none => s
  | some r => (s.setReq (r.setBurst g.burst (.faulted 29))).barFault g.req 29 g.burst

/-! ### EXIT (R83, R148, R270, R347, R408) -/

/-- DEDUCED: log entry 54. -/
def execExit (s : State) : Host.Outcome State Fault Refusal :=
  s.runFrag (plain []) fun x s =>
    let k := x.b.key
    match x.b.trap, x.b.glint with
    | some _, some g => .stay (s.glintLost k g)
    | some tm, none =>
      let r := x.b.exitTrap x.e tm
      .stay ((((s.setBeam r.1).rcvPackets x.b r.2).laterAll k r.2).afterExit k)
    | none, some _ => .trap (x.glintTrap 2)
    | none, none =>
      let r := x.b.exitLanes x.e
      .stay ((((s.setBeam r.1).rcvPackets x.b r.2).laterAll k r.2).afterExit k)

end Sys2Proof.Machine
end

