-- ==== Sys2Proof/Machine/Matrix.lean ====
section
/-! DEFINITION. The matrix unit (R44 to R46, R60, R89, R286 to R290, R445, R446). -/

namespace Sys2Proof.Machine

/-! ### Shape, operands and the unit -/

/-- The issuing beam is a width-64 beam, so that an instruction uses a tile pair. -/
def State.pairWidth (s : State) : Bool := ((s.frag).map fun x => x.w == 64).getD false

/-- Tiles of an operand: one, or of a width-64 beam a pair that begins at an even tile (R89, R286).
DEDUCED: log entry 24. -/
def tileUses (d : Reg) (pair dst : Bool) (src : Nat) : List Use :=
  { set := .a, r := d.toNat, src := src, dst := dst, trap := false } ::
    (if pair && d.toNat % 2 == 0 then [{ set := .a, r := d.toNat + 1, src := 5, dst := dst, trap := false }] else [])

/-- Consecutive vector registers of a source with its empty policy and the s register of its Prism; or one scalar register
(R110). -/
def rowUses (a : VArg) (n src : Nat) : List Use :=
  match a with
  | .v r p e =>
    (List.range n).map (fun j => { set := .v, r := r.toNat + j, src := if j == 0 then src else 5, dst := false, trap := e }) ++
      Prism.uses p
  | .s .. => VArg.uses false src a

/-- MATRIX_SHAPE (R89). -/
def Frag.shapeTrap (x : Frag) (d : Reg) : Option Trap :=
  if (x.w == 32 || (x.w == 64 && d.toNat % 2 == 0)) && x.mask == fullMask x.w then none
  else some { group := gCONV, code := 1, lanes := none, x := x.op + x.w * 2 ^ 8, y := 0, z := 0 }

/-- An odd first register of A (R287). -/
def Frag.oddTrap (x : Frag) (a : VArg) : Option Trap :=
  match a with
  | .v r _ _ =>
    if r.toNat % 2 == 0 then none
    else some (Use.fault x.b { set := .v, r := r.toNat, src := 1, dst := false, trap := false } 1)
  | .s .. => none

/-- A window operand of a matrix instruction: nothing for an absent offset (R253, R286, R290). -/
def State.matTrap (s : State) (x : Frag) (acc : Access) (off n : Nat) : Option Trap :=
  if Fmt.isAbsent .n64 off then none else s.winTrap x acc 32 32 off n

/-- Is a matrix instruction of the beam in progress on one of `n` tiles from `t` on? They execute in program order (R288). -/
def State.tileBusy (s : State) (k : BeamKey) (t n : Nat) : Bool :=
  s.mmas.any fun m => m.beam == k && decide (m.tile < t + n ∧ t < m.tile + m.tiles.length)

/-- Tiles that an instruction of the beam uses. -/
def Frag.tiles (x : Frag) : Nat := if x.w == 64 then 2 else 1

def Tile.zero : Tile := { vals := List.replicate 1024 0, cnts := List.replicate 1024 0 }

def Beam.tile (b : Beam) (t : Nat) : Tile := b.tiles.getD t Tile.zero

/-! ### Decoding rows (R29 to R34, R287) -/

/-- Bytes of lane `i`, packed in `n` registers; a Prism that names no lane gives none. A scalar register gives its bits
[31:0] as each of the registers (R111). -/
def Frag.rowBytes (x : Frag) (a : VArg) (n i : Nat) : Option (List Byte) :=
  match a with
  | .v r p _ =>
    match prismLane x.b p i with
    | some j =>
      if x.mask.getLsbD j then some ((List.range n).flatMap fun k => natLe 4 (x.b.vl (r.toNat + k) j).toNat) else none
    | none => none
  | .s r _ => some ((List.range n).flatMap fun _ => natLe 4 (x.b.sreg r.toNat).toNat)

/-- Elements of packed bytes, with FMT of a malformed n4x block (R34). -/
def rowElems (f : Fmt) (n : Nat) (bs : List Byte) : List Num × Flags :=
  if f == .n4x then
    let ds := (List.range (n / 32)).map fun b => n4xDecode ((bs.drop (18 * b)).take 18)
    (ds.flatMap (·.1), orFlags (ds.map (·.2)))
  else ((unpackElems f bs n).map (Fmt.value f), 0)

/-- K of a format (R287). -/
def depthOf (f : Fmt) : Nat := 512 / Fmt.width f

/-- Bytes of B without its scales (R287). -/
def bBytes (f : Fmt) : Nat := if f == .n4x then 2304 else 2048

/-- Registers that hold a row of A (R287). -/
def aRegs (f : Fmt) : Nat := if f == .n4x then 18 else 16

/-- A block's scale: none where it is absent (R29). -/
def scaleOf (c : Nat) : Option Int := if c == 0xFF then none else some ((c : Int) - 127)

/-- The bytes of the rows of A, one row a lane. DEDUCED: log entry 34. -/
def Frag.rowsOf (x : Frag) (a : VArg) (n : Nat) : List (Option (List Byte)) := (List.range x.w).map fun i => x.rowBytes a n i

/-- Bytes of a window operand: none of an absent offset (R286). DEDUCED: log entry 34. DESIGN CHOICE: log entry 61. -/
def State.operandB (s : State) (c : CohortKey) (off : Option Nat) (n : Nat) : List Byte :=
  match off, s.cohort? c with
  | some o, some k => s.winBytes k o n
  | _, _ => []

/-- The rows of A as numbers, with their flags: a row that no lane gives is absent. -/
def MmaOp.aRows (m : MmaOp) : List (List Num × Flags) :=
  m.a.map fun
    | some bs => rowElems m.fa (depthOf m.fa) bs
    | none => (List.replicate (depthOf m.fa) .absent, 0)

/-- The rows of B as numbers, with their flags; every element of an absent operand is absent (R286). -/
def MmaOp.bRows (m : MmaOp) : List (List Num × Flags) :=
  let n := bBytes m.fb / depthOf m.fb
  (List.range (depthOf m.fb)).map fun k =>
    if m.off.isNone then (List.replicate 32 .absent, 0) else rowElems m.fb 32 ((m.b.drop (n * k)).take n)

/-- The scale of block `k` of row `i` of A, and of column `j` of B: 0 without scales; absent where its byte is (R29, R287). -/
def MmaOp.aScale (m : MmaOp) (i k : Nat) : Option Int :=
  if !m.scaled then some 0 else ((m.xa.getD i none).map fun bs => scaleOf (bs.getD k 0).toNat).join

def MmaOp.bScale (m : MmaOp) (j k : Nat) : Option Int :=
  if !m.scaled then some 0
  else if m.off.isNone then none
  else scaleOf (m.b.getD (bBytes m.fb + 32 * k + j) 0).toNat

/-- The columns of a list of rows. -/
def columns (rows : List (List Num)) : List (List Num) :=
  (List.range 32).map fun j => rows.map fun r => r.getD j .absent

/-! ### The sums (R44, R45, R60, R446) -/

/-- One block's exact sum over its kept products, their number, and the flags: none of a NaN factor (R40). -/
def blockSum (xs ys : List Num) : Num × Nat × Flags :=
  let kept := (xs.zip ys).filter fun p => !p.1.isAbsent && !p.2.isAbsent
  let ps := kept.map fun p => mulExact p.1 p.2
  let q := sumExact false (ps.map (·.1))
  let inv := ps.any (·.2) || q.2
  (q.1, kept.length, invFlag inv (kept.flatMap fun p => [p.1, p.2]))

/-- An element and its kept count. -/
abbrev Cell := Nat × Nat × Flags

/-- Add a block sum of `n` kept products to an element (R44 to R46, R446). DEDUCED: log entry 34. -/
def addBlock (int : Bool) (c : Cell) (v : Num) (n : Nat) (fl : Flags) : Cell :=
  if n == 0 then c
  else
    let f := if int then Fmt.s32 else Fmt.f32
    let old := if c.2.1 == 0 then Num.absent else Fmt.value f c.1
    let q := if old.isAbsent then (v, false) else sumExact false [old, v]
    let r := roundNum f .rn false q.1
    let k := c.2.1 + n
    (r.1, min k 65534, c.2.2 ||| fl ||| r.2 ||| invFlag q.2 [old, v] ||| if k ≥ 65534 then SAT else 0)

/-- One element's update over its blocks in ascending order. -/
def updateCell (int : Bool) (row col : List Num) (xa xb : Nat → Option Int) (c : Cell) : Cell :=
  (List.range (row.length / 32)).foldl (fun (c : Cell) b =>
    match xa b, xb b with
    | some p, some q =>
      let r := blockSum ((row.drop (32 * b)).take 32) ((col.drop (32 * b)).take 32)
      addBlock int c (r.1.scale (p + q)) r.2.1 r.2.2
    | _, _ => c) c

/-- A tile after a multiplication: rows `lo` to `lo` + 31 of A. -/
def MmaOp.updateTile (m : MmaOp) (rows cols : List (List Num)) (lo : Nat) (t : Tile) : Tile × Flags :=
  let cs := (List.range 1024).map fun k =>
    let i := lo + k / 32
    let j := k % 32
    updateCell m.int (rows.getD i []) (cols.getD j []) (m.aScale i) (m.bScale j)
      ((t.vals.getD k 0).toNat, t.cnts.getD k 0, 0)
  ({ vals := cs.map fun c => BitVec.ofNat 32 c.1, cnts := cs.map (·.2.1) }, orFlags (cs.map (·.2.2)))

/-- What a multiplication leaves in its tiles, and the flags that it raises: FMT of an operand's malformed n4x block (R34) and
those of the sums (R43, R44). -/
def MmaOp.product (m : MmaOp) : List Tile × Flags :=
  let ra := m.aRows
  let rb := m.bRows
  let ts := m.tiles.zipIdx.map fun p => m.updateTile (ra.map (·.1)) (columns (rb.map (·.1))) (32 * p.2) p.1
  (ts.map (·.1), orFlags (ra.map (·.2) ++ rb.map (·.2)) ||| orFlags (ts.map (·.2)))

/-- The unit takes the instruction (R288): in deterministic issue mode it is busy for 32 cycles a tile, and the result is
there 8 cycles later; elsewhere no latency is fixed (R4). DESIGN CHOICE: log entry 61. -/
def State.mmaStart (s : State) (x : Frag) (d : Nat) (m : MmaOp) : State :=
  let n := if (s.coreOf x.core).dim then 32 * x.tiles else 0
  let last := if (s.coreOf x.core).dim then 8 else 0
  let q := quadOf x.b.key.slot
  let s := s.modCore x.core fun c => { c with quads := c.quads.modify q fun y => { y with muBusy := s.clock + n } }
  let p := m.product
  { s with mmas := s.mmas ++ [{ beam := x.b.key, op := m, tile := d, tiles := p.1, flags := p.2, ready := s.clock + n + last }] }

/-- Is the quadrant's matrix unit occupied? -/
def State.unitBusy (s : State) (x : Frag) : Bool :=
  decide (s.clock < ((s.coreOf x.core).quads.getD (quadOf x.b.key.slot) Quad.reset).muBusy)

/-- A matrix multiplication with its operands, where the unit and the tiles are free. DEDUCED: log entry 34. -/
def State.multiply (s : State) (x : Frag) (d : Nat) (m : MmaOp) : Res :=
  if s.unitBusy x || s.tileBusy x.b.key d x.tiles then .stay s else .done (s.mmaStart x d m)

/-- The tiles that a multiplication of the fragment's beam into tile `d` updates. -/
def Frag.oldTiles (x : Frag) (d : Nat) : List Tile := (List.range x.tiles).map fun h => x.b.tile (d + h)

/-- A window offset as an operand. -/
def offOf (off : Nat) : Option Nat := if Fmt.isAbsent .n64 off then none else some off

/-- Another agent has written operand B of a multiplication in progress: each byte that it changed is taken as it was or as it
is now, unspecified which (R288). DESIGN CHOICE: log entry 61. -/
def MmaPend.sees (m : MmaPend) (was now : List Byte) (newer : Nat → Bool) : MmaPend :=
  let b := m.op.b.zipIdx.map fun p =>
    if was.getD p.2 0 != now.getD p.2 0 && newer p.2 then now.getD p.2 0 else p.1
  if b == m.op.b then m
  else
    let op := { m.op with b := b }
    { m with op := op, tiles := op.product.1, flags := op.product.2 }

/-- What multiplications in progress take of the writes between two states that the beam `who`, or where it is none another
agent, has made: those of the writing beam itself take nothing of them (R288). DESIGN CHOICE: log entry 61. -/
def State.mmaSees (t : State) (who : Option BeamKey) (s : State) : State :=
  { t with
    mmas := t.mmas.map fun m =>
      match t.beam? m.beam with
      | none => m
      | some b =>
        if who == some m.beam then m
        else
          let n := m.op.b.length
          m.sees (s.operandB b.cohort m.op.off n) (t.operandB b.cohort m.op.off n) fun j =>
            t.choose 6 (j + 2 ^ 16 * (m.beam.slot + 2 ^ 10 * m.beam.core)) }

/-! ### MMA and MMAS -/

/-- MMA (R44, R45, R287). -/
def execMma (fa fb : Fmt) (d : Reg) (a : VArg) (b : SArg) (s : State) : Host.Outcome State Fault Refusal :=
  s.runFrag { priv := false, noGlint := true
              uses := tileUses d s.pairWidth true 0 ++ rowUses a (aRegs fa) 1 ++ SArg.uses 2 b } fun x s =>
    let off := x.sval b
    match ((x.oddTrap a).or (x.shapeTrap d)).or (s.matTrap x .read off (bBytes fb)) with
    | some t => .trap t
    | none =>
      s.multiply x d.toNat
        { int := fa == .s8, scaled := false, fa := fa, fb := fb, a := x.rowsOf a (aRegs fa), xa := [], off := offOf off
          b := s.operandB x.b.cohort (offOf off) (bBytes fb), tiles := x.oldTiles d.toNat }

/-- The format of B in an MMAS (R286). -/
def otherMx (f : Fmt) (mixed : Bool) : Fmt := if mixed then (if f == .mx8 then .mx8b else .mx8) else f

/-- MMAS: block-scaled operands with their scales (R29, R30, R44, R287). -/
def execMmas (fa : Fmt) (mixed : Bool) (d : Reg) (a : VArg) (b : SArg) (c : VArg) (s : State) :
    Host.Outcome State Fault Refusal :=
  s.runFrag { priv := false, noGlint := true
              uses := tileUses d s.pairWidth true 0 ++ rowUses a (aRegs fa) 1 ++ SArg.uses 2 b ++ VArg.uses false 3 c } fun x s =>
    let off := x.sval b
    let fb := otherMx fa mixed
    let nb := depthOf fa / 32
    match ((x.oddTrap a).or (x.shapeTrap d)).or (s.matTrap x .read off (bBytes fb + 32 * nb)) with
    | some t => .trap t
    | none =>
      s.multiply x d.toNat
        { int := false, scaled := true, fa := fa, fb := fb, a := x.rowsOf a (aRegs fa), xa := x.rowsOf c 1, off := offOf off
          b := s.operandB x.b.cohort (offOf off) (bBytes fb + 32 * nb), tiles := x.oldTiles d.toNat }

/-- MMA_COMPLETE: the beam's first finished matrix instruction writes its tiles and its flags (R44, R288). -/
def execMmaComplete (b : BeamKey) (s : State) : Host.Outcome State Fault Refusal :=
  match s.beam? b, s.mmas.find? (fun m => m.beam == b && decide (m.ready ≤ s.clock)) with
  | some x, some m => .next { s.setBeam (x.landMma m) with mmas := s.mmas.erase m }
  | _, _ => .next s

/-! ### MCLR, MLDA, MSTA -/

def Tile.clear : Tile := { vals := List.replicate 1024 0xFFFFFFFF, cnts := List.replicate 1024 0 }

def Beam.setTile (b : Beam) (t : Nat) (x : Tile) : Beam := { b with tiles := b.tiles.set t x }

/-- MCLR: every element absent with count 0 (R60, R286, R289). -/
def execMclr (d : Reg) (s : State) : Host.Outcome State Fault Refusal :=
  s.runFrag { priv := false, noGlint := false, uses := tileUses d false true 0 } fun x s =>
    if s.tileBusy x.b.key d.toNat 1 then .stay s else s.beamDone (x.b.setTile d.toNat Tile.clear)

/-- Count of column `j` in lane `i` (R289). -/
def Frag.loadCount (x : Frag) (c : Option VArg) (i j : Nat) : Nat :=
  match c with
  | none => 1
  | some o =>
    let w := match o with
      | .v r p _ => x.prism (2 ^ 32 - 1) p (x.b.vval false (r.toNat + j / 2)) i
      | .s r _ => (x.b.sreg r.toNat).toNat
    let n := bits w (16 * (j % 2)) 16
    if n == 0xFFFF then 0 else n

/-- A tile that MLDA loads from the lanes from `lo` on (R60, R289). -/
def Frag.loadTile (x : Frag) (t : Ty) (a : VArg) (c : Option VArg) (lo : Nat) : Tile :=
  let cell := fun k : Nat =>
    let v := match a with
      | .v r p _ => x.prism (Ty.absent t) p (x.b.vval false (r.toNat + k % 32)) (lo + k / 32)
      | .s r _ => (scalarOperand t (x.b.sreg r.toNat).toNat).1
    (v, if Ty.isAbsent t v then 0 else x.loadCount c (lo + k / 32) (k % 32))
  { vals := (List.range 1024).map fun k => BitVec.ofNat 32 (cell k).1, cnts := (List.range 1024).map fun k => (cell k).2 }

/-- SAT of a scalar source that MLDA narrows (R111). -/
def Frag.loadFlags (x : Frag) (t : Ty) (a : VArg) : Flags :=
  match a with
  | .v .. => 0
  | .s r _ => (scalarOperand t (x.b.sreg r.toNat).toNat).2

def execMlda (t : Ty) (d : Reg) (a : VArg) (c : Option VArg) (s : State) : Host.Outcome State Fault Refusal :=
  s.runFrag { priv := false, noGlint := false
              uses := tileUses d s.pairWidth true 0 ++ rowUses a 32 1 ++
                (match c with | some o => rowUses o 16 3 | none => []) } fun x s =>
    match x.shapeTrap d with
    | some tr => .trap tr
    | none =>
      if s.tileBusy x.b.key d.toNat x.tiles then .stay s
      else
        s.beamDone (((List.range x.tiles).foldl (fun (b : Beam) h => b.setTile (d.toNat + h) (x.loadTile t a c (32 * h))) x.b).raise
          (x.loadFlags t a))

/-- An element as a number: absent where its count is 0 (R286). -/
def Tile.num (t : Tile) (k : Nat) : Num := if t.cnts.getD k 0 == 0 then .absent else Fmt.value .f32 (t.vals.getD k 0).toNat

/-- The codes that MSTA writes, row by row, with the scale bytes of an MX format, and the flags (R290). -/
def Tile.store (t : Tile) (f : Fmt) (r : Rnd) : List Nat × List Nat × Flags :=
  if Fmt.mx f then
    let q := (List.range 32).map fun i => mxQuantise f r ((List.range 32).map fun j => t.num (32 * i + j))
    (q.flatMap fun c => c.2.1, q.map (·.1), orFlags (q.map (·.2.2)))
  else
    let cs := (List.range 1024).map fun k =>
      if t.cnts.getD k 0 == 0 then ((Fmt.absent f, 0) : Coded)
      else if Fmt.width f == 32 then ((t.vals.getD k 0).toNat, 0)
      else roundNum f r false (t.num k)
    (cs.map (·.1), [], flagsOf cs)

/-- Write bytes at a window operand; nothing at an absent one. DEDUCED: log entry 34. -/
def State.matPut (s : State) (x : Frag) (off : Nat) (bs : List Byte) : State :=
  if Fmt.isAbsent .n64 off then s else (s.winData x.b.cohort off bs).newest x.b.cohort off bs.length

/-- MSTA (R290, R445). DESIGN CHOICE: log entry 4. -/
def execMsta (f : Fmt) (r : Rnd) (d a : Reg) (b c : Option SArg) (s : State) : Host.Outcome State Fault Refusal :=
  let opt := fun (o : Option SArg) (src : Nat) => match o with | some y => SArg.uses src y | none => []
  s.runFrag { priv := false, noGlint := false
              uses := regUses .s d false 0 false false ++ tileUses a false false 1 ++ opt b 2 ++ opt c 3 } fun x s =>
    let val := fun o : Option SArg => match o with | some y => x.sval y | none => Fmt.absent .n64
    let off := (x.b.sreg d.toNat).toNat
    match ((s.matTrap x .write off (128 * Fmt.width f)).or (s.matTrap x .write (val b) 32)).or
        (s.matTrap x .write (val c) 2048) with
    | some t => .trap t
    | none =>
      if s.tileBusy x.b.key a.toNat 1 then .stay s
      else
        let t := x.b.tile a.toNat
        let q := t.store f r
        let s := ((s.matPut x off (packElems f q.1)).matPut x (val b) (q.2.1.map fun n => BitVec.ofNat 8 n)).matPut x (val c)
          (t.cnts.flatMap fun n => natLe 2 n)
        .done (s.raise x.b.key q.2.2)

end Sys2Proof.Machine
end

