-- ==== Sys2Proof/Machine/Observe.lean ====
section
/-! DEFINITION. What programs and hosts do with Periscope and the Spectrograph (R420, R421, R429 to R433). -/

namespace Sys2Proof.Machine

/-! ### TMARK and CLOCK (R429) -/

def execTmark (a : Reg) (s : State) : Host.Outcome State Fault Refusal :=
  s.runFrag (plain (regUses .s a false 1 false false)) fun x s =>
    if (s.coreOf x.core).trace.mark then
      .done (s.packet (x.b.site x.e x.pc x.mask) 0x05
        [.raw ([BitVec.ofNat 8 x.b.key.slot] ++ natLe 8 (x.b.sreg a.toNat).toNat)])
    else .done s

/-- Has every earlier instruction of the beam completed, with its results in place? -/
def State.quiet (s : State) (b : Beam) : Bool :=
  b.allFull && !(s.mmas.any fun m => m.beam == b.key) && !b.flushing && !(b.rdy.any fun p => decide (s.clock < p.2))

/-- CLOCK waits for the beam's earlier instructions; the wait is no rest point. -/
def execClock (d : Reg) (s : State) : Host.Outcome State Fault Refusal :=
  s.runFrag (plain (regUses .s d false 0 false false)) fun x s =>
    if s.quiet x.b then s.beamDone (x.putS d (s.clock % 2 ^ 64))
    else
      let c := x.waited .clock none
      .stay (s.sleep x { kind := .clock, ins := .clock d, words := x.words, waited := c.1, rem := none, woken := false, aux := 0 })

/-! ### Leaves (R430, R431) -/

/-- The leaf of a fragment that waits in an instruction. DEDUCED: log entry 36. -/
def WaitKind.leaf : WaitKind → Nat
  | .delay => 4
  | .bwait | .chwait => 9
  | .waitv | .mwait => 10
  | .bfuse => 11
  | .migrate | .msend => 6
  | .launch | .fwcall | .clock | .pgset | .cflush => 5

/-- The leaf of a fragment whose next instruction waits for a register: by the unit that the register's result comes from. -/
def FillSrc.leaf : FillSrc → Nat
  | .memory => 6 | .special => 7 | .other => 8

/-- The leaf of a fragment by its next instruction: the throttle, an empty register, a busy matrix unit, a full engine
queue. DEDUCED: log entry 36. -/
def State.nextLeaf (s : State) (b : Beam) (e : Nat) : Nat :=
  match s.fetchFor b e with
  | .trap .. => 13
  | .ok i r _ =>
    let op := r.op.toNat
    let full := fun eng : Nat => s.engineFull b.key.core eng
    if s.throttled b (pipeOf i op) then 3
    else if (b.entry e).owed.isSome then (((b.entry e).owed.map FillSrc.leaf).getD 8)
    else if 0x9B ≤ op && op ≤ 0x9F then 5
    else if ((op == 0x90 || op == 0x91) && full 0) || (op == 0x92 && full 1) || (op == 0x9A && full 2) || (op == 0xA0 && full 3)
      then 14
    else 8

/-- The leaf of a fragment that did not issue in this cycle. -/
def State.leaf (s : State) (b : Beam) (e : Nat) : Nat :=
  let y := b.entry e
  if y.cand then 2
  else if y.st == .held then 4
  else if s.stopped b e then 11
  else
    match y.wait with
    | some w => w.kind.leaf
    | none => if y.atHeader || decide (s.clock < y.ready) then 13 else s.nextLeaf b e

/-- Resident fragments of a quadrant that did not issue, in the order of the issue key. -/
def State.idle (s : State) (core q : Nat) : List (Beam × Nat) :=
  let quad := (s.coreOf core).quads.getD q Quad.reset
  let fs := (s.beams.filter fun b => b.key.core == core && quadOf b.key.slot == q).flatMap fun b =>
    ((List.range b.split.length).filter fun e =>
      ((b.entry e).st == .run || (b.entry e).st == .held) &&
        !(quad.issued.any fun x => x.beam == b.key && x.entry == e) &&
        !(quad.second.any fun x => x.beam == b.key && x.entry == e)).map fun e => (b, e)
  let insert := fun (l : List (Beam × Nat)) (p : Beam × Nat) =>
    let after := fun q : Beam × Nat => !keyLt (s.issueKey p.1 p.2) (s.issueKey q.1 q.2)
    l.takeWhile after ++ p :: l.dropWhile after
  fs.foldl insert []

/-- Slots that an issue fills, each with leaf 0 or 1. -/
def Issued.slots (x : Issued) : List Nat :=
  (List.range (x.width / 8)).map fun k => if (x.lanes >>> (8 * k)) &&& 0xFF == 0xFF then 0 else 1

/-- The issues that fill slots in this cycle. -/
def Quad.filled (q : Quad) : List Issued :=
  match q.second with
  | some x => if q.issued.any fun y => !y.scalar then q.issued.filter fun y => !y.scalar else [x]
  | none => q.issued.filter fun y => !y.scalar

/-- Attribute the remaining slots to idle fragments, each at most W/8, 4 at most (R431). -/
def spread : Nat → List (Nat × Nat) → List Nat
  | left, [] => List.replicate left 15
  | left, (w, l) :: rest =>
    let n := min left (min (w / 8) 4)
    List.replicate n l ++ spread (left - n) rest

/-- Add to a counter: it wraps by 2^48 and sets its overflow bit (R432). -/
def Spectro.bump (p : Spectro) (q n k : Nat) : Spectro :=
  let v := (p.sg.getD q []).getD n 0 + k
  { p with sg := p.sg.modify q fun l => l.set n (v % 2 ^ 48)
           stat := if v ≥ 2 ^ 48 then p.stat.modify q (fun x => x ||| 2 ^ n) else p.stat }

/-- One cycle of a quadrant: four slots, one cycle, the active lanes issued. The increments are due at the cycle's end, after
its reads and writes (R432). DEDUCED: log entry 36. -/
def State.countQuad (s : State) (core q : Nat) : State :=
  let xs := ((s.coreOf core).quads.getD q Quad.reset).filled
  let issued := xs.flatMap Issued.slots
  let idle := (s.idle core q).map fun p => (p.1.w, s.leaf p.1 p.2)
  let leaves := issued ++ spread (4 - issued.length) idle
  s.modCore core fun c =>
    let n := (xs.map fun x => countMask x.lanes).foldl (· + ·) 0
    { c with spec := { c.spec with due := c.spec.due ++ leaves.map (fun l => (q, l, 1)) ++ [(q, 16, 1), (q, 17, n)] } }

/-! ### Samples (R422, R433) -/

/-- A sample record. -/
def sampleBytes (s : State) (b : Beam) (pc leaf tag : Nat) : List Byte :=
  natLe 8 s.clock ++ natLe 7 pc ++ [BitVec.ofNat 8 leaf, BitVec.ofNat 8 b.key.slot, BitVec.ofNat 8 b.id] ++
    natLe 2 b.cohort.kernel ++ natLe 4 b.cohort.index ++ natLe 8 tag

/-- Write a sample record, or drop it. DEDUCED: log entry 36. -/
def State.sample (s : State) (core : Nat) (bs : List Byte) : State :=
  let p := (s.coreOf core).spec
  if bs.length ≤ ringFree p.spsize p.spwp p.sprp then
    (s.ringWrite p.spbase.toNat p.spsize.toNat p.spwp.toNat bs).modCore core fun c =>
      { c with spec := { c.spec with spwp := p.spwp + BitVec.ofNat 64 bs.length } }
  else s.modCore core fun c => { c with spec := { c.spec with spdrop := p.spdrop + 1 } }

/-- Are all lanes of a beam active in a mask: leaf 0, else leaf 1? -/
def issueLeaf (b : Beam) (m : Mask) : Nat := if m == fullMask b.w then 0 else 1

/-- SAMPLE: the issuing fragment, with its next instruction and its leaf. -/
def execSample (a : Reg) (s : State) : Host.Outcome State Fault Refusal :=
  s.runFrag (plain (regUses .s a false 1 false false)) fun x s =>
    if (s.coreOf x.core).spec.spctl.getLsbD 63 then
      .done (s.sample x.core (sampleBytes s x.b x.next (issueLeaf x.b x.mask) (x.b.sreg a.toNat).toNat))
    else .done s

/-- The leaf of a beam in this cycle: of its issue, by the lanes that were active in it, or of its first run or held entry. -/
def State.beamLeaf (s : State) (b : Beam) : Nat :=
  let quad := (s.coreOf b.key.core).quads.getD (quadOf b.key.slot) Quad.reset
  match (quad.issued ++ quad.second.toList).find? fun x => x.beam == b.key with
  | some x => if x.full then 0 else 1
  | none => s.leaf b ((b.entriesIn .run ++ b.entriesIn .held).headD 0)

/-- The next occupied beam slot of a quadrant at or after its sampling pointer; a glint's slot is no beam slot (R433). -/
def State.sampled (s : State) (core q : Nat) : Option Beam :=
  let p := ((s.coreOf core).quads.getD q Quad.reset).samp
  let bs := s.beams.filter fun b => b.key.core == core && quadOf b.key.slot == q
  ((List.range 16).map fun k => (p + k) % 16).findSome? fun i => bs.find? fun b => slotIndex b.key.slot == i

/-- One quadrant's periodic sample; the pointer moves past the slot. -/
def State.sampleQuad (s : State) (core q : Nat) : State :=
  match s.sampled core q with
  | none => s
  | some b =>
    let e := (b.entriesIn .run).headD 0
    (s.sample core (sampleBytes s b (b.entry e).pc (s.beamLeaf b) 0)).modCore core fun c =>
      { c with quads := c.quads.modify q fun y => { y with samp := (slotIndex b.key.slot + 1) % 16 } }

/-- The sampling period: below 256 it reads 256 (R420). -/
def Spectro.period (p : Spectro) : Nat := max 256 (p.spctl.toNat % 2 ^ 32)

/-- Is the periodic sample of this cycle still to be taken? DEDUCED: log entry 36. -/
def State.samplesNow (s : State) (c : Core) : Bool :=
  c.spec.spctl.getLsbD 63 && !c.sampled && decide (s.clock % c.spec.period = 0)

/-- SAMPLE_PERIOD: each quadrant of the core samples one beam. -/
def execSamplePeriod (core : Nat) (s : State) : Host.Outcome State Fault Refusal :=
  if s.samplesNow (s.coreOf core) then
    .next (((List.range 4).foldl (fun (s : State) q => s.sampleQuad core q) s).modCore core fun c => { c with sampled := true })
  else .next s

/-- SLICE_ISSUE_SLOT_COUNT: the cycle's slots of every quadrant are counted, once, while SGCTL.EN is set. -/
def execSliceIssueSlotCount (core : Nat) (s : State) : Host.Outcome State Fault Refusal :=
  let c := s.coreOf core
  if c.spec.ctl.getLsbD 63 && !c.counted then
    .next (((List.range 4).foldl (fun (s : State) q => s.countQuad core q) s).modCore core fun c =>
      { c with counted := true })
  else .next s

/-! ### Stores to the register page (R419 to R422, R432) -/

def execPsctlWrite (core : Nat) (w : DWord) (s : State) : Host.Outcome State Fault Refusal := .next (s.regWrite core 0x000 w)
def execPsrpWrite (core : Nat) (w : DWord) (s : State) : Host.Outcome State Fault Refusal := .next (s.regWrite core 0x020 w)
def execSpctlWrite (core : Nat) (w : DWord) (s : State) : Host.Outcome State Fault Refusal := .next (s.regWrite core 0x600 w)
def execSprpWrite (core : Nat) (w : DWord) (s : State) : Host.Outcome State Fault Refusal := .next (s.regWrite core 0x620 w)
def execSgctlWrite (core : Nat) (w : DWord) (s : State) : Host.Outcome State Fault Refusal := .next (s.regWrite core 0x100 w)

/-- SG_WRITE: counter `n` of a quadrant. -/
def execSgWrite (core quad n : Nat) (w : DWord) (s : State) : Host.Outcome State Fault Refusal :=
  .next (if quad < 4 ∧ n < 18 then s.regWrite core (0x200 + 0x100 * quad + 8 * n) w else s)

def execSgstatW1c (core quad : Nat) (w : DWord) (s : State) : Host.Outcome State Fault Refusal :=
  .next (if quad < 4 then s.regWrite core (0x290 + 0x100 * quad) w else s)

/-- REGISTER_PAGE_WRITE: an aligned 8-byte store to any register of the core's block. -/
def execRegisterPageWrite (core off : Nat) (w : DWord) (s : State) : Host.Outcome State Fault Refusal :=
  .next (if off % 8 == 0 && decide (off < 0x4000) then s.regWrite core off w else s)

end Sys2Proof.Machine
end

