-- ==== Sys2Proof/Machine/Spdm.lean ====
section
/-! DEFINITION. The SPDM responder (R441, R442). Message layouts are those of DSP0274; what it leaves to the responder is
opaque. -/

namespace Sys2Proof.Machine

/-- An SPDM request on VC 3: the REPLY holds status 0, 7 zero bytes and the response (R441). -/
def State.spdm (s : State) (f : From) (go : State → State × List Byte) : State :=
  s.arriving f 6 (s.partOfVf f.vfn) fun s =>
    let r := go s
    r.1.respond f 0 (natLe 7 0 ++ r.2)

/-- A response of version 1.3. PRESUMED: log entry 31. -/
def spdmHead (code p1 p2 : Nat) : List Byte := [0x13, BitVec.ofNat 8 code, BitVec.ofNat 8 p1, BitVec.ofNat 8 p2]

/-- ERROR: 1 invalid request, 4 unexpected request. PRESUMED: log entry 31. -/
def spdmError (code : Nat) : List Byte := spdmHead 0x7F code 0

/-- A request that the connection must have reached a state for. -/
def State.spdmIn (s : State) (ok : SpdmSt → Bool) (go : State × List Byte) : State × List Byte :=
  if ok s.mgmt.spdm then go else (s, spdmError 4)

def State.setSpdm (s : State) (c : SpdmSt) : State := { s with mgmt := { s.mgmt with spdm := c } }

/-- GET_VERSION: from any requester, it resets the connection state. PRESUMED: log entry 31. -/
def execGetVersion (f : From) (s : State) : Host.Outcome State Fault Refusal :=
  .next (s.spdm f fun s => (s.setSpdm .versioned, [0x10, 0x04, 0, 0, 0, 1] ++ natLe 2 0x1300))

/-- What CAPABILITIES says: certificates, challenge and signed measurements, and no session capability (R441).
PRESUMED: log entry 31. -/
def spdmCapabilities : List Byte :=
  natLe 1 0 ++ [Config.spdmExponent] ++ natLe 2 0 ++ natLe 4 0x16 ++ natLe 4 Config.spdmTransfer.toNat ++
    natLe 4 Config.spdmLargest.toNat

/-- What ALGORITHMS says: of its 36 bytes those behind the first four: measurement hash SM3_256, base asymmetric algorithm SM2,
base hash SM3_256 (R441). PRESUMED: log entry 31. -/
def spdmAlgorithms : List Byte :=
  natLe 2 36 ++ natLe 1 1 ++ natLe 1 0 ++ natLe 4 0x80 ++ natLe 4 0x200 ++ natLe 4 0x40 ++ natLe 16 0

/-- GET_CAPABILITIES: no session capability is set. -/
def execGetCapabilities (f : From) (s : State) : Host.Outcome State Fault Refusal :=
  .next (s.spdm f fun s => s.spdmIn (· == .versioned) (s.setSpdm .capable, spdmHead 0x61 0 0 ++ spdmCapabilities))

/-- NEGOTIATE_ALGORITHMS: SM2, SM3_256 and SM3_256, when the requester offers them. -/
def execNegotiateAlgorithms (f : From) (asym hash meas : Bool) (s : State) : Host.Outcome State Fault Refusal :=
  .next (s.spdm f fun s => s.spdmIn (· == .capable)
    (if asym && hash && meas then (s.setSpdm .negotiated, spdmHead 0x63 0 0 ++ spdmAlgorithms) else (s, spdmError 1)))

/-- The certificate chain of a slot: slot 0 the vendor's chain to the device certificate, which the seed alone gives; slot 1 the
alias certificate of the identity key, signed by the device key (R440). DESIGN CHOICE: log entry 7. -/
def State.chain (s : State) (slot : Nat) : List Byte :=
  let key := Config.deviceKey Config.fuseSeed
  let device := sm2Public key
  if slot == 0 then Config.vendorChain device
  else
    let body := Config.aliasBody device (sm2Public (beNat s.mgmt.identity))
    body ++ sm2Sign Config.signerIdentity key body (Config.signRandom 0)

/-- GET_DIGESTS: slots 0 and 1. -/
def execGetDigests (f : From) (s : State) : Host.Outcome State Fault Refusal :=
  .next (s.spdm f fun s => s.spdmIn (· == .negotiated)
    (s, spdmHead 0x01 0 3 ++ sm3 (s.chain 0) ++ sm3 (s.chain 1)))

/-- GET_CERTIFICATE: a part of a slot's chain, and the bytes that remain. -/
def execGetCertificate (f : From) (slot offset len : Nat) (s : State) : Host.Outcome State Fault Refusal :=
  .next (s.spdm f fun s => s.spdmIn (· == .negotiated)
    (let c := s.chain slot
     let part := (c.drop offset).take len
     if slot > 1 || offset ≥ c.length then (s, spdmError 1)
     else (s, spdmHead 0x02 slot 0 ++ natLe 2 part.length ++ natLe 2 (c.length - offset - part.length) ++ part)))

/-- What a response signs, with the identity key: the requester's nonce and the response before the signature.
DESIGN CHOICE: log entry 7. -/
def State.signed (s : State) (nonce body : List Byte) : List Byte :=
  body ++ sm2Sign Config.signerIdentity (beNat s.mgmt.identity) (nonce ++ body) (Config.signRandom (s.free + 1))

/-- CHALLENGE: signed by the identity key. -/
def execChallenge (f : From) (slot : Nat) (nonce : List Byte) (s : State) : Host.Outcome State Fault Refusal :=
  .next (s.spdm f fun s => s.spdmIn (· == .negotiated)
    (if slot > 1 then (s, spdmError 1)
     else (s, s.signed nonce (spdmHead 0x03 slot 3 ++ sm3 (s.chain slot) ++ Config.spdmNonce s.free ++
       sm3 s.mgmt.measures.flatten ++ natLe 2 0))))

/-- One measurement block: its index, and an SM3 digest fixed at boot (R442). PRESUMED: log entry 31. -/
def measureBlock (i : Nat) (d : List Byte) : List Byte :=
  natLe 1 i ++ natLe 1 1 ++ natLe 2 (3 + d.length) ++ natLe 1 0 ++ natLe 2 d.length ++ d

/-- GET_MEASUREMENTS: how many blocks there are (index 0), one, or all (0xFF); signed where the request gives a nonce. -/
def execGetMeasurements (f : From) (index : Nat) (nonce : List Byte) (s : State) : Host.Outcome State Fault Refusal :=
  .next (s.spdm f fun s => s.spdmIn (· == .negotiated)
    (let all := s.mgmt.measures.zipIdx 1
     let bs := if index == 0 then [] else if index == 0xFF then all else all.filter fun p => p.2 == index
     if bs.isEmpty && index != 0 then (s, spdmError 1)
     else
       let rcd := bs.flatMap fun p => measureBlock p.2 p.1
       let body := spdmHead 0x60 (if index == 0 then all.length else 0) 0 ++ natLe 1 bs.length ++ natLe 3 rcd.length ++ rcd ++
         Config.spdmNonce s.free ++ natLe 2 0
       (s, if nonce.isEmpty then body else s.signed nonce body)))

end Sys2Proof.Machine
end

