-- ==== Sys2Proof/Machine/Dispatch.lean ====
section
/-! DEFINITION. The dispatcher: one arm per constructor of `Instr`, each one call of that instruction's meaning. -/

namespace Sys2Proof.Machine

/-- What an instruction or a step of the device does. -/
def exec (i : Instr) (s : State) : Host.Outcome State Fault Refusal :=
  match i with
  | .hdr h => Sys2Proof.Machine.execHdr h s
  | .bra off => Sys2Proof.Machine.execBra off s
  | .brs u k t f n => Sys2Proof.Machine.execBrs u k t f n s
  | .brv u c t f n => Sys2Proof.Machine.execBrv u c t f n s
  | .jmpi a => Sys2Proof.Machine.execJmpi a s
  | .call off => Sys2Proof.Machine.execCall off s
  | .ret => Sys2Proof.Machine.execRet s
  | .exit => Sys2Proof.Machine.execExit s
  | .nop => Sys2Proof.Machine.execNop s
  | .yield => Sys2Proof.Machine.execYield s
  | .brk tag => Sys2Proof.Machine.execBrk tag s
  | .trap code => Sys2Proof.Machine.execTrap code s
  | .eret skip => Sys2Proof.Machine.execEret skip s
  | .bdec n off => Sys2Proof.Machine.execBdec n off s
  | .delay a => Sys2Proof.Machine.execDelay a s
  | .chunk d a => Sys2Proof.Machine.execChunk d a s
  | .bsplit d => Sys2Proof.Machine.execBsplit d s
  | .bfuse d => Sys2Proof.Machine.execBfuse d s
  | .gjoin d a => Sys2Proof.Machine.execGjoin d a s
  | .gleave d a => Sys2Proof.Machine.execGleave d a s
  | .gnew d => Sys2Proof.Machine.execGnew d s
  | .gets d sp => Sys2Proof.Machine.execGets d sp s
  | .sets sp a => Sys2Proof.Machine.execSets sp a s
  | .launch d a b => Sys2Proof.Machine.execLaunch d a b s
  | .smov t d a => Sys2Proof.Machine.execSmov t d a s
  | .smovi d a w => Sys2Proof.Machine.execSmovi d a w s
  | .sadd t d a b => Sys2Proof.Machine.execSadd t d a b s
  | .ssub t d a b => Sys2Proof.Machine.execSsub t d a b s
  | .smul t d a b => Sys2Proof.Machine.execSmul t d a b s
  | .smad t d a b c => Sys2Proof.Machine.execSmad t d a b c s
  | .sand d a b => Sys2Proof.Machine.execSand d a b s
  | .sor d a b => Sys2Proof.Machine.execSor d a b s
  | .sxor d a b => Sys2Proof.Machine.execSxor d a b s
  | .sshl t d a b => Sys2Proof.Machine.execSshl t d a b s
  | .sshr t d a b => Sys2Proof.Machine.execSshr t d a b s
  | .ssar t d a b => Sys2Proof.Machine.execSsar t d a b s
  | .smin t d a b => Sys2Proof.Machine.execSmin t d a b s
  | .smax t d a b => Sys2Proof.Machine.execSmax t d a b s
  | .scmp c t d a b => Sys2Proof.Machine.execScmp c t d a b s
  | .ssel t d a b k => Sys2Proof.Machine.execSsel t d a b k s
  | .slea sh t d a b => Sys2Proof.Machine.execSlea sh t d a b s
  | .sbfe t d a b => Sys2Proof.Machine.execSbfe t d a b s
  | .spopc t d a => Sys2Proof.Machine.execSpopc t d a s
  | .sclz t d a => Sys2Proof.Machine.execSclz t d a s
  | .klog op d a b => Sys2Proof.Machine.execKlog op d a b s
  | .stov t d a => Sys2Proof.Machine.execStov t d a s
  | .vtos t d a l => Sys2Proof.Machine.execVtos t d a l s
  | .sfill t d a b => Sys2Proof.Machine.execSfill t d a b s
  | .iadd t d a b => Sys2Proof.Machine.execIadd t d a b s
  | .isub t d a b => Sys2Proof.Machine.execIsub t d a b s
  | .imul t d a b => Sys2Proof.Machine.execImul t d a b s
  | .imad t d a b c => Sys2Proof.Machine.execImad t d a b c s
  | .imulh t d a b => Sys2Proof.Machine.execImulh t d a b s
  | .imin t d a b => Sys2Proof.Machine.execImin t d a b s
  | .imax t d a b => Sys2Proof.Machine.execImax t d a b s
  | .iabs t d a => Sys2Proof.Machine.execIabs t d a s
  | .ineg t d a => Sys2Proof.Machine.execIneg t d a s
  | .and t d a b => Sys2Proof.Machine.execAnd t d a b s
  | .or t d a b => Sys2Proof.Machine.execOr t d a b s
  | .xor t d a b => Sys2Proof.Machine.execXor t d a b s
  | .not t d a => Sys2Proof.Machine.execNot t d a s
  | .shl t d a b => Sys2Proof.Machine.execShl t d a b s
  | .shr t d a b => Sys2Proof.Machine.execShr t d a b s
  | .sar t d a b => Sys2Proof.Machine.execSar t d a b s
  | .bfe t d a b => Sys2Proof.Machine.execBfe t d a b s
  | .bfi t d a b c => Sys2Proof.Machine.execBfi t d a b c s
  | .popc t d a => Sys2Proof.Machine.execPopc t d a s
  | .clz t d a => Sys2Proof.Machine.execClz t d a s
  | .icmp cmp t d a b => Sys2Proof.Machine.execIcmp cmp t d a b s
  | .lea sh t d a b => Sys2Proof.Machine.execLea sh t d a b s
  | .idot4 t d a b c => Sys2Proof.Machine.execIdot4 t d a b c s
  | .mov t d a => Sys2Proof.Machine.execMov t d a s
  | .fadd t r d a b => Sys2Proof.Machine.execFadd t r d a b s
  | .fsub t r d a b => Sys2Proof.Machine.execFsub t r d a b s
  | .fmul t r d a b => Sys2Proof.Machine.execFmul t r d a b s
  | .ffma t r d a b c => Sys2Proof.Machine.execFfma t r d a b c s
  | .fmin t d a b => Sys2Proof.Machine.execFmin t d a b s
  | .fmax t d a b => Sys2Proof.Machine.execFmax t d a b s
  | .fcmp cmp d a b => Sys2Proof.Machine.execFcmp cmp d a b s
  | .frcp t r d a => Sys2Proof.Machine.execFrcp t r d a s
  | .frsq t d a => Sys2Proof.Machine.execFrsq t d a s
  | .fsqrt t r d a => Sys2Proof.Machine.execFsqrt t r d a s
  | .fexp2 t d a => Sys2Proof.Machine.execFexp2 t d a s
  | .flog2 t d a => Sys2Proof.Machine.execFlog2 t d a s
  | .fsin t d a => Sys2Proof.Machine.execFsin t d a s
  | .fcos t d a => Sys2Proof.Machine.execFcos t d a s
  | .ftanh t d a => Sys2Proof.Machine.execFtanh t d a s
  | .fclass d a => Sys2Proof.Machine.execFclass d a s
  | .fdot2 t r d a b c => Sys2Proof.Machine.execFdot2 t r d a b c s
  | .pfma t r d a b c => Sys2Proof.Machine.execPfma t r d a b c s
  | .padd t r d a b => Sys2Proof.Machine.execPadd t r d a b s
  | .fscale t r d a b => Sys2Proof.Machine.execFscale t r d a b s
  | .cvt dt st r d a => Sys2Proof.Machine.execCvt dt st r d a s
  | .pack f sat t p r d a b => Sys2Proof.Machine.execPack f sat t p r d a b s
  | .unpk t f e r d a => Sys2Proof.Machine.execUnpk t f e r d a s
  | .pres t d a => Sys2Proof.Machine.execPres t d a s
  | .fill t d a b => Sys2Proof.Machine.execFill t d a b s
  | .mkab t d a c => Sys2Proof.Machine.execMkab t d a c s
  | .tsel t d a b c => Sys2Proof.Machine.execTsel t d a b c s
  | .tlog op d a b => Sys2Proof.Machine.execTlog op d a b s
  | .tval t d a => Sys2Proof.Machine.execTval t d a s
  | .frnd t r d a => Sys2Proof.Machine.execFrnd t r d a s
  | .shfl m t d a b => Sys2Proof.Machine.execShfl m t d a b s
  | .prm t d a b c => Sys2Proof.Machine.execPrm t d a b c s
  | .vote kind d a => Sys2Proof.Machine.execVote kind d a s
  | .ballot d a => Sys2Proof.Machine.execBallot d a s
  | .red op cnt t d a => Sys2Proof.Machine.execRed op cnt t d a s
  | .scan op cnt t d a => Sys2Proof.Machine.execScan op cnt t d a s
  | .laneMatch all t d a => Sys2Proof.Machine.execLaneMatch all t d a s
  | .elect d a => Sys2Proof.Machine.execElect d a s
  | .ld sc t d m => Sys2Proof.Machine.execLd sc t d m s
  | .st sc t src m => Sys2Proof.Machine.execSt sc t src m s
  | .lds sc t d m => Sys2Proof.Machine.execLds sc t d m s
  | .sts sc t src m => Sys2Proof.Machine.execSts sc t src m s
  | .ldu sp sc t d m => Sys2Proof.Machine.execLdu sp sc t d m s
  | .stu sp sc t d m => Sys2Proof.Machine.execStu sp sc t d m s
  | .lda sp sc t d m => Sys2Proof.Machine.execLda sp sc t d m s
  | .stl sp sc t src m => Sys2Proof.Machine.execStl sp sc t src m s
  | .atom op o nr sc t d a b => Sys2Proof.Machine.execAtom op o nr sc t d a b s
  | .atoms op o nr sc t d a b => Sys2Proof.Machine.execAtoms op o nr sc t d a b s
  | .atomu op o sp sc t d a b => Sys2Proof.Machine.execAtomu op o sp sc t d a b s
  | .fence o sc => Sys2Proof.Machine.execFence o sc s
  | .waitv cmp acq sp sc t d a b => Sys2Proof.Machine.execWaitv cmp acq sp sc t d a b s
  | .cflush sc m => Sys2Proof.Machine.execCflush sc m s
  | .cinv sc m => Sys2Proof.Machine.execCinv sc m s
  | .pref sc m => Sys2Proof.Machine.execPref sc m s
  | .tlook d a => Sys2Proof.Machine.execTlook d a s
  | .tins d a => Sys2Proof.Machine.execTins d a s
  | .tdel d a => Sys2Proof.Machine.execTdel d a s
  | .msend d a b => Sys2Proof.Machine.execMsend d a b s
  | .mpoll d a => Sys2Proof.Machine.execMpoll d a s
  | .mwait d a b => Sys2Proof.Machine.execMwait d a b s
  | .mpop d a => Sys2Proof.Machine.execMpop d a s
  | .cpy st map ch sc d a b => Sys2Proof.Machine.execCpy st map ch sc d a b s
  | .cpyResume sc a => Sys2Proof.Machine.execCpyResume sc a s
  | .cpycsr f ch sc d a b c => Sys2Proof.Machine.execCpycsr f ch sc d a b c s
  | .gread mode map sc d a c off => Sys2Proof.Machine.execGread mode map sc d a c off s
  | .greadResume sc a => Sys2Proof.Machine.execGreadResume sc a s
  | .gdone => Sys2Proof.Machine.execGdone s
  | .binit grp a b => Sys2Proof.Machine.execBinit grp a b s
  | .barv a => Sys2Proof.Machine.execBarv a s
  | .bexp a b c => Sys2Proof.Machine.execBexp a b c s
  | .bwait d a => Sys2Proof.Machine.execBwait d a s
  | .binv a => Sys2Proof.Machine.execBinv a s
  | .btest d a => Sys2Proof.Machine.execBtest d a s
  | .cnd f sc a b => Sys2Proof.Machine.execCnd f sc a b s
  | .mma fa fb d a b => Sys2Proof.Machine.execMma fa fb d a b s
  | .mmas fa mixed d a b c => Sys2Proof.Machine.execMmas fa mixed d a b c s
  | .mclr d => Sys2Proof.Machine.execMclr d s
  | .mlda t d a c => Sys2Proof.Machine.execMlda t d a c s
  | .msta f r d a b c => Sys2Proof.Machine.execMsta f r d a b c s
  | .coll kind op fast cnt f sc a b => Sys2Proof.Machine.execColl kind op fast cnt f sc a b s
  | .chwait ch a => Sys2Proof.Machine.execChwait ch a s
  | .mapld d sp a => Sys2Proof.Machine.execMapld d sp a s
  | .tmark a => Sys2Proof.Machine.execTmark a s
  | .sample a => Sys2Proof.Machine.execSample a s
  | .tlbinv sc a => Sys2Proof.Machine.execTlbinv sc a s
  | .ctxsv a => Sys2Proof.Machine.execCtxsv a s
  | .ctxld a => Sys2Proof.Machine.execCtxld a s
  | .pgset d a b lvl => Sys2Proof.Machine.execPgset d a b lvl s
  | .fwcall d a fn => Sys2Proof.Machine.execFwcall d a fn s
  | .clock d => Sys2Proof.Machine.execClock d s
  | .registerFill b n err => Sys2Proof.Machine.execRegisterFill b n err s
  | .mmaComplete b => Sys2Proof.Machine.execMmaComplete b s
  | .walkComplete core ctx va write => Sys2Proof.Machine.execWalkComplete core ctx va write s
  | .copyBurst core req burst => Sys2Proof.Machine.execCopyBurst core req burst s
  | .copyComplete core req => Sys2Proof.Machine.execCopyComplete core req s
  | .engineFault core req => Sys2Proof.Machine.execEngineFault core req s
  | .glintBirth core req burst slot => Sys2Proof.Machine.execGlintBirth core req burst slot s
  | .cpycsrComplete core req => Sys2Proof.Machine.execCpycsrComplete core req s
  | .cndComplete core req => Sys2Proof.Machine.execCndComplete core req s
  | .collComplete core req => Sys2Proof.Machine.execCollComplete core req s
  | .fuseWindowExpiry b => Sys2Proof.Machine.execFuseWindowExpiry b s
  | .delayExpiry b e => Sys2Proof.Machine.execDelayExpiry b e s
  | .waitvWake b e => Sys2Proof.Machine.execWaitvWake b e s
  | .waitvTimeout b e => Sys2Proof.Machine.execWaitvTimeout b e s
  | .mwaitWake b e => Sys2Proof.Machine.execMwaitWake b e s
  | .mwaitTimeout b e => Sys2Proof.Machine.execMwaitTimeout b e s
  | .fwcallAnswer b e => Sys2Proof.Machine.execFwcallAnswer b e s
  | .fwcallTimeout b e => Sys2Proof.Machine.execFwcallTimeout b e s
  | .agingPromotion b e => Sys2Proof.Machine.execAgingPromotion b e s
  | .throttleRotation core quad => Sys2Proof.Machine.execThrottleRotation core quad s
  | .timeSliceExpiry part => Sys2Proof.Machine.execTimeSliceExpiry part s
  | .cohortPlace kernel core => Sys2Proof.Machine.execCohortPlace kernel core s
  | .cohortRestore c core => Sys2Proof.Machine.execCohortRestore c core s
  | .exchange victim woken => Sys2Proof.Machine.execExchange victim woken s
  | .wakeRecheck c => Sys2Proof.Machine.execWakeRecheck c s
  | .evictionSave c => Sys2Proof.Machine.execEvictionSave c s
  | .cohortRetire c => Sys2Proof.Machine.execCohortRetire c s
  | .launchCmd q core => Sys2Proof.Machine.execLaunchCmd q core s
  | .copyCmd q => Sys2Proof.Machine.execCopyCmd q s
  | .copyCmdComplete q seq => Sys2Proof.Machine.execCopyCmdComplete q seq s
  | .wait q => Sys2Proof.Machine.execWait q s
  | .waitRecheck q => Sys2Proof.Machine.execWaitRecheck q s
  | .signal q => Sys2Proof.Machine.execSignal q s
  | .timestamp q => Sys2Proof.Machine.execTimestamp q s
  | .preempt q => Sys2Proof.Machine.execPreempt q s
  | .fenceCmd q => Sys2Proof.Machine.execFenceCmd q s
  | .contextFault ctx => Sys2Proof.Machine.execContextFault ctx s
  | .migrationWaitExpiry b e => Sys2Proof.Machine.execMigrationWaitExpiry b e s
  | .memwr f ctx va data => Sys2Proof.Machine.execMemwr f ctx va data s
  | .memrd f ctx va len => Sys2Proof.Machine.execMemrd f ctx va len s
  | .queueAppend f q record => Sys2Proof.Machine.execQueueAppend f q record s
  | .ringAppend f handle seq data => Sys2Proof.Machine.execRingAppend f handle seq data s
  | .collMessage f group op crc kind redop fmt e data => Sys2Proof.Machine.execCollMessage f group op crc kind redop fmt e data s
  | .reply f status => Sys2Proof.Machine.execReply f status s
  | .notifyResend vf => Sys2Proof.Machine.execNotifyResend vf s
  | .fabricTimeout tag => Sys2Proof.Machine.execFabricTimeout tag s
  | .flitReceive port lseq ackseq credit rest => Sys2Proof.Machine.execFlitReceive port lseq ackseq credit rest s
  | .pathFailure dest vc => Sys2Proof.Machine.execPathFailure dest vc s
  | .linkRetrain port => Sys2Proof.Machine.execLinkRetrain port s
  | .trainingComplete port lanes => Sys2Proof.Machine.execTrainingComplete port lanes s
  | .laneLockLoss port => Sys2Proof.Machine.execLaneLockLoss port s
  | .portFence port => Sys2Proof.Machine.execPortFence port s
  | .portUnfence port => Sys2Proof.Machine.execPortUnfence port s
  | .dcdCapacityAdd part base limit => Sys2Proof.Machine.execDcdCapacityAdd part base limit s
  | .dcdRelease part base limit confirmed => Sys2Proof.Machine.execDcdRelease part base limit confirmed s
  | .psctlWrite core w => Sys2Proof.Machine.execPsctlWrite core w s
  | .psrpWrite core w => Sys2Proof.Machine.execPsrpWrite core w s
  | .spctlWrite core w => Sys2Proof.Machine.execSpctlWrite core w s
  | .sprpWrite core w => Sys2Proof.Machine.execSprpWrite core w s
  | .sgctlWrite core w => Sys2Proof.Machine.execSgctlWrite core w s
  | .sgWrite core quad n w => Sys2Proof.Machine.execSgWrite core quad n w s
  | .sgstatW1c core quad w => Sys2Proof.Machine.execSgstatW1c core quad w s
  | .registerPageWrite core off w => Sys2Proof.Machine.execRegisterPageWrite core off w s
  | .samplePeriod core => Sys2Proof.Machine.execSamplePeriod core s
  | .i3cAccess op => Sys2Proof.Machine.execI3cAccess op s
  | .pwrgood => Sys2Proof.Machine.execPwrgood s
  | .resetNAssert => Sys2Proof.Machine.execResetNAssert s
  | .resetNRelease img => Sys2Proof.Machine.execResetNRelease img s
  | .thermtrip die => Sys2Proof.Machine.execThermtrip die s
  | .supplyTrip part mhz => Sys2Proof.Machine.execSupplyTrip part mhz s
  | .cxlWriteAcknowledgement pa ok => Sys2Proof.Machine.execCxlWriteAcknowledgement pa ok s
  | .congestionLevelChange region level => Sys2Proof.Machine.execCongestionLevelChange region level s
  | .sliceIssueSlotCount core => Sys2Proof.Machine.execSliceIssueSlotCount core s
  | .diaphragmWrite part reg v => Sys2Proof.Machine.execDiaphragmWrite part reg v s
  | .powerClockSetting part watts mhz => Sys2Proof.Machine.execPowerClockSetting part watts mhz s
  | .faultNAssertionEnd => Sys2Proof.Machine.execFaultNAssertionEnd s
  | .boundaryScanAccess tms tdi => Sys2Proof.Machine.execBoundaryScanAccess tms tdi s
  | .unknownRequestCode f code => Sys2Proof.Machine.execUnknownRequestCode f code s
  | .discardedMessage f typ => Sys2Proof.Machine.execDiscardedMessage f typ s
  | .create f world root handler save savesz => Sys2Proof.Machine.execCreate f world root handler save savesz s
  | .stop f ctx => Sys2Proof.Machine.execStop f ctx s
  | .resume f ctx => Sys2Proof.Machine.execResume f ctx s
  | .destroy f ctx => Sys2Proof.Machine.execDestroy f ctx s
  | .query f ctx => Sys2Proof.Machine.execQuery f ctx s
  | .dbgstop f ctx kernel cohort stop => Sys2Proof.Machine.execDbgstop f ctx kernel cohort stop s
  | .qcreate f args => Sys2Proof.Machine.execQcreate f args s
  | .qstop f q => Sys2Proof.Machine.execQstop f q s
  | .qresume f q => Sys2Proof.Machine.execQresume f q s
  | .qreset f q => Sys2Proof.Machine.execQreset f q s
  | .qdestroy f q => Sys2Proof.Machine.execQdestroy f q s
  | .tlbflush f ctx va => Sys2Proof.Machine.execTlbflush f ctx va s
  | .lgcreate f ctx va count => Sys2Proof.Machine.execLgcreate f ctx va count s
  | .lgdestroy f ctx handle => Sys2Proof.Machine.execLgdestroy f ctx handle s
  | .domain f => Sys2Proof.Machine.execDomain f s
  | .getVersion f => Sys2Proof.Machine.execGetVersion f s
  | .getCapabilities f => Sys2Proof.Machine.execGetCapabilities f s
  | .negotiateAlgorithms f asym hash meas => Sys2Proof.Machine.execNegotiateAlgorithms f asym hash meas s
  | .getDigests f => Sys2Proof.Machine.execGetDigests f s
  | .getCertificate f slot offset len => Sys2Proof.Machine.execGetCertificate f slot offset len s
  | .challenge f slot nonce => Sys2Proof.Machine.execChallenge f slot nonce s
  | .getMeasurements f index nonce => Sys2Proof.Machine.execGetMeasurements f index nonce s

end Sys2Proof.Machine
end

