-- ==== Sys2Proof/Machine/Due.lean ====
section
/-! DEFINITION. The steps of the device that are due in a state (log entry 2). -/

namespace Sys2Proof.Machine

/-- A turn is taken: the next free value is another one. DESIGN CHOICE: log entry 3. -/
def State.begin (s : State) : State := { s with turns := s.turns.drop 1, free := s.free + 1 }

/-- The state without what the TLBs and walk caches hold. -/
def State.noTlb (s : State) : State := { s with dieTlb := [], walkc := [], cores := s.cores.map fun k => { k with tlb := [] } }

/-- Would a step of the device change anything now but the leaves that TLBs hold? DESIGN CHOICE: log entry 2. -/
def State.moves (s : State) (i : Instr) : Bool :=
  match exec i s.begin with
  | .next t => decide (t.noTlb ≠ s.begin.noTlb)
  | _ => true

/-! ### Results and engine requests -/

/-- DESIGN CHOICE: log entry 11. -/
def State.dueResults (s : State) : List Instr :=
  (s.fills.zipIdx.filter fun p => decide (p.1.ready ≤ s.clock)).map (fun p => Instr.registerFill p.1.beam p.2 0) ++
    (s.mmas.filter fun m => decide (m.ready ≤ s.clock)).map fun m => Instr.mmaComplete m.beam

/-- Free glint slots of a core. -/
def State.freeGlints (s : State) (core : Nat) : List Nat := ((List.range 16).map (64 + ·)).filter fun n => (s.beam? ⟨core, n⟩).isNone

/-- What a request may do next. -/
def State.dueReq (s : State) (r : Req) : List Instr :=
  let n := r.bursts.length
  let bursts := ((List.range n).filter fun k => (r.bursts[k]?.any BState.open_) && !r.returned k).map fun k =>
    Instr.copyBurst r.core r.id k
  let births := match (s.freeGlints r.core).head? with
    | some slot => ((List.range n).filter fun k => r.returned k && !r.dropped).map fun k => Instr.glintBirth r.core r.id k slot
    | none => []
  let fault := if r.hasWaiting || r.lowest.isNone then [] else [Instr.engineFault r.core r.id]
  match r.kind with
  | .cpy .. => bursts ++ fault ++ [.copyComplete r.core r.id]
  | .gread .. => births ++ bursts ++ fault
  | .csr .. => [.cpycsrComplete r.core r.id]
  | .cnd _ => [.cndComplete r.core r.id]
  | .coll .. => [.collComplete r.core r.id]

/-! ### Waits of fragments -/

/-- Would a fragment's wait be over if it looked now? -/
def State.hit (s : State) (b : Beam) (e : Nat) (kind : WaitKind) : Bool :=
  let s := s.begin.wake b.key e kind fun _ => true
  match s.beam? b.key with
  | none => false
  | some b =>
    match s.fetchFor b e with
    | .trap .. => true
    | .ok i r w =>
      match exec i (s.ready b e i r w) with
      | .next t => ((t.beam? b.key).map fun x => (x.entry e).wait.isNone).getD true
      | _ => true

def State.dueWait (s : State) (b : Beam) (e : Nat) : List Instr :=
  let y := b.entry e
  if y.st != .run then []
  else
    match y.wait with
    | none => []
    | some w =>
      let over_ := w.rem == some 0
      match w.kind with
      | .bfuse => if over_ && !s.stopped b e then [.fuseWindowExpiry b.key] else []
      | .delay => if over_ then [.delayExpiry b.key e] else []
      | .waitv =>
        if w.woken then [] else if over_ then [.waitvTimeout b.key e]
        else if decide (w.aux + 1024 ≤ w.waited) || s.hit b e .waitv then [.waitvWake b.key e] else []
      | .mwait =>
        if w.woken then [] else if over_ then [.mwaitTimeout b.key e] else if s.hit b e .mwait then [.mwaitWake b.key e] else []
      | .fwcall => if over_ then [.fwcallTimeout b.key e] else [.fwcallAnswer b.key e]
      | .migrate => [.migrationWaitExpiry b.key e]
      | _ => []

def State.dueWaits (s : State) : List Instr := s.beams.flatMap fun b => (List.range b.split.length).flatMap (s.dueWait b)

/-! ### The scheduler, far memory, the fabric and the board -/

def State.dueCohort (s : State) (c : Cohort) : List Instr :=
  match c.st with
  | .resident => [.cohortRetire c.key, .evictionSave c.key]
  | .parked => if s.wakeMet c == c.woken.isSome then [] else [.wakeRecheck c.key]
  | _ => []

/-- The command event of a queue. -/
def State.dueQueue (s : State) (p : Partition) (q : Queue) : List Instr :=
  match s.record q (q.head + 1) with
  | none => [.fenceCmd q.num]
  | some r =>
    match recAt r 0 1 with
    | 1 => [.launchCmd q.num (((s.bestSpot q.work p (launchOf r) (launchOf r).quads).map (·.core)).getD 0)]
    | 2 => [.copyCmd q.num]
    | 3 => [.wait q.num]
    | 4 => [.signal q.num]
    | 5 => [.timestamp q.num]
    | 6 => [.preempt q.num]
    | _ => [.fenceCmd q.num]

/-- Class-0 work for which room has to be made. -/
def State.dueRoom (s : State) (p : Partition) : List Instr :=
  ((s.wokenCohorts p.id).filter fun c => c.2.cls == 0).map (fun c => Instr.cohortRestore c.1.key 0) ++
    ((s.placingKernels p.id).filter fun k => k.cls == 0).map fun k => Instr.cohortPlace k.id 0

def State.dueExchange (s : State) (p : Partition) : List Instr :=
  (s.wokenCohorts p.id).filterMap fun c => (s.exchangeVictim p c.2 c.1).map fun v => Instr.exchange v.key c.1.key

def State.duePart (s : State) (p : Partition) : List Instr :=
  (s.cohortWork p).toList ++ s.dueRoom p ++ s.dueExchange p ++
    ((s.openQueues p.id).filter Queue.serves).flatMap (s.dueQueue p) ++ [.timeSliceExpiry p.id]

/-- The acknowledgement of a far write: a failure where its CXL ports are down, once the fabric timeout has expired (R404). -/
def State.dueAck (s : State) (f : FarWrite) : List Instr :=
  if !s.farDown f.line then [.cxlWriteAcknowledgement f.line true]
  else if f.since + (((s.parts.find? fun p => inRanges p.far f.line 1).map (·.timeout)).getD 22500) ≤ s.clock then
    [.cxlWriteAcknowledgement f.line false]
  else []

/-- DESIGN CHOICE: log entry 46. -/
def State.dueOutside (s : State) : List Instr :=
  (s.cmds.filter fun c => c.copy.isSome).map (fun c => Instr.copyCmdComplete c.queue c.seq) ++
    s.posted.flatMap s.dueAck ++ s.flows.filterMap (fun w => w.waits.map (·.2)) ++
    s.fabric.filterMap (fun r => if r.expired s.clock then
      (match r.what with | .note v _ => some (Instr.notifyResend v) | _ => some (.fabricTimeout r.tag)) else none) ++
    (if s.mgmt.faultn.any fun t => decide (t ≤ s.clock) then [.faultNAssertionEnd] else [])

/-- Fragments that have waited for 64 cycles are promoted (R99, R352). -/
def State.dueAging (s : State) : List Instr := s.beams.flatMap fun b : Beam => (b.entriesIn .run).map fun e => Instr.agingPromotion b.key e

/-- A step of the device that is due. DESIGN CHOICE: log entry 2. -/
def State.due (s : State) : Option Instr :=
  (s.dueAging ++ s.dueResults ++ s.reqs.flatMap s.dueReq ++ s.dueWaits ++ s.cohorts.flatMap s.dueCohort ++ s.parts.flatMap s.duePart ++
    s.dueOutside).find? s.moves

/-! ### Steps that end a cycle -/

/-- The cycle is counted and sampled, and engaged quadrants rotate (R354, R430, R433). -/
def State.dueLast (s : State) : Option Instr :=
  (s.cores.flatMap fun c : Core => [Instr.sliceIssueSlotCount c.id, .samplePeriod c.id] ++
    (List.range 4).map fun q => Instr.throttleRotation c.id q).find? s.moves

end Sys2Proof.Machine
end

