-- ==== Sys2Proof/Machine/Load.lean ====
section
/-! DEFINITION. The least that lets a given instruction be fetched next: a context with one page, a kernel of one cohort
and one beam that stands at the instruction's address (log entry 16). Nothing of it is part of the state after reset. -/

namespace Sys2Proof.Machine

def loadRoot : Nat := 0x10000
def loadPc : Nat := 0x1008
def loadHandler : Nat := 0x2000

/-- The context: its root table at `loadRoot`, its trap handler at `loadHandler`. -/
def loadContext : Context :=
  { id := 1, root := loadRoot, handler := loadHandler, save := 0x40000, savesz := 0x10000, vf := 0, world := false
    st := .open_, part := 0, fusewin := 4096, host := 0 }

def loadPart : Partition :=
  { id := 0, world := false, clusters := [0], near := [(0, 2 ^ 30)], far := [], slices := [], timeout := 22500, slice := 2250000
    cgctl := 0, egress := [], ingress := [], cap := 0, farWin := [], pwrMax := 0, clkMax := 0, ceiling := 0, pwr := 0
    clk := 0, trip := none, held := [] }

def loadKernel : Kernel :=
  { id := 1, queue := 1, seq := 1, ctx := 1, cls := 0, st := .running, placed := 1, retired := 0, lastPlaced := 0, order := 0
    launch := { entry := loadPc - 8, cohorts := 1, beams := 1, width := 8, v := 16, s := 64, c := 16, a := 0, taglog := 0
                window := 1024, args := 0 }
    groups := [] }

def loadCohort : Cohort :=
  { key := ⟨1, 0⟩, core := 0, st := .resident, wsize := 1024, seed := 0, win := [], tags := [], maps := List.replicate 16 none
    bias := List.replicate 8 0, wbase := 0, colbase := List.replicate 4 0, tiles := List.replicate 4 [], save := none
    placed := 0, parked := 0, woken := none, saved := [], stop := none, dbg := none, slots := [0]
    marks := [] }

/-- The beam: at the instruction inside a block, or before the block when the word is a header.
DESIGN CHOICE: log entry 16. -/
def loadBeam (hdr : Bool) : Beam :=
  let blk : Option Block :=
    if hdr then none else some { hdr := loadPc - 8, len := 4, x := true, rcv := 0, livev := 255, livea := 15 }
  (Beam.fresh ⟨0, 0⟩ ⟨1, 0⟩ 0 8 16 64 16 0 8).setEntry 0
    { Entry.none_ with st := .run, pc := loadPc, mask := fullMask 8, blk := blk }

/-- Page tables that map the first 64 MiB onto themselves, readable, writable and executable (R375, R376), and an empty
block at the handler's address (R119). -/
def State.loadPages (s : State) : State :=
  let s := s.writeNat loadRoot 8 (0x12000 + 1)
  let s := s.writeNat 0x12000 8 (0x14000 + 1)
  let s := s.writeNat 0x14000 8 0xE1D
  s.writeNat loadHandler 4 1

/-- `s` with the instruction at the address that its next step fetches. DESIGN CHOICE: log entry 16. -/
def State.placed (s : State) (bs : List Byte) : State :=
  let s := s.loadPages.writeBytes none false loadPc bs
  { s with
    turns := .run ⟨0, 0⟩ 0 :: s.turns
    parts := loadPart :: s.parts.filter fun p => p.id != 0
    contexts := loadContext :: s.contexts.filter fun x => x.id != 1
    kernels := loadKernel :: s.kernels.filter fun k => k.id != 1
    cohorts := loadCohort :: s.cohorts.filter fun c => c.key != ⟨1, 0⟩
    cores := Core.reset 0 :: s.cores.filter fun c => c.id != 0
    beams := loadBeam ((bs.getD 0 0).toNat == 1 && (bs.getD 1 0).toNat % 4 == 0) :: s.beams.filter fun b => b.key != ⟨0, 0⟩ }

end Sys2Proof.Machine
end

