-- ==== Sys2Proof/Machine/Policy.lean ====
section
/-! DEFINITION. What happens when no turn is prescribed: fragments enter their headers, the steps of the device that are
due happen, the quadrants fill their slots by R12, R351 and R435, the cycle is counted, and the next one begins (log
entry 2). -/

namespace Sys2Proof.Machine

/-- Does the fragment's next instruction have any effect on its entry: it does not wait? -/
def State.effective (s : State) (b : Beam) (e : Nat) : Bool :=
  let s := s.begin
  match s.fetchFor b e with
  | .trap .. => true
  | .ok i r w =>
    let s' := s.ready b e i r w
    match exec i s' with
    | .next t => decide ((t.beam? b.key).map (fun x => x.entry e) ≠ (s'.beam? b.key).map (fun x => x.entry e))
    | _ => true

/-- Is the beam's cohort resident? -/
def State.resident (s : State) (b : Beam) : Bool := ((s.cohort? b.cohort).map fun c => c.st == .resident).getD false

/-- A debugger STOP is taken by the beams of a cohort in ascending number (R416). -/
def State.stopTurn (s : State) (b : Beam) : Bool :=
  !(b.pend.any (·.stop)) || !(s.beams.any fun x => x.cohort == b.cohort && decide (x.id < b.id) && x.pend.any (·.stop))

/-- May the fragment go on at this moment, as far as its own state tells? -/
def State.awake (s : State) (b : Beam) (e : Nat) : Bool :=
  let y := b.entry e
  y.st == .run && s.resident b && s.stopTurn b && !s.stopped b e && !(y.wait.any fun w => w.kind == .delay) &&
    (!(s.coreOf b.key.core).dim || decide (y.ready ≤ s.clock))

/-- The next instruction's class: header 0, scalar slot 1, vector slot 2 with its class. -/
def State.nextPipe (s : State) (b : Beam) (e : Nat) : Option Pipe :=
  match s.fetchFor b e with
  | .ok i r _ => some (pipeOf i r.op.toNat)
  | .trap .. => some .ctl

/-- Does the next instruction take a vector issue, and of which class (R128)? -/
def State.nextVector (s : State) (b : Beam) (e : Nat) : Option Pipe :=
  match s.fetchFor b e with
  | .ok i r _ =>
    if r.op.toNat == 0x2D || r.op.toNat == 0x2E then some .xln
    else if pipeOf i r.op.toNat == .scl then none else some (pipeOf i r.op.toNat)
  | .trap .. => some .ctl

/-- Slices that vector issues of this cycle fill (R12). -/
def Quad.slices (q : Quad) : Nat :=
  if q.second.isSome then 4 else ((q.issued.filter fun x => !x.scalar).map fun x => x.width / 8).sum

/-- Does the quadrant's slot admit the fragment in this cycle (R12, R351, R435)? -/
def State.slotFree (s : State) (b : Beam) (e : Nat) : Bool :=
  let c := s.coreOf b.key.core
  let q := c.quads.getD (quadOf b.key.slot) Quad.reset
  if c.dim then q.issued.isEmpty && q.second.isNone
  else
    let vec := q.issued.filter fun x => !x.scalar
    let vecOk := match s.nextVector b e with
      | none => true
      | some p =>
        if vec.isEmpty then q.second.isNone
        else decide (b.w ≤ 16) && p != .ctl && vec.all (fun x => x.cls == p.code) &&
          decide (q.slices + b.w / 8 ≤ 4) && !(vec.any fun x => x.beam == b.key)
    let sclOk := match s.nextPipe b e with
      | some .scl => !(q.issued.any fun x => x.scalar)
      | _ => true
    vecOk && sclOk && !((q.issued ++ q.second.toList).any fun x => x.beam == b.key && x.entry != e)

/-- Does the fragment stand before its header, which it enters without an issue (R128)? -/
def Entry.enters (y : Entry) : Bool := y.atHeader && y.wait.isNone

/-- Does the throttle hold the fragment's next instruction back? -/
def State.heldBack (s : State) (b : Beam) (e : Nat) : Bool := ((s.nextPipe b e).map (s.throttled b)).getD false

/-- May the fragment go on now: enter its header, or issue in a slot that its quadrant has free?
DESIGN CHOICE: log entry 2. -/
def State.mayGo (s : State) (b : Beam) (e : Nat) : Bool :=
  s.awake b e && ((b.entry e).enters || (s.slotFree b e && !s.heldBack b e))

/-- Is the fragment ready (R351)? -/
def State.readyNow (s : State) (b : Beam) (e : Nat) : Bool := s.awake b e && !(b.entry e).enters && s.effective b e

/-- Is the fragment a candidate (R351)? -/
def State.candidate (s : State) (b : Beam) (e : Nat) : Bool := s.readyNow b e && !s.heldBack b e

/-- The fragments of the device, by beam and entry. -/
def State.fragments (s : State) : List (Beam × Nat) := s.beams.flatMap fun b => (b.entriesIn .run).map fun e => (b, e)

/-- The first of some fragments by quadrant and the key of R351. DESIGN CHOICE: log entry 55. -/
def State.first (s : State) (fs : List (Beam × Nat)) : Option (Beam × Nat) :=
  let key := fun p : Beam × Nat => p.1.key.core :: quadOf p.1.key.slot :: s.issueKey p.1 p.2
  fs.foldl (fun best p =>
    match best with
    | none => some p
    | some q => if keyLt (key p) (key q) then some p else some q) none

/-- A fragment that can enter its header now. -/
def State.entering (s : State) : Option (Beam × Nat) :=
  s.first (s.fragments.filter fun p => (p.1.entry p.2).enters && s.awake p.1 p.2)

/-- Must a fragment that has yielded wait behind another candidate of its quadrant and pipe class, one that was ready in the
cycle of the YIELD and has not issued since (R149)? DESIGN CHOICE: log entry 66: the class is that of each fragment's next
instruction. -/
def State.givesWay (s : State) (cs : List (Beam × Nat)) (p : Beam × Nat) : Bool :=
  let y := p.1.entry p.2
  match y.yielded with
  | none => false
  | some t =>
    !y.promoted && !(s.coreOf p.1.key.core).dim && cs.any fun q =>
      let z := q.1.entry q.2
      z.yielded.isNone && decide (z.since ≤ t) && q.1.key.core == p.1.key.core &&
        quadOf q.1.key.slot == quadOf p.1.key.slot && s.nextPipe q.1 q.2 == s.nextPipe p.1 p.2

/-- The fragment that a quadrant issues next in this cycle: the vector slot is filled first, then the scalar slot (R351).
DESIGN CHOICE: log entry 2. -/
def State.issuing (s : State) : Option (Beam × Nat) :=
  let cs := s.fragments.filter fun p => s.candidate p.1 p.2
  let free := cs.filter fun p => s.slotFree p.1 p.2 && !s.givesWay cs p
  let vec := free.filter fun p => (s.nextVector p.1 p.2).isSome
  s.first (if vec.isEmpty then free else vec)

/-- What the policy chooses where no turn is prescribed (log entry 2). DESIGN CHOICE: log entry 2. -/
def State.policy (s : State) : Turn :=
  match s.entering with
  | some (b, e) => .run b.key e
  | none =>
    match s.due with
    | some i => .event i
    | none =>
      match s.issuing with
      | some (b, e) => .run b.key e
      | none =>
        match s.dueLast with
        | some i => .event i
        | none => .tick

/-- What happens next: the head of the turn list, or the policy's choice. With THERMTRIP_N asserted every clock stands, and
only RESET_N ends that (R459). DESIGN CHOICE: log entry 2. -/
def State.turn (s : State) : Turn :=
  match s.turns with
  | t :: _ => if s.mgmt.thermtrip && t != .event .resetNAssert then .tick else t
  | [] => if s.mgmt.thermtrip then .tick else s.policy

/-- Has the fragment been chosen in this cycle? -/
def State.wasChosen (s : State) (b : Beam) (e : Nat) : Bool :=
  (((s.coreOf b.key.core).quads.getD (quadOf b.key.slot) Quad.reset).issued).any fun x => x.beam == b.key && x.entry == e

/-- The candidates that were not chosen are marked, for the counts of R99 and R430. -/
def State.markCands (s : State) (core : Nat → Bool) : State :=
  { s with
    beams := s.beams.map fun b =>
      if core b.key.core then
        { b with split := b.split.zipIdx.map fun p => { p.1 with cand := s.candidate b p.2 && !s.wasChosen b p.2 } }
      else b }

/-- The age of a fragment that is not ready starts when it becomes so (R351). -/
def State.markAges (s : State) : State :=
  { s with
    beams := s.beams.map fun b =>
      { b with split := b.split.zipIdx.map fun p =>
          if p.1.st == .run && !s.readyNow b p.2 then { p.1 with since := s.clock + 1 } else p.1 } }

/-- The state in which some results of a beam have arrived, and no others. -/
def State.withResults (s : State) (b : Beam) (fs : List Fill) : State :=
  { s.setBeam (fs.foldl Beam.land b) with fills := s.fills.filter fun f => f.beam != b.key || !fs.contains f }

/-- Could the fragment go on once these results were in place? -/
def State.effectiveWith (s : State) (b : Beam) (e : Nat) (fs : List Fill) : Bool :=
  (s.withResults b fs).effective (fs.foldl Beam.land b) e

/-- The unit of the result that the fragment's next instruction waits for: one without which it cannot go on, where all the
results in flight let it (R430). -/
def State.awaited (s : State) (b : Beam) (e : Nat) : Option FillSrc :=
  let fs := s.fills.filter fun f => f.beam == b.key
  if s.effectiveWith b e fs then
    (fs.find? fun f => !s.effectiveWith b e (fs.filter fun g => g != f)).map (·.src)
  else none

/-- The fragments that wait for a result are marked with its unit, for the leaves of R430. -/
def State.markOwed (s : State) (core : Nat) : State :=
  { s with
    beams := s.beams.map fun b =>
      if b.key.core == core then
        { b with split := b.split.zipIdx.map fun p =>
            { p.1 with owed := if p.1.st == .run && p.1.wait.isNone && !p.1.atHeader && !p.1.cand then s.awaited b p.2 else none } }
      else b }

/-- The events that count a cycle see the candidates that were not chosen, and what the others wait for. -/
def State.beforeEvent (s : State) : Instr → State
  | .sliceIssueSlotCount c => (s.markCands fun k => k == c).markOwed c
  | .samplePeriod c => (s.markCands fun k => k == c).markOwed c
  | _ => s

/-- One cycle of an entry: its waits count (R94, R150, R237), and so do the cycles in which it was not chosen.
DESIGN CHOICE: log entry 58. -/
def Entry.tick (y : Entry) : Entry :=
  let wait := y.wait.map fun w => { w with waited := w.waited + 1, rem := w.rem.map (· - 1) }
  { y with wait := if y.st == .run then wait else y.wait, passed := if y.cand then y.passed + 1 else 0, cand := false
           owed := none }

/-- In deterministic issue mode a wait that is not over in this cycle issues no earlier than two cycles on (R435). -/
def State.holdWaits (s : State) : State :=
  { s with
    beams := s.beams.map fun b =>
      if (s.coreOf b.key.core).dim then
        { b with split := b.split.zipIdx.map fun p =>
            if p.1.st == .run && p.1.wait.isSome && !s.effective b p.2 then { p.1 with ready := max p.1.ready (s.clock + 2) }
            else p.1 }
      else b }

/-- The quadrant's next cycle: the second half of a width-64 issue takes the vector slot (R12), and the pointer of
deterministic issue stands where the cycle left it (R431). -/
def Quad.tick (q : Quad) : Quad :=
  { q with issued := [], second := if q.issued.any fun x => !x.scalar then q.second else none, start := q.rr, rotated := false }

/-- The cycle's increments are applied on top of its writes (R432). -/
def Spectro.tick (p : Spectro) : Spectro :=
  p.due.foldl (fun (p : Spectro) d => p.bump d.1 d.2.1 d.2.2) { p with due := [] }

/-- The cycle's packets go to the rings of their cores (R423). -/
def State.flushTraces (s : State) : State := s.cores.foldl (fun (s : State) c => s.flushTrace c.id) s

/-- The next cycle begins. -/
def State.tick (s : State) : State :=
  if s.mgmt.inReset || s.mgmt.thermtrip then s
  else
    let s := (s.markCands fun _ => true).markAges.holdWaits.flushTraces
    State.reroute { s with
      clock := s.clock + 1
      beams := s.beams.map fun b => if s.resident b then { b with split := b.split.map Entry.tick } else b
      cores := s.cores.map fun c =>
        { c with quads := c.quads.map Quad.tick, spec := c.spec.tick, counted := false, sampled := false } }

/-- An issue that leaves its fragment's entry as it is has not taken place: the fragment waits for something. -/
def State.ifIssued (s issue : State) (k : BeamKey) (e : Nat) (o : Host.Outcome State Fault Refusal) : Host.Outcome State Fault Refusal :=
  match o with
  | .next t => if (t.beam? k).map (fun x => x.entry e) = (issue.beam? k).map (fun x => x.entry e) then .next s else .next t
  | o => o

/-- A step of a beam, or of another agent, with what multiplications in progress take of its writes (R288). -/
def State.seen (s : State) (who : Option BeamKey) (o : Host.Outcome State Fault Refusal) : Host.Outcome State Fault Refusal :=
  match o with
  | .next t => .next (t.mmaSees who s)
  | o => o

/-- A fragment goes on, where it may: it enters its header or issues its instruction. -/
def State.runTurn (s : State) (k : BeamKey) (e : Nat) : Host.Outcome State Fault Refusal :=
  match s.beam? k with
  | none => .next s
  | some b =>
    if !s.mayGo b e then .next s
    else
      match s.fetchFor b e with
      | .trap t w => .next (s.fetchTrap b e w t)
      | .ok i r w =>
        let t := s.ready b e i r w
        s.seen (some k) (s.ifIssued t k e (exec i t))

/-! ### What comes from outside the device (R280, R388, R397, R403, R412) -/

/-- A trap's two words of an address, with the unit of an error in the upper one (R412). -/
def hwTrap (code unit x y n : Nat) : Trap :=
  { group := gHWERR, code := code, lanes := none, x := x, y := y + unit * 2 ^ 24, z := n }

/-- Do the words at an address come from far memory? -/
def State.fetchFar (s : State) (b : Beam) (va : Nat) : Bool :=
  match (s.contextOf b).map fun x => s.xlate (.beam b.key.core) false x va with
  | some (.page pa ..) => s.isFar pa
  | _ => false

/-- The unit that an error in fetched words names: the instruction cache, or the memory behind it, near memory, and for a far
frame also far memory (R412, R13). DESIGN CHOICE: log entry 37. -/
def State.fetchUnit (s : State) (b : Beam) (va : Nat) : Nat :=
  3 + Config.freeNat s.free % (if s.fetchFar b va then 3 else 2)

/-- HWERR code 1: an uncorrectable error in the words of a header or instruction (R412, R126). An instruction that waits is
not fetched again. -/
def State.hwFetched (s : State) (b : Beam) (e va : Nat) : State :=
  let y := b.entry e
  let words := match s.fetchFor b e with
    | .ok _ _ w => w
    | .trap _ w => max 1 w
  if y.wait.isSome || va < y.pc || y.pc + 4 * words ≤ va then s
  else
    let u := s.fetchUnit b va
    (s.hwError 1 u va).fetchTrap b e words (hwTrap 1 u (bits va 0 32) (bits va 32 24) s.log.length)

/-- The unit and the detail of an error in what an instruction reads at issue (R412). DESIGN CHOICE: log entry 37. -/
def BadWord.detail : BadWord → Nat × Nat
  | .fetched va => (3, va)
  | .reg set r src => (if set == 4 then 1 else 0, r % 2 ^ 16 + set % 8 * 2 ^ 16 + src % 8 * 2 ^ 24)
  | .window off => (2, off % 2 ^ 32)

/-- HWERR code 2: an uncorrectable error in a register, tile or window word that the instruction reads at issue. It comes after
the checks of the instruction, before its effect (R126, R412). DESIGN CHOICE: log entry 37. -/
def State.hwOperand (s : State) (b : Beam) (e : Nat) (bad : BadWord) : Host.Outcome State Fault Refusal :=
  match s.fetchFor b e with
  | .trap t w => .next (s.fetchTrap b e w t)
  | .ok i r w =>
    let t := s.ready b e i r w
    let hw : State :=
      ((s.hwError 2 bad.detail.1 bad.detail.2).noteIssue b e i r.op.toNat).fetchTrap b e w
        (hwTrap 2 bad.detail.1 bad.detail.2 0 s.log.length)
    match exec i t with
    | .next u =>
      let trapped := (u.beam? b.key).any fun x => x.trap.isSome && b.trap.isNone
      s.ifIssued t b.key e (.next (if trapped || (u.beam? b.key).map (fun x => x.entry e) = (t.beam? b.key).map (fun x => x.entry e)
        then u else hw))
    | o => o

/-- An issue meets an uncorrectable error, after a pending cause and the results that a trap waits for (R413, R406). -/
def State.hwIssue (s : State) (k : BeamKey) (e : Nat) (bad : BadWord) : Host.Outcome State Fault Refusal :=
  match s.beam? k with
  | none => .next s
  | some b =>
    let x : Frag := { b := b, e := e, pc := (b.entry e).pc, raw := ⟨0, 0, 0⟩, words := 0 }
    if !s.mayGo b e then .next s
    else if x.pending.isSome || (b.trap.isNone && s.owed k) then s.runTurn k e
    else
      match bad with
      | .fetched va => .next (s.hwFetched b e va)
      | .reg .. | .window _ => if (b.entry e).enters then .next s else s.hwOperand b e bad

/-- A step of the device meets an uncorrectable error (R280, R341, R397). The other steps that read data have their own way
to say so. -/
def State.hwFail (s : State) (i : Instr) : State :=
  match i with
  | .copyCmdComplete q seq =>
    if s.cmds.any fun c => c.queue == q && c.seq == seq && c.copy.isSome then (s.hwError 3 4 0).copyFails q seq else s
  | .memwr f ctx va data => s.memwr f ctx va data true
  | .memrd f ctx va len => s.memrd f ctx va len true
  | _ => s

/-- A CXL link goes up or down. -/
def State.cxlTurn (s : State) (port : Nat) (up : Bool) : State :=
  State.bringUp { s with cxl := s.cxl.map fun p => if p.id == port then { p with up := up, training := false } else p }

end Sys2Proof.Machine
end

