-- ==== Sys2Proof/Machine/Step.lean ====
section
/-! DEFINITION. One step of the machine, and the state in which the next step fetches and runs a given instruction. -/

namespace Sys2Proof.Machine

/-- One step: the turn that comes next is taken. -/
def step (s : State) : Host.Outcome State Fault Refusal :=
  match s.turn with
  | .run k e => s.begin.runTurn k e
  | .event i => s.seen none (exec i (s.begin.beforeEvent i))
  | .tick => .next s.begin.tick
  | .hwerr k e bad => s.begin.hwIssue k e bad
  | .hwfail i => .next (s.begin.hwFail i)
  | .corrected unit at_ => .next (s.begin.logged (.corrected unit at_))
  | .pool pa bs => .next (s.begin.poolWrite pa bs)
  | .cxlLink port up => .next (s.begin.cxlTurn port up)
  | .flitLost port lseq => .next (s.begin.flitLost port lseq)
  | .setting v => .next (s.begin.setting v)

/-- `s` with the instruction of these bits where the next step fetches (log entry 16). DESIGN CHOICE: log entry 16. -/
def State.withFetchWord (s : State) (nbits w : Nat) : State := s.placed (tableBytes nbits w)

end Sys2Proof.Machine
end

