-- ==== Sys2Proof/WellFormed.lean ====
section
/-! DEFINITION. Which instructions an encoding can hold: every field within the range that R104 to R130 and the
instruction's description give it. -/

namespace Sys2Proof

/-- A vector source that needs no field of word 2. -/
def VArg.plain : VArg → Bool
  | .v _ .id _ => true
  | _ => false

/-- With an immediate, word 2 holds it and no Prism or kind of A or C (R106, R110). -/
def Instr.immFits : Instr → Bool
  | .iadd _ _ a (.imm _) | .isub _ _ a (.imm _) | .imul _ _ a (.imm _) | .imulh _ _ a (.imm _)
  | .imin _ _ a (.imm _) | .imax _ _ a (.imm _) | .and _ _ a (.imm _) | .or _ _ a (.imm _)
  | .xor _ _ a (.imm _) | .shl _ _ a (.imm _) | .shr _ _ a (.imm _) | .sar _ _ a (.imm _)
  | .bfe _ _ a (.imm _) | .icmp _ _ _ a (.imm _) | .lea _ _ _ a (.imm _) | .fadd _ _ _ a (.imm _)
  | .fsub _ _ _ a (.imm _) | .fmul _ _ _ a (.imm _) | .fmin _ _ a (.imm _) | .fmax _ _ a (.imm _)
  | .fcmp _ _ a (.imm _) | .padd _ _ _ a (.imm _) | .fscale _ _ _ a (.imm _)
  | .pack _ _ _ _ _ _ a (.imm _) | .fill _ _ a (.imm _) | .tsel _ _ a (.imm _) _ | .shfl _ _ _ a (.imm _)
  | .atom _ _ _ _ _ _ a (.imm _) | .atoms _ _ _ _ _ _ a (.imm _) => a.plain
  | .imad _ _ a (.imm _) c | .bfi _ _ a (.imm _) c | .idot4 _ _ a (.imm _) c | .ffma _ _ _ a (.imm _) c
  | .fdot2 _ _ _ a (.imm _) c | .pfma _ _ _ a (.imm _) c | .prm _ _ a (.imm _) c => a.plain && c.plain
  | .vtos _ _ a (.lane (.imm _)) => a.plain
  | _ => true

/-- MSTA names a scale destination exactly for the block-scaled formats (R290). -/
def Instr.optFits : Instr → Bool
  | .msta f _ _ _ b _ => b.isSome == mxFmts.contains f
  | _ => true

/-- The steps of the device carry no encoding; their parameters are checked by the steps themselves. -/
def Instr.isEvent (i : Instr) : Bool := (encodeRaw i).isNone

/-- An instruction that the words of some encoding hold, and that raises no ENCODING trap. -/
def Instr.wf (i : Instr) : Bool :=
  match encodeRaw i with
  | none => true
  | some r => i.immFits && i.optFits && (encodingFault r).isNone

end Sys2Proof
end

