-- ==== Sys2Proof/Safety.lean ====
section
/-! DEFINITION. The terms in which claims speak of a step: when nothing holds an instruction up, the shape that a beam's
registers have, and what an instruction writes and leaves as it was. -/

namespace Sys2Proof.Machine

/-! ### Before the instruction -/

/-- Nothing holds the issuing fragment `x` up: it runs, its instruction may run in its mode, every register that it names is
declared, its sources and destinations are full, no result is too early and no cause is pending (R77, R78, R126, R413,
R435). -/
structure Clear (s : State) (x : Frag) (g : Guard) : Prop where
  frag    : s.frag = some x
  runs    : x.entry.st = .run
  pending : x.pending = none
  check   : x.check g = none
  source  : x.waitsSrc g = false
  early   : s.tooEarly x g = false
  full    : x.emptyTrap g = none
  dest    : x.waitsDst g = false

/-- A width that a beam may have (R75). -/
def widthOk (w : Nat) : Bool := w == 8 || w == 16 || w == 32 || w == 64

/-- Every register set of the beam has the size that the beam declares, no larger than the spec's limit, and its split
table, as that which a CTXLD has loaded, 8 entries (R75, R79, R80, R331). -/
def Beam.shaped (b : Beam) : Bool :=
  widthOk b.w && decide (b.nv ≤ 256) && decide (b.ns ≤ 64) && b.laneg.length == b.w && b.v.length == b.nv &&
    b.v.all (fun r => r.length == b.w) && b.s.length == b.ns && b.c.length == b.nc && b.c.all (fun r => r.length == b.w) &&
    b.k.length == b.nk && b.split.length == 8 &&
    (match b.trap with
    | none => true
    | some t => t.bs.length == 8 && t.bv.length == 16 && t.bv.all (fun r => r.length == b.w) &&
        (match t.loaded with | none => true | some l => l.1.length == 8))

/-- Every beam of the machine is shaped; so is every beam that a kernel's launch may still bring and every beam that the
device keeps a note of while its cohort is parked (R98, R337, R348). -/
def State.shaped (s : State) : Bool :=
  s.beams.all Beam.shaped &&
    s.kernels.all (fun k => widthOk k.launch.width && decide (k.launch.v ≤ 256) && decide (k.launch.s ≤ 64)) &&
    s.cohorts.all fun c => c.saved.all fun n => widthOk n.laneg.length

/-! ### After the instruction -/

/-- What an instruction writes: vector registers with their words in the active lanes, scalar, lane truth and uniform
truth registers, the flags that it raises, and the registers that it leaves empty. -/
structure Writes where
  v : List (Nat × (Nat → Word)) := []
  s : List (Nat × DWord) := []
  c : List (Nat × (Nat → BitVec 2)) := []
  k : List (Nat × BitVec 2) := []
  flags : Flags := 0

/-- The beam after an instruction of fragment `x` that writes `w` and goes on at `next`: every other register, the trap
registers, the tiles, the lanes and every other fragment are as before (R84, R86, R42, R43). -/
structure BeamAfter (x : Frag) (w : Writes) (next : Nat) (b : Beam) : Prop where
  v : ∀ r i, b.vl r i = match w.v.lookup r with
    | some f => if i < x.w ∧ x.mask.getLsbD i then f i else x.b.vl r i
    | none => x.b.vl r i
  s : ∀ r, b.sreg r = match w.s.lookup r with
    | some u => if (x.b.claimS x.lead r).isSome then u else x.b.sreg r
    | none => x.b.sreg r
  c : ∀ r i, b.cl r i = match w.c.lookup r with
    | some f => if i < x.w ∧ x.mask.getLsbD i then f i else x.b.cl r i
    | none => x.b.cl r i
  k : ∀ r, b.kreg r = match w.k.lookup r with
    | some u => if x.b.admitsK x.lead r then u else x.b.kreg r
    | none => x.b.kreg r
  status : b.status = x.b.status ||| w.flags
  pc : (b.entry x.e).pc = next
  lanes : (b.entry x.e).st = x.entry.st ∧ (b.entry x.e).mask = x.mask
  entries : ∀ j, j ≠ x.e → b.entry j = x.b.entry j
  trapRegs : b.epc = x.b.epc ∧ b.tcause = x.b.tcause ∧ b.tlanes = x.b.tlanes ∧ b.tdetx = x.b.tdetx ∧
    b.tdety = x.b.tdety ∧ b.tdetz = x.b.tdetz
  rest : b.ctl = x.b.ctl ∧ b.pl = x.b.pl ∧ b.exited = x.b.exited ∧ b.laneg = x.b.laneg ∧ b.tiles = x.b.tiles ∧
    b.dstack = x.b.dstack ∧ b.w = x.w ∧ b.cohort = x.b.cohort

/-- The state after such an instruction: nothing but the issuing beam has changed, memory, windows, cores, kernels and
every other beam among what has not. -/
structure Effect (s : State) (x : Frag) (w : Writes) (next : Nat) (t : State) : Prop where
  only : { t with beams := s.beams } = s
  others : ∀ k, k ≠ x.b.key → t.beam? k = s.beam? k
  beam : ∃ b, t.beam? x.b.key = some b ∧ BeamAfter x w next b

/-- The instruction completes: it answers a next state, in which it has written `w` and the fragment stands behind it. -/
def Completes (s : State) (x : Frag) (i : Instr) (w : Writes) : Prop :=
  ∃ t, exec i s = .next t ∧ Effect s x w x.next t

/-- The words that a vector result writes: one register, or a pair with the low half first (R21). -/
def wordsOf (wide : Bool) (d : Reg) (f : Nat → Nat) : List (Nat × (Nat → Word)) :=
  (d.toNat, fun i => BitVec.ofNat 32 (f i)) ::
    (if wide then [(d.toNat + 1, fun i => BitVec.ofNat 32 (f i / 2 ^ 32))] else [])

/-- A result in every active lane, with the flags of the active lanes' results beside those of the operands (R42, R84). -/
def Frag.laneWrites (x : Frag) (wide : Bool) (d : Reg) (fl : Flags) (f : Nat → Coded) : Writes :=
  { v := wordsOf wide d fun i => (f i).1, flags := fl ||| flagsOf (x.results f) }

/-- A scalar result with its flags. -/
def scalarWrites (d : Reg) (c : Coded) : Writes := { s := [(d.toNat, BitVec.ofNat 64 c.1)], flags := c.2 }

/-- A truth value in every active lane (R53). -/
def truthWrites (d : Reg) (fl : Flags) (f : Nat → Tri) : Writes := { c := [(d.toNat, fun i => (f i).code)], flags := fl }

/-- A uniform truth value. -/
def uniformWrites (d : Reg) (u : Tri) : Writes := { k := [(d.toNat, u.code)] }

/-- In every state in which nothing holds the instruction up, it completes and writes what `w` says: `us` are the registers
that it names. -/
def Runs (i : Instr) (us : List Use) (w : State → Frag → Writes) : Prop :=
  ∀ s x, Clear s x (plain us) → x.b.shaped = true → Completes s x i (w s x)

/-- The fragment `x` has moved from the state `u`, in which its effect has happened, to `next`: nothing else differs. Its
entry of the split table is out of its wait and its block is `blk`; the cycle of its next issue and the ready cycles of
deterministic issue mode (R435) are left open. -/
structure Ends (u : State) (x : Frag) (next : Nat) (blk : Option Block) (back : Bool) (t : State) : Prop where
  only : { t with beams := u.beams } = u
  others : ∀ k, k ≠ x.b.key → t.beam? k = u.beam? k
  beam : ∃ b ready rdy, u.beam? x.b.key = some b ∧ t.beam? x.b.key =
    some { b.setEntry x.e { b.entry x.e with
      pc := next, wait := none, carry := none, blk := blk, back := back, ready := ready } with rdy := rdy }

/-- The instruction completes with the effect `u`, and the fragment stands behind it in the same block. -/
def Goes (s : State) (x : Frag) (i : Instr) (u : State) : Prop :=
  ∃ t, exec i s = .next t ∧ ∃ b, u.beam? x.b.key = some b ∧ Ends u x x.next (b.entry x.e).blk (b.entry x.e).back t

/-- The instruction transfers the fragment to the header at `target`, with the effect `u` (R118, R141). -/
def Jumps (s : State) (x : Frag) (i : Instr) (u : State) (target : Nat) : Prop :=
  ∃ t, exec i s = .next t ∧ Ends u x target none (decide (target ≤ x.pc)) t

/-- The checks of a memory instruction pass for its lanes: no lane meets a condition that traps, and no write waits for a
migrating page (R222, R386). -/
def Passes (s : State) (x : Frag) (k : Acc) (ls : List (Nat × Int)) : Prop :=
  x.memTrap k (s.laneFaults x k ls) = none ∧ s.migrating x k ls = []

/-- The instruction traps with `tr` (R126, R406). -/
def Traps (s : State) (x : Frag) (i : Instr) (tr : Trap) : Prop :=
  exec i s = .next (s.trapEntry x.b.key x.e x.pc x.words tr)

/-- The request `i` from `f` is answered with a status and a result, from the state `u` (R393, R394). -/
def Answers (s : State) (f : From) (i : Instr) (u : State) (status result : Nat) : Prop :=
  exec i s = .next (u.respond f status (mgmtBody result))

end Sys2Proof.Machine
end

