-- ==== Sys2Proof/Certificates/Slice0/Obligations.lean ====
section
/-! DEFINITION. The statements for the provers. -/

open Sys2Proof Sys2Proof.Machine

/-! ### Scalar, vector and truth results -/

/-- R168, R170, R169, R171, R172, R173, R176: SADD, SSUB, SMUL, SMAD, SMIN and SMAX compute exactly, absorb absence
and saturate (b64 wraps), write sD under R86, raise SAT, change nothing else, and complete on all operands. The moves,
the bitwise operations, the shifts, SBFE, SPOPC, SCLZ, SLEA, SFILL and SSEL write sD under R86, raise their flags,
change nothing else, and complete on all operands. -/
def Obligations.ScalarResults : Prop :=
  (∀ (t : STy) (d : Reg) (a : SArg) (b : SArgI) (c : SArg),
    let two := dstS d ++ (SArg.uses 1 a ++ SArgI.uses 2 b)
    let res := fun (op : Int → Int → Int) (_ : State) (x : Frag) =>
      scalarWrites d (intElem (STy.fmt t) (fun v => op (argI v 0) (argI v 1)) [x.sval a, x.svalI t b])
    Runs (.sadd t d a b) two (res (· + ·)) ∧ Runs (.ssub t d a b) two (res (· - ·)) ∧
    Runs (.smul t d a b) two (res (· * ·)) ∧
    Runs (.smin t d a b) two (res min) ∧ Runs (.smax t d a b) two (res max) ∧
    Runs (.smad t d a b c) (dstS d ++ (SArg.uses 1 a ++ SArgI.uses 2 b ++ SArg.uses 3 c))
      fun _ x => scalarWrites d
        (intElem (STy.fmt t) (fun v => argI v 0 * argI v 1 + argI v 2) [x.sval a, x.svalI t b, x.sval c])) ∧
  (∀ (t : STy) (d : Reg) (a : SArg) (b : SArgI) (w : Word) (sh : BitVec 3) (k : Reg),
    let two := dstS d ++ (SArg.uses 1 a ++ SArgI.uses 2 b)
    let one := dstS d ++ SArgI.uses 1 b
    let res := fun (t : STy) (f : Nat → Nat → Coded) (_ : State) (x : Frag) => scalarWrites d (f (x.sval a) (x.svalI t b))
    Runs (.smov t d b) one (fun _ x => scalarWrites d (x.svalI t b, 0)) ∧
    Runs (.smovi d a w) (dstS d ++ SArg.uses 1 a)
      (fun _ x => scalarWrites d (x.sval a % 2 ^ 32 * 2 ^ 32 + w.toNat, 0)) ∧
    Runs (.sand d a b) two (res .b64 fun p q => (p &&& q, 0)) ∧ Runs (.sor d a b) two (res .b64 fun p q => (p ||| q, 0)) ∧
    Runs (.sxor d a b) two (res .b64 fun p q => (p ^^^ q, 0)) ∧
    Runs (.sshl t d a b) two (res t (sshlOf t)) ∧ Runs (.sshr t d a b) two (res t (sshrOf t)) ∧
    Runs (.ssar t d a b) two (res t (ssarOf t)) ∧ Runs (.sbfe t d a b) two (res t (sbfeOf t)) ∧
    Runs (.slea sh t d a b) two (res t (sleaOf t sh.toNat)) ∧
    Runs (.sfill t d a b) two (res t fun p q => (if Fmt.isAbsent (STy.fmt t) p then q else p, 0)) ∧
    Runs (.spopc t d b) one (fun _ x => scalarWrites d (scalarCount t (popCount 64) (x.svalI t b))) ∧
    Runs (.sclz t d b) one (fun _ x => scalarWrites d (scalarCount t (leadZeros 64) (x.svalI t b))) ∧
    Runs (.ssel t d a b k) (dstS d ++ (SArg.uses 1 a ++ SArgI.uses 2 b ++ regUses .k k false 3 false false))
      fun _ x => scalarWrites d
        (match Tri.ofCode (x.b.kreg k.toNat) with
        | .t => (x.sval a, 0)
        | .f => (x.svalI t b, 0)
        | .u => (Fmt.absent (STy.fmt t), 0)))

/-- R187, R192, R188, R189, R190, R191: The integer instructions on vectors compute every element exactly, absorb
absence, saturate (b types wrap) and write the active lanes of vD (the pair for a 64-bit type); SAT is raised, nothing
else changes, and they complete on all operands. The bitwise operations, the shifts, the bit fields, the counts and
LEA on vectors. -/
def Obligations.VectorIntegerResults : Prop :=
  (∀ (t : Ty) (d : Reg) (a : VArg) (b : VArgI) (c : VArg),
    let two := dstV t d ++ VArg.uses t.wide 1 a ++ VArgI.uses t.wide 2 b
    let one := dstV t d ++ VArgI.uses t.wide 1 b
    let fl := fun x : Frag => (x.src t a).2 ||| (x.srcI t b).2
    let res := fun (op : Int → Int → Int) (_ : State) (x : Frag) => x.laneWrites t.wide d (fl x) fun l =>
      intLane t (fun v => op (argI v 0) (argI v 1)) [(x.src t a).1 l, (x.srcI t b).1 l]
    let res1 := fun (op : Int → Int) (_ : State) (x : Frag) => x.laneWrites t.wide d (x.srcI t b).2 fun l =>
      intLane t (fun v => op (argI v 0)) [(x.srcI t b).1 l]
    Runs (.iadd t d a b) two (res (· + ·)) ∧ Runs (.isub t d a b) two (res (· - ·)) ∧
    Runs (.imul t d a b) two (res (· * ·)) ∧ Runs (.imulh t d a b) two (res fun p q => p * q / 2 ^ 32) ∧
    Runs (.imin t d a b) two (res min) ∧ Runs (.imax t d a b) two (res max) ∧
    Runs (.iabs t d b) one (res1 fun p => |p|) ∧ Runs (.ineg t d b) one (res1 fun p => -p) ∧
    Runs (.imad t d a b c) (dstV t d ++ VArg.uses t.wide 1 a ++ VArgI.uses t.wide 2 b ++ VArg.uses t.wide 3 c)
      (fun _ x => x.laneWrites t.wide d (fl x ||| (x.src t c).2) fun l =>
        intLane t (fun v => argI v 0 * argI v 1 + argI v 2) [(x.src t a).1 l, (x.srcI t b).1 l, (x.src t c).1 l]) ∧
    Runs (.idot4 t d a b c) (regUses .v d false 0 true false ++ VArg.uses t.wide 1 a ++ VArgI.uses t.wide 2 b ++
        VArg.uses (dotTy t).wide 3 c)
      (fun _ x => x.laneWrites false d (fl x ||| (x.src (dotTy t) c).2) fun l =>
        idot4Lane t ((x.src t a).1 l) ((x.srcI t b).1 l) ((x.src (dotTy t) c).1 l))) ∧
  (∀ (t : Ty) (d : Reg) (a : VArg) (b : VArgI) (c : VArg) (sh : BitVec 3),
    let two := fun (wide : Bool) (ta tb : Ty) =>
      regUses .v d wide 0 true false ++ VArg.uses ta.wide 1 a ++ VArgI.uses tb.wide 2 b
    let one := fun wide : Bool => regUses .v d wide 0 true false ++ VArgI.uses t.wide 1 b
    let res := fun (wide : Bool) (ta tb : Ty) (f : Nat → Nat → Coded) (_ : State) (x : Frag) =>
      x.laneWrites wide d ((x.src ta a).2 ||| (x.srcI tb b).2) fun l => f ((x.src ta a).1 l) ((x.srcI tb b).1 l)
    let res1 := fun (wide : Bool) (f : Nat → Coded) (_ : State) (x : Frag) =>
      x.laneWrites wide d (x.srcI t b).2 fun l => f ((x.srcI t b).1 l)
    Runs (.and t d a b) (two t.wide t t) (res t.wide t t fun p q => (p &&& q, 0)) ∧
    Runs (.or t d a b) (two t.wide t t) (res t.wide t t fun p q => (p ||| q, 0)) ∧
    Runs (.xor t d a b) (two t.wide t t) (res t.wide t t fun p q => (p ^^^ q, 0)) ∧
    Runs (.not t d b) (one t.wide) (res1 t.wide fun p => (2 ^ Ty.width t - 1 - p, 0)) ∧
    Runs (.shl t d a b) (two t.wide t (countTy t)) (res t.wide t (countTy t) (shlLane t)) ∧
    Runs (.shr t d a b) (two t.wide t (countTy t)) (res t.wide t (countTy t) (shrLane t)) ∧
    Runs (.sar t d a b) (two t.wide t (countTy t)) (res t.wide t (countTy t) (sarLane t)) ∧
    Runs (.bfe t d a b) (two t.wide t .b32) (res t.wide t .b32 (bfeLane t)) ∧
    Runs (.bfi t d a b c) (two t.wide t .b32 ++ VArg.uses t.wide 3 c)
      (fun _ x => x.laneWrites t.wide d ((x.src t a).2 ||| (x.srcI .b32 b).2 ||| (x.src t c).2) fun l =>
        bfiLane t ((x.src t a).1 l) ((x.srcI .b32 b).1 l) ((x.src t c).1 l)) ∧
    Runs (.popc t d b) (one false) (res1 false (laneCount t (popCount (Ty.width t)))) ∧
    Runs (.clz t d b) (one false) (res1 false (laneCount t (leadZeros (Ty.width t)))) ∧
    Runs (.lea sh t d a b) (two true .n64 t) (res true .n64 t (leaLane t sh.toNat)))

/-- R195, R196, R198, R199, R200, R203: The floating-point instructions and CVT on vectors compute each element
exactly and round once, absorb absence, raise their flags, and complete on all operands. The upper half of an
immediate that PADD takes is the model's choice (log entry 65). -/
def Obligations.VectorFloatResults : Prop :=
  ∀ (t st : Ty) (r : Rnd) (d : Reg) (a : VArg) (b : VArgI) (c : VArg),
    let two := fun (wide : Bool) (tb : Ty) =>
      regUses .v d wide 0 true false ++ VArg.uses t.wide 1 a ++ VArgI.uses tb.wide 2 b
    let one := fun (wide : Bool) (ta : Ty) => regUses .v d wide 0 true false ++ VArgI.uses ta.wide 1 b
    let res := fun (wide : Bool) (tb : Ty) (f : Nat → Nat → Coded) (_ : State) (x : Frag) =>
      x.laneWrites wide d ((x.src t a).2 ||| (x.srcI tb b).2) fun l => f ((x.src t a).1 l) ((x.srcI tb b).1 l)
    let res1 := fun (wide : Bool) (ta : Ty) (f : Nat → Coded) (_ : State) (x : Frag) =>
      x.laneWrites wide d (x.srcI ta b).2 fun l => f ((x.srcI ta b).1 l)
    let res3 := fun (wide : Bool) (tc : Ty) (f : Nat → Nat → Nat → Coded) (_ : State) (x : Frag) =>
      x.laneWrites wide d ((x.src t a).2 ||| (x.srcI t b).2 ||| (x.src tc c).2) fun l =>
        f ((x.src t a).1 l) ((x.srcI t b).1 l) ((x.src tc c).1 l)
    let float := fun (op : Sys2Proof.Num → Sys2Proof.Num → Sys2Proof.Num × Bool) (p q : Nat) =>
      mapElems t (floatElem (Ty.fmt t) r fun v => op (arg v 0) (arg v 1)) [p, q]
    let pick := fun (max : Bool) (p q : Nat) =>
      mapElems t (fun v => (floatPick (Ty.fmt t) max (v.getD 0 0) (v.getD 1 0), 0)) [p, q]
    Runs (.fadd t r d a b) (two t.wide t) (res t.wide t (float fun p q => sumExact (r == .rd) [p, q])) ∧
    Runs (.fsub t r d a b) (two t.wide t) (res t.wide t (float fun p q => sumExact (r == .rd) [p, q.neg])) ∧
    Runs (.fmul t r d a b) (two t.wide t) (res t.wide t (float mulExact)) ∧
    Runs (.ffma t r d a b c) (two t.wide t ++ VArg.uses t.wide 3 c) (res3 t.wide t fun p q u =>
      mapElems t (floatElem (Ty.fmt t) r fun v => fmaExact (r == .rd) (arg v 0) (arg v 1) (arg v 2)) [p, q, u]) ∧
    Runs (.fmin t d a b) (two t.wide t) (res t.wide t (pick false)) ∧
    Runs (.fmax t d a b) (two t.wide t) (res t.wide t (pick true)) ∧
    Runs (.fclass d b) (one false .f32) (res1 false .f32 fun p => (classOf p, 0)) ∧
    Runs (.fdot2 t r d a b c) (two false t ++ VArg.uses (Ty.wide .f32) 3 c) (res3 false .f32 fun p q u =>
      dotF32 r [(elemNum t p 0, elemNum t q 0), (elemNum t p 1, elemNum t q 1)] [Fmt.value .f32 u]) ∧
    Runs (.pfma t r d a b c) (two true t ++ VArg.uses (Ty.wide .b64) 3 c) (res3 true .b64 fun p q u =>
      joinPair (dotF32 r [(elemNum t p 0, elemNum t q 0)] [pairNum u 0])
        (dotF32 r [(elemNum t p 1, elemNum t q 1)] [pairNum u 1])) ∧
    Runs (.padd t r d a b) (two true .b64) (res true .b64 fun p u =>
      joinPair (dotF32 r [] [elemNum t p 0, pairNum u 0]) (dotF32 r [] [elemNum t p 1, pairNum u 1])) ∧
    Runs (.fscale t r d a b) (two t.wide .s32) (res t.wide .s32 fun p n =>
      mapElems t (fun v => scaleElem (Ty.fmt t) r n (v.getD 0 0)) [p]) ∧
    Runs (.frnd t r d b) (one t.wide t)
      (res1 t.wide t fun p => mapElems t (fun v => integralElem (Ty.fmt t) r (v.getD 0 0)) [p]) ∧
    Runs (.cvt t st r d b) (one t.wide st) (res1 t.wide st (cvtLane t st r))

/-- R177, R193, R204, R205, R206, R207: MOV, STOV, FILL, MKAB, TSEL, TVAL, PACK and UNPK write the active lanes of vD.
The bits that a scalar source gives UNPK are the model's choice (log entry 65). An indexed MOV gives every active lane
the register that its own index names, or the absent code for an absent index, where every register that it names is
declared and full and, in deterministic issue mode, was written long enough ago (R435). That a banked register may be
named in trap mode whatever V is, is the model's choice (log entry 48). -/
def Obligations.VectorMoveResults : Prop :=
  (∀ (t : Ty) (f : Fmt) (sat : Bool) (p : BitVec 2) (e : BitVec 3) (r : Rnd) (d : Reg) (a : VArg) (b : VArgI) (c : Reg)
    (sa : SArg),
    let two := dstV t d ++ useAB t a b
    let cUse := fun n : Nat => regUses .c c false n false false
    let fl := fun x : Frag => (x.src t a).2 ||| (x.srcI t b).2
    let tri := fun (x : Frag) (l : Nat) => Tri.ofCode (x.b.cl c.toNat l)
    Runs (.mov t d (.plain b)) (dstV t d ++ VArgI.uses t.wide 1 b)
      (fun _ x => x.laneWrites t.wide d (x.srcI t b).2 fun l => ((x.srcI t b).1 l, 0)) ∧
    Runs (.stov t d sa) (dstV t d ++ SArg.uses 1 sa)
      (fun _ x => { v := wordsOf t.wide d fun _ => (scalarOperand t (x.sval sa)).1
                    flags := (scalarOperand t (x.sval sa)).2 }) ∧
    Runs (.fill t d a b) (dstV t d ++ VArg.uses t.wide 1 a ++ VArgI.uses t.wide 2 b)
      (fun _ x => x.laneWrites t.wide d (fl x) fun l =>
        mapElems t (fun v => (if Ty.isAbsent t (v.getD 0 0) then v.getD 1 0 else v.getD 0 0, 0))
          [(x.src t a).1 l, (x.srcI t b).1 l]) ∧
    Runs (.mkab t d a c) (dstV t d ++ VArg.uses t.wide 1 a ++ cUse 2)
      (fun _ x => { v := wordsOf t.wide d fun l => if tri x l = .t then Ty.absent t else (x.src t a).1 l
                    flags := (x.src t a).2 }) ∧
    Runs (.tsel t d a b c) (two ++ cUse 3)
      (fun _ x => { v := wordsOf t.wide d fun l =>
                      match tri x l with
                      | .t => (x.src t a).1 l
                      | .f => (x.srcI t b).1 l
                      | .u => Ty.absent t
                    flags := fl x }) ∧
    Runs (.tval t d c) (dstV t d ++ cUse 1)
      (fun _ x => { v := wordsOf t.wide d fun l =>
                      match tri x l with
                      | .t => oneOf t
                      | .f => 0
                      | .u => Ty.absent t }) ∧
    (t.wide = false →
      Runs (.pack f sat t p r d a b) two
        (fun _ x => x.laneWrites false d (fl x) fun l =>
          packLane f sat t p r (x.b.vl d.toNat l).toNat ((x.src t a).1 l) ((x.srcI t b).1 l)) ∧
      Runs (.unpk t f e r d b) (dstV t d ++ VArgI.uses false 1 b)
        (fun _ x => x.laneWrites false d 0 fun l => unpkLane t f e r (x.unpkSrc f b l)))) ∧
  (∀ (t : Ty) (d a : Reg) (ea : Bool) (b : VOp) (s : State) (x : Frag),
    Clear s x { priv := false, noGlint := false, early := s.idxRead t a b
                uses := dstV t d ++ [{ set := .v, r := a.toNat, src := 1, dst := false, trap := ea, named := true }] ++
                  VOp.uses false 2 b } → x.b.shaped = true →
    (∀ i, x.mask.getLsbD i = true → ∀ r, idxReg x.b t a (x.vop .n32 b i) ≠ .bad r ∧
      (idxReg x.b t a (x.vop .n32 b i) = .reg r → x.b.vfullAt r = true ∧ (t.wide = true → x.b.vfullAt (r + 1) = true))) →
    Completes s x (.mov t d (.idx a ea b))
      { v := wordsOf t.wide d fun i =>
          match idxReg x.b t a (x.vop .n32 b i) with
          | .reg r => x.b.vval t.wide r i
          | _ => Ty.absent t })

/-- R174, R175, R190, R197, R206, R207, R210, R214, R215, R47, R57, R88, R209, R212, R213: The instructions that write
truth values: comparisons, PRES, TLOG, ELECT into the active lanes of cD; SCMP, KLOG, VOTE and MATCH.all into kD under
R86. The immediates of PRES and MATCH are the model's choice (log entry 65). SHFL, PRM, RED, SCAN and MATCH.any write
the active lanes of vD from the lanes of their sources. The immediates of RED, SCAN and MATCH are the model's choice
(log entry 65). -/
def Obligations.TruthAndCrossLaneResults : Prop :=
  (∀ (cmp : Cmp) (t : Ty) (st : STy) (op : LogOp) (kind : VoteKind) (d c c' : Reg) (a : VArg) (b : VArgI) (sa : SArg)
    (sb : SArgI),
    let cUse := fun (c : Reg) (n : Nat) => regUses .c c false n false false
    let kUse := fun (c : Reg) (n : Nat) => regUses .k c false n false false
    let second := fun us : List Use => if op == .not then [] else us
    let tri := fun (x : Frag) (c : Reg) (l : Nat) => Tri.ofCode (x.b.cl c.toNat l)
    let uni := fun (x : Frag) (c : Reg) => Tri.ofCode (x.b.kreg c.toNat)
    let cmpRes := fun (t : Ty) (_ : State) (x : Frag) => truthWrites d ((x.src t a).2 ||| (x.srcI t b).2) fun l =>
      compareElem (Ty.fmt t) cmp ((x.src t a).1 l) ((x.srcI t b).1 l)
    Runs (.icmp cmp t d a b) (dstC d ++ useAB t a b) (cmpRes t) ∧
    Runs (.fcmp cmp d a b) (dstC d ++ useAB .f32 a b) (cmpRes .f32) ∧
    Runs (.pres t d b) (dstC d ++ VArgI.uses t.wide 1 b)
      (fun _ x => truthWrites d (x.srcI t b).2 fun l =>
        Tri.ofBool ((Ty.elems t ((x.srcI t b).1 l)).all fun e => !Ty.isAbsent t e)) ∧
    Runs (.tlog op d c c') (dstC d ++ cUse c 1 ++ second (cUse c' 2))
      (fun _ x => truthWrites d 0 fun l => LogOp.apply op (tri x c l) (tri x c' l)) ∧
    Runs (.elect d (some c)) (dstC d ++ cUse c 1)
      (fun _ x => truthWrites d 0 fun l =>
        Tri.ofBool (some l == (lanesOf x.mask).find? fun i => tri x c i == .t)) ∧
    Runs (.elect d none) (dstC d) (fun _ x => truthWrites d 0 fun l => Tri.ofBool (some l == (lanesOf x.mask).head?)) ∧
    Runs (.scmp cmp st d sa sb) (dstK d ++ SArg.uses 1 sa ++ SArgI.uses 2 sb)
      (fun _ x => uniformWrites d (compareElem (STy.fmt st) cmp (x.sval sa) (x.svalI st sb))) ∧
    Runs (.klog op d c c') (dstK d ++ kUse c 1 ++ second (kUse c' 2))
      (fun _ x => uniformWrites d (LogOp.apply op (uni x c) (uni x c'))) ∧
    Runs (.vote kind d c) (dstK d ++ cUse c 1) (fun _ x => uniformWrites d (voteOf kind (x.tris c))) ∧
    Runs (.laneMatch true t d b) (dstK d ++ VArgI.uses t.wide 1 b)
      (fun _ x => { uniformWrites d (Tri.ofBool ((lanesOf x.mask).all fun i => (x.srcI t b).1 i == (x.srcI t b).1 x.lead))
                    with flags := (x.srcI t b).2 })) ∧
  (∀ (m : ShMode) (op : RedOp) (t : Ty) (d : Reg) (a : VArg) (b : VArgI) (c : VArg),
    let node := fun (x : Frag) (n : Nat) =>
      (List.range (Ty.width t / Ty.ewidth t)).map fun e => scanOf (Ty.fmt t) op (x.leaf t (x.srcI t b).1 e) n
    let value := fun (x : Frag) (n : Nat) =>
      ((Ty.join t ((node x n).map fun v => v.val.getD (Fmt.absent (Ty.fmt t))), orFlags ((node x n).map (·.flags))) : Coded)
    let dc := d.toNat + if t.wide then 2 else 1
    let kept := fun cnt : Bool =>
      if cnt then [({ set := .v, r := dc, src := 5, dst := true, trap := false } : Use)] else []
    let scanned := fun (x : Frag) (cnt : Bool) (n : Nat → Nat) =>
      let w := x.laneWrites t.wide d (x.srcI t b).2 fun i => value x (n i)
      if cnt then { w with v := w.v ++ [(dc, fun i => BitVec.ofNat 32 (((node x (n i)).map (·.count)).headD 0))] } else w
    Runs (.shfl m t d a b) (dstV t d ++ VArg.uses t.wide 1 a ++ VArgI.uses false 2 b)
      (fun _ x => { v := wordsOf t.wide d fun i => x.atLane t (x.src t a).1 (shflLane m x.w i ((x.srcI (shflTy m) b).1 i))
                    flags := (x.src t a).2 ||| (x.srcI (shflTy m) b).2 }) ∧
    Runs (.prm t d a b c) (dstV t d ++ useAB t a b ++ VArg.uses false 3 c)
      (fun _ x => { v := wordsOf t.wide d fun i =>
                      let j := (x.src .n32 c).1 i
                      if Ty.isAbsent .n32 j then Ty.absent t
                      else if j < x.w then x.atLane t (x.src t a).1 (some j)
                      else if j < 2 * x.w then x.atLane t (x.srcI t b).1 (some (j - x.w))
                      else Ty.absent t
                    flags := (x.src t a).2 ||| (x.srcI t b).2 ||| (x.src .n32 c).2 }) ∧
    (∀ cnt : Bool,
      Runs (.red op cnt t d b) (dstV t d ++ kept cnt ++ VArgI.uses t.wide 1 b) (fun _ x => scanned x cnt fun _ => x.w) ∧
      Runs (.scan op cnt t d b) (dstV t d ++ kept cnt ++ VArgI.uses t.wide 1 b) (fun _ x => scanned x cnt fun i => i + 1)) ∧
    Runs (.laneMatch false t d b) (regUses .v d false 0 true false ++ VArgI.uses t.wide 1 b)
      (fun _ x => { v := wordsOf false d fun i =>
                      ((lanesOf x.mask).find? fun j => (x.srcI t b).1 j == (x.srcI t b).1 i).getD i
                    flags := (x.srcI t b).2 }))

/-! ### Blocks, branches and fragments -/

/-- R121, R122, R123: A fragment that stands at a header enters its block behind the header's two words; a header with
a reserved bit set or an odd LEN traps FETCH code 7; no other state changes. -/
def Obligations.HeaderEntry : Prop :=
  ∀ (h : Header) (s : State) (x : Frag), Clear s x (plain []) →
    (h.rsv ≠ 0 ∨ h.len.toNat % 2 = 1 → Traps s x (.hdr h) (Trap.addr gFETCH 7 none x.pc 0)) ∧
    (h.rsv = 0 → h.len.toNat % 2 = 0 → x.b.arrivalAt x.pc 9 x.e [] = none →
      ∃ t b, exec (.hdr h) s = .next t ∧ { t with beams := s.beams } = s ∧ (∀ k, k ≠ x.b.key → t.beam? k = s.beam? k) ∧
        t.beam? x.b.key = some b ∧ { b with split := x.b.split } = x.b ∧ (∀ j, j ≠ x.e → b.entry j = x.b.entry j) ∧
        (b.entry x.e).pc = x.pc + 8 ∧ (b.entry x.e).mask = x.mask ∧ (b.entry x.e).st = .run ∧
        ((b.entry x.e).blk.map fun k => (k.hdr, k.len, k.stop, k.rcv)) =
          some (x.pc, h.len.toNat, x.pc + 8 + 4 * h.len.toNat, sext 18 h.rcv.toNat))

/-- R142, R143, R145, R147: BRA, BRS, JMPI, CALL, RET and BDEC complete at a target that is a header: the fragment
moves there, and nothing else changes but the return stack of CALL and RET, the count of BDEC, and the packet of
branch tracing. A target below address 0 is the model's choice (log entry 58). -/
def Obligations.BranchesTransfer : Prop :=
  ∀ (s : State) (x : Frag) (off : BitVec 22) (u : Disp) (k : BitVec 3) (bt bf bn o : BitVec 16) (n : BitVec 6) (a : SArg),
    let free := fun target : Nat => s.transferTrap x target = none
    let kUse : Use := { set := .k, r := k.toNat, src := 1, dst := false, trap := false }
    let dUses : List Use := [{ set := .s, r := n.toNat, src := 1, dst := false, trap := false },
      { set := .s, r := n.toNat, src := 0, dst := true, trap := false }]
    let fenced : Guard := { priv := false, noGlint := true, uses := [] }
    (Clear s x (plain []) → free (x.target off.toInt) → Jumps s x (.bra off) s (x.target off.toInt)) ∧
    (Clear s x (plain [kUse]) → ∀ v, dispose u (Tri.ofCode (x.b.kreg k.toNat)) = some v →
      let o := match v with | .t => bt | .f => bf | .u => bn
      let s' := s.brPacket x.b x.e x.pc 1 x.mask (if v == .t then x.mask else 0) (if v == .u then x.mask else 0)
      (v ≠ .t ∧ o.toInt = 0 → Goes s x (.brs u k bt bf bn) s') ∧
      (v = .t ∨ o.toInt ≠ 0 → free (x.target o.toInt) → Jumps s x (.brs u k bt bf bn) s' (x.target o.toInt))) ∧
    (Clear s x (plain (SArg.uses 1 a)) → Fmt.isAbsent .n64 (x.sval a) = false → x.sval a < 2 ^ 56 → free (x.sval a) →
      Jumps s x (.jmpi a) (s.jmpPacket x.b x.e x.pc x.mask (x.sval a)) (x.sval a)) ∧
    (Clear s x fenced → x.entry.rstack.length < 8 → free (x.target off.toInt) →
      Jumps s x (.call off)
        (s.setBeam (x.b.setEntry x.e { x.entry with rstack := x.block.stop :: x.entry.rstack })) (x.target off.toInt)) ∧
    (Clear s x (plain []) → ∀ t rest, x.entry.rstack = t :: rest → free t →
      Jumps s x .ret (s.setBeam (x.b.setEntry x.e { x.entry with rstack := rest })) t) ∧
    (Clear s x (plain dUses) → (s.coreOf x.core).trace.br = false → Fmt.isAbsent .s64 (x.b.sreg n.toNat).toNat = false →
      let y := satCode .s64 ((x.b.sreg n.toNat).toInt - 1)
      let s' := s.setBeam ((x.b.putS x.lead n.toNat (BitVec.ofNat 64 y.1)).raise y.2)
      0 < (BitVec.ofNat 64 y.1).toInt → free (x.target o.toInt) → Jumps s x (.bdec n o) s' (x.target o.toInt)) ∧
    (Clear s x (plain dUses) → (s.coreOf x.core).trace.br = false → (s.coreOf x.core).dim = false →
      (Fmt.isAbsent .s64 (x.b.sreg n.toNat).toNat = true → Goes s x (.bdec n o) s) ∧
      (Fmt.isAbsent .s64 (x.b.sreg n.toNat).toNat = false →
        let y := satCode .s64 ((x.b.sreg n.toNat).toInt - 1)
        (BitVec.ofNat 64 y.1).toInt ≤ 0 →
          Goes s x (.bdec n o) (s.setBeam ((x.b.putS x.lead n.toNat (BitVec.ofNat 64 y.1)).raise y.2))))

/-- R118, R141, R142, R143, R144, R145, R147: A transfer to an address that is no header traps FETCH with the code of
the failed check and the target as detail, before any state changes: of BRA, CALL, BRS, BDEC, JMPI and RET, and of BRV
where a path's target is none; an absent JMPI address traps FETCH 1 with all ones, one above 56 bits FETCH 4; UNKNOWN
under UX traps ARITH 1; a ninth CALL traps REGISTER 3 and RET without a CALL REGISTER 4. That the ninth CALL traps so
whatever its target, with detail words of 0, is the model's choice (log entry 22). -/
def Obligations.BranchTraps : Prop :=
  ∀ (s : State) (x : Frag) (c : Context) (off : BitVec 22) (k : BitVec 3) (u : Disp) (cr : BitVec 4) (n : BitVec 6)
    (o bt bf bn : BitVec 16) (a : SArg),
    let kUse : Use := { set := .k, r := k.toNat, src := 1, dst := false, trap := false }
    let cUse : Use := { set := .c, r := cr.toNat, src := 1, dst := false, trap := false }
    let dUses : List Use := [{ set := .s, r := n.toNat, src := 1, dst := false, trap := false },
      { set := .s, r := n.toNat, src := 0, dst := true, trap := false }]
    let noHeader := fun target code : Nat => s.headerFault x.core c target = some code
    let fetch := fun target code : Nat => Trap.addr gFETCH code none target 0
    let fenced : Guard := { priv := false, noGlint := true, uses := [] }
    s.contextOf x.b = some c →
    (∀ code, s.headerFault x.core c (x.target off.toInt) = some code →
      let tr := Trap.addr gFETCH code none (x.target off.toInt) 0
      (Clear s x (plain []) → Traps s x (.bra off) tr) ∧
      (Clear s x fenced → x.entry.rstack.length < 8 → Traps s x (.call off) tr)) ∧
    (∀ code v, Clear s x (plain [kUse]) → dispose u (Tri.ofCode (x.b.kreg k.toNat)) = some v →
      let o := match v with | .t => bt | .f => bf | .u => bn
      v = .t ∨ o.toInt ≠ 0 → noHeader (x.target o.toInt) code →
        Traps s x (.brs u k bt bf bn) (fetch (x.target o.toInt) code)) ∧
    (∀ code, Clear s x (plain dUses) → Fmt.isAbsent .s64 (x.b.sreg n.toNat).toNat = false →
      0 < (BitVec.ofNat 64 (satCode .s64 ((x.b.sreg n.toNat).toInt - 1)).1).toInt → noHeader (x.target o.toInt) code →
        Traps s x (.bdec n o) (fetch (x.target o.toInt) code)) ∧
    (∀ code, Clear s x (plain (SArg.uses 1 a)) → Fmt.isAbsent .n64 (x.sval a) = false → x.sval a < 2 ^ 56 →
      noHeader (x.sval a) code → Traps s x (.jmpi a) (fetch (x.sval a) code)) ∧
    (∀ code t rest, Clear s x (plain []) → x.entry.rstack = t :: rest → noHeader t code →
      Traps s x .ret (fetch t code)) ∧
    (∀ code p, Clear s x (plain [cUse]) → (u = .ux → brvUnknown x cr.toNat = 0) → x.b.glint = none →
      p ∈ brvPaths x u cr.toNat bt bf bn → p.inside = false → noHeader p.target code →
        ∃ q code', q ∈ brvPaths x u cr.toNat bt bf bn ∧ q.inside = false ∧ noHeader q.target code' ∧
          Traps s x (.brv u cr bt bf bn) (fetch q.target code')) ∧
    (∀ w, s.fetchWord x.core c (x.target off.toInt) = .ok w → w.extractLsb' 0 10 ≠ 1#10 → Clear s x (plain []) →
      Traps s x (.bra off) (Trap.addr gFETCH 1 none (x.target off.toInt) 0)) ∧
    (Clear s x (plain (SArg.uses 1 a)) →
      (Fmt.isAbsent .n64 (x.sval a) = true →
        Traps s x (.jmpi a) { group := gFETCH, code := 1, lanes := none, x := 2 ^ 32 - 1, y := 2 ^ 24 - 1, z := 0 }) ∧
      (Fmt.isAbsent .n64 (x.sval a) = false → 2 ^ 56 ≤ x.sval a →
        Traps s x (.jmpi a) (Trap.addr gFETCH 4 none (x.sval a) 0))) ∧
    (Clear s x (plain [kUse]) → Tri.ofCode (x.b.kreg k.toNat) = .u →
      Traps s x (.brs .ux k bt bf bn) (unknownBranch k.toNat false x.mask)) ∧
    (Clear s x fenced → 8 ≤ x.entry.rstack.length → Traps s x (.call off) (Trap.simple gREGISTER 3 0)) ∧
    (Clear s x (plain []) → x.entry.rstack = [] → Traps s x .ret (Trap.simple gREGISTER 4 0))

/-- R144, R81, R82: BRV sorts the active lanes into paths: every active lane lies on exactly one path, the path of its
truth value after the disposition, at that value's target, and no two paths have one target. BRV completes. With one
path the fragment moves there, or goes on behind the instruction; with several and enough free entries each path is a
fragment of its own at its target and the entry waits at the reconvergence header as their join; with too few free
entries the path of the lowest leading lane goes on in the entry, and the stack receives the join marker and, above
it, a record for each other path, the next leading lane on top. Nothing but the split table and the stack changes. A
branch that diverges traps CONVERGENCE with code 3 in a block whose header has RCV 0, and with code 4 where the
entries are too few and the stack lacks room. A fragment that reaches its JOIN header and owns no record leaves its
entry free and arrives at the join entry that is its parent; the join entry goes on there with the lanes that have
arrived as soon as every lane that it waits for has arrived or exited. -/
def Obligations.BrvDiverges : Prop :=
  (∀ (x : Frag) (u : Disp) (c : Nat) (bt bf bn : BitVec 16) (i : Nat), i < 64 → x.mask.getLsbD i = true →
    (u = .ux → brvUnknown x c = 0) →
    ((brvPaths x u c bt bf bn).map (·.target)).Nodup ∧
    ((brvPaths x u c bt bf bn).filter fun p => p.mask.getLsbD i).length = 1 ∧
    ∀ p ∈ brvPaths x u c bt bf bn, p.mask.getLsbD i = true →
      p.target = match dispose u (Tri.ofCode (x.b.cl c i)) with
        | some .t => x.target bt.toInt
        | some .f => if bf.toInt = 0 then x.next else x.target bf.toInt
        | _ => if bn.toInt = 0 then x.next else x.target bn.toInt) ∧
  (∀ (s : State) (x : Frag) (u : Disp) (c : BitVec 4) (bt bf bn : BitVec 16),
    Clear s x (plain [{ set := .c, r := c.toNat, src := 1, dst := false, trap := false }]) →
    (s.coreOf x.core).trace.br = false →
    (u = .ux → brvUnknown x c.toNat = 0) →
    let ps := brvPaths x u c.toNat bt bf bn
    (∀ p ∈ ps, p.inside = false → s.transferTrap x p.target = none) →
    (∀ p, ps = [p] →
      (p.inside = true → Goes s x (.brv u c bt bf bn) s) ∧
      (p.inside = false → Jumps s x (.brv u c bt bf bn) s p.target)) ∧
    (∀ j, 2 ≤ ps.length → s.reconv x = .ok j → ps.length ≤ (x.b.entriesIn .free).length →
      ∃ t b, exec (.brv u c bt bf bn) s = .next t ∧ t.mem = s.mem ∧ t.beam? x.b.key = some b ∧
        { b with split := x.b.split } = x.b ∧
        (b.entry x.e).st = .join ∧ (b.entry x.e).pc = j ∧ (b.entry x.e).mask = x.mask ∧
        (∀ pf ∈ ps.zip (x.b.entriesIn .free), (b.entry pf.2).st = .run ∧ (b.entry pf.2).pc = pf.1.target ∧
          (b.entry pf.2).mask = pf.1.mask ∧ (b.entry pf.2).join = some j ∧ (b.entry pf.2).parent = some x.e) ∧
        (∀ e, e ≠ x.e → (x.b.entry e).st ≠ .free → (b.entry e).st = (x.b.entry e).st ∧
          (b.entry e).pc = (x.b.entry e).pc ∧ (b.entry e).mask = (x.b.entry e).mask)) ∧
    (∀ j first others, 2 ≤ ps.length → s.reconv x = .ok j → (x.b.entriesIn .free).length < ps.length →
      x.b.dstack.length + ps.length ≤ 16 → (first :: others).Perm ps →
      (first :: others).Pairwise (fun p q => leadOf p.mask < leadOf q.mask) →
      ∃ t b, exec (.brv u c bt bf bn) s = .next t ∧ t.mem = s.mem ∧ t.beam? x.b.key = some b ∧
        { b with split := x.b.split, dstack := x.b.dstack } = x.b ∧ (∀ e, e ≠ x.e → b.entry e = x.b.entry e) ∧
        (b.entry x.e).st = .run ∧ (b.entry x.e).pc = first.target ∧ (b.entry x.e).mask = first.mask ∧
        (b.entry x.e).join = some j ∧
        b.dstack.map (fun r => (r.marker, r.pc, r.mask, r.j, r.owner)) =
          others.map (fun p => (false, p.target, p.mask, j, x.e)) ++ (true, j, x.mask, j, x.e) ::
            x.b.dstack.map (fun r => (r.marker, r.pc, r.mask, r.j, r.owner))) ∧
    (2 ≤ ps.length →
      let conv := fun code : Nat => ({ group := gCONV, code := code, lanes := none, x := x.op + x.w * 2 ^ 8, y := 0, z := 0 } : Trap)
      (x.block.rcv = 0 → Traps s x (.brv u c bt bf bn) (conv 3)) ∧
      (∀ j, s.reconv x = .ok j → (x.b.entriesIn .free).length < ps.length → 16 < x.b.dstack.length + ps.length →
        Traps s x (.brv u c bt bf bn) (conv 4)))) ∧
  (∀ (h : Header) (s : State) (x : Frag) (j : Nat), Clear s x (plain []) →
    h.rsv = 0 → h.len.toNat % 2 = 0 → (s.coreOf x.core).trace.br = false →
    x.entry.join = some x.pc → x.entry.parent = some j → x.b.stacked x.e = false → x.b.trap = none →
    x.b.entriesIn .join = [j] → j ≠ x.e → j < x.b.split.length →
    ∃ t b, exec (.hdr h) s = .next t ∧ t.beam? x.b.key = some b ∧ t.mem = s.mem ∧ b.v = x.b.v ∧ b.s = x.b.s ∧
      (b.entry x.e).st = .free ∧
      ((x.b.entry j).mask &&& ~~~x.b.exited &&& ~~~((x.b.entry j).arrived ||| x.mask) ≠ 0 →
        (b.entry j).st = .join ∧ (b.entry j).arrived = (x.b.entry j).arrived ||| x.mask) ∧
      ((x.b.entry j).mask &&& ~~~x.b.exited &&& ~~~((x.b.entry j).arrived ||| x.mask) = 0 →
        ((x.b.entry j).arrived ||| x.mask) &&& ~~~x.b.exited ≠ 0 →
        (b.entry j).st = .run ∧ (b.entry j).pc = (x.b.entry j).pc ∧
          (b.entry j).mask = ((x.b.entry j).arrived ||| x.mask) &&& ~~~x.b.exited))

/-- R99, R149, R150, R352: NOP has no effect; YIELD notes its cycle in the fragment, which goes behind the fragments
of its class that were ready then, and has no effect in deterministic issue mode; DELAY waits min(count, 4,096) cycles
at the next instruction, or goes on at once for an absent count or 0; at the count's end DELAY_EXPIRY lets the
fragment issue; a candidate that has not been chosen for 64 consecutive cycles is promoted. Which class a fragment
that has yielded is of is the model's choice (log entry 66). -/
def Obligations.Pauses : Prop :=
  ∀ (s : State) (x : Frag) (a : SArgI),
    (Clear s x (plain []) → Goes s x .nop s ∧
      ((s.coreOf x.core).dim = false →
        Goes s x .yield (s.setBeam (x.b.setEntry x.e { x.entry with yielded := some s.clock }))) ∧
      ((s.coreOf x.core).dim = true → Goes s x .yield s)) ∧
    (Clear s x (plain (SArgI.uses 1 a)) →
      let n := x.svalI .n64 a
      (Fmt.isAbsent .n64 n = true ∨ n = 0 → Goes s x (.delay a) s) ∧
      (Fmt.isAbsent .n64 n = false → n ≠ 0 →
        ∃ t w, exec (.delay a) s = .next t ∧
          t = s.setBeam (x.b.setEntry x.e { x.entry with pc := x.next, carry := none, wait := some w }) ∧
          w.kind = .delay ∧ w.rem = some (min n 4096))) ∧
    (∀ (k : BeamKey) (e : Nat) (b : Beam) (w : Wait), s.beam? k = some b → (b.entry e).wait = some w → w.kind = .delay →
      w.rem = some 0 →
      exec (.delayExpiry k e) s = .next (s.setBeam (b.setEntry e { b.entry e with wait := none, since := s.clock }))) ∧
    (∀ (k : BeamKey) (e : Nat) (b : Beam), s.beam? k = some b → (b.entry e).st = .run → 64 ≤ (b.entry e).passed →
      (b.entry e).promoted = false →
      exec (.agingPromotion k e) s = .next (s.setBeam (b.setEntry e { b.entry e with promoted := true })))

/-! ### Traps -/

/-- R151, R406, R409, R410, R126, R129, R162: BRK and TRAP take their exceptions: outside trap mode, with no answer
owed to the beam and a HANDLER that can be entered, the fragment goes on at HANDLER at PL1 over the lanes that it had,
epc is the instruction's own address, tcause is DEBUG code 1 for BRK and SOFTWARE with the instruction's code for
TRAP, tlanes are the active lanes, and BRK's tag is the first detail word; memory is as before. ERET, TLBINV, CTXSV,
CTXLD, PGSET and FWCALL, which only PL1 may run, trap PRIV code 1 at PL0, with the operation as detail; a SETS of a
special register that only PL1 may write traps PRIV code 2. -/
def Obligations.SoftwareAndPrivilegeTraps : Prop :=
  (∀ (s : State) (x : Frag) (c : Context) (n : BitVec 16), Clear s x (plain []) → s.contextOf x.b = some c →
    let took := fun (i : Instr) (cause detail : Nat) =>
      ∃ t b, exec i s = .next t ∧ t.beam? x.b.key = some b ∧ b.pl = true ∧ b.trap.isSome = true ∧ b.epc = x.pc ∧
        b.tcause = BitVec.ofNat 32 cause ∧ b.tlanes = x.mask &&& fullMask x.w ∧ b.tdetx = BitVec.ofNat 32 detail ∧
        b.tdety = 0 ∧ b.tdetz = 0 ∧ (b.entry x.e).st = .run ∧ (b.entry x.e).pc = c.handler ∧ (b.entry x.e).mask = x.mask ∧
        (b.entry x.e).blk = none ∧ t.mem = s.mem
    (x.b.trap = none → s.owed x.b.key = false → x.e < x.b.split.length →
      s.headerIs x.core c c.handler (fun w => !headerK w && !headerG w) = true →
      took (.brk n) (0x1000F) n.toNat ∧ took (.trap n) (n.toNat * 2 ^ 16 + 16) 0) ∧
    Traps s x (.brk n) (Trap.simple gDEBUG 1 n.toNat) ∧ Traps s x (.trap n) (Trap.simple gSOFTWARE n.toNat 0)) ∧
  (∀ (s : State) (x : Frag) (skip : Bool) (sp d r r' : Reg) (a : SetSrc) (sc : Scope) (page : Option Reg) (lvl : BitVec 2)
    (fn : BitVec 6), s.frag = some x → x.pending = none → x.b.pl = false →
    Traps s x (.eret skip) (Trap.simple gPRIV 1 x.op) ∧ Traps s x (.tlbinv sc page) (Trap.simple gPRIV 1 x.op) ∧
    Traps s x (.ctxsv r) (Trap.simple gPRIV 1 x.op) ∧ Traps s x (.ctxld r) (Trap.simple gPRIV 1 x.op) ∧
    Traps s x (.pgset d r r' lvl) (Trap.simple gPRIV 1 x.op) ∧ Traps s x (.fwcall d r fn) (Trap.simple gPRIV 1 x.op) ∧
    (spPriv sp.toNat = true → Traps s x (.sets sp a) { Trap.simple gPRIV 2 x.op with y := sp.toNat }))

/-- R79, R406, R407, R73, R318: Taking a trap, with no result owed by another agent. Every result on its way to the
beam arrives; the fragment goes on at HANDLER with PL 1, its block left, over the lanes that it had; every other run
entry is held; epc, tcause, tlanes and the detail words are written. The banked s56 to s63 read tcause, epc, tlanes,
the detail words, the trapped entry's index with bit 4 where it owns records, and the absent code twice; v240 to v255
read all ones in every lane; every other register reads as the landed results leave it. A trap in trap mode, or a
HANDLER that is not a header with K and G clear, faults the kernel, which leaves none of its beams. -/
def Obligations.TrapEntryAndDoubleTrap : Prop :=
  (∀ (s : State) (b : Beam) (c : Context) (e pc words : Nat) (tr : Trap),
    s.beam? b.key = some b → s.contextOf b = some c → b.trap = none → s.owed b.key = false → e < b.split.length →
    s.headerIs b.key.core c c.handler (fun w => !headerK w && !headerG w) = true →
    ∃ b', (s.trapEntry b.key e pc words tr).beam? b.key = some b' ∧ b'.pl = true ∧ b'.trap.isSome = true ∧ b'.epc = pc ∧
      b'.tcause = BitVec.ofNat 32 (tr.code % 2 ^ 16 * 2 ^ 16 + tr.group % 32) ∧
      b'.tlanes = (tr.lanes.getD (b.entry e).mask) &&& fullMask b.w ∧
      b'.tdetx = BitVec.ofNat 32 tr.x ∧ b'.tdety = BitVec.ofNat 32 tr.y ∧ b'.tdetz = BitVec.ofNat 32 tr.z ∧
      (b'.entry e).st = .run ∧ (b'.entry e).pc = c.handler ∧ (b'.entry e).mask = (b.entry e).mask ∧
      (b'.entry e).blk = none ∧
      (∀ j, j ≠ e → (b.entry j).st = .run → b'.entry j = { b.entry j with st := .held }) ∧
      (∀ j, j ≠ e → (b.entry j).st ≠ .run → b'.entry j = b.entry j) ∧
      (s.trapEntry b.key e pc words tr).fills = s.fills.filter (fun f => f.beam != b.key) ∧
      (s.trapEntry b.key e pc words tr).mem = s.mem ∧
      (let lanes := (tr.lanes.getD (b.entry e).mask) &&& fullMask b.w
       let own := b.dstack.any fun r => r.owner == e
       b'.sreg 56 = BitVec.ofNat 64 (tr.code % 2 ^ 16 * 2 ^ 16 + tr.group % 32) ∧ b'.sreg 57 = BitVec.ofNat 64 pc ∧
       b'.sreg 58 = lanes ∧ b'.sreg 59 = BitVec.ofNat 64 (tr.y % 2 ^ 32 * 2 ^ 32 + tr.x % 2 ^ 32) ∧
       b'.sreg 60 = BitVec.ofNat 64 (tr.z % 2 ^ 32) ∧ b'.sreg 61 = BitVec.ofNat 64 (e % 8 + if own then 16 else 0) ∧
       b'.sreg 62 = BitVec.ofNat 64 (Fmt.absent .n64) ∧ b'.sreg 63 = BitVec.ofNat 64 (Fmt.absent .n64) ∧
       (∀ r i, 240 ≤ r → r < 256 → i < b.w → b'.vl r i = 0xFFFFFFFF) ∧
       ∃ l, (s.landAll b.key).beam? b.key = some l ∧ (∀ r, r < 56 → b'.sreg r = l.sreg r) ∧
         (∀ r i, r < 240 → b'.vl r i = l.vl r i) ∧ b'.c = l.c ∧ b'.k = l.k ∧ b'.tiles = l.tiles ∧ b'.status = l.status)) ∧
  (∀ (s : State) (b : Beam) (c : Context) (k : Kernel) (e pc words : Nat) (tr : Trap),
    s.beam? b.key = some b → s.contextOf b = some c → s.kernel? b.cohort.kernel = some k →
    k.st ≠ .faulted → k.st ≠ .completed →
    (b.trap.isSome = true ∨
      (s.owed b.key = false ∧ s.headerIs b.key.core c c.handler (fun w => !headerK w && !headerG w) = false)) →
    s.trapEntry b.key e pc words tr = s.kernelFault b.cohort.kernel (some 2) ∧
    ((s.trapEntry b.key e pc words tr).kernel? b.cohort.kernel).map (·.st) = some .faulted ∧
    ∀ y ∈ (s.trapEntry b.key e pc words tr).beams, y.cohort.kernel ≠ b.cohort.kernel)

/-- R152, R85, R83, R148, R347, R270: ERET. In trap mode the trap ends: PL is 0, the trapped fragment goes on at epc,
or behind the trapped instruction if S asks for it and the handler left epc as it was; every held entry runs; the
registers that trap mode does not bank are as they were. A beam is at PL1 in trap mode only, and at PL0 ERET traps
PRIV (R129, R317); in a state with PL 1 outside trap mode, which no run reaches, it has no effect and goes on behind
itself. EXIT retires the active lanes. A beam that keeps a live lane goes on with its other fragments; a beam without
one is gone while another beam of its cohort lives, and, the cohort's last, stays without a fragment until the cohort
retires. In trap mode the handler's lanes exit; with the last trapped lane trap mode ends, and the held entries run. A
glint's EXIT traps CONVERGENCE 2 outside trap mode and loses the glint in it. That the cohort's last beam stays as
retiring is read from R347 (log entry 54). -/
def Obligations.EretAndExit : Prop :=
  (∀ (s : State) (x : Frag) (skip : Bool), Clear s x { priv := true, noGlint := false, uses := [] } →
    (x.b.trap = none → Goes s x (.eret skip) s) ∧
    (x.b.trap.isSome = true → (s.coreOf x.core).trace.br = false → ∃ t b, exec (.eret skip) s = .next t ∧
      t.beam? x.b.key = some b ∧ b.trap = none ∧ b.pl = false ∧ t.mem = s.mem) ∧
    (∀ tm, x.b.trap = some tm → tm.loaded = none → (s.coreOf x.core).trace.br = false → x.b.entriesIn .join = [] →
      tm.entry < x.b.split.length → tm.held.st = .held →
      ∃ t b, exec (.eret skip) s = .next t ∧ t.mem = s.mem ∧ t.beam? x.b.key = some b ∧ b.trap = none ∧ b.pl = false ∧
        b.v = x.b.v ∧ b.s = x.b.s ∧ b.c = x.b.c ∧ b.k = x.b.k ∧ b.status = x.b.status ∧
        (b.entry tm.entry).st = .run ∧ (b.entry tm.entry).mask = tm.held.mask &&& ~~~x.b.exited ∧
        (b.entry tm.entry).pc = (if skip = true ∧ x.b.epc = tm.epc then x.b.epc + 4 * tm.words else x.b.epc) ∧
        (∀ j, j ≠ tm.entry → j ∈ tm.users → (x.b.entry j).st = .held →
          (b.entry j).st = .run ∧ (b.entry j).pc = (x.b.entry j).pc))) ∧
  (∀ (s : State) (x : Frag), Clear s x (plain []) → (s.coreOf x.core).trace.br = false →
    let kept := x.b.live &&& ~~~x.mask ≠ 0
    let others := fun t : State => ∀ k y, k ≠ x.b.key → s.beam? k = some y → y.glint = none → t.beam? k = some y
    (x.b.trap = none → x.b.glint = none →
      (kept → ∃ t b, exec .exit s = .next t ∧ t.mem = s.mem ∧ t.beam? x.b.key = some b ∧ b.exited = x.b.exited ||| x.mask ∧
        b.v = x.b.v ∧ b.s = x.b.s ∧ b.c = x.b.c ∧ b.k = x.b.k ∧ b.status = x.b.status ∧ others t) ∧
      (¬kept → (∃ y ∈ s.liveBeams x.b.cohort, y.key ≠ x.b.key) →
        ∃ t, exec .exit s = .next t ∧ t.mem = s.mem ∧ t.beam? x.b.key = none ∧ others t) ∧
      (¬kept → (∀ y ∈ s.liveBeams x.b.cohort, y.key = x.b.key) →
        ∃ t b, exec .exit s = .next t ∧ t.mem = s.mem ∧ t.beam? x.b.key = some b ∧ b.retiring = true ∧ b.live = 0 ∧ others t)) ∧
    (x.b.trap.isSome = true → x.b.glint = none → kept →
      ∃ t b, exec .exit s = .next t ∧ t.mem = s.mem ∧ t.beam? x.b.key = some b ∧ b.exited = x.b.exited ||| x.mask ∧ others t) ∧
    (∀ tm, x.b.trap = some tm → x.b.glint = none → kept → tm.held.mask &&& ~~~(x.b.exited ||| x.mask) = 0 →
      ∃ t b, exec .exit s = .next t ∧ t.beam? x.b.key = some b ∧ b.trap = none ∧ b.pl = false ∧
        (tm.loaded = none → x.b.entriesIn .join = [] → ∀ j, j ≠ tm.entry → j ∈ tm.users → (x.b.entry j).st = .held →
          (b.entry j).st = .run ∧ (b.entry j).pc = (x.b.entry j).pc)) ∧
    (∀ g, x.b.glint = some g →
      (x.b.trap = none → Traps s x .exit (x.glintTrap 2)) ∧
      (x.b.trap.isSome = true → exec .exit s = .next (s.glintLost x.b.key g))))

/-! ### Special registers, groups and width changes -/

/-- R42, R162, R163, R165, R164: GETS puts the special register into sD under R86, or into the active lanes of vD (the
pair for a 64-bit one): a lane's own value for a lane-scope register, the leading lane's for any other; nothing else
changes. A read of `status` waits while a matrix instruction of the beam still owes its flags. Every register of the
table has the value that the table gives it. SETS writes a special register and goes on: of a converged beam the write
is made and its reserved bits are ignored. `f` are the raw bits of the source in each lane. A write of `status` waits
while a matrix instruction of the beam still owes its flags. That `cpack` and `kpack` give a stored 0b11 as it is, is
the model's choice (log entry 64). -/
def Obligations.SpecialRegisters : Prop :=
  (∀ (r sp : Reg) (s : State) (x : Frag), x.b.shaped = true →
    (Clear s x (plain (dstS r)) →
      (s.flagsOwed x sp.toNat = false → Completes s x (.gets (.s r) sp)
        { s := [(r.toNat, BitVec.ofNat 64 (spValue s x sp.toNat x.lead))] }) ∧
      (s.flagsOwed x sp.toNat = true → exec (.gets (.s r) sp) s = .next s)) ∧
    (Clear s x (plain (regUses .v r (spWide sp.toNat) 0 true false)) →
      (s.flagsOwed x sp.toNat = false → Completes s x (.gets (.v r) sp)
        { v := wordsOf (spWide sp.toNat) r fun i => spValue s x sp.toNat (if spLane sp.toNat then i else x.lead) }) ∧
      (s.flagsOwed x sp.toNat = true → exec (.gets (.v r) sp) s = .next s)) ∧
    (s.flagsOwed x sp.toNat = true ↔ sp = 0x0B ∧ ∃ m ∈ s.mmas, m.beam = x.b.key) ∧
    ∀ i : Nat,
      spValue s x 0x00 i = i ∧ spValue s x 0x01 i = x.b.laneg.getD i 0 ∧ spValue s x 0x02 i = x.b.w ∧
      spValue s x 0x03 i = x.b.id ∧ spValue s x 0x04 i = x.b.cohort.index ∧ spValue s x 0x05 i = x.b.key.core ∧
      spValue s x 0x08 i = x.b.cohort.kernel ∧ spValue s x 0x0A i = s.clock % 2 ^ 64 ∧
      spValue s x 0x0B i = x.b.status.toNat ∧ spValue s x 0x0C i = x.b.ctl.toNat ∧
      spValue s x 0x0F i = (if x.b.pl then 1 else 0) ∧ spValue s x 0x20 i = x.b.epc ∧
      spValue s x 0x21 i = x.b.tcause.toNat ∧ spValue s x 0x22 i = x.b.tlanes.toNat ∧
      spValue s x 0x23 i = x.b.tdetx.toNat ∧ spValue s x 0x24 i = x.b.tdety.toNat ∧ spValue s x 0x25 i = x.b.tdetz.toNat ∧
      spValue s x 0x06 i = quadOf x.b.key.slot ∧ spValue s x 0x07 i = dieOf x.b.key.core ∧
      (∀ k, s.kernelOf x.b = some k → spValue s x 0x09 i = k.seq ∧ spValue s x 0x19 i = k.launch.args.toNat ∧
        spValue s x 0x1A i = k.launch.cohorts) ∧
      (∀ n, n < 16 → spValue s x 0x0D i / 4 ^ n % 4 = if n < x.b.nc then (x.b.cl n i).toNat else 0) ∧
      (∀ n, n < 8 → spValue s x 0x0E i / 4 ^ n % 4 = (x.b.kreg n).toNat) ∧
      (∀ ch c, ch < 8 → s.cohort? x.b.cohort = some c →
        spValue s x (0x10 + ch) i = ((s.coreOf x.core).wp.getD ch 0 + c.bias.getD ch 0).toNat) ∧
      (∀ k, x.entry.blk = some k → spValue s x 0x18 i = k.hdr + 8 + 4 * k.len) ∧
      (∀ c, s.contextOf x.b = some c → spValue s x 0x30 i = c.fusewin)) ∧
  (∀ (s : State) (x : Frag) (sp : Reg) (a : SetSrc),
    Clear s x { priv := false, privSp := if spPriv sp.toNat then some sp.toNat else none, noGlint := false
                uses := SetSrc.uses' (spWide sp.toNat) a } →
    (s.flagsOwed x sp.toNat = true → exec (.sets sp a) s = .next s) ∧
    (s.flagsOwed x sp.toNat = false →
    let f := x.setSrc (spWide sp.toNat) a
    let w := f x.lead
    let w32 : BitVec 32 := BitVec.ofNat 32 w
    let puts := fun b : Beam => Goes s x (.sets sp a) (s.setBeam b)
    (sp = 0x0D → puts (x.b.putCpack x.mask f)) ∧
    (sp = 0x30 → ∀ c, s.contextOf x.b = some c → Goes s x (.sets sp a) (s.setContext { c with fusewin := w % 2 ^ 32 })) ∧
    (sp ≠ 0x0D → sp ≠ 0x30 → puts (x.b.putSpecial x.lead sp.toNat w)) ∧
    (x.b.converged = true →
      (sp = 0x0B → puts { x.b with status := w32 &&& 7 }) ∧ (sp = 0x0C → puts { x.b with ctl := w32 &&& 1 }) ∧
      (sp = 0x20 → puts { x.b with epc := w % 2 ^ 56 }) ∧ (sp = 0x21 → puts { x.b with tcause := w32 &&& 0xFFFF001F }) ∧
      (sp = 0x22 → puts { x.b with tlanes := BitVec.ofNat 64 w &&& fullMask x.b.w }) ∧
      (sp = 0x23 → puts { x.b with tdetx := w32 }) ∧ (sp = 0x24 → puts { x.b with tdety := w32 }) ∧
      (sp = 0x25 → puts { x.b with tdetz := w32 }) ∧
      (sp = 0x0E → puts { x.b with k := (List.range 8).map fun n => BitVec.ofNat 2 (w / 4 ^ n) }))))

/-- R157, R158, R159, R358: GNEW makes the lowest free entry of the kernel's table a live group whose only member is
the beam and returns its handle; GJOIN adds the beam, GLEAVE takes it out; the codes of the failures; nothing else
changes. -/
def Obligations.GroupResults : Prop :=
  ∀ (s : State) (x : Frag) (d a : Reg) (k : Kernel),
    let none_ : Guard := { priv := false, noGlint := true, uses := dstS d }
    let one : Guard := { priv := false, noGlint := true, uses := dstS d ++ regUses .s a false 1 false false }
    let ends := fun (i : Instr) (s' : State) (c : Nat) => Goes s x i (s'.setBeam (x.putS d c))
    let h := (x.b.sreg a.toNat).toNat
    s.kernelOf x.b = some k →
    (Clear s x none_ →
      (∀ i, ((List.range 1024).find? fun i => (k.group i).st == .free) = some i →
        (x.b.converged = false ∨ 16384 ≤ s.liveGroups → ends (.gnew d) s (Fmt.absent .n64)) ∧
        (x.b.converged = true → s.liveGroups < 16384 →
          ends (.gnew d)
            (s.setKernel (k.setGroup { k.group i with st := .live, members := [x.b.member] }))
            (i + (k.group i).gen * 2 ^ 16))) ∧
      (((List.range 1024).find? fun i => (k.group i).st == .free) = none → ends (.gnew d) s (Fmt.absent .n64))) ∧
    (Clear s x one →
      (x.b.converged = false → ends (.gjoin d a) s 0x104 ∧ ends (.gleave d a) s 0x104) ∧
      (x.b.converged = true → k.named h = none → ends (.gjoin d a) s 0x101 ∧ ends (.gleave d a) s 0x101) ∧
      (x.b.converged = true → ∀ g, k.named h = some g →
        (x.b.member ∈ g.members → ends (.gjoin d a) s 0x102 ∧
          ends (.gleave d a) (s.setKernel (k.setGroup (g.leave x.b.member))) 0 ∧
          ((∀ y ∈ g.members, y = x.b.member) → (k.setGroup (g.leave x.b.member)).named h = none)) ∧
        (x.b.member ∉ g.members → ends (.gleave d a) s 0x105 ∧
          (4095 ≤ g.members.length → ends (.gjoin d a) s 0x103) ∧
          (g.members.length < 4095 →
            ends (.gjoin d a) (s.setKernel (k.setGroup { g with members := g.members ++ [x.b.member] })) 0))))

/-- R92, R93, R94, R95: BSPLIT halves a converged beam of 16 lanes or more that has no result on its way: the lower
half keeps the slot, with 0 in sD, the upper half is a new beam in a free slot of the quadrant, with 1 in sD; the
halves hold the lanes' registers. Which free slot it is, is open (log entry 53). The failure codes of BSPLIT and BFUSE
leave everything but sD as it was; a BFUSE that finds its buddy not yet waiting waits for FUSEWIN cycles, and
FUSE_WINDOW_EXPIRY ends it with 0x109 unless the beam has stopped there for an eviction (R416). A pair that meets
fails with 3 at different addresses, else with 5 with other registers declared or tiles in the upper beam, else with 6
in other groups: both beams then go on behind their BFUSE, each with 0x100 + code in its sD. -/
def Obligations.SplitHalvesAndWidthFailures : Prop :=
  (∀ (s : State) (x : Frag) (d : Reg) (k : Kernel),
    Clear s x { priv := false, noGlint := true, uses := dstS d } → x.b.shaped = true →
    x.b.converged = true → 16 ≤ x.w → s.pending x.b = false → s.freeSlots x.b.cohort x.core (quadOf x.b.key.slot) ≠ [] →
    (s.liveBeams x.b.cohort).length < 64 → s.kernelOf x.b = some k → x.b.exited = 0 →
    ∃ slot t lower upper, slot ∈ s.freeSlots x.b.cohort x.core (quadOf x.b.key.slot) ∧ exec (.bsplit d) s = .next t ∧ t.mem = s.mem ∧
      t.beam? x.b.key = some lower ∧ t.beam? ⟨x.core, slot⟩ = some upper ∧
      lower.w = x.w / 2 ∧ upper.w = x.w / 2 ∧ lower.cohort = x.b.cohort ∧ upper.cohort = x.b.cohort ∧
      lower.sreg d.toNat = 0 ∧ upper.sreg d.toNat = 1 ∧
      (∀ r, r ≠ d.toNat → lower.sreg r = x.b.sreg r ∧ upper.sreg r = x.b.sreg r) ∧
      (∀ r i, i < x.w / 2 → lower.vl r i = x.b.vl r i ∧ upper.vl r i = x.b.vl r (x.w / 2 + i)) ∧
      (lower.entry x.e).pc = x.next ∧ (upper.entry x.e).pc = x.next ∧
      ∀ q, q ≠ x.b.key → q ≠ ⟨x.core, slot⟩ → t.beam? q = s.beam? q) ∧
  (∀ (s : State) (x : Frag) (d : Reg), Clear s x { priv := false, noGlint := true, uses := dstS d } →
    let split := fun c : Nat => Goes s x (.bsplit d) (s.setBeam (x.putS d (0x100 + c)))
    let fuse := fun c : Nat => Goes s x (.bfuse d) (s.setBeam (x.putS d (0x100 + c)))
    (x.b.converged = false → split 1) ∧
    (x.b.converged = true → x.w < 16 → split 3) ∧
    (x.b.converged = true → 16 ≤ x.w → s.pending x.b = true → split 4) ∧
    (x.b.converged = true → 16 ≤ x.w → s.pending x.b = false →
      (s.freeSlots x.b.cohort x.core (quadOf x.b.key.slot) = [] ∨ 64 ≤ (s.liveBeams x.b.cohort).length) → split 2) ∧
    (x.entry.wait = none → x.w = 64 → fuse 8) ∧
    (x.entry.wait = none → x.w ≠ 64 → x.b.converged = false → fuse 4) ∧
    (x.entry.wait = none → x.w ≠ 64 → x.b.converged = true → s.pending x.b = true → fuse 7) ∧
    (x.entry.wait = none → x.w ≠ 64 → x.b.converged = true → s.pending x.b = false →
      (∀ c, s.buddy x.b = .error c → fuse c) ∧
      (∀ y c, s.buddy x.b = .ok y → y.fusing = none → s.contextOf x.b = some c → x.entry.carry = none →
        (c.fusewin = 0 → fuse 9) ∧
        (c.fusewin ≠ 0 → ∃ w, w.kind = .bfuse ∧ w.ins = .bfuse d ∧ w.rem = some c.fusewin ∧
          exec (.bfuse d) s = .next (s.setBeam (x.b.setEntry x.e { x.entry with wait := some w, carry := none }))))) ∧
    (∀ (k : BeamKey) (b : Beam) (e : Nat) (r : Reg) (w : Wait), s.beam? k = some b → b.fusing = some (e, r, w) →
      w.rem = some 0 →
      exec (.fuseWindowExpiry k) s =
        .next (if s.stopped b e then s
          else s.setBeam ((b.putS (leadOf (b.entry e).mask) r.toNat 0x109).advance e ((b.entry e).pc + 4 * w.words)))) ∧
    (∀ (pcs : Nat × Nat) (lower upper : Beam),
      let shape := fun b : Beam => (b.nv, b.ns, b.nc)
      (pcs.1 ≠ pcs.2 → s.pairFault pcs lower upper = some 3) ∧
      (pcs.1 = pcs.2 → shape lower ≠ shape upper ∨ 0 < upper.na → s.pairFault pcs lower upper = some 5) ∧
      (pcs.1 = pcs.2 → shape lower = shape upper → upper.na = 0 →
        s.pairFault pcs lower upper = if s.groupsOf lower = s.groupsOf upper then none else some 6)) ∧
    (∀ (y : Beam) (ye : Nat) (yd : Reg) (yw : Wait) (c : Nat),
      let lower := if x.b.coloff < y.coloff then x.b else y
      let upper := if x.b.coloff < y.coloff then y else x.b
      x.w ≠ 64 → x.b.converged = true → s.pending x.b = false → s.buddy x.b = .ok y → s.beam? y.key = some y →
      y.fusing = some (ye, yd, yw) → x.b.shaped = true → y.shaped = true → y.converged = true → yd.toNat < y.ns →
      s.pairFault (x.pc, (y.entry ye).pc) lower upper = some c →
      ∃ t b b', exec (.bfuse d) s = .next t ∧ { t with beams := s.beams } = s ∧
        t.beam? x.b.key = some b ∧ t.beam? y.key = some b' ∧
        (∀ r, b.sreg r = if r = d.toNat then BitVec.ofNat 64 (0x100 + c) else x.b.sreg r) ∧
        (∀ r, b'.sreg r = if r = yd.toNat then BitVec.ofNat 64 (0x100 + c) else y.sreg r) ∧
        b.v = x.b.v ∧ b'.v = y.v ∧ (b.entry x.e).pc = x.next ∧ (b'.entry ye).pc = (y.entry ye).pc + 4 * yw.words))

/-- R95: Two buddies that wait at the same BFUSE with registers of the same shape and the same groups become one beam
of twice the width in the lower one's slot: its lanes are the lower beam's and then the upper's, sD is 0 and the flags
are those of both. -/
def Obligations.FuseJoins : Prop :=
  ∀ (s : State) (x : Frag) (d yd : Reg) (y : Beam) (ye : Nat) (yw : Wait),
    Clear s x { priv := false, noGlint := true, uses := dstS d } → x.b.shaped = true → y.shaped = true →
    x.w ≠ 64 → x.b.converged = true → s.pending x.b = false → s.buddy x.b = .ok y → y.fusing = some (ye, yd, yw) →
    x.b.coloff < y.coloff → s.pairFault (x.pc, (y.entry ye).pc) x.b y = none →
    ∃ t b, exec (.bfuse d) s = .next t ∧ t.mem = s.mem ∧ t.beam? x.b.key = some b ∧ t.beam? y.key = none ∧
      b.w = 2 * x.w ∧ b.laneg = x.b.laneg ++ y.laneg ∧ b.sreg d.toNat = 0 ∧
      (∀ r, r ≠ d.toNat → b.sreg r = x.b.sreg r) ∧ b.status = x.b.status ||| y.status ∧
      (∀ r i, r < x.b.nv → i < x.w → b.vl r i = x.b.vl r i ∧ b.vl r (x.w + i) = y.vl r i) ∧
      (b.entry x.e).pc = x.next

/-! ### Memory -/

/-- R227, R229, R230, R78, R228, R231, R298: A load whose checks pass completes: what its accesses leave in the TLBs,
the page table and the L1 is noted, an acquire drops the L1's lines and takes what copies have delivered to the
window, its destination is empty with the values that the lanes read on their way to it, which a copy into the window
may still change byte by byte (R102), and access tracing gets its packet; nothing else changes. A store whose checks
pass completes: the lanes store in ascending order, a narrowed scalar raises its flags, and tracing gets its packets;
nothing else changes. A store-release waits while an earlier access of the beam has not been performed at its scope.
That a store is in memory at once and a load is read at its issue, and which earlier accesses a release waits for, are
the model's choice (log entry 4); when a load's result arrives is that of log entry 11. -/
def Obligations.LoadsAndStoresComplete : Prop :=
  (∀ (s : State) (x : Frag) (sp : Bool) (sc : Scope) (t : Ty) (d : Reg) (m : MemArg),
    let goes := fun (i : Instr) (sp acq : Bool) =>
      let k := loadAcc t sp sc (MemArg.uniform m)
      let ls := x.present (x.addr sp m)
      Clear s x { priv := false, noGlint := false, uses := dstV t d ++ MemArg.uses sp m } → Passes s x k ls →
        Goes s x i ((((s.notes x k ls).acquire x acq sc).sendV x t d (s.loadVals x k t ls) (s.loadReady x k ls)
          (s.taking x k t ls)).memrec x k ls)
    goes (.ld sc t d m) false false ∧ goes (.lds sc t d m) true false ∧ goes (.lda sp sc t d m) sp true ∧
    (let k := loadAcc t sp sc true
     let ls := x.single sp m
     Clear s x { priv := false, noGlint := false, uses := dstS d ++ MemArg.uses sp m } → Passes s x k ls →
       Goes s x (.ldu sp sc t d m)
         (((s.notes x k ls).sendS x t d (s.loadVals x k t ls x.lead) (s.loadReady x k ls) (s.taking x k t ls)).memrec x k ls))) ∧
  (∀ (s : State) (x : Frag) (sp : Bool) (sc : Scope) (t : Ty) (src : StSrc) (d : Reg) (m : MemArg),
    let put := fun (k : Acc) (ls : List (Nat × Int)) (v : (Nat → Nat) × Flags) =>
      ((s.storeAll x k v.1 ls).raise x.b.key v.2).memrec x k ls
    let goes := fun (i : Instr) (sp : Bool) =>
      let k := storeAcc t sp sc (MemArg.uniform m)
      let ls := x.present (x.addr sp m)
      Clear s x { priv := false, noGlint := false, uses := StSrc.uses t src ++ MemArg.uses sp m } → Passes s x k ls →
        Goes s x i (put k ls (x.data t src))
    goes (.st sc t src m) false ∧ goes (.sts sc t src m) true ∧
    (s.unperformed x sc = false → goes (.stl sp sc t src m) sp) ∧
    (s.unperformed x sc = true →
      Clear s x { priv := false, noGlint := false, uses := StSrc.uses t src ++ MemArg.uses sp m } →
      exec (.stl sp sc t src m) s = .next s) ∧
    (let k := storeAcc t sp sc true
     let ls := x.single sp m
     Clear s x { priv := false, noGlint := false, uses := regUses .s d false 0 false false ++ MemArg.uses sp m } →
       Passes s x k ls → Goes s x (.stu sp sc t d m) (put k ls (x.data t (.s d)))))

/-- R62, R102, R220, R225, R305, R379: What a lane loads: Absent(t) where its address is absent; from the window the
window's own bytes, lowest first, or for each byte that a copy has overwritten since the beam's last acquire the older
one; from near or far memory, at scope .die and wider, memory's bytes at the translated address (of a page of far
memory behind the near cache, at scope .sys: R226, R314). A load reads when it issues, and which of the older bytes it
gives is open (log entries 4 and 5). An access of a global address whose translation is walked notes A, and for a
store to a page that may be written D, in its leaf entry: every byte of memory outside the entry is as before, and no
register of a beam changes. An atomic notes D with its write. -/
def Obligations.LoadValues : Prop :=
  (∀ (s : State) (x : Frag) (k : Acc) (t : Ty) (ls : List (Nat × Int)) (i : Nat) (a : Int),
    ((∀ l ∈ ls, l.1 ≠ i) → s.loadVals x k t ls i = Ty.absent t) ∧
    (ls.find? (fun l => l.1 == i) = some (i, a) →
      (∀ c, k.spad = true → s.cohort? x.b.cohort = some c →
        (x.b.behind = [] ∨ k.acc ≠ .read ∨ k.atomic = true → s.loadVals x k t ls i = leNat (c.bytes a.toNat k.n)) ∧
        ∃ f : Nat → Byte, s.loadVals x k t ls i = leNat ((List.range k.n).map f) ∧
          ∀ j, j < k.n → f j = c.byte (a.toNat + j) ∨ cellAt (a.toNat + j) x.b.behind = some (f j)) ∧
      (∀ c pa tier leaf at_ large, k.spad = false → s.contextOf x.b = some c →
        s.xlate (.beam x.core) k.acc.writes c a.toNat = .page pa tier leaf at_ large → regPageOf pa = none →
        k.wide = true → k.sys = true ∨ tier ≠ 2 → s.loadVals x k t ls i = s.readNat pa k.n))) ∧
  (∀ (s : State) (x : Frag) (k : Acc) (a : Nat) (c : Context) (pa tier leaf at_ : Nat) (large : Bool),
    k.spad = false → s.contextOf x.b = some c →
    s.xlate (.beam x.core) k.acc.writes c a = .page pa tier leaf at_ large →
    let t := s.laneNote x k a
    t.beams = s.beams ∧ t.cohorts = s.cohorts ∧ t.fills = s.fills ∧ (∀ p, p < at_ ∨ at_ + 8 ≤ p → t.mem.read p = s.mem.read p) ∧
    ((∃ w, s.leafFrom (.beam x.core) k.acc.writes c a = .walk w) → s.readNat at_ 8 = leaf →
      t.readNat at_ 8 = leafTouched leaf (k.acc == .write && !pteAP leaf)))

/-- R78, R412, R413: A result on its way leaves its destination empty and nothing else of the beam changed: a vector
result its one or two registers, in the lanes of the fragment. REGISTER_FILL: in the lanes that have not exited the
destination holds the value, it is full, and the result is no longer on its way. Data with an uncorrectable error is
absent in the failed lanes, and a HWERR of code 3 is pending on the beam. Which fragment takes a hardware error is the
model's choice (log entry 62). When a result arrives is the model's choice (log entry 11). -/
def Obligations.ResultsArrive : Prop :=
  (∀ (s : State) (b : Beam) (e pc r : Nat) (ready : Arrival) (m : Mask) (vals : List (List Word)) (ab : Word × Word)
    (src : FillSrc) (take : Option LoadTake),
    s.beam? b.key = some b → b.trap = none → b.nv ≤ b.vfull.length → r + vals.length ≤ b.nv →
    let u := s.pendV b e pc r m vals ab src ready take
    ∃ b', u.beam? b.key = some b' ∧
      { b' with vfull := b.vfull } = b ∧
      (∀ q, b'.vfullAt q = (decide (q < r ∨ r + vals.length ≤ q) && b.vfullAt q)) ∧
      { u with beams := s.beams, fills := s.fills } = s ∧
      u.fills = s.fills ++
        [{ beam := b.key, entry := e, mask := (b.entry e).mask, pc := pc, dst := .v r m vals false, absent := ab, src := src
           ready := ready.ready, units := ready.units, down := ready.down, take := take }]) ∧
  (∀ (s : State) (k : BeamKey) (n : Nat) (err : Mask) (b : Beam) (f : Fill), s.beam? k = some b → b.trap = none →
    s.fills[n]? = some f → f.beam = k → f.ready ≤ s.clock →
    (err = 0 → f.down = 0 →
      ∃ t, exec (.registerFill k n err) s = .next t ∧ t.mem = s.mem ∧ t.fills = s.fills.eraseIdx n ∧
        (∀ q, q ≠ k → t.beam? q = s.beam? q) ∧
        (∀ r m vals, f.dst = .v r m [vals] false → r < b.v.length → r < b.vfull.length →
          ∃ b', t.beam? k = some b' ∧ b'.vfullAt r = true ∧
            ∀ i, i < b.w → b'.vl r i = if m.getLsbD i && !b.exited.getLsbD i then vals.getD i 0 else b.vl r i) ∧
        (∀ r v, f.dst = .s r v false false → r < b.s.length → r < b.sfull.length →
          ∃ b', t.beam? k = some b' ∧ b'.sfullAt r = true ∧ b'.sreg r = v)) ∧
    (∀ r m vals, f.dst = .v r m [vals] false → f.src = .memory → f.down = 0 → b.pend = none →
      err &&& fullMask b.w &&& m ≠ 0 → r < b.v.length →
      ∃ t b' p, exec (.registerFill k n err) s = .next t ∧ t.beam? k = some b' ∧ b'.pend = some p ∧
        p.cause = 3 * 2 ^ 16 + gHWERR ∧ p.lanes = err &&& fullMask b.w &&& m ∧
        ∀ i, i < b.w → i < vals.length → (err &&& fullMask b.w &&& m &&& ~~~b.exited).getLsbD i = true →
          b'.vl r i = f.absent.1))

/-- R3, R228: One lane's store puts the low bytes of its value, lowest first, at its address: in the window at the
offset, in memory at the translated address; every other byte of both is as before, and so are the beams, but that no
beam of the cohort gives older bytes for the window's stored ones any more (R102). That it does so in the step that
issues it is the model's choice (log entry 4). -/
def Obligations.StoreWritesItsBytes : Prop :=
  ∀ (s : State) (x : Frag) (k : Acc) (a v : Nat),
    let t := s.laneWrite x k a (natLe k.n v)
    (∀ c, k.spad = true → s.cohort? x.b.cohort = some c →
      ∃ c', t.cohort? x.b.cohort = some c' ∧ c'.nat a k.n = v % 256 ^ k.n ∧ t.mem = s.mem ∧
        t.beams.map (fun b => { b with behind := [] }) = s.beams.map (fun b => { b with behind := [] }) ∧
        ∀ o, o < a ∨ a + k.n ≤ o → c'.byte o = c.byte o) ∧
    (∀ c pa tier leaf at_ large, k.spad = false → k.acc ≠ .rmw → s.contextOf x.b = some c →
      s.xlate (.beam x.core) true c a = .page pa tier leaf at_ large → regPageOf pa = none →
      t.readNat pa k.n = v % 256 ^ k.n ∧ (∀ p, p < pa ∨ pa + k.n ≤ p → t.mem.read p = s.mem.read p) ∧
        t.cohorts = s.cohorts ∧ t.beams = s.beams)

/-- R221, R222, R410, R224: A misaligned address in any lane of a load, store or atomic, or of a uniform one, traps
MEM.ALIGN code 1, ahead of every other condition, with the misaligned lanes, of a uniform access all active ones, and
the lowest such lane's address; nothing has been accessed. A scratchpad address outside the window traps MEM.SPACE
code 1 and a store to a barrier's granule SYNC code 1, where no address is misaligned. -/
def Obligations.MemoryTraps : Prop :=
  (∀ (s : State) (x : Frag) (sp nr : Bool) (sc : Scope) (t : Ty) (d : Reg) (src : StSrc) (m : MemArg) (op : AtomOp) (o : AOrd)
    (a : VArg) (b : VArgI) (ua : SArg) (ub : SArgI) (i : Nat) (z : Int),
    let hit := fun ls : List (Nat × Int) => ls.filter fun l => l.2 % (Ty.size t : Int) != 0
    let tr := fun (k : Acc) (ls : List (Nat × Int)) =>
      Trap.addr gALIGN 1 (if k.uniform then none else some (maskOf ((hit ls).map (·.1)))) (z % 2 ^ 56).toNat (x.memZ k)
    let first := fun ls : List (Nat × Int) => (hit ls).head? = some (i, z)
    let uses := fun us : List Use => Clear s x { priv := false, noGlint := false, uses := us }
    let ls := x.present (x.addr sp m)
    let one := x.single sp m
    let load := tr (loadAcc t sp sc (MemArg.uniform m)) ls
    let store := tr (storeAcc t sp sc (MemArg.uniform m)) ls
    let atom := tr (atomAcc t sp sc (match a with | .s _ _ => true | .v _ _ _ => false)) (x.present (x.atomAddr sp a))
    (first ls → uses (dstV t d ++ MemArg.uses sp m) →
      Traps s x (if sp then .lds sc t d m else .ld sc t d m) load ∧ Traps s x (.lda sp sc t d m) load) ∧
    (first ls → uses (StSrc.uses t src ++ MemArg.uses sp m) →
      Traps s x (if sp then .sts sc t src m else .st sc t src m) store ∧
      (s.unperformed x sc = false → Traps s x (.stl sp sc t src m) store)) ∧
    (first one → uses (dstS d ++ MemArg.uses sp m) → Traps s x (.ldu sp sc t d m) (tr (loadAcc t sp sc true) one)) ∧
    (first one → uses (regUses .s d false 0 false false ++ MemArg.uses sp m) →
      Traps s x (.stu sp sc t d m) (tr (storeAcc t sp sc true) one)) ∧
    (first (x.present (x.atomAddr sp a)) → (AOrd.releases o && s.unperformed x sc) = false →
      uses ((if nr then [] else dstV t d) ++ atomUses sp a ++ VArgI.uses t.wide 2 b ++ casUses op t b) →
      Traps s x (if sp then .atoms op o nr sc t d a b else .atom op o nr sc t d a b) atom) ∧
    (first (x.single sp (.uni ua none)) → (AOrd.releases o && s.unperformed x sc) = false →
      uses (dstS d ++ SArg.uses 1 ua ++ SArgI.uses 2 ub ++ casUses op t (SArgI.toV ub)) →
      Traps s x (.atomu op o sp sc t d ua ub) (tr (atomAcc t sp sc true) (x.single sp (.uni ua none))))) ∧
  (∀ (s : State) (x : Frag) (sc : Scope) (t : Ty) (d : Reg) (a : SArg) (w : Option Word) (c : Cohort) (z : Int),
    let m := MemArg.uni a w
    s.cohort? x.b.cohort = some c → x.mask ≠ 0 → x.addr true m x.lead = some z → z % (Ty.size t : Int) = 0 →
    (Clear s x { priv := false, noGlint := false, uses := dstS d ++ MemArg.uses true m } →
      (z < 0 ∨ (c.wsize : Int) < z + Ty.size t) →
      Traps s x (.ldu true sc t d m)
        (Trap.addr gSPACE 1 none (z % 2 ^ 56).toNat (x.memZ (loadAcc t true sc true)))) ∧
    (Clear s x { priv := false, noGlint := false, uses := regUses .s d false 0 false false ++ MemArg.uses true m } →
      0 ≤ z → z + Ty.size t ≤ c.wsize → c.tagged z.toNat = true →
      Traps s x (.stu true sc t d m)
        (Trap.addr gSYNC 1 none (z % 2 ^ 56).toNat (x.memZ (storeAcc t true sc true)))))

/-- R232, R233, R234, R298, R305, R58, R59: An atomic whose checks pass completes: the lanes act one at a time in the
order of R231, each reading the old value, computing the new one by its operation and writing it where it differs; the
old values are on their way to the destination, none with NR; tracing gets its packets, flags are raised and an
acquire drops the L1's lines. A release waits while an earlier access of the beam has not been performed at its scope.
That the lanes act in the step that issues the atomic, and where CAS finds its new value, is the model's choice (log
entries 4 and 21). The new value of an atomic. The bitwise operations, XCHG and CAS take the codes as they are, INC
and DEC wrap at the operand and change nothing where either is absent. ADD, MIN and MAX change nothing for an absent
operand; an integer location that is absent takes the operand; else the integer sums are exact and saturate, the
smaller or larger integer is taken, the f32 sum is rounded once with rn, MIN and MAX of f32 are those of FMIN and
FMAX, and the elements of a packed type go each on its own. -/
def Obligations.Atomics : Prop :=
  (∀ (s : State) (x : Frag) (op : AtomOp) (o : AOrd) (nr sp : Bool) (sc : Scope) (t : Ty) (d : Reg) (a : VArg) (b : VArgI)
    (ua : SArg) (ub : SArgI),
    let held := (AOrd.releases o && s.unperformed x sc) = true
    let goes := fun (i : Instr) (sp : Bool) =>
      let k := atomAcc t sp sc (match a with | .s _ _ => true | .v _ _ _ => false)
      let ls := x.present (x.atomAddr sp a)
      let v := x.srcI t b
      let y := x.casVal op t b
      let r := s.atomAll x k op t v.1 y.1 (s.laneOrder ls)
      let old := fun j : Nat => ((r.2.1.find? fun p => p.1 == j).map (·.2)).getD (Ty.absent t)
      let s' := ((r.1.dvals x k op t v.1 y.1 old ls).raise x.b.key (v.2 ||| y.2 ||| r.2.2)).acquire x (AOrd.acquires o) sc
      Clear s x { priv := false, noGlint := false
                  uses := (if nr then [] else dstV t d) ++ atomUses sp a ++ VArgI.uses t.wide 2 b ++ casUses op t b } →
        (held → exec i s = .next s) ∧ (¬held → Passes s x k ls →
          Goes s x i ((if nr then s' else s'.sendV x t d old (s.loadReady x k ls)).memrec x k ls))
    goes (.atom op o nr sc t d a b) false ∧ goes (.atoms op o nr sc t d a b) true ∧
    (let k := atomAcc t sp sc true
     let ls := x.single sp (.uni ua none)
     let v := x.srcI t (SArgI.toV ub)
     let y := x.casVal op t (SArgI.toV ub)
     let r := s.atomAll x k op t v.1 y.1 ls
     let old := ((r.2.1.head?).map (·.2)).getD (Ty.absent t)
     let s' := ((r.1.dvals x k op t v.1 y.1 (fun _ => old) ls).raise x.b.key (v.2 ||| y.2 ||| r.2.2)).acquire x (AOrd.acquires o) sc
     Clear s x { priv := false, noGlint := false
                 uses := dstS d ++ SArg.uses 1 ua ++ SArgI.uses 2 ub ++ casUses op t (SArgI.toV ub) } →
       (held → exec (.atomu op o sp sc t d ua ub) s = .next s) ∧ (¬held → Passes s x k ls →
         Goes s x (.atomu op o sp sc t d ua ub) ((s'.sendS x t d old (s.loadReady x k ls)).memrec x k ls)))) ∧
  (∀ (t : Ty) (m x y : Nat),
    atomNew .and t m x y = (m &&& x, 0) ∧ atomNew .or t m x y = (m ||| x, 0) ∧ atomNew .xor t m x y = (m ^^^ x, 0) ∧
    atomNew .xchg t m x y = (x, 0) ∧ atomNew .cas t m x y = (if m = x then y else m, 0) ∧
    (Ty.isAbsent t m = true ∨ Ty.isAbsent t x = true → atomNew .inc t m x y = (m, 0) ∧ atomNew .dec t m x y = (m, 0)) ∧
    (Ty.isAbsent t m = false → Ty.isAbsent t x = false →
      atomNew .inc t m x y = (if x ≤ m then 0 else m + 1, 0) ∧
      atomNew .dec t m x y = (if m = 0 ∨ x < m then x else m - 1, 0)) ∧
    (t = .s32 ∨ t = .n32 ∨ t = .s64 ∨ t = .n64 → m < 2 ^ Ty.width t → x < 2 ^ Ty.width t →
      let i := Fmt.int (Ty.fmt t)
      (Ty.isAbsent t x = true → atomNew .add t m x y = (m, 0) ∧ atomNew .min t m x y = (m, 0) ∧ atomNew .max t m x y = (m, 0)) ∧
      (Ty.isAbsent t m = true → Ty.isAbsent t x = false →
        atomNew .add t m x y = (x, 0) ∧ atomNew .min t m x y = (x, 0) ∧ atomNew .max t m x y = (x, 0)) ∧
      (Ty.isAbsent t m = false → Ty.isAbsent t x = false →
        atomNew .add t m x y = satCode (Ty.fmt t) (i m + i x) ∧
        atomNew .min t m x y = (if i m ≤ i x then m else x, 0) ∧ atomNew .max t m x y = (if i x ≤ i m then m else x, 0))) ∧
    (m < 2 ^ 32 → x < 2 ^ 32 → Ty.isAbsent .n32 m = false → Ty.isAbsent .n32 x = false →
      (atomNew .add .n32 m x y).1 = min (m + x) (2 ^ 32 - 2) ∧ (atomNew .min .n32 m x y).1 = min m x ∧
      (atomNew .max .n32 m x y).1 = max m x) ∧
    (m < 2 ^ 32 → x < 2 ^ 32 → Ty.isAbsent .f32 x = true → atomNew .add .f32 m x y = (m, 0) ∨ Ty.isAbsent .f32 m = true) ∧
    (m < 2 ^ 32 → x < 2 ^ 32 → Ty.isAbsent .f32 m = false → Ty.isAbsent .f32 x = false →
      atomNew .add .f32 m x y = floatElem .f32 .rn (fun v => sumExact false [arg v 0, arg v 1]) [m, x] ∧
      atomNew .min .f32 m x y = (floatPick .f32 false m x, 0) ∧ atomNew .max .f32 m x y = (floatPick .f32 true m x, 0)) ∧
    (t = .f16x2 ∨ t = .bf16x2 → ∀ e, e < 2 →
      let el := fun z : Nat => bits z (16 * e) 16
      let f := Ty.fmt t
      Fmt.isAbsent f (el m) = false → Fmt.isAbsent f (el x) = false →
        el (atomNew .add t m x y).1 = (floatElem f .rn (fun v => sumExact false [arg v 0, arg v 1]) [el m, el x]).1 ∧
        el (atomNew .min t m x y).1 = floatPick f false (el m) (el x) ∧
        el (atomNew .max t m x y).1 = floatPick f true (el m) (el x)))

/-- R154, R155, R156, R242, R243, R365: CHUNK completes: it claims min(rest, max(MIN, rest / DIV)) elements from a
counter that is not used up, the new NEXT is start + length, and the start and the length, or two absent codes, are on
their way to sD and s[D + 1]. TLOOK, TINS and TDEL, the tag-table instructions. TLOOK answers the way that holds the
tag, or absent, and makes it the youngest; TINS fills the lowest invalid way or else the oldest, the lowest of those;
TDEL makes the way invalid; the entries are written back, but into no barrier's granule; the answer 4 × set + way is
on its way to sD. A cohort without a table traps MEM.SPACE 4, a tag of 2⁴⁸ or more answers absent. -/
def Obligations.ChunksAndTags : Prop :=
  ((∀ nx en mn dv : Nat, ([nx, en, mn, dv].any (Fmt.isAbsent .n32) = true ∨ en ≤ nx → chunkClaim nx en mn dv = none) ∧
    ([nx, en, mn, dv].any (Fmt.isAbsent .n32) = false → nx < en →
      ∃ len, chunkClaim nx en mn dv = some (nx, len) ∧ 1 ≤ len ∧ nx + len ≤ en ∧
        len = min (en - nx) (max (max mn 1) ((en - nx) / max dv 1)))) ∧
  ∀ (s : State) (x : Frag) (d a : Reg),
    Clear s x { priv := false, noGlint := false, uses := regUses .s d true 0 true false ++ regUses .s a false 1 false false } →
    let k := chunkAcc
    let va := (x.b.sreg a.toNat).toNat
    let at_ := [(x.lead, (va : Int))]
    let f := fun j => leNat (((s.laneRead x k 0 va).drop (4 * j)).take 4)
    let s1 := s.laneNote x k va
    let put := fun (u : State) (ls : List (Nat × Int)) (lo hi : Nat) =>
      (u.sendS x .s64 d lo (s.loadReady x k ls)).sendS x .s64 (d + 1) hi (s.loadReady x k ls)
    (Fmt.isAbsent .n64 va = true → Goes s x (.chunk d a) (put s [] (Fmt.absent .s64) (Fmt.absent .s64))) ∧
    (Fmt.isAbsent .n64 va = false → Passes s x k at_ →
      (chunkClaim (f 0) (f 1) (f 2) (f 3) = none →
        Goes s x (.chunk d a) (put s1 at_ (Fmt.absent .s64) (Fmt.absent .s64))) ∧
      (∀ lo len, chunkClaim (f 0) (f 1) (f 2) (f 3) = some (lo, len) →
        Goes s x (.chunk d a) (put (s1.laneWrite x k va (natLe 4 (lo + len))) at_ lo len))) ∧
    (Fmt.isAbsent .n64 va = false → ∀ tr, x.memTrap k (s.laneFaults x k at_) = some tr → Traps s x (.chunk d a) tr)) ∧
  ((∀ (ws : List TagEntry) (tag : Nat), ws.length = 4 →
    (∀ w, tagHit ws tag = some w →
      (tagLook ws tag).2 = some w ∧ (tagIns ws tag).2 = some w ∧ (tagDel ws tag).2 = some w ∧
      (((tagLook ws tag).1)[w]?).map (·.age) = some 0 ∧ (((tagDel ws tag).1)[w]?).map (·.v) = some false) ∧
    (tagHit ws tag = none →
      tagLook ws tag = (ws, none) ∧ tagDel ws tag = (ws, none) ∧ (tagIns ws tag).2 = some (tagVictim ws) ∧
      ((tagIns ws tag).1)[tagVictim ws]? = some { v := true, age := 0, tag := tag } ∧
      (∀ w e, ws[w]? = some e → e.v = false → (∀ j, j < w → ∀ e', ws[j]? = some e' → e'.v = true) → tagVictim ws = w) ∧
      ((∀ e ∈ ws, e.v = true) → ∀ w e, ws[w]? = some e →
        (∀ j e', ws[j]? = some e' → e'.age ≤ e.age ∧ (j < w → e'.age < e.age)) → tagVictim ws = w))) ∧
  ∀ (s : State) (x : Frag) (d a : Reg) (c : Cohort),
    Clear s x { priv := false, noGlint := false, uses := dstS d ++ regUses .s a false 1 false false } →
    s.cohort? x.b.cohort = some c →
    let t := s.tagSets x.b
    let tag := (x.b.sreg a.toNat).toNat
    let ready : Arrival := { s.within x.core 20 with units := [2] }
    let at_ := fun w : Nat => c.wsize - 32 * t + 32 * (tag % t) + 8 * w
    let ws := (List.range 4).map fun w => TagEntry.ofNat (c.nat (at_ w) 8)
    let answers := fun (i : Instr) (r : List TagEntry × Option Nat) =>
      ∃ c', c'.key = c.key ∧ (∀ o, o < at_ 0 ∨ at_ 4 ≤ o → c'.byte o = c.byte o) ∧
        (c.wsize % 32 = 0 → 32 * t ≤ c.wsize →
          if c.tagged (at_ 0) then ∀ o, c'.byte o = c.byte o
          else ∀ w, w < 4 → TagEntry.ofNat (c'.nat (at_ w) 8) = r.1.getD w ⟨false, 0, 0⟩) ∧
        Goes s x i ((s.setCohort c').sendS x .n64 d (match r.2 with | some w => 4 * (tag % t) + w | none => Fmt.absent .n64) ready)
    (t ≠ 0 → tag < 2 ^ 48 →
      answers (.tlook d a) (tagLook ws tag) ∧ answers (.tins d a) (tagIns ws tag) ∧ answers (.tdel d a) (tagDel ws tag)) ∧
    ∀ i, i ∈ [Instr.tlook d a, .tins d a, .tdel d a] →
      (t ≠ 0 → 2 ^ 48 ≤ tag → Goes s x i (s.sendS x .n64 d (Fmt.absent .n64) ready)) ∧
      (t = 0 → Traps s x i { group := gSPACE, code := 4, lanes := none, x := 0, y := 0, z := x.op * 256 }))

/-- R103, R225, R235, R298, R226, R239, R240, R241: FENCE completes: an acquire of scope .core or wider takes what
copies have delivered to the window, one of scope .die or wider also drops the lines of the core's L1, every other
FENCE changes nothing; a release waits while an earlier access of the beam has not been performed at its scope. The
cache instructions complete: CFLUSH below .sys and without newer bytes has no effect, at .sys with newer bytes it
waits for their write-back and then goes on; CINV drops the named lines, or all, in the L1 and the instruction cache
of the cores in scope, with the older words that a fetch of them could give; PREF at a wide scope changes nothing, at
a narrow one it puts a named line into the core's L1, and no other line enters it. Memory and every register stay as
they were. What an L1 line keeps is read from R225 (log entries 4 and 10). -/
def Obligations.FencesAndCaches : Prop :=
  (∀ (s : State) (x : Frag) (o : FOrd) (sc : Scope), Clear s x { priv := false, noGlint := false, uses := [] } →
    (o = .acq ∨ s.unperformed x sc = false →
      (o = .rel ∨ sc = .beam ∨ sc = .cohort → Goes s x (.fence o sc) s) ∧
      (o ≠ .rel → sc = .core → Goes s x (.fence o sc) (s.catchUp x.b.key)) ∧
      (o ≠ .rel → Scope.wide sc = true →
        Goes s x (.fence o sc) ((s.catchUp x.b.key).modCore x.core fun c => c.dropLines fun _ => true))) ∧
    (o ≠ .acq → s.unperformed x sc = true → ∃ w, w.kind = .cflush ∧
      exec (.fence o sc) s = .next (s.setBeam (x.b.setEntry x.e { x.entry with wait := some w })))) ∧
  (∀ (s : State) (x : Frag) (sc : Scope) (m : MemArg),
    Clear s x { priv := false, noGlint := false, uses := MemArg.cacheUses m } →
    (sc ≠ .sys → Goes s x (.cflush sc m) s) ∧
    (sc = .sys → x.entry.wait.isSome = true →
      ((∀ l ∈ s.dirtyLines x m, l ∉ s.flushing) → Goes s x (.cflush sc m) s) ∧
      ((∃ l ∈ s.dirtyLines x m, l ∈ s.flushing) → exec (.cflush sc m) s = .next s)) ∧
    (sc = .sys → x.entry.wait = none →
      (s.dirtyLines x m = [] → Goes s x (.cflush sc m) s) ∧
      (s.dirtyLines x m ≠ [] → ∃ t w, exec (.cflush sc m) s = .next t ∧ w.kind = .cflush ∧ t.mem = s.mem ∧
        (∀ l ∈ s.dirtyLines x m, l ∈ t.flushing) ∧
        t.beam? x.b.key = some (x.b.setEntry x.e { x.entry with wait := some w, carry := none }))) ∧
    (∃ u, Goes s x (.cinv sc m) u ∧ u.mem = s.mem ∧ u.beams = s.beams ∧
      (∀ c ∈ s.cores, Scope.covers sc x.core c.id = true → ∃ c' ∈ u.cores, c'.id = c.id ∧
        (∀ p ∈ s.named x m, lineOf p.1 ∉ c'.l1 ∧ lineOf p.1 ∉ c'.icache ∧ ∀ w ∈ c'.iold, lineOf w.1 ≠ lineOf p.1) ∧
        (m = .all → c'.l1 = [] ∧ c'.icache = [] ∧ c'.iold = [])) ∧
      (∀ c ∈ s.cores, Scope.covers sc x.core c.id = false → c ∈ u.cores)) ∧
    (Scope.wide sc = true → Goes s x (.pref sc m) s) ∧
    (Scope.wide sc = false → ∃ u, Goes s x (.pref sc m) u ∧ u.mem = s.mem ∧ u.beams = s.beams ∧ u.dieTlb = s.dieTlb ∧
      (∀ l ∈ (u.coreOf x.core).l1, l ∈ (s.coreOf x.core).l1 ∨ ∃ p ∈ s.named x m, p.2 ≠ 1 ∧ l = lineOf p.1) ∧
      (∀ p ∈ s.named x m, p.2 ≠ 1 → (∀ q ∈ s.named x m, q.2 ≠ 1 → lineOf q.1 = lineOf p.1) → x.core < 256 →
        lineOf p.1 ∈ (u.coreOf x.core).l1)))

/-- R63, R236, R237, R428, R250, R414: WAITV. With an absent address it completes at once with the absent code, its
acquire kept and a MEMREC without lanes where accesses are traced. It completes with the value read when the
comparison is TRUE or its limit has run out, and otherwise sleeps; asleep it stays as it is. A write to its line,
1,024 cycles or the end of its limit let it read again. That the absent code is widened is read from R178 (log entry
51), and that the registers are read again after a wake is the model's choice (log entry 25). The wakes of WAITV and
MWAIT: a wake lets the sleeping fragment read again; a limit wakes it only when it has run out; nothing else changes;
in trap mode the trapped fragment's wait keeps the wake. A beam's write that has waited 65,536 cycles for a migrating
page traps MIGRATING. -/
def Obligations.Waits : Prop :=
  (∀ (s : State) (x : Frag) (cmp : Cmp) (acq sp : Bool) (sc : Scope) (t : Ty) (d : Reg) (a b : SArg),
    let i := Instr.waitv cmp acq sp sc t d a b
    let k := loadAcc t sp sc true
    let ls := x.single sp (.uni a none)
    let c := scalarOperand t (x.sval b)
    let lim := (x.b.sreg (b.r.toNat + 1)).toNat
    let r := x.waited .waitv (if Fmt.isAbsent .n64 lim then none else some lim)
    let m := s.loadVals x k t ls x.lead
    let s1 := if x.entry.wait.isSome then s.notes x k ls else ((s.notes x k ls).raise x.b.key c.2).memrec x k ls
    Clear s x { priv := false, noGlint := true, uses := waitvUses d a b } →
    (ls = [] → Goes s x i (((s.setBeam (x.putS d (widen t (Ty.absent t)))).acquire x acq sc).memrec x k [])) ∧
    (ls ≠ [] → x.asleep .waitv = true → exec i s = .next s) ∧
    (ls ≠ [] → x.asleep .waitv = false → Passes s x k ls →
      (compareElem (Ty.fmt t) cmp m c.1 = .t ∨ r.2 = some 0 →
        Goes s x i ((s1.acquire x acq sc).sendS x t d m (s.loadReady x k ls))) ∧
      (compareElem (Ty.fmt t) cmp m c.1 ≠ .t → r.2 ≠ some 0 →
        ∃ w, w.kind = .waitv ∧ w.ins = i ∧ w.waited = r.1 ∧ w.rem = r.2 ∧ w.woken = false ∧
          exec i s = .next (s1.sleep x w)))) ∧
  (∀ (s : State) (k : BeamKey) (e : Nat) (b : Beam), s.beam? k = some b →
    (∀ w, (b.entry e).wait = some w → b.trap = none →
      let woken := s.setBeam (b.setEntry e { b.entry e with wait := some { w with woken := true } })
      (w.kind = .waitv → exec (.waitvWake k e) s = .next woken ∧
        (w.rem = some 0 → exec (.waitvTimeout k e) s = .next woken) ∧
        (w.rem ≠ some 0 → exec (.waitvTimeout k e) s = .next s)) ∧
      (w.kind = .mwait → exec (.mwaitWake k e) s = .next woken ∧
        (w.rem = some 0 → exec (.mwaitTimeout k e) s = .next woken) ∧
        (w.rem ≠ some 0 → exec (.mwaitTimeout k e) s = .next s))) ∧
    (∀ (tm : TrapMode) (v : Wait) (i : Instr), b.trap = some tm → tm.entry = e → tm.held.wait = some v →
      (v.kind = .waitv ∧ i = .waitvWake k e) ∨ (v.kind = .mwait ∧ i = .mwaitWake k e) →
      ∃ t b' tm', exec i s = .next t ∧ t.mem = s.mem ∧ t.beam? k = some b' ∧ b'.trap = some tm' ∧
        tm'.held = { tm.held with wait := some { v with woken := true } }) ∧
    (∀ w, (b.entry e).wait = some w → w.kind = .migrate → (b.entry e).st = .run → 65536 ≤ w.waited → b.pend = none →
      exec (.migrationWaitExpiry k e) s = .next (s.trapEntry k e (b.entry e).pc w.words
        (Trap.addr gXLATE 5 (some (BitVec.ofNat 64 w.aux)) (w.aux / 2 ^ 64 % 2 ^ 56) (w.aux / 2 ^ 64 / 2 ^ 56)))))

/-! ### Rings and barriers -/

/-- R247, R249, R245, R248, R396, R400, R246, R250, R251, R310: An append writes the record behind TAIL and moves TAIL
past it and past the PAD record that it needs: the header with LEN and SEQ, the payload, zeros up to a multiple of 8,
and the header of a PAD record where the record does not fit before the buffer's end; a record that does not fit, and
a ring that is closed or invalid, leave everything as it was. In the window every byte outside the buffer and the
descriptor's TAIL is as before; no granule of the ring is a barrier, whose bytes an append leaves alone (R365). MSEND.
Absent operands give an absent result; a length outside 1 to 256 traps MSG 1, a bad handle MSG 2. A message to a live
cohort of the sender's context on this device, or to a memory ring of its context whose pages pass their checks, is
appended and its code is on its way to sD; REFUSED, NO_RING and RING_FULL send nothing, and a buffer outside near
pages answers NO_RING before RING_FULL. A message to another device goes over the fabric where the Diaphragm lets it
out, sD empty until the REPLY. The beam's count of its sends to the ring goes up. MPOLL, MWAIT and MPOP. An absent
handle gives an absent result, a bad one traps MSG 2, a closed or invalid ring MSG 3. HEAD moves where the
descriptor's page may be written, and a page is written only where HEAD moves. On a ring that passes its checks, in
the cohort's own window or in memory, MPOLL answers the place of the header at HEAD behind the PAD records, with an
acquire of the L1, and MPOP moves HEAD past the record and answers the bytes freed; on an empty ring both answer
absent. MWAIT answers as MPOLL where there is a record or its limit has run out, sleeps otherwise, and, asleep, stays.
The order of the traps, the kinds of access and SEQ are read from R246 to R250, and an absent handle of MPOLL, MWAIT
or MPOP gives the absent code by the model's choice (log entry 51). -/
def Obligations.Rings : Prop :=
  (∀ (s : State) (c : Cohort) (d seq : Nat) (data : List Byte), s.cohort? c.key = some c → c.st = .resident →
    (s.ring? (.window c.key) d = none → s.append (.window c.key) d seq data = (s, 0x102)) ∧
    (∀ r, s.ring? (.window c.key) d = some r →
      (r.fits data.length = false → s.append (.window c.key) d seq data = (s, 0x101)) ∧
      (r.fits data.length = true →
        r.tail % 8 = 0 → (∀ o, (d ≤ o ∧ o < d + 32) ∨ (r.buf ≤ o ∧ o < r.buf + r.size) → c.tagged o = false) →
        ∃ t c', s.append (.window c.key) d seq data = (t, 0) ∧ t.cohort? c.key = some c' ∧ t.mem = s.mem ∧
          t.beams = s.beams ∧ c'.nat (d + 8) 4 = (r.tail + r.pad data.length + recordBytes data.length) % 2 ^ 32 ∧
          (∀ o, (o < r.buf ∨ r.buf + r.size ≤ o) → (o < d + 8 ∨ d + 12 ≤ o) → c'.byte o = c.byte o) ∧
          (d + 32 ≤ r.buf ∨ r.buf + r.size ≤ d →
            let n := data.length
            let pos := r.buf + (r.tail + r.pad n) % r.size
            c'.bytes pos 8 = natLe 8 (n + seq % 2 ^ 32 * 2 ^ 32) ∧ c'.bytes (pos + 8) n = data ∧
            c'.bytes (pos + 8 + n) (roundUp n 8 - n) = List.replicate (roundUp n 8 - n) 0 ∧
            (r.pad n ≠ 0 → c'.bytes (r.buf + r.tail % r.size) 8 = natLe 8 (2 ^ 16)))))) ∧
  (∀ (s : State) (x : Frag) (d : Reg) (a b : SArg),
    let h := x.sval a
    let p := x.sval b
    let n := (x.b.sreg (b.r.toNat + 1)).toNat
    let q := x.b.sendSeq (BitVec.ofNat 64 h)
    let s' := s.setBeam q.2
    let code := fun (u : State) (v : Nat) => Goes s x (.msend d a b) (u.sendS x .n64 d v (u.loadReady x chunkAcc []))
    Clear s x { priv := false, noGlint := false
                uses := msgUses d a ++ SArg.uses 2 b ++ [{ set := .s, r := b.r.toNat + 1, src := 5, dst := false, trap := false }] } →
    ([h, p, n].any (Fmt.isAbsent .n64) = true → Goes s x (.msend d a b) (s.setBeam (x.putS d (Fmt.absent .n64)))) ∧
    ([h, p, n].any (Fmt.isAbsent .n64) = false →
      (n < 1 ∨ 256 < n → Traps s x (.msend d a b) (msgTrap 1 h n)) ∧
      (1 ≤ n → n ≤ 256 →
        (ringOf h = .bad → Traps s x (.msend d a b) (msgTrap 2 h 0)) ∧
        (ringOf h ≠ .bad → ∀ tr, s.payloadTrap x p n = some tr → Traps s x (.msend d a b) tr) ∧
        ∀ c, s.payloadTrap x p n = none → s.cohort? x.b.cohort = some c →
          (∀ dev kernel cohort off, ringOf h = .window dev kernel cohort off → x.descTrap off = none →
            (dev = s.mgmt.device →
              (s'.receiver kernel cohort = none → code s' 0x102) ∧
              (∀ k y, s'.receiver kernel cohort = some (k, y) →
                ((s'.kernelOf x.b).map (·.ctx) ≠ some k.ctx → code s' 0x103) ∧
                ((s'.kernelOf x.b).map (·.ctx) = some k.ctx →
                  code (s'.append (.window ⟨kernel, cohort⟩) off q.1 (c.bytes p n)).1
                    (s'.append (.window ⟨kernel, cohort⟩) off q.1 (c.bytes p n)).2))) ∧
            (dev ≠ s.mgmt.device → ∀ y, s.partOfCore x.core = some y →
              (y.egress.contains dev = false → code s' 0x103) ∧
              (y.egress.contains dev = true → Goes s x (.msend d a b)
                (s'.msendAway x d dev (if s.classOf x.b = 0 then 0 else 1) (BitVec.ofNat 64 h) q.1 (c.bytes p n))))) ∧
          (∀ va k, ringOf h = .mem va → s.kernelOf x.b = some k → Passes s x (descAcc .read) [(x.lead, (va : Int))] →
            let s1 := s'.laneNote x (descAcc .read) va
            (s1.ring? (.mem x.core k.ctx) va = none → code s1 0x102) ∧
            (∀ r, s1.ring? (.mem x.core k.ctx) va = some r →
              let us := (r.units n).map fun u : Nat => (x.lead, (u : Int))
              (r.fits n = false → code s1 (if s1.ringNear r then 0x101 else 0x102)) ∧
              (r.fits n = true → Passes s x (bufAcc .write) us →
                (s1.ringNear r = false → code s1 0x102) ∧
                (s1.ringNear r = true → Passes s x (descAcc .rmw) [(x.lead, (va : Int))] →
                  code (s1.ringPut r q.1 (c.bytes p n)) 0))))))) ∧
  (∀ (s : State) (x : Frag) (d a : Reg) (sa sb : SArg),
    let opens := fun (h : Nat) (u : State) (r : RingDesc) =>
      (∃ dev k c off, ringOf h = .window dev k c off ∧ x.descTrap off = none ∧
        s.ring? (.window x.b.cohort) off = some r ∧ u = s) ∨
      (∃ va k, ringOf h = .mem va ∧ s.kernelOf x.b = some k ∧ Passes s x (descAcc .read) [(x.lead, (va : Int))] ∧
        let s1 := s.laneNote x (descAcc .read) va
        let us := (s1.headersRead r 4 r.head).map fun u : Nat => (x.lead, (u : Int))
        s1.ring? (.mem x.core k.ctx) va = some r ∧ Passes s x (bufAcc .read) us ∧ s1.ringNear r = true ∧
          u = s1.notes x (bufAcc .read) us)
    let shut := fun h : Nat =>
      (∃ dev k c off, ringOf h = .window dev k c off ∧ x.descTrap off = none ∧ s.ring? (.window x.b.cohort) off = none) ∨
      (∃ va k, ringOf h = .mem va ∧ s.kernelOf x.b = some k ∧ Passes s x (descAcc .read) [(x.lead, (va : Int))] ∧
        (s.laneNote x (descAcc .read) va).ring? (.mem x.core k.ctx) va = none)
    let none_ := s.setBeam (x.putS d (Fmt.absent .n64))
    let moves := fun (u : State) (r : RingDesc) (head : Nat) =>
      head = r.head ∨ (∃ c, r.sp = .window c) ∨ Passes u x (descAcc .rmw) [(x.lead, (r.desc : Int))]
    let polls := fun (i : Instr) (u : State) (r : RingDesc) =>
      let head := u.pastPads r 4 r.head
      let v := u.putHead r head
      moves u r head →
      (head = r.tail → Goes s x i (v.sendS x .n64 d (Fmt.absent .n64) (v.ringReady x r))) ∧
      (head ≠ r.tail → Goes s x i
        ((v.acquire x true .sys).sendS x .n64 d (r.buf + head % r.size) (v.ringReady x r)))
    let h := (x.b.sreg a.toNat).toNat
    (Clear s x { priv := false, noGlint := false, uses := msgUses d ⟨a, false⟩ } →
      (Fmt.isAbsent .n64 h = true → Goes s x (.mpoll d a) none_ ∧ Goes s x (.mpop d a) none_) ∧
      (Fmt.isAbsent .n64 h = false →
        (ringOf h = .bad → Traps s x (.mpoll d a) (msgTrap 2 h 0) ∧ Traps s x (.mpop d a) (msgTrap 2 h 0)) ∧
        (shut h → Traps s x (.mpoll d a) (msgTrap 3 h 0) ∧ Traps s x (.mpop d a) (msgTrap 3 h 0)) ∧
        (∀ u r, opens h u r → polls (.mpoll d a) u r ∧
          let head := u.pastPads r 4 r.head
          let next := (head + recordBytes (u.ringHeader r head).1) % 2 ^ 32
          (head = r.tail → Goes s x (.mpop d a) (u.sendS x .n64 d (Fmt.absent .n64) (u.ringReady x r))) ∧
          (head ≠ r.tail → moves u r next → Goes s x (.mpop d a)
            ((u.putHead r next).sendS x .n64 d ((next + 2 ^ 32 - r.head) % 2 ^ 32) ((u.putHead r next).ringReady x r)))))) ∧
    (Clear s x { priv := false, noGlint := true, uses := msgUses d sa ++ SArg.uses 2 sb } →
      let h := x.sval sa
      let lim := x.waited .mwait (if Fmt.isAbsent .n64 (x.sval sb) then none else some (x.sval sb))
      (Fmt.isAbsent .n64 h = true → Goes s x (.mwait d sa sb) none_) ∧
      (Fmt.isAbsent .n64 h = false → x.asleep .mwait = true → exec (.mwait d sa sb) s = .next s) ∧
      (Fmt.isAbsent .n64 h = false → x.asleep .mwait = false →
        (ringOf h = .bad → Traps s x (.mwait d sa sb) (msgTrap 2 h 0)) ∧
        (shut h → Traps s x (.mwait d sa sb) (msgTrap 3 h 0)) ∧
        ∀ u r, opens h u r →
          (u.pastPads r 4 r.head ≠ r.tail ∨ lim.2 = some 0 → polls (.mwait d sa sb) u r) ∧
          (u.pastPads r 4 r.head = r.tail → lim.2 ≠ some 0 → ∃ w, w.kind = .mwait ∧ w.ins = .mwait d sa sb ∧ w.rem = lim.2 ∧
            exec (.mwait d sa sb) s = .next (u.sleep x w)))))

/-- R253, R274, R276, R277, R278, R434: BINIT, BARV and BEXP on a barrier offset that passes the checks of R253. BINIT
tags the granule and arms it with EXPECTED, orphaned where the core's log knows the granule; BARV counts one arrival,
BEXP adds to the count of a source core; an absent offset has no effect; SYNC 5, 6, 7, 8 and 9 for an arrival too
many, no free slot, a count out of range, a malformed barrier and a core out of range. BINV, BWAIT and BTEST. BINV
takes the tag away, wakes the waiters into SYNC 4, and the requests in flight become orphans; BWAIT completes with
PHASE in sD where it differs from bit 0 of sD, and sleeps otherwise; a faulted barrier traps ENGINE; a sleeping BWAIT
stays, a woken one completes with the phase that woke it; BTEST reads the control word; both acquire a phase that has
completed, so that no REPLAY mark of it meets the beam any more; and a read of an orphaned barrier arms it and clears
the granule from the core's orphan log. That BINIT judges a bad count ahead of a live barrier is read from R276 (log
entry 43). -/
def Obligations.BarrierInstructions : Prop :=
  (∀ (s : State) (x : Frag) (grp : Bool) (a : SArg) (b : SArgI) (r : Reg) (q : Option SArg) (c : Cohort),
    s.cohort? x.b.cohort = some c →
    (Clear s x (plain (SArg.uses 1 a ++ SArgI.uses 2 b)) →
      let off := x.sval a
      (Fmt.isAbsent .n64 off = true → Goes s x (.binit grp a b) s) ∧
      (Fmt.isAbsent .n64 off = false → s.barTrap x .write true off = none →
        (∀ n, s.binitCount x grp (x.svalI .n64 b) = some n → s.tagged c.key off = false ∨ s.barBusy c.key off = false →
          ∃ k, k.tagged off = true ∧ n ≤ 4095 ∧
            k.nat off 4 = 16 * n + (if (s.coreOf x.core).orphans.any fun o => o.cohort == c.key && o.off == off then 6 else 2) ∧
            k.nat (off + 4) 28 = 0 ∧ (∀ o, o < off ∨ off + 32 ≤ o → k.byte o = c.byte o) ∧
            Goes s x (.binit grp a b) ((s.setCohort k).unmarked c.key off)) ∧
        (s.binitCount x grp (x.svalI .n64 b) = none → Traps s x (.binit grp a b) (s.syncTrap x 7 off)) ∧
        (∀ n, s.binitCount x grp (x.svalI .n64 b) = some n → s.tagged c.key off = true → s.barBusy c.key off = true →
          Traps s x (.binit grp a b) (s.syncTrap x 2 off)))) ∧
    (Clear s x (plain (regUses .s r false 1 false false)) →
      let off := (x.b.sreg r.toNat).toNat
      let bar := s.bar c.key off
      (Fmt.isAbsent .n64 off = true → Goes s x (.barv r) s) ∧
      (Fmt.isAbsent .n64 off = false → s.barTrap x .write false off = none →
        (bar.formed = true → bar.arr ≠ bar.exp →
          Goes s x (.barv r) (s.barChanged c.key off { bar with arr := (bar.arr + 1) % 4096 })) ∧
        (bar.formed = true → bar.arr = bar.exp → Traps s x (.barv r) (s.syncTrap x 5 off)) ∧
        (bar.formed = false → Traps s x (.barv r) (s.syncTrap x 8 off)))) ∧
    (Clear s x (plain (SArg.uses 1 a ++ SArgI.uses 2 b ++ ((q.map (SArg.uses 3)).getD []))) →
      let core := (q.map x.sval).getD x.core
      let off := x.sval a
      let n := x.svalI .n64 b
      let bar := s.bar c.key off
      (Fmt.isAbsent .n64 off = true → Goes s x (.bexp a b q) s) ∧
      (Fmt.isAbsent .n64 off = false → s.barTrap x .write false off = none →
        (bar.formed = false → Traps s x (.bexp a b q) (s.syncTrap x 8 off)) ∧
        (bar.formed = true →
          (Fmt.isAbsent .n64 n = true → Goes s x (.bexp a b q) s) ∧
          (Fmt.isAbsent .n64 n = false →
            (2 ^ 31 ≤ n → Traps s x (.bexp a b q) (s.syncTrap x 7 off)) ∧
            (n < 2 ^ 31 → Fmt.isAbsent .n64 core = true → Goes s x (.bexp a b q) s) ∧
            (n < 2 ^ 31 → Fmt.isAbsent .n64 core = false →
              (255 < core → Traps s x (.bexp a b q) (s.syncTrap x 9 off)) ∧
              (core ≤ 255 →
                (bar.apply core n = none → Traps s x (.bexp a b q) (s.syncTrap x 6 off)) ∧
                (∀ k, bar.apply core n = some k → Goes s x (.bexp a b q) (s.barChanged c.key off k))))))))) ∧
  (∀ (s : State) (x : Frag) (d a : Reg) (c : Cohort), s.cohort? x.b.cohort = some c →
    let off := (x.b.sreg a.toNat).toNat
    let bar := s.bar c.key off
    let dead := Fmt.isAbsent .n64 off = true
    (Clear s x (plain (regUses .s a false 1 false false)) →
      (dead → Goes s x (.binv a) s) ∧
      (¬dead → s.barTrap x .write false off = none →
        ∃ u k, Goes s x (.binv a) u ∧ u.cohort? c.key = some k ∧ k.tagged off = false ∧
          (∀ o, o / 32 ≠ off / 32 → k.tagged o = c.tagged o) ∧
          (∀ q ∈ u.reqs, q.cohort = c.key → q.barrier = off → q.orphan = true ∧ q.parked = false))) ∧
    (Clear s x { priv := false, noGlint := true, uses := dstS d ++ regUses .s a false 1 false false } →
      (dead → x.entry.wait = none → Goes s x (.bwait d a) (s.setBeam (x.putS d (Fmt.absent .n64)))) ∧
      (¬dead → x.entry.wait = none → s.barTrap x .read false off = none → bar.formed = true →
        (bar.st = 2 → Traps s x (.bwait d a) (s.engineTrap x off)) ∧
        (bar.st ≠ 2 → s.markOn c.key off x.b.id = none →
          (bar.phase ≠ (x.b.sreg d.toNat).toNat % 2 →
            Goes s x (.bwait d a) ((s.setBeam (x.putS d bar.phase)).acquirePhase x.b.key off)) ∧
          (bar.phase = (x.b.sreg d.toNat).toNat % 2 → ∃ w, w.kind = .bwait ∧ w.aux = off ∧ w.woken = false ∧
            exec (.bwait d a) s = .next (s.sleep x w)))) ∧
      (∀ w, x.entry.wait = some w → w.kind = .bwait →
        (w.woken = false → exec (.bwait d a) s = .next s) ∧
        (w.woken = true → w.aux / 2 ^ 32 = 3 → Traps s x (.bwait d a) (s.syncTrap x 4 (w.aux % 2 ^ 32))) ∧
        (w.woken = true → ∀ p, p ≤ 1 → w.aux / 2 ^ 32 = 1 + p → s.markOn c.key (w.aux % 2 ^ 32) x.b.id = none →
          Goes s x (.bwait d a) ((s.setBeam (x.putS d p)).acquirePhase x.b.key (w.aux % 2 ^ 32))))) ∧
    (Clear s x (plain (dstS d ++ regUses .s d false 0 false false ++ regUses .s a false 1 false false)) →
      let put := s.setBeam (x.putS d bar.word)
      let read := if bar.phase ≠ (x.b.sreg d.toNat).toNat % 2 ∧ (bar.st = 1 ∨ bar.st = 3) then put.acquirePhase x.b.key off
        else put
      (dead → Goes s x (.btest d a) (s.setBeam (x.putS d (Fmt.absent .n64)))) ∧
      (¬dead → s.barTrap x .read false off = none →
        (bar.formed = false → Traps s x (.btest d a) (s.syncTrap x 8 off)) ∧
        (bar.formed = true → bar.st ≠ 3 → Goes s x (.btest d a) read) ∧
        (bar.formed = true → bar.st = 3 → Goes s x (.btest d a)
          ((read.putBar c.key off { bar with st := 1 }).modCore x.core fun k =>
            { k with orphans := k.orphans.filter fun o => !(o.cohort == c.key && o.off == off) })))))

/-- R274, R275: After a change of ARRIVED or of a count the phase flips exactly when the arrivals are those expected
and every valid count is 0: PHASE changes, ARRIVED and the counts are 0 and no slot is valid; every waiter on the
barrier wakes with the new phase, and the REPLAY marks of the phase are noted as over. Otherwise the barrier holds
what it was given and nobody wakes. A byte count finds its source core's slot, or takes the lowest slot that is not
valid, and adds to it; it is refused where no slot is left or the count leaves 32 bits. The other slots are as before.
-/
def Obligations.PhaseFlips : Prop :=
  (∀ (s : State) (c : CohortKey) (off : Nat) (b : Bar),
    (b.complete = false → s.barChanged c off b = s.putBar c off b) ∧
    (b.complete = true →
      s.barChanged c off b = ((s.putBar c off b.flip).marksOver c off).wakeBar c off (1 + b.flip.phase) ∧
      b.flip.phase = 1 - b.phase ∧ b.flip.arr = 0 ∧ b.flip.valid = 0 ∧ b.flip.exp = b.exp ∧ b.flip.st = b.st) ∧
    (b.complete = true ↔ (b.st = 1 ∨ b.st = 3) ∧ b.arr = b.exp ∧
      ∀ k, k < 4 → b.slotValid k = true → b.cnt.getD k 0 = 0)) ∧
  (∀ (b : Bar) (q : Nat) (d : Int), b.src.length = 4 → b.cnt.length = 4 →
    (∀ k, b.slotOf q = some k →
      let c := b.cnt.getD k 0 + d
      (c < -(2 ^ 31) ∨ 2 ^ 31 ≤ c → b.apply q d = none) ∧
      (-(2 ^ 31) ≤ c → c < 2 ^ 31 → ∃ b', b.apply q d = some b' ∧ b'.cnt.getD k 0 = c ∧ b'.valid = b.valid ∧
        b'.arr = b.arr ∧ b'.exp = b.exp ∧ b'.phase = b.phase ∧ b'.st = b.st ∧
        ∀ j, j ≠ k → b'.cnt.getD j 0 = b.cnt.getD j 0 ∧ b'.src.getD j 0 = b.src.getD j 0)) ∧
    (b.slotOf q = none →
      ((∀ k, k < 4 → b.slotValid k = true) → b.apply q d = none) ∧
      (∀ k, k < 4 → b.slotValid k = false → (∀ j, j < k → b.slotValid j = true) → -(2 ^ 31) ≤ d → d < 2 ^ 31 →
        ∃ b', b.apply q d = some b' ∧ b'.slotValid k = true ∧ b'.src.getD k 0 = q ∧ b'.cnt.getD k 0 = d ∧
          ∀ j, j ≠ k → b'.cnt.getD j 0 = b.cnt.getD j 0 ∧ b'.slotValid j = b.slotValid j)))

/-! ### Engines -/

/-- R255, R256: MAPLD. An absent address has no effect; an image that fails a check traps ENGINE code 1 with the slot
and the failing byte, and a valid one is in the cohort's map slot afterwards. An image read by words at a multiple of
8, and the byte named where several fail, are the model's reading (log entry 41). -/
def Obligations.MapldLoads : Prop :=
  ∀ (s : State) (x : Frag) (d : Reg) (sp : Bool) (a : Reg) (c : Cohort),
    Clear s x (plain ({ set := .m, r := d.toNat, src := 0, dst := true, trap := false } :: regUses .s a false 1 false false)) →
    s.cohort? x.b.cohort = some c →
    let v := (x.b.sreg a.toNat).toNat
    let bs := s.mapImage x sp v
    let fs := s.mapFaults x sp v
    (Fmt.isAbsent .n64 v = true → Goes s x (.mapld d sp a) s) ∧
    (Fmt.isAbsent .n64 v = false → ∀ tr, x.mapTrap sp fs = some tr → Traps s x (.mapld d sp a) tr) ∧
    (Fmt.isAbsent .n64 v = false → x.mapTrap sp fs = none →
      (∀ byte, (TMap.ofBytes bs).bad bs = some byte → Traps s x (.mapld d sp a) (x.engTrap 1 d.toNat byte)) ∧
      ((TMap.ofBytes bs).bad bs = none →
        Goes s x (.mapld d sp a)
          ((s.notes x (mapWord sp) (x.mapWords v)).setCohort { c with maps := c.maps.set d.toNat (some bs) })))

/-- R253, R254, R260, R262, R268, R273, R282, R291, R401, R402: CPY, CPYCSR, GREAD and CND complete by entering a
request in their engine's queue: with an absent offset they have no effect; where the checks of R253 pass and the
queue has room the request carries the map, the box start, the barrier, the scope and the parameters, none of its
bursts made. A full queue holds the instruction up. COLL enters its request and takes part in the link group that its
handle names, under the group's next operation number; a handle that names none faults the request with code 30. That
its source is read when it issues is the model's choice (log entry 35). -/
def Obligations.EngineIssue : Prop :=
  (∀ (s : State) (x : Frag) (st : Bool) (map : BitVec 4) (ch : BitVec 3) (sc : Scope) (d a b c : Reg) (f : Fmt)
    (mode : GMode) (hdl : Word) (bs : List Byte),
    let bar := (x.b.sreg a.toNat).toNat
    let ready := Fmt.isAbsent .n64 bar = false ∧ s.barTrap x .read false bar = none
    let m := TMap.ofBytes bs
    let four := (List.range 4).map fun j => x.b.sreg (b.toNat + j)
    (let i := Instr.cpy st map ch sc d a b
     let image := (x.b.sreg d.toNat).toNat
     Clear s x { priv := false, noGlint := true
                 uses := regUses .s d false 0 false false ++ regUses .s a false 1 false false ++ groupUses b (s.coordRegs map.toNat) 2 } →
       (Fmt.isAbsent .n64 bar = true → Goes s x i s) ∧
       (ready → Fmt.isAbsent .n64 image = true → Goes s x i s) ∧
       (ready → Fmt.isAbsent .n64 image = false → s.mapIn x.b.cohort map.toNat = none → Traps s x i (x.engTrap 5 map.toNat 0)) ∧
       (ready → Fmt.isAbsent .n64 image = false → s.mapIn x.b.cohort map.toNat = some bs →
         s.winTrap x (if st then .read else .write) 1 1 image m.size = none → m.chain ≠ (if st then 1 else 2) →
         m.bursts ≤ 65536 → (st = true → m.badStart (x.coords b m.rank) = false) →
         (s.engineFull x.core 0 = true → exec i s = .next s) ∧
         (s.engineFull x.core 0 = false → Goes s x i
           (s.enqueue (Req.new s.nextId x (.cpy st image ch.toNat) bs (x.coords b m.rank) bar sc [] m.bursts))))) ∧
    (let i := Instr.cpycsr f ch sc d a b c
     let idx := (x.b.sreg d.toNat).toNat
     let val := (x.b.sreg (d.toNat + 1)).toNat
     let cap := (x.b.sreg c.toNat).toNat
     let n := bits (x.b.sreg (b.toNat + 3)).toNat 32 32
     Clear s x { priv := false, noGlint := true
                 uses := groupUses d 2 0 ++ regUses .s a false 1 false false ++ groupUses b 4 2 ++ regUses .s c false 3 false false } →
       (Fmt.isAbsent .n64 bar = true → Goes s x i s) ∧
       (ready → Fmt.isAbsent .n64 idx = true ∨ Fmt.isAbsent .n64 val = true → Goes s x i s) ∧
       (ready → Fmt.isAbsent .n64 idx = false → Fmt.isAbsent .n64 val = false →
         s.winTrap x .write 1 1 idx (4 * (n + 1) + 4 * cap) = none → s.winTrap x .write 1 1 val (fmtBytes f cap) = none →
         s.engineFull x.core 0 = false → Goes s x i
           (s.enqueue (Req.new s.nextId x (.csr f idx val cap ch.toNat) [] [] bar sc four 1)))) ∧
    (let i := Instr.gread mode map sc d a c hdl
     let log := if mode == .plain then 0 else (x.b.sreg (c.toNat + 1)).toNat
     let target := x.target (sext 32 hdl.toNat)
     Clear s x { priv := false, noGlint := true, uses := s.greadUses map.toNat mode d a c } →
       (Fmt.isAbsent .n64 bar = true → Goes s x i s) ∧
       (ready → mode ≠ .plain → Fmt.isAbsent .n64 log = true → Goes s x i s) ∧
       (ready → (mode = .plain ∨ Fmt.isAbsent .n64 log = false) → s.mapIn x.b.cohort map.toNat = some bs →
         ∀ cx, s.contextOf x.b = some cx →
         (s.headerIs x.core cx target headerG = false → Traps s x i (x.engTrap 2 map.toNat 0)) ∧
         (s.headerIs x.core cx target headerG = true → m.chain = 0 → m.bursts ≤ 65536 →
           s.logTrap x mode log m.bursts = none → s.engineFull x.core 1 = false →
           let r := Req.new s.nextId x (.gread target (x.b.sreg c.toNat) mode log) bs (x.coords d m.rank) bar sc [] m.bursts
           Goes s x i ((if mode == .record then s.deliver r log (natLe 4 0) else s).enqueue r)))) ∧
    (let i := Instr.cnd f sc a b
     let sh := cndShape (x.b.sreg (b.toNat + 2)) (x.b.sreg (b.toNat + 3))
     Clear s x { priv := false, noGlint := true, uses := regUses .s a false 1 false false ++ groupUses b 4 2 } →
       (Fmt.isAbsent .n64 bar = true → Goes s x i s) ∧
       (ready → (sh.ok = true → s.winTrap x .write 1 1 sh.y (6 * sh.n * sh.b) = none) → s.engineFull x.core 2 = false →
         Goes s x i (s.enqueue (s.cndSource (Req.new s.nextId x (.cnd f) [] [] bar sc four 1)))))) ∧
  (∀ (s : State) (x : Frag) (kind : CollKind) (op : RedOp) (fast cnt : Bool) (f : Fmt) (sc : Scope) (a b : Reg),
    Clear s x { priv := false, noGlint := true, uses := regUses .s a false 1 false false ++ groupUses b 4 2 } →
    let i := Instr.coll kind op fast cnt f sc a b
    let bar := (x.b.sreg a.toNat).toNat
    let four := (List.range 4).map fun j => x.b.sreg (b.toNat + j)
    let none_ : CollOp := { part := 0, group := 0, op := 0, ranks := 0, rank := 0, head := [] }
    let s' := s.enqueue (Req.new s.nextId x (.coll kind op fast cnt f none_) [] [] bar sc four 1)
    (Fmt.isAbsent .n64 bar = true → Goes s x i s) ∧
    (Fmt.isAbsent .n64 bar = false → s.barTrap x .read false bar = none →
      (s.engineFull x.core 3 = true → exec i s = .next s) ∧
      (s.engineFull x.core 3 = false → ∀ p, s.partOfCore x.core = some p →
        (s'.linkOf p.id (collArgs four).h = none → Goes s x i (s'.collFault s.nextId 30)) ∧
        (∀ g, s'.linkOf p.id (collArgs four).h = some g →
          Goes s x i (s'.collStart s.nextId kind op fast cnt f g p)))))

/-- R266, R253, R281, R454: CHWAIT goes on when the channel's write pointer as the cohort sees it has reached the
target, the beam having acquired what copies have delivered, or at once where the target is absent; otherwise it
sleeps at its target and, sleeping, stays. CPY_RESUME and GREAD_RESUME. An absent offset has no effect and a bad
barrier traps; with no request to queue the barrier is armed again at once; requests of their engine parked on it go
to the end of its queue, the barrier armed, once the queue has room for them, and until then the resume stays. A copy
starts again at its lowest faulting burst; a handler read reads its faulted bursts again, but one that had produced a
glint is not touched. That the barrier is judged first and armed at once, and that all the requests are queued or
none, are the model's reading (log entry 43). -/
def Obligations.ChwaitAndResume : Prop :=
  (∀ (s : State) (x : Frag) (ch : BitVec 3) (a : Reg),
    Clear s x { priv := false, noGlint := true, uses := regUses .s a false 1 false false } →
    let i := Instr.chwait ch a
    let wp := (s.chanView x.b ch.toNat).toNat
    (x.entry.wait = none →
      let target := (x.b.sreg a.toNat).toNat
      (Fmt.isAbsent .n64 target = true → Goes s x i s) ∧
      (Fmt.isAbsent .n64 target = false → target ≤ wp → Goes s x i (s.catchUp x.b.key)) ∧
      (Fmt.isAbsent .n64 target = false → wp < target → ∃ w, w.kind = .chwait ∧ w.aux = target ∧ w.ins = i ∧
        exec i s = .next (s.sleep x w))) ∧
    (∀ w, x.entry.wait = some w → w.kind = .chwait → Fmt.isAbsent .n64 w.aux = false →
      (w.aux ≤ wp → Goes s x i (s.catchUp x.b.key)) ∧ (wp < w.aux → exec i s = .next s))) ∧
  (∀ (s : State) (x : Frag) (sc : Scope) (a : Reg),
    Clear s x { priv := false, noGlint := true, uses := regUses .s a false 1 false false } →
    let off := (x.b.sreg a.toNat).toNat
    let runs := fun (i : Instr) (eng : Nat) =>
      (Fmt.isAbsent .n64 off = true → Goes s x i s) ∧
      (Fmt.isAbsent .n64 off = false →
        (∀ tr, s.barTrap x .read false off = some tr → Traps s x i tr) ∧
        (s.barTrap x .read false off = none →
          let mine := fun r : Req => r.core == x.core && r.cohort == x.b.cohort && r.barrier == off && r.parked
          let rs := s.reqs.filter fun r => mine r && !r.dropped && r.kind.engine == eng &&
            (match r.kind with | .csr .. => false | _ => true)
          let s' : State := { s with reqs := s.reqs.filter fun r => !(mine r && r.dropped) }
          (rs = [] → Goes s x i (s'.rearm x.b.cohort off)) ∧
          (rs ≠ [] → s.queued x.core eng + rs.length ≤ 64 →
            Goes s x i (rs.foldl State.restartReq (s'.rearm x.b.cohort off))) ∧
          (rs ≠ [] → 64 < s.queued x.core eng + rs.length → exec i s = .next s)))
    runs (.cpyResume sc a) 0 ∧ runs (.greadResume sc a) 1 ∧
    (∀ (r : Req) st image ch k kind, r.kind = .cpy st image ch → r.lowest = some (k, kind) →
      r.restart.parked = false ∧ r.restart.bursts.length = r.bursts.length ∧
      ∀ j, j < r.bursts.length → r.restart.bursts[j]? = if j < k then r.bursts[j]? else some .waiting) ∧
    (∀ (r : Req) target user mode log, r.kind = .gread target user mode log → r.restart.parked = false ∧
      r.restart.bursts.length = r.bursts.length ∧
      ∀ (j : Nat) (b : BState), r.bursts[j]? = some b → r.restart.bursts[j]? = some (match b with
        | BState.faulted k => if k = 29 then BState.done else BState.waiting
        | b => b)))

/-- R70, R262, R263, R264, R309, R386, R404, R314, R275, R279, R372: COPY_BURST: the next burst of the first copy of a
channel. A load's bytes are delivered to the window at the image's place and the channel's write pointer has grown by
them unless an earlier burst faulted; a store's bytes are written to its places, a burst that writes nibbles reading
their bytes first and writing them back in a later step; one that cannot be read or written faults the burst and
writes nothing, but for a row whose span does not fit its slot, whose slot then holds open bytes (log entry 8). A read
of far memory whose port is down fails once the fabric timeout has passed. COPY_COMPLETE counts the bytes of a copy
whose bursts are all done on its barrier and ends the request; a parked copy, one with a burst still to make, and a
store whose writes are not all performed at its SCOPE stay as they are. A request counts its bytes on its barrier with
the change of R274 where a slot takes them; an orphan, or a request of a barrier that is gone, enters the orphan log
instead, and the barrier is as before. The order of the bursts is the model's choice (log entry 19). -/
def Obligations.CopyBursts : Prop :=
  (∀ (s : State) (core req k image ch : Nat) (st : Bool) (r : Req), s.req? req = some r → r.core = core → r.dropped = false →
    r.kind = .cpy st image ch → r.parked = false → s.headOfChan r = true →
    (∀ j b, j < k → r.bursts[j]? = some b → b.open_ = false) →
    let x := r.xfer
    let p := x.m.piece k
    let spoiled := fun fl : Nat =>
      ∃ t r', exec (.copyBurst core req k) s = .next t ∧ t.mem = s.mem ∧ t.cohorts = s.cohorts ∧ t.cores = s.cores ∧
        t.req? req = some r' ∧ r'.bursts = r.bursts.set k (.faulted fl)
    let unreachable :=
      let limit := ((s.partOfCore core).map (·.timeout)).getD 0
      (r.down = none → exec (.copyBurst core req k) s = .next (s.setReq { r with down := some s.clock })) ∧
      (∀ t, r.down = some t → (s.clock < t + limit → exec (.copyBurst core req k) s = .next s) ∧
        (t + limit ≤ s.clock → spoiled 20))
    (st = false → r.bursts[k]? = some .waiting →
      (∀ fl, fl ≠ 20 → x.loadPiece s p = .error fl → spoiled fl) ∧ (x.loadPiece s p = .error 20 → unreachable) ∧
      (∀ bs fl, x.loadPiece s p = .ok (bs, fl) →
        ∃ u t r', u = (s.burstNotes x (x.elems p) (x.touched s (x.elems p))).deliver r (image + x.m.at_ p) bs ∧
          exec (.copyBurst core req k) s = .next t ∧ t.mem = u.mem ∧ t.cohorts = u.cohorts ∧ t.beams = u.beams ∧
          t.fills = u.fills ∧
          t.req? req = some r' ∧ r'.bursts = r.bursts.set k .done ∧ r'.delivered = r.delivered + bs.length ∧
          (r.lowest = none → t.cores = (u.wpAdd core ch bs.length).cores) ∧
          (r.lowest ≠ none → t.cores = u.cores))) ∧
    (st = true → (r.bursts[k]?.any BState.open_) = true →
      (∀ fl, fl ≠ 20 → fl ≠ 23 → x.storePiece s image p = .error fl → spoiled fl) ∧
      (x.storePiece s image p = .error 20 → unreachable) ∧
      (x.storePiece s image p = .error 23 → ∃ t r', exec (.copyBurst core req k) s = .next t ∧
        t.mem = (s.storeFails r p 23).mem ∧ t.cohorts = (s.storeFails r p 23).cohorts ∧ t.req? req = some r' ∧
        r'.bursts = r.bursts.set k (.faulted 23)) ∧
      (∀ ws fl, x.storePiece s image p = .ok (ws, fl) →
        (∀ f, s.engWritesFault core r.cohort x.m.space ws = some f → spoiled f) ∧
        (s.engWritesFault core r.cohort x.m.space ws = none → s.engMigrates core r.cohort x.m.space ws = false →
          let olds := s.engOlds core r.cohort x.m.space ws
          (r.bursts[k]? = some .waiting → olds ≠ [] →
            ∃ t r', exec (.copyBurst core req k) s = .next t ∧ t.mem = s.mem ∧ t.cohorts = s.cohorts ∧
              t.req? req = some r' ∧ r'.bursts = r.bursts.set k (.read olds)) ∧
          (∀ bs, (r.bursts[k]? = some (.read bs) ∨ r.bursts[k]? = some .waiting ∧ olds = [] ∧ bs = []) →
            ∃ u t r', u = ((s.burstNotes x (x.elems p) []).engNotes core r.cohort x.m.space true (wrEnds ws)).engWrites r
                x.m.space bs ws [] ∧
              exec (.copyBurst core req k) s = .next t ∧ t.mem = u.mem ∧ t.cohorts = u.cohorts ∧ t.cores = u.cores ∧
              t.req? req = some r' ∧ r'.bursts = r.bursts.set k .done))))) ∧
  (∀ (s : State) (core req image ch : Nat) (st : Bool) (r : Req), s.req? req = some r →
    r.core = core → r.dropped = false → r.kind = .cpy st image ch →
    (r.parked = false → (∀ b ∈ r.bursts, b = .done) → s.unfinished r = false →
      let n := r.bytesFrom r.first r.bursts.length
      exec (.copyComplete core req) s =
        .next (((if st then s.wpAdd core ch n else s).reqFlags req).countAndEnd req n)) ∧
    (r.parked = true ∨ (∃ b ∈ r.bursts, b ≠ .done) ∨ s.unfinished r = true → exec (.copyComplete core req) s = .next s) ∧
    (s.unfinished r = true ↔ r.scope = .sys ∧ s.unacked (.req req) = true)) ∧
  (∀ (s : State) (id n : Nat) (r : Req), s.req? id = some r →
    (s.barLive r = false →
      s.barCount id n = s.orphaned r.core { cohort := r.cohort, off := r.barrier, bytes := n }) ∧
    (s.barLive r = true → ∀ b, (s.bar r.cohort r.barrier).apply r.core (-(n : Int)) = some b →
      s.barCount id n = (s.setReq { r with counted := r.counted + n }).barChanged r.cohort r.barrier b) ∧
    (∀ o, (s.orphaned r.core o).mem = s.mem ∧ (s.orphaned r.core o).cohorts = s.cohorts ∧
      (s.orphaned r.core o).beams = s.beams))

/-- R280, R412, R267, R282, R284, R292, R293, R404, R452: ENGINE_FAULT. A copy with every burst resolved and one
faulted counts the bytes below the lowest and parks; a handler read so resolved parks with its barrier faulted with
the kind and the index of the lowest faulted burst, and the waiters on it wake; of a request with a burst left that
burst meets an uncorrectable error, and one without bursts faults its barrier with HWERR and index 0xFFFF. A store
copy first waits until its writes are performed at its SCOPE (R314). The completions of the engines. CPYCSR delivers
its index and its value buffer, moves the channel's pointer, counts one arrival and ends; CND writes its results and
counts, then in a later step counts their bytes, or its barrier faults; which of an activation's, a stream's and a
result's bytes are old and which new where another agent changes them meanwhile is open (log entry 5). COLL with every
contribution, and no message of its own unanswered, writes the result and the kept counts and counts their bytes. What
cannot be read because its far memory's port is down faults once the fabric timeout has passed. That the results are
written in one step is the model's choice (log entry 19). What a faulted CND or COLL leaves in its results is open
(log entries 8 and 35). -/
def Obligations.EngineEnds : Prop :=
  (∀ (s : State) (core req : Nat) (r : Req), s.req? req = some r → r.core = core → r.parked = false → r.dropped = false →
    (∀ k kind target log user mode c, r.kind = .gread target user mode log →
      r.hasWaiting = false → r.lowest = some (k, kind) → k < 2 ^ 16 → kind < 256 →
      s.cohort? r.cohort = some c → c.st = .resident → s.barLive r = true → (s.faultList core).length < 64 →
      (s.bar r.cohort r.barrier).fault = 0 →
      ∃ t r', exec (.engineFault core req) s = .next t ∧ t.req? req = some r' ∧ r'.parked = true ∧ r'.fault = some k ∧
        (t.bar r.cohort r.barrier).st = 2 ∧ (t.bar r.cohort r.barrier).fault % 2 ^ 16 = k ∧
        (t.bar r.cohort r.barrier).fault / 2 ^ 24 = kind ∧ t.mem = s.mem) ∧
    (∀ st image ch k kind, r.kind = .cpy st image ch → r.hasWaiting = false → r.lowest = some (k, kind) →
      exec (.engineFault core req) s = .next (if s.unfinished r then s else s.copyFault r st ch k kind)) ∧
    (∀ st image ch, r.kind = .cpy st image ch → r.hasWaiting = true →
      exec (.engineFault core req) s = .next (s.setReq (r.setBurst (r.bursts.findIdx BState.open_) (.faulted 20)))) ∧
    (∀ target user mode log, r.kind = .gread target user mode log → r.hasWaiting = true →
      exec (.engineFault core req) s = .next (s.setReq (r.setBurst (r.bursts.findIdx (· == .waiting)) (.faulted 20)))) ∧
    ((∃ f i v cap ch, r.kind = .csr f i v cap ch) ∨ (∃ f, r.kind = .cnd f) ∨ (∃ k op fast cnt f o, r.kind = .coll k op fast cnt f o) →
      exec (.engineFault core req) s = .next (s.barFault req 20 0xFFFF))) ∧
  (∀ (s : State) (core req : Nat) (r : Req), s.req? req = some r → r.core = core → r.parked = false → r.dropped = false →
    let late := fun (i : Instr) (go : State) =>
      let limit := ((s.partOfCore core).map (·.timeout)).getD 0
      (r.down = none → exec i s = .next (s.setReq { r with down := some s.clock })) ∧
      (∀ t, r.down = some t → (s.clock < t + limit → exec i s = .next s) ∧ (t + limit ≤ s.clock → exec i s = .next go))
    (∀ f idx val cap ch, r.kind = .csr f idx val cap ch → s.headOfChan r = true →
      (∀ k, k ≠ 20 → s.csrData r f cap = .error k → exec (.cpycsrComplete core req) s = .next (s.barFault req k 0xFFFF)) ∧
      (s.csrData r f cap = .error 20 → late (.cpycsrComplete core req) (s.barFault req 20 0xFFFF)) ∧
      (∀ is vs reads, s.csrData r f cap = .ok (is, vs, reads) →
        let u := ((s.engNotes core r.cohort false false reads).deliver r idx is).deliver r val vs
        let n := is.length + vs.length
        exec (.cpycsrComplete core req) s =
          .next ((((u.wpAdd core ch n).setReq { r with delivered := n }).barArrive req).dropReq req))) ∧
    (∀ f, r.kind = .cnd f →
      let sh := cndShape (r.params.getD 2 0) (r.params.getD 3 0)
      (sh.ok = false → exec (.cndComplete core req) s = .next (s.barFault req 25 0xFFFF)) ∧
      (∀ bs, sh.ok = true → (∀ b, r.bursts.head? ≠ some (.read b)) →
        (∀ k, k ≠ 20 → (s.cndStream r = .error k ∨ s.cndStream r = .ok bs ∧ s.cndRun r f sh (s.cndReads r bs) = .error k) →
          exec (.cndComplete core req) s = .next ((s.cndSpoiled r sh).barFault req k 0xFFFF)) ∧
        (s.cndStream r = .error 20 → late (.cndComplete core req) ((s.cndSpoiled r sh).barFault req 20 0xFFFF)) ∧
        (∀ o, s.cndStream r = .ok bs → s.cndRun r f sh (s.cndReads r bs) = .ok o →
          let u := s.engNotes core r.cohort false false ((pagesOf (r.params.getD 0 0).toNat bs.length).map fun q : Nat => (q : Int))
          let q := cndBytes o
          exec (.cndComplete core req) s =
            .next ((u.deliver r sh.y (u.cndTaken r sh.y (fun k => u.cndWas r (sh.y + k)) q.1)).setReq
              { r.setBurst 0 (.read q.1) with flags := q.2, delivered := q.1.length, down := none }))) ∧
      (∀ bs rest, sh.ok = true → r.bursts = .read bs :: rest →
        exec (.cndComplete core req) s =
          .next (((s.deliver r sh.y (s.cndTaken r sh.y (fun k => bs.getD k 0) bs)).reqFlags req).countAndEnd req bs.length)) ∧
      (∀ off now, s.cndSees r off now = now ∨ s.cndSees r off now = s.cndWas r off)) ∧
    (∀ kind op fast cnt f o, r.kind = .coll kind op fast cnt f o → r.parts.length = o.ranks →
      let a := collArgs r.params
      let parts := (List.range o.ranks).map fun k => ((r.parts.find? fun p => p.1 == k).map (·.2)).getD []
      (s.collWaits req = true → exec (.collComplete core req) s = .next s) ∧
      ((∀ d ∈ parts, a.e * (Fmt.width f / 8) ≤ d.length) → s.collWaits req = false →
      let ns := collResult kind op fast f o a.e s.free parts
      let data := ns.flatMap fun n => natLe (Fmt.width f / 8) (n.val.getD (Fmt.absent f))
      let counts := if cnt then ns.flatMap fun n => natLe 2 (min n.count 65534) else []
      let w := ((s.cohort? r.cohort).map (·.wsize)).getD 0
      let n := data.length + counts.length
      let fl := orFlags (ns.map fun n => n.flags ||| if n.count ≥ 65534 then SAT else 0)
      (w < a.dst + data.length → exec (.collComplete core req) s = .next (s.collFault req 19)) ∧
      (a.dst + data.length ≤ w → (cnt = true → a.cnt + counts.length ≤ w) →
        exec (.collComplete core req) s =
          .next (((((s.deliver r a.dst data).deliver r a.cnt counts).setReq
            { r with flags := fl, delivered := n }).reqFlags req).countAndEnd req n)))))

/-- R269, R270, R271, R314: GLINT_BIRTH: a burst that is read becomes a glint of 32 lanes in the free slot: it starts
at the handler with every lane, the burst's bytes in v0, its number, coordinates with the number of valid elements,
user argument and barrier in s0 to s5, every other vector and scalar register absent, the truth registers FALSE and
the status 0; under the plain mode nothing of the window changes. GDONE of a converged glint waits until its accesses
are performed at its request's SCOPE; then it frees its slot, marks its burst done, raises its flags on the issuing
beam and counts 128 bytes. A beam that is no glint, and a diverged glint, trap CONVERGENCE 2. The padding of a burst
and the count of its valid elements are read from R269 (log entry 44). -/
def Obligations.Glints : Prop :=
  (∀ (s : State) (core req burst slot target log : Nat) (user : DWord) (r : Req) (bs : List Byte), s.req? req = some r →
    r.core = core → r.dropped = false → 64 ≤ slot → slot < 80 → s.beam? ⟨core, slot⟩ = none →
    r.kind = .gread target user .plain log → r.bursts[burst]? = some (.read bs) →
    ∃ t b r', exec (.glintBirth core req burst slot) s = .next t ∧ t.mem = s.mem ∧ t.cohorts = s.cohorts ∧
      t.beam? ⟨core, slot⟩ = some b ∧ (∀ k, k ≠ ⟨core, slot⟩ → t.beam? k = s.beam? k) ∧
      t.req? req = some r' ∧ r'.bursts = r.bursts.set burst .running ∧ r'.births = r.births ++ [burst] ∧
      b.w = 32 ∧ b.cohort = r.cohort ∧ (b.entry 0).st = .run ∧ (b.entry 0).pc = target ∧ (b.entry 0).mask = 0xFFFFFFFF ∧
      b.sreg 0 = BitVec.ofNat 64 burst ∧
      (let c := r.glintCoord burst
       let m := TMap.ofBytes r.map
       b.sreg 1 = BitVec.ofNat 64 (c 0 + 2 ^ 32 * c 1) ∧ b.sreg 2 = BitVec.ofNat 64 (c 2 + 2 ^ 32 * c 3) ∧
       b.sreg 3 = BitVec.ofNat 64 (c 4 + 2 ^ 32 * m.valid (m.piece burst))) ∧
      b.status = 0 ∧ (∀ l ∈ b.c, ∀ q ∈ l, q = 0) ∧ (∀ q ∈ b.k, q = 0) ∧ b.sreg 4 = user ∧ b.sreg 5 = BitVec.ofNat 64 r.barrier ∧ b.sreg 6 = ~~~0 ∧
      b.sreg 7 = ~~~0 ∧ (∀ n i, 1 ≤ n → n < 16 → i < 32 → b.vl n i = ~~~0) ∧
      (bs.length = 128 → Fmt.four (TMap.ofBytes r.map).fmt = false →
        ∀ i, i < 32 → b.vl 0 i = BitVec.ofNat 32 (leNat (Xfer.slice bs (4 * i) 4)))) ∧
  (∀ (s : State) (x : Frag), Clear s x (plain []) →
    (x.b.glint = none → Traps s x .gdone (x.glintTrap 2)) ∧
    (∀ g, x.b.glint = some g →
      (x.b.converged = false → Traps s x .gdone (x.glintTrap 3)) ∧
      (x.b.converged = true → ∀ r, s.req? g.req = some r → s.unperformed x r.scope = true → exec .gdone s = .next s) ∧
      (x.b.converged = true → ∀ r, s.req? g.req = some r → s.unperformed x r.scope = false →
        ∃ u t, u = ((s.raise g.issuer x.b.status).dropGlint x.b.key).setReq
            { r.setBurst g.burst .done with delivered := r.delivered + 128 } ∧
          exec .gdone s = .next t ∧ t = (u.barCount g.req 128).reqEnds g.req ∧ u.beam? x.b.key = none ∧ u.mem = s.mem)))

/-- R44, R45, R286, R287, R288, R60, R289, R290: MMA and MMAS are taken by the quadrant's matrix unit where it and the
tiles are free: in deterministic issue mode the unit is busy for 32 cycles a tile and the updated tiles come 8 cycles
later; nothing else changes. A busy unit or tile holds them up. Each byte of B that another agent changes meanwhile is
taken as it was or as it is, and the beam's own later writes take nothing of a multiplication. MMA_COMPLETE puts the
tiles in place and raises the flags. That outside deterministic issue mode the unit is free and the tiles are ready at
once, that a busy unit or tile holds the instruction up, and the choice of B's bytes are the model's (log entries 11,
34 and 61). MCLR makes every element of its tile absent with count 0; MLDA loads its tiles from the lanes; MSTA stores
the elements, the scales and the kept counts where their offsets are present. A tile with a multiplication in flight
holds them up. -/
def Obligations.MatrixAndTiles : Prop :=
  (∀ (s : State) (x : Frag) (fa fb : Fmt) (mixed : Bool) (d : Reg) (a c : VArg) (b : SArg),
    let off := x.sval b
    let started := fun (i : Instr) (m : MmaOp) =>
      (s.unitBusy x = true ∨ s.tileBusy x.b.key d.toNat x.tiles = true → exec i s = .next s) ∧
      (s.unitBusy x = false → s.tileBusy x.b.key d.toNat x.tiles = false →
        Goes s x i (s.mmaStart x d.toNat m))
    (Clear s x { priv := false, noGlint := true
                 uses := tileUses d s.pairWidth true 0 ++ rowUses a (aRegs fa) 1 ++ SArg.uses 2 b } →
      (∀ tr, x.oddTrap a = some tr → Traps s x (.mma fa fb d a b) tr) ∧
      (∀ tr, x.oddTrap a = none → x.shapeTrap d = some tr → Traps s x (.mma fa fb d a b) tr) ∧
      (x.oddTrap a = none → x.shapeTrap d = none → s.matTrap x .read off (bBytes fb) = none →
        started (.mma fa fb d a b)
          { int := fa == .s8, scaled := false, fa := fa, fb := fb, xa := []
            a := (List.range x.w).map fun i => x.rowBytes a (aRegs fa) i, off := offOf off
            b := s.operandB x.b.cohort (offOf off) (bBytes fb)
            tiles := (List.range x.tiles).map fun h => x.b.tile (d.toNat + h) })) ∧
    (Clear s x { priv := false, noGlint := true
                 uses := tileUses d s.pairWidth true 0 ++ rowUses a (aRegs fa) 1 ++ SArg.uses 2 b ++ VArg.uses false 3 c } →
      let fb := otherMx fa mixed
      let nb := depthOf fa / 32
      x.oddTrap a = none → x.shapeTrap d = none → s.matTrap x .read off (bBytes fb + 32 * nb) = none →
      started (.mmas fa mixed d a b c)
        { int := false, scaled := true, fa := fa, fb := fb, a := (List.range x.w).map fun i => x.rowBytes a (aRegs fa) i
          xa := (List.range x.w).map fun i => x.rowBytes c 1 i, off := offOf off
          b := s.operandB x.b.cohort (offOf off) (bBytes fb + 32 * nb)
          tiles := (List.range x.tiles).map fun h => x.b.tile (d.toNat + h) }) ∧
    (∀ m : MmaOp, (s.mmaStart x d.toNat m).mmas = s.mmas ++ [{ (⟨x.b.key, m, d.toNat, m.product.1, m.product.2, 0⟩ : MmaPend) with
      ready := s.clock + if (s.coreOf x.core).dim then 32 * x.tiles + 8 else 0 }] ∧
      (∀ c q, s.core? x.core = some c → c.quads[quadOf x.b.key.slot]? = some q →
        ((s.mmaStart x d.toNat m).coreOf x.core).quads[quadOf x.b.key.slot]? =
          some { q with muBusy := s.clock + if c.dim then 32 * x.tiles else 0 })) ∧
    (∀ (m : MmaPend) (was now : List Byte) (newer : Nat → Bool), (m.sees was now newer).op =
        { m.op with b := m.op.b.zipIdx.map fun p => if was.getD p.2 0 ≠ now.getD p.2 0 ∧ newer p.2 = true then now.getD p.2 0 else p.1 } ∧
      ((m.tiles, m.flags) = m.op.product →
        ((m.sees was now newer).tiles, (m.sees was now newer).flags) = (m.sees was now newer).op.product)) ∧
    (∀ (t : State) (m : MmaPend), m ∈ t.mmas → m ∈ (t.mmaSees (some m.beam) s).mmas) ∧
    (∀ (k : BeamKey) (y : Beam) (m : MmaPend), s.beam? k = some y →
      s.mmas.find? (fun m => m.beam == k && decide (m.ready ≤ s.clock)) = some m →
      ∃ t z, exec (.mmaComplete k) s = .next t ∧ t.mem = s.mem ∧ t.mmas = s.mmas.erase m ∧ t.beam? k = some z ∧
        { z with tiles := y.tiles, status := y.status } = y ∧ z.status = y.status ||| m.flags ∧
        (∀ n, n < m.tile ∨ m.tile + m.tiles.length ≤ n → z.tiles[n]? = y.tiles[n]?) ∧
        (∀ n ti, m.tiles[n]? = some ti → m.tile + n < y.tiles.length → z.tiles[m.tile + n]? = some ti))) ∧
  (∀ (s : State) (x : Frag) (t : Ty) (f : Fmt) (r : Rnd) (d a : Reg) (o : VArg) (oc : Option VArg) (b c : Option SArg),
    (Clear s x { priv := false, noGlint := false, uses := tileUses d false true 0 } →
      (s.tileBusy x.b.key d.toNat 1 = true → exec (.mclr d) s = .next s) ∧
      (s.tileBusy x.b.key d.toNat 1 = false →
        Goes s x (.mclr d) (s.setBeam { x.b with
          tiles := x.b.tiles.set d.toNat { vals := List.replicate 1024 0xFFFFFFFF, cnts := List.replicate 1024 0 } }))) ∧
    (Clear s x { priv := false, noGlint := false
                 uses := tileUses d s.pairWidth true 0 ++ rowUses o 32 1 ++
                   (match oc with | some o => rowUses o 16 3 | none => []) } →
      (∀ tr, x.shapeTrap d = some tr → Traps s x (.mlda t d o oc) tr) ∧
      (x.shapeTrap d = none → s.tileBusy x.b.key d.toNat x.tiles = false →
        Goes s x (.mlda t d o oc) (s.setBeam (((List.range x.tiles).foldl
          (fun (b : Beam) h => b.setTile (d.toNat + h) (x.loadTile t o oc (32 * h))) x.b).raise (x.loadFlags t o))))) ∧
    (let opt := fun (o : Option SArg) (src : Nat) => match o with | some y => SArg.uses src y | none => []
     let val := fun o : Option SArg => match o with | some y => x.sval y | none => Fmt.absent .n64
     let off := (x.b.sreg d.toNat).toNat
     Clear s x { priv := false, noGlint := false
                 uses := regUses .s d false 0 false false ++ tileUses a false false 1 ++ opt b 2 ++ opt c 3 } →
       s.matTrap x .write off (128 * Fmt.width f) = none → s.matTrap x .write (val b) 32 = none →
       s.matTrap x .write (val c) 2048 = none →
       (s.tileBusy x.b.key a.toNat 1 = true → exec (.msta f r d a b c) s = .next s) ∧
       (s.tileBusy x.b.key a.toNat 1 = false →
         let ti := x.b.tile a.toNat
         let q := ti.store f r
         Goes s x (.msta f r d a b c)
           ((((s.matPut x off (packElems f q.1)).matPut x (val b) (q.2.1.map fun n => BitVec.ofNat 8 n)).matPut x (val c)
             (ti.cnts.flatMap fun n => natLe 2 n)).raise x.b.key q.2.2))))

/-- R42, R201, R213: A special function, VTOS and VBALLOT complete with their destination empty; the result that comes
to it later holds the value of the function, of the selected lane and of the TRUE lanes, and the flags are in status
at once. A special function's value where R201 fixes none is free within its bound (log entry 6), and when the result
arrives is the model's choice (log entry 11). -/
def Obligations.LongLatencyResults : Prop :=
  ∀ (s : State) (x : Frag) (t : Ty) (r : Rnd) (d : Reg),
    (∀ (a : VArgI) (i : Instr) (fn : SFn) (m : Rnd),
      (i, fn, m) ∈ [(Instr.frcp t r d a, SFn.rcp, r), (.frsq t d a, .rsq, .rn), (.fsqrt t r d a, .sqrt, r),
        (.fexp2 t d a, .exp2, .rn), (.flog2 t d a, .log2, .rn), (.fsin t d a, .sin, .rn), (.fcos t d a, .cos, .rn),
        (.ftanh t d a, .tanh, .rn)] →
      Clear s x (plain (dstV t d ++ VArgI.uses t.wide 1 a)) →
      let rs := x.results fun i => mapElems t (fun v => specialElem fn t m (v.getD 0 0)) [(x.srcI t a).1 i]
      Goes s x i (s.pendV (x.b.raise ((x.srcI t a).2 ||| flagsOf rs)) x.e x.pc d.toNat x.mask
        [rs.map fun c => BitVec.ofNat 32 c.1] (0, 0) .special (s.within x.core 16))) ∧
    (∀ (a : VArg) (l : LaneSel), Clear s x (plain (dstS d ++ VArg.uses t.wide 1 a ++ laneUses l)) →
      let v := match vtosLane x l with
        | some i => (x.src t a).1 i
        | none => Ty.absent t
      Goes s x (.vtos t d a l) (s.pendS (x.b.raise (x.src t a).2) x.e x.pc x.lead d.toNat (BitVec.ofNat 64 (widen t v)) (0, 0)
        .other (s.within x.core 4))) ∧
    (∀ a : Reg, Clear s x (plain (dstS d ++ regUses .c a false 1 false false)) →
      Goes s x (.ballot d a) (s.pendS x.b x.e x.pc x.lead d.toNat
        (maskOf ((lanesOf x.mask).filter fun i => Tri.ofCode (x.b.cl a.toNat i) == .t)) (0, 0) .other (s.within x.core 4)))

/-! ### The system -/

/-- R167, R335, R336, R322, R340: LAUNCH with an absent operand gives absent; else the record is read as an access of
the beam and appended to the queue, and the register takes the result of the append. What an append to a queue answers
and does: 2^63 + 2 for no queue of the caller's, + 3 for one that is Stopped or Faulted, or, of the device's own
append (LAUNCH), whose context is not Open, + 4 for an invalid record, + 1 for a full ring; otherwise TAIL rises by
one and is the answer. Nothing else about a queue changes. -/
def Obligations.LaunchAndAppends : Prop :=
  (∀ (s : State) (x : Frag) (d : Reg) (a b : SArg), Clear s x (plain (dstS d ++ SArg.uses 1 a ++ SArg.uses 2 b)) →
    let q := x.sval a
    let p := x.sval b
    let k := launchAcc
    let us := [(x.lead, (p : Int))]
    (Fmt.isAbsent .n64 q = true ∨ Fmt.isAbsent .n64 p = true →
      Goes s x (.launch d a b) (s.setBeam (x.putS d (Fmt.absent .n64)))) ∧
    (Fmt.isAbsent .n64 q = false → Fmt.isAbsent .n64 p = false →
      (∀ tr, x.memTrap k (s.laneFaults x k us) = some tr → Traps s x (.launch d a b) tr) ∧
      (Passes s x k us →
        let r := (s.notes x k us).queueAppend true q (fun y => decide (q ≤ 8191) && some y.ctx == (s.kernelOf x.b).map (·.ctx))
          (s.laneRead x k (2 ^ 512 - 1) p)
        ∃ y, r.1.beam? x.b.key = some y ∧
          Goes s x (.launch d a b) (r.1.setBeam (y.putS x.lead d.toNat (BitVec.ofNat 64 r.2)))))) ∧
  (∀ (s : State) (device : Bool) (num : Nat) (owned : Queue → Bool) (bs : List Byte),
    let r := s.queueAppend device num owned bs
    (∀ q, s.queue? num = some q → owned q = true → ∀ c, s.context? q.ctx = some c →
      (q.st = .stopped ∨ q.st = .faulted ∨ (device = true ∧ c.st ≠ .open_) → r = (s, 2 ^ 63 + 3)) ∧
      (q.st = .running ∨ q.st = .blocked → (device = true → c.st = .open_) →
        (recordValid bs = false → r = (s, 2 ^ 63 + 4)) ∧
        (recordValid bs = true → q.size ≤ q.tail - q.head → r = (s, 2 ^ 63 + 1)) ∧
        (recordValid bs = true → q.tail - q.head < q.size →
          r.2 = q.tail + 1 ∧ (∃ rs, r.1.queue? num = some { q with tail := q.tail + 1, recs := rs } ∧
            (q.tail + 1, bs.take 8 ++ natLe 8 (q.tail + 1) ++ bs.drop 16) ∈ rs) ∧
            ∀ n, n ≠ num → r.1.queue? n = s.queue? n))) ∧
    (s.queue? num = none ∨ (∃ q, s.queue? num = some q ∧ owned q = false) → r = (s, 2 ^ 63 + 2)))

/-- R384, R382, R329, R330, R331, R429, R433: TLBINV, PGSET, CTXSV, CTXLD, TMARK, SAMPLE and CLOCK complete. PGSET
refuses an absent or too large address, a table that is not there, an invalid entry and a frame outside the partition
by name; an image that breaks a check of R330 traps. A saved image's open bytes are free (log entries 8 and 38), and
the PC of a SAMPLE is that of the next instruction (log entry 36). A PGSET that is not refused writes its entry and no
other byte, answers the old entry, and leaves no cached translation below it; one that is refused changes nothing. -/
def Obligations.SystemInstructions : Prop :=
  (∀ (s : State) (x : Frag) (d a b : Reg) (sc : Scope) (lvl : BitVec 2) (k : Kernel) (c : Context),
    s.kernelOf x.b = some k → s.contextOf x.b = some c →
    let va := (x.b.sreg a.toNat).toNat
    let one := regUses .s a false 1 false false
    let kernelMode : List Use → Guard := fun us => { priv := true, noGlint := false, uses := us }
    (Clear s x (kernelMode []) → Goes s x (.tlbinv sc none) (s.tlbDrop x.core sc (fun t => t.ctx == k.ctx) fun w => w.ctx == k.ctx)) ∧
    (Clear s x (kernelMode one) →
      (Fmt.isAbsent .n64 va = true → Goes s x (.tlbinv sc (some a)) s) ∧
      (Fmt.isAbsent .n64 va = false → Goes s x (.tlbinv sc (some a)) (s.tlbDrop x.core sc (fun t => t.covers k.ctx va) fun w => w.covers k.ctx w.lvl va))) ∧
    (Clear s x (kernelMode (dstS d ++ one ++ regUses .s b false 2 false false)) →
      (Fmt.isAbsent .n64 va = true → Goes s x (.pgset d a b lvl) (s.setBeam (x.putS d 0xFFF0000000000004))) ∧
      (Fmt.isAbsent .n64 va = false → 2 ^ 56 ≤ va → Goes s x (.pgset d a b lvl) (s.setBeam (x.putS d 0xFFF0000000000005))) ∧
      (va < 2 ^ 56 →
        let r := s.pgset c (lvl.toNat + 1) va (x.b.sreg b.toNat).toNat
        Goes s x (.pgset d a b lvl) (r.1.setBeam (x.putS d r.2)))) ∧
    (Clear s x (kernelMode one) → ∀ tm, x.b.trap = some tm →
      let us := x.imageUnits va
      (Fmt.isAbsent .n64 va = true → Goes s x (.ctxsv a) s ∧ Goes s x (.ctxld a) s) ∧
      (Fmt.isAbsent .n64 va = false → Passes s x (imageAcc .write) us →
        let bs := (x.b.userImage tm s.openBytes).bytes x.b.live s.openBytes
        Goes s x (.ctxsv a) (us.zipIdx.foldl (fun (s : State) (u : (Nat × Int) × Nat) =>
          (s.laneNote x (imageAcc .write) u.1.2.toNat).laneWrite x (imageAcc .write) u.1.2.toNat
            ((bs.drop (64 * u.2)).take 64)) s)) ∧
      (Fmt.isAbsent .n64 va = false → Passes s x (imageAcc .read) us →
        let bs := us.flatMap fun u => s.laneRead x (imageAcc .read) (2 ^ 512 - 1) u.2.toNat
        (∀ n, imageFault bs x.w x.b.live = some n →
          Traps s x (.ctxld a) { group := gREGISTER, code := 5, lanes := none, x := 0, y := 0, z := n }) ∧
        (imageFault bs x.w x.b.live = none →
          Goes s x (.ctxld a) ((s.notes x (imageAcc .read) us).setBeam (x.b.loadImage tm (Image.ofBytes bs)))))) ∧
    (Clear s x (plain one) →
      ((s.coreOf x.core).trace.mark = false → Goes s x (.tmark a) s) ∧
      ((s.coreOf x.core).trace.mark = true → Goes s x (.tmark a) (s.packet (x.b.site x.e x.pc x.mask) 0x05
        [.raw ([BitVec.ofNat 8 x.b.key.slot] ++ natLe 8 va)])) ∧
      ((s.coreOf x.core).spec.spctl.getLsbD 63 = false → Goes s x (.sample a) s) ∧
      ((s.coreOf x.core).spec.spctl.getLsbD 63 = true →
        Goes s x (.sample a) (s.sample x.core (sampleBytes s x.b x.next (issueLeaf x.b x.mask) va)))) ∧
    (Clear s x (plain (regUses .s d false 0 false false)) → s.quiet x.b = true →
      Goes s x (.clock d) (s.setBeam (x.putS d (s.clock % 2 ^ 64))))) ∧
  (∀ (s : State) (c : Context) (p : Partition) (lvl va e : Nat), s.part? c.part = some p → e < 2 ^ 64 →
    let r := s.pgset c lvl va e
    let broken := bits e 52 12 ≠ 0 ∨ (pteV e = true ∧ pteBroken lvl e = true)
    let outside := pteV e = true ∧ pteOutside p lvl e = true
    match s.tableAt p va ((List.range (lvl - 1)).map (· + 1)) c.root with
    | none => r = (s, 0xFFF0000000000001)
    | some table =>
      (broken → r = (s, 0xFFF0000000000002)) ∧ (¬ broken → outside → r = (s, 0xFFF0000000000003)) ∧
      (¬ broken → ¬ outside →
        let at_ := table + 8 * levelIndex lvl va
        r.2 = s.readNat at_ 8 ∧ r.1.readNat at_ 8 = e ∧
          (∀ a, a < at_ ∨ at_ + 8 ≤ a → r.1.mem.read a = s.mem.read a) ∧
          (∀ k ∈ r.1.cores, ∀ t ∈ k.tlb, t.below c.id lvl va = false) ∧ ∀ t ∈ r.1.dieTlb, t.2.below c.id lvl va = false))

/-- R332, R381: FWCALL waits for the firmware; the answer that arrives before 225,000 cycles, or TIMEOUT 0x101 after
them, ends the wait, and the fragment then goes on with it in its register. A walk that ends without a fault leaves
its leaf. That 100 µs are 225,000 cycles is log entry 45, that the answer comes in a step of its own log entry 49. -/
def Obligations.FirmwareCalls : Prop :=
  ∀ (s : State) (x : Frag) (d a : Reg) (fn : BitVec 6),
    (Clear s x { priv := true, noGlint := false, uses := dstS d ++ regUses .s a false 1 false false } →
      (x.entry.wait = none → ∃ t b w, exec (.fwcall d a fn) s = .next t ∧ t.beam? x.b.key = some b ∧
        (b.entry x.e).wait = some w ∧ w.kind = .fwcall ∧ w.rem = some 225000 ∧ w.woken = false ∧
        w.aux = (x.b.sreg a.toNat).toNat ∧ (b.entry x.e).pc = x.pc ∧ t.mem = s.mem) ∧
      (∀ w, x.entry.wait = some w →
        (w.woken = false → exec (.fwcall d a fn) s = .next s) ∧
        (w.woken = true → Goes s x (.fwcall d a fn) (s.setBeam (x.putS d w.aux))))) ∧
    (∀ (k : BeamKey) (e : Nat) (y : Beam) (w : Wait), s.beam? k = some y → y.calling e = some w → e < y.split.length →
      (∀ c d a fn, s.contextOf y = some c → w.ins = .fwcall d a fn → w.rem ≠ some 0 →
        ∃ t z, exec (.fwcallAnswer k e) s = .next t ∧ t.beam? k = some z ∧
          (z.entry e).wait = some { w with woken := true, aux := (s.fwAnswer c fn.toNat w.aux).2 }) ∧
      (w.rem = some 0 → ∃ t z, exec (.fwcallTimeout k e) s = .next t ∧ { t with beams := s.beams } = s ∧ t.beam? k = some z ∧
        (z.entry e).wait = some { w with woken := true, aux := 0x101 })) ∧
    (∀ (core ctx : Nat) (va : Addr) (write : Bool) (c : Context), s.context? ctx = some c →
      let v : Via := if core < 256 then .beam core else .io (4 + core % 2)
      let acc : Access := if write then .write else .read
      let to_ := s.xlate v write c va.toNat
      ((xlFaults c acc to_).isEmpty = true → to_.migrates acc = false →
        exec (.walkComplete core ctx va write) s = .next (s.xlNote v write c va.toNat)) ∧
      ((xlFaults c acc to_).isEmpty = false ∨ to_.migrates acc = true →
        exec (.walkComplete core ctx va write) s = .next s))

/-- R419, R420, R421, R422, R432, R354, R430, R433: A store to a register of the page is read back there, without its
reserved bits, and no other register of any core changes, but for SGCTL.CLR, which clears the counters; a counter
wraps at 48 bits; bits of SGSTAT are cleared by 1; DIM of PSCTL keeps its value while a cohort is resident; WP, LOST,
SPWP and SPDROP are read-only. A sampling period adds one record of 32 bytes, or one dropped record, for each quadrant
that has a beam; a counted cycle has an increment of one due to the cycle counter of each quadrant, and the cycle's
end adds what is due, counters wrapping by 2^48 with their overflow bit set; the throttle's pointer moves past the
beams that it served; a level above THRESH engages the throttle of every quadrant of the region, one below THRESH −
HYST releases it. That the 16 cores of region n are cores 16n to 16n + 15 is log entry 55, the cycle of a sample log
entry 36. -/
def Obligations.RegisterPages : Prop :=
  (∀ (s : State) (core : Nat) (w : DWord), core < 256 →
    let p := (s.coreOf core).spec
    let reads := fun (i : Instr) (off : Nat) (f : DWord → Prop) =>
      ∃ t, exec i s = .next t ∧ t.mem = s.mem ∧ f (t.regRead core off) ∧
        (∀ o, o ≠ off → t.regRead core o = s.regRead core o) ∧ ∀ c, c ≠ core → ∀ o, t.regRead c o = s.regRead c o
    reads (.psrpWrite core w) 0x020 (· = w) ∧ reads (.sprpWrite core w) 0x620 (· = w) ∧
    reads (.psctlWrite core w) 0x000 (fun v =>
      v.getLsbD 63 = (w.getLsbD 63 && ringSizeOk (s.regRead core 0x010) &&
        s.ringPlaced core (s.regRead core 0x008) (s.regRead core 0x010)) ∧
      v.getLsbD 58 = (if s.coreBusy core then (s.regRead core 0x000).getLsbD 58 else w.getLsbD 58) ∧
      v &&& 0x7BFFFFFFFFFFFFFF &&& ~~~0x0400000000000000 = w &&& 0x7800FFFF00000000) ∧
    reads (.spctlWrite core w) 0x600 (fun v =>
      v.getLsbD 63 = (w.getLsbD 63 && ringSizeOk (s.regRead core 0x610) &&
        s.ringPlaced core (s.regRead core 0x608) (s.regRead core 0x610)) ∧
      v &&& 0x7FFFFFFFFFFFFFFF = w &&& 0xFFFFFFFF) ∧
    (w.getLsbD 62 = false → reads (.sgctlWrite core w) 0x100 (· = w &&& 0x8000000000000000)) ∧
    (w.getLsbD 62 = true → ∃ t, exec (.sgctlWrite core w) s = .next t ∧ t.regRead core 0x100 = w &&& 0x8000000000000000 ∧
      ∀ q n, q < 4 → n < 18 → t.regRead core (0x200 + 0x100 * q + 8 * n) = 0) ∧
    (p.sg.length = 4 → (∀ l ∈ p.sg, l.length = 18) → p.stat.length = 4 → ∀ q n, q < 4 → n < 18 →
      reads (.sgWrite core q n w) (0x200 + 0x100 * q + 8 * n) (· = BitVec.ofNat 64 (w.toNat % 2 ^ 48)) ∧
      reads (.sgstatW1c core q w) (0x290 + 0x100 * q) (fun v =>
        ∀ i, i < 18 → v.getLsbD i = ((s.regRead core (0x290 + 0x100 * q)).getLsbD i && !w.getLsbD i))) ∧
    reads (.registerPageWrite core 0x008 w) 0x008 (· = w &&& 0xFFFFFFFFFF000) ∧
    reads (.registerPageWrite core 0x010 w) 0x010 (· = w) ∧
    (∀ off ∈ [0x018, 0x028, 0x618, 0x628],
      ∃ t, exec (.registerPageWrite core off w) s = .next t ∧ ∀ c o, t.regRead c o = s.regRead c o) ∧
    exec (.registerPageWrite core 0x000 w) s = exec (.psctlWrite core w) s) ∧
  (∀ (s : State) (core : Nat), core < 256 →
    let c := s.coreOf core
    let two := fun t : State => ((t.coreOf core).spec.spwp + 32 * (t.coreOf core).spec.spdrop : DWord)
    (s.samplesNow c = false → exec (.samplePeriod core) s = .next s) ∧
    (s.samplesNow c = true → ∃ t, exec (.samplePeriod core) s = .next t ∧ t.beams = s.beams ∧
      (t.coreOf core).sampled = true ∧
      two t = two s + 32 * BitVec.ofNat 64 ((List.range 4).filter fun q => (s.sampled core q).isSome).length) ∧
    (c.spec.ctl.getLsbD 63 = false ∨ c.counted = true → exec (.sliceIssueSlotCount core) s = .next s) ∧
    (c.spec.ctl.getLsbD 63 = true → c.counted = false → c.spec.sg.length = 4 → (∀ l ∈ c.spec.sg, l.length = 18) →
      ∃ t, exec (.sliceIssueSlotCount core) s = .next t ∧ t.beams = s.beams ∧ t.mem = s.mem ∧
        (t.coreOf core).counted = true ∧ ∃ ds, (t.coreOf core).spec = { c.spec with due := c.spec.due ++ ds } ∧
          ∀ q, q < 4 → ds.filter (fun d => d.1 == q && d.2.1 == 16) = [(q, 16, 1)]) ∧
    (∀ p : Spectro, (p.due = [] → p.tick = p) ∧
      (∀ ds d, p.due = ds ++ [d] → p.tick = ({ p with due := ds }.tick).bump d.1 d.2.1 d.2.2) ∧
      ∀ q n k l m, p.sg[q]? = some l → n < l.length → p.stat[q]? = some m →
        ((p.bump q n k).sg.getD q []).getD n 0 = (l.getD n 0 + k) % 2 ^ 48 ∧
        (p.bump q n k).stat[q]? = some (if 2 ^ 48 ≤ l.getD n 0 + k then m ||| 2 ^ n else m)) ∧
    (∀ quad q, c.quads[quad]? = some q →
      (q.engaged = true → q.rotated = false → s.clock % 256 = 0 →
        ∃ t, exec (.throttleRotation core quad) s = .next t ∧ t.beams = s.beams ∧
          ((t.coreOf core).quads[quad]?) = some { q with rotated := true, rot :=
            match (s.servedSlots core quad).getLast? with | some n => (n + 1) % 20 | none => q.rot }) ∧
      (q.engaged = false ∨ q.rotated = true ∨ s.clock % 256 ≠ 0 → exec (.throttleRotation core quad) s = .next s)) ∧
    (∀ region level p, core / 16 = region → s.partOfCore core = some p →
      ∃ t, exec (.congestionLevelChange region level) s = .next t ∧ t.beams = s.beams ∧
        t.levels = s.levels.set region level ∧ ∃ on : Quad → Bool,
          (t.coreOf core).quads = c.quads.map (fun q => { q with engaged := on q }) ∧
          (cgEn p.cgctl = true → cgThresh p.cgctl < level → ∀ q, on q = true) ∧
          (cgEn p.cgctl = false ∨ level + cgHyst p.cgctl < cgThresh p.cgctl → ∀ q, on q = false) ∧
          (cgEn p.cgctl = true → cgThresh p.cgctl ≤ level + cgHyst p.cgctl → level ≤ cgThresh p.cgctl →
            ∀ q, on q = q.engaged)))

/-! ### Scheduling -/

/-- R334, R338, R339, R341, R314, R340, R386, R404: The command at a queue's HEAD: one without a valid record faults
the queue with BAD_RECORD; one that breaks a rule of its type faults it with that code; one that must wait blocks it;
one that may be taken waits, its queue Running, until it is the queue's turn. WAIT, SIGNAL, TIMESTAMP and FENCE that
are taken move HEAD; WAIT and FENCE end at once, SIGNAL and TIMESTAMP once what they have written is performed at
`.sys`: then DONE reaches SIGNAL's, TIMESTAMP's and FENCE's own number. A COPY that is taken enters the list of
commands; its bytes move, and once they are performed at `.sys` it leaves the list and ends. One longer than 2^32 or
with a range that faults faults its queue with COPY_FAULT and writes nothing; one whose destination migrates waits,
65,536 cycles from then at most, and one with a range in far memory whose ports are down waits for the fabric timeout.
A PREEMPT evicts every resident cohort of classes 1 to 3 on the clusters that it names. Corners that the rules leave
open are the model's choice (log entry 28). -/
def Obligations.QueueCommands : Prop :=
  (∀ (s : State) (num core ty : Nat) (i : Instr) (q : Queue) (c : Context) (p : Partition),
    (i, ty) ∈ [(Instr.launchCmd num core, 1), (.copyCmd num, 2), (.wait num, 3), (.signal num, 4), (.timestamp num, 5),
      (.preempt num, 6), (.fenceCmd num, 7)] →
    s.queue? num = some q → s.context? q.ctx = some c → s.part? c.part = some p →
    (c.st ≠ .open_ ∨ q.serves = false → exec i s = .next s) ∧
    (c.st = .open_ → q.serves = true →
      (s.headCmd q = none → exec i s = .next (s.queueFault num 7 (q.head + 1))) ∧
      (∀ r, s.headCmd q = some r →
        (recAt r 0 1 ≠ ty → exec i s = .next s) ∧
        (recAt r 0 1 = ty →
          (∀ code, s.judge p c q r = .fault code →
            exec i s = .next ((s.judgeNotes c q r).queueFault num code (q.head + 1))) ∧
          (s.judge p c q r = .wait → ∃ t y, exec i s = .next t ∧ t.queue? num = some y ∧ y.st = .blocked ∧ y.head = q.head ∧
            t.beams = s.beams ∧ t.kernels = s.kernels) ∧
          (s.judge p c q r = .go → s.nextQueue p ≠ some num → ∃ t y, exec i s = .next t ∧ t.queue? num = some y ∧
            y.st = .running ∧ y.head = q.head ∧ t.beams = s.beams ∧ t.kernels = s.kernels))))) ∧
  (∀ (s : State) (num ty : Nat) (q : Queue) (c : Context) (p : Partition) (r : List Byte),
    s.queue? num = some q → s.context? q.ctx = some c → s.part? c.part = some p → c.st = .open_ → q.serves = true →
    s.headCmd q = some r → recAt r 0 1 = ty → s.judge p c q r = .go → s.nextQueue p = some num →
    let u := (s.judgeNotes c q r).taken p.id c q
    let va := recAt r 16 8
    let moves := fun i : Instr => ∃ t y, exec i s = .next t ∧ t.queue? num = some y ∧ y.head = q.head + 1 ∧ y.st = .running
    (ty = 3 → moves (.wait num) ∧ exec (.wait num) s = .next (u.queueEnd num (q.head + 1)) ∧
      (q.st = .blocked → exec (.waitRecheck num) s = exec (.wait num) s)) ∧
    (ty = 4 → moves (.signal num) ∧
      let m := u.ioNat viaQueue c va 8
      let v := (atomNew .max .n64 m (recAt r 24 8) 0).1
      (v ≠ m → exec (.signal num) s =
        .next (((u.ioNotes viaQueue c va 8 true).ioWrite (.cmd num (q.head + 1)) viaQueue c va (natLe 8 v)).wordWritten num
          (q.head + 1) va)) ∧
      (v = m → exec (.signal num) s = .next ((u.ioNotes viaQueue c va 8 false).wordWritten num (q.head + 1) va))) ∧
    (ty = 5 → moves (.timestamp num) ∧ exec (.timestamp num) s =
      .next (((u.ioNotes viaQueue c va 8 true).ioWrite (.cmd num (q.head + 1)) viaQueue c va (natLe 8 s.clock)).wordWritten num
        (q.head + 1) va)) ∧
    (ty = 7 → moves (.fenceCmd num) ∧ exec (.fenceCmd num) s = .next (u.queueEnd num (q.head + 1))) ∧
    (∀ i, (i, ty) ∈ [(Instr.signal num, 4), (.timestamp num, 5), (.fenceCmd num, 7)] → q.done = q.head →
      ∃ t y, exec i s = .next t ∧ t.queue? num = some y ∧
        (ty = 7 ∨ t.unacked (.cmd num (q.head + 1)) = false → q.head + 1 ≤ y.done)) ∧
    ∀ (w : State) (a : Nat),
      (w.unacked (.cmd num (q.head + 1)) = false → w.wordWritten num (q.head + 1) a = w.queueEnd num (q.head + 1)) ∧
      (w.unacked (.cmd num (q.head + 1)) = true → (w.wordWritten num (q.head + 1) a).queues = w.queues ∧
        ∃ m ∈ (w.wordWritten num (q.head + 1) a).cmds, m.queue = num ∧ m.seq = q.head + 1 ∧ m.written = true)) ∧
  (∀ (s : State) (num : Nat) (q : Queue) (c : Context) (p : Partition), s.queue? num = some q → s.context? q.ctx = some c →
    s.part? c.part = some p →
    (∀ r, c.st = .open_ → q.serves = true → s.headCmd q = some r → s.judge p c q r = .go → s.nextQueue p = some num →
      (recAt r 0 1 = 2 → ∃ t, exec (.copyCmd num) s = .next t ∧
        t.cmds = s.cmds ++ [{ queue := num, seq := q.head + 1, copy := some (recAt r 16 8, recAt r 24 8, recAt r 32 8)
                              cohorts := [], waits := none, down := none, written := false }]) ∧
      (recAt r 0 1 = 6 → ∃ t, exec (.preempt num) s = .next t ∧ ∀ k y, s.cohort? k = some y → y.st = .resident →
        p.clusters.contains (y.core / 4) = true → bits (recAt r 16 8) (y.core / 4) 1 = 1 →
        (∃ z, s.kernel? k.kernel = some z ∧ z.cls ≠ 0) → ∃ y', t.cohort? k = some y' ∧ y'.stop.isSome = true)) ∧
    (∀ seq m src dst len, s.cmds.find? (fun c => c.queue == num && c.seq == seq) = some m → m.copy = some (src, dst, len) →
      let fails := 2 ^ 32 < len ∨ (s.ioFault viaQueue c .read src len).isSome = true ∨
        (s.ioFault viaQueue c .write dst len).isSome = true
      let waits := s.ioMigrates viaQueue c dst len = true
      let down := s.ioDown viaQueue false c src len = true ∨ s.ioDown viaQueue true c dst len = true
      let faulted := exec (.copyCmdComplete num seq) s = .next ((s.dropCmd num seq).queueFault num 3 seq)
      (m.written = true → s.unacked (.cmd num seq) = true → exec (.copyCmdComplete num seq) s = .next s) ∧
      (m.written = true → s.unacked (.cmd num seq) = false →
        exec (.copyCmdComplete num seq) s = .next ((s.dropCmd num seq).queueEnd num seq)) ∧
      (m.written = false →
      (fails → faulted) ∧
      (¬ fails → waits → m.waits = none → ∃ t, exec (.copyCmdComplete num seq) s = .next t ∧ { t with cmds := s.cmds } = s ∧
        t.cmds.find? (fun c => c.queue == num && c.seq == seq) = some { m with waits := some s.clock }) ∧
      (∀ since, ¬ fails → waits → m.waits = some since →
        (s.clock < since + 65536 → exec (.copyCmdComplete num seq) s = .next s) ∧ (since + 65536 ≤ s.clock → faulted)) ∧
      (¬ fails → ¬ waits → down → m.down = none → ∃ t, exec (.copyCmdComplete num seq) s = .next t ∧
        { t with cmds := s.cmds } = s ∧
        t.cmds.find? (fun c => c.queue == num && c.seq == seq) = some { m with down := some s.clock }) ∧
      (∀ since, ¬ fails → ¬ waits → down → m.down = some since →
        (s.clock < since + p.timeout → exec (.copyCmdComplete num seq) s = .next s) ∧ (since + p.timeout ≤ s.clock → faulted)) ∧
      (¬ fails → ¬ waits → ¬ down →
        let u := ((s.ioNotes viaQueue c src len false).ioNotes viaQueue c dst len true).ioWrite (.cmd num seq) viaQueue c dst
          (s.ioRead viaQueue c src len)
        exec (.copyCmdComplete num seq) s = .next ((u.modCmd num seq fun d => { d with written := true }).cmdEnds num seq)))))

/-- R343, R344, R345, R348, R350: A LAUNCH that is taken makes a kernel of the lowest free identifier, Placing or,
with its only cohort placed, Running; its first cohort stands on the core with the most free slots, its beams at the
entry with s0 = ARGS and s1 = the number of cohorts and every other register absent. The order of placing and the
cycle are the model's choice (log entries 17 and 52). -/
def Obligations.LaunchCommand : Prop :=
  ∀ (s : State) (num core : Nat) (q : Queue) (c : Context) (p : Partition) (r : List Byte) (n : Nat) (sp : Spot)
    (save : Nat × Nat),
    s.queue? num = some q → s.context? q.ctx = some c → s.part? c.part = some p → c.st = .open_ → q.serves = true →
    s.headCmd q = some r → recAt r 0 1 = 1 → s.judge p c q r = .go → s.nextQueue p = some num →
    s.launchPlace q.work p c (launchOf r) = some (n, sp, save) →
    let l := launchOf r
    (sp.core ≠ core → exec (.launchCmd num core) s = .next s) ∧
    (sp.core = core → ∃ t k y, exec (.launchCmd num core) s = .next t ∧
      t.kernel? n = some k ∧ k.launch = l ∧ k.placed = 1 ∧ k.retired = 0 ∧ k.queue = num ∧ k.seq = q.head + 1 ∧ k.ctx = q.ctx ∧
        k.st = (if l.cohorts = 1 then .running else .placing) ∧
      t.cohort? ⟨n, 0⟩ = some y ∧ y.core = core ∧ y.st = .resident ∧ y.wsize = l.window ∧ y.save = some save ∧
      (∃ z, t.queue? num = some z ∧ z.head = q.head + 1 ∧ z.st = .running) ∧
      (∀ m, m < n → s.idHeld m = true) ∧
      (∀ m z, m ∈ p.cores → (∀ rm, s.room? q.work = some rm → rm.tied = false) →
        s.spot q.work (fun _ => false) l l.quads m = some z → s.freeCount m ≤ s.freeCount core) ∧
      ∃ bs : List Beam, t.beams = s.beams ++ bs ∧ bs.length = l.beams ∧ ∀ (j : Nat) (b : Beam), bs[j]? = some b →
        b.cohort = ⟨n, 0⟩ ∧ b.id = j ∧ b.key.core = core ∧ (b.entry 0).st = .run ∧ (b.entry 0).pc = l.entry ∧
          (b.entry 0).mask = fullMask l.width ∧ (0 < l.s → b.sreg 0 = l.args) ∧
          (1 < l.s → b.sreg 1 = BitVec.ofNat 64 l.cohorts) ∧ (∀ k, 1 < k → k < l.s → b.sreg k = ~~~(0 : DWord)) ∧
          ∀ k i, k < l.v → i < l.width → b.vl k i = ~~~(0 : Word))

/-- R348, R350, R323, R100, R347, R345, R320: The next cohort of a Placing kernel is placed where R350 puts it; a
slice that has expired, and an exchange, evict their victim, which stops at its rest points, and keep its place for
the work; an exchange evicts one cohort. A cohort whose beams have all exited retires with them; the kernel counts it,
and when it is the last the kernel is Completed. An error in a context's own memory faults the context, its kernels
and its queues. The places taken and the cycle are the model's choice (log entries 17 and 52). -/
def Obligations.PlacementAndRetirement : Prop :=
  ((∀ (s : State) (k : Kernel) (c : Context) (p : Partition) (sp : Spot) (r : Nat × Nat),
    s.kernel? k.id = some k → s.home k = some (p, c) → k.st = .placing → c.st = .open_ → s.nextPlace k = some (sp, r) →
    (s.cohortWork p ≠ some (.cohortPlace k.id sp.core) → exec (.cohortPlace k.id sp.core) s = .next s) ∧
    (s.cohortWork p = some (.cohortPlace k.id sp.core) →
      ∃ t k', exec (.cohortPlace k.id sp.core) s = .next t ∧ t.mem = s.mem ∧
        t.kernel? k.id = some k' ∧ k'.placed = k.placed + 1 ∧ k'.st = (if k.placed + 1 = k.launch.cohorts then .running else .placing) ∧
        (∃ y, t.cohorts = s.cohorts ++ [y] ∧ y.key = ⟨k.id, k.placed⟩ ∧ y.core = sp.core ∧ y.st = .resident ∧
          y.wsize = k.launch.window ∧ y.save = some r) ∧
        t.beams = s.beams ++ sp.slots.zipIdx.map fun n =>
          k.launch.beam ⟨k.id, k.placed⟩ ⟨sp.core, n.1⟩ s.clock n.2)) ∧
  (∀ (s : State) (p : Partition), s.part? p.id = some p →
    (s.sliceChoice p = none → exec (.timeSliceExpiry p.id) s = .next s) ∧
    (∀ w y, s.sliceChoice p = some (w, y) →
      exec (.timeSliceExpiry p.id) s = .next (s.evictFor w.work w.l w.quads [y.key] y.core false))) ∧
  (∀ (s : State) (v y : CohortKey) (z zv : Cohort) (k : Kernel) (p : Partition) (c : Context),
    s.cohort? y = some z → s.cohort? v = some zv → s.kernel? y.kernel = some k → s.home k = some (p, c) → z.st = .parked → z.woken.isSome = true →
    c.st = .open_ → s.parkedSpot z k = none → (s.exchangeVictim p k z).map (·.key) = some v →
    (s.leaving (.restore y) = true → exec (.exchange v y) s = .next s) ∧
    (s.leaving (.restore y) = false →
      exec (.exchange v y) s = .next (s.evictFor (.restore y) k.launch (s.savedQuads z) [v] zv.core true))) ∧
  ∀ (s : State) (k : CohortKey) (y : Cohort) (w : Work) (l : Launch) (qs : List Nat) (core : Nat) (tied : Bool),
    s.cohort? k = some y → y.st = .resident → y.stop = none →
    (s.evictFor w l qs [k] core tied).cohort? k = some { y with stop := some .evict }) ∧
  ((∀ (s : State) (key : CohortKey) (y : Cohort), s.cohort? key = some y →
    (y.st ≠ .resident ∨ s.mayRetire key = false → exec (.cohortRetire key) s = .next s) ∧
    (y.st = .resident → s.mayRetire key = true → ∃ t, exec (.cohortRetire key) s = .next t ∧
      (∀ b ∈ t.beams, b.cohort ≠ key) ∧
      (∀ k, s.kernel? key.kernel = some k →
        (k.retired + 1 ≠ k.launch.cohorts → (∃ k', t.kernel? key.kernel = some k' ∧ k'.retired = k.retired + 1 ∧ k'.placed = k.placed) ∧
          ∃ y', t.cohort? key = some y' ∧ y'.st = .retired) ∧
        (k.retired + 1 = k.launch.cohorts → t.kernel? key.kernel = none ∧ t.cohort? key = none)))) ∧
  ∀ (s : State) (n : Nat) (c : Context), s.context? n = some c →
    (c.st = .faulted → exec (.contextFault n) s = .next s) ∧
    (c.st ≠ .faulted → ∃ t c', exec (.contextFault n) s = .next t ∧ t.context? n = some c' ∧ c'.st = .faulted ∧
      (∀ q ∈ t.queues, q.ctx = n → q.st = .faulted) ∧
      ∀ i k, t.kernel? i = some k → k.ctx = n → k.st = .faulted ∨ k.st = .completed))

/-- R97, R324, R417, R418, R457: A cohort that stops, is at its rest points and is drained is saved and parked, and
its beams are gone; for a debugger stop each of its beams holds the STOP and the host is answered. A parked cohort
whose condition is met comes back with the beams of its record. The recheck records when the condition was first met.
Places of a record that no rule fills hold free bytes (log entries 8 and 38). -/
def Obligations.SaveAndRestore : Prop :=
  ∀ (s : State) (key : CohortKey) (y : Cohort) (k : Kernel), s.cohort? key = some y → s.kernel? key.kernel = some k →
    (y.st = .resident → s.drained y = true →
      (∀ at_ n, y.stop = some .evict → y.save = some (at_, n) → ∃ t y', exec (.evictionSave key) s = .next t ∧
        t.cohort? key = some y' ∧ y'.st = .parked ∧ y'.stop = none ∧ y'.save = y.save ∧ y'.parked = s.clock ∧
        (∀ b ∈ t.beams, b.cohort ≠ key) ∧ (y.dbg = none → ∀ b, b.cohort ≠ key → (b ∈ t.beams ↔ b ∈ s.beams))) ∧
      (∀ n f, y.stop = some (.debug n f) → ∃ t, exec (.evictionSave key) s = .next t ∧
        t.cohort? key = some { y with stop := if s.evictNext key then some .evict else none } ∧
        ∀ b, s.beam? b.key = some b → b.cohort = key → b.live ≠ 0 → b.glint = none →
          ∃ b', t.beam? b.key = some b' ∧ b'.pend.isSome = true)) ∧
    (y.stop = none ∨ y.st ≠ .resident ∨ s.drained y = false → exec (.evictionSave key) s = .next s) ∧
    (y.st = .parked → ∃ t, exec (.wakeRecheck key) s = .next t ∧ { t with cohorts := s.cohorts } = s ∧
      t.cohort? key = some { y with woken := if s.wakeMet y then some (y.woken.getD s.clock) else none }) ∧
    (∀ p c at_ n sp, s.home k = some (p, c) → y.save = some (at_, n) → y.st = .parked → y.woken.isSome = true → c.st = .open_ →
      s.parkedSpot y k = some sp → s.cohortWork p = some (.cohortRestore key sp.core) →
      (s.readBeams k y at_ (fun j => ⟨sp.core, sp.slots.getD j noSlot⟩) = none →
        exec (.cohortRestore key sp.core) s = .next (s.kernelFault k.id (some 2))) ∧
      (∀ bs, s.readBeams k y at_ (fun j => ⟨sp.core, sp.slots.getD j noSlot⟩) = some bs →
        ∃ t y', exec (.cohortRestore key sp.core) s = .next t ∧ t.mem = s.mem ∧ t.beams = s.beams ++ bs ∧
          t.cohort? key = some y' ∧ y'.st = .resident ∧ y'.core = sp.core ∧ y'.placed = s.clock))

/-! ### Messages, management, ports and the board -/

/-- R392, R393, R396, R438, R458, R461: A message that is not the next of its flow, or comes before the firmware runs
on another channel than VC 3 of the management port, is discarded; the next one is taken, and before the firmware runs
it has no other effect, but that DOMAIN of a host is answered; on a channel that does not carry its TYPE it is counted
and has no other effect, and from a source that the Diaphragm does not admit it is answered 3 and has none. The answer
3, that a message on a wrong channel is counted without an answer, and what is answered before the firmware runs are
the model's choice (log entry 26). -/
def Obligations.ArrivingRequests : Prop :=
  ∀ (s : State) (f : From) (n m k e typ : Nat) (va : Addr) (ov : Option Addr) (bs : List Byte) (ns : List Nat) (b1 b2 b3 : Bool)
    (i : Instr),
    (i, typ) ∈ [(Instr.memwr f n va bs, 1), (.memrd f n va m, 2), (.queueAppend f n bs, 5), (.collMessage f n m k e n m k bs, 7),
      (.create f n m k e n, 6), (.stop f n, 6), (.resume f n, 6), (.destroy f n, 6), (.query f n, 6), (.dbgstop f n m k e, 6),
      (.qcreate f ns, 6), (.qstop f n, 6), (.qresume f n, 6), (.qreset f n, 6), (.qdestroy f n, 6), (.tlbflush f n ov, 6),
      (.lgcreate f n m k, 6), (.lgdestroy f n m, 6), (.domain f, 6), (.getVersion f, 6), (.getCapabilities f, 6),
      (.negotiateAlgorithms f b1 b2 b3, 6), (.getDigests f, 6), (.getCertificate f n m k, 6), (.challenge f n bs, 6),
      (.getMeasurements f n bs, 6)] →
    (s.expects f = true ↔ s.mgmt.inReset = false ∧ (s.mgmt.running = true ∨ f.port = 0 ∧ f.vc = 3) ∧
      f.eseq = (s.flow f.src f.vc).inSeq) ∧
    (s.expects f = false → exec i s = .next s) ∧
    (s.expects f = true → s.mgmt.running = false →
      (i ≠ .domain f → exec i s = .next (s.tookNext f)) ∧
      (i = .domain f → exec i s = .next (if Config.isHost f.src then (s.tookNext f).domain f else (s.tookNext f).respond f 3 []))) ∧
    (s.expects f = true → s.mgmt.running = true →
      let carried := (channelsOf typ).contains f.vc
      (carried = false → exec i s = .next ((s.tookNext f).logged (.badMessage f.src typ))) ∧
      (carried = true → s.accepts f (s.partOfVf f.vfn) = false → exec i s = .next ((s.tookNext f).respond f 3 [])))

/-- R314, R336, R386, R397, R402, R404, R248, R400, R437: A host access is answered 1 for a context that is not the
function's, 2, 3 or 4 for a condition that its range meets, 5 where far memory has not answered for the fabric
timeout, and 0 when it has been made and is performed at `.sys`, MEMRD with the bytes; a byte count that no message
has is counted; a write to a migrating page waits, 65,536 cycles at most. An append's answer holds its result; a
contribution to a collective is answered 0. A ring append from outside is admitted by the partition of the ring's
kernel, 3 being the answer where it is not, or where the ring is of a secure partition and the message's function of
another one; it is answered 2 when its handle is of no window or the ring is not this device's, its cohort cannot
receive or the payload's length is none, 1 when it does not fit, and 0 when the record stands in the ring. Statuses
that the tables leave open are the model's choice (log entry 26). -/
def Obligations.HostMessages : Prop :=
  (∀ (s : State) (f : From), s.mgmt.running = true → s.expects f = true → s.accepts f (s.partOfVf f.vfn) = true →
    let w := s.flow f.src f.vc
    let u := s.tookNext f
    let waits := fun (i : Instr) (n : Nat) (go : State) =>
      (w.waits = none → exec i s = .next (s.setFlow { w with waits := some (s.clock, i) })) ∧
      (∀ t0 j, w.waits = some (t0, j) → (s.clock < t0 + n → exec i s = .next s) ∧ (t0 + n ≤ s.clock → exec i s = .next go))
    (f.vc = 1 → ∀ (n len : Nat) (va : Addr) (data : List Byte),
      (len = 0 ∨ 4096 < len → exec (.memrd f n va len) s = .next (u.logged (.badMessage f.src 2))) ∧
      (4088 < data.length → exec (.memwr f n va data) s = .next (u.logged (.badMessage f.src 1))) ∧
      (s.context? n = none ∨ (∃ c, s.context? n = some c ∧ c.vf ≠ f.vfn) →
        (data.length ≤ 4088 → exec (.memwr f n va data) s = .next (u.respond f 1 [])) ∧
        (1 ≤ len → len ≤ 4096 → exec (.memrd f n va len) s = .next (u.respond f 1 []))) ∧
      (∀ c, s.context? n = some c → c.vf = f.vfn →
        (1 ≤ len → len ≤ 4096 →
          (∀ e, s.ioFault viaHost c .read va.toNat len = some e →
            exec (.memrd f n va len) s = .next (u.respond f (hostStatus e) [])) ∧
          (s.ioFault viaHost c .read va.toNat len = none →
            let t := u.ioNotes viaHost c va.toNat len false
            let made := if t.ioDown viaHost false c va.toNat len then (t.hwError 0 5 va.toNat).respond f 5 []
              else t.respond f 0 (t.ioRead viaHost c va.toNat len)
            (s.ioDown viaHost false c va.toNat len = false → exec (.memrd f n va len) s = .next made) ∧
            (s.ioDown viaHost false c va.toNat len = true → waits (.memrd f n va len) (s.limitOf f.vfn) made))) ∧
        (data.length ≤ 4088 →
          (∀ e, s.ioFault viaHost c .write va.toNat data.length = some e →
            exec (.memwr f n va data) s = .next (u.respond f (hostStatus e) [])) ∧
          (s.ioFault viaHost c .write va.toNat data.length = none →
            (s.ioMigrates viaHost c va.toNat data.length = true → waits (.memwr f n va data) 65536 (u.respond f 2 [])) ∧
            (s.ioMigrates viaHost c va.toNat data.length = false →
              let t := u.ioNotes viaHost c va.toNat data.length true
              let t' := t.ioWrite (.msg f) viaHost c va.toNat data
              let made := if t.ioDown viaHost true c va.toNat data.length then (t.hwError 0 5 va.toNat).respond f 5 []
                else if t'.unacked (.msg f) then t' else t'.respond f 0 []
              (s.ioDown viaHost true c va.toNat data.length = false → exec (.memwr f n va data) s = .next made) ∧
              (s.ioDown viaHost true c va.toNat data.length = true → waits (.memwr f n va data) (s.limitOf f.vfn) made)))))) ∧
    (∀ (q : Nat) (bs : List Byte), f.vc = 0 ∨ f.vc = 1 →
      let mine := fun y : Queue => (s.context? y.ctx).any (fun x => x.vf == f.vfn) && (f.vc == 1 || (f.vc == 0 && y.cls == 0))
      exec (.queueAppend f q bs) s =
        .next ((u.queueAppend false q mine bs).1.respond f 0 (natLe 8 (u.queueAppend false q mine bs).2))) ∧
    (f.vc = 2 → ∀ (g op crc kind redop fmt e : Nat) (data : List Byte),
      let group := s.links.find? (fun l => some l.part == (s.partOfVf f.vfn).map (·.id) && l.index == g && l.live)
      (∀ lg, group = some lg → exec (.collMessage f g op crc kind redop fmt e data) s =
        .next ((u.collDeliver lg op ((lg.devs.findIdx? (· == f.src)).getD lg.devs.length) [kind, redop, fmt, e, crc] data).respond
          f 0 [])) ∧
      (group = none → exec (.collMessage f g op crc kind redop fmt e data) s = .next (u.respond f 0 [])))) ∧
  (∀ (s : State) (f : From) (handle : DWord) (seq : Nat) (data : List Byte), s.mgmt.running = true → s.expects f = true →
    f.vc = 0 ∨ f.vc = 1 →
    let u := s.tookNext f
    let i := Instr.ringAppend f handle seq data
    ((∀ dev kernel cohort off, ringOf handle.toNat ≠ .window dev kernel cohort off) →
      s.accepts f (s.partOfVf f.vfn) = true → exec i s = .next (u.respond f 2 [])) ∧
    (∀ (dev kernel cohort off : Nat) (k : Kernel) (p : Partition) (c : Context),
      ringOf handle.toNat = .window dev kernel cohort off → s.kernel? kernel = some k → s.home k = some (p, c) →
      (s.accepts f (some p) = false → exec i s = .next (u.respond f 3 [])) ∧
      (s.accepts f (some p) = true → p.world = true → (∃ q, s.partOfVf f.vfn = some q ∧ q.world = false) →
        exec i s = .next (u.respond f 3 [])) ∧
      (s.accepts f (some p) = true → (p.world = false ∨ ∀ q, s.partOfVf f.vfn = some q → q.world = true) →
        (dev ≠ s.mgmt.device ∨ s.receiver kernel cohort = none ∨ data = [] ∨ 256 < data.length →
          exec i s = .next (u.respond f 2 [])) ∧
        (dev = s.mgmt.device → (s.receiver kernel cohort).isSome = true → data ≠ [] → data.length ≤ 256 →
          (u.ring? (.window ⟨kernel, cohort⟩) off = none → exec i s = .next (u.respond f 2 [])) ∧
          (∀ r, u.ring? (.window ⟨kernel, cohort⟩) off = some r →
            (r.fits data.length = false → exec i s = .next (u.respond f 1 [])) ∧
            (r.fits data.length = true → exec i s = .next ((u.ringPut r seq data).respond f 0 [])))))))

/-- R391, R393, R395, R396, R399, R400: A REPLY acknowledges the request of its TAG; where a request of its peer waits
and the Diaphragm admits the source, the result of an MSEND lands in its register as 0 or 0x100 plus the status, if
the sender is still there (what a REPLY from a source that is not admitted, and a late one, does is the model's
choice, log entries 26 and 60); a request that is not answered in time ends with UNREACHABLE, a collective faults with
FABRIC, a notification goes again; a path that fails sends the unacknowledged messages of the flow again in their
order, over another port or, where none carries flits, when one does; a message with a reserved type is counted in the
log. -/
def Obligations.RepliesAndTimeouts : Prop :=
  (∀ (s : State) (f : From) (status : Nat),
    let u := s.tookNext f
    let waiting := s.fabric.find? fun r => r.tag == f.tag && r.peer == f.src
    (s.expects f = false → exec (.reply f status) s = .next s) ∧
    (s.expects f = true →
      (waiting = none → exec (.reply f status) s = .next (u.acked f)) ∧
      (∀ r, waiting = some r →
        (s.accepts f (r.part.bind s.part?) = false → exec (.reply f status) s = .next u) ∧
        (s.accepts f (r.part.bind s.part?) = true →
          exec (.reply f status) s =
            .next ((({ u with fabric := s.fabric.filter fun q => q != r } : State).acked f).answered r status) ∧
          ∀ k b e d y, r.what = .msend k b e d false → s.beam? b = some y → y.cohort = k → d < 56 → d < y.s.length →
            ∃ t z, exec (.reply f status) s = .next t ∧ t.beam? b = some z ∧ z.sfullAt d = true ∧
              z.sreg d = BitVec.ofNat 64 (if status = 0 then 0 else 0x100 + status))))) ∧
  (∀ (s : State) (tag : Nat) (r : FabReq), s.fabric.find? (fun r => r.tag == tag) = some r →
    let u : State := { s with fabric := s.fabric.filter fun q => q.tag != tag }
    (s.clock < r.since + r.limit → exec (.fabricTimeout tag) s = .next s) ∧
    (r.since + r.limit ≤ s.clock →
      (∀ c b e d drop, r.what = .msend c b e d drop → exec (.fabricTimeout tag) s = .next (u.msendEnds c b e d drop 0x104)) ∧
      (∀ req peer, r.what = .coll req peer → exec (.fabricTimeout tag) s = .next (u.collFault req 31)))) ∧
  (∀ (s : State) (v : Nat) (r : FabReq),
    let mine := fun r : FabReq => match r.what with | .note k _ => k == v | _ => false
    s.fabric.find? mine = some r →
    (s.clock < r.since + r.limit → exec (.notifyResend v) s = .next s) ∧
    (r.since + r.limit ≤ s.clock → exec (.notifyResend v) s =
      .next (({ s with fabric := s.fabric.filter fun q => !mine q } : State).sendNote v))) ∧
  (∀ (s : State) (dest vc : Nat),
    let mine := fun m : OutMsg => m.dest == dest && m.vc == vc
    ∃ t, exec (.pathFailure dest vc) s = .next t ∧ t.mem = s.mem ∧ t.beams = s.beams ∧
      (t.flow dest vc).inSeq = (s.flow dest vc).inSeq ∧ (t.flow dest vc).outSeq = (s.flow dest vc).outSeq ∧
      (t.flow dest vc).unacked = (s.flow dest vc).unacked ∧
      ((∀ p ∈ s.ports, p.usable = false) → t.out = s.out ∧
        t.unsent = s.unsent.filter (fun m => !mine m) ++ (s.flow dest vc).unacked.map (·.1))) ∧
  (∀ (s : State) (f : From) (typ : Nat), exec (.discardedMessage f typ) s =
    .next ((if s.expects f then s.tookNext f else s).logged (.badMessage f.src typ)))

/-- R319, R320, R321, R322, R399, R417: What CREATE, STOP, RESUME, DESTROY, QUERY and DBGSTOP answer and do. What a
DBGSTOP does to a cohort whose eviction is under way is the model's choice (log entry 56). Answers that R399 leaves
open are the model's choice (log entry 27). -/
def Obligations.ContextRequests : Prop :=
  ∀ (s : State) (f : From), s.mgmt.running = true → s.expects f = true → f.vc = 3 → s.accepts f (s.partOfVf f.vfn) = true →
    let u := s.tookNext f
    let ans := Answers s f
    (∀ world root handler save savesz n p, lowestFree 4096 (s.contexts.map (·.id)) = some n → s.partOfVf f.vfn = some p →
      let i : Instr := .create f world root handler save savesz
      let denied := world % 2 = 1 ∧ p.world = false
      (denied → ans i u 2 0) ∧
      (¬ denied → p.holdsContext root save savesz = false → ans i u 3 0) ∧
      (¬ denied → p.holdsContext root save savesz = true → ∃ t c, ans i t 0 n ∧ t.contexts = s.contexts ++ [c] ∧ c.id = n ∧
        c.st = .open_ ∧ c.root = root ∧ c.handler = handler % 2 ^ 56 ∧ c.save = save ∧ c.savesz = savesz ∧ c.vf = f.vfn ∧
        c.part = p.id ∧ n < 4096 ∧ (∀ x ∈ s.contexts, x.id ≠ n) ∧ ∀ m, m < n → ∃ x ∈ s.contexts, x.id = m)) ∧
    (∀ n i, i ∈ [Instr.stop f n, .resume f n, .destroy f n, .query f n] →
      s.context? n = none ∨ (∃ c, s.context? n = some c ∧ c.vf ≠ f.vfn) → ans i u 5 0) ∧
    (∀ n c, s.context? n = some c → c.vf = f.vfn →
      (c.st ≠ .open_ → ans (.stop f n) u 4 0) ∧
      (c.st = .open_ → ∃ t c', ans (.stop f n) t 0 0 ∧ t.beams = s.beams ∧ t.context? n = some c' ∧
        c'.st = (if s.residents n = [] then .stopped else .stopping) ∧
        (∀ q ∈ t.queues, q.ctx = n → q.ctxStop = true ∧ q.serving = false) ∧
        ∀ k y z, s.cohort? k = some y → y.st = .resident → s.kernel? k.kernel = some z → z.ctx = n →
          ∃ y', t.cohort? k = some y' ∧ y'.stop.isSome = true) ∧
      (c.st ≠ .stopped → ans (.resume f n) u 4 0) ∧
      (c.st = .stopped → ∃ t c', ans (.resume f n) t 0 0 ∧ t.context? n = some c' ∧ c'.st = .open_ ∧
        ∀ q ∈ t.queues, q.ctx = n → q.ctxStop = false ∧ (q.st = .stopped → q.hostStop = true)) ∧
      (c.st ≠ .stopped ∧ c.st ≠ .faulted → ans (.destroy f n) u 4 0) ∧
      (c.st = .stopped ∨ c.st = .faulted → ∃ t, ans (.destroy f n) t 0 0 ∧ t.context? n = none ∧
        (∀ i k, t.kernel? i = some k → k.ctx = n → k.st = .faulted ∨ k.st = .completed) ∧
        (∀ k ∈ t.cores, ∀ e ∈ k.tlb, e.ctx ≠ n) ∧ (∀ e ∈ t.dieTlb, e.2.ctx ≠ n) ∧ ∀ e ∈ t.walkc, e.2.ctx ≠ n) ∧
      ans (.query f n) u 0 (s.contextWord c) ∧
      (c.st = .open_ → ∀ kernel cohort stop k y, s.kernel? kernel = some k → k.ctx = n → s.cohort? ⟨kernel, cohort⟩ = some y →
        s.stopPends y = false →
        (y.st = .resident → y.stop = none → exec (.dbgstop f n kernel cohort stop) s =
          .next (u.setCohort { y with stop := some (.debug (stop % 2 ^ 32) f) })) ∧
        (y.st = .resident → y.stop = some .evict → exec (.dbgstop f n kernel cohort stop) s =
          .next (u.setCohort { y with dbg := some (stop % 2 ^ 32, f) })) ∧
        (∀ at_ size, y.st = .parked → y.save = some (at_, size) → ans (.dbgstop f n kernel cohort stop)
          (u.stopParked y at_ (stop % 2 ^ 32)) 0 0)))

/-- R333, R340, R342, R389, R398, R385, R401: What QCREATE, QSTOP, QRESUME, QRESET and QDESTROY answer and do, and the
domain's word. TLBFLUSH drops what it names in every core and die; LGCREATE makes a live group at the lowest free
index with its generation in the answer, or is refused with 6 or 7; LGDESTROY ends a group, whose generation advances.
Answers that R399 and R340 leave open are the model's choice (log entries 27 and 30). -/
def Obligations.QueueAndGroupRequests : Prop :=
  (∀ (s : State) (f : From), s.mgmt.running = true → s.expects f = true → f.vc = 3 → s.accepts f (s.partOfVf f.vfn) = true →
    let u := s.tookNext f
    let ans := Answers s f
    (∀ ctx desc base size cls weight c n pa va, s.context? ctx = some c → c.vf = f.vfn →
      lowestFree 8192 (s.queues.map (·.num)) = some n → desc % 64 = 0 → base % 4096 = 0 → 16 ≤ size → size ≤ 65536 →
      size = 2 ^ Nat.log2 size → cls ≤ 3 → (cls = 0 ∨ 1 ≤ weight ∧ weight ≤ 255) →
      s.nearPages c base (64 * size) = some va → s.nearPages c desc 64 = some pa →
      ∃ t q, ans (.qcreate f [ctx, desc, base, size, cls, weight]) t 0 n ∧ t.queue? n = some q ∧ q.ctx = c.id ∧ q.base = base ∧
        q.size = size ∧ q.cls = cls ∧ q.st = .running ∧ q.head = 0 ∧ q.tail = 0 ∧ q.done = 0 ∧ q.desc = pa ∧
        t.readBytes pa 64 = q.image) ∧
    (∀ n i, i ∈ [Instr.qstop f n, .qresume f n, .qreset f n, .qdestroy f n] →
      s.queue? n = none ∨ (∃ q, s.queue? n = some q ∧ (s.context? q.ctx).any (fun x => x.vf == f.vfn) = false) → ans i u 5 0) ∧
    (∀ n q, s.queue? n = some q → (s.context? q.ctx).any (fun x => x.vf == f.vfn) = true →
      (q.serving = false → ans (.qstop f n) u 4 0) ∧
      (q.serving = true → ∃ t, ans (.qstop f n) t 0 0 ∧ t.queue? n = some { q with hostStop := true, st := .stopped }) ∧
      (q.st ≠ .stopped → ans (.qresume f n) u 4 0) ∧
      (q.st = .stopped → ∃ t, ans (.qresume f n) t 0 0 ∧
        t.queue? n = some { q with hostStop := false, st := if q.ctxStop then .stopped else .running }) ∧
      (q.st ≠ .faulted → ans (.qreset f n) u 4 0) ∧
      (q.st = .faulted → ∃ t y, ans (.qreset f n) t 0 0 ∧ t.queue? n = some y ∧ y.head = q.tail ∧ y.tail = q.tail ∧ y.fcode = 0 ∧
        y.st = (if q.hostStop ∨ q.ctxStop then .stopped else .running) ∧ (q.done = q.head → q.head ≤ q.tail → q.tail ≤ y.done)) ∧
      (q.st ≠ .stopped ∧ q.st ≠ .faulted → ans (.qdestroy f n) u 4 0) ∧
      (q.st = .stopped ∨ q.st = .faulted → q.done ≠ q.head → ans (.qdestroy f n) u 6 0) ∧
      (q.st = .stopped ∨ q.st = .faulted → q.done = q.head → ∃ t, ans (.qdestroy f n) t 0 0 ∧ t.queue? n = none ∧
        t.mem.read (q.desc + 14) = 0 ∧ t.mem.read (q.desc + 15) = 0)) ∧
    exec (.domain f) s = .next (u.respond f 0 (mgmtBody (s.mgmt.device % 2 ^ 16 + s.mgmt.bootst.toNat * 2 ^ 32) ++
      s.ports.flatMap fun p => natLe 4 p.lnkst)) ∧
    exec (.unknownRequestCode f 0x40) s = .next u ∧
    ∀ code, 0x40 < code → ans (.unknownRequestCode f code) u 8 0) ∧
  (∀ (s : State) (f : From) (n : Nat) (c : Context) (p : Partition), s.mgmt.running = true → s.expects f = true →
    f.vc = 3 → s.accepts f (s.partOfVf f.vfn) = true → s.context? n = some c → c.vf = f.vfn → s.part? c.part = some p →
    let u := s.tookNext f
    let ans := Answers s f
    (∀ va : Option Addr, ∃ t, ans (.tlbflush f n va) t 0 0 ∧ t.mem = s.mem ∧ t.beams = s.beams ∧
      (∀ k ∈ t.cores, ∀ e ∈ k.tlb, (match va with | some a => e.covers c.id a.toNat | none => e.ctx == c.id) = false) ∧
      (∀ e ∈ t.dieTlb, (match va with | some a => e.2.covers c.id a.toNat | none => e.2.ctx == c.id) = false) ∧
      ∀ e ∈ t.walkc, (match va with | some a => e.2.covers c.id e.2.lvl a.toNat | none => e.2.ctx == c.id) = false) ∧
    (∀ va count g devs, lowestFree 64 (((s.links.filter fun g => g.part == p.id).filter fun g => g.live).map (·.index)) = some g →
      s.deviceList c va count = some devs →
      let me := s.mgmt.device
      let far := devs.all fun d => d == me || (p.egress.contains d && p.ingress.contains d)
      ((devs.filter (· == me)).length ≠ 1 → ans (.lgcreate f n va count) u 6 0) ∧
      ((devs.filter (· == me)).length = 1 → far = false → ans (.lgcreate f n va count) u 7 0) ∧
      ((devs.filter (· == me)).length = 1 → far = true → ∃ t y, ans (.lgcreate f n va count) t 0 (g + y.gen * 2 ^ 16) ∧
        t.linkOf p.id (g + y.gen * 2 ^ 16) = some y ∧ y.index = g ∧ y.live = true ∧ y.devs = devs ∧ y.issued = 0)) ∧
    (∀ h, s.linkOf c.part h = none → ans (.lgdestroy f n h) u 4 0) ∧
    (∀ h y, s.linkOf c.part h = some y → ∃ t, ans (.lgdestroy f n h) t 0 0 ∧
      ∀ z ∈ t.links, z.part = y.part → z.index = y.index → z.live = false ∧ z.gen = (y.gen + 1) % 2 ^ 16))

/-- R440, R441, R442: The SPDM responder: GET_VERSION from any state offers version 1.3 and starts the connection;
every other request in a state that it is not for is answered ERROR 4; the capabilities set no session flag, the
algorithms are SM2, SM3_256 and SM3_256; a certificate is read in parts; what is signed is signed by the identity key;
the measurements are those of the boot. SM2 and SM3 are those of the standards, presumed (log entry 67). The layouts
are those of DSP0274, presumed (log entry 31); certificates and the random numbers of a signature are free (log entry
7). -/
def Obligations.SpdmResponses : Prop :=
  ∀ (s : State) (f : From), s.mgmt.running = true → s.expects f = true → f.vc = 3 → s.accepts f (s.partOfVf f.vfn) = true →
    let u := s.tookNext f
    let tells := fun (i : Instr) (c : SpdmSt) (body : List Byte) => exec i s = .next ((u.setSpdm c).respond f 0 (natLe 7 0 ++ body))
    let bad := fun (i : Instr) (code : Nat) => tells i s.mgmt.spdm [0x13, 0x7F, BitVec.ofNat 8 code, 0]
    tells (.getVersion f) .versioned [0x10, 0x04, 0, 0, 0, 1, 0x00, 0x13] ∧
    (s.mgmt.spdm = .versioned → tells (.getCapabilities f) .capable ([0x13, 0x61, 0, 0] ++ [0, Config.spdmExponent, 0, 0] ++
      [0x16, 0, 0, 0] ++ natLe 4 Config.spdmTransfer.toNat ++ natLe 4 Config.spdmLargest.toNat)) ∧
    (s.mgmt.spdm ≠ .versioned → bad (.getCapabilities f) 4) ∧
    (∀ a h m,
      (s.mgmt.spdm ≠ .capable → bad (.negotiateAlgorithms f a h m) 4) ∧
      (s.mgmt.spdm = .capable → (a && h && m) = false → bad (.negotiateAlgorithms f a h m) 1) ∧
      (s.mgmt.spdm = .capable → (a && h && m) = true →
        tells (.negotiateAlgorithms f a h m) .negotiated ([0x13, 0x63, 0, 0] ++ [36, 0, 1, 0] ++ [0x80, 0, 0, 0] ++ [0, 2, 0, 0] ++
          [0x40, 0, 0, 0] ++ List.replicate 16 0))) ∧
    (∀ n m k bs i, i ∈ [Instr.getDigests f, .getCertificate f n m k, .challenge f n bs, .getMeasurements f n bs] →
      s.mgmt.spdm ≠ .negotiated → bad i 4) ∧
    (s.mgmt.spdm = .negotiated →
      tells (.getDigests f) .negotiated ([0x13, 0x01, 0, 3] ++ sm3 (s.chain 0) ++ sm3 (s.chain 1)) ∧
      (∀ t : State, t.chain 0 = s.chain 0) ∧
      (∀ slot off len, (1 < slot ∨ (s.chain slot).length ≤ off → bad (.getCertificate f slot off len) 1) ∧
        (slot ≤ 1 → off < (s.chain slot).length →
          let part := ((s.chain slot).drop off).take len
          tells (.getCertificate f slot off len) .negotiated ([0x13, 0x02, BitVec.ofNat 8 slot, 0] ++ natLe 2 part.length ++
            natLe 2 ((s.chain slot).length - off - part.length) ++ part))) ∧
      (∀ slot nonce, (1 < slot → bad (.challenge f slot nonce) 1) ∧
        (slot ≤ 1 →
          let body := [0x13, 0x03, BitVec.ofNat 8 slot, 3] ++ sm3 (s.chain slot) ++ Config.spdmNonce s.free ++
            sm3 s.mgmt.measures.flatten ++ natLe 2 0
          tells (.challenge f slot nonce) .negotiated (body ++ sm2Sign Config.signerIdentity (beNat s.mgmt.identity) (nonce ++ body)
            (Config.signRandom (s.free + 1))))) ∧
      (∀ nonce : List Byte,
        let body := [0x13, 0x60, BitVec.ofNat 8 s.mgmt.measures.length, 0] ++ [0] ++ natLe 3 0 ++ Config.spdmNonce s.free ++ natLe 2 0
        tells (.getMeasurements f 0 nonce) .negotiated (if nonce = [] then body else s.signed nonce body)) ∧
      ∀ i d nonce, 1 ≤ i → i < 0xFF → s.mgmt.measures[i - 1]? = some d →
        let blk := measureBlock i d
        let body := [0x13, 0x60, 0, 0] ++ [1] ++ natLe 3 blk.length ++ blk ++ Config.spdmNonce s.free ++ natLe 2 0
        tells (.getMeasurements f i nonce) .negotiated (if nonce = [] then body else s.signed nonce body))

/-- R387, R388, R389, R390, R391, R438, R239, R314, R403, R404, R405, R444, R460: The ports: a flit that fails its
check is counted and discarded, and more than 16 in a row train the port; one that passes acknowledges flits of the
replay buffer, and the expected one moves the expected number; training ends up on 8 lanes, degraded on 4 or 2, or
down after the third failure; firmware, where it runs, retrains a port that is down, fences one and unfences it; a
lane that loses lock trains the port. Far capacity joins its partition where it lies inside a window of FAR and is
nobody's yet, all of that where no near memory is met and 16 TiB are not exceeded; a released range is held until the
host has confirmed it and then lies in no range; an acknowledged line is in far memory and no write of it is on its
way, a failed one is logged; of a line without a write on its way nothing happens. A port's credits and the time over
which its replay rate is measured are the model's choice (log entries 30 and 33). -/
def Obligations.PortsAndFarMemory : Prop :=
  (∀ (s : State) (n : Nat) (p : Port), s.port? n = some p →
    let becomes := fun (i : Instr) (q : Port → Prop) => ∃ t p', exec i s = .next t ∧ t.port? n = some p' ∧ q p' ∧
      t.mem = s.mem ∧ t.beams = s.beams
    (∀ (lseq ack : BitVec 12) (credit : BitVec 2 × BitVec 6) (rest : List Byte),
      let covered := natLe 4 (credit.1.toNat + 2 ^ 2 * lseq.toNat + 2 ^ 14 * ack.toNat + 2 ^ 26 * credit.2.toNat) ++ rest.take 244
      let good := rest.length = 252 ∧ leNat (rest.drop 244) = (Config.flitCheck covered).toNat
      let i := Instr.flitReceive n lseq ack credit rest
      (p.usable = false → exec i s = .next s) ∧
      (p.usable = true → ¬ good →
        becomes i (fun q => q.replays = min 65535 (p.replays + 1) ∧ q.rxSeq = p.rxSeq ∧ q.buffer = p.buffer ∧
          (16 ≤ p.badRun → q.st = .training ∧ q.lanes = 0 ∧ q.badRun = 0) ∧
          (p.badRun < 16 → p.lost = none → p.recent.length < s.mgmt.replayMax → q.st = p.st ∧ q.badRun = p.badRun + 1))) ∧
      (p.usable = true → good →
        becomes i (fun q => q.st = p.st ∧
          (lseq.toNat = p.rxSeq → q.rxSeq = (p.rxSeq + 1) % 4096 ∧ q.badRun = 0) ∧
          (lseq.toNat ≠ p.rxSeq → q.rxSeq = p.rxSeq ∧ q.badRun = p.badRun) ∧
          ∃ k new, q.buffer = p.buffer.drop k ++ new ∧ (∀ b ∈ p.buffer.take (k - 1), b.lseq ≠ ack.toNat) ∧
            (0 < k → (p.buffer[k - 1]?).map (·.lseq) = some ack.toNat) ∧
            (k = 0 → ∀ b ∈ p.buffer, b.lseq ≠ ack.toNat)))) ∧
    (let skips := p.st ≠ .down ∨ s.mgmt.running = false
     (skips → exec (.linkRetrain n) s = .next s) ∧
     (¬ skips → becomes (.linkRetrain n) (fun q => q.st = .training ∧ q.lanes = 0 ∧ q.failed = 0))) ∧
    (∀ lanes,
      (p.st ≠ .training → exec (.trainingComplete n lanes) s = .next s) ∧
      (p.st = .training →
        (8 ≤ lanes → becomes (.trainingComplete n lanes) (fun q => q.st = .up ∧ q.lanes = 8 ∧ q.failed = 0)) ∧
        (4 ≤ lanes → lanes < 8 → becomes (.trainingComplete n lanes) (fun q => q.st = .degraded ∧ q.lanes = 4)) ∧
        (2 ≤ lanes → lanes < 4 → becomes (.trainingComplete n lanes) (fun q => q.st = .degraded ∧ q.lanes = 2)) ∧
        (lanes < 2 → p.failed < 2 → becomes (.trainingComplete n lanes) (fun q => q.st = .training ∧ q.failed = p.failed + 1)) ∧
        (lanes < 2 → 2 ≤ p.failed → becomes (.trainingComplete n lanes) (fun q => q.st = .down)))) ∧
    (p.usable = true → becomes (.laneLockLoss n) (fun q => q.st = .training ∧ q.lanes = 0)) ∧
    (p.usable = false → exec (.laneLockLoss n) s = .next s) ∧
    (s.mgmt.running = true → becomes (.portFence n) (fun q => q.st = .fenced ∧ q.lanes = 0)) ∧
    (s.mgmt.running = false → exec (.portFence n) s = .next s) ∧
    (p.st = .fenced → s.mgmt.running = true → becomes (.portUnfence n) (fun q => q.st = .training)) ∧
    (p.st ≠ .fenced ∨ s.mgmt.running = false → exec (.portUnfence n) s = .next s)) ∧
  ((∀ (s : State) (p : Partition) (base limit : Nat), s.part? p.id = some p →
    let sizes := fun l : List (Nat × Nat) => (l.map fun r => r.2 - r.1).sum
    (∃ t new, exec (.dcdCapacityAdd p.id base limit) s = .next t ∧ t.mem = s.mem ∧ t.beams = s.beams ∧
      t.part? p.id = some { p with far := p.far ++ new } ∧
      (∀ r ∈ new, base ≤ r.1 ∧ r.1 < r.2 ∧ r.2 ≤ limit ∧ (∃ w ∈ p.farWin, w.1 ≤ r.1 ∧ r.2 ≤ w.2) ∧
        ∀ q ∈ s.parts, ∀ o ∈ q.far, r.2 ≤ o.1 ∨ o.2 ≤ r.1) ∧
      (s.farBytes ≤ 2 ^ 44 → s.farBytes + sizes new ≤ 2 ^ 44) ∧
      (farFree [] (base, limit) = true → s.farBytes + sizes (newFar (s.parts.flatMap (·.far)) p.farWin (base, limit)) ≤ 2 ^ 44 →
        ∀ a, base ≤ a → a < limit → (∃ w ∈ p.farWin, w.1 ≤ a ∧ a < w.2) → (∀ q ∈ s.parts, ∀ o ∈ q.far, a < o.1 ∨ o.2 ≤ a) →
          ∃ r ∈ new, r.1 ≤ a ∧ a < r.2)) ∧
    (∃ t q, exec (.dcdRelease p.id base limit false) s = .next t ∧ t.part? p.id = some q ∧ q.far = p.far ∧ (base, limit) ∈ q.held) ∧
    (∃ t q, exec (.dcdRelease p.id base limit true) s = .next t ∧ t.part? p.id = some q ∧ (base, limit) ∉ q.held ∧
      (∀ r ∈ q.far, ∀ a, r.1 ≤ a → a < r.2 → a < base ∨ limit ≤ a) ∧
      ∀ a, a < base ∨ limit ≤ a → (base ≤ limit) → ((∃ r ∈ p.far, r.1 ≤ a ∧ a < r.2) ↔ ∃ r ∈ q.far, r.1 ≤ a ∧ a < r.2))) ∧
  ∀ (s : State) (pa : Nat),
    let onWay := s.flushing.contains (nearLine pa) = true ∨ ∃ f ∈ s.posted, f.line = nearLine pa
    (∀ ok, ¬ onWay → exec (.cxlWriteAcknowledgement pa ok) s = .next s) ∧
    (∃ t, exec (.cxlWriteAcknowledgement pa true) s = .next t ∧ t.mem = s.mem ∧ t.beams = s.beams ∧
      t.flushing.contains (nearLine pa) = false ∧ (∀ f ∈ t.posted, f.line ≠ nearLine pa) ∧
      (s.flushing.contains (nearLine pa) = true → ∀ c ∈ t.dirty, nearLine c.1 ≠ nearLine pa)) ∧
    (onWay → ∃ t rest, exec (.cxlWriteAcknowledgement pa false) s = .next t ∧ t.dirty = s.dirty ∧
      t.log = s.log ++ LogEntry.writeFailed pa :: LogEntry.hwerr 0 5 pa :: rest))

/-- R438, R439, R442, R460, R461: RESET_N discards every context, queue, kernel and beam and keeps memory; when it is
released the boot ROM stops at the first check that fails with its step and check in BOOTST and the ports but the
management port down, or starts the firmware with the Diaphragm locked, the digests of the ROM, the firmware and the
configuration image as its measurements. SM2 and SM3 are those of the standards, presumed (log entry 67), and that
port 0 leaves down is the model's choice (log entry 30). What firmware reads from a configuration image, the fuses and
the derived identity key are free, and memory outlives RESET_N (log entries 7, 9 and 47). -/
def Obligations.ResetAndBoot : Prop :=
  ∀ (s : State),
    (∃ t, exec .pwrgood s = .next t ∧ { t with mgmt := s.mgmt } = s ∧ t.mgmt.pwrgood = true) ∧
    (∃ t, exec .resetNAssert s = .next t ∧ t.beams = [] ∧ t.cohorts = [] ∧ t.kernels = [] ∧ t.contexts = [] ∧ t.queues = [] ∧
      t.cores = [] ∧ t.clock = 0 ∧ t.mgmt.inReset = true ∧ t.mgmt.locked = false ∧ t.mgmt.bootst = 0 ∧
      t.mgmt.pwrgood = s.mgmt.pwrgood ∧ (s.dirty = [] → t.mem = s.mem)) ∧
    (∀ img, s.mgmt.inReset = false ∨ s.mgmt.pwrgood = false → exec (.resetNRelease img) s = .next s) ∧
    (∀ img, s.mgmt.inReset = true → s.mgmt.pwrgood = true →
      (∀ c, imgFault img.firmware 0x4E5A4657 = some c → ∃ t, exec (.resetNRelease img) s = .next t ∧
        t.mgmt.running = false ∧ t.mgmt.inReset = false ∧ t.mgmt.bootst = BitVec.ofNat 32 (0x40020000 + 256 * c) ∧
        ∀ q ∈ t.ports, q.id ≠ 0 → q ∈ s.ports) ∧
      (∀ c, imgFault img.firmware 0x4E5A4657 = none → imgFault img.config 0x4E5A4347 = some c →
        ∃ t, exec (.resetNRelease img) s = .next t ∧ t.mgmt.running = false ∧
          t.mgmt.bootst = BitVec.ofNat 32 (0x40030000 + 256 * c)) ∧
      (imgFault img.firmware 0x4E5A4657 = none → imgFault img.config 0x4E5A4347 = none →
        ∃ t, exec (.resetNRelease img) s = .next t ∧ t.mgmt.running = true ∧ t.mgmt.locked = true ∧ t.mgmt.inReset = false ∧
          t.parts = cfgParts img.config ∧ t.farBytes ≤ 2 ^ 44 ∧ (∀ p ∈ t.ports, p.st = .training) ∧
          t.mgmt.measures[0]? = some (sm3 Config.bootRom) ∧ t.mgmt.measures[1]? = some (sm3 (imgCovered img.firmware)) ∧
          t.mgmt.measures[2]? = some (sm3 (imgBytes img.config 0 (192 + recAt img.config 4 4))) ∧
          t.mgmt.identity = natBe 32 (Config.identityKey Config.fuseSeed (sm3 (imgCovered img.firmware))))) ∧
    (∀ (b : List Byte) (magic : Nat),
      (b.length < 192 → imgFault b magic = some 1) ∧
      (192 ≤ b.length → recAt b 0 4 = magic → sm3 (imgBytes b 16 64) = Config.fuseKeyDigest → recAt b 8 2 < minSvn →
        imgFault b magic = some 3))

/-- R323, R354, R395, R443, R444, R458, R459, R462: The firmware sets a partition's time slice, its fabric timeout
from 1 µs to 1 s, and CGCTL; firmware's writes to the locked Diaphragm are ignored and logged; a trip lowers the
clock, whatever is set in its cycle; a setting is clamped to its ceiling; THERMTRIP stops the clocks; FAULT_N lasts
its time; the board reads BOOTST, the log and the power settings, and writes a ceiling below PWR where PINS.I3CW is
set; TDO is low where PINS.JTAG is clear. The words of an I3C access and the cycles of 2.25 GHz are the model's choice
(log entries 32 and 45). -/
def Obligations.BoardAndPower : Prop :=
  (∀ (s : State) (part reg v : Nat),
    (s.mgmt.locked = true → exec (.diaphragmWrite part reg v) s = .next { s with log := s.log ++ [.diaphragm part reg] }) ∧
    (s.mgmt.locked = false → exec (.diaphragmWrite part reg v) s = .next s)) ∧
  (∀ (s : State) (p : Partition), s.part? p.id = some p →
    (∀ mhz, ∃ t, exec (.supplyTrip p.id mhz) s = .next t ∧ t.log = s.log ++ [.trip p.id mhz] ∧
      t.part? p.id = some { p with clk := min p.clk mhz, trip := some s.clock }) ∧
    (∀ w m, ∃ t q, exec (.powerClockSetting p.id w m) s = .next t ∧ t.part? p.id = some q ∧
      (∀ x, w = some x → q.pwr = min x (min p.pwrMax p.ceiling)) ∧ (w = none → q.pwr = p.pwr) ∧
      (∀ x, m = some x → p.trip ≠ some s.clock → q.clk = min x p.clkMax) ∧
      (m = none ∨ p.trip = some s.clock → q.clk = p.clk)) ∧
    (s.mgmt.inReset = false →
      (∃ t, exec (.i3cAccess (.readPower p.id)) s = .next t ∧ t.out = s.out ++ [.i3c [p.pwr, p.ceiling, p.pwrMax]]) ∧
      ∀ v, (s.mgmt.pins.getLsbD 1 = true → v < p.pwrMax → ∃ t, exec (.i3cAccess (.setCeiling p.id v)) s = .next t ∧
          t.part? p.id = some { p with ceiling := v, pwr := min p.pwr v }) ∧
        (s.mgmt.pins.getLsbD 1 = false ∨ p.pwrMax ≤ v → exec (.i3cAccess (.setCeiling p.id v)) s = .next s))) ∧
  (∀ (s : State) (part : Nat) (p : Partition), s.mgmt.running = true → s.part? part = some p →
    (∀ n, s.turn = .setting (.slice part n) → ∃ t, step s = .next t ∧ t.part? part = some { p with slice := n }) ∧
    (∀ n, s.turn = .setting (.timeout part n) → ∃ t, step s = .next t ∧
      t.part? part = some (if 2250 ≤ n ∧ n ≤ 2250000000 then { p with timeout := n } else p)) ∧
    (∀ v, s.turn = .setting (.cgctl part v) → ∃ t, step s = .next t ∧ t.part? part = some { p with cgctl := v &&& 0x8FFFFF00 })) ∧
  ∀ (s : State),
    (∀ die, ∃ t, exec (.thermtrip die) s = .next t ∧ t.mgmt.thermtrip = true ∧ t.log = s.log ++ [.thermal die] ∧
      t.beams = s.beams ∧ t.mem = s.mem) ∧
    (s.mgmt.inReset = true → ∀ op, exec (.i3cAccess op) s = .next s) ∧
    (s.mgmt.inReset = false →
      (∃ t, exec (.i3cAccess .readBootst) s = .next t ∧ t.out = s.out ++ [.i3c [s.mgmt.bootst.toNat]]) ∧
      (∃ t, exec (.i3cAccess .readLog) s = .next t ∧ t.out = s.out ++ [.i3c (s.log.flatMap LogEntry.words)]) ∧
      (∃ t ws, exec (.i3cAccess .readSensors) s = .next t ∧ t.out = s.out ++ [.i3c ws] ∧ ws.length = 8)) ∧
    (∀ tms tdi, ∃ t b, exec (.boundaryScanAccess tms tdi) s = .next t ∧ t.out = s.out ++ [.tdo b] ∧
      (s.mgmt.pins.getLsbD 3 = false → b = false) ∧ t.mem = s.mem ∧ t.beams = s.beams) ∧
    (∀ e, s.mgmt.faultn = some e →
      (e ≤ s.clock → ∃ t, exec .faultNAssertionEnd s = .next t ∧ t.mgmt.faultn = none ∧ { t with mgmt := s.mgmt } = s) ∧
      (s.clock < e → exec .faultNAssertionEnd s = .next s))

/-! ### Reset, decoding and the step -/

/-- R420, R389, R461, R162, R460, R438: The state after reset has no context, queue, kernel or beam, every register of
every core's pages, every port's status and BOOTST at 0, the clock at 0, no port up and the device held in reset.
Fields without a reset value of the spec are not stated here (log entries 12 and 13). -/
def Obligations.ResetState : Prop :=
  let s := State.reset
  (∀ core off, s.regRead core off = 0) ∧ s.clock = 0 ∧ s.contexts = [] ∧ s.queues = [] ∧ s.kernels = [] ∧ s.cohorts = [] ∧
    s.beams = [] ∧ s.mgmt.inReset = true ∧ s.mgmt.running = false ∧ s.mgmt.bootst = 0 ∧ s.ports.length = 16 ∧
    (∀ p ∈ s.ports, p.st = .down ∧ p.lnkst = 0) ∧ s.mem.wf ∧ s.shaped = true ∧ step s = .next s.begin.tick

/-- R102, R104, R105, R106, R107, R108, R109, R110, R111, R112, R113, R114, R115, R123: Words of the manual's
encodings and the instructions that they stand for, and words that R125 refuses with their codes. -/
def Obligations.DecodeWords : Prop :=
  (Raw.header ⟨0x00060001, 0x00034005, 0⟩ =
    { len := 6, rsv := 0, x := false, g := false, k := false, y := false, rcv := 13, pf := 0, livea := 0, livev := 5 }) ∧
  decodeRaw ⟨0x00000020, 0, 0⟩ = .ok .nop ∧ decodeRaw ⟨0x00001C04, 0, 0⟩ = .ok (.bra 7) ∧
  decodeRaw ⟨0x0002800D, 0x00080005, 0⟩ = .ok (.brv .uo 0 2 5 8) ∧
  decodeRaw ⟨0xFFFC4C34, 0, 0⟩ = .ok (.bdec 0x13 0xFFFC) ∧
  decodeRaw ⟨0x01020D2A, 0x00000008, 0x00100000⟩ = .ok (.fmul .f32 .rn 2 (.v 1 .id false) (.reg (.s 8 false))) ∧
  decodeRaw ⟨0x00010512, 0x00000505, 0x00100000⟩ = .ok (.icmp .ge .s32 1 (.v 0 .id false) (.reg (.s 5 false))) ∧
  decodeRaw ⟨0x0700409A, 0x80000000, 0⟩ = .ok (.scmp .gt .s64 0 ⟨7, false⟩ (.imm 0)) ∧
  decodeRaw ⟨0x05028DC1, 0x00000001, 0⟩ = .ok (.ld .beam .f32 2 (.idx ⟨5, false⟩ 1 false)) ∧
  decodeRaw ⟨0x000041EC, 0, 0⟩ = .ok (.fence .acq .dev) ∧ decodeRaw ⟨0x000602DC, 0, 0⟩ = .ok (.clock 6) ∧
  decodeTableWord 32 0x00001C04 = some (.bra 7) ∧
  decodeRaw ⟨0x00000300, 0, 0⟩ = .bad 2 ∧ decodeRaw ⟨0x00000023, 0, 0⟩ = .bad 1 ∧ decodeRaw ⟨0x00000420, 0, 0⟩ = .bad 5

/-- R102, R125: Every well-formed instruction that the encoder gives words for is what the decoder reads from them. -/
def Obligations.DecodeOfEncode : Prop :=
  ∀ (i : Instr) (r : Raw), i.wf = true → encodeRaw i = some r → decodeRaw r = .ok i

/-- R104, R108, R118, R126: A step whose turn is a fragment that may go on executes the instruction that its words
decode to, at that state; an issue that leaves the fragment's entry as it was, because the fragment waits, is no step
of it; words that decode to none trap with the code of R125; a fragment that may not go on does nothing; a step of the
device is executed as its instruction, and multiplications in progress take of what is written as R288 says, which
changes nothing else; a cycle ends where nothing else happens; and what comes from outside the device is taken as it
is listed. Whose turn it is, issues that wait and events from outside are log entries 2, 3 and 46. -/
def Obligations.StepRunsTheInstruction : Prop :=
  ∀ (s : State),
    (∀ i, s.turn = .event i → step s = s.seen none (exec i (s.begin.beforeEvent i))) ∧
    (∀ (who : Option BeamKey) (t : State), s.seen who (.next t) = .next (t.mmaSees who s) ∧
      ({ t.mmaSees who s with mmas := t.mmas } : State) = t ∧ (t.mmas = [] → t.mmaSees who s = t)) ∧ (s.turn = .tick → step s = .next s.begin.tick) ∧
    (∀ v, s.turn = .setting v → step s = .next (s.begin.setting v)) ∧
    (∀ pa bs, s.turn = .pool pa bs → step s = .next (s.begin.poolWrite pa bs)) ∧
    (∀ n up, s.turn = .cxlLink n up → step s = .next (s.begin.cxlTurn n up)) ∧
    (∀ n l, s.turn = .flitLost n l → step s = .next (s.begin.flitLost n l)) ∧
    (∀ u a, s.turn = .corrected u a → step s = .next (s.begin.logged (.corrected u a))) ∧
    ∀ k e b, s.turn = .run k e → s.begin.beam? k = some b →
      (s.begin.mayGo b e = false → step s = .next s.begin) ∧
      (s.begin.mayGo b e = true →
        let runs := fun (i : Instr) (r : Raw) (w : Nat) =>
          let u := s.begin.ready b e i r w
          let same := fun t : State => (t.beam? k).map (fun x => x.entry e) = (u.beam? k).map fun x => x.entry e
          (∀ t, exec i u = .next t → (¬ same t → step s = s.begin.seen (some k) (.next t)) ∧
            (same t → step s = .next s.begin)) ∧
          ((∀ t, exec i u ≠ .next t) → step s = exec i u)
        (∀ i r w, s.begin.fetchFor b e = .ok i r w → runs i r w) ∧
        (∀ tr w, s.begin.fetchFor b e = .trap tr w → step s = .next (s.begin.fetchTrap b e w tr)) ∧
        ∀ c blk w0 ws, s.begin.contextOf b = some c → (b.entry e).wait = none → (b.entry e).blk = some blk →
          (b.entry e).pc ≠ blk.stop → s.begin.fetchWords k.core c blk.stop (b.entry e).pc 1 = .ok [w0] →
          s.begin.fetchWords k.core c blk.stop (b.entry e).pc (rawOf [w0]).words = .ok ws → (rawOf ws).op ≠ 0 →
          (∀ i, decodeRaw (rawOf ws) = .ok i → runs i (rawOf ws) (rawOf ws).words) ∧
          ∀ code, decodeRaw (rawOf ws) = .bad code →
            step s = .next (s.begin.fetchTrap b e (rawOf ws).words (encodingTrap code (rawOf ws))))

/-- Memory keeps its canonical form: addresses strictly rising, and no entry that reads as an unlisted address does
(log entry 1). -/
def Obligations.MemoryStaysCanonical : Prop :=
  ∀ (s t : State), s.mem.wf → step s = .next t → t.mem.wf

/-- R75, R79, R80, R98, R331: Every beam's registers keep the sizes that its kernel declares, whatever is executed. -/
def Obligations.BeamsStayShaped : Prop :=
  ∀ (s t : State), s.shaped = true → step s = .next t → t.shaped = true
end

