-- ==== Sys2Proof/Laws/Records.lean ====
section
/-! SUPPORT. Finding a record after one has been replaced. -/

namespace Sys2Proof.Machine

theorem find_replaceBy {α κ : Type} [DecidableEq κ] (key : α → κ) (x : α) (k : κ) (xs : List α) :
    (replaceBy key x xs).find? (fun y => key y == k) =
      (if key x = k then (xs.find? fun y => key y == k).map (fun _ => x) else xs.find? fun y => key y == k) := by
  induction xs with
  | nil => simp [replaceBy]
  | cons y ys ih =>
    have e : replaceBy key x (y :: ys) = (if key y == key x then x else y) :: replaceBy key x ys := rfl
    rw [e, List.find?_cons, List.find?_cons]
    by_cases hy : key y = key x
    · by_cases hx : key x = k
      · simp [hy, hx]
      · have hk : (key x == k) = false := by simpa using hx
        simp [hy, hx, hk, ih]
    · by_cases hx : key x = k
      · have hk : (key y == k) = false := by simp; exact fun h => hy (h.trans hx.symm)
        have hn : (key y == key x) = false := by simpa using hy
        rw [hn, hk, ih]
        simp [hx, hk]
      · by_cases hk : key y = k
        · have hn : (key y == key x) = false := by simpa using hy
          rw [hn]
          simp [hx, hk]
        · simp [hy, hx, hk, ih]

theorem State.beam?_setBeam (s : State) (b : Beam) (k : BeamKey) :
    (s.setBeam b).beam? k = (if b.key = k then (s.beam? k).map (fun _ => b) else s.beam? k) :=
  find_replaceBy Beam.key b k s.beams

theorem State.beam?_key {s : State} {k : BeamKey} {b : Beam} (h : s.beam? k = some b) : b.key = k := by
  have := List.find?_some h
  simpa using this

end Sys2Proof.Machine
end

