-- ==== Sys2Proof/Laws/Frame.lean ====
section
/-! SUPPORT. What the frame of a beam instruction does: with nothing in its way an instruction's own effect ends by
`finish`, and a finished effect on the beam moves the fragment to its next instruction. -/

namespace Sys2Proof.Machine

/-! ### The issuing fragment -/

theorem State.frag_beam {s : State} {x : Frag} (h : s.frag = some x) : s.beam? x.b.key = some x.b := by
  unfold State.frag at h
  split at h
  · cases h
  · next c _ =>
    split at h
    · cases h
    · next b hb =>
      have hk := State.beam?_key hb
      cases h
      simp only [hk, hb]

theorem Frag.e_lt {x : Frag} (h : x.entry.st = .run) : x.e < x.b.split.length := by
  by_contra hn
  have : x.b.entry x.e = Entry.none_ := by
    unfold Beam.entry
    rw [List.getD_eq_getElem?_getD, List.getElem?_eq_none (by omega)]
    rfl
  unfold Frag.entry at h
  rw [this] at h
  cases h

theorem Beam.entry_setEntry (b : Beam) (e : Nat) (y : Entry) (j : Nat) :
    (b.setEntry e y).entry j = if j = e ∧ e < b.split.length then y else b.entry j := by
  unfold Beam.entry Beam.setEntry
  simp only [List.getD_eq_getElem?_getD, List.getElem?_set]
  by_cases h : e = j
  · subst h
    by_cases hl : e < b.split.length
    · simp [hl]
    · simp [hl, List.getElem?_eq_none (Nat.le_of_not_lt hl)]
  · have : ¬ (j = e ∧ e < b.split.length) := fun h' => h h'.1.symm
    simp [h, this]

/-! ### A fragment with nothing in its way -/

theorem State.runFrag_clear {s : State} {x : Frag} {g : Guard} (h : Clear s x g) (body : Frag → State → Res) :
    s.runFrag g body = .next (s.finish x g.uses (body x s)) := by
  unfold State.runFrag State.runOwn
  simp [h.frag, h.pending, h.check, h.source, h.early, h.full, h.dest]

/-- What an effect has written to its beam when the fragment has not moved yet. -/
structure Wrote (x : Frag) (w : Writes) (b : Beam) : Prop where
  v : ∀ r i, b.vl r i = match w.v.lookup r with
    | some f => if i < x.w ∧ x.mask.getLsbD i then f i else x.b.vl r i
    | none => x.b.vl r i
  s : ∀ r, b.sreg r = match w.s.lookup r with
    | some u => if (x.b.claimS x.lead r).isSome then u else x.b.sreg r
    | none => x.b.sreg r
  c : ∀ r i, b.cl r i = match w.c.lookup r with
    | some f => if i < x.w ∧ x.mask.getLsbD i then f i else x.b.cl r i
    | none => x.b.cl r i
  k : ∀ r, b.kreg r = match w.k.lookup r with
    | some u => if x.b.admitsK x.lead r then u else x.b.kreg r
    | none => x.b.kreg r
  status : b.status = x.b.status ||| w.flags
  split : b.split = x.b.split
  key : b.key = x.b.key
  trapRegs : b.epc = x.b.epc ∧ b.tcause = x.b.tcause ∧ b.tlanes = x.b.tlanes ∧ b.tdetx = x.b.tdetx ∧
    b.tdety = x.b.tdety ∧ b.tdetz = x.b.tdetz
  rest : b.ctl = x.b.ctl ∧ b.pl = x.b.pl ∧ b.exited = x.b.exited ∧ b.laneg = x.b.laneg ∧ b.tiles = x.b.tiles ∧
    b.dstack = x.b.dstack ∧ b.w = x.w ∧ b.cohort = x.b.cohort

/-- Nothing but the beam `k` has changed. -/
structure OnlyBeam (s : State) (k : BeamKey) (t : State) : Prop where
  only : { t with beams := s.beams } = s
  others : ∀ j, j ≠ k → t.beam? j = s.beam? j

theorem OnlyBeam.refl (s : State) (k : BeamKey) : OnlyBeam s k s := ⟨rfl, fun _ _ => rfl⟩

theorem OnlyBeam.setBeam {s t : State} {k : BeamKey} (h : OnlyBeam s k t) (b : Beam) (hb : b.key = k) :
    OnlyBeam s k (t.setBeam b) :=
  ⟨h.only, fun j hj => by
    rw [State.beam?_setBeam]
    have : ¬ b.key = j := fun h => hj (h.symm.trans hb)
    simp [this, h.others j hj]⟩

theorem State.beam?_setBeam_same {s : State} {b y : Beam} (h : s.beam? b.key = some y) :
    (s.setBeam b).beam? b.key = some b := by
  rw [State.beam?_setBeam]
  simp [h]

/-- Moving on keeps what the effect wrote. -/
theorem Wrote.move {x : Frag} {w : Writes} {b b' : Beam} (next : Nat) (h : Wrote x w b) (hr : x.entry.st = .run)
    (e : Entry) (he : e.pc = next) (hst : e.st = x.entry.st) (hm : e.mask = x.mask)
    (hb : ∃ rdy, b' = { b.setEntry x.e e with rdy := rdy }) : BeamAfter x w next b' := by
  obtain ⟨rdy, rfl⟩ := hb
  have hl := Frag.e_lt hr
  have hs : x.e < b.split.length := by rw [h.split]; exact hl
  have hent : ∀ j, ({ b.setEntry x.e e with rdy := rdy } : Beam).entry j = (b.setEntry x.e e).entry j := fun _ => rfl
  constructor
  · exact h.v
  · exact h.s
  · exact h.c
  · exact h.k
  · exact h.status
  · rw [hent, Beam.entry_setEntry]; simp [hs, he]
  · rw [hent, Beam.entry_setEntry]; simp [hs, hst, hm]
  · intro j hj
    rw [hent, Beam.entry_setEntry]
    have : ¬ (j = x.e ∧ x.e < b.split.length) := fun h' => hj h'.1
    simp only [this, if_false]
    unfold Beam.entry
    rw [h.split]
  · exact h.trapRegs
  · exact h.rest

theorem State.later_cases (s : State) (k : BeamKey) (e n : Nat) (b : Beam) (h : s.beam? k = some b) :
    ∃ r, s.later k e n = s.setBeam (b.setEntry e { b.entry e with ready := r }) ∨ s.later k e n = s := by
  unfold State.later
  refine ⟨max (b.entry e).ready (s.clock + n), ?_⟩
  split
  · left; simp [h]
  · right; rfl

theorem State.noteReady_cases (s : State) (k : BeamKey) (us : List Use) (b : Beam) (h : s.beam? k = some b) :
    s.noteReady k us = s.setBeam (b.noteReady us (s.clock + 4)) ∨ s.noteReady k us = s := by
  unfold State.noteReady
  split
  · left; simp [h]
  · right; rfl

/-- After `later` and `noteReady` the beam differs in the cycle of its next issue and in its list of ready cycles. -/
theorem State.later_noteReady {s t : State} {k : BeamKey} {b : Beam} (e n : Nat) (us : List Use) (ho : OnlyBeam s k t)
    (hb : t.beam? k = some b) (he : e < b.split.length) :
    OnlyBeam s k ((t.later k e n).noteReady k us) ∧
      ∃ r rdy, ((t.later k e n).noteReady k us).beam? k =
        some { b.setEntry e { b.entry e with ready := r } with rdy := rdy } := by
  have hk := State.beam?_key hb
  have hself : b.setEntry e { b.entry e with ready := (b.entry e).ready } = b := by
    have h1 : ({ b.entry e with ready := (b.entry e).ready } : Entry) = b.entry e := rfl
    rw [h1]
    unfold Beam.setEntry Beam.entry
    have : b.split.set e (b.split.getD e Entry.none_) = b.split := by
      rw [List.getD_eq_getElem?_getD, List.getElem?_eq_getElem he]
      simp
    rw [this]
  obtain ⟨r, hl | hl⟩ := State.later_cases t k e n b hb
  · have ho1 : OnlyBeam s k (t.later k e n) := by
      rw [hl]; exact ho.setBeam _ hk
    have hb1 : (t.later k e n).beam? k = some (b.setEntry e { b.entry e with ready := r }) := by
      rw [hl, State.beam?_setBeam]
      have : (b.setEntry e { b.entry e with ready := r }).key = k := hk
      simp [this, hb]
    obtain h2 | h2 := State.noteReady_cases _ k us _ hb1
    · refine ⟨by rw [h2]; exact ho1.setBeam _ hk, r,
        (Beam.noteReady (b.setEntry e { b.entry e with ready := r }) us ((t.later k e n).clock + 4)).rdy, ?_⟩
      rw [h2, State.beam?_setBeam]
      have : (Beam.noteReady (b.setEntry e { b.entry e with ready := r }) us ((t.later k e n).clock + 4)).key = k := hk
      simp only [this, if_true, hb1, Option.map_some]
      rfl
    · exact ⟨by rw [h2]; exact ho1, r, b.rdy, by rw [h2, hb1]; rfl⟩
  · have hb1 : (t.later k e n).beam? k = some b := by rw [hl]; exact hb
    have ho1 : OnlyBeam s k (t.later k e n) := by rw [hl]; exact ho
    obtain h2 | h2 := State.noteReady_cases _ k us _ hb1
    · refine ⟨by rw [h2]; exact ho1.setBeam _ hk, (b.entry e).ready,
        (Beam.noteReady b us ((t.later k e n).clock + 4)).rdy, ?_⟩
      rw [h2, State.beam?_setBeam, hself]
      have : (Beam.noteReady b us ((t.later k e n).clock + 4)).key = k := hk
      simp only [this, if_true, hb1, Option.map_some]
      rfl
    · exact ⟨by rw [h2]; exact ho1, (b.entry e).ready, b.rdy, by rw [h2, hb1, hself]⟩

/-- An effect that changes the beam alone, finished: the state of `Effect`. -/
theorem State.finish_beamDone {s : State} {x : Frag} {g : Guard} {w : Writes} {b : Beam} (h : Clear s x g)
    (hw : Wrote x w b) : Effect s x w x.next (s.finish x g.uses (s.beamDone b)) := by
  have hb := State.frag_beam h.frag
  have hk : b.key = x.b.key := hw.key
  have h0 : (s.setBeam b).beam? x.b.key = some b := by
    rw [State.beam?_setBeam]; simp [hk, hb]
  have hl := Frag.e_lt h.runs
  have hfin : s.finish x g.uses (s.beamDone b) =
      (((s.setBeam b).setBeam (b.advance x.e x.next)).later x.b.key x.e 1).noteReady x.b.key g.uses := by
    unfold State.beamDone State.finish
    simp only [h0]
  rw [hfin]
  have hk' : (b.advance x.e x.next).key = x.b.key := hk
  have ho : OnlyBeam s x.b.key ((s.setBeam b).setBeam (b.advance x.e x.next)) :=
    ((OnlyBeam.refl s x.b.key).setBeam b hk).setBeam _ hk'
  have hb2 : ((s.setBeam b).setBeam (b.advance x.e x.next)).beam? x.b.key = some (b.advance x.e x.next) := by
    rw [State.beam?_setBeam]; simp [hk', h0]
  have hlen : x.e < (b.advance x.e x.next).split.length := by
    unfold Beam.advance Beam.setEntry
    simp [hw.split, hl]
  obtain ⟨ho', r, rdy, hb'⟩ := State.later_noteReady x.e 1 g.uses ho hb2 hlen
  have hent : (b.advance x.e x.next).entry x.e = { b.entry x.e with pc := x.next, wait := none, carry := none } := by
    unfold Beam.advance
    rw [Beam.entry_setEntry]
    simp [hw.split, hl]
  have hbe : b.entry x.e = x.entry := by
    unfold Beam.entry Frag.entry Beam.entry
    rw [hw.split]
  refine ⟨ho'.only, ho'.others, _, hb', ?_⟩
  refine hw.move x.next h.runs { b.entry x.e with pc := x.next, wait := none, carry := none, ready := r } rfl ?_ ?_
    ⟨rdy, ?_⟩
  · show (b.entry x.e).st = x.entry.st
    rw [hbe]
  · show (b.entry x.e).mask = x.mask
    rw [hbe]; rfl
  · rw [hent]
    unfold Beam.advance Beam.setEntry
    simp

/-- An effect `u` that keeps the issuing beam, finished. -/
theorem State.finish_done {s u : State} {x : Frag} {us : List Use} {b : Beam} (hb : u.beam? x.b.key = some b)
    (hl : x.e < b.split.length) : Ends u x x.next (b.entry x.e).blk (b.entry x.e).back (s.finish x us (.done u)) := by
  have hk := State.beam?_key hb
  have hfin : s.finish x us (.done u) =
      ((u.setBeam (b.advance x.e x.next)).later x.b.key x.e 1).noteReady x.b.key us := by
    unfold State.finish
    simp only [hb]
  rw [hfin]
  have hk' : (b.advance x.e x.next).key = x.b.key := hk
  have ho : OnlyBeam u x.b.key (u.setBeam (b.advance x.e x.next)) := (OnlyBeam.refl u x.b.key).setBeam _ hk'
  have hb2 : (u.setBeam (b.advance x.e x.next)).beam? x.b.key = some (b.advance x.e x.next) := by
    rw [State.beam?_setBeam]; simp [hk', hb]
  have hlen : x.e < (b.advance x.e x.next).split.length := by
    unfold Beam.advance Beam.setEntry
    simpa using hl
  obtain ⟨ho', r, rdy, hb'⟩ := State.later_noteReady x.e 1 us ho hb2 hlen
  refine ⟨ho'.only, ho'.others, b, r, rdy, hb, ?_⟩
  rw [hb']
  have hent : (b.advance x.e x.next).entry x.e = { b.entry x.e with pc := x.next, wait := none, carry := none } := by
    unfold Beam.advance
    rw [Beam.entry_setEntry]
    simp [hl]
  rw [hent]
  unfold Beam.advance Beam.setEntry
  simp

theorem State.finish_jump {s u : State} {x : Frag} {us : List Use} {b : Beam} {target : Nat}
    (hb : u.beam? x.b.key = some b) (hl : x.e < b.split.length) :
    Ends u x target none (decide (target ≤ x.pc)) (s.finish x us (.jump u target)) := by
  have hk := State.beam?_key hb
  have hfin : s.finish x us (.jump u target) =
      ((u.setBeam (b.transfer x.e x.pc target)).later x.b.key x.e 2).noteReady x.b.key us := by
    unfold State.finish
    simp only [hb]
  rw [hfin]
  have hk' : (b.transfer x.e x.pc target).key = x.b.key := hk
  have ho : OnlyBeam u x.b.key (u.setBeam (b.transfer x.e x.pc target)) := (OnlyBeam.refl u x.b.key).setBeam _ hk'
  have hb2 : (u.setBeam (b.transfer x.e x.pc target)).beam? x.b.key = some (b.transfer x.e x.pc target) := by
    rw [State.beam?_setBeam]; simp [hk', hb]
  have hlen : x.e < (b.transfer x.e x.pc target).split.length := by
    unfold Beam.transfer Beam.setEntry
    simpa using hl
  obtain ⟨ho', r, rdy, hb'⟩ := State.later_noteReady x.e 2 us ho hb2 hlen
  refine ⟨ho'.only, ho'.others, b, r, rdy, hb, ?_⟩
  rw [hb']
  have hent : (b.transfer x.e x.pc target).entry x.e =
      { b.entry x.e with pc := target, blk := none, wait := none, carry := none, back := decide (target ≤ x.pc) } := by
    unfold Beam.transfer
    rw [Beam.entry_setEntry]
    simp [hl]
  rw [hent]
  unfold Beam.transfer Beam.setEntry
  simp

/-- An instruction whose meaning ends in `.done u` goes on behind it. -/
theorem goes_of_done {s u : State} {x : Frag} {g : Guard} {i : Instr} {body : Frag → State → Res} {b : Beam}
    (h : Clear s x g) (hi : exec i s = s.runFrag g body) (hu : body x s = .done u) (hb : u.beam? x.b.key = some b)
    (hl : x.e < b.split.length) : Goes s x i u :=
  ⟨_, by rw [hi, State.runFrag_clear h, hu], b, hb, State.finish_done hb hl⟩

theorem jumps_of_jump {s u : State} {x : Frag} {g : Guard} {i : Instr} {body : Frag → State → Res} {b : Beam} {a : Nat}
    (h : Clear s x g) (hi : exec i s = s.runFrag g body) (hu : body x s = .jump u a) (hb : u.beam? x.b.key = some b)
    (hl : x.e < b.split.length) : Jumps s x i u a :=
  ⟨_, by rw [hi, State.runFrag_clear h, hu], State.finish_jump hb hl⟩

theorem traps_of_trap {s : State} {x : Frag} {g : Guard} {i : Instr} {body : Frag → State → Res} {tr : Trap}
    (h : Clear s x g) (hi : exec i s = s.runFrag g body) (hu : body x s = .trap tr) : Traps s x i tr := by
  unfold Traps
  rw [hi, State.runFrag_clear h, hu]
  rfl

/-- An instruction whose meaning is such an effect completes. -/
theorem completes_of_wrote {s : State} {x : Frag} {g : Guard} {w : Writes} {b : Beam} {i : Instr}
    {body : Frag → State → Res} (h : Clear s x g) (hi : exec i s = s.runFrag g body) (hb : body x s = s.beamDone b)
    (hw : Wrote x w b) : Completes s x i w :=
  ⟨_, by rw [hi, State.runFrag_clear h, hb], State.finish_beamDone h hw⟩

end Sys2Proof.Machine
end

