-- ==== Sys2Proof/Laws/Registers.lean ====
section
/-! SUPPORT. Reading the registers of a beam after one of them has been written. -/

namespace Sys2Proof.Machine

/-! ### The shape of a beam -/

structure Beam.Shape (b : Beam) : Prop where
  width : widthOk b.w = true
  nv : b.nv ≤ 256
  ns : b.ns ≤ 64
  laneg : b.laneg.length = b.w
  v : b.v.length = b.nv
  vw : ∀ r ∈ b.v, r.length = b.w
  s : b.s.length = b.ns
  c : b.c.length = b.nc
  cw : ∀ r ∈ b.c, r.length = b.w
  k : b.k.length = b.nk
  split : b.split.length = 8
  trap : ∀ t, b.trap = some t → t.bs.length = 8 ∧ t.bv.length = 16 ∧ (∀ r ∈ t.bv, r.length = b.w) ∧
    ∀ l, t.loaded = some l → l.1.length = 8

theorem widthOk_iff (w : Nat) : widthOk w = true ↔ w = 8 ∨ w = 16 ∨ w = 32 ∨ w = 64 := by
  simp [widthOk, or_assoc]

theorem Beam.Shape.w {b : Beam} (h : b.Shape) : b.w ≤ 64 := by
  have := (widthOk_iff _).mp h.width
  omega

theorem Beam.shaped_iff (b : Beam) : b.shaped = true ↔ b.Shape := by
  unfold Beam.shaped
  constructor
  · intro h
    simp only [Bool.and_eq_true, decide_eq_true_eq, beq_iff_eq, List.all_eq_true] at h
    obtain ⟨⟨⟨⟨⟨⟨⟨⟨⟨⟨⟨h1, h2⟩, h3⟩, h3'⟩, h4⟩, h5⟩, h6⟩, h7⟩, h8⟩, h9⟩, h10⟩, h11⟩ := h
    refine ⟨h1, h2, h3, h3', h4, h5, h6, h7, h8, h9, h10, ?_⟩
    intro t ht
    rw [ht] at h11
    simp only [Bool.and_eq_true, beq_iff_eq, List.all_eq_true] at h11
    refine ⟨h11.1.1.1, h11.1.1.2, h11.1.2, ?_⟩
    intro l hl
    have := h11.2
    rw [hl] at this
    simpa using this
  · intro h
    simp only [Bool.and_eq_true, decide_eq_true_eq, beq_iff_eq, List.all_eq_true]
    refine ⟨⟨⟨⟨⟨⟨⟨⟨⟨⟨⟨h.width, h.nv⟩, h.ns⟩, h.laneg⟩, h.v⟩, h.vw⟩, h.s⟩, h.c⟩, h.cw⟩, h.k⟩, h.split⟩, ?_⟩
    cases ht : b.trap with
    | none => rfl
    | some t =>
      obtain ⟨h1, h2, h3, h4⟩ := h.trap t ht
      simp only [Bool.and_eq_true, beq_iff_eq, List.all_eq_true]
      refine ⟨⟨⟨h1, h2⟩, h3⟩, ?_⟩
      cases hl : t.loaded with
      | none => rfl
      | some l => simpa using h4 l hl

/-- The vector register stands in the file or among the banked ones. -/
def Beam.HasV (b : Beam) (r : Nat) : Prop := (r < b.nv ∨ b.trap.isSome ∧ 240 ≤ r) ∧ r < 256
def Beam.HasS (b : Beam) (r : Nat) : Prop := (r < b.ns ∨ b.trap.isSome ∧ 56 ≤ r) ∧ r < 64

theorem Beam.hasV_of {b : Beam} (h : b.Shape) {u : Use} (hu : b.has u = true) (hs : u.set = .v) : b.HasV u.r := by
  obtain ⟨set, r, src, dst, trap, named⟩ := u
  simp only at hs; subst hs
  have := h.nv
  simp [Beam.has, Beam.declared] at hu
  unfold Beam.HasV
  show (r < b.nv ∨ _) ∧ r < _
  rcases hu with h1 | ⟨h1, h2, h3⟩
  · replace h1 := of_decide_eq_true h1
    exact ⟨.inl h1, by omega⟩
  · exact ⟨.inr ⟨h1, h2⟩, h3⟩

theorem Beam.hasS_of {b : Beam} (h : b.Shape) {u : Use} (hu : b.has u = true) (hs : u.set = .s) : b.HasS u.r := by
  obtain ⟨set, r, src, dst, trap, named⟩ := u
  simp only at hs; subst hs
  have := h.ns
  simp [Beam.has, Beam.declared] at hu
  unfold Beam.HasS
  show (r < b.ns ∨ _) ∧ r < _
  rcases hu with h1 | ⟨h1, h2, h3⟩
  · replace h1 := of_decide_eq_true h1
    exact ⟨.inl h1, by omega⟩
  · exact ⟨.inr ⟨h1, h2⟩, h3⟩

theorem Frag.has_of_check {x : Frag} {g : Guard} (h : x.check g = none) {u : Use} (hu : u ∈ g.uses) : x.b.has u = true := by
  unfold Frag.check at h
  split at h
  · cases h
  · split at h
    · cases h
    · split at h
      · cases h
      · next hf =>
        have := List.find?_eq_none.mp hf u hu
        simpa using this

/-! ### Lists -/

theorem getD_set_eq {α : Type} (l : List α) (i j : Nat) (a d : α) :
    (l.set i a).getD j d = if j = i ∧ i < l.length then a else l.getD j d := by
  simp only [List.getD_eq_getElem?_getD, List.getElem?_set]
  by_cases h : i = j
  · subst h
    by_cases hl : i < l.length
    · simp [hl]
    · simp [hl, List.getElem?_eq_none (Nat.le_of_not_lt hl)]
  · have : ¬ (j = i ∧ i < l.length) := fun h' => h h'.1.symm
    simp [h, this]

theorem getD_mem {α : Type} (l : List α) (i : Nat) (d : α) (h : i < l.length) : l.getD i d ∈ l := by
  rw [List.getD_eq_getElem?_getD, List.getElem?_eq_getElem h]
  exact List.getElem_mem h

theorem getD_range_map {α : Type} (n i : Nat) (f : Nat → α) (d : α) :
    ((List.range n).map f).getD i d = if i < n then f i else d := by
  by_cases h : i < n
  · simp [List.getD_eq_getElem?_getD, h]
  · simp [List.getD_eq_getElem?_getD, h, List.getElem?_eq_none]

/-! ### Vector registers -/

theorem Beam.vreg_setVreg {b : Beam} (h : b.Shape) {r : Nat} (hr : b.HasV r) (x : List Word) (q : Nat) :
    (b.setVreg r x).vreg q = if q = r then x else b.vreg q := by
  obtain ⟨hr, h256⟩ := hr
  unfold Beam.setVreg
  cases ht : b.trap with
  | none =>
    have hl : r < b.v.length := by simp [ht] at hr; rw [h.v]; exact hr
    simp only [Beam.vreg, ht, getD_set_eq, hl, and_true]
  | some t =>
    obtain ⟨_, hbv, _⟩ := h.trap t ht
    by_cases h240 : 240 ≤ r
    · have hl : r - 240 < t.bv.length := by rw [hbv]; omega
      simp only [Beam.vreg, ht, h240, if_true, getD_set_eq, hl, and_true]
      by_cases hq : q = r
      · subst hq; simp [h240]
      · by_cases hq2 : 240 ≤ q
        · have : ¬ (q - 240 = r - 240) := by omega
          simp [hq, hq2, this]
        · simp [hq, hq2]
    · have hl : r < b.v.length := by simp [h240] at hr; rw [h.v]; exact hr
      simp only [h240, if_false, Beam.vreg, ht, getD_set_eq, hl, and_true]
      by_cases hq : q = r
      · subst hq; simp [h240]
      · simp [hq]

theorem Beam.vreg_length {b : Beam} (h : b.Shape) {r : Nat} (hr : b.HasV r) : (b.vreg r).length = b.w := by
  obtain ⟨hr, h256⟩ := hr
  unfold Beam.vreg
  cases ht : b.trap with
  | none =>
    have hl : r < b.v.length := by simp [ht] at hr; rw [h.v]; exact hr
    exact h.vw _ (getD_mem _ _ _ hl)
  | some t =>
    obtain ⟨_, hbv, hw, _⟩ := h.trap t ht
    by_cases h240 : 240 ≤ r
    · have hl : r - 240 < t.bv.length := by rw [hbv]; omega
      simp only [h240, if_true]
      exact hw _ (getD_mem _ _ _ hl)
    · have hl : r < b.v.length := by simp [h240] at hr; rw [h.v]; exact hr
      simp only [h240, if_false]
      exact h.vw _ (getD_mem _ _ _ hl)

/-- A vector write changes the active lanes of its register and nothing else (R84). -/
theorem Beam.vl_putV {b : Beam} (h : b.Shape) {r : Nat} (hr : b.HasV r) (m : Mask) (f : Nat → Word) (q i : Nat) :
    (b.putV r m f).vl q i = if q = r then (if i < b.w ∧ m.getLsbD i then f i else b.vl r i) else b.vl q i := by
  unfold Beam.putV Beam.vl
  rw [Beam.vreg_setVreg h hr]
  by_cases hq : q = r
  · subst hq
    simp only [if_true, getD_range_map]
    by_cases hi : i < b.w
    · by_cases hm : m.getLsbD i <;> simp [hi, hm, Beam.vl]
    · have : (b.vreg q).length ≤ i := by rw [Beam.vreg_length h hr]; omega
      simp [hi, List.getD_eq_getElem?_getD, List.getElem?_eq_none this]
  · simp [hq]

/-- What a vector write leaves as it was. -/
structure SameButV (b b' : Beam) : Prop where
  s : ∀ r, b'.sreg r = b.sreg r
  c : b'.c = b.c
  k : b'.k = b.k
  stamps : b'.stamps = b.stamps
  status : b'.status = b.status
  split : b'.split = b.split
  key : b'.key = b.key
  trapRegs : b'.epc = b.epc ∧ b'.tcause = b.tcause ∧ b'.tlanes = b.tlanes ∧ b'.tdetx = b.tdetx ∧
    b'.tdety = b.tdety ∧ b'.tdetz = b.tdetz
  rest : b'.ctl = b.ctl ∧ b'.pl = b.pl ∧ b'.exited = b.exited ∧ b'.laneg = b.laneg ∧ b'.tiles = b.tiles ∧
    b'.dstack = b.dstack ∧ b'.w = b.w ∧ b'.cohort = b.cohort
  trapped : b'.trap.isSome = b.trap.isSome

theorem SameButV.refl (b : Beam) : SameButV b b :=
  ⟨fun _ => rfl, rfl, rfl, rfl, rfl, rfl, rfl, ⟨rfl, rfl, rfl, rfl, rfl, rfl⟩, ⟨rfl, rfl, rfl, rfl, rfl, rfl, rfl, rfl⟩, rfl⟩

theorem Beam.setVreg_same (b : Beam) (r : Nat) (x : List Word) : SameButV b (b.setVreg r x) := by
  unfold Beam.setVreg
  cases ht : b.trap with
  | none => exact ⟨fun q => by simp [Beam.sreg, ht], rfl, rfl, rfl, rfl, rfl, rfl, by simp, by simp, by simp [ht]⟩
  | some t =>
    by_cases h240 : 240 ≤ r
    · simp only [h240, if_true]
      exact ⟨fun q => by simp [Beam.sreg, ht], rfl, rfl, rfl, rfl, rfl, rfl, by simp, by simp, by simp [ht]⟩
    · simp only [h240, if_false]
      exact ⟨fun q => by simp [Beam.sreg, ht], rfl, rfl, rfl, rfl, rfl, rfl, by simp, by simp, by simp [ht]⟩

theorem Beam.setVreg_shape {b : Beam} (h : b.Shape) {r : Nat} (x : List Word) (hx : x.length = b.w) :
    (b.setVreg r x).Shape := by
  unfold Beam.setVreg
  have hset : ∀ (l : List (List Word)) (n i : Nat), (∀ y ∈ l, y.length = n) → x.length = n →
      ∀ y ∈ l.set i x, y.length = n := by
    intro l n i hl hx y hy
    rcases List.mem_or_eq_of_mem_set hy with h1 | h1
    · exact hl y h1
    · rw [h1]; exact hx
  cases ht : b.trap with
  | none =>
    exact ⟨h.width, h.nv, h.ns, h.laneg, by simpa using h.v, hset _ _ _ h.vw hx, h.s, h.c, h.cw, h.k, h.split, by
      intro t h'; simp only [ht] at h'; cases h'⟩
  | some t =>
    obtain ⟨h1, h2, h3, h4⟩ := h.trap t ht
    by_cases h240 : 240 ≤ r
    · simp only [h240, if_true]
      exact ⟨h.width, h.nv, h.ns, h.laneg, h.v, h.vw, h.s, h.c, h.cw, h.k, h.split, by
        intro t' h'
        simp only [Option.some.injEq] at h'
        subst h'
        exact ⟨h1, by simpa using h2, hset _ _ _ h3 hx, h4⟩⟩
    · simp only [h240, if_false]
      exact ⟨h.width, h.nv, h.ns, h.laneg, by simpa using h.v, hset _ _ _ h.vw hx, h.s, h.c, h.cw, h.k, h.split, by
        intro t' h'; exact h.trap t' (by simpa [ht] using h')⟩

theorem Beam.putV_shape {b : Beam} (h : b.Shape) (r : Nat) (m : Mask) (f : Nat → Word) : (b.putV r m f).Shape :=
  Beam.setVreg_shape h _ (by simp)

theorem Beam.putV_same (b : Beam) (r : Nat) (m : Mask) (f : Nat → Word) : SameButV b (b.putV r m f) :=
  Beam.setVreg_same _ _ _

theorem SameButV.trans {a b c : Beam} (h : SameButV a b) (h' : SameButV b c) : SameButV a c := by
  obtain ⟨h1, h2, h3, h4, h5, h6, h7, h8, h9, h10⟩ := h
  obtain ⟨g1, g2, g3, g4, g5, g6, g7, g8, g9, g10⟩ := h'
  refine ⟨fun r => (g1 r).trans (h1 r), g2.trans h2, g3.trans h3, g4.trans h4, g5.trans h5, g6.trans h6, g7.trans h7, ?_, ?_,
    g10.trans h10⟩
  · simp_all
  · simp_all

end Sys2Proof.Machine
end

