-- ==== Sys2Proof/Laws/Results.lean ====
section
/-! SUPPORT. What the result operations of Ops, Operands and Flags write: one lemma for each register set (R53, R84,
R86, R42). -/

namespace Sys2Proof.Machine

/-! ### Scalar registers (R86) -/

theorem Beam.claimS_reads {b c : Beam} {lead r : Nat} (h : b.claimS lead r = some c) :
    (∀ q, c.sreg q = b.sreg q) ∧ (∀ q i, c.vl q i = b.vl q i) ∧ c.c = b.c ∧ c.k = b.k ∧ c.status = b.status ∧
      c.split = b.split ∧ c.key = b.key ∧ c.trap.isSome = b.trap.isSome ∧
      (c.epc = b.epc ∧ c.tcause = b.tcause ∧ c.tlanes = b.tlanes ∧ c.tdetx = b.tdetx ∧ c.tdety = b.tdety ∧
        c.tdetz = b.tdetz) ∧
      (c.ctl = b.ctl ∧ c.pl = b.pl ∧ c.exited = b.exited ∧ c.laneg = b.laneg ∧ c.tiles = b.tiles ∧
        c.dstack = b.dstack ∧ c.w = b.w ∧ c.cohort = b.cohort) ∧ (b.Shape → c.Shape) := by
  unfold Beam.claimS at h
  have keep : ∀ x : Stamps, ({ b with stamps := x } : Beam) = c →
      (∀ q, c.sreg q = b.sreg q) ∧ (∀ q i, c.vl q i = b.vl q i) ∧ c.c = b.c ∧ c.k = b.k ∧ c.status = b.status ∧
      c.split = b.split ∧ c.key = b.key ∧ c.trap.isSome = b.trap.isSome ∧
      (c.epc = b.epc ∧ c.tcause = b.tcause ∧ c.tlanes = b.tlanes ∧ c.tdetx = b.tdetx ∧ c.tdety = b.tdety ∧
        c.tdetz = b.tdetz) ∧
      (c.ctl = b.ctl ∧ c.pl = b.pl ∧ c.exited = b.exited ∧ c.laneg = b.laneg ∧ c.tiles = b.tiles ∧
        c.dstack = b.dstack ∧ c.w = b.w ∧ c.cohort = b.cohort) ∧ (b.Shape → c.Shape) := by
    intro x hx
    subst hx
    refine ⟨fun _ => rfl, fun _ _ => rfl, rfl, rfl, rfl, rfl, rfl, rfl, ⟨rfl, rfl, rfl, rfl, rfl, rfl⟩,
      ⟨rfl, rfl, rfl, rfl, rfl, rfl, rfl, rfl⟩, fun hs => ?_⟩
    exact ⟨hs.width, hs.nv, hs.ns, hs.laneg, hs.v, hs.vw, hs.s, hs.c, hs.cw, hs.k, hs.split, hs.trap⟩
  split at h
  · next t ht =>
    split at h
    · split at h
      · cases h; exact keep b.stamps rfl
      · split at h
        · cases h
          refine ⟨fun q => by simp [Beam.sreg, ht], fun q i => by simp [Beam.vl, Beam.vreg, ht], rfl, rfl, rfl, rfl, rfl,
            by simp [ht], ⟨rfl, rfl, rfl, rfl, rfl, rfl⟩, ⟨rfl, rfl, rfl, rfl, rfl, rfl, rfl, rfl⟩, fun hs => ?_⟩
          exact ⟨hs.width, hs.nv, hs.ns, hs.laneg, hs.v, hs.vw, hs.s, hs.c, hs.cw, hs.k, hs.split, by
            intro t' h'
            simp only [Option.some.injEq] at h'
            subst h'
            exact hs.trap t ht⟩
        · cases h
    · split at h
      · exact keep _ (Option.some.inj h)
      · cases h
  · split at h
    · cases h; exact keep b.stamps rfl
    · split at h
      · exact keep _ (Option.some.inj h)
      · cases h

theorem Beam.sreg_storeS {b : Beam} (h : b.Shape) {r : Nat} (hr : b.HasS r) (x : DWord) (q : Nat) :
    (b.storeS r x).sreg q = if q = r then x else b.sreg q := by
  obtain ⟨hr, h64⟩ := hr
  unfold Beam.storeS
  cases ht : b.trap with
  | none =>
    have hl : r < b.s.length := by simp [ht] at hr; rw [h.s]; exact hr
    simp only [Beam.sreg, ht, getD_set_eq, hl, and_true]
  | some t =>
    obtain ⟨hbs, _, _⟩ := h.trap t ht
    by_cases h56 : 56 ≤ r
    · have hl : r - 56 < t.bs.length := by rw [hbs]; omega
      simp only [Beam.sreg, ht, h56, if_true, getD_set_eq, hl, and_true]
      by_cases hq : q = r
      · subst hq; simp [h56]
      · by_cases hq2 : 56 ≤ q
        · have : ¬ (q - 56 = r - 56) := by omega
          simp [hq, hq2, this]
        · simp [hq, hq2]
    · have hl : r < b.s.length := by simp [h56] at hr; rw [h.s]; exact hr
      simp only [h56, if_false, Beam.sreg, ht, getD_set_eq, hl, and_true]
      by_cases hq : q = r
      · subst hq; simp [h56]
      · simp [hq]

/-- What a scalar store leaves as it was. -/
theorem Beam.storeS_rest (b : Beam) (r : Nat) (x : DWord) :
    (∀ q i, (b.storeS r x).vl q i = b.vl q i) ∧ (b.storeS r x).c = b.c ∧ (b.storeS r x).k = b.k ∧
      (b.storeS r x).status = b.status ∧ (b.storeS r x).split = b.split ∧ (b.storeS r x).key = b.key ∧
      ((b.storeS r x).epc = b.epc ∧ (b.storeS r x).tcause = b.tcause ∧ (b.storeS r x).tlanes = b.tlanes ∧
        (b.storeS r x).tdetx = b.tdetx ∧ (b.storeS r x).tdety = b.tdety ∧ (b.storeS r x).tdetz = b.tdetz) ∧
      ((b.storeS r x).ctl = b.ctl ∧ (b.storeS r x).pl = b.pl ∧ (b.storeS r x).exited = b.exited ∧
        (b.storeS r x).laneg = b.laneg ∧ (b.storeS r x).tiles = b.tiles ∧ (b.storeS r x).dstack = b.dstack ∧
        (b.storeS r x).w = b.w ∧ (b.storeS r x).cohort = b.cohort) := by
  unfold Beam.storeS
  cases ht : b.trap with
  | none => exact ⟨fun q i => by simp [Beam.vl, Beam.vreg, ht], rfl, rfl, rfl, rfl, rfl, by simp, by simp⟩
  | some t =>
    refine ⟨fun q i => ?_, ?_⟩
    · by_cases h56 : 56 ≤ r <;> simp [Beam.vl, Beam.vreg, ht, h56]
    · by_cases h56 : 56 ≤ r <;> simp [h56]

/-! ### Effects on the issuing beam -/

theorem ite_self' {α : Type} (p : Prop) [Decidable p] (a : α) : (if p then a else a) = a := by split <;> rfl

theorem Wrote.raise {x : Frag} {w : Writes} {b : Beam} (h : Wrote x w b) (f : Flags) :
    Wrote x { w with flags := w.flags ||| f } (b.raise f) :=
  ⟨h.v, h.s, h.c, h.k, by simp [Beam.raise, h.status, BitVec.or_assoc], h.split, h.key, h.trapRegs, h.rest⟩

theorem Wrote.none_ (x : Frag) : Wrote x {} x.b :=
  ⟨fun _ _ => rfl, fun _ => rfl, fun _ _ => rfl, fun _ => rfl, by simp, rfl, rfl, ⟨rfl, rfl, rfl, rfl, rfl, rfl⟩,
    ⟨rfl, rfl, rfl, rfl, rfl, rfl, rfl, rfl⟩⟩

/-- A scalar result (R86). -/
theorem Wrote.putS (x : Frag) (hs : x.b.Shape) (d : Reg) (hd : x.b.HasS d.toNat) (u : Nat) :
    Wrote x { s := [(d.toNat, BitVec.ofNat 64 u)] } (x.putS d u) := by
  unfold Frag.putS Beam.putS
  cases hc : x.b.claimS x.lead d.toNat with
  | none =>
    refine ⟨fun _ _ => rfl, fun r => ?_, fun _ _ => rfl, fun _ => rfl, by simp, rfl, rfl,
      ⟨rfl, rfl, rfl, rfl, rfl, rfl⟩, ⟨rfl, rfl, rfl, rfl, rfl, rfl, rfl, rfl⟩⟩
    by_cases hr : r = d.toNat
    · simp [hr, hc, List.lookup]
    · simp [List.lookup, beq_false_of_ne hr]
  | some c =>
    obtain ⟨c1, c2, c3, c4, c5, c6, c7, c8, c9, c10, c11⟩ := Beam.claimS_reads hc
    have hs' := c11 hs
    have hnsv : c.ns = x.b.ns := by
      have h1 := hs'.s; have h2 := hs.s
      unfold Beam.claimS at hc
      cases ht : x.b.trap <;> simp only [ht] at hc <;> (repeat' split at hc) <;> first | (cases hc; rfl) | cases hc
    have hd' : c.HasS d.toNat := by
      unfold Beam.HasS at hd ⊢
      rw [c8, hnsv]
      exact hd
    obtain ⟨s1, s2, s3, s4, s5, s6, s7, s8⟩ := Beam.storeS_rest c d.toNat (BitVec.ofNat 64 u)
    refine ⟨fun q i => ?_, fun r => ?_, fun r i => ?_, fun r => ?_, ?_, ?_, ?_, ?_, ?_⟩
    · show (c.storeS _ _).vl q i = _
      rw [s1, c2]; rfl
    · show (c.storeS _ _).sreg r = _
      rw [Beam.sreg_storeS hs' hd']
      by_cases hr : r = d.toNat
      · simp [hr, hc, List.lookup]
      · simp [hr, List.lookup, beq_false_of_ne hr, c1]
    · show (c.storeS _ _).cl r i = _
      unfold Beam.cl; rw [s2, c3]; rfl
    · show (c.storeS _ _).kreg r = _
      unfold Beam.kreg; rw [s3, c4]; rfl
    · show (c.storeS _ _).status = _
      rw [s4, c5]; simp
    · exact s5.trans c6
    · exact s6.trans c7
    · simp_all
    · simp_all [Frag.w]

/-- A lane truth result (R53). -/
theorem Wrote.putC (x : Frag) (hs : x.b.Shape) (d : Reg) (hd : d.toNat < x.b.nc) (f : Nat → BitVec 2) :
    Wrote x { c := [(d.toNat, f)] } (x.b.putC d.toNat x.mask f) := by
  refine ⟨fun _ _ => rfl, fun _ => rfl, fun r i => ?_, fun _ => rfl, by simp [Beam.putC], rfl, rfl,
    ⟨rfl, rfl, rfl, rfl, rfl, rfl⟩, ⟨rfl, rfl, rfl, rfl, rfl, rfl, rfl, rfl⟩⟩
  have hl : d.toNat < x.b.c.length := by rw [hs.c]; exact hd
  unfold Beam.putC
  unfold Beam.cl
  simp only [getD_set_eq, hl, and_true]
  by_cases hr : r = d.toNat
  · subst hr
    simp only [if_true, getD_range_map, List.lookup, beq_self_eq_true, Frag.w]
    by_cases hi : i < x.b.w
    · by_cases hm : x.mask.getLsbD i <;> simp [hi, hm]
    · have hlen : (x.b.c.getD d.toNat []).length ≤ i := by
        rw [hs.cw _ (getD_mem _ _ _ hl)]; omega
      simp only [hi, if_false, false_and]
      rw [List.getD_eq_getElem?_getD, List.getElem?_eq_none hlen]
      rfl
  · simp [hr, List.lookup, beq_false_of_ne hr]

/-- A uniform truth result (R86). -/
theorem Wrote.putK (x : Frag) (hs : x.b.Shape) (d : Reg) (hd : d.toNat < x.b.nk) (u : BitVec 2) :
    Wrote x { k := [(d.toNat, u)] } (x.b.putK x.lead d.toNat u) := by
  have hl : d.toNat < x.b.k.length := by rw [hs.k]; exact hd
  have hk : ∀ r, (x.b.putK x.lead d.toNat u).kreg r =
      if r = d.toNat then (if x.b.admitsK x.lead d.toNat then u else x.b.kreg r) else x.b.kreg r := by
    intro r
    have hset : (x.b.k.set d.toNat u).getD r 0 = if r = d.toNat then u else x.b.k.getD r 0 := by
      simp only [getD_set_eq, hl, and_true]
    unfold Beam.putK
    by_cases hc : x.b.converged = true
    · have ha : x.b.admitsK x.lead d.toNat = true := by unfold Beam.admitsK; rw [hc]; rfl
      rw [if_pos hc, if_pos ha]
      exact hset
    · by_cases ha : x.b.admitsK x.lead d.toNat = true
      · rw [if_neg hc, if_pos ha, if_pos ha]
        exact hset
      · rw [if_neg hc, if_neg ha, if_neg ha]
        exact (ite_self' _ _).symm
  have hrest : ∃ st k', x.b.putK x.lead d.toNat u = { x.b with stamps := st, k := k' } := by
    unfold Beam.putK
    split
    · exact ⟨_, _, rfl⟩
    · split
      · exact ⟨_, _, rfl⟩
      · exact ⟨_, _, rfl⟩
  obtain ⟨st, k', he⟩ := hrest
  refine ⟨?_, ?_, ?_, fun r => ?_, ?_, ?_, ?_, ?_, ?_⟩
  · intro q i; rw [he]; rfl
  · intro q; rw [he]; rfl
  · intro q i; rw [he]; rfl
  · rw [hk]
    by_cases hr : r = d.toNat
    · subst hr; simp [List.lookup]
    · simp [hr, List.lookup, beq_false_of_ne hr]
  · rw [he]; simp
  · rw [he]
  · rw [he]
  · rw [he]; simp
  · rw [he]; simp [Frag.w]

/-- A vector result in one register or a pair (R84). -/
theorem Wrote.putV (x : Frag) (hs : x.b.Shape) (wide : Bool) (d : Reg) (hd : x.b.HasV d.toNat)
    (hd' : wide = true → x.b.HasV (d.toNat + 1)) (f : Nat → Nat) :
    Wrote x { v := wordsOf wide d f } (x.putV wide d.toNat f) := by
  have h1 := Beam.putV_same x.b d.toNat x.mask fun i => BitVec.ofNat 32 (f i)
  have hv1 := Beam.vl_putV hs hd x.mask fun i => BitVec.ofNat 32 (f i)
  have fin : ∀ b : Beam, SameButV x.b b → (∀ q i, b.vl q i = match (wordsOf wide d f).lookup q with
      | some g => if i < x.w ∧ x.mask.getLsbD i then g i else x.b.vl q i
      | none => x.b.vl q i) → Wrote x { v := wordsOf wide d f } b := by
    intro b hb hv
    refine ⟨hv, hb.s, ?_, ?_, ?_, hb.split, hb.key, hb.trapRegs, hb.rest⟩
    · intro r i; unfold Beam.cl; rw [hb.c]; rfl
    · intro r; unfold Beam.kreg; rw [hb.k]; rfl
    · rw [hb.status]; simp
  unfold Frag.putV
  cases wide with
  | false =>
    refine fin _ h1 fun q i => ?_
    simp only [Bool.false_eq_true, if_false, hv1, wordsOf]
    by_cases hq : q = d.toNat
    · subst hq; simp [List.lookup]; rfl
    · simp [hq, List.lookup, beq_false_of_ne hq]
  | true =>
    have hs1 := Beam.putV_shape hs d.toNat x.mask fun i => BitVec.ofNat 32 (f i)
    have hnv : ∀ (r : Nat) (y : List Word), (x.b.setVreg r y).nv = x.b.nv := by
      intro r y; unfold Beam.setVreg; cases x.b.trap <;> simp; split <;> rfl
    have hd2 : (x.b.putV d.toNat x.mask fun i => BitVec.ofNat 32 (f i)).HasV (d.toNat + 1) := by
      have := hd' rfl
      unfold Beam.HasV at this ⊢
      rw [h1.trapped]
      unfold Beam.putV
      rw [hnv]
      exact this
    refine fin _ (h1.trans (Beam.putV_same _ _ _ _)) fun q i => ?_
    simp only [if_true]
    rw [Beam.vl_putV hs1 hd2, hv1, hv1, h1.rest.2.2.2.2.2.2.1]
    have hne : d.toNat + 1 ≠ d.toNat := by omega
    by_cases hq : q = d.toNat
    · subst hq
      have : ¬ (d.toNat = d.toNat + 1) := by omega
      simp [List.lookup, wordsOf]; rfl
    · by_cases hq1 : q = d.toNat + 1
      · subst hq1
        have hb : (d.toNat + 1 == d.toNat) = false := by simp
        simp only [List.lookup, wordsOf, hb, if_true, beq_self_eq_true]
        simp; rfl
      · simp [hq, hq1, List.lookup, wordsOf, beq_false_of_ne hq, beq_false_of_ne hq1]

end Sys2Proof.Machine
end

