-- ==== Sys2Proof/Laws/Alu.lean ====
section
/-! SUPPORT. The frames of the arithmetic instructions complete and write their result. -/

namespace Sys2Proof.Machine

/-- Lane functions that agree on the active lanes write the same. -/
theorem Wrote.congr {x : Frag} {w w' : Writes} {b : Beam} (h : Wrote x w b)
    (hv : ∀ q i, (match w.v.lookup q with
      | some f => if i < x.w ∧ x.mask.getLsbD i then f i else x.b.vl q i
      | none => x.b.vl q i) = match w'.v.lookup q with
      | some f => if i < x.w ∧ x.mask.getLsbD i then f i else x.b.vl q i
      | none => x.b.vl q i)
    (hs : w'.s = w.s) (hc : w'.c = w.c) (hk : w'.k = w.k) (hf : w'.flags = w.flags) : Wrote x w' b :=
  ⟨fun q i => (h.v q i).trans (hv q i), by rw [hs]; exact h.s, by rw [hc]; exact h.c, by rw [hk]; exact h.k,
    by rw [hf]; exact h.status, h.split, h.key, h.trapRegs, h.rest⟩

theorem Frag.results_getD (x : Frag) (f : Nat → Coded) (i : Nat) (h : i < x.w) (hm : x.mask.getLsbD i = true) :
    (x.results f).getD i (0, 0) = f i := by
  unfold Frag.results
  rw [getD_range_map]
  simp [h, hm]

/-- A coded vector result writes the lanes' values and raises their flags. -/
theorem Wrote.putCoded (x : Frag) (hs : x.b.Shape) (wide : Bool) (d : Reg) (hd : x.b.HasV d.toNat)
    (hd' : wide = true → x.b.HasV (d.toNat + 1)) (fl : Flags) (f : Nat → Coded) :
    Wrote x (x.laneWrites wide d fl f) (x.putCoded wide d fl f) := by
  unfold Frag.putCoded Frag.laneWrites
  refine Wrote.congr ((Wrote.putV x hs wide d hd hd' fun i => ((x.results f).getD i (0, 0)).1).raise _) ?_ rfl rfl rfl ?_
  · intro q i
    have key : ∀ (p : Prop) [Decidable p], (p → i < x.w ∧ x.mask.getLsbD i = true) → ∀ (g g' : Word) (o : Word),
        (p → g = g') → (if p then g else o) = if p then g' else o := by
      intro p _ _ g g' o hg
      split
      · next hp => exact hg hp
      · rfl
    cases wide with
    | false =>
      simp only [wordsOf, Bool.false_eq_true, if_false, List.lookup]
      cases hq : q == d.toNat with
      | false => rfl
      | true => exact key _ id _ _ _ fun hp => by simp only [Frag.results_getD x f i hp.1 hp.2]
    | true =>
      simp only [wordsOf, if_true, List.lookup]
      cases hq : q == d.toNat with
      | true => exact key _ id _ _ _ fun hp => by simp only [Frag.results_getD x f i hp.1 hp.2]
      | false =>
        cases hq1 : q == d.toNat + 1 with
        | true => exact key _ id _ _ _ fun hp => by simp only [Frag.results_getD x f i hp.1 hp.2]
        | false => rfl
  · simp

theorem regUses_dst_mem (set : RSet) (r : Reg) (wide : Bool) (src : Nat) (dst trap : Bool) :
    ({ set := set, r := r.toNat, src := src, dst := dst, trap := trap } : Use) ∈ regUses set r wide src dst trap := by
  unfold regUses; simp

theorem regUses_dst_mem' (set : RSet) (r : Reg) (src : Nat) (dst trap : Bool) :
    ({ set := set, r := r.toNat + 1, src := 5, dst := dst, trap := trap } : Use) ∈ regUses set r true src dst trap := by
  unfold regUses; simp

/-- The destination of a vector instruction exists. -/
theorem hasV_dst {x : Frag} {g : Guard} {d : Reg} {wide : Bool} {us : List Use} (hs : x.b.Shape) (h : x.check g = none)
    (hu : g.uses = regUses .v d wide 0 true false ++ us) :
    x.b.HasV d.toNat ∧ (wide = true → x.b.HasV (d.toNat + 1)) := by
  constructor
  · exact Beam.hasV_of hs (Frag.has_of_check h (u := ⟨.v, d.toNat, 0, true, false, false⟩)
      (by rw [hu]; exact List.mem_append_left _ (regUses_dst_mem ..))) rfl
  · intro hw
    subst hw
    exact Beam.hasV_of hs (Frag.has_of_check h (u := ⟨.v, d.toNat + 1, 5, true, false, false⟩)
      (by rw [hu]; exact List.mem_append_left _ (regUses_dst_mem' ..))) rfl

theorem State.vec1_runs (dw : Bool) (t : Ty) (d : Reg) (a : VArgI) (f : Nat → Coded) (i : Instr)
    (hi : ∀ s, exec i s = s.vec1 dw t d a f) :
    Runs i (regUses .v d dw 0 true false ++ VArgI.uses t.wide 1 a)
      fun _ x => x.laneWrites dw d (x.srcI t a).2 fun l => f ((x.srcI t a).1 l) := by
  intro s x h hs
  have hs := (Beam.shaped_iff _).mp hs
  obtain ⟨h1, h2⟩ := hasV_dst hs h.check rfl
  exact completes_of_wrote h (hi s) rfl (Wrote.putCoded x hs dw d h1 h2 _ _)

theorem State.vec2_runs (dw : Bool) (ta tb : Ty) (d : Reg) (a : VArg) (b : VArgI) (f : Nat → Nat → Coded) (i : Instr)
    (hi : ∀ s, exec i s = s.vec2 dw ta tb d a b f) :
    Runs i (regUses .v d dw 0 true false ++ VArg.uses ta.wide 1 a ++ VArgI.uses tb.wide 2 b)
      fun _ x => x.laneWrites dw d ((x.src ta a).2 ||| (x.srcI tb b).2) fun l => f ((x.src ta a).1 l) ((x.srcI tb b).1 l) := by
  intro s x h hs
  have hs := (Beam.shaped_iff _).mp hs
  obtain ⟨h1, h2⟩ := hasV_dst hs h.check (List.append_assoc _ _ _)
  exact completes_of_wrote h (hi s) rfl (Wrote.putCoded x hs dw d h1 h2 _ _)

theorem State.vec3_runs (dw : Bool) (ta tb tc : Ty) (d : Reg) (a : VArg) (b : VArgI) (c : VArg)
    (f : Nat → Nat → Nat → Coded) (i : Instr) (hi : ∀ s, exec i s = s.vec3 dw ta tb tc d a b c f) :
    Runs i (regUses .v d dw 0 true false ++ VArg.uses ta.wide 1 a ++ VArgI.uses tb.wide 2 b ++ VArg.uses tc.wide 3 c)
      fun _ x => x.laneWrites dw d ((x.src ta a).2 ||| (x.srcI tb b).2 ||| (x.src tc c).2)
        fun l => f ((x.src ta a).1 l) ((x.srcI tb b).1 l) ((x.src tc c).1 l) := by
  intro s x h hs
  have hs := (Beam.shaped_iff _).mp hs
  obtain ⟨h1, h2⟩ := hasV_dst hs h.check (d := d) (wide := dw)
    (us := VArg.uses ta.wide 1 a ++ (VArgI.uses tb.wide 2 b ++ VArg.uses tc.wide 3 c)) (by simp [plain])
  exact completes_of_wrote h (hi s) rfl (Wrote.putCoded x hs dw d h1 h2 _ _)

theorem State.scalar_runs (d : Reg) (us : List Use) (f : Frag → Coded) (i : Instr) (hi : ∀ s, exec i s = s.scalar d us f) :
    Runs i (dstS d ++ us) fun _ x => scalarWrites d (f x) := by
  intro s x h hs
  have hs := (Beam.shaped_iff _).mp hs
  have hd : x.b.HasS d.toNat := Beam.hasS_of hs (Frag.has_of_check h.check (u := ⟨.s, d.toNat, 0, true, false, false⟩)
    (List.mem_append_left _ (regUses_dst_mem ..))) rfl
  refine completes_of_wrote h (hi s) rfl (Wrote.congr ((Wrote.putS x hs d hd (f x).1).raise (f x).2) ?_ rfl rfl rfl ?_)
  · intro q j; rfl
  · simp [scalarWrites]

/-- An instruction whose effect changes its beam alone runs. -/
theorem runs_of_wrote {i : Instr} {us : List Use} {w : State → Frag → Writes} {b : State → Frag → Beam}
    {body : Frag → State → Res} (hi : ∀ s, exec i s = s.runFrag (plain us) body)
    (hb : ∀ s x, body x s = s.beamDone (b s x))
    (hw : ∀ s x, x.b.Shape → (∀ u ∈ us, x.b.has u = true) → Wrote x (w s x) (b s x)) : Runs i us w := by
  intro s x h hs
  exact completes_of_wrote h (hi s) (hb s x) (hw s x ((Beam.shaped_iff _).mp hs) fun u hu => Frag.has_of_check h.check hu)

/-- A vector write with flags. -/
theorem Wrote.putV_raise (x : Frag) (hs : x.b.Shape) (wide : Bool) (d : Reg) {us : List Use}
    (hu : ∀ u ∈ regUses .v d wide 0 true false ++ us, x.b.has u = true) (f : Nat → Nat) (fl : Flags) :
    Wrote x { v := wordsOf wide d f, flags := fl } ((x.putV wide d.toNat f).raise fl) := by
  have h1 : x.b.HasV d.toNat := Beam.hasV_of hs (hu ⟨.v, d.toNat, 0, true, false, false⟩
    (List.mem_append_left _ (regUses_dst_mem ..))) rfl
  have h2 : wide = true → x.b.HasV (d.toNat + 1) := by
    intro hw
    subst hw
    exact Beam.hasV_of hs (hu ⟨.v, d.toNat + 1, 5, true, false, false⟩
      (List.mem_append_left _ (regUses_dst_mem' ..))) rfl
  have := (Wrote.putV x hs wide d h1 h2 f).raise fl
  simpa using this

/-- A coded vector write. -/
theorem Wrote.putCoded_uses (x : Frag) (hs : x.b.Shape) (wide : Bool) (d : Reg) {us : List Use}
    (hu : ∀ u ∈ regUses .v d wide 0 true false ++ us, x.b.has u = true) (fl : Flags) (f : Nat → Coded) :
    Wrote x (x.laneWrites wide d fl f) (x.putCoded wide d fl f) :=
  Wrote.putCoded x hs wide d
    (Beam.hasV_of hs (hu ⟨.v, d.toNat, 0, true, false, false⟩ (List.mem_append_left _ (regUses_dst_mem ..))) rfl)
    (fun hw => by
      subst hw
      exact Beam.hasV_of hs (hu ⟨.v, d.toNat + 1, 5, true, false, false⟩
        (List.mem_append_left _ (regUses_dst_mem' ..))) rfl) fl f

theorem List.lookup_append_single {β : Type} (l : List (Nat × β)) (r q : Nat) (g : β) (h : ∀ p ∈ l, p.1 ≠ r) :
    (l ++ [(r, g)]).lookup q = if q = r then some g else l.lookup q := by
  induction l with
  | nil =>
    by_cases hq : q = r
    · subst hq; simp [List.lookup]
    · simp [List.lookup, hq, beq_false_of_ne hq]
  | cons p l ih =>
    obtain ⟨a, b⟩ := p
    have ha : a ≠ r := h (a, b) (by simp)
    have ih := ih fun p hp => h p (by simp [hp])
    simp only [List.cons_append, List.lookup]
    by_cases hq : q = a
    · subst hq; simp [ha]
    · rw [beq_false_of_ne hq]; exact ih

/-- One more vector register written after the others. -/
theorem Wrote.andV {x : Frag} {w : Writes} {b : Beam} (h : Wrote x w b) (hs : b.Shape) {r : Nat} (hr : b.HasV r)
    (hn : ∀ p ∈ w.v, p.1 ≠ r) (g : Nat → Word) :
    Wrote x { w with v := w.v ++ [(r, g)] } (b.putV r x.mask g) := by
  have h1 := Beam.putV_same b r x.mask g
  have hl : w.v.lookup r = none := by
    rw [List.lookup_eq_none_iff]
    intro p hp
    simpa using (hn p hp).symm
  refine ⟨fun q i => ?_, fun q => (h1.s q).trans (h.s q), fun q i => ?_, fun q => ?_, h1.status.trans h.status,
    h1.split.trans h.split, h1.key.trans h.key, ?_, ?_⟩
  · rw [Beam.vl_putV hs hr, List.lookup_append_single _ _ _ _ hn, h.rest.2.2.2.2.2.2.1]
    by_cases hq : q = r
    · subst hq
      simp only [if_true, h.v, hl]
    · simp only [hq, if_false, h.v]
  · unfold Beam.cl; rw [h1.c]; exact h.c q i
  · unfold Beam.kreg; rw [h1.k]; exact h.k q
  · have a := h1.trapRegs; have c := h.trapRegs; simp_all
  · have a := h1.rest; have c := h.rest; simp_all

theorem Frag.putCoded_shape (x : Frag) (hs : x.b.Shape) (wide : Bool) (d : Reg) (fl : Flags) (f : Nat → Coded) :
    (x.putCoded wide d fl f).Shape := by
  have raise : ∀ (b : Beam) (fl : Flags), b.Shape → (b.raise fl).Shape := fun b fl h =>
    ⟨h.width, h.nv, h.ns, h.laneg, h.v, h.vw, h.s, h.c, h.cw, h.k, h.split, h.trap⟩
  unfold Frag.putCoded Frag.putV
  apply raise
  cases wide
  · exact Beam.putV_shape hs ..
  · exact Beam.putV_shape (Beam.putV_shape hs ..) ..

theorem Beam.setVreg_nv (b : Beam) (r : Nat) (y : List Word) : (b.setVreg r y).nv = b.nv := by
  unfold Beam.setVreg
  cases b.trap
  · rfl
  · simp only; split <;> rfl

theorem Frag.putCoded_hasV (x : Frag) (wide : Bool) (d : Reg) (fl : Flags) (f : Nat → Coded) (r : Nat) (h : x.b.HasV r) :
    (x.putCoded wide d fl f).HasV r := by
  have hnv : ∀ (b : Beam) (r : Nat) (m : Mask) (g : Nat → Word), (b.putV r m g).nv = b.nv ∧
      (b.putV r m g).trap.isSome = b.trap.isSome := fun b r m g =>
    ⟨Beam.setVreg_nv b r _, (Beam.putV_same b r m g).trapped⟩
  unfold Beam.HasV at h ⊢
  have : (x.putCoded wide d fl f).nv = x.b.nv ∧ (x.putCoded wide d fl f).trap.isSome = x.b.trap.isSome := by
    unfold Frag.putCoded Frag.putV Beam.raise
    cases wide
    · exact hnv _ _ _ _
    · exact ⟨(hnv _ _ _ _).1.trans (hnv _ _ _ _).1, (hnv _ _ _ _).2.trans (hnv _ _ _ _).2⟩
  rw [this.1, this.2]
  exact h

/-- A lane truth result with flags. -/
theorem Wrote.putTri (x : Frag) (hs : x.b.Shape) (d : Reg) {us : List Use} (hu : ∀ u ∈ dstC d ++ us, x.b.has u = true)
    (fl : Flags) (f : Nat → Tri) : Wrote x (truthWrites d fl f) (x.putTri d fl f) := by
  have h := hu ⟨.c, d.toNat, 0, true, false, false⟩ (List.mem_append_left _ (regUses_dst_mem ..))
  have hd : d.toNat < x.b.nc := by
    simp [Beam.has, Beam.declared] at h
    exact of_decide_eq_true h
  have := (Wrote.putC x hs d hd fun i => (f i).code).raise fl
  simpa [truthWrites, Frag.putTri] using this

/-- A uniform truth result. -/
theorem Wrote.putK_uses (x : Frag) (hs : x.b.Shape) (d : Reg) {us : List Use} (hu : ∀ u ∈ dstK d ++ us, x.b.has u = true)
    (u : Tri) : Wrote x (uniformWrites d u) (x.b.putK x.lead d.toNat u.code) := by
  have h := hu ⟨.k, d.toNat, 0, true, false, false⟩ (List.mem_append_left _ (regUses_dst_mem ..))
  have hd : d.toNat < x.b.nk := by
    simp [Beam.has, Beam.declared] at h
    exact of_decide_eq_true h
  exact Wrote.putK x hs d hd u.code

end Sys2Proof.Machine
end

