-- ==== Sys2Proof/Laws/Fields.lean ====
section
/-! SUPPORT. Decoding what the encoder writes, field by field: the codes of the enumerated fields, the fields of each layout,
and the operands that they make up. -/

set_option linter.unusedSimpArgs false

namespace Sys2Proof

/-! ### Codes -/

theorem Op.ofCode_code (o : Op) : Op.ofCode o.code = some o := by cases o <;> rfl
@[simp] theorem Ty.ofCode_code (t : Ty) : Ty.ofCode t.code = some t := by cases t <;> rfl
@[simp] theorem STy.ofCode_code (t : STy) : STy.ofCode t.code = some t := by cases t <;> rfl
@[simp] theorem Fmt.ofCode_code (t : Fmt) : Fmt.ofCode t.code = some t := by cases t <;> rfl
@[simp] theorem Rnd.ofCode_code (t : Rnd) : Rnd.ofCode t.code = some t := by cases t <;> rfl
@[simp] theorem Cmp.ofCode_code (t : Cmp) : Cmp.ofCode t.code = some t := by cases t <;> rfl
@[simp] theorem Disp.ofCode_code (t : Disp) : Disp.ofCode t.code = some t := by cases t <;> rfl
@[simp] theorem Scope.ofCode_code (t : Scope) : Scope.ofCode t.code = some t := by cases t <;> rfl
@[simp] theorem LogOp.ofCode_code (t : LogOp) : LogOp.ofCode t.code = some t := by cases t <;> rfl
@[simp] theorem RedOp.ofCode_code (t : RedOp) : RedOp.ofCode t.code = some t := by cases t <;> rfl
@[simp] theorem ShMode.ofCode_code (t : ShMode) : ShMode.ofCode t.code = some t := by cases t <;> rfl
@[simp] theorem VoteKind.ofCode_code (t : VoteKind) : VoteKind.ofCode t.code = some t := by cases t <;> rfl
@[simp] theorem AtomOp.ofCode_code (t : AtomOp) : AtomOp.ofCode t.code = some t := by cases t <;> rfl
@[simp] theorem AOrd.ofCode_code (t : AOrd) : AOrd.ofCode t.code = some t := by cases t <;> rfl
@[simp] theorem FOrd.ofCode_code (t : FOrd) : FOrd.ofCode t.code = some t := by cases t <;> rfl
@[simp] theorem GMode.ofCode_code (t : GMode) : GMode.ofCode t.code = some t := by cases t <;> rfl
@[simp] theorem CollKind.ofCode_code (t : CollKind) : CollKind.ofCode t.code = some t := by cases t <;> rfl
@[simp] theorem Prism.ofCode_code (p : Prism) : Prism.ofCode p.code p.q = p := by
  cases p <;> simp [Prism.ofCode, Prism.code, Prism.q]
@[simp] theorem Rnd.ofCode_zero : Rnd.ofCode 0#3 = some .rn := rfl
@[simp] theorem Prism.ofCode_zero : Prism.ofCode 0 0 = .id := rfl

/-- Words that pass the checks decode to what their opcode builds. -/
theorem decode_of {i : Instr} {r : Raw} (o : Op) (hw : i.wf = true) (hr : encodeRaw i = some r) (ho : r.op = o.code)
    (hb : i.immFits = true → i.optFits = true → o.build r = some i) : decodeRaw r = .ok i := by
  unfold Instr.wf at hw
  rw [hr] at hw
  simp only [Bool.and_eq_true] at hw
  have hf : encodingFault r = none := by simpa using hw.2
  unfold decodeRaw
  rw [hf, ho, Op.ofCode_code]
  simp only [Option.bind_some, hb hw.1.1 hw.1.2]

/-! ### Bits -/

theorem getLsbD_b1 (b : Bool) (n : Nat) : (b1 b).getLsbD n = (decide (n = 0) && b) := by
  cases b <;> simp [b1]

/-- The parts of M. -/
theorem Raw.ty_of (r : Raw) : r.ty = r.m.extractLsb' 0 4 := by
  ext i hi
  simp only [Raw.ty, Raw.m, BitVec.getElem_extractLsb', BitVec.getLsbD_extractLsb']
  rw [decide_eq_true (by omega), Bool.true_and]
  congr 1
  omega
theorem Raw.m54_of (r : Raw) : r.m54 = r.m.extractLsb' 4 2 := by
  ext i hi
  simp only [Raw.m54, Raw.m, BitVec.getElem_extractLsb', BitVec.getLsbD_extractLsb']
  rw [decide_eq_true (by omega), Bool.true_and]
  congr 1
  omega
theorem Raw.m10_of (r : Raw) : r.m10 = r.m.extractLsb' 0 2 := by
  ext i hi
  simp only [Raw.m10, Raw.m, BitVec.getElem_extractLsb', BitVec.getLsbD_extractLsb']
  rw [decide_eq_true (by omega), Bool.true_and]
  congr 1
  omega
theorem Raw.m42_of (r : Raw) : r.m42 = r.m.extractLsb' 2 3 := by
  ext i hi
  simp only [Raw.m42, Raw.m, BitVec.getElem_extractLsb', BitVec.getLsbD_extractLsb']
  rw [decide_eq_true (by omega), Bool.true_and]
  congr 1
  omega
theorem Raw.m32_of (r : Raw) : r.m32 = r.m.extractLsb' 2 2 := by
  ext i hi
  simp only [Raw.m32, Raw.m, BitVec.getElem_extractLsb', BitVec.getLsbD_extractLsb']
  rw [decide_eq_true (by omega), Bool.true_and]
  congr 1
  omega
theorem Raw.fmt_of (r : Raw) : r.fmt = r.m.extractLsb' 0 5 := by
  ext i hi
  simp only [Raw.fmt, Raw.m, BitVec.getElem_extractLsb', BitVec.getLsbD_extractLsb']
  rw [decide_eq_true (by omega), Bool.true_and]
  congr 1
  omega
theorem Raw.m5_of (r : Raw) : r.m5 = r.m.getLsbD 5 := by simp [Raw.m5, Raw.m]
theorem Raw.m4_of (r : Raw) : r.m4 = r.m.getLsbD 4 := by simp [Raw.m4, Raw.m]
theorem Raw.m0_of (r : Raw) : r.m0 = r.m.getLsbD 0 := by simp [Raw.m0, Raw.m]

/-! ### M and the control byte -/

section
variable (hi : BitVec 2) (t : Ty) (x : BitVec 3) (u : STy) (h4 : BitVec 4) (b : Bool) (sc : Scope)

theorem mTy_ty : (mTy hi t).extractLsb' 0 4 = t.code := by
  simp (disch := decide) only [mTy, BitVec.extractLsb'_append_eq_of_add_le]
  simp
theorem mTy_m54 : (mTy hi t).extractLsb' 4 2 = hi := by
  simp (disch := decide) only [mTy, BitVec.extractLsb'_append_eq_of_le]
  simp
theorem mTy_4 : (mTy hi t).getLsbD 4 = hi.getLsbD 0 := by
  simp only [mTy, BitVec.getLsbD_append]
  simp
theorem mTy_5 : (mTy hi t).getLsbD 5 = hi.getLsbD 1 := by
  simp only [mTy, BitVec.getLsbD_append]
  simp
theorem mS_m10 : (mS x u).extractLsb' 0 2 = u.code := by
  simp (disch := decide) only [mS, BitVec.extractLsb'_append_eq_of_add_le]
  simp
theorem mS_m42 : (mS x u).extractLsb' 2 3 = x := by
  simp (disch := decide) only [mS, BitVec.extractLsb'_append_eq_of_add_le, BitVec.extractLsb'_append_eq_of_le]
  simp
theorem ctl_scope : (ctl h4 b sc).extractLsb' 0 3 = sc.code := by
  simp (disch := decide) only [ctl, BitVec.extractLsb'_append_eq_of_add_le]
  simp
theorem ctl_hi : (ctl h4 b sc).extractLsb' 4 4 = h4 := by
  simp (disch := decide) only [ctl, BitVec.extractLsb'_append_eq_of_le]
  simp
theorem ctl_3 : (ctl h4 b sc).getLsbD 3 = b := by
  simp only [ctl, BitVec.getLsbD_append, getLsbD_b1]
  simp
theorem ctl_7 : (ctl h4 b sc).getLsbD 7 = h4.getLsbD 3 := by
  simp only [ctl, BitVec.getLsbD_append, getLsbD_b1]
  simp
theorem ctl_cmp : (ctl h4 b sc).extractLsb' 4 3 = h4.extractLsb' 0 3 := by
  ext i hi
  simp only [ctl, BitVec.getElem_extractLsb', BitVec.getLsbD_extractLsb', BitVec.getLsbD_append]
  rw [if_neg (by omega), if_neg (by omega)]
  congr 1
  omega

end

/-! ### The layout of R104 to R106 -/

section
variable (o : Op) (mn : Nat) (m : BitVec 6) (d : Reg) (a b c : Fld) (rnd : BitVec 3) (imm : Option Word)

theorem asm_op : (asm o mn m d a b c rnd imm).op = o.code := by
  simp (disch := decide) only [asm, Raw.op, BitVec.extractLsb'_append_eq_of_add_le, BitVec.extractLsb'_append_eq_of_le]
  simp
theorem asm_m : (asm o mn m d a b c rnd imm).m = m := by
  simp (disch := decide) only [asm, Raw.m, BitVec.extractLsb'_append_eq_of_add_le, BitVec.extractLsb'_append_eq_of_le]
  simp
theorem asm_d : (asm o mn m d a b c rnd imm).d = d := by
  simp (disch := decide) only [asm, Raw.d, BitVec.extractLsb'_append_eq_of_add_le, BitVec.extractLsb'_append_eq_of_le]
  simp
theorem asm_a : (asm o mn m d a b c rnd imm).a = a.r := by
  simp (disch := decide) only [asm, Raw.a, BitVec.extractLsb'_append_eq_of_add_le, BitVec.extractLsb'_append_eq_of_le]
  simp
theorem asm_b : (asm o mn m d a b c rnd imm).b = b.r := by
  simp (disch := decide) only [asm, Raw.b, BitVec.extractLsb'_append_eq_of_add_le, BitVec.extractLsb'_append_eq_of_le]
  simp
theorem asm_c : (asm o mn m d a b c rnd imm).c = c.r := by
  simp (disch := decide) only [asm, Raw.c, BitVec.extractLsb'_append_eq_of_add_le, BitVec.extractLsb'_append_eq_of_le]
  simp
theorem asm_pb : (asm o mn m d a b c rnd imm).pb = b.p := by
  simp (disch := decide) only [asm, Raw.pb, BitVec.extractLsb'_append_eq_of_add_le, BitVec.extractLsb'_append_eq_of_le]
  simp
theorem asm_qb : (asm o mn m d a b c rnd imm).qb = b.q := by
  simp (disch := decide) only [asm, Raw.qb, BitVec.extractLsb'_append_eq_of_add_le, BitVec.extractLsb'_append_eq_of_le]
  simp
theorem asm_ea : (asm o mn m d a b c rnd imm).ea = a.e := by
  simp only [asm, Raw.ea, BitVec.getLsbD_append, getLsbD_b1]
  simp
theorem asm_eb : (asm o mn m d a b c rnd imm).eb = b.e := by
  simp only [asm, Raw.eb, BitVec.getLsbD_append, getLsbD_b1]
  simp
theorem asm_ec : (asm o mn m d a b c rnd imm).ec = c.e := by
  simp only [asm, Raw.ec, BitVec.getLsbD_append, getLsbD_b1]
  simp
theorem asm_rnd : (asm o mn m d a b c rnd imm).rnd = rnd := by
  simp (disch := decide) only [asm, Raw.rnd, BitVec.extractLsb'_append_eq_of_add_le, BitVec.extractLsb'_append_eq_of_le]
  simp
theorem asm_i : (asm o mn m d a b c rnd imm).i = imm.isSome := by
  simp only [asm, Raw.i, BitVec.getLsbD_append, getLsbD_b1]
  simp
theorem asm_w2 (w : Word) : (asm o mn m d a b c rnd (some w)).w2 = w := rfl
theorem asm_v2 (w : Word) : (asm o mn m d a b c rnd (some w)).v2 = 0 := by
  unfold Raw.v2; rw [asm_i]; rfl
theorem asm_v2_none : (asm o mn m d a b c rnd none).v2 =
    ((0 : BitVec 8) ++ c.k ++ b.k ++ a.k ++ c.q ++ c.p ++ a.q ++ a.p : BitVec 32) := by
  unfold Raw.v2; rw [asm_i]; rfl
theorem asm_pa : (asm o mn m d a b c rnd none).pa = a.p := by
  simp (disch := decide) only [Raw.pa, asm_v2_none, BitVec.extractLsb'_append_eq_of_add_le, BitVec.extractLsb'_append_eq_of_le]
  simp
theorem asm_qa : (asm o mn m d a b c rnd none).qa = a.q := by
  simp (disch := decide) only [Raw.qa, asm_v2_none, BitVec.extractLsb'_append_eq_of_add_le, BitVec.extractLsb'_append_eq_of_le]
  simp
theorem asm_pc : (asm o mn m d a b c rnd none).pc = c.p := by
  simp (disch := decide) only [Raw.pc, asm_v2_none, BitVec.extractLsb'_append_eq_of_add_le, BitVec.extractLsb'_append_eq_of_le]
  simp
theorem asm_qc : (asm o mn m d a b c rnd none).qc = c.q := by
  simp (disch := decide) only [Raw.qc, asm_v2_none, BitVec.extractLsb'_append_eq_of_add_le, BitVec.extractLsb'_append_eq_of_le]
  simp
theorem asm_ka : (asm o mn m d a b c rnd none).ka = a.k := by
  simp (disch := decide) only [Raw.ka, asm_v2_none, BitVec.extractLsb'_append_eq_of_add_le, BitVec.extractLsb'_append_eq_of_le]
  simp
theorem asm_kb : (asm o mn m d a b c rnd none).kb = b.k := by
  simp (disch := decide) only [Raw.kb, asm_v2_none, BitVec.extractLsb'_append_eq_of_add_le, BitVec.extractLsb'_append_eq_of_le]
  simp
theorem asm_kc : (asm o mn m d a b c rnd none).kc = c.k := by
  simp (disch := decide) only [Raw.kc, asm_v2_none, BitVec.extractLsb'_append_eq_of_add_le, BitVec.extractLsb'_append_eq_of_le]
  simp

end

/-! ### The other layouts -/

section
variable (o : Op) (m : BitVec 6) (d a : Reg)

theorem asm1_op : (asm1 o m d a).op = o.code := by
  simp (disch := decide) only [asm1, Raw.op, BitVec.extractLsb'_append_eq_of_add_le, BitVec.extractLsb'_append_eq_of_le]
  simp
theorem asm1_m : (asm1 o m d a).m = m := by
  simp (disch := decide) only [asm1, Raw.m, BitVec.extractLsb'_append_eq_of_add_le, BitVec.extractLsb'_append_eq_of_le]
  simp
theorem asm1_d : (asm1 o m d a).d = d := by
  simp (disch := decide) only [asm1, Raw.d, BitVec.extractLsb'_append_eq_of_add_le, BitVec.extractLsb'_append_eq_of_le]
  simp
theorem asm1_a : (asm1 o m d a).a = a := by
  simp (disch := decide) only [asm1, Raw.a, BitVec.extractLsb'_append_eq_of_add_le, BitVec.extractLsb'_append_eq_of_le]
  simp

end

section
variable (o : Op) (m : BitVec 6) (d a b c : Reg) (ch : BitVec 3) (rs : Bool) (sc : Scope) (imm : Option Word)

theorem asmE_op : (asmE o m d a b c ch rs sc imm).op = o.code := by
  simp (disch := decide) only [asmE, Raw.op, BitVec.extractLsb'_append_eq_of_add_le, BitVec.extractLsb'_append_eq_of_le]
  simp
theorem asmE_m : (asmE o m d a b c ch rs sc imm).m = m := by
  simp (disch := decide) only [asmE, Raw.m, BitVec.extractLsb'_append_eq_of_add_le, BitVec.extractLsb'_append_eq_of_le]
  simp
theorem asmE_d : (asmE o m d a b c ch rs sc imm).d = d := by
  simp (disch := decide) only [asmE, Raw.d, BitVec.extractLsb'_append_eq_of_add_le, BitVec.extractLsb'_append_eq_of_le]
  simp
theorem asmE_a : (asmE o m d a b c ch rs sc imm).a = a := by
  simp (disch := decide) only [asmE, Raw.a, BitVec.extractLsb'_append_eq_of_add_le, BitVec.extractLsb'_append_eq_of_le]
  simp
theorem asmE_b : (asmE o m d a b c ch rs sc imm).b = b := by
  simp (disch := decide) only [asmE, Raw.b, BitVec.extractLsb'_append_eq_of_add_le, BitVec.extractLsb'_append_eq_of_le]
  simp
theorem asmE_c : (asmE o m d a b c ch rs sc imm).c = c := by
  simp (disch := decide) only [asmE, Raw.c, BitVec.extractLsb'_append_eq_of_add_le, BitVec.extractLsb'_append_eq_of_le]
  simp
theorem asmE_ectlScope : (asmE o m d a b c ch rs sc imm).ectlScope = sc.code := by
  simp (disch := decide) only [asmE, Raw.ectlScope, BitVec.extractLsb'_append_eq_of_add_le, BitVec.extractLsb'_append_eq_of_le]
  simp
theorem asmE_ectlCh : (asmE o m d a b c ch rs sc imm).ectlCh = ch := by
  simp (disch := decide) only [asmE, Raw.ectlCh, BitVec.extractLsb'_append_eq_of_add_le, BitVec.extractLsb'_append_eq_of_le]
  simp

end

theorem asmE_w2 (o : Op) (m : BitVec 6) (d a b c : Reg) (ch : BitVec 3) (rs : Bool) (sc : Scope) (w : Word) :
    (asmE o m d a b c ch rs sc (some w)).w2 = w := rfl
theorem asmE_ectlResume (o : Op) (m : BitVec 6) (d a b c : Reg) (ch : BitVec 3) (rs : Bool) (sc : Scope) (imm : Option Word) :
    (asmE o m d a b c ch rs sc imm).ectlResume = rs := by
  simp only [asmE, Raw.ectlResume, BitVec.getLsbD_append, getLsbD_b1]
  simp

section
variable (o : Op) (off : BitVec 22)

theorem asmOff_op : (asmOff o off).op = o.code := by
  simp (disch := decide) only [asmOff, Raw.op, BitVec.extractLsb'_append_eq_of_add_le, BitVec.extractLsb'_append_eq_of_le]
  simp
theorem asmOff_off22 : (asmOff o off).off22 = off := by
  simp (disch := decide) only [asmOff, Raw.off22, BitVec.extractLsb'_append_eq_of_add_le, BitVec.extractLsb'_append_eq_of_le]
  simp

end

section
variable (o : Op) (m : BitVec 6) (hi : BitVec 16)

theorem asmHi_op : (asmHi o m hi).op = o.code := by
  simp (disch := decide) only [asmHi, Raw.op, BitVec.extractLsb'_append_eq_of_add_le, BitVec.extractLsb'_append_eq_of_le]
  simp
theorem asmHi_m : (asmHi o m hi).m = m := by
  simp (disch := decide) only [asmHi, Raw.m, BitVec.extractLsb'_append_eq_of_add_le, BitVec.extractLsb'_append_eq_of_le]
  simp
theorem asmHi_hi0 : (asmHi o m hi).hi0 = hi := by
  simp (disch := decide) only [asmHi, Raw.hi0, BitVec.extractLsb'_append_eq_of_add_le, BitVec.extractLsb'_append_eq_of_le]
  simp

end

section
variable (o : Op) (m : BitVec 6) (t f n : BitVec 16)

theorem asmBr_op : (asmBr o m t f n).op = o.code := by
  simp (disch := decide) only [asmBr, Raw.op, BitVec.extractLsb'_append_eq_of_add_le, BitVec.extractLsb'_append_eq_of_le]
  simp
theorem asmBr_m : (asmBr o m t f n).m = m := by
  simp (disch := decide) only [asmBr, Raw.m, BitVec.extractLsb'_append_eq_of_add_le, BitVec.extractLsb'_append_eq_of_le]
  simp
theorem asmBr_hi0 : (asmBr o m t f n).hi0 = t := by
  simp (disch := decide) only [asmBr, Raw.hi0, BitVec.extractLsb'_append_eq_of_add_le, BitVec.extractLsb'_append_eq_of_le]
  simp
theorem asmBr_lo1 : (asmBr o m t f n).lo1 = f := by
  simp (disch := decide) only [asmBr, Raw.lo1, BitVec.extractLsb'_append_eq_of_add_le, BitVec.extractLsb'_append_eq_of_le]
  simp
theorem asmBr_hi1 : (asmBr o m t f n).hi1 = n := by
  simp (disch := decide) only [asmBr, Raw.hi1, BitVec.extractLsb'_append_eq_of_add_le, BitVec.extractLsb'_append_eq_of_le]
  simp

end

/-! ### Operands -/

/-- The immediate leaves the operand its register alone. -/
def VArg.fits (a : VArg) (imm : Option Word) : Prop := imm = none ∨ a.plain = true

section
variable (o : Op) (mn : Nat) (m : BitVec 6) (d : Reg) (f g : Fld) (rnd : BitVec 3) (imm : Option Word)

theorem asm_va (a : VArg) (h : a.fits imm) : (asm o mn m d a.fld f g rnd imm).va = a := by
  unfold Raw.va
  rw [asm_a, asm_ea]
  cases imm with
  | none =>
    rw [asm_ka, asm_pa, asm_qa]
    cases a <;> simp [VArg.fld]
  | some w =>
    have hp : a.plain = true := by rcases h with h | h; cases h; exact h
    cases a with
    | s r e => simp [VArg.plain] at hp
    | v r p e =>
      cases p <;> simp [VArg.plain] at hp
      simp [VArg.fld, Raw.ka, Raw.pa, Raw.qa, asm_v2]
      rfl

theorem asm_vb (a : VArg) : (asm o mn m d f a.fld g rnd none).vb = a := by
  unfold Raw.vb
  rw [asm_b, asm_eb, asm_kb, asm_pb, asm_qb]
  cases a <;> simp [VArg.fld]

theorem asm_vc (a : VArg) (h : a.fits imm) : (asm o mn m d f g a.fld rnd imm).vc = a := by
  unfold Raw.vc
  rw [asm_c, asm_ec]
  cases imm with
  | none =>
    rw [asm_kc, asm_pc, asm_qc]
    cases a <;> simp [VArg.fld]
  | some w =>
    have hp : a.plain = true := by rcases h with h | h; cases h; exact h
    cases a with
    | s r e => simp [VArg.plain] at hp
    | v r p e =>
      cases p <;> simp [VArg.plain] at hp
      simp [VArg.fld, Raw.kc, Raw.pc, Raw.qc, asm_v2]
      rfl

theorem asm_vaI (a : VArgI) : (asm o mn m d a.fld f g rnd a.immediate).vaI = a := by
  unfold Raw.vaI
  rw [asm_i]
  cases a with
  | reg a => simp [VArgI.immediate, VArgI.fld, asm_va o mn m d f g rnd none a (.inl rfl)]
  | imm w => simp [VArgI.immediate, asm_w2]

theorem asm_vbI (b : VArgI) : (asm o mn m d f b.fld g rnd b.immediate).vbI = b := by
  unfold Raw.vbI
  rw [asm_i]
  cases b with
  | reg b => simp [VArgI.immediate, VArgI.fld, asm_vb]
  | imm w => simp [VArgI.immediate, asm_w2]

theorem asm_sa (a : SArg) : (asm o mn m d a.fld f g rnd imm).sa = a := by
  unfold Raw.sa; rw [asm_a, asm_ea]; rfl
theorem asm_sb (a : SArg) : (asm o mn m d f a.fld g rnd imm).sb = a := by
  unfold Raw.sb; rw [asm_b, asm_eb]; rfl
theorem asm_sc (a : SArg) : (asm o mn m d f g a.fld rnd imm).sc = a := by
  unfold Raw.sc; rw [asm_c, asm_ec]; rfl
theorem asm_saI (a : SArgI) : (asm o mn m d a.fld f g rnd a.immediate).saI = a := by
  unfold Raw.saI
  rw [asm_i]
  cases a with
  | reg a => simp [SArgI.immediate, SArgI.fld, asm_sa]
  | imm w => simp [SArgI.immediate, asm_w2]
theorem asm_sbI (a : SArgI) : (asm o mn m d f a.fld g rnd a.immediate).sbI = a := by
  unfold Raw.sbI
  rw [asm_i]
  cases a with
  | reg a => simp [SArgI.immediate, SArgI.fld, asm_sb]
  | imm w => simp [SArgI.immediate, asm_w2]
theorem asm_oa (a : VOp) : (asm o mn m d a.fld f g rnd none).oa = a := by
  unfold Raw.oa; rw [asm_a, asm_ea, asm_pa, asm_qa]; simp [VOp.fld]
theorem asm_ob (a : VOp) : (asm o mn m d f a.fld g rnd imm).ob = a := by
  unfold Raw.ob; rw [asm_b, asm_eb, asm_pb, asm_qb]; simp [VOp.fld]
theorem asm_oc (a : VOp) : (asm o mn m d f g a.fld rnd none).oc = a := by
  unfold Raw.oc; rw [asm_c, asm_ec, asm_pc, asm_qc]; simp [VOp.fld]

end

/-- A header's words hold its fields. -/
theorem header_encodeHeader (h : Header) : (encodeHeader h).header = h := by
  obtain ⟨len, rsv, x, g, k, y, rcv, pf, livea, livev⟩ := h
  simp (disch := decide) only [encodeHeader, Raw.header, Raw.hi0, BitVec.extractLsb'_append_eq_of_add_le,
    BitVec.extractLsb'_append_eq_of_le, BitVec.getLsbD_append, getLsbD_b1, Nat.sub_self]
  simp
theorem encodeHeader_op (h : Header) : (encodeHeader h).op = Op.hdr.code := by
  simp (disch := decide) only [encodeHeader, Raw.op, BitVec.extractLsb'_append_eq_of_add_le, BitVec.extractLsb'_append_eq_of_le]
  simp

/-- The memory operand of a memory instruction. -/
theorem encM_mem (o : Op) (t : BitVec 4) (d : Reg) (a : MemArg) (c : Reg) : (encM o t d a c).mem = a := by
  unfold encM Raw.mem
  rw [Raw.m54_of, asm_m]
  have hm : BitVec.extractLsb' 4 2 (a.mode ++ t : BitVec 6) = a.mode := by
    simp (disch := decide) only [BitVec.extractLsb'_append_eq_of_le]
    simp
  rw [hm]
  cases a with
  | uni x e =>
    simp only [MemArg.mode, MemArg.aFld, asm_sa, Raw.disp, asm_i]
    cases e <;> simp [MemArg.immediate, asm_w2]
  | vec x y e =>
    simp only [MemArg.mode, MemArg.aFld, asm_a, asm_ea, Raw.disp, asm_i]
    cases e <;> simp [MemArg.immediate, asm_w2]
  | idx x y e => simp [MemArg.mode, MemArg.aFld, MemArg.bFld, asm_sa, asm_b, asm_eb]
  | all => simp [MemArg.mode]

/-- The source of a store. -/
theorem encM_src (o : Op) (t : BitVec 4) (x : StSrc) (a : MemArg) (b : Bool) (sc : Scope) :
    (encM o t x.reg a (ctl x.hi b sc)).src = x := by
  unfold Raw.src Raw.cDs
  rw [encM, asm_c, asm_d]
  cases x <;> simp only [ctl_7, StSrc.hi, StSrc.reg] <;> rfl
theorem encM_ty (o : Op) (t : Ty) (d : Reg) (a : MemArg) (c : Reg) : (encM o t.code d a c).ty = t.code := by
  rw [Raw.ty_of, encM, asm_m]
  simp (disch := decide) only [BitVec.extractLsb'_append_eq_of_add_le]
  simp
theorem encM_c (o : Op) (t : BitVec 4) (d : Reg) (a : MemArg) (c : Reg) : (encM o t d a c).c = c := by rw [encM, asm_c]
theorem encM_d (o : Op) (t : BitVec 4) (d : Reg) (a : MemArg) (c : Reg) : (encM o t d a c).d = d := by rw [encM, asm_d]

end Sys2Proof
end

