-- ==== Sys2Proof/Laws/Memory.lean ====
section
/-! SUPPORT. Cells and device memory: reading after writing, what a write leaves alone, and the canonical form that
every operation keeps. -/

namespace Sys2Proof.Machine

/-! ### Cells -/

/-- Reading after listing a byte: the byte at its address, every other address as before. -/
theorem cellAt_cellPut (a b : Nat) (x : Byte) (m : List Host.Cell) :
    cellAt b (cellPut a x m) = if b = a then some x else cellAt b m := by
  induction m with
  | nil => simp [cellPut, cellAt]
  | cons c m ih =>
    obtain ⟨k, y⟩ := c
    simp only [cellPut]
    split
    · by_cases h : b = a <;> simp [cellAt, h]
    · split
      · subst_vars
        by_cases h : b = k <;> simp [cellAt, h]
      · simp only [cellAt, ih]
        by_cases h : b = k
        · have : b ≠ a := by omega
          simp [h]
          omega
        · simp [h]

theorem cellAt_cellDrop (a b : Nat) (m : List Host.Cell) :
    cellAt b (cellDrop a m) = if b = a then none else cellAt b m := by
  induction m with
  | nil => simp [cellDrop, cellAt]
  | cons c m ih =>
    obtain ⟨k, y⟩ := c
    simp only [cellDrop, List.filter_cons] at ih ⊢
    by_cases h : k = a
    · by_cases hb : b = a
      · simpa [h, hb] using ih
      · simp [h, hb, ih, cellAt]
    · by_cases hb : b = k
      · have : b ≠ a := by omega
        simp [h, hb, cellAt]
      · by_cases ha : b = a
        · simpa [h, ha, cellAt, Ne.symm h] using ih
        · simp [h, hb, ha, cellAt, ih]

theorem cellsSorted_cons {c : Host.Cell} {m : List Host.Cell} :
    cellsSorted (c :: m) = true ↔ (∀ d ∈ m, c.1 < d.1) ∧ cellsSorted m = true := by
  induction m generalizing c with
  | nil => simp [cellsSorted]
  | cons d m ih =>
    simp only [cellsSorted, Bool.and_eq_true, decide_eq_true_eq, ih, List.mem_cons, forall_eq_or_imp]
    constructor
    · rintro ⟨h, hm, hs⟩
      exact ⟨⟨h, fun e he => Nat.lt_trans h (hm e he)⟩, hm, hs⟩
    · rintro ⟨⟨h, -⟩, hm, hs⟩
      exact ⟨h, hm, hs⟩

theorem mem_cellPut {a : Nat} {x : Byte} {m : List Host.Cell} {d : Host.Cell} (h : d ∈ cellPut a x m) :
    d = (a, x) ∨ d ∈ m := by
  induction m with
  | nil => simpa [cellPut] using h
  | cons c m ih =>
    simp only [cellPut] at h
    split at h
    · simpa using h
    · split at h
      · rcases List.mem_cons.1 h with h | h
        · exact .inl h
        · exact .inr (List.mem_cons_of_mem _ h)
      · rcases List.mem_cons.1 h with h | h
        · exact .inr (h ▸ List.mem_cons_self)
        · exact (ih h).imp_right (List.mem_cons_of_mem _)

theorem cellPut_sorted (a : Nat) (x : Byte) {m : List Host.Cell} (h : cellsSorted m = true) :
    cellsSorted (cellPut a x m) = true := by
  induction m with
  | nil => rfl
  | cons c m ih =>
    obtain ⟨hc, hm⟩ := cellsSorted_cons.1 h
    simp only [cellPut]
    split
    · next hlt =>
      refine cellsSorted_cons.2 ⟨fun d hd => ?_, h⟩
      rcases List.mem_cons.1 hd with rfl | hd
      · exact hlt
      · exact Nat.lt_trans hlt (hc d hd)
    · split
      · next he => exact cellsSorted_cons.2 ⟨fun d hd => he ▸ hc d hd, hm⟩
      · refine cellsSorted_cons.2 ⟨fun d hd => ?_, ih hm⟩
        rcases mem_cellPut hd with rfl | hd
        · simp only
          omega
        · exact hc d hd

theorem filter_sorted (p : Host.Cell → Bool) {m : List Host.Cell} (h : cellsSorted m = true) :
    cellsSorted (m.filter p) = true := by
  induction m with
  | nil => rfl
  | cons c m ih =>
    obtain ⟨hc, hm⟩ := cellsSorted_cons.1 h
    rw [List.filter_cons]
    split
    · exact cellsSorted_cons.2 ⟨fun d hd => hc d (List.mem_filter.1 hd).1, ih hm⟩
    · exact ih hm

/-! ### Device memory -/

theorem Memory.wf_iff (m : Memory) :
    m.wf = true ↔ cellsSorted m = true ∧ ∀ c ∈ m, c.2 ≠ Config.unlistedByte := by
  simp [Memory.wf, List.all_eq_true]

/-- Reading after a write: the byte written at its address, every other address as before. -/
theorem Memory.read_write (m : Memory) (a b : Nat) (x : Byte) :
    (m.write a x).read b = if b = a then x else m.read b := by
  simp only [Memory.write, Memory.read]
  split
  · next h =>
    rw [cellAt_cellDrop]
    by_cases hb : b = a <;> simp [hb, h]
  · rw [cellAt_cellPut]
    by_cases hb : b = a <;> simp [hb]

theorem Memory.read_write_same (m : Memory) (a : Nat) (x : Byte) : (m.write a x).read a = x := by
  simp [Memory.read_write]

theorem Memory.read_write_other (m : Memory) {a b : Nat} (x : Byte) (h : b ≠ a) : (m.write a x).read b = m.read b := by
  simp [Memory.read_write, h]

/-- A write keeps the canonical form. -/
theorem Memory.write_wf {m : Memory} (h : m.wf = true) (a : Nat) (x : Byte) : (m.write a x).wf = true := by
  obtain ⟨hs, hn⟩ := (Memory.wf_iff m).1 h
  rw [Memory.wf_iff, Memory.write]
  split
  · exact ⟨filter_sorted _ hs, fun c hc => hn c (List.mem_filter.1 hc).1⟩
  · next hx =>
    refine ⟨cellPut_sorted a x hs, fun c hc => ?_⟩
    rcases mem_cellPut hc with rfl | hc
    · exact hx
    · exact hn c hc

theorem cellAt_none_of_lt {a : Nat} {m : List Host.Cell} (h : ∀ d ∈ m, a < d.1) : cellAt a m = none := by
  induction m with
  | nil => rfl
  | cons c m ih =>
    obtain ⟨k, y⟩ := c
    have hk : a < k := h (k, y) List.mem_cons_self
    have : a ≠ k := by omega
    simp [cellAt, this, ih fun d hd => h d (List.mem_cons_of_mem _ hd)]

/-- Memories in canonical form that read alike are the same list. -/
theorem Memory.ext_of_read {m n : Memory} (hm : m.wf = true) (hn : n.wf = true) (h : ∀ a, m.read a = n.read a) : m = n := by
  obtain ⟨hs, hv⟩ := (Memory.wf_iff m).1 hm
  obtain ⟨ht, hw⟩ := (Memory.wf_iff n).1 hn
  clear hm hn
  induction m generalizing n with
  | nil =>
    cases n with
    | nil => rfl
    | cons d n =>
      obtain ⟨k, y⟩ := d
      exact absurd (by simpa [Memory.read, cellAt] using (h k).symm) (hw (k, y) List.mem_cons_self)
  | cons c m ih =>
    obtain ⟨k, x⟩ := c
    obtain ⟨hc, hs'⟩ := cellsSorted_cons.1 hs
    have hx := hv (k, x) List.mem_cons_self
    cases n with
    | nil => exact absurd (by simpa [Memory.read, cellAt] using h k) hx
    | cons d n =>
      obtain ⟨l, y⟩ := d
      obtain ⟨hd, ht'⟩ := cellsSorted_cons.1 ht
      have hy := hw (l, y) List.mem_cons_self
      have hkl : k = l := by
        rcases Nat.lt_trichotomy k l with hl | hl | hl
        · have hno : cellAt k ((l, y) :: n) = none := cellAt_none_of_lt fun e he => by
            rcases List.mem_cons.1 he with rfl | he
            · exact hl
            · exact Nat.lt_trans hl (hd e he)
          exact absurd (by
            have := h k
            simp only [Memory.read, hno] at this
            simpa [cellAt] using this) hx
        · exact hl
        · have hno : cellAt l ((k, x) :: m) = none := cellAt_none_of_lt fun e he => by
            rcases List.mem_cons.1 he with rfl | he
            · exact hl
            · exact Nat.lt_trans hl (hc e he)
          exact absurd (by
            have := (h l).symm
            simp only [Memory.read, hno] at this
            simpa [cellAt] using this) hy
      subst hkl
      have hxy : x = y := by simpa [Memory.read, cellAt] using h k
      subst hxy
      have : m = n := ih (fun a => by
        by_cases ha : a = k
        · subst ha
          simp [Memory.read, cellAt_none_of_lt hc, cellAt_none_of_lt hd]
        · simpa [Memory.read, cellAt, ha] using h a) hs' (fun e he => hv e (List.mem_cons_of_mem _ he)) ht'
        fun e he => hw e (List.mem_cons_of_mem _ he)
      rw [this]

/-! ### Writes by an agent -/

/-- The near cache that makes room changes its own records only (R13). -/
theorem State.fitNear_only (s : State) (pa : Nat) : ∃ d o, s.fitNear pa = { s with dirty := d, older := o } := by
  unfold State.fitNear
  split
  · exact ⟨s.dirty, s.older, rfl⟩
  · split
    · exact ⟨s.dirty, s.older, rfl⟩
    · extract_lets ls others
      split
      · exact ⟨s.dirty, s.older, rfl⟩
      · exact ⟨_, _, rfl⟩

/-- What far memory keeps changes the near cache's records only (R226). -/
theorem State.keepFar_only (s : State) (pa : Nat) : ∃ d o, s.keepFar pa = { s with dirty := d, older := o } := by
  unfold State.keepFar
  split
  · exact ⟨s.dirty, s.older, rfl⟩
  · obtain ⟨d, o, h⟩ := State.fitNear_only
      { s with dirty := cellPut pa (s.mem.read pa) s.dirty, older := cellDrop pa s.older } pa
    exact ⟨d, o, h⟩

theorem State.keepFar_mem (s : State) (pa : Nat) : (s.keepFar pa).mem = s.mem := by
  obtain ⟨d, o, h⟩ := s.keepFar_only pa
  rw [h]

/-- Writing bytes changes only memory, the records of what far memory holds, what the cores' caches hold, and the words that a
later fetch may still give. -/
theorem State.writeBytes_only (s : State) (who : Option Nat) (cached : Bool) (pa : Nat) (bs : List Byte) :
    ∃ m d o cs st, s.writeBytes who cached pa bs = { s with mem := m, dirty := d, older := o, cores := cs, stored := st } := by
  induction bs generalizing s pa with
  | nil => exact ⟨s.mem, s.dirty, s.older, s.cores, s.stored, rfl⟩
  | cons x bs ih =>
    rw [State.writeBytes]
    obtain ⟨m, d, o, cs, st, h⟩ := ih ((if cached then s.keepFar pa else s).writeByte who pa x) (pa + 1)
    refine ⟨m, d, o, cs, st, h.trans ?_⟩
    cases cached
    · rfl
    · obtain ⟨d', o', h'⟩ := s.keepFar_only pa
      rw [if_pos rfl, h']
      rfl

theorem State.writeBytes_mem (s : State) (who : Option Nat) (cached : Bool) (pa : Nat) (x : Byte) (bs : List Byte) :
    (s.writeBytes who cached pa (x :: bs)).mem =
      (((if cached then s.keepFar pa else s).writeByte who pa x).writeBytes who cached (pa + 1) bs).mem := rfl

/-- Every byte outside those written reads as before. -/
theorem State.writeBytes_read_other (s : State) (who : Option Nat) (cached : Bool) (pa : Nat) (bs : List Byte) (a : Nat)
    (h : a < pa ∨ pa + bs.length ≤ a) : (s.writeBytes who cached pa bs).mem.read a = s.mem.read a := by
  induction bs generalizing s pa with
  | nil => rfl
  | cons x bs ih =>
    simp only [List.length_cons] at h
    rw [State.writeBytes_mem, ih _ _ (by omega)]
    have e : ((if cached then s.keepFar pa else s).writeByte who pa x).mem = s.mem.write pa x := by
      cases cached <;> simp [State.writeByte, State.keepFar_mem]
    rw [e, Memory.read_write_other _ _ (by omega)]

/-- A byte written reads as it was written. -/
theorem State.writeBytes_read (s : State) (who : Option Nat) (cached : Bool) (pa : Nat) (bs : List Byte) (k : Nat)
    (h : k < bs.length) : (s.writeBytes who cached pa bs).mem.read (pa + k) = bs[k] := by
  induction bs generalizing s pa k with
  | nil => simp at h
  | cons x bs ih =>
    rw [State.writeBytes_mem]
    cases k with
    | zero =>
      rw [State.writeBytes_read_other _ _ _ _ _ _ (by omega)]
      cases cached <;> simp [State.writeByte, State.keepFar_mem, Memory.read_write_same]
    | succ k =>
      have := ih ((if cached then s.keepFar pa else s).writeByte who pa x) (pa + 1) k (by simpa using h)
      simpa [Nat.add_assoc, Nat.add_comm 1 k] using this

/-- A write of bytes keeps the canonical form of memory. -/
theorem State.writeBytes_wf {s : State} (h : s.mem.wf = true) (who : Option Nat) (cached : Bool) (pa : Nat) (bs : List Byte) :
    (s.writeBytes who cached pa bs).mem.wf = true := by
  induction bs generalizing s pa with
  | nil => exact h
  | cons x bs ih =>
    rw [State.writeBytes_mem]
    refine ih ?_ _
    cases cached <;> simp [State.writeByte, State.keepFar_mem, Memory.write_wf h]

theorem State.writeNat_wf {s : State} (h : s.mem.wf = true) (pa n x : Nat) : (s.writeNat pa n x).mem.wf = true :=
  State.writeBytes_wf h none false pa (natLe n x)

theorem natLe_length (n x : Nat) : (natLe n x).length = n := by
  induction n generalizing x with
  | zero => rfl
  | succ n ih => simp [natLe, ih]

/-- The number that the bytes of a number hold. -/
theorem leNat_natLe (n x : Nat) : leNat (natLe n x) = x % 256 ^ n := by
  induction n generalizing x with
  | zero => simp [natLe, leNat, Nat.mod_one]
  | succ n ih =>
    have : leNat (natLe (n + 1) x) = x % 256 + 256 * leNat (natLe n (x / 256)) := by
      simp [natLe, leNat]
    rw [this, ih, Nat.pow_succ, Nat.mul_comm (256 ^ n) 256, Nat.mod_mul]

theorem State.readBytes_eq (s : State) (pa n : Nat) : s.readBytes pa n = (List.range n).map fun k => s.mem.read (pa + k) := by
  induction n generalizing pa with
  | zero => rfl
  | succ n ih =>
    rw [State.readBytes, ih, List.range_succ_eq_map]
    simp only [List.map_cons, List.map_map, Nat.add_zero, List.cons.injEq, true_and]
    exact List.map_congr_left fun k _ => by simp [Nat.add_assoc, Nat.add_comm 1 k]

/-- The bytes written are the bytes read. -/
theorem State.readBytes_writeBytes (s : State) (who : Option Nat) (cached : Bool) (pa : Nat) (bs : List Byte) :
    (s.writeBytes who cached pa bs).readBytes pa bs.length = bs := by
  rw [State.readBytes_eq]
  apply List.ext_getElem (by simp)
  intro k h1 h2
  simp only [List.getElem_map, List.getElem_range]
  exact State.writeBytes_read s who cached pa bs k h2

/-- A number written is the number read, within its bytes. -/
theorem State.readNat_writeNat (s : State) (pa n x : Nat) : (s.writeNat pa n x).readNat pa n = x % 256 ^ n := by
  have := State.readBytes_writeBytes s none false pa (natLe n x)
  rw [natLe_length] at this
  rw [State.readNat, State.writeNat, this, leNat_natLe]

/-- Reset memory lists nothing. -/
theorem State.reset_mem_wf : State.reset.mem.wf = true := rfl

end Sys2Proof.Machine
end

