-- ==== Sys2Proof/Laws/State.lean ====
section
/-! SUPPORT. What each update of the state leaves in each field: one lemma per field per update, so that no later proof
unfolds a record update. -/

namespace Sys2Proof.Machine

variable (s : State)

/-! ### State.setBeam -/

@[simp] theorem State.setBeam_clock (b : Beam) : (s.setBeam b).clock = s.clock := rfl
@[simp] theorem State.setBeam_free (b : Beam) : (s.setBeam b).free = s.free := rfl
@[simp] theorem State.setBeam_turns (b : Beam) : (s.setBeam b).turns = s.turns := rfl
@[simp] theorem State.setBeam_cur (b : Beam) : (s.setBeam b).cur = s.cur := rfl
@[simp] theorem State.setBeam_mem (b : Beam) : (s.setBeam b).mem = s.mem := rfl
@[simp] theorem State.setBeam_dirty (b : Beam) : (s.setBeam b).dirty = s.dirty := rfl
@[simp] theorem State.setBeam_flushing (b : Beam) : (s.setBeam b).flushing = s.flushing := rfl
@[simp] theorem State.setBeam_older (b : Beam) : (s.setBeam b).older = s.older := rfl
@[simp] theorem State.setBeam_posted (b : Beam) : (s.setBeam b).posted = s.posted := rfl
@[simp] theorem State.setBeam_beams (b : Beam) : (s.setBeam b).beams = replaceBy Beam.key b s.beams := rfl
@[simp] theorem State.setBeam_fills (b : Beam) : (s.setBeam b).fills = s.fills := rfl
@[simp] theorem State.setBeam_mmas (b : Beam) : (s.setBeam b).mmas = s.mmas := rfl
@[simp] theorem State.setBeam_cohorts (b : Beam) : (s.setBeam b).cohorts = s.cohorts := rfl
@[simp] theorem State.setBeam_kernels (b : Beam) : (s.setBeam b).kernels = s.kernels := rfl
@[simp] theorem State.setBeam_rooms (b : Beam) : (s.setBeam b).rooms = s.rooms := rfl
@[simp] theorem State.setBeam_contexts (b : Beam) : (s.setBeam b).contexts = s.contexts := rfl
@[simp] theorem State.setBeam_queues (b : Beam) : (s.setBeam b).queues = s.queues := rfl
@[simp] theorem State.setBeam_cmds (b : Beam) : (s.setBeam b).cmds = s.cmds := rfl
@[simp] theorem State.setBeam_parts (b : Beam) : (s.setBeam b).parts = s.parts := rfl
@[simp] theorem State.setBeam_vfs (b : Beam) : (s.setBeam b).vfs = s.vfs := rfl
@[simp] theorem State.setBeam_cores (b : Beam) : (s.setBeam b).cores = s.cores := rfl
@[simp] theorem State.setBeam_stored (b : Beam) : (s.setBeam b).stored = s.stored := rfl
@[simp] theorem State.setBeam_dieTlb (b : Beam) : (s.setBeam b).dieTlb = s.dieTlb := rfl
@[simp] theorem State.setBeam_walkc (b : Beam) : (s.setBeam b).walkc = s.walkc := rfl
@[simp] theorem State.setBeam_reqs (b : Beam) : (s.setBeam b).reqs = s.reqs := rfl
@[simp] theorem State.setBeam_nextId (b : Beam) : (s.setBeam b).nextId = s.nextId := rfl
@[simp] theorem State.setBeam_ports (b : Beam) : (s.setBeam b).ports = s.ports := rfl
@[simp] theorem State.setBeam_cxl (b : Beam) : (s.setBeam b).cxl = s.cxl := rfl
@[simp] theorem State.setBeam_hdm (b : Beam) : (s.setBeam b).hdm = s.hdm := rfl
@[simp] theorem State.setBeam_flows (b : Beam) : (s.setBeam b).flows = s.flows := rfl
@[simp] theorem State.setBeam_unsent (b : Beam) : (s.setBeam b).unsent = s.unsent := rfl
@[simp] theorem State.setBeam_fabric (b : Beam) : (s.setBeam b).fabric = s.fabric := rfl
@[simp] theorem State.setBeam_links (b : Beam) : (s.setBeam b).links = s.links := rfl
@[simp] theorem State.setBeam_collIn (b : Beam) : (s.setBeam b).collIn = s.collIn := rfl
@[simp] theorem State.setBeam_out (b : Beam) : (s.setBeam b).out = s.out := rfl
@[simp] theorem State.setBeam_log (b : Beam) : (s.setBeam b).log = s.log := rfl
@[simp] theorem State.setBeam_mgmt (b : Beam) : (s.setBeam b).mgmt = s.mgmt := rfl
@[simp] theorem State.setBeam_levels (b : Beam) : (s.setBeam b).levels = s.levels := rfl

/-! ### State.setCohort -/

@[simp] theorem State.setCohort_clock (c : Cohort) : (s.setCohort c).clock = s.clock := rfl
@[simp] theorem State.setCohort_free (c : Cohort) : (s.setCohort c).free = s.free := rfl
@[simp] theorem State.setCohort_turns (c : Cohort) : (s.setCohort c).turns = s.turns := rfl
@[simp] theorem State.setCohort_cur (c : Cohort) : (s.setCohort c).cur = s.cur := rfl
@[simp] theorem State.setCohort_mem (c : Cohort) : (s.setCohort c).mem = s.mem := rfl
@[simp] theorem State.setCohort_dirty (c : Cohort) : (s.setCohort c).dirty = s.dirty := rfl
@[simp] theorem State.setCohort_flushing (c : Cohort) : (s.setCohort c).flushing = s.flushing := rfl
@[simp] theorem State.setCohort_older (c : Cohort) : (s.setCohort c).older = s.older := rfl
@[simp] theorem State.setCohort_posted (c : Cohort) : (s.setCohort c).posted = s.posted := rfl
@[simp] theorem State.setCohort_beams (c : Cohort) : (s.setCohort c).beams = s.beams := rfl
@[simp] theorem State.setCohort_fills (c : Cohort) : (s.setCohort c).fills = s.fills := rfl
@[simp] theorem State.setCohort_mmas (c : Cohort) : (s.setCohort c).mmas = s.mmas := rfl
@[simp] theorem State.setCohort_cohorts (c : Cohort) : (s.setCohort c).cohorts = replaceBy Cohort.key c s.cohorts := rfl
@[simp] theorem State.setCohort_kernels (c : Cohort) : (s.setCohort c).kernels = s.kernels := rfl
@[simp] theorem State.setCohort_rooms (c : Cohort) : (s.setCohort c).rooms = s.rooms := rfl
@[simp] theorem State.setCohort_contexts (c : Cohort) : (s.setCohort c).contexts = s.contexts := rfl
@[simp] theorem State.setCohort_queues (c : Cohort) : (s.setCohort c).queues = s.queues := rfl
@[simp] theorem State.setCohort_cmds (c : Cohort) : (s.setCohort c).cmds = s.cmds := rfl
@[simp] theorem State.setCohort_parts (c : Cohort) : (s.setCohort c).parts = s.parts := rfl
@[simp] theorem State.setCohort_vfs (c : Cohort) : (s.setCohort c).vfs = s.vfs := rfl
@[simp] theorem State.setCohort_cores (c : Cohort) : (s.setCohort c).cores = s.cores := rfl
@[simp] theorem State.setCohort_stored (c : Cohort) : (s.setCohort c).stored = s.stored := rfl
@[simp] theorem State.setCohort_dieTlb (c : Cohort) : (s.setCohort c).dieTlb = s.dieTlb := rfl
@[simp] theorem State.setCohort_walkc (c : Cohort) : (s.setCohort c).walkc = s.walkc := rfl
@[simp] theorem State.setCohort_reqs (c : Cohort) : (s.setCohort c).reqs = s.reqs := rfl
@[simp] theorem State.setCohort_nextId (c : Cohort) : (s.setCohort c).nextId = s.nextId := rfl
@[simp] theorem State.setCohort_ports (c : Cohort) : (s.setCohort c).ports = s.ports := rfl
@[simp] theorem State.setCohort_cxl (c : Cohort) : (s.setCohort c).cxl = s.cxl := rfl
@[simp] theorem State.setCohort_hdm (c : Cohort) : (s.setCohort c).hdm = s.hdm := rfl
@[simp] theorem State.setCohort_flows (c : Cohort) : (s.setCohort c).flows = s.flows := rfl
@[simp] theorem State.setCohort_unsent (c : Cohort) : (s.setCohort c).unsent = s.unsent := rfl
@[simp] theorem State.setCohort_fabric (c : Cohort) : (s.setCohort c).fabric = s.fabric := rfl
@[simp] theorem State.setCohort_links (c : Cohort) : (s.setCohort c).links = s.links := rfl
@[simp] theorem State.setCohort_collIn (c : Cohort) : (s.setCohort c).collIn = s.collIn := rfl
@[simp] theorem State.setCohort_out (c : Cohort) : (s.setCohort c).out = s.out := rfl
@[simp] theorem State.setCohort_log (c : Cohort) : (s.setCohort c).log = s.log := rfl
@[simp] theorem State.setCohort_mgmt (c : Cohort) : (s.setCohort c).mgmt = s.mgmt := rfl
@[simp] theorem State.setCohort_levels (c : Cohort) : (s.setCohort c).levels = s.levels := rfl

/-! ### State.setKernel -/

@[simp] theorem State.setKernel_clock (k : Kernel) : (s.setKernel k).clock = s.clock := rfl
@[simp] theorem State.setKernel_free (k : Kernel) : (s.setKernel k).free = s.free := rfl
@[simp] theorem State.setKernel_turns (k : Kernel) : (s.setKernel k).turns = s.turns := rfl
@[simp] theorem State.setKernel_cur (k : Kernel) : (s.setKernel k).cur = s.cur := rfl
@[simp] theorem State.setKernel_mem (k : Kernel) : (s.setKernel k).mem = s.mem := rfl
@[simp] theorem State.setKernel_dirty (k : Kernel) : (s.setKernel k).dirty = s.dirty := rfl
@[simp] theorem State.setKernel_flushing (k : Kernel) : (s.setKernel k).flushing = s.flushing := rfl
@[simp] theorem State.setKernel_older (k : Kernel) : (s.setKernel k).older = s.older := rfl
@[simp] theorem State.setKernel_posted (k : Kernel) : (s.setKernel k).posted = s.posted := rfl
@[simp] theorem State.setKernel_beams (k : Kernel) : (s.setKernel k).beams = s.beams := rfl
@[simp] theorem State.setKernel_fills (k : Kernel) : (s.setKernel k).fills = s.fills := rfl
@[simp] theorem State.setKernel_mmas (k : Kernel) : (s.setKernel k).mmas = s.mmas := rfl
@[simp] theorem State.setKernel_cohorts (k : Kernel) : (s.setKernel k).cohorts = s.cohorts := rfl
@[simp] theorem State.setKernel_kernels (k : Kernel) : (s.setKernel k).kernels = replaceBy Kernel.id k s.kernels := rfl
@[simp] theorem State.setKernel_rooms (k : Kernel) : (s.setKernel k).rooms = s.rooms := rfl
@[simp] theorem State.setKernel_contexts (k : Kernel) : (s.setKernel k).contexts = s.contexts := rfl
@[simp] theorem State.setKernel_queues (k : Kernel) : (s.setKernel k).queues = s.queues := rfl
@[simp] theorem State.setKernel_cmds (k : Kernel) : (s.setKernel k).cmds = s.cmds := rfl
@[simp] theorem State.setKernel_parts (k : Kernel) : (s.setKernel k).parts = s.parts := rfl
@[simp] theorem State.setKernel_vfs (k : Kernel) : (s.setKernel k).vfs = s.vfs := rfl
@[simp] theorem State.setKernel_cores (k : Kernel) : (s.setKernel k).cores = s.cores := rfl
@[simp] theorem State.setKernel_stored (k : Kernel) : (s.setKernel k).stored = s.stored := rfl
@[simp] theorem State.setKernel_dieTlb (k : Kernel) : (s.setKernel k).dieTlb = s.dieTlb := rfl
@[simp] theorem State.setKernel_walkc (k : Kernel) : (s.setKernel k).walkc = s.walkc := rfl
@[simp] theorem State.setKernel_reqs (k : Kernel) : (s.setKernel k).reqs = s.reqs := rfl
@[simp] theorem State.setKernel_nextId (k : Kernel) : (s.setKernel k).nextId = s.nextId := rfl
@[simp] theorem State.setKernel_ports (k : Kernel) : (s.setKernel k).ports = s.ports := rfl
@[simp] theorem State.setKernel_cxl (k : Kernel) : (s.setKernel k).cxl = s.cxl := rfl
@[simp] theorem State.setKernel_hdm (k : Kernel) : (s.setKernel k).hdm = s.hdm := rfl
@[simp] theorem State.setKernel_flows (k : Kernel) : (s.setKernel k).flows = s.flows := rfl
@[simp] theorem State.setKernel_unsent (k : Kernel) : (s.setKernel k).unsent = s.unsent := rfl
@[simp] theorem State.setKernel_fabric (k : Kernel) : (s.setKernel k).fabric = s.fabric := rfl
@[simp] theorem State.setKernel_links (k : Kernel) : (s.setKernel k).links = s.links := rfl
@[simp] theorem State.setKernel_collIn (k : Kernel) : (s.setKernel k).collIn = s.collIn := rfl
@[simp] theorem State.setKernel_out (k : Kernel) : (s.setKernel k).out = s.out := rfl
@[simp] theorem State.setKernel_log (k : Kernel) : (s.setKernel k).log = s.log := rfl
@[simp] theorem State.setKernel_mgmt (k : Kernel) : (s.setKernel k).mgmt = s.mgmt := rfl
@[simp] theorem State.setKernel_levels (k : Kernel) : (s.setKernel k).levels = s.levels := rfl

/-! ### State.setContext -/

@[simp] theorem State.setContext_clock (c : Context) : (s.setContext c).clock = s.clock := rfl
@[simp] theorem State.setContext_free (c : Context) : (s.setContext c).free = s.free := rfl
@[simp] theorem State.setContext_turns (c : Context) : (s.setContext c).turns = s.turns := rfl
@[simp] theorem State.setContext_cur (c : Context) : (s.setContext c).cur = s.cur := rfl
@[simp] theorem State.setContext_mem (c : Context) : (s.setContext c).mem = s.mem := rfl
@[simp] theorem State.setContext_dirty (c : Context) : (s.setContext c).dirty = s.dirty := rfl
@[simp] theorem State.setContext_flushing (c : Context) : (s.setContext c).flushing = s.flushing := rfl
@[simp] theorem State.setContext_older (c : Context) : (s.setContext c).older = s.older := rfl
@[simp] theorem State.setContext_posted (c : Context) : (s.setContext c).posted = s.posted := rfl
@[simp] theorem State.setContext_beams (c : Context) : (s.setContext c).beams = s.beams := rfl
@[simp] theorem State.setContext_fills (c : Context) : (s.setContext c).fills = s.fills := rfl
@[simp] theorem State.setContext_mmas (c : Context) : (s.setContext c).mmas = s.mmas := rfl
@[simp] theorem State.setContext_cohorts (c : Context) : (s.setContext c).cohorts = s.cohorts := rfl
@[simp] theorem State.setContext_kernels (c : Context) : (s.setContext c).kernels = s.kernels := rfl
@[simp] theorem State.setContext_rooms (c : Context) : (s.setContext c).rooms = s.rooms := rfl
@[simp] theorem State.setContext_contexts (c : Context) : (s.setContext c).contexts = replaceBy Context.id c s.contexts := rfl
@[simp] theorem State.setContext_queues (c : Context) : (s.setContext c).queues = s.queues := rfl
@[simp] theorem State.setContext_cmds (c : Context) : (s.setContext c).cmds = s.cmds := rfl
@[simp] theorem State.setContext_parts (c : Context) : (s.setContext c).parts = s.parts := rfl
@[simp] theorem State.setContext_vfs (c : Context) : (s.setContext c).vfs = s.vfs := rfl
@[simp] theorem State.setContext_cores (c : Context) : (s.setContext c).cores = s.cores := rfl
@[simp] theorem State.setContext_stored (c : Context) : (s.setContext c).stored = s.stored := rfl
@[simp] theorem State.setContext_dieTlb (c : Context) : (s.setContext c).dieTlb = s.dieTlb := rfl
@[simp] theorem State.setContext_walkc (c : Context) : (s.setContext c).walkc = s.walkc := rfl
@[simp] theorem State.setContext_reqs (c : Context) : (s.setContext c).reqs = s.reqs := rfl
@[simp] theorem State.setContext_nextId (c : Context) : (s.setContext c).nextId = s.nextId := rfl
@[simp] theorem State.setContext_ports (c : Context) : (s.setContext c).ports = s.ports := rfl
@[simp] theorem State.setContext_cxl (c : Context) : (s.setContext c).cxl = s.cxl := rfl
@[simp] theorem State.setContext_hdm (c : Context) : (s.setContext c).hdm = s.hdm := rfl
@[simp] theorem State.setContext_flows (c : Context) : (s.setContext c).flows = s.flows := rfl
@[simp] theorem State.setContext_unsent (c : Context) : (s.setContext c).unsent = s.unsent := rfl
@[simp] theorem State.setContext_fabric (c : Context) : (s.setContext c).fabric = s.fabric := rfl
@[simp] theorem State.setContext_links (c : Context) : (s.setContext c).links = s.links := rfl
@[simp] theorem State.setContext_collIn (c : Context) : (s.setContext c).collIn = s.collIn := rfl
@[simp] theorem State.setContext_out (c : Context) : (s.setContext c).out = s.out := rfl
@[simp] theorem State.setContext_log (c : Context) : (s.setContext c).log = s.log := rfl
@[simp] theorem State.setContext_mgmt (c : Context) : (s.setContext c).mgmt = s.mgmt := rfl
@[simp] theorem State.setContext_levels (c : Context) : (s.setContext c).levels = s.levels := rfl

/-! ### State.setQueue -/

@[simp] theorem State.setQueue_clock (q : Queue) : (s.setQueue q).clock = s.clock := rfl
@[simp] theorem State.setQueue_free (q : Queue) : (s.setQueue q).free = s.free := rfl
@[simp] theorem State.setQueue_turns (q : Queue) : (s.setQueue q).turns = s.turns := rfl
@[simp] theorem State.setQueue_cur (q : Queue) : (s.setQueue q).cur = s.cur := rfl
@[simp] theorem State.setQueue_mem (q : Queue) : (s.setQueue q).mem = s.mem := rfl
@[simp] theorem State.setQueue_dirty (q : Queue) : (s.setQueue q).dirty = s.dirty := rfl
@[simp] theorem State.setQueue_flushing (q : Queue) : (s.setQueue q).flushing = s.flushing := rfl
@[simp] theorem State.setQueue_older (q : Queue) : (s.setQueue q).older = s.older := rfl
@[simp] theorem State.setQueue_posted (q : Queue) : (s.setQueue q).posted = s.posted := rfl
@[simp] theorem State.setQueue_beams (q : Queue) : (s.setQueue q).beams = s.beams := rfl
@[simp] theorem State.setQueue_fills (q : Queue) : (s.setQueue q).fills = s.fills := rfl
@[simp] theorem State.setQueue_mmas (q : Queue) : (s.setQueue q).mmas = s.mmas := rfl
@[simp] theorem State.setQueue_cohorts (q : Queue) : (s.setQueue q).cohorts = s.cohorts := rfl
@[simp] theorem State.setQueue_kernels (q : Queue) : (s.setQueue q).kernels = s.kernels := rfl
@[simp] theorem State.setQueue_rooms (q : Queue) : (s.setQueue q).rooms = s.rooms := rfl
@[simp] theorem State.setQueue_contexts (q : Queue) : (s.setQueue q).contexts = s.contexts := rfl
@[simp] theorem State.setQueue_queues (q : Queue) : (s.setQueue q).queues = replaceBy Queue.num q s.queues := rfl
@[simp] theorem State.setQueue_cmds (q : Queue) : (s.setQueue q).cmds = s.cmds := rfl
@[simp] theorem State.setQueue_parts (q : Queue) : (s.setQueue q).parts = s.parts := rfl
@[simp] theorem State.setQueue_vfs (q : Queue) : (s.setQueue q).vfs = s.vfs := rfl
@[simp] theorem State.setQueue_cores (q : Queue) : (s.setQueue q).cores = s.cores := rfl
@[simp] theorem State.setQueue_stored (q : Queue) : (s.setQueue q).stored = s.stored := rfl
@[simp] theorem State.setQueue_dieTlb (q : Queue) : (s.setQueue q).dieTlb = s.dieTlb := rfl
@[simp] theorem State.setQueue_walkc (q : Queue) : (s.setQueue q).walkc = s.walkc := rfl
@[simp] theorem State.setQueue_reqs (q : Queue) : (s.setQueue q).reqs = s.reqs := rfl
@[simp] theorem State.setQueue_nextId (q : Queue) : (s.setQueue q).nextId = s.nextId := rfl
@[simp] theorem State.setQueue_ports (q : Queue) : (s.setQueue q).ports = s.ports := rfl
@[simp] theorem State.setQueue_cxl (q : Queue) : (s.setQueue q).cxl = s.cxl := rfl
@[simp] theorem State.setQueue_hdm (q : Queue) : (s.setQueue q).hdm = s.hdm := rfl
@[simp] theorem State.setQueue_flows (q : Queue) : (s.setQueue q).flows = s.flows := rfl
@[simp] theorem State.setQueue_unsent (q : Queue) : (s.setQueue q).unsent = s.unsent := rfl
@[simp] theorem State.setQueue_fabric (q : Queue) : (s.setQueue q).fabric = s.fabric := rfl
@[simp] theorem State.setQueue_links (q : Queue) : (s.setQueue q).links = s.links := rfl
@[simp] theorem State.setQueue_collIn (q : Queue) : (s.setQueue q).collIn = s.collIn := rfl
@[simp] theorem State.setQueue_out (q : Queue) : (s.setQueue q).out = s.out := rfl
@[simp] theorem State.setQueue_log (q : Queue) : (s.setQueue q).log = s.log := rfl
@[simp] theorem State.setQueue_mgmt (q : Queue) : (s.setQueue q).mgmt = s.mgmt := rfl
@[simp] theorem State.setQueue_levels (q : Queue) : (s.setQueue q).levels = s.levels := rfl

/-! ### State.setPart -/

@[simp] theorem State.setPart_clock (p : Partition) : (s.setPart p).clock = s.clock := rfl
@[simp] theorem State.setPart_free (p : Partition) : (s.setPart p).free = s.free := rfl
@[simp] theorem State.setPart_turns (p : Partition) : (s.setPart p).turns = s.turns := rfl
@[simp] theorem State.setPart_cur (p : Partition) : (s.setPart p).cur = s.cur := rfl
@[simp] theorem State.setPart_mem (p : Partition) : (s.setPart p).mem = s.mem := rfl
@[simp] theorem State.setPart_dirty (p : Partition) : (s.setPart p).dirty = s.dirty := rfl
@[simp] theorem State.setPart_flushing (p : Partition) : (s.setPart p).flushing = s.flushing := rfl
@[simp] theorem State.setPart_older (p : Partition) : (s.setPart p).older = s.older := rfl
@[simp] theorem State.setPart_posted (p : Partition) : (s.setPart p).posted = s.posted := rfl
@[simp] theorem State.setPart_beams (p : Partition) : (s.setPart p).beams = s.beams := rfl
@[simp] theorem State.setPart_fills (p : Partition) : (s.setPart p).fills = s.fills := rfl
@[simp] theorem State.setPart_mmas (p : Partition) : (s.setPart p).mmas = s.mmas := rfl
@[simp] theorem State.setPart_cohorts (p : Partition) : (s.setPart p).cohorts = s.cohorts := rfl
@[simp] theorem State.setPart_kernels (p : Partition) : (s.setPart p).kernels = s.kernels := rfl
@[simp] theorem State.setPart_rooms (p : Partition) : (s.setPart p).rooms = s.rooms := rfl
@[simp] theorem State.setPart_contexts (p : Partition) : (s.setPart p).contexts = s.contexts := rfl
@[simp] theorem State.setPart_queues (p : Partition) : (s.setPart p).queues = s.queues := rfl
@[simp] theorem State.setPart_cmds (p : Partition) : (s.setPart p).cmds = s.cmds := rfl
@[simp] theorem State.setPart_parts (p : Partition) : (s.setPart p).parts = replaceBy Partition.id p s.parts := rfl
@[simp] theorem State.setPart_vfs (p : Partition) : (s.setPart p).vfs = s.vfs := rfl
@[simp] theorem State.setPart_cores (p : Partition) : (s.setPart p).cores = s.cores := rfl
@[simp] theorem State.setPart_stored (p : Partition) : (s.setPart p).stored = s.stored := rfl
@[simp] theorem State.setPart_dieTlb (p : Partition) : (s.setPart p).dieTlb = s.dieTlb := rfl
@[simp] theorem State.setPart_walkc (p : Partition) : (s.setPart p).walkc = s.walkc := rfl
@[simp] theorem State.setPart_reqs (p : Partition) : (s.setPart p).reqs = s.reqs := rfl
@[simp] theorem State.setPart_nextId (p : Partition) : (s.setPart p).nextId = s.nextId := rfl
@[simp] theorem State.setPart_ports (p : Partition) : (s.setPart p).ports = s.ports := rfl
@[simp] theorem State.setPart_cxl (p : Partition) : (s.setPart p).cxl = s.cxl := rfl
@[simp] theorem State.setPart_hdm (p : Partition) : (s.setPart p).hdm = s.hdm := rfl
@[simp] theorem State.setPart_flows (p : Partition) : (s.setPart p).flows = s.flows := rfl
@[simp] theorem State.setPart_unsent (p : Partition) : (s.setPart p).unsent = s.unsent := rfl
@[simp] theorem State.setPart_fabric (p : Partition) : (s.setPart p).fabric = s.fabric := rfl
@[simp] theorem State.setPart_links (p : Partition) : (s.setPart p).links = s.links := rfl
@[simp] theorem State.setPart_collIn (p : Partition) : (s.setPart p).collIn = s.collIn := rfl
@[simp] theorem State.setPart_out (p : Partition) : (s.setPart p).out = s.out := rfl
@[simp] theorem State.setPart_log (p : Partition) : (s.setPart p).log = s.log := rfl
@[simp] theorem State.setPart_mgmt (p : Partition) : (s.setPart p).mgmt = s.mgmt := rfl
@[simp] theorem State.setPart_levels (p : Partition) : (s.setPart p).levels = s.levels := rfl

/-! ### State.setVf -/

@[simp] theorem State.setVf_clock (v : Vf) : (s.setVf v).clock = s.clock := rfl
@[simp] theorem State.setVf_free (v : Vf) : (s.setVf v).free = s.free := rfl
@[simp] theorem State.setVf_turns (v : Vf) : (s.setVf v).turns = s.turns := rfl
@[simp] theorem State.setVf_cur (v : Vf) : (s.setVf v).cur = s.cur := rfl
@[simp] theorem State.setVf_mem (v : Vf) : (s.setVf v).mem = s.mem := rfl
@[simp] theorem State.setVf_dirty (v : Vf) : (s.setVf v).dirty = s.dirty := rfl
@[simp] theorem State.setVf_flushing (v : Vf) : (s.setVf v).flushing = s.flushing := rfl
@[simp] theorem State.setVf_older (v : Vf) : (s.setVf v).older = s.older := rfl
@[simp] theorem State.setVf_posted (v : Vf) : (s.setVf v).posted = s.posted := rfl
@[simp] theorem State.setVf_beams (v : Vf) : (s.setVf v).beams = s.beams := rfl
@[simp] theorem State.setVf_fills (v : Vf) : (s.setVf v).fills = s.fills := rfl
@[simp] theorem State.setVf_mmas (v : Vf) : (s.setVf v).mmas = s.mmas := rfl
@[simp] theorem State.setVf_cohorts (v : Vf) : (s.setVf v).cohorts = s.cohorts := rfl
@[simp] theorem State.setVf_kernels (v : Vf) : (s.setVf v).kernels = s.kernels := rfl
@[simp] theorem State.setVf_rooms (v : Vf) : (s.setVf v).rooms = s.rooms := rfl
@[simp] theorem State.setVf_contexts (v : Vf) : (s.setVf v).contexts = s.contexts := rfl
@[simp] theorem State.setVf_queues (v : Vf) : (s.setVf v).queues = s.queues := rfl
@[simp] theorem State.setVf_cmds (v : Vf) : (s.setVf v).cmds = s.cmds := rfl
@[simp] theorem State.setVf_parts (v : Vf) : (s.setVf v).parts = s.parts := rfl
@[simp] theorem State.setVf_vfs (v : Vf) : (s.setVf v).vfs = replaceBy Vf.id v s.vfs := rfl
@[simp] theorem State.setVf_cores (v : Vf) : (s.setVf v).cores = s.cores := rfl
@[simp] theorem State.setVf_stored (v : Vf) : (s.setVf v).stored = s.stored := rfl
@[simp] theorem State.setVf_dieTlb (v : Vf) : (s.setVf v).dieTlb = s.dieTlb := rfl
@[simp] theorem State.setVf_walkc (v : Vf) : (s.setVf v).walkc = s.walkc := rfl
@[simp] theorem State.setVf_reqs (v : Vf) : (s.setVf v).reqs = s.reqs := rfl
@[simp] theorem State.setVf_nextId (v : Vf) : (s.setVf v).nextId = s.nextId := rfl
@[simp] theorem State.setVf_ports (v : Vf) : (s.setVf v).ports = s.ports := rfl
@[simp] theorem State.setVf_cxl (v : Vf) : (s.setVf v).cxl = s.cxl := rfl
@[simp] theorem State.setVf_hdm (v : Vf) : (s.setVf v).hdm = s.hdm := rfl
@[simp] theorem State.setVf_flows (v : Vf) : (s.setVf v).flows = s.flows := rfl
@[simp] theorem State.setVf_unsent (v : Vf) : (s.setVf v).unsent = s.unsent := rfl
@[simp] theorem State.setVf_fabric (v : Vf) : (s.setVf v).fabric = s.fabric := rfl
@[simp] theorem State.setVf_links (v : Vf) : (s.setVf v).links = s.links := rfl
@[simp] theorem State.setVf_collIn (v : Vf) : (s.setVf v).collIn = s.collIn := rfl
@[simp] theorem State.setVf_out (v : Vf) : (s.setVf v).out = s.out := rfl
@[simp] theorem State.setVf_log (v : Vf) : (s.setVf v).log = s.log := rfl
@[simp] theorem State.setVf_mgmt (v : Vf) : (s.setVf v).mgmt = s.mgmt := rfl
@[simp] theorem State.setVf_levels (v : Vf) : (s.setVf v).levels = s.levels := rfl

/-! ### State.setReq -/

@[simp] theorem State.setReq_clock (r : Req) : (s.setReq r).clock = s.clock := rfl
@[simp] theorem State.setReq_free (r : Req) : (s.setReq r).free = s.free := rfl
@[simp] theorem State.setReq_turns (r : Req) : (s.setReq r).turns = s.turns := rfl
@[simp] theorem State.setReq_cur (r : Req) : (s.setReq r).cur = s.cur := rfl
@[simp] theorem State.setReq_mem (r : Req) : (s.setReq r).mem = s.mem := rfl
@[simp] theorem State.setReq_dirty (r : Req) : (s.setReq r).dirty = s.dirty := rfl
@[simp] theorem State.setReq_flushing (r : Req) : (s.setReq r).flushing = s.flushing := rfl
@[simp] theorem State.setReq_older (r : Req) : (s.setReq r).older = s.older := rfl
@[simp] theorem State.setReq_posted (r : Req) : (s.setReq r).posted = s.posted := rfl
@[simp] theorem State.setReq_beams (r : Req) : (s.setReq r).beams = s.beams := rfl
@[simp] theorem State.setReq_fills (r : Req) : (s.setReq r).fills = s.fills := rfl
@[simp] theorem State.setReq_mmas (r : Req) : (s.setReq r).mmas = s.mmas := rfl
@[simp] theorem State.setReq_cohorts (r : Req) : (s.setReq r).cohorts = s.cohorts := rfl
@[simp] theorem State.setReq_kernels (r : Req) : (s.setReq r).kernels = s.kernels := rfl
@[simp] theorem State.setReq_rooms (r : Req) : (s.setReq r).rooms = s.rooms := rfl
@[simp] theorem State.setReq_contexts (r : Req) : (s.setReq r).contexts = s.contexts := rfl
@[simp] theorem State.setReq_queues (r : Req) : (s.setReq r).queues = s.queues := rfl
@[simp] theorem State.setReq_cmds (r : Req) : (s.setReq r).cmds = s.cmds := rfl
@[simp] theorem State.setReq_parts (r : Req) : (s.setReq r).parts = s.parts := rfl
@[simp] theorem State.setReq_vfs (r : Req) : (s.setReq r).vfs = s.vfs := rfl
@[simp] theorem State.setReq_cores (r : Req) : (s.setReq r).cores = s.cores := rfl
@[simp] theorem State.setReq_stored (r : Req) : (s.setReq r).stored = s.stored := rfl
@[simp] theorem State.setReq_dieTlb (r : Req) : (s.setReq r).dieTlb = s.dieTlb := rfl
@[simp] theorem State.setReq_walkc (r : Req) : (s.setReq r).walkc = s.walkc := rfl
@[simp] theorem State.setReq_reqs (r : Req) : (s.setReq r).reqs = replaceBy Req.id r s.reqs := rfl
@[simp] theorem State.setReq_nextId (r : Req) : (s.setReq r).nextId = s.nextId := rfl
@[simp] theorem State.setReq_ports (r : Req) : (s.setReq r).ports = s.ports := rfl
@[simp] theorem State.setReq_cxl (r : Req) : (s.setReq r).cxl = s.cxl := rfl
@[simp] theorem State.setReq_hdm (r : Req) : (s.setReq r).hdm = s.hdm := rfl
@[simp] theorem State.setReq_flows (r : Req) : (s.setReq r).flows = s.flows := rfl
@[simp] theorem State.setReq_unsent (r : Req) : (s.setReq r).unsent = s.unsent := rfl
@[simp] theorem State.setReq_fabric (r : Req) : (s.setReq r).fabric = s.fabric := rfl
@[simp] theorem State.setReq_links (r : Req) : (s.setReq r).links = s.links := rfl
@[simp] theorem State.setReq_collIn (r : Req) : (s.setReq r).collIn = s.collIn := rfl
@[simp] theorem State.setReq_out (r : Req) : (s.setReq r).out = s.out := rfl
@[simp] theorem State.setReq_log (r : Req) : (s.setReq r).log = s.log := rfl
@[simp] theorem State.setReq_mgmt (r : Req) : (s.setReq r).mgmt = s.mgmt := rfl
@[simp] theorem State.setReq_levels (r : Req) : (s.setReq r).levels = s.levels := rfl

/-! ### State.setPort -/

@[simp] theorem State.setPort_clock (p : Port) : (s.setPort p).clock = s.clock := rfl
@[simp] theorem State.setPort_free (p : Port) : (s.setPort p).free = s.free := rfl
@[simp] theorem State.setPort_turns (p : Port) : (s.setPort p).turns = s.turns := rfl
@[simp] theorem State.setPort_cur (p : Port) : (s.setPort p).cur = s.cur := rfl
@[simp] theorem State.setPort_mem (p : Port) : (s.setPort p).mem = s.mem := rfl
@[simp] theorem State.setPort_dirty (p : Port) : (s.setPort p).dirty = s.dirty := rfl
@[simp] theorem State.setPort_flushing (p : Port) : (s.setPort p).flushing = s.flushing := rfl
@[simp] theorem State.setPort_older (p : Port) : (s.setPort p).older = s.older := rfl
@[simp] theorem State.setPort_posted (p : Port) : (s.setPort p).posted = s.posted := rfl
@[simp] theorem State.setPort_beams (p : Port) : (s.setPort p).beams = s.beams := rfl
@[simp] theorem State.setPort_fills (p : Port) : (s.setPort p).fills = s.fills := rfl
@[simp] theorem State.setPort_mmas (p : Port) : (s.setPort p).mmas = s.mmas := rfl
@[simp] theorem State.setPort_cohorts (p : Port) : (s.setPort p).cohorts = s.cohorts := rfl
@[simp] theorem State.setPort_kernels (p : Port) : (s.setPort p).kernels = s.kernels := rfl
@[simp] theorem State.setPort_rooms (p : Port) : (s.setPort p).rooms = s.rooms := rfl
@[simp] theorem State.setPort_contexts (p : Port) : (s.setPort p).contexts = s.contexts := rfl
@[simp] theorem State.setPort_queues (p : Port) : (s.setPort p).queues = s.queues := rfl
@[simp] theorem State.setPort_cmds (p : Port) : (s.setPort p).cmds = s.cmds := rfl
@[simp] theorem State.setPort_parts (p : Port) : (s.setPort p).parts = s.parts := rfl
@[simp] theorem State.setPort_vfs (p : Port) : (s.setPort p).vfs = s.vfs := rfl
@[simp] theorem State.setPort_cores (p : Port) : (s.setPort p).cores = s.cores := rfl
@[simp] theorem State.setPort_stored (p : Port) : (s.setPort p).stored = s.stored := rfl
@[simp] theorem State.setPort_dieTlb (p : Port) : (s.setPort p).dieTlb = s.dieTlb := rfl
@[simp] theorem State.setPort_walkc (p : Port) : (s.setPort p).walkc = s.walkc := rfl
@[simp] theorem State.setPort_reqs (p : Port) : (s.setPort p).reqs = s.reqs := rfl
@[simp] theorem State.setPort_nextId (p : Port) : (s.setPort p).nextId = s.nextId := rfl
@[simp] theorem State.setPort_ports (p : Port) : (s.setPort p).ports = replaceBy Port.id p s.ports := rfl
@[simp] theorem State.setPort_cxl (p : Port) : (s.setPort p).cxl = s.cxl := rfl
@[simp] theorem State.setPort_hdm (p : Port) : (s.setPort p).hdm = s.hdm := rfl
@[simp] theorem State.setPort_flows (p : Port) : (s.setPort p).flows = s.flows := rfl
@[simp] theorem State.setPort_unsent (p : Port) : (s.setPort p).unsent = s.unsent := rfl
@[simp] theorem State.setPort_fabric (p : Port) : (s.setPort p).fabric = s.fabric := rfl
@[simp] theorem State.setPort_links (p : Port) : (s.setPort p).links = s.links := rfl
@[simp] theorem State.setPort_collIn (p : Port) : (s.setPort p).collIn = s.collIn := rfl
@[simp] theorem State.setPort_out (p : Port) : (s.setPort p).out = s.out := rfl
@[simp] theorem State.setPort_log (p : Port) : (s.setPort p).log = s.log := rfl
@[simp] theorem State.setPort_mgmt (p : Port) : (s.setPort p).mgmt = s.mgmt := rfl
@[simp] theorem State.setPort_levels (p : Port) : (s.setPort p).levels = s.levels := rfl

/-! ### State.logged -/

@[simp] theorem State.logged_clock (e : LogEntry) : (s.logged e).clock = s.clock := rfl
@[simp] theorem State.logged_free (e : LogEntry) : (s.logged e).free = s.free := rfl
@[simp] theorem State.logged_turns (e : LogEntry) : (s.logged e).turns = s.turns := rfl
@[simp] theorem State.logged_cur (e : LogEntry) : (s.logged e).cur = s.cur := rfl
@[simp] theorem State.logged_mem (e : LogEntry) : (s.logged e).mem = s.mem := rfl
@[simp] theorem State.logged_dirty (e : LogEntry) : (s.logged e).dirty = s.dirty := rfl
@[simp] theorem State.logged_flushing (e : LogEntry) : (s.logged e).flushing = s.flushing := rfl
@[simp] theorem State.logged_older (e : LogEntry) : (s.logged e).older = s.older := rfl
@[simp] theorem State.logged_posted (e : LogEntry) : (s.logged e).posted = s.posted := rfl
@[simp] theorem State.logged_beams (e : LogEntry) : (s.logged e).beams = s.beams := rfl
@[simp] theorem State.logged_fills (e : LogEntry) : (s.logged e).fills = s.fills := rfl
@[simp] theorem State.logged_mmas (e : LogEntry) : (s.logged e).mmas = s.mmas := rfl
@[simp] theorem State.logged_cohorts (e : LogEntry) : (s.logged e).cohorts = s.cohorts := rfl
@[simp] theorem State.logged_kernels (e : LogEntry) : (s.logged e).kernels = s.kernels := rfl
@[simp] theorem State.logged_rooms (e : LogEntry) : (s.logged e).rooms = s.rooms := rfl
@[simp] theorem State.logged_contexts (e : LogEntry) : (s.logged e).contexts = s.contexts := rfl
@[simp] theorem State.logged_queues (e : LogEntry) : (s.logged e).queues = s.queues := rfl
@[simp] theorem State.logged_cmds (e : LogEntry) : (s.logged e).cmds = s.cmds := rfl
@[simp] theorem State.logged_parts (e : LogEntry) : (s.logged e).parts = s.parts := rfl
@[simp] theorem State.logged_vfs (e : LogEntry) : (s.logged e).vfs = s.vfs := rfl
@[simp] theorem State.logged_cores (e : LogEntry) : (s.logged e).cores = s.cores := rfl
@[simp] theorem State.logged_stored (e : LogEntry) : (s.logged e).stored = s.stored := rfl
@[simp] theorem State.logged_dieTlb (e : LogEntry) : (s.logged e).dieTlb = s.dieTlb := rfl
@[simp] theorem State.logged_walkc (e : LogEntry) : (s.logged e).walkc = s.walkc := rfl
@[simp] theorem State.logged_reqs (e : LogEntry) : (s.logged e).reqs = s.reqs := rfl
@[simp] theorem State.logged_nextId (e : LogEntry) : (s.logged e).nextId = s.nextId := rfl
@[simp] theorem State.logged_ports (e : LogEntry) : (s.logged e).ports = s.ports := rfl
@[simp] theorem State.logged_cxl (e : LogEntry) : (s.logged e).cxl = s.cxl := rfl
@[simp] theorem State.logged_hdm (e : LogEntry) : (s.logged e).hdm = s.hdm := rfl
@[simp] theorem State.logged_flows (e : LogEntry) : (s.logged e).flows = s.flows := rfl
@[simp] theorem State.logged_unsent (e : LogEntry) : (s.logged e).unsent = s.unsent := rfl
@[simp] theorem State.logged_fabric (e : LogEntry) : (s.logged e).fabric = s.fabric := rfl
@[simp] theorem State.logged_links (e : LogEntry) : (s.logged e).links = s.links := rfl
@[simp] theorem State.logged_collIn (e : LogEntry) : (s.logged e).collIn = s.collIn := rfl
@[simp] theorem State.logged_out (e : LogEntry) : (s.logged e).out = s.out := rfl
@[simp] theorem State.logged_log (e : LogEntry) : (s.logged e).log = s.log ++ [e] := rfl
@[simp] theorem State.logged_mgmt (e : LogEntry) : (s.logged e).mgmt = s.mgmt := rfl
@[simp] theorem State.logged_levels (e : LogEntry) : (s.logged e).levels = s.levels := rfl

/-! ### State.emit -/

@[simp] theorem State.emit_clock (o : Output) : (s.emit o).clock = s.clock := rfl
@[simp] theorem State.emit_free (o : Output) : (s.emit o).free = s.free := rfl
@[simp] theorem State.emit_turns (o : Output) : (s.emit o).turns = s.turns := rfl
@[simp] theorem State.emit_cur (o : Output) : (s.emit o).cur = s.cur := rfl
@[simp] theorem State.emit_mem (o : Output) : (s.emit o).mem = s.mem := rfl
@[simp] theorem State.emit_dirty (o : Output) : (s.emit o).dirty = s.dirty := rfl
@[simp] theorem State.emit_flushing (o : Output) : (s.emit o).flushing = s.flushing := rfl
@[simp] theorem State.emit_older (o : Output) : (s.emit o).older = s.older := rfl
@[simp] theorem State.emit_posted (o : Output) : (s.emit o).posted = s.posted := rfl
@[simp] theorem State.emit_beams (o : Output) : (s.emit o).beams = s.beams := rfl
@[simp] theorem State.emit_fills (o : Output) : (s.emit o).fills = s.fills := rfl
@[simp] theorem State.emit_mmas (o : Output) : (s.emit o).mmas = s.mmas := rfl
@[simp] theorem State.emit_cohorts (o : Output) : (s.emit o).cohorts = s.cohorts := rfl
@[simp] theorem State.emit_kernels (o : Output) : (s.emit o).kernels = s.kernels := rfl
@[simp] theorem State.emit_rooms (o : Output) : (s.emit o).rooms = s.rooms := rfl
@[simp] theorem State.emit_contexts (o : Output) : (s.emit o).contexts = s.contexts := rfl
@[simp] theorem State.emit_queues (o : Output) : (s.emit o).queues = s.queues := rfl
@[simp] theorem State.emit_cmds (o : Output) : (s.emit o).cmds = s.cmds := rfl
@[simp] theorem State.emit_parts (o : Output) : (s.emit o).parts = s.parts := rfl
@[simp] theorem State.emit_vfs (o : Output) : (s.emit o).vfs = s.vfs := rfl
@[simp] theorem State.emit_cores (o : Output) : (s.emit o).cores = s.cores := rfl
@[simp] theorem State.emit_stored (o : Output) : (s.emit o).stored = s.stored := rfl
@[simp] theorem State.emit_dieTlb (o : Output) : (s.emit o).dieTlb = s.dieTlb := rfl
@[simp] theorem State.emit_walkc (o : Output) : (s.emit o).walkc = s.walkc := rfl
@[simp] theorem State.emit_reqs (o : Output) : (s.emit o).reqs = s.reqs := rfl
@[simp] theorem State.emit_nextId (o : Output) : (s.emit o).nextId = s.nextId := rfl
@[simp] theorem State.emit_ports (o : Output) : (s.emit o).ports = s.ports := rfl
@[simp] theorem State.emit_cxl (o : Output) : (s.emit o).cxl = s.cxl := rfl
@[simp] theorem State.emit_hdm (o : Output) : (s.emit o).hdm = s.hdm := rfl
@[simp] theorem State.emit_flows (o : Output) : (s.emit o).flows = s.flows := rfl
@[simp] theorem State.emit_unsent (o : Output) : (s.emit o).unsent = s.unsent := rfl
@[simp] theorem State.emit_fabric (o : Output) : (s.emit o).fabric = s.fabric := rfl
@[simp] theorem State.emit_links (o : Output) : (s.emit o).links = s.links := rfl
@[simp] theorem State.emit_collIn (o : Output) : (s.emit o).collIn = s.collIn := rfl
@[simp] theorem State.emit_out (o : Output) : (s.emit o).out = s.out ++ [o] := rfl
@[simp] theorem State.emit_log (o : Output) : (s.emit o).log = s.log := rfl
@[simp] theorem State.emit_mgmt (o : Output) : (s.emit o).mgmt = s.mgmt := rfl
@[simp] theorem State.emit_levels (o : Output) : (s.emit o).levels = s.levels := rfl

/-! ### State.setFlow -/

@[simp] theorem State.setFlow_clock (f : Flow) : (s.setFlow f).clock = s.clock := rfl
@[simp] theorem State.setFlow_free (f : Flow) : (s.setFlow f).free = s.free := rfl
@[simp] theorem State.setFlow_turns (f : Flow) : (s.setFlow f).turns = s.turns := rfl
@[simp] theorem State.setFlow_cur (f : Flow) : (s.setFlow f).cur = s.cur := rfl
@[simp] theorem State.setFlow_mem (f : Flow) : (s.setFlow f).mem = s.mem := rfl
@[simp] theorem State.setFlow_dirty (f : Flow) : (s.setFlow f).dirty = s.dirty := rfl
@[simp] theorem State.setFlow_flushing (f : Flow) : (s.setFlow f).flushing = s.flushing := rfl
@[simp] theorem State.setFlow_older (f : Flow) : (s.setFlow f).older = s.older := rfl
@[simp] theorem State.setFlow_posted (f : Flow) : (s.setFlow f).posted = s.posted := rfl
@[simp] theorem State.setFlow_beams (f : Flow) : (s.setFlow f).beams = s.beams := rfl
@[simp] theorem State.setFlow_fills (f : Flow) : (s.setFlow f).fills = s.fills := rfl
@[simp] theorem State.setFlow_mmas (f : Flow) : (s.setFlow f).mmas = s.mmas := rfl
@[simp] theorem State.setFlow_cohorts (f : Flow) : (s.setFlow f).cohorts = s.cohorts := rfl
@[simp] theorem State.setFlow_kernels (f : Flow) : (s.setFlow f).kernels = s.kernels := rfl
@[simp] theorem State.setFlow_rooms (f : Flow) : (s.setFlow f).rooms = s.rooms := rfl
@[simp] theorem State.setFlow_contexts (f : Flow) : (s.setFlow f).contexts = s.contexts := rfl
@[simp] theorem State.setFlow_queues (f : Flow) : (s.setFlow f).queues = s.queues := rfl
@[simp] theorem State.setFlow_cmds (f : Flow) : (s.setFlow f).cmds = s.cmds := rfl
@[simp] theorem State.setFlow_parts (f : Flow) : (s.setFlow f).parts = s.parts := rfl
@[simp] theorem State.setFlow_vfs (f : Flow) : (s.setFlow f).vfs = s.vfs := rfl
@[simp] theorem State.setFlow_cores (f : Flow) : (s.setFlow f).cores = s.cores := rfl
@[simp] theorem State.setFlow_stored (f : Flow) : (s.setFlow f).stored = s.stored := rfl
@[simp] theorem State.setFlow_dieTlb (f : Flow) : (s.setFlow f).dieTlb = s.dieTlb := rfl
@[simp] theorem State.setFlow_walkc (f : Flow) : (s.setFlow f).walkc = s.walkc := rfl
@[simp] theorem State.setFlow_reqs (f : Flow) : (s.setFlow f).reqs = s.reqs := rfl
@[simp] theorem State.setFlow_nextId (f : Flow) : (s.setFlow f).nextId = s.nextId := rfl
@[simp] theorem State.setFlow_ports (f : Flow) : (s.setFlow f).ports = s.ports := rfl
@[simp] theorem State.setFlow_cxl (f : Flow) : (s.setFlow f).cxl = s.cxl := rfl
@[simp] theorem State.setFlow_hdm (f : Flow) : (s.setFlow f).hdm = s.hdm := rfl
@[simp] theorem State.setFlow_unsent (f : Flow) : (s.setFlow f).unsent = s.unsent := rfl
@[simp] theorem State.setFlow_fabric (f : Flow) : (s.setFlow f).fabric = s.fabric := rfl
@[simp] theorem State.setFlow_links (f : Flow) : (s.setFlow f).links = s.links := rfl
@[simp] theorem State.setFlow_collIn (f : Flow) : (s.setFlow f).collIn = s.collIn := rfl
@[simp] theorem State.setFlow_out (f : Flow) : (s.setFlow f).out = s.out := rfl
@[simp] theorem State.setFlow_log (f : Flow) : (s.setFlow f).log = s.log := rfl
@[simp] theorem State.setFlow_mgmt (f : Flow) : (s.setFlow f).mgmt = s.mgmt := rfl
@[simp] theorem State.setFlow_levels (f : Flow) : (s.setFlow f).levels = s.levels := rfl

/-! ### State.writeByte -/

@[simp] theorem State.writeByte_clock (who : Option Nat) (pa : Nat) (x : Byte) : (s.writeByte who pa x).clock = s.clock := rfl
@[simp] theorem State.writeByte_free (who : Option Nat) (pa : Nat) (x : Byte) : (s.writeByte who pa x).free = s.free := rfl
@[simp] theorem State.writeByte_turns (who : Option Nat) (pa : Nat) (x : Byte) : (s.writeByte who pa x).turns = s.turns := rfl
@[simp] theorem State.writeByte_cur (who : Option Nat) (pa : Nat) (x : Byte) : (s.writeByte who pa x).cur = s.cur := rfl
@[simp] theorem State.writeByte_mem (who : Option Nat) (pa : Nat) (x : Byte) :
    (s.writeByte who pa x).mem = s.mem.write pa x := rfl
@[simp] theorem State.writeByte_dirty (who : Option Nat) (pa : Nat) (x : Byte) : (s.writeByte who pa x).dirty = s.dirty := rfl
@[simp] theorem State.writeByte_flushing (who : Option Nat) (pa : Nat) (x : Byte) :
    (s.writeByte who pa x).flushing = s.flushing := rfl
@[simp] theorem State.writeByte_older (who : Option Nat) (pa : Nat) (x : Byte) : (s.writeByte who pa x).older = s.older := rfl
@[simp] theorem State.writeByte_posted (who : Option Nat) (pa : Nat) (x : Byte) :
    (s.writeByte who pa x).posted = s.posted := rfl
@[simp] theorem State.writeByte_beams (who : Option Nat) (pa : Nat) (x : Byte) : (s.writeByte who pa x).beams = s.beams := rfl
@[simp] theorem State.writeByte_fills (who : Option Nat) (pa : Nat) (x : Byte) : (s.writeByte who pa x).fills = s.fills := rfl
@[simp] theorem State.writeByte_mmas (who : Option Nat) (pa : Nat) (x : Byte) : (s.writeByte who pa x).mmas = s.mmas := rfl
@[simp] theorem State.writeByte_cohorts (who : Option Nat) (pa : Nat) (x : Byte) :
    (s.writeByte who pa x).cohorts = s.cohorts := rfl
@[simp] theorem State.writeByte_kernels (who : Option Nat) (pa : Nat) (x : Byte) :
    (s.writeByte who pa x).kernels = s.kernels := rfl
@[simp] theorem State.writeByte_rooms (who : Option Nat) (pa : Nat) (x : Byte) : (s.writeByte who pa x).rooms = s.rooms := rfl
@[simp] theorem State.writeByte_contexts (who : Option Nat) (pa : Nat) (x : Byte) :
    (s.writeByte who pa x).contexts = s.contexts := rfl
@[simp] theorem State.writeByte_queues (who : Option Nat) (pa : Nat) (x : Byte) :
    (s.writeByte who pa x).queues = s.queues := rfl
@[simp] theorem State.writeByte_cmds (who : Option Nat) (pa : Nat) (x : Byte) : (s.writeByte who pa x).cmds = s.cmds := rfl
@[simp] theorem State.writeByte_parts (who : Option Nat) (pa : Nat) (x : Byte) : (s.writeByte who pa x).parts = s.parts := rfl
@[simp] theorem State.writeByte_vfs (who : Option Nat) (pa : Nat) (x : Byte) : (s.writeByte who pa x).vfs = s.vfs := rfl
@[simp] theorem State.writeByte_dieTlb (who : Option Nat) (pa : Nat) (x : Byte) :
    (s.writeByte who pa x).dieTlb = s.dieTlb := rfl
@[simp] theorem State.writeByte_walkc (who : Option Nat) (pa : Nat) (x : Byte) : (s.writeByte who pa x).walkc = s.walkc := rfl
@[simp] theorem State.writeByte_reqs (who : Option Nat) (pa : Nat) (x : Byte) : (s.writeByte who pa x).reqs = s.reqs := rfl
@[simp] theorem State.writeByte_nextId (who : Option Nat) (pa : Nat) (x : Byte) :
    (s.writeByte who pa x).nextId = s.nextId := rfl
@[simp] theorem State.writeByte_ports (who : Option Nat) (pa : Nat) (x : Byte) : (s.writeByte who pa x).ports = s.ports := rfl
@[simp] theorem State.writeByte_cxl (who : Option Nat) (pa : Nat) (x : Byte) : (s.writeByte who pa x).cxl = s.cxl := rfl
@[simp] theorem State.writeByte_hdm (who : Option Nat) (pa : Nat) (x : Byte) : (s.writeByte who pa x).hdm = s.hdm := rfl
@[simp] theorem State.writeByte_flows (who : Option Nat) (pa : Nat) (x : Byte) : (s.writeByte who pa x).flows = s.flows := rfl
@[simp] theorem State.writeByte_unsent (who : Option Nat) (pa : Nat) (x : Byte) :
    (s.writeByte who pa x).unsent = s.unsent := rfl
@[simp] theorem State.writeByte_fabric (who : Option Nat) (pa : Nat) (x : Byte) :
    (s.writeByte who pa x).fabric = s.fabric := rfl
@[simp] theorem State.writeByte_links (who : Option Nat) (pa : Nat) (x : Byte) : (s.writeByte who pa x).links = s.links := rfl
@[simp] theorem State.writeByte_collIn (who : Option Nat) (pa : Nat) (x : Byte) :
    (s.writeByte who pa x).collIn = s.collIn := rfl
@[simp] theorem State.writeByte_out (who : Option Nat) (pa : Nat) (x : Byte) : (s.writeByte who pa x).out = s.out := rfl
@[simp] theorem State.writeByte_log (who : Option Nat) (pa : Nat) (x : Byte) : (s.writeByte who pa x).log = s.log := rfl
@[simp] theorem State.writeByte_mgmt (who : Option Nat) (pa : Nat) (x : Byte) : (s.writeByte who pa x).mgmt = s.mgmt := rfl
@[simp] theorem State.writeByte_levels (who : Option Nat) (pa : Nat) (x : Byte) :
    (s.writeByte who pa x).levels = s.levels := rfl

/-! ### Records after one has been set -/

theorem State.cohort?_setCohort (c : Cohort) (i : CohortKey) :
    (s.setCohort c).cohort? i = (if c.key = i then (s.cohort? i).map (fun _ => c) else s.cohort? i) :=
  find_replaceBy Cohort.key c i s.cohorts

theorem State.kernel?_setKernel (k : Kernel) (i : Nat) :
    (s.setKernel k).kernel? i = (if k.id = i then (s.kernel? i).map (fun _ => k) else s.kernel? i) :=
  find_replaceBy Kernel.id k i s.kernels

theorem State.context?_setContext (c : Context) (i : Nat) :
    (s.setContext c).context? i = (if c.id = i then (s.context? i).map (fun _ => c) else s.context? i) :=
  find_replaceBy Context.id c i s.contexts

theorem State.queue?_setQueue (q : Queue) (i : Nat) :
    (s.setQueue q).queue? i = (if q.num = i then (s.queue? i).map (fun _ => q) else s.queue? i) :=
  find_replaceBy Queue.num q i s.queues

theorem State.part?_setPart (p : Partition) (i : Nat) :
    (s.setPart p).part? i = (if p.id = i then (s.part? i).map (fun _ => p) else s.part? i) :=
  find_replaceBy Partition.id p i s.parts

theorem State.vf?_setVf (v : Vf) (i : Nat) :
    (s.setVf v).vf? i = (if v.id = i then (s.vf? i).map (fun _ => v) else s.vf? i) :=
  find_replaceBy Vf.id v i s.vfs

theorem State.req?_setReq (r : Req) (i : Nat) :
    (s.setReq r).req? i = (if r.id = i then (s.req? i).map (fun _ => r) else s.req? i) :=
  find_replaceBy Req.id r i s.reqs

theorem State.port?_setPort (p : Port) (i : Nat) :
    (s.setPort p).port? i = (if p.id = i then (s.port? i).map (fun _ => p) else s.port? i) :=
  find_replaceBy Port.id p i s.ports

end Sys2Proof.Machine
end

