-- ==== Sys2Proof/Laws/Ops.lean ====
section
/-! SUPPORT. What the shared operations can do: how the meaning of a beam instruction can end, how an access ends, and
that the writers of memory keep its canonical form. -/

namespace Sys2Proof.Machine

/-- Every way in which the meaning of a beam instruction gives a next state (R78, R126, R413). -/
theorem State.runFrag_next {s t : State} {g : Guard} {body : Frag → State → Res} (h : s.runFrag g body = .next t) :
    ∃ x, s.frag = some x ∧
      ((∃ p, x.pending = some p ∧ t = s.takePending x p) ∨
       (∃ tr, (x.check g = some tr ∨ x.emptyTrap g = some tr) ∧ t = s.trapEntry x.b.key x.e x.pc x.words tr) ∨
       ((x.waitsSrc g = true ∨ s.tooEarly x g = true ∨ x.waitsDst g = true) ∧ t = s) ∨
       (x.pending = none ∧ x.check g = none ∧ x.waitsSrc g = false ∧ s.tooEarly x g = false ∧ x.emptyTrap g = none ∧
        x.waitsDst g = false ∧ t = s.finish x g.uses (body x s))) := by
  unfold State.runFrag at h
  split at h
  · exact absurd h (by simp)
  · next x hx =>
    refine ⟨x, hx, ?_⟩
    split at h
    · next p hp => exact .inl ⟨p, hp, by simpa using h.symm⟩
    · next hp =>
      split at h
      · next tr hc => exact .inr (.inl ⟨tr, .inl hc, by simpa using h.symm⟩)
      · next hc =>
        split at h
        · next hw =>
          refine .inr (.inr (.inl ⟨?_, by simpa using h.symm⟩))
          rcases Bool.or_eq_true_iff.1 hw with hw | hw
          · exact .inl hw
          · exact .inr (.inl hw)
        · next hw =>
          simp only [Bool.or_eq_true, not_or, Bool.not_eq_true] at hw
          unfold State.runOwn at h
          split at h
          · next tr he => exact .inr (.inl ⟨tr, .inr he, by simpa using h.symm⟩)
          · next he =>
            split at h
            · next hd => exact .inr (.inr (.inl ⟨.inr (.inr hd), by simpa using h.symm⟩))
            · next hd =>
              exact .inr (.inr (.inr ⟨hp, hc, hw.1, hw.2, he, by simpa using hd, by simpa using h.symm⟩))

/-- The meaning of a beam instruction never refuses. -/
theorem State.runFrag_not_refused (s : State) (g : Guard) (body : Frag → State → Res) (r : Refusal) :
    s.runFrag g body ≠ .refused r := by
  unfold State.runFrag
  split
  · simp
  · split
    · simp
    · split
      · simp
      · split <;> simp

/-- An access traps, waits for a page that migrates, or goes on (R222, R386). -/
theorem State.access_cases (s : State) (x : Frag) (k : Acc) (i : Instr) (ls : List (Nat × Int)) (go : Res) :
    (∃ tr, x.memTrap k (s.laneFaults x k ls) = some tr ∧ s.access x k i ls go = .trap tr) ∨
    (x.memTrap k (s.laneFaults x k ls) = none ∧
      ((s.migrating x k ls = [] ∧ s.access x k i ls go = go) ∨
       (s.migrating x k ls ≠ [] ∧ s.access x k i ls go = .stay (s.migWait x k i (s.migrating x k ls))))) := by
  unfold State.access
  split
  · next tr h => exact .inl ⟨tr, h, rfl⟩
  · next h =>
    refine .inr ⟨h, ?_⟩
    split
    · next hm => exact .inl ⟨hm, rfl⟩
    · next hm => exact .inr ⟨hm, rfl⟩

/-- A change to a core changes the cores only. -/
theorem State.modCore_only (s : State) (c : Nat) (f : Core → Core) : ∃ cs, s.modCore c f = { s with cores := cs } := by
  unfold State.modCore
  split
  · exact ⟨_, rfl⟩
  · split
    · exact ⟨_, rfl⟩
    · exact ⟨s.cores, rfl⟩

@[simp] theorem State.modCore_mem (s : State) (c : Nat) (f : Core → Core) : (s.modCore c f).mem = s.mem := by
  obtain ⟨cs, h⟩ := s.modCore_only c f
  rw [h]

@[simp] theorem State.modCore_beams (s : State) (c : Nat) (f : Core → Core) : (s.modCore c f).beams = s.beams := by
  obtain ⟨cs, h⟩ := s.modCore_only c f
  rw [h]

/-- A trace ring's writer keeps the canonical form of memory (R422). -/
theorem State.ringWrite_wf {s : State} (h : s.mem.wf = true) (base size wp : Nat) (bs : List Byte) :
    (s.ringWrite base size wp bs).mem.wf = true := by
  unfold State.ringWrite
  generalize bs.zipIdx wp = l
  induction l generalizing s with
  | nil => exact h
  | cons x l ih => exact ih (Memory.write_wf h _ _)

theorem ite_wf {p : Prop} [Decidable p] {a b : State} (ha : a.mem.wf = true) (hb : b.mem.wf = true) :
    (if p then a else b).mem.wf = true := by
  split
  · exact ha
  · exact hb

theorem State.modCore_wf {s : State} (h : s.mem.wf = true) (c : Nat) (f : Core → Core) : (s.modCore c f).mem.wf = true := by
  rw [State.modCore_mem]
  exact h

/-- A packet of this cycle is kept for the cycle's end, and changes no memory (R423). -/
theorem State.packet_mem (s : State) (x : Site) (typ : Byte) (pieces : List TracePiece) :
    (s.packet x typ pieces).mem = s.mem := by
  unfold State.packet
  split
  · rfl
  · extract_lets b p t
    rw [State.modCore_mem]
    show t.mem = s.mem
    unfold t
    cases b <;> rfl

/-- A packet that goes to its ring keeps the canonical form of memory (R426). -/
theorem State.writePacket_wf {s : State} (h : s.mem.wf = true) (p : Packet) : (s.writePacket p).mem.wf = true := by
  unfold State.writePacket
  extract_lets t b owes loss bs
  refine ite_wf ?_ ?_
  · refine State.modCore_wf ?_ _ _
    exact State.ringWrite_wf h _ _ _ _
  · extract_lets n
    refine State.modCore_wf ?_ _ _
    exact h

/-- The packets of a cycle keep the canonical form of memory. -/
theorem State.flushTrace_wf {s : State} (h : s.mem.wf = true) (core : Nat) : (s.flushTrace core).mem.wf = true := by
  unfold State.flushTrace
  extract_lets ps
  refine ite_wf h (State.modCore_wf ?_ _ _)
  generalize ps = l
  induction l generalizing s with
  | nil => exact h
  | cons p l ih => exact ih (State.writePacket_wf h p)

theorem State.fillL1_mem (s : State) (v : Via) (t : TlbEntry) : (s.fillL1 v t).mem = s.mem := by
  unfold State.fillL1
  split
  · exact State.modCore_mem ..
  · rfl

theorem State.keepPath_mem (s : State) (ps : List (Nat × WalkEntry)) : (s.keepPath ps).mem = s.mem := rfl

/-- What a translation leaves behind keeps the canonical form of memory (R379, R381). -/
theorem State.xlNoteAs_wf {s : State} (h : s.mem.wf = true) (v : Via) (write wrote : Bool) (x : Context) (va : Nat) :
    (s.xlNoteAs v write wrote x va).mem.wf = true := by
  unfold State.xlNoteAs
  split
  · exact h
  · rw [State.fillL1_mem]; exact h
  · exact h
  · extract_lets e' t path s'
    rw [State.keepPath_mem, State.fillL1_mem]
    exact ite_wf h (State.writeNat_wf h _ _ _)

theorem State.xlNote_wf {s : State} (h : s.mem.wf = true) (v : Via) (write : Bool) (x : Context) (va : Nat) :
    (s.xlNote v write x va).mem.wf = true := State.xlNoteAs_wf h v write write x va

end Sys2Proof.Machine
end

