-- ==== Sys2Proof/Laws/PerInstr.lean ====
section
/-! SUPPORT. The round trip, instruction by instruction: a well-formed instruction's words decode to it. -/

set_option Elab.async false
set_option linter.unusedSimpArgs false

namespace Sys2Proof.Laws.RoundTrip
open Sys2Proof

/-- The words of a well-formed instruction decode to it. -/
def Statement (i : Instr) : Prop := ∀ r, i.wf = true → encodeRaw i = some r → decodeRaw r = .ok i

/-- A step of the device has no words. -/
theorem Statement.event {i : Instr} (h : encodeRaw i = none) : Statement i := fun r _ hr => by rw [h] at hr; cases hr

theorem hdr (h : Header) : Statement (.hdr h) := by
  intro r hw hr
  obtain rfl := Option.some.inj (show some (encodeHeader h) = some r from hr)
  exact decode_of .hdr hw rfl (encodeHeader_op h) fun _ _ => congrArg (fun h => some (Instr.hdr h)) (header_encodeHeader h)
theorem bra (off : BitVec 22) : Statement (.bra off) := by
  intro r hw hr
  obtain rfl := Option.some.inj hr
  refine decode_of .bra hw rfl (asmOff_op ..) fun hi ho => ?_
  show Op.buildCtl .bra _ = _
  simp (disch := decide) only [Op.buildCtl, asmOff_off22]
  all_goals simp
theorem brs (u : Disp) (k : BitVec 3) (t : BitVec 16) (f : BitVec 16) (n : BitVec 16) : Statement (.brs u k t f n) := by
  intro r hw hr
  obtain rfl := Option.some.inj hr
  refine decode_of .brs hw rfl (asmBr_op ..) fun hi ho => ?_
  show Op.buildCtl .brs _ = _
  simp (disch := decide) only [Op.buildCtl, asmBr_m, asmBr_hi0, asmBr_lo1, asmBr_hi1,
      BitVec.extractLsb'_append_eq_of_add_le, BitVec.extractLsb'_append_eq_of_le, BitVec.extractLsb'_eq_self, Nat.sub_self,
      Option.map_some, Disp.ofCode_code]
  all_goals simp
theorem brv (u : Disp) (c : BitVec 4) (t : BitVec 16) (f : BitVec 16) (n : BitVec 16) : Statement (.brv u c t f n) := by
  intro r hw hr
  obtain rfl := Option.some.inj hr
  refine decode_of .brv hw rfl (asmBr_op ..) fun hi ho => ?_
  show Op.buildCtl .brv _ = _
  simp (disch := decide) only [Op.buildCtl, asmBr_m, asmBr_hi0, asmBr_lo1, asmBr_hi1, Raw.ty_of, Raw.m54_of,
      BitVec.extractLsb'_append_eq_of_add_le, BitVec.extractLsb'_append_eq_of_le, BitVec.extractLsb'_eq_self, Nat.sub_self,
      Option.map_some, Disp.ofCode_code]
  all_goals simp
theorem jmpi (a : SArg) : Statement (.jmpi a) := by
  intro r hw hr
  obtain rfl := Option.some.inj hr
  refine decode_of .jmpi hw rfl (asm_op ..) fun hi ho => ?_
  show Op.buildCtl .jmpi _ = _
  simp (disch := decide) only [Op.buildCtl, asm_sa]
  all_goals simp
theorem call (off : BitVec 22) : Statement (.call off) := by
  intro r hw hr
  obtain rfl := Option.some.inj hr
  refine decode_of .call hw rfl (asmOff_op ..) fun hi ho => ?_
  show Op.buildCtl .call _ = _
  simp (disch := decide) only [Op.buildCtl, asmOff_off22]
  all_goals simp
theorem ret : Statement .ret := fun r hw hr => by
  cases hr
  exact decode_of (r := asm1 .ret 0 0 0) .ret hw rfl rfl fun _ _ => rfl
theorem exit : Statement .exit := fun r hw hr => by
  cases hr
  exact decode_of (r := asm1 .exit 0 0 0) .exit hw rfl rfl fun _ _ => rfl
theorem nop : Statement .nop := fun r hw hr => by
  cases hr
  exact decode_of (r := asm1 .nop 0 0 0) .nop hw rfl rfl fun _ _ => rfl
theorem yield : Statement .yield := fun r hw hr => by
  cases hr
  exact decode_of (r := asm1 .yield 0 0 0) .yield hw rfl rfl fun _ _ => rfl
theorem brk (tag : BitVec 16) : Statement (.brk tag) := by
  intro r hw hr
  obtain rfl := Option.some.inj hr
  refine decode_of .brk hw rfl (asmHi_op ..) fun hi ho => ?_
  show Op.buildCtl .brk _ = _
  simp (disch := decide) only [Op.buildCtl, asmHi_hi0]
  all_goals simp
theorem trap (code : BitVec 16) : Statement (.trap code) := by
  intro r hw hr
  obtain rfl := Option.some.inj hr
  refine decode_of .trap hw rfl (asmHi_op ..) fun hi ho => ?_
  show Op.buildCtl .trap _ = _
  simp (disch := decide) only [Op.buildCtl, asmHi_hi0]
  all_goals simp
theorem eret (skip : Bool) : Statement (.eret skip) := by
  intro r hw hr
  obtain rfl := Option.some.inj hr
  refine decode_of .eret hw rfl (asm1_op ..) fun hi ho => ?_
  show Op.buildCtl .eret _ = _
  simp (disch := decide) only [Op.buildCtl, asm1_m, Raw.m0_of, BitVec.getLsbD_append, getLsbD_b1]
  all_goals simp
theorem bdec (n : BitVec 6) (off : BitVec 16) : Statement (.bdec n off) := by
  intro r hw hr
  obtain rfl := Option.some.inj hr
  refine decode_of .bdec hw rfl (asmHi_op ..) fun hi ho => ?_
  show Op.buildCtl .bdec _ = _
  simp (disch := decide) only [Op.buildCtl, asmHi_m, asmHi_hi0]
  all_goals simp
theorem delay (a : SArgI) : Statement (.delay a) := by
  intro r hw hr
  cases a with
  | imm w =>
    obtain rfl := Option.some.inj hr
    refine decode_of .delay hw rfl (asm_op ..) fun _ _ => ?_
    show some (Instr.delay (Raw.saI (asm .delay 0 0 0 (SArgI.imm w).fld {} {} 0 (SArgI.imm w).immediate))) = _
    rw [asm_saI]
  | reg x =>
    obtain ⟨x, e⟩ := x
    cases e
    · obtain rfl := Option.some.inj (show some (asm1 .delay 0 0 x) = some r from hr)
      refine decode_of .delay hw rfl (asm1_op ..) fun _ _ => ?_
      show some (Instr.delay (Raw.saI (asm1 .delay 0 0 x))) = _
      have hi : (asm1 .delay 0 0 x).i = false := by simp [asm1, Raw.i]
      have he : (asm1 .delay 0 0 x).ea = false := by simp [asm1, Raw.ea]
      unfold Raw.saI Raw.sa
      rw [hi, he, asm1_a]
      rfl
    · obtain rfl := Option.some.inj hr
      refine decode_of .delay hw rfl ?_ fun _ _ => ?_
      · simp (disch := decide) only [Raw.op, BitVec.extractLsb'_append_eq_of_add_le, BitVec.extractLsb'_append_eq_of_le, if_pos]
        simp
      · show some (Instr.delay _) = _
        have h1 : (asm .delay 0 0 0 (SArg.fld ⟨x, true⟩) {} {} 0 none).i = false := asm_i ..
        have h2 : (asm .delay 0 0 0 (SArg.fld ⟨x, true⟩) {} {} 0 none).ea = true := asm_ea ..
        simp only [Raw.i, Raw.ea] at h1 h2
        simp (disch := decide) only [Raw.saI, Raw.i, Raw.sa, Raw.a, Raw.ea, if_pos, h1, h2, BitVec.extractLsb'_append_eq_of_add_le, BitVec.extractLsb'_append_eq_of_le]
        simp
theorem chunk (d : Reg) (a : Reg) : Statement (.chunk d a) := by
  intro r hw hr
  obtain rfl := Option.some.inj hr
  refine decode_of .chunk hw rfl (asm1_op ..) fun hi ho => ?_
  show Op.buildCtl .chunk _ = _
  simp (disch := decide) only [Op.buildCtl, asm1_d, asm1_a]
  all_goals simp
theorem bsplit (d : Reg) : Statement (.bsplit d) := by
  intro r hw hr
  obtain rfl := Option.some.inj hr
  refine decode_of .bsplit hw rfl (asm1_op ..) fun hi ho => ?_
  show Op.buildCtl .bsplit _ = _
  simp (disch := decide) only [Op.buildCtl, asm1_d]
  all_goals simp
theorem bfuse (d : Reg) : Statement (.bfuse d) := by
  intro r hw hr
  obtain rfl := Option.some.inj hr
  refine decode_of .bfuse hw rfl (asm1_op ..) fun hi ho => ?_
  show Op.buildCtl .bfuse _ = _
  simp (disch := decide) only [Op.buildCtl, asm1_d]
  all_goals simp
theorem gjoin (d : Reg) (a : Reg) : Statement (.gjoin d a) := by
  intro r hw hr
  obtain rfl := Option.some.inj hr
  refine decode_of .gjoin hw rfl (asm1_op ..) fun hi ho => ?_
  show Op.buildCtl .gjoin _ = _
  simp (disch := decide) only [Op.buildCtl, asm1_d, asm1_a]
  all_goals simp
theorem gleave (d : Reg) (a : Reg) : Statement (.gleave d a) := by
  intro r hw hr
  obtain rfl := Option.some.inj hr
  refine decode_of .gleave hw rfl (asm1_op ..) fun hi ho => ?_
  show Op.buildCtl .gleave _ = _
  simp (disch := decide) only [Op.buildCtl, asm1_d, asm1_a]
  all_goals simp
theorem gnew (d : Reg) : Statement (.gnew d) := by
  intro r hw hr
  obtain rfl := Option.some.inj hr
  refine decode_of .gnew hw rfl (asm1_op ..) fun hi ho => ?_
  show Op.buildCtl .gnew _ = _
  simp (disch := decide) only [Op.buildCtl, asm1_d]
  all_goals simp
theorem gets (d : GReg) (sp : Reg) : Statement (.gets d sp) := by
  cases d
  all_goals
    intro r hw hr
    obtain rfl := Option.some.inj hr
    refine decode_of .gets hw rfl (asm1_op ..) fun hi ho => ?_
    show Op.buildCtl .gets _ = _
    simp (disch := decide) only [Op.buildCtl, asm1_m, asm1_d, asm1_a, Raw.ty_of, Raw.m54_of, Raw.m10_of, Raw.m42_of, Raw.m32_of, Raw.fmt_of, Raw.m5_of, Raw.m4_of, Raw.m0_of, mTy_ty, mTy_m54, mTy_4, mTy_5, mS_m10, mS_m42, BitVec.extractLsb'_append_eq_of_add_le, BitVec.extractLsb'_append_eq_of_le, BitVec.getLsbD_append, getLsbD_b1, BitVec.extractLsb'_eq_self, Nat.sub_self, Option.bind_some, Option.map_some, Reg.fld, Ty.ofCode_code, STy.ofCode_code, Fmt.ofCode_code, Rnd.ofCode_code, Cmp.ofCode_code, Disp.ofCode_code, Scope.ofCode_code, LogOp.ofCode_code, RedOp.ofCode_code, ShMode.ofCode_code, VoteKind.ofCode_code, AtomOp.ofCode_code, AOrd.ofCode_code, FOrd.ofCode_code, GMode.ofCode_code, CollKind.ofCode_code]
    all_goals simp
theorem sets (sp : Reg) (a : SetSrc) : Statement (.sets sp a) := by
  intro r hw hr
  cases a with
  | v x =>
    obtain rfl := Option.some.inj hr
    refine decode_of .sets hw rfl (asm_op ..) fun _ _ => ?_
    show Op.buildCtl .sets _ = _
    simp only [Op.buildCtl, Raw.m0_of, asm_m, asm_d, asm_va _ _ _ _ _ _ _ _ x (.inl rfl)]
    simp
  | s x =>
    obtain rfl := Option.some.inj hr
    refine decode_of .sets hw rfl (asm_op ..) fun _ _ => ?_
    show Op.buildCtl .sets _ = _
    simp only [Op.buildCtl, Raw.m0_of, asm_m, asm_d, asm_sa]
    simp
theorem launch (d : Reg) (a : SArg) (b : SArg) : Statement (.launch d a b) := by
  intro r hw hr
  obtain rfl := Option.some.inj hr
  refine decode_of .launch hw rfl (asm_op ..) fun hi ho => ?_
  show Op.buildCtl .launch _ = _
  simp (disch := decide) only [Op.buildCtl, asm_d, asm_sa, asm_sb]
  all_goals simp
theorem smov (t : STy) (d : Reg) (a : SArgI) : Statement (.smov t d a) := by
  intro r hw hr
  obtain rfl := Option.some.inj hr
  refine decode_of .smov hw rfl (asm_op ..) fun hi ho => ?_
  show Op.buildScalar .smov _ = _
  simp (disch := decide) only [Op.buildScalar, asm_m, asm_d, asm_saI, Raw.m10_of, mS_m10, Option.map_some, STy.ofCode_code]
  all_goals simp
theorem smovi (d : Reg) (a : SArg) (w : Word) : Statement (.smovi d a w) := by
  intro r hw hr
  obtain rfl := Option.some.inj hr
  refine decode_of .smovi hw rfl (asm_op ..) fun hi ho => ?_
  show Op.buildScalar .smovi _ = _
  simp (disch := decide) only [Op.buildScalar, asm_d, asm_w2, asm_sa]
  all_goals simp
theorem sadd (t : STy) (d : Reg) (a : SArg) (b : SArgI) : Statement (.sadd t d a b) := by
  intro r hw hr
  obtain rfl := Option.some.inj hr
  refine decode_of .sadd hw rfl (asm_op ..) fun hi ho => ?_
  show Op.buildScalar .sadd _ = _
  simp (disch := decide) only [Op.buildScalar, encS, asm_m, asm_d, asm_sa, asm_sbI, Raw.m10_of, mS_m10, Option.map_some,
      STy.ofCode_code]
  all_goals simp
theorem ssub (t : STy) (d : Reg) (a : SArg) (b : SArgI) : Statement (.ssub t d a b) := by
  intro r hw hr
  obtain rfl := Option.some.inj hr
  refine decode_of .ssub hw rfl (asm_op ..) fun hi ho => ?_
  show Op.buildScalar .ssub _ = _
  simp (disch := decide) only [Op.buildScalar, encS, asm_m, asm_d, asm_sa, asm_sbI, Raw.m10_of, mS_m10, Option.map_some,
      STy.ofCode_code]
  all_goals simp
theorem smul (t : STy) (d : Reg) (a : SArg) (b : SArgI) : Statement (.smul t d a b) := by
  intro r hw hr
  obtain rfl := Option.some.inj hr
  refine decode_of .smul hw rfl (asm_op ..) fun hi ho => ?_
  show Op.buildScalar .smul _ = _
  simp (disch := decide) only [Op.buildScalar, encS, asm_m, asm_d, asm_sa, asm_sbI, Raw.m10_of, mS_m10, Option.map_some,
      STy.ofCode_code]
  all_goals simp
theorem smad (t : STy) (d : Reg) (a : SArg) (b : SArgI) (c : SArg) : Statement (.smad t d a b c) := by
  intro r hw hr
  obtain rfl := Option.some.inj hr
  refine decode_of .smad hw rfl (asm_op ..) fun hi ho => ?_
  show Op.buildScalar .smad _ = _
  simp (disch := decide) only [Op.buildScalar, encS, asm_m, asm_d, asm_sa, asm_sc, asm_sbI, Raw.m10_of, mS_m10,
      Option.map_some, STy.ofCode_code]
  all_goals simp
theorem sand (d : Reg) (a : SArg) (b : SArgI) : Statement (.sand d a b) := by
  intro r hw hr
  obtain rfl := Option.some.inj hr
  refine decode_of .sand hw rfl (asm_op ..) fun hi ho => ?_
  show Op.buildScalar .sand _ = _
  simp (disch := decide) only [Op.buildScalar, encS, asm_d, asm_sa, asm_sbI]
  all_goals simp
theorem sor (d : Reg) (a : SArg) (b : SArgI) : Statement (.sor d a b) := by
  intro r hw hr
  obtain rfl := Option.some.inj hr
  refine decode_of .sor hw rfl (asm_op ..) fun hi ho => ?_
  show Op.buildScalar .sor _ = _
  simp (disch := decide) only [Op.buildScalar, encS, asm_d, asm_sa, asm_sbI]
  all_goals simp
theorem sxor (d : Reg) (a : SArg) (b : SArgI) : Statement (.sxor d a b) := by
  intro r hw hr
  obtain rfl := Option.some.inj hr
  refine decode_of .sxor hw rfl (asm_op ..) fun hi ho => ?_
  show Op.buildScalar .sxor _ = _
  simp (disch := decide) only [Op.buildScalar, encS, asm_d, asm_sa, asm_sbI]
  all_goals simp
theorem sshl (t : STy) (d : Reg) (a : SArg) (b : SArgI) : Statement (.sshl t d a b) := by
  intro r hw hr
  obtain rfl := Option.some.inj hr
  refine decode_of .sshl hw rfl (asm_op ..) fun hi ho => ?_
  show Op.buildScalar .sshl _ = _
  simp (disch := decide) only [Op.buildScalar, encS, asm_m, asm_d, asm_sa, asm_sbI, Raw.m10_of, mS_m10, Option.map_some,
      STy.ofCode_code]
  all_goals simp
theorem sshr (t : STy) (d : Reg) (a : SArg) (b : SArgI) : Statement (.sshr t d a b) := by
  intro r hw hr
  obtain rfl := Option.some.inj hr
  refine decode_of .sshr hw rfl (asm_op ..) fun hi ho => ?_
  show Op.buildScalar .sshr _ = _
  simp (disch := decide) only [Op.buildScalar, encS, asm_m, asm_d, asm_sa, asm_sbI, Raw.m10_of, mS_m10, Option.map_some,
      STy.ofCode_code]
  all_goals simp
theorem ssar (t : STy) (d : Reg) (a : SArg) (b : SArgI) : Statement (.ssar t d a b) := by
  intro r hw hr
  obtain rfl := Option.some.inj hr
  refine decode_of .ssar hw rfl (asm_op ..) fun hi ho => ?_
  show Op.buildScalar .ssar _ = _
  simp (disch := decide) only [Op.buildScalar, encS, asm_m, asm_d, asm_sa, asm_sbI, Raw.m10_of, mS_m10, Option.map_some,
      STy.ofCode_code]
  all_goals simp
theorem smin (t : STy) (d : Reg) (a : SArg) (b : SArgI) : Statement (.smin t d a b) := by
  intro r hw hr
  obtain rfl := Option.some.inj hr
  refine decode_of .smin hw rfl (asm_op ..) fun hi ho => ?_
  show Op.buildScalar .smin _ = _
  simp (disch := decide) only [Op.buildScalar, encS, asm_m, asm_d, asm_sa, asm_sbI, Raw.m10_of, mS_m10, Option.map_some,
      STy.ofCode_code]
  all_goals simp
theorem smax (t : STy) (d : Reg) (a : SArg) (b : SArgI) : Statement (.smax t d a b) := by
  intro r hw hr
  obtain rfl := Option.some.inj hr
  refine decode_of .smax hw rfl (asm_op ..) fun hi ho => ?_
  show Op.buildScalar .smax _ = _
  simp (disch := decide) only [Op.buildScalar, encS, asm_m, asm_d, asm_sa, asm_sbI, Raw.m10_of, mS_m10, Option.map_some,
      STy.ofCode_code]
  all_goals simp
theorem scmp (c : Cmp) (t : STy) (d : Reg) (a : SArg) (b : SArgI) : Statement (.scmp c t d a b) := by
  intro r hw hr
  obtain rfl := Option.some.inj hr
  refine decode_of .scmp hw rfl (asm_op ..) fun hi ho => ?_
  show Op.buildScalar .scmp _ = _
  simp (disch := decide) only [Op.buildScalar, encS, asm_m, asm_d, asm_sa, asm_sbI, Raw.m10_of, Raw.m42_of, mS_m10, mS_m42,
      Option.bind_some, Option.map_some, STy.ofCode_code, Cmp.ofCode_code]
  all_goals simp
theorem ssel (t : STy) (d : Reg) (a : SArg) (b : SArgI) (k : Reg) : Statement (.ssel t d a b k) := by
  intro r hw hr
  obtain rfl := Option.some.inj hr
  refine decode_of .ssel hw rfl (asm_op ..) fun hi ho => ?_
  show Op.buildScalar .ssel _ = _
  simp (disch := decide) only [Op.buildScalar, encS, asm_m, asm_d, asm_c, asm_sa, asm_sbI, Raw.m10_of, mS_m10,
      Option.map_some, Reg.fld, STy.ofCode_code]
  all_goals simp
theorem slea (sh : BitVec 3) (t : STy) (d : Reg) (a : SArg) (b : SArgI) : Statement (.slea sh t d a b) := by
  intro r hw hr
  obtain rfl := Option.some.inj hr
  refine decode_of .slea hw rfl (asm_op ..) fun hi ho => ?_
  show Op.buildScalar .slea _ = _
  simp (disch := decide) only [Op.buildScalar, encS, asm_m, asm_d, asm_sa, asm_sbI, Raw.m10_of, Raw.m42_of, mS_m10, mS_m42,
      Option.map_some, STy.ofCode_code]
  all_goals simp
theorem sbfe (t : STy) (d : Reg) (a : SArg) (b : SArgI) : Statement (.sbfe t d a b) := by
  intro r hw hr
  obtain rfl := Option.some.inj hr
  refine decode_of .sbfe hw rfl (asm_op ..) fun hi ho => ?_
  show Op.buildScalar .sbfe _ = _
  simp (disch := decide) only [Op.buildScalar, encS, asm_m, asm_d, asm_sa, asm_sbI, Raw.m10_of, mS_m10, Option.map_some,
      STy.ofCode_code]
  all_goals simp
theorem spopc (t : STy) (d : Reg) (a : SArgI) : Statement (.spopc t d a) := by
  intro r hw hr
  obtain rfl := Option.some.inj hr
  refine decode_of .spopc hw rfl (asm_op ..) fun hi ho => ?_
  show Op.buildScalar .spopc _ = _
  simp (disch := decide) only [Op.buildScalar, asm_m, asm_d, asm_saI, Raw.m10_of, mS_m10, Option.map_some, STy.ofCode_code]
  all_goals simp
theorem sclz (t : STy) (d : Reg) (a : SArgI) : Statement (.sclz t d a) := by
  intro r hw hr
  obtain rfl := Option.some.inj hr
  refine decode_of .sclz hw rfl (asm_op ..) fun hi ho => ?_
  show Op.buildScalar .sclz _ = _
  simp (disch := decide) only [Op.buildScalar, asm_m, asm_d, asm_saI, Raw.m10_of, mS_m10, Option.map_some, STy.ofCode_code]
  all_goals simp
theorem klog (op : LogOp) (d : Reg) (a : Reg) (b : Reg) : Statement (.klog op d a b) := by
  intro r hw hr
  obtain rfl := Option.some.inj hr
  refine decode_of .klog hw rfl (asm_op ..) fun hi ho => ?_
  show Op.buildScalar .klog _ = _
  simp (disch := decide) only [Op.buildScalar, asm_m, asm_d, asm_a, asm_b, Raw.m10_of,
      BitVec.extractLsb'_append_eq_of_add_le, BitVec.extractLsb'_eq_self, Option.map_some, Reg.fld, LogOp.ofCode_code]
  all_goals simp
theorem stov (t : Ty) (d : Reg) (a : SArg) : Statement (.stov t d a) := by
  intro r hw hr
  obtain rfl := Option.some.inj hr
  refine decode_of .stov hw rfl (asm_op ..) fun hi ho => ?_
  show Op.buildScalar .stov _ = _
  simp (disch := decide) only [Op.buildScalar, asm_m, asm_d, asm_sa, Raw.ty_of, mTy_ty, Option.map_some, Ty.ofCode_code]
  all_goals simp
theorem vtos (t : Ty) (d : Reg) (a : VArg) (l : LaneSel) : Statement (.vtos t d a l) := by
  intro r hw hr
  cases l with
  | lead =>
    obtain rfl := Option.some.inj hr
    refine decode_of .vtos hw rfl (asm_op ..) fun _ _ => ?_
    show Op.buildScalar .vtos _ = _
    simp only [Op.buildScalar, Raw.ty_of, Raw.m4_of, asm_m, mTy_ty, mTy_4, asm_d, asm_va _ _ _ _ _ _ _ _ a (.inl rfl),
      Ty.ofCode_code, Option.map_some]
    simp
  | lane b =>
    obtain rfl := Option.some.inj hr
    refine decode_of .vtos hw rfl (asm_op ..) fun hi _ => ?_
    have ha : a.fits b.immediate := by
      cases b
      · exact .inl rfl
      · exact .inr hi
    show Op.buildScalar .vtos _ = _
    simp only [Op.buildScalar, Raw.ty_of, Raw.m4_of, asm_m, mTy_ty, mTy_4, asm_d, asm_va _ _ _ _ _ _ _ _ a ha, asm_sbI,
      Ty.ofCode_code, Option.map_some]
    simp
theorem sfill (t : STy) (d : Reg) (a : SArg) (b : SArgI) : Statement (.sfill t d a b) := by
  intro r hw hr
  obtain rfl := Option.some.inj hr
  refine decode_of .sfill hw rfl (asm_op ..) fun hi ho => ?_
  show Op.buildScalar .sfill _ = _
  simp (disch := decide) only [Op.buildScalar, encS, asm_m, asm_d, asm_sa, asm_sbI, Raw.m10_of, mS_m10, Option.map_some,
      STy.ofCode_code]
  all_goals simp
theorem iadd (t : Ty) (d : Reg) (a : VArg) (b : VArgI) : Statement (.iadd t d a b) := by
  intro r hw hr
  obtain rfl := Option.some.inj hr
  refine decode_of .iadd hw rfl (asm_op ..) fun hi ho => ?_
  show Op.buildInt .iadd _ = _
  have ha : a.fits b.immediate := by cases b <;> [exact .inl rfl; exact .inr (by simpa [Instr.immFits] using hi)]
  simp (disch := decide) only [Op.buildInt, encB, asm_m, asm_d, asm_vbI, Raw.ty_of, mTy_ty, asm_va _ _ _ _ _ _ _ _ a ha,
      Option.bind_some, Ty.ofCode_code]
  all_goals simp
theorem isub (t : Ty) (d : Reg) (a : VArg) (b : VArgI) : Statement (.isub t d a b) := by
  intro r hw hr
  obtain rfl := Option.some.inj hr
  refine decode_of .isub hw rfl (asm_op ..) fun hi ho => ?_
  show Op.buildInt .isub _ = _
  have ha : a.fits b.immediate := by cases b <;> [exact .inl rfl; exact .inr (by simpa [Instr.immFits] using hi)]
  simp (disch := decide) only [Op.buildInt, encB, asm_m, asm_d, asm_vbI, Raw.ty_of, mTy_ty, asm_va _ _ _ _ _ _ _ _ a ha,
      Option.bind_some, Ty.ofCode_code]
  all_goals simp
theorem imul (t : Ty) (d : Reg) (a : VArg) (b : VArgI) : Statement (.imul t d a b) := by
  intro r hw hr
  obtain rfl := Option.some.inj hr
  refine decode_of .imul hw rfl (asm_op ..) fun hi ho => ?_
  show Op.buildInt .imul _ = _
  have ha : a.fits b.immediate := by cases b <;> [exact .inl rfl; exact .inr (by simpa [Instr.immFits] using hi)]
  simp (disch := decide) only [Op.buildInt, encB, asm_m, asm_d, asm_vbI, Raw.ty_of, mTy_ty, asm_va _ _ _ _ _ _ _ _ a ha,
      Option.bind_some, Ty.ofCode_code]
  all_goals simp
theorem imad (t : Ty) (d : Reg) (a : VArg) (b : VArgI) (c : VArg) : Statement (.imad t d a b c) := by
  intro r hw hr
  obtain rfl := Option.some.inj hr
  refine decode_of .imad hw rfl (asm_op ..) fun hi ho => ?_
  show Op.buildInt .imad _ = _
  have ha : a.fits b.immediate := by
    cases b
    · exact .inl rfl
    · exact .inr (by simpa [Instr.immFits] using (Bool.and_eq_true _ _ ▸ hi).1)
  have hc : c.fits b.immediate := by
    cases b
    · exact .inl rfl
    · exact .inr (by simpa [Instr.immFits] using (Bool.and_eq_true _ _ ▸ hi).2)
  simp (disch := decide) only [Op.buildInt, encB, asm_m, asm_d, asm_vbI, Raw.ty_of, mTy_ty, asm_va _ _ _ _ _ _ _ _ a ha,
      asm_vc _ _ _ _ _ _ _ _ c hc, Option.bind_some, Ty.ofCode_code]
  all_goals simp
theorem imulh (t : Ty) (d : Reg) (a : VArg) (b : VArgI) : Statement (.imulh t d a b) := by
  intro r hw hr
  obtain rfl := Option.some.inj hr
  refine decode_of .imulh hw rfl (asm_op ..) fun hi ho => ?_
  show Op.buildInt .imulh _ = _
  have ha : a.fits b.immediate := by cases b <;> [exact .inl rfl; exact .inr (by simpa [Instr.immFits] using hi)]
  simp (disch := decide) only [Op.buildInt, encB, asm_m, asm_d, asm_vbI, Raw.ty_of, mTy_ty, asm_va _ _ _ _ _ _ _ _ a ha,
      Option.bind_some, Ty.ofCode_code]
  all_goals simp
theorem imin (t : Ty) (d : Reg) (a : VArg) (b : VArgI) : Statement (.imin t d a b) := by
  intro r hw hr
  obtain rfl := Option.some.inj hr
  refine decode_of .imin hw rfl (asm_op ..) fun hi ho => ?_
  show Op.buildInt .imin _ = _
  have ha : a.fits b.immediate := by cases b <;> [exact .inl rfl; exact .inr (by simpa [Instr.immFits] using hi)]
  simp (disch := decide) only [Op.buildInt, encB, asm_m, asm_d, asm_vbI, Raw.ty_of, mTy_ty, asm_va _ _ _ _ _ _ _ _ a ha,
      Option.bind_some, Ty.ofCode_code]
  all_goals simp
theorem imax (t : Ty) (d : Reg) (a : VArg) (b : VArgI) : Statement (.imax t d a b) := by
  intro r hw hr
  obtain rfl := Option.some.inj hr
  refine decode_of .imax hw rfl (asm_op ..) fun hi ho => ?_
  show Op.buildInt .imax _ = _
  have ha : a.fits b.immediate := by cases b <;> [exact .inl rfl; exact .inr (by simpa [Instr.immFits] using hi)]
  simp (disch := decide) only [Op.buildInt, encB, asm_m, asm_d, asm_vbI, Raw.ty_of, mTy_ty, asm_va _ _ _ _ _ _ _ _ a ha,
      Option.bind_some, Ty.ofCode_code]
  all_goals simp
theorem iabs (t : Ty) (d : Reg) (a : VArgI) : Statement (.iabs t d a) := by
  intro r hw hr
  obtain rfl := Option.some.inj hr
  refine decode_of .iabs hw rfl (asm_op ..) fun hi ho => ?_
  show Op.buildInt .iabs _ = _
  simp (disch := decide) only [Op.buildInt, encU, asm_m, asm_d, asm_vaI, Raw.ty_of, mTy_ty, Option.bind_some,
      Ty.ofCode_code]
  all_goals simp
theorem ineg (t : Ty) (d : Reg) (a : VArgI) : Statement (.ineg t d a) := by
  intro r hw hr
  obtain rfl := Option.some.inj hr
  refine decode_of .ineg hw rfl (asm_op ..) fun hi ho => ?_
  show Op.buildInt .ineg _ = _
  simp (disch := decide) only [Op.buildInt, encU, asm_m, asm_d, asm_vaI, Raw.ty_of, mTy_ty, Option.bind_some,
      Ty.ofCode_code]
  all_goals simp
theorem and (t : Ty) (d : Reg) (a : VArg) (b : VArgI) : Statement (.and t d a b) := by
  intro r hw hr
  obtain rfl := Option.some.inj hr
  refine decode_of .and hw rfl (asm_op ..) fun hi ho => ?_
  show Op.buildInt .and _ = _
  have ha : a.fits b.immediate := by cases b <;> [exact .inl rfl; exact .inr (by simpa [Instr.immFits] using hi)]
  simp (disch := decide) only [Op.buildInt, encB, asm_m, asm_d, asm_vbI, Raw.ty_of, mTy_ty, asm_va _ _ _ _ _ _ _ _ a ha,
      Option.bind_some, Ty.ofCode_code]
  all_goals simp
theorem or (t : Ty) (d : Reg) (a : VArg) (b : VArgI) : Statement (.or t d a b) := by
  intro r hw hr
  obtain rfl := Option.some.inj hr
  refine decode_of .or hw rfl (asm_op ..) fun hi ho => ?_
  show Op.buildInt .or _ = _
  have ha : a.fits b.immediate := by cases b <;> [exact .inl rfl; exact .inr (by simpa [Instr.immFits] using hi)]
  simp (disch := decide) only [Op.buildInt, encB, asm_m, asm_d, asm_vbI, Raw.ty_of, mTy_ty, asm_va _ _ _ _ _ _ _ _ a ha,
      Option.bind_some, Ty.ofCode_code]
  all_goals simp
theorem xor (t : Ty) (d : Reg) (a : VArg) (b : VArgI) : Statement (.xor t d a b) := by
  intro r hw hr
  obtain rfl := Option.some.inj hr
  refine decode_of .xor hw rfl (asm_op ..) fun hi ho => ?_
  show Op.buildInt .xor _ = _
  have ha : a.fits b.immediate := by cases b <;> [exact .inl rfl; exact .inr (by simpa [Instr.immFits] using hi)]
  simp (disch := decide) only [Op.buildInt, encB, asm_m, asm_d, asm_vbI, Raw.ty_of, mTy_ty, asm_va _ _ _ _ _ _ _ _ a ha,
      Option.bind_some, Ty.ofCode_code]
  all_goals simp
theorem not (t : Ty) (d : Reg) (a : VArgI) : Statement (.not t d a) := by
  intro r hw hr
  obtain rfl := Option.some.inj hr
  refine decode_of .not hw rfl (asm_op ..) fun hi ho => ?_
  show Op.buildInt .not _ = _
  simp (disch := decide) only [Op.buildInt, encU, asm_m, asm_d, asm_vaI, Raw.ty_of, mTy_ty, Option.bind_some,
      Ty.ofCode_code]
  all_goals simp
theorem shl (t : Ty) (d : Reg) (a : VArg) (b : VArgI) : Statement (.shl t d a b) := by
  intro r hw hr
  obtain rfl := Option.some.inj hr
  refine decode_of .shl hw rfl (asm_op ..) fun hi ho => ?_
  show Op.buildInt .shl _ = _
  have ha : a.fits b.immediate := by cases b <;> [exact .inl rfl; exact .inr (by simpa [Instr.immFits] using hi)]
  simp (disch := decide) only [Op.buildInt, encB, asm_m, asm_d, asm_vbI, Raw.ty_of, mTy_ty, asm_va _ _ _ _ _ _ _ _ a ha,
      Option.bind_some, Ty.ofCode_code]
  all_goals simp
theorem shr (t : Ty) (d : Reg) (a : VArg) (b : VArgI) : Statement (.shr t d a b) := by
  intro r hw hr
  obtain rfl := Option.some.inj hr
  refine decode_of .shr hw rfl (asm_op ..) fun hi ho => ?_
  show Op.buildInt .shr _ = _
  have ha : a.fits b.immediate := by cases b <;> [exact .inl rfl; exact .inr (by simpa [Instr.immFits] using hi)]
  simp (disch := decide) only [Op.buildInt, encB, asm_m, asm_d, asm_vbI, Raw.ty_of, mTy_ty, asm_va _ _ _ _ _ _ _ _ a ha,
      Option.bind_some, Ty.ofCode_code]
  all_goals simp
theorem sar (t : Ty) (d : Reg) (a : VArg) (b : VArgI) : Statement (.sar t d a b) := by
  intro r hw hr
  obtain rfl := Option.some.inj hr
  refine decode_of .sar hw rfl (asm_op ..) fun hi ho => ?_
  show Op.buildInt .sar _ = _
  have ha : a.fits b.immediate := by cases b <;> [exact .inl rfl; exact .inr (by simpa [Instr.immFits] using hi)]
  simp (disch := decide) only [Op.buildInt, encB, asm_m, asm_d, asm_vbI, Raw.ty_of, mTy_ty, asm_va _ _ _ _ _ _ _ _ a ha,
      Option.bind_some, Ty.ofCode_code]
  all_goals simp
theorem bfe (t : Ty) (d : Reg) (a : VArg) (b : VArgI) : Statement (.bfe t d a b) := by
  intro r hw hr
  obtain rfl := Option.some.inj hr
  refine decode_of .bfe hw rfl (asm_op ..) fun hi ho => ?_
  show Op.buildInt .bfe _ = _
  have ha : a.fits b.immediate := by cases b <;> [exact .inl rfl; exact .inr (by simpa [Instr.immFits] using hi)]
  simp (disch := decide) only [Op.buildInt, encB, asm_m, asm_d, asm_vbI, Raw.ty_of, mTy_ty, asm_va _ _ _ _ _ _ _ _ a ha,
      Option.bind_some, Ty.ofCode_code]
  all_goals simp
theorem bfi (t : Ty) (d : Reg) (a : VArg) (b : VArgI) (c : VArg) : Statement (.bfi t d a b c) := by
  intro r hw hr
  obtain rfl := Option.some.inj hr
  refine decode_of .bfi hw rfl (asm_op ..) fun hi ho => ?_
  show Op.buildInt .bfi _ = _
  have ha : a.fits b.immediate := by
    cases b
    · exact .inl rfl
    · exact .inr (by simpa [Instr.immFits] using (Bool.and_eq_true _ _ ▸ hi).1)
  have hc : c.fits b.immediate := by
    cases b
    · exact .inl rfl
    · exact .inr (by simpa [Instr.immFits] using (Bool.and_eq_true _ _ ▸ hi).2)
  simp (disch := decide) only [Op.buildInt, encB, asm_m, asm_d, asm_vbI, Raw.ty_of, mTy_ty, asm_va _ _ _ _ _ _ _ _ a ha,
      asm_vc _ _ _ _ _ _ _ _ c hc, Option.bind_some, Ty.ofCode_code]
  all_goals simp
theorem popc (t : Ty) (d : Reg) (a : VArgI) : Statement (.popc t d a) := by
  intro r hw hr
  obtain rfl := Option.some.inj hr
  refine decode_of .popc hw rfl (asm_op ..) fun hi ho => ?_
  show Op.buildInt .popc _ = _
  simp (disch := decide) only [Op.buildInt, encU, asm_m, asm_d, asm_vaI, Raw.ty_of, mTy_ty, Option.bind_some,
      Ty.ofCode_code]
  all_goals simp
theorem clz (t : Ty) (d : Reg) (a : VArgI) : Statement (.clz t d a) := by
  intro r hw hr
  obtain rfl := Option.some.inj hr
  refine decode_of .clz hw rfl (asm_op ..) fun hi ho => ?_
  show Op.buildInt .clz _ = _
  simp (disch := decide) only [Op.buildInt, encU, asm_m, asm_d, asm_vaI, Raw.ty_of, mTy_ty, Option.bind_some,
      Ty.ofCode_code]
  all_goals simp
theorem icmp (cmp : Cmp) (t : Ty) (d : Reg) (a : VArg) (b : VArgI) : Statement (.icmp cmp t d a b) := by
  intro r hw hr
  obtain rfl := Option.some.inj hr
  refine decode_of .icmp hw rfl (asm_op ..) fun hi ho => ?_
  show Op.buildInt .icmp _ = _
  have ha : a.fits b.immediate := by cases b <;> [exact .inl rfl; exact .inr (by simpa [Instr.immFits] using hi)]
  simp (disch := decide) only [Op.buildInt, encB, asm_m, asm_d, asm_c, asm_vbI, Raw.ty_of, mTy_ty,
      asm_va _ _ _ _ _ _ _ _ a ha, BitVec.extractLsb'_append_eq_of_add_le, BitVec.extractLsb'_eq_self, Option.bind_some,
      Option.map_some, Ty.ofCode_code, Cmp.ofCode_code]
  all_goals simp
theorem lea (sh : BitVec 3) (t : Ty) (d : Reg) (a : VArg) (b : VArgI) : Statement (.lea sh t d a b) := by
  intro r hw hr
  obtain rfl := Option.some.inj hr
  refine decode_of .lea hw rfl (asm_op ..) fun hi ho => ?_
  show Op.buildInt .lea _ = _
  have ha : a.fits b.immediate := by cases b <;> [exact .inl rfl; exact .inr (by simpa [Instr.immFits] using hi)]
  simp (disch := decide) only [Op.buildInt, encB, asm_m, asm_d, asm_c, asm_vbI, Raw.ty_of, mTy_ty,
      asm_va _ _ _ _ _ _ _ _ a ha, BitVec.extractLsb'_append_eq_of_add_le, BitVec.extractLsb'_eq_self, Option.bind_some,
      Ty.ofCode_code]
  all_goals simp
theorem idot4 (t : Ty) (d : Reg) (a : VArg) (b : VArgI) (c : VArg) : Statement (.idot4 t d a b c) := by
  intro r hw hr
  obtain rfl := Option.some.inj hr
  refine decode_of .idot4 hw rfl (asm_op ..) fun hi ho => ?_
  show Op.buildInt .idot4 _ = _
  have ha : a.fits b.immediate := by
    cases b
    · exact .inl rfl
    · exact .inr (by simpa [Instr.immFits] using (Bool.and_eq_true _ _ ▸ hi).1)
  have hc : c.fits b.immediate := by
    cases b
    · exact .inl rfl
    · exact .inr (by simpa [Instr.immFits] using (Bool.and_eq_true _ _ ▸ hi).2)
  simp (disch := decide) only [Op.buildInt, encB, asm_m, asm_d, asm_vbI, Raw.ty_of, mTy_ty, asm_va _ _ _ _ _ _ _ _ a ha,
      asm_vc _ _ _ _ _ _ _ _ c hc, Option.bind_some, Ty.ofCode_code]
  all_goals simp
theorem mov (t : Ty) (d : Reg) (a : MovSrc) : Statement (.mov t d a) := by
  intro r hw hr
  cases a with
  | plain x =>
    obtain rfl := Option.some.inj hr
    refine decode_of .mov hw rfl (asm_op ..) fun _ _ => ?_
    show Op.buildInt .mov _ = _
    simp only [Op.buildInt, encU, Raw.ty_of, Raw.m54_of, asm_m, mTy_ty, mTy_m54, asm_d, asm_vaI, Ty.ofCode_code, Option.bind_some]
    simp
  | idx x ea b =>
    obtain rfl := Option.some.inj hr
    refine decode_of .mov hw rfl (asm_op ..) fun _ _ => ?_
    show Op.buildInt .mov _ = _
    simp only [Op.buildInt, Raw.ty_of, Raw.m54_of, asm_m, mTy_ty, mTy_m54, asm_d, asm_a, asm_ea, asm_ob, Ty.ofCode_code,
      Option.bind_some]
    simp
theorem fadd (t : Ty) (r : Rnd) (d : Reg) (a : VArg) (b : VArgI) : Statement (.fadd t r d a b) := by
  intro r hw hr
  obtain rfl := Option.some.inj hr
  refine decode_of .fadd hw rfl (asm_op ..) fun hi ho => ?_
  show Op.buildFloat .fadd _ = _
  have ha : a.fits b.immediate := by cases b <;> [exact .inl rfl; exact .inr (by simpa [Instr.immFits] using hi)]
  simp (disch := decide) only [Op.buildFloat, encB, asm_m, asm_d, asm_rnd, asm_vbI, Raw.ty_of, mTy_ty,
      asm_va _ _ _ _ _ _ _ _ a ha, Option.bind_some, Ty.ofCode_code, Rnd.ofCode_code]
  all_goals simp
theorem fsub (t : Ty) (r : Rnd) (d : Reg) (a : VArg) (b : VArgI) : Statement (.fsub t r d a b) := by
  intro r hw hr
  obtain rfl := Option.some.inj hr
  refine decode_of .fsub hw rfl (asm_op ..) fun hi ho => ?_
  show Op.buildFloat .fsub _ = _
  have ha : a.fits b.immediate := by cases b <;> [exact .inl rfl; exact .inr (by simpa [Instr.immFits] using hi)]
  simp (disch := decide) only [Op.buildFloat, encB, asm_m, asm_d, asm_rnd, asm_vbI, Raw.ty_of, mTy_ty,
      asm_va _ _ _ _ _ _ _ _ a ha, Option.bind_some, Ty.ofCode_code, Rnd.ofCode_code]
  all_goals simp
theorem fmul (t : Ty) (r : Rnd) (d : Reg) (a : VArg) (b : VArgI) : Statement (.fmul t r d a b) := by
  intro r hw hr
  obtain rfl := Option.some.inj hr
  refine decode_of .fmul hw rfl (asm_op ..) fun hi ho => ?_
  show Op.buildFloat .fmul _ = _
  have ha : a.fits b.immediate := by cases b <;> [exact .inl rfl; exact .inr (by simpa [Instr.immFits] using hi)]
  simp (disch := decide) only [Op.buildFloat, encB, asm_m, asm_d, asm_rnd, asm_vbI, Raw.ty_of, mTy_ty,
      asm_va _ _ _ _ _ _ _ _ a ha, Option.bind_some, Ty.ofCode_code, Rnd.ofCode_code]
  all_goals simp
theorem ffma (t : Ty) (r : Rnd) (d : Reg) (a : VArg) (b : VArgI) (c : VArg) : Statement (.ffma t r d a b c) := by
  intro r hw hr
  obtain rfl := Option.some.inj hr
  refine decode_of .ffma hw rfl (asm_op ..) fun hi ho => ?_
  show Op.buildFloat .ffma _ = _
  have ha : a.fits b.immediate := by
    cases b
    · exact .inl rfl
    · exact .inr (by simpa [Instr.immFits] using (Bool.and_eq_true _ _ ▸ hi).1)
  have hc : c.fits b.immediate := by
    cases b
    · exact .inl rfl
    · exact .inr (by simpa [Instr.immFits] using (Bool.and_eq_true _ _ ▸ hi).2)
  simp (disch := decide) only [Op.buildFloat, encB, asm_m, asm_d, asm_rnd, asm_vbI, Raw.ty_of, mTy_ty,
      asm_va _ _ _ _ _ _ _ _ a ha, asm_vc _ _ _ _ _ _ _ _ c hc, Option.bind_some, Ty.ofCode_code, Rnd.ofCode_code]
  all_goals simp
theorem fmin (t : Ty) (d : Reg) (a : VArg) (b : VArgI) : Statement (.fmin t d a b) := by
  intro r hw hr
  obtain rfl := Option.some.inj hr
  refine decode_of .fmin hw rfl (asm_op ..) fun hi ho => ?_
  show Op.buildFloat .fmin _ = _
  have ha : a.fits b.immediate := by cases b <;> [exact .inl rfl; exact .inr (by simpa [Instr.immFits] using hi)]
  simp (disch := decide) only [Op.buildFloat, encB, asm_m, asm_d, asm_rnd, asm_vbI, Raw.ty_of, mTy_ty,
      asm_va _ _ _ _ _ _ _ _ a ha, Option.bind_some, Ty.ofCode_code]
  all_goals simp
theorem fmax (t : Ty) (d : Reg) (a : VArg) (b : VArgI) : Statement (.fmax t d a b) := by
  intro r hw hr
  obtain rfl := Option.some.inj hr
  refine decode_of .fmax hw rfl (asm_op ..) fun hi ho => ?_
  show Op.buildFloat .fmax _ = _
  have ha : a.fits b.immediate := by cases b <;> [exact .inl rfl; exact .inr (by simpa [Instr.immFits] using hi)]
  simp (disch := decide) only [Op.buildFloat, encB, asm_m, asm_d, asm_rnd, asm_vbI, Raw.ty_of, mTy_ty,
      asm_va _ _ _ _ _ _ _ _ a ha, Option.bind_some, Ty.ofCode_code]
  all_goals simp
theorem fcmp (cmp : Cmp) (d : Reg) (a : VArg) (b : VArgI) : Statement (.fcmp cmp d a b) := by
  intro r hw hr
  obtain rfl := Option.some.inj hr
  refine decode_of .fcmp hw rfl (asm_op ..) fun hi ho => ?_
  show Op.buildFloat .fcmp _ = _
  have ha : a.fits b.immediate := by cases b <;> [exact .inl rfl; exact .inr (by simpa [Instr.immFits] using hi)]
  simp (disch := decide) only [Op.buildFloat, encB, asm_m, asm_d, asm_c, asm_rnd, asm_vbI, Raw.ty_of, mTy_ty,
      asm_va _ _ _ _ _ _ _ _ a ha, BitVec.extractLsb'_append_eq_of_add_le, BitVec.extractLsb'_eq_self, Option.bind_some,
      Option.map_some, Ty.ofCode_code, Cmp.ofCode_code]
  all_goals simp
theorem frcp (t : Ty) (r : Rnd) (d : Reg) (a : VArgI) : Statement (.frcp t r d a) := by
  intro r hw hr
  obtain rfl := Option.some.inj hr
  refine decode_of .frcp hw rfl (asm_op ..) fun hi ho => ?_
  show Op.buildFloat .frcp _ = _
  simp (disch := decide) only [Op.buildFloat, encU, asm_m, asm_d, asm_rnd, asm_vaI, Raw.ty_of, mTy_ty, Option.bind_some,
      Ty.ofCode_code, Rnd.ofCode_code]
  all_goals simp
theorem frsq (t : Ty) (d : Reg) (a : VArgI) : Statement (.frsq t d a) := by
  intro r hw hr
  obtain rfl := Option.some.inj hr
  refine decode_of .frsq hw rfl (asm_op ..) fun hi ho => ?_
  show Op.buildFloat .frsq _ = _
  simp (disch := decide) only [Op.buildFloat, encU, asm_m, asm_d, asm_rnd, asm_vaI, Raw.ty_of, mTy_ty, Option.bind_some,
      Ty.ofCode_code]
  all_goals simp
theorem fsqrt (t : Ty) (r : Rnd) (d : Reg) (a : VArgI) : Statement (.fsqrt t r d a) := by
  intro r hw hr
  obtain rfl := Option.some.inj hr
  refine decode_of .fsqrt hw rfl (asm_op ..) fun hi ho => ?_
  show Op.buildFloat .fsqrt _ = _
  simp (disch := decide) only [Op.buildFloat, encU, asm_m, asm_d, asm_rnd, asm_vaI, Raw.ty_of, mTy_ty, Option.bind_some,
      Ty.ofCode_code, Rnd.ofCode_code]
  all_goals simp
theorem fexp2 (t : Ty) (d : Reg) (a : VArgI) : Statement (.fexp2 t d a) := by
  intro r hw hr
  obtain rfl := Option.some.inj hr
  refine decode_of .fexp2 hw rfl (asm_op ..) fun hi ho => ?_
  show Op.buildFloat .fexp2 _ = _
  simp (disch := decide) only [Op.buildFloat, encU, asm_m, asm_d, asm_rnd, asm_vaI, Raw.ty_of, mTy_ty, Option.bind_some,
      Ty.ofCode_code]
  all_goals simp
theorem flog2 (t : Ty) (d : Reg) (a : VArgI) : Statement (.flog2 t d a) := by
  intro r hw hr
  obtain rfl := Option.some.inj hr
  refine decode_of .flog2 hw rfl (asm_op ..) fun hi ho => ?_
  show Op.buildFloat .flog2 _ = _
  simp (disch := decide) only [Op.buildFloat, encU, asm_m, asm_d, asm_rnd, asm_vaI, Raw.ty_of, mTy_ty, Option.bind_some,
      Ty.ofCode_code]
  all_goals simp
theorem fsin (t : Ty) (d : Reg) (a : VArgI) : Statement (.fsin t d a) := by
  intro r hw hr
  obtain rfl := Option.some.inj hr
  refine decode_of .fsin hw rfl (asm_op ..) fun hi ho => ?_
  show Op.buildFloat .fsin _ = _
  simp (disch := decide) only [Op.buildFloat, encU, asm_m, asm_d, asm_rnd, asm_vaI, Raw.ty_of, mTy_ty, Option.bind_some,
      Ty.ofCode_code]
  all_goals simp
theorem fcos (t : Ty) (d : Reg) (a : VArgI) : Statement (.fcos t d a) := by
  intro r hw hr
  obtain rfl := Option.some.inj hr
  refine decode_of .fcos hw rfl (asm_op ..) fun hi ho => ?_
  show Op.buildFloat .fcos _ = _
  simp (disch := decide) only [Op.buildFloat, encU, asm_m, asm_d, asm_rnd, asm_vaI, Raw.ty_of, mTy_ty, Option.bind_some,
      Ty.ofCode_code]
  all_goals simp
theorem ftanh (t : Ty) (d : Reg) (a : VArgI) : Statement (.ftanh t d a) := by
  intro r hw hr
  obtain rfl := Option.some.inj hr
  refine decode_of .ftanh hw rfl (asm_op ..) fun hi ho => ?_
  show Op.buildFloat .ftanh _ = _
  simp (disch := decide) only [Op.buildFloat, encU, asm_m, asm_d, asm_rnd, asm_vaI, Raw.ty_of, mTy_ty, Option.bind_some,
      Ty.ofCode_code]
  all_goals simp
theorem fclass (d : Reg) (a : VArgI) : Statement (.fclass d a) := by
  intro r hw hr
  obtain rfl := Option.some.inj hr
  refine decode_of .fclass hw rfl (asm_op ..) fun hi ho => ?_
  show Op.buildFloat .fclass _ = _
  simp (disch := decide) only [Op.buildFloat, encU, asm_m, asm_d, asm_rnd, asm_vaI, Raw.ty_of, mTy_ty, Option.bind_some,
      Ty.ofCode_code]
  all_goals simp
theorem fdot2 (t : Ty) (r : Rnd) (d : Reg) (a : VArg) (b : VArgI) (c : VArg) : Statement (.fdot2 t r d a b c) := by
  intro r hw hr
  obtain rfl := Option.some.inj hr
  refine decode_of .fdot2 hw rfl (asm_op ..) fun hi ho => ?_
  show Op.buildFloat .fdot2 _ = _
  have ha : a.fits b.immediate := by
    cases b
    · exact .inl rfl
    · exact .inr (by simpa [Instr.immFits] using (Bool.and_eq_true _ _ ▸ hi).1)
  have hc : c.fits b.immediate := by
    cases b
    · exact .inl rfl
    · exact .inr (by simpa [Instr.immFits] using (Bool.and_eq_true _ _ ▸ hi).2)
  simp (disch := decide) only [Op.buildFloat, encB, asm_m, asm_d, asm_rnd, asm_vbI, Raw.ty_of, mTy_ty,
      asm_va _ _ _ _ _ _ _ _ a ha, asm_vc _ _ _ _ _ _ _ _ c hc, Option.bind_some, Ty.ofCode_code, Rnd.ofCode_code]
  all_goals simp
theorem pfma (t : Ty) (r : Rnd) (d : Reg) (a : VArg) (b : VArgI) (c : VArg) : Statement (.pfma t r d a b c) := by
  intro r hw hr
  obtain rfl := Option.some.inj hr
  refine decode_of .pfma hw rfl (asm_op ..) fun hi ho => ?_
  show Op.buildFloat .pfma _ = _
  have ha : a.fits b.immediate := by
    cases b
    · exact .inl rfl
    · exact .inr (by simpa [Instr.immFits] using (Bool.and_eq_true _ _ ▸ hi).1)
  have hc : c.fits b.immediate := by
    cases b
    · exact .inl rfl
    · exact .inr (by simpa [Instr.immFits] using (Bool.and_eq_true _ _ ▸ hi).2)
  simp (disch := decide) only [Op.buildFloat, encB, asm_m, asm_d, asm_rnd, asm_vbI, Raw.ty_of, mTy_ty,
      asm_va _ _ _ _ _ _ _ _ a ha, asm_vc _ _ _ _ _ _ _ _ c hc, Option.bind_some, Ty.ofCode_code, Rnd.ofCode_code]
  all_goals simp
theorem padd (t : Ty) (r : Rnd) (d : Reg) (a : VArg) (b : VArgI) : Statement (.padd t r d a b) := by
  intro r hw hr
  obtain rfl := Option.some.inj hr
  refine decode_of .padd hw rfl (asm_op ..) fun hi ho => ?_
  show Op.buildFloat .padd _ = _
  have ha : a.fits b.immediate := by cases b <;> [exact .inl rfl; exact .inr (by simpa [Instr.immFits] using hi)]
  simp (disch := decide) only [Op.buildFloat, encB, asm_m, asm_d, asm_rnd, asm_vbI, Raw.ty_of, mTy_ty,
      asm_va _ _ _ _ _ _ _ _ a ha, Option.bind_some, Ty.ofCode_code, Rnd.ofCode_code]
  all_goals simp
theorem fscale (t : Ty) (r : Rnd) (d : Reg) (a : VArg) (b : VArgI) : Statement (.fscale t r d a b) := by
  intro r hw hr
  obtain rfl := Option.some.inj hr
  refine decode_of .fscale hw rfl (asm_op ..) fun hi ho => ?_
  show Op.buildFloat .fscale _ = _
  have ha : a.fits b.immediate := by cases b <;> [exact .inl rfl; exact .inr (by simpa [Instr.immFits] using hi)]
  simp (disch := decide) only [Op.buildFloat, encB, asm_m, asm_d, asm_rnd, asm_vbI, Raw.ty_of, mTy_ty,
      asm_va _ _ _ _ _ _ _ _ a ha, Option.bind_some, Ty.ofCode_code, Rnd.ofCode_code]
  all_goals simp
theorem cvt (dt : Ty) (st : Ty) (r : Rnd) (d : Reg) (a : VArgI) : Statement (.cvt dt st r d a) := by
  intro r hw hr
  obtain rfl := Option.some.inj hr
  refine decode_of .cvt hw rfl (asm_op ..) fun hi ho => ?_
  show Op.buildFloat .cvt _ = _
  simp (disch := decide) only [Op.buildFloat, encU, asm_m, asm_d, asm_c, asm_rnd, asm_vaI, Raw.ty_of, mTy_ty,
      BitVec.extractLsb'_append_eq_of_add_le, BitVec.extractLsb'_eq_self, Option.bind_some, Option.map_some,
      Ty.ofCode_code, Rnd.ofCode_code]
  all_goals simp
theorem pack (f : Fmt) (sat : Bool) (t : Ty) (p : BitVec 2) (r : Rnd) (d : Reg) (a : VArg) (b : VArgI) : Statement (.pack f sat t p r d a b) := by
  intro r hw hr
  obtain rfl := Option.some.inj hr
  refine decode_of .pack hw rfl (asm_op ..) fun hi ho => ?_
  show Op.buildFloat .pack _ = _
  have ha : a.fits b.immediate := by cases b <;> [exact .inl rfl; exact .inr (by simpa [Instr.immFits] using hi)]
  simp (disch := decide) only [Op.buildFloat, encB, asm_m, asm_d, asm_c, asm_rnd, asm_vbI, Raw.ty_of, Raw.m54_of, mTy_ty,
      mTy_m54, asm_va _ _ _ _ _ _ _ _ a ha, BitVec.extractLsb'_append_eq_of_add_le, BitVec.getLsbD_append, getLsbD_b1,
      BitVec.extractLsb'_eq_self, Nat.sub_self, Option.bind_some, Option.map_some, Ty.ofCode_code, Fmt.ofCode_code,
      Rnd.ofCode_code]
  all_goals simp
theorem unpk (t : Ty) (f : Fmt) (e : BitVec 3) (r : Rnd) (d : Reg) (a : VArgI) : Statement (.unpk t f e r d a) := by
  intro r hw hr
  obtain rfl := Option.some.inj hr
  refine decode_of .unpk hw rfl (asm_op ..) fun hi ho => ?_
  show Op.buildFloat .unpk _ = _
  simp (disch := decide) only [Op.buildFloat, encU, asm_m, asm_d, asm_c, asm_rnd, asm_vaI, Raw.ty_of, mTy_ty,
      BitVec.extractLsb'_append_eq_of_add_le, BitVec.extractLsb'_append_eq_of_le, BitVec.extractLsb'_eq_self, Nat.sub_self,
      Option.bind_some, Option.map_some, Ty.ofCode_code, Fmt.ofCode_code, Rnd.ofCode_code]
  all_goals simp
theorem pres (t : Ty) (d : Reg) (a : VArgI) : Statement (.pres t d a) := by
  intro r hw hr
  obtain rfl := Option.some.inj hr
  refine decode_of .pres hw rfl (asm_op ..) fun hi ho => ?_
  show Op.buildFloat .pres _ = _
  simp (disch := decide) only [Op.buildFloat, encU, asm_m, asm_d, asm_rnd, asm_vaI, Raw.ty_of, mTy_ty, Option.bind_some,
      Ty.ofCode_code]
  all_goals simp
theorem fill (t : Ty) (d : Reg) (a : VArg) (b : VArgI) : Statement (.fill t d a b) := by
  intro r hw hr
  obtain rfl := Option.some.inj hr
  refine decode_of .fill hw rfl (asm_op ..) fun hi ho => ?_
  show Op.buildLane .fill _ = _
  have ha : a.fits b.immediate := by cases b <;> [exact .inl rfl; exact .inr (by simpa [Instr.immFits] using hi)]
  simp (disch := decide) only [Op.buildLane, encB, asm_m, asm_d, asm_vbI, Raw.ty_of, mTy_ty, asm_va _ _ _ _ _ _ _ _ a ha,
      Option.bind_some, Ty.ofCode_code]
  all_goals simp
theorem mkab (t : Ty) (d : Reg) (a : VArg) (c : Reg) : Statement (.mkab t d a c) := by
  intro r hw hr
  obtain rfl := Option.some.inj hr
  refine decode_of .mkab hw rfl (asm_op ..) fun hi ho => ?_
  show Op.buildLane .mkab _ = _
  simp (disch := decide) only [Op.buildLane, asm_m, asm_d, asm_b, Raw.ty_of, mTy_ty, asm_va _ _ _ _ _ _ _ _ a (.inl rfl),
      Option.bind_some, Reg.fld, Ty.ofCode_code]
  all_goals simp
theorem tsel (t : Ty) (d : Reg) (a : VArg) (b : VArgI) (c : Reg) : Statement (.tsel t d a b c) := by
  intro r hw hr
  obtain rfl := Option.some.inj hr
  refine decode_of .tsel hw rfl (asm_op ..) fun hi ho => ?_
  show Op.buildLane .tsel _ = _
  have ha : a.fits b.immediate := by cases b <;> [exact .inl rfl; exact .inr (by simpa [Instr.immFits] using hi)]
  simp (disch := decide) only [Op.buildLane, encB, asm_m, asm_d, asm_c, asm_vbI, Raw.ty_of, mTy_ty,
      asm_va _ _ _ _ _ _ _ _ a ha, Option.bind_some, Reg.fld, Ty.ofCode_code]
  all_goals simp
theorem tlog (op : LogOp) (d : Reg) (a : Reg) (b : Reg) : Statement (.tlog op d a b) := by
  intro r hw hr
  obtain rfl := Option.some.inj hr
  refine decode_of .tlog hw rfl (asm_op ..) fun hi ho => ?_
  show Op.buildLane .tlog _ = _
  simp (disch := decide) only [Op.buildLane, asm_m, asm_d, asm_a, asm_b, Raw.m10_of,
      BitVec.extractLsb'_append_eq_of_add_le, BitVec.extractLsb'_eq_self, Option.map_some, Reg.fld, LogOp.ofCode_code]
  all_goals simp
theorem tval (t : Ty) (d : Reg) (a : Reg) : Statement (.tval t d a) := by
  intro r hw hr
  obtain rfl := Option.some.inj hr
  refine decode_of .tval hw rfl (asm_op ..) fun hi ho => ?_
  show Op.buildLane .tval _ = _
  simp (disch := decide) only [Op.buildLane, asm_m, asm_d, asm_a, Raw.ty_of, mTy_ty, Option.bind_some, Reg.fld,
      Ty.ofCode_code]
  all_goals simp
theorem frnd (t : Ty) (r : Rnd) (d : Reg) (a : VArgI) : Statement (.frnd t r d a) := by
  intro r hw hr
  obtain rfl := Option.some.inj hr
  refine decode_of .frnd hw rfl (asm_op ..) fun hi ho => ?_
  show Op.buildLane .frnd _ = _
  simp (disch := decide) only [Op.buildLane, encU, asm_m, asm_d, asm_rnd, asm_vaI, Raw.ty_of, mTy_ty, Option.bind_some,
      Option.map_some, Ty.ofCode_code, Rnd.ofCode_code]
  all_goals simp
theorem shfl (m : ShMode) (t : Ty) (d : Reg) (a : VArg) (b : VArgI) : Statement (.shfl m t d a b) := by
  intro r hw hr
  obtain rfl := Option.some.inj hr
  refine decode_of .shfl hw rfl (asm_op ..) fun hi ho => ?_
  show Op.buildLane .shfl _ = _
  have ha : a.fits b.immediate := by cases b <;> [exact .inl rfl; exact .inr (by simpa [Instr.immFits] using hi)]
  simp (disch := decide) only [Op.buildLane, encB, asm_m, asm_d, asm_vbI, Raw.ty_of, Raw.m54_of, mTy_ty, mTy_m54,
      asm_va _ _ _ _ _ _ _ _ a ha, Option.bind_some, Option.map_some, Ty.ofCode_code, ShMode.ofCode_code]
  all_goals simp
theorem prm (t : Ty) (d : Reg) (a : VArg) (b : VArgI) (c : VArg) : Statement (.prm t d a b c) := by
  intro r hw hr
  obtain rfl := Option.some.inj hr
  refine decode_of .prm hw rfl (asm_op ..) fun hi ho => ?_
  show Op.buildLane .prm _ = _
  have ha : a.fits b.immediate := by
    cases b
    · exact .inl rfl
    · exact .inr (by simpa [Instr.immFits] using (Bool.and_eq_true _ _ ▸ hi).1)
  have hc : c.fits b.immediate := by
    cases b
    · exact .inl rfl
    · exact .inr (by simpa [Instr.immFits] using (Bool.and_eq_true _ _ ▸ hi).2)
  simp (disch := decide) only [Op.buildLane, encB, asm_m, asm_d, asm_vbI, Raw.ty_of, mTy_ty, asm_va _ _ _ _ _ _ _ _ a ha,
      asm_vc _ _ _ _ _ _ _ _ c hc, Option.bind_some, Ty.ofCode_code]
  all_goals simp
theorem vote (kind : VoteKind) (d : Reg) (a : Reg) : Statement (.vote kind d a) := by
  intro r hw hr
  obtain rfl := Option.some.inj hr
  refine decode_of .vote hw rfl (asm_op ..) fun hi ho => ?_
  show Op.buildLane .vote _ = _
  simp (disch := decide) only [Op.buildLane, asm_m, asm_d, asm_a, Raw.m10_of, BitVec.extractLsb'_append_eq_of_add_le,
      BitVec.extractLsb'_eq_self, Option.map_some, Reg.fld, VoteKind.ofCode_code]
  all_goals simp
theorem ballot (d : Reg) (a : Reg) : Statement (.ballot d a) := by
  intro r hw hr
  obtain rfl := Option.some.inj hr
  refine decode_of .ballot hw rfl (asm_op ..) fun hi ho => ?_
  show Op.buildLane .ballot _ = _
  simp (disch := decide) only [Op.buildLane, asm_d, asm_a, Reg.fld]
  all_goals simp
theorem red (op : RedOp) (cnt : Bool) (t : Ty) (d : Reg) (a : VArgI) : Statement (.red op cnt t d a) := by
  intro r hw hr
  obtain rfl := Option.some.inj hr
  refine decode_of .red hw rfl (asm_op ..) fun hi ho => ?_
  show Op.buildLane .red _ = _
  simp (disch := decide) only [Op.buildLane, encU, asm_m, asm_d, asm_c, asm_vaI, Raw.ty_of, Raw.m54_of, mTy_ty, mTy_m54,
      BitVec.getLsbD_append, getLsbD_b1, Option.bind_some, Option.map_some, Ty.ofCode_code, RedOp.ofCode_code]
  all_goals simp
theorem scan (op : RedOp) (cnt : Bool) (t : Ty) (d : Reg) (a : VArgI) : Statement (.scan op cnt t d a) := by
  intro r hw hr
  obtain rfl := Option.some.inj hr
  refine decode_of .scan hw rfl (asm_op ..) fun hi ho => ?_
  show Op.buildLane .scan _ = _
  simp (disch := decide) only [Op.buildLane, encU, asm_m, asm_d, asm_c, asm_vaI, Raw.ty_of, Raw.m54_of, mTy_ty, mTy_m54,
      BitVec.getLsbD_append, getLsbD_b1, Option.bind_some, Option.map_some, Ty.ofCode_code, RedOp.ofCode_code]
  all_goals simp
theorem laneMatch (all : Bool) (t : Ty) (d : Reg) (a : VArgI) : Statement (.laneMatch all t d a) := by
  intro r hw hr
  obtain rfl := Option.some.inj hr
  refine decode_of .laneMatch hw rfl (asm_op ..) fun hi ho => ?_
  show Op.buildLane .laneMatch _ = _
  simp (disch := decide) only [Op.buildLane, encU, asm_m, asm_d, asm_vaI, Raw.ty_of, Raw.m4_of, mTy_ty, mTy_4,
      BitVec.getLsbD_append, getLsbD_b1, Option.bind_some, Ty.ofCode_code]
  all_goals simp
theorem elect (d : Reg) (a : Option Reg) : Statement (.elect d a) := by
  cases a
  all_goals
    intro r hw hr
    obtain rfl := Option.some.inj hr
    refine decode_of .elect hw rfl (asm_op ..) fun hi ho => ?_
    show Op.buildLane .elect _ = _
    simp (disch := decide) only [Op.buildLane, asm_m, asm_d, asm_a, asm_b, asm_c, asm_rnd, asm_w2, asm_vaI, asm_vbI, asm_sa, asm_sb, asm_sc, asm_saI, asm_sbI, asm_oa, asm_ob, asm_oc, Raw.ty_of, Raw.m54_of, Raw.m10_of, Raw.m42_of, Raw.m32_of, Raw.fmt_of, Raw.m5_of, Raw.m4_of, Raw.m0_of, mTy_ty, mTy_m54, mTy_4, mTy_5, mS_m10, mS_m42, BitVec.extractLsb'_append_eq_of_add_le, BitVec.extractLsb'_append_eq_of_le, BitVec.getLsbD_append, getLsbD_b1, BitVec.extractLsb'_eq_self, Nat.sub_self, Option.bind_some, Option.map_some, Reg.fld, Ty.ofCode_code, STy.ofCode_code, Fmt.ofCode_code, Rnd.ofCode_code, Cmp.ofCode_code, Disp.ofCode_code, Scope.ofCode_code, LogOp.ofCode_code, RedOp.ofCode_code, ShMode.ofCode_code, VoteKind.ofCode_code, AtomOp.ofCode_code, AOrd.ofCode_code, FOrd.ofCode_code, GMode.ofCode_code, CollKind.ofCode_code]
    all_goals simp
theorem ld (sc : Scope) (t : Ty) (d : Reg) (m : MemArg) : Statement (.ld sc t d m) := by
  intro r hw hr
  obtain rfl := Option.some.inj hr
  refine decode_of .ld hw rfl (asm_op ..) fun hi ho => ?_
  show Op.buildMem .ld _ = _
  simp (disch := decide) only [Op.buildMem, encM_mem, encM_ty, encM_c, encM_d, ctl_scope, Raw.cScope, Option.bind_some,
      Ty.ofCode_code, Scope.ofCode_code]
  all_goals simp
theorem st (sc : Scope) (t : Ty) (src : StSrc) (m : MemArg) : Statement (.st sc t src m) := by
  intro r hw hr
  obtain rfl := Option.some.inj hr
  refine decode_of .st hw rfl (asm_op ..) fun hi ho => ?_
  show Op.buildMem .st _ = _
  simp (disch := decide) only [Op.buildMem, encM_mem, encM_src, encM_ty, encM_c, ctl_scope, Raw.cScope, Option.bind_some,
      Ty.ofCode_code, Scope.ofCode_code]
  all_goals simp
theorem lds (sc : Scope) (t : Ty) (d : Reg) (m : MemArg) : Statement (.lds sc t d m) := by
  intro r hw hr
  obtain rfl := Option.some.inj hr
  refine decode_of .lds hw rfl (asm_op ..) fun hi ho => ?_
  show Op.buildMem .lds _ = _
  simp (disch := decide) only [Op.buildMem, encM_mem, encM_ty, encM_c, encM_d, ctl_scope, Raw.cScope, Option.bind_some,
      Ty.ofCode_code, Scope.ofCode_code]
  all_goals simp
theorem sts (sc : Scope) (t : Ty) (src : StSrc) (m : MemArg) : Statement (.sts sc t src m) := by
  intro r hw hr
  obtain rfl := Option.some.inj hr
  refine decode_of .sts hw rfl (asm_op ..) fun hi ho => ?_
  show Op.buildMem .sts _ = _
  simp (disch := decide) only [Op.buildMem, encM_mem, encM_src, encM_ty, encM_c, ctl_scope, Raw.cScope, Option.bind_some,
      Ty.ofCode_code, Scope.ofCode_code]
  all_goals simp
theorem ldu (sp : Bool) (sc : Scope) (t : Ty) (d : Reg) (m : MemArg) : Statement (.ldu sp sc t d m) := by
  intro r hw hr
  obtain rfl := Option.some.inj hr
  refine decode_of .ldu hw rfl (asm_op ..) fun hi ho => ?_
  show Op.buildMem .ldu _ = _
  simp (disch := decide) only [Op.buildMem, encM_mem, encM_ty, encM_c, encM_d, ctl_scope, ctl_3, Raw.cScope, Raw.cSp,
      Option.bind_some, Ty.ofCode_code, Scope.ofCode_code]
  all_goals simp
theorem stu (sp : Bool) (sc : Scope) (t : Ty) (d : Reg) (m : MemArg) : Statement (.stu sp sc t d m) := by
  intro r hw hr
  obtain rfl := Option.some.inj hr
  refine decode_of .stu hw rfl (asm_op ..) fun hi ho => ?_
  show Op.buildMem .stu _ = _
  simp (disch := decide) only [Op.buildMem, encM_mem, encM_ty, encM_c, encM_d, ctl_scope, ctl_3, Raw.cScope, Raw.cSp,
      Option.bind_some, Ty.ofCode_code, Scope.ofCode_code]
  all_goals simp
theorem lda (sp : Bool) (sc : Scope) (t : Ty) (d : Reg) (m : MemArg) : Statement (.lda sp sc t d m) := by
  intro r hw hr
  obtain rfl := Option.some.inj hr
  refine decode_of .lda hw rfl (asm_op ..) fun hi ho => ?_
  show Op.buildMem .lda _ = _
  simp (disch := decide) only [Op.buildMem, encM_mem, encM_ty, encM_c, encM_d, ctl_scope, ctl_3, Raw.cScope, Raw.cSp,
      Option.bind_some, Ty.ofCode_code, Scope.ofCode_code]
  all_goals simp
theorem stl (sp : Bool) (sc : Scope) (t : Ty) (src : StSrc) (m : MemArg) : Statement (.stl sp sc t src m) := by
  intro r hw hr
  obtain rfl := Option.some.inj hr
  refine decode_of .stl hw rfl (asm_op ..) fun hi ho => ?_
  show Op.buildMem .stl _ = _
  simp (disch := decide) only [Op.buildMem, encM_mem, encM_src, encM_ty, encM_c, ctl_scope, ctl_3, Raw.cScope, Raw.cSp,
      Option.bind_some, Ty.ofCode_code, Scope.ofCode_code]
  all_goals simp
theorem atom (op : AtomOp) (o : AOrd) (nr : Bool) (sc : Scope) (t : Ty) (d : Reg) (a : VArg) (b : VArgI) : Statement (.atom op o nr sc t d a b) := by
  intro r hw hr
  obtain rfl := Option.some.inj hr
  refine decode_of .atom hw rfl (asm_op ..) fun hi ho => ?_
  show Op.buildMem .atom _ = _
  have ha : a.fits b.immediate := by cases b <;> [exact .inl rfl; exact .inr (by simpa [Instr.immFits] using hi)]
  simp (disch := decide) only [Op.buildMem, encB, asm_m, asm_d, asm_c, asm_vbI, Raw.ty_of, Raw.m54_of, mTy_ty, mTy_m54,
      asm_va _ _ _ _ _ _ _ _ a ha, ctl_scope, ctl_hi, ctl_3, Raw.cScope, Raw.cSp, Raw.cHi, Option.bind_some,
      Option.map_some, Ty.ofCode_code, Scope.ofCode_code, AtomOp.ofCode_code, AOrd.ofCode_code]
  all_goals simp
theorem atoms (op : AtomOp) (o : AOrd) (nr : Bool) (sc : Scope) (t : Ty) (d : Reg) (a : VArg) (b : VArgI) : Statement (.atoms op o nr sc t d a b) := by
  intro r hw hr
  obtain rfl := Option.some.inj hr
  refine decode_of .atoms hw rfl (asm_op ..) fun hi ho => ?_
  show Op.buildMem .atoms _ = _
  have ha : a.fits b.immediate := by cases b <;> [exact .inl rfl; exact .inr (by simpa [Instr.immFits] using hi)]
  simp (disch := decide) only [Op.buildMem, encB, asm_m, asm_d, asm_c, asm_vbI, Raw.ty_of, Raw.m54_of, mTy_ty, mTy_m54,
      asm_va _ _ _ _ _ _ _ _ a ha, ctl_scope, ctl_hi, ctl_3, Raw.cScope, Raw.cSp, Raw.cHi, Option.bind_some,
      Option.map_some, Ty.ofCode_code, Scope.ofCode_code, AtomOp.ofCode_code, AOrd.ofCode_code]
  all_goals simp
theorem atomu (op : AtomOp) (o : AOrd) (sp : Bool) (sc : Scope) (t : Ty) (d : Reg) (a : SArg) (b : SArgI) : Statement (.atomu op o sp sc t d a b) := by
  intro r hw hr
  obtain rfl := Option.some.inj hr
  refine decode_of .atomu hw rfl (asm_op ..) fun hi ho => ?_
  show Op.buildMem .atomu _ = _
  simp (disch := decide) only [Op.buildMem, encS, asm_m, asm_d, asm_c, asm_sa, asm_sbI, Raw.ty_of, Raw.m54_of, mTy_ty,
      mTy_m54, ctl_scope, ctl_hi, ctl_3, Raw.cScope, Raw.cSp, Raw.cHi, Option.bind_some, Option.map_some, Ty.ofCode_code,
      Scope.ofCode_code, AtomOp.ofCode_code, AOrd.ofCode_code]
  all_goals simp
theorem fence (o : FOrd) (sc : Scope) : Statement (.fence o sc) := by
  intro r hw hr
  obtain rfl := Option.some.inj hr
  refine decode_of .fence hw rfl (asm1_op ..) fun hi ho => ?_
  show Op.buildMem .fence _ = _
  simp (disch := decide) only [Op.buildMem, asm1_m, Raw.m10_of, Raw.m42_of, BitVec.extractLsb'_append_eq_of_add_le,
      BitVec.extractLsb'_append_eq_of_le, BitVec.extractLsb'_eq_self, Nat.sub_self, Option.bind_some, Option.map_some,
      Scope.ofCode_code, FOrd.ofCode_code]
  all_goals simp
theorem waitv (cmp : Cmp) (acq : Bool) (sp : Bool) (sc : Scope) (t : Ty) (d : Reg) (a : SArg) (b : SArg) : Statement (.waitv cmp acq sp sc t d a b) := by
  intro r hw hr
  obtain rfl := Option.some.inj hr
  refine decode_of .waitv hw rfl (asm_op ..) fun hi ho => ?_
  show Op.buildMem .waitv _ = _
  simp (disch := decide) only [Op.buildMem, asm_m, asm_d, asm_c, asm_sa, asm_sb, Raw.ty_of, Raw.m4_of, mTy_ty, mTy_4,
      ctl_scope, ctl_3, ctl_cmp, Raw.cScope, Raw.cSp, BitVec.extractLsb'_append_eq_of_add_le, BitVec.getLsbD_append,
      getLsbD_b1, BitVec.extractLsb'_eq_self, Option.bind_some, Option.map_some, Ty.ofCode_code, Cmp.ofCode_code,
      Scope.ofCode_code]
  all_goals simp
theorem cflush (sc : Scope) (m : MemArg) : Statement (.cflush sc m) := by
  intro r hw hr
  obtain rfl := Option.some.inj hr
  refine decode_of .cflush hw rfl (asm_op ..) fun hi ho => ?_
  show Op.buildMem .cflush _ = _
  simp (disch := decide) only [Op.buildMem, encM_mem, encM_c, ctl_scope, Raw.cScope, Option.bind_some, Scope.ofCode_code]
  all_goals simp
theorem cinv (sc : Scope) (m : MemArg) : Statement (.cinv sc m) := by
  intro r hw hr
  obtain rfl := Option.some.inj hr
  refine decode_of .cinv hw rfl (asm_op ..) fun hi ho => ?_
  show Op.buildMem .cinv _ = _
  simp (disch := decide) only [Op.buildMem, encM_mem, encM_c, ctl_scope, Raw.cScope, Option.bind_some, Scope.ofCode_code]
  all_goals simp
theorem pref (sc : Scope) (m : MemArg) : Statement (.pref sc m) := by
  intro r hw hr
  obtain rfl := Option.some.inj hr
  refine decode_of .pref hw rfl (asm_op ..) fun hi ho => ?_
  show Op.buildMem .pref _ = _
  simp (disch := decide) only [Op.buildMem, encM_mem, encM_c, ctl_scope, Raw.cScope, Option.bind_some, Scope.ofCode_code]
  all_goals simp
theorem tlook (d : Reg) (a : Reg) : Statement (.tlook d a) := by
  intro r hw hr
  obtain rfl := Option.some.inj hr
  refine decode_of .tlook hw rfl (asm1_op ..) fun hi ho => ?_
  show Op.buildMem .tlook _ = _
  simp (disch := decide) only [Op.buildMem, asm1_d, asm1_a]
  all_goals simp
theorem tins (d : Reg) (a : Reg) : Statement (.tins d a) := by
  intro r hw hr
  obtain rfl := Option.some.inj hr
  refine decode_of .tins hw rfl (asm1_op ..) fun hi ho => ?_
  show Op.buildMem .tins _ = _
  simp (disch := decide) only [Op.buildMem, asm1_d, asm1_a]
  all_goals simp
theorem tdel (d : Reg) (a : Reg) : Statement (.tdel d a) := by
  intro r hw hr
  obtain rfl := Option.some.inj hr
  refine decode_of .tdel hw rfl (asm1_op ..) fun hi ho => ?_
  show Op.buildMem .tdel _ = _
  simp (disch := decide) only [Op.buildMem, asm1_d, asm1_a]
  all_goals simp
theorem msend (d : Reg) (a : SArg) (b : SArg) : Statement (.msend d a b) := by
  intro r hw hr
  obtain rfl := Option.some.inj hr
  refine decode_of .msend hw rfl (asm_op ..) fun hi ho => ?_
  show Op.buildMem .msend _ = _
  simp (disch := decide) only [Op.buildMem, asm_d, asm_sa, asm_sb]
  all_goals simp
theorem mpoll (d : Reg) (a : Reg) : Statement (.mpoll d a) := by
  intro r hw hr
  obtain rfl := Option.some.inj hr
  refine decode_of .mpoll hw rfl (asm1_op ..) fun hi ho => ?_
  show Op.buildMem .mpoll _ = _
  simp (disch := decide) only [Op.buildMem, asm1_d, asm1_a]
  all_goals simp
theorem mwait (d : Reg) (a : SArg) (b : SArg) : Statement (.mwait d a b) := by
  intro r hw hr
  obtain rfl := Option.some.inj hr
  refine decode_of .mwait hw rfl (asm_op ..) fun hi ho => ?_
  show Op.buildMem .mwait _ = _
  simp (disch := decide) only [Op.buildMem, asm_d, asm_sa, asm_sb]
  all_goals simp
theorem mpop (d : Reg) (a : Reg) : Statement (.mpop d a) := by
  intro r hw hr
  obtain rfl := Option.some.inj hr
  refine decode_of .mpop hw rfl (asm1_op ..) fun hi ho => ?_
  show Op.buildMem .mpop _ = _
  simp (disch := decide) only [Op.buildMem, asm1_d, asm1_a]
  all_goals simp
theorem cpy (st : Bool) (map : BitVec 4) (ch : BitVec 3) (sc : Scope) (d : Reg) (a : Reg) (b : Reg) : Statement (.cpy st map ch sc d a b) := by
  intro r hw hr
  obtain rfl := Option.some.inj hr
  refine decode_of .cpy hw rfl (asmE_op ..) fun hi ho => ?_
  show Op.buildCopy .cpy _ = _
  simp (disch := decide) only [Op.buildCopy, asmE_m, asmE_d, asmE_a, asmE_b, asmE_ectlScope, asmE_ectlCh, asmE_ectlResume,
      Raw.ty_of, Raw.m4_of, BitVec.extractLsb'_append_eq_of_add_le, BitVec.getLsbD_append, getLsbD_b1,
      BitVec.extractLsb'_eq_self, Nat.sub_self, Option.bind_some, Scope.ofCode_code]
  all_goals simp
theorem cpyResume (sc : Scope) (a : Reg) : Statement (.cpyResume sc a) := by
  intro r hw hr
  obtain rfl := Option.some.inj hr
  refine decode_of .cpy hw rfl (asmE_op ..) fun hi ho => ?_
  show Op.buildCopy .cpy _ = _
  simp (disch := decide) only [Op.buildCopy, asmE_m, asmE_d, asmE_a, asmE_b, asmE_ectlScope, asmE_ectlCh, asmE_ectlResume,
      Raw.ty_of, Raw.m4_of, Option.bind_some, Scope.ofCode_code]
  all_goals simp
theorem cpycsr (f : Fmt) (ch : BitVec 3) (sc : Scope) (d : Reg) (a : Reg) (b : Reg) (c : Reg) : Statement (.cpycsr f ch sc d a b c) := by
  intro r hw hr
  obtain rfl := Option.some.inj hr
  refine decode_of .cpycsr hw rfl (asmE_op ..) fun hi ho => ?_
  show Op.buildCopy .cpycsr _ = _
  simp (disch := decide) only [Op.buildCopy, asmE_m, asmE_d, asmE_a, asmE_b, asmE_c, asmE_ectlScope, asmE_ectlCh,
      Raw.fmt_of, BitVec.extractLsb'_append_eq_of_add_le, BitVec.extractLsb'_eq_self, Option.bind_some, Option.map_some,
      Fmt.ofCode_code, Scope.ofCode_code]
  all_goals simp
theorem gread (mode : GMode) (map : BitVec 4) (sc : Scope) (d : Reg) (a : Reg) (c : Reg) (off : Word) : Statement (.gread mode map sc d a c off) := by
  intro r hw hr
  obtain rfl := Option.some.inj hr
  refine decode_of .gread hw rfl (asmE_op ..) fun hi ho => ?_
  show Op.buildCopy .gread _ = _
  simp (disch := decide) only [Op.buildCopy, asmE_m, asmE_d, asmE_a, asmE_c, asmE_ectlScope, asmE_ectlResume, asmE_w2,
      Raw.ty_of, Raw.m54_of, BitVec.extractLsb'_append_eq_of_add_le, BitVec.extractLsb'_append_eq_of_le,
      BitVec.extractLsb'_eq_self, Nat.sub_self, Option.bind_some, Option.map_some, Scope.ofCode_code, GMode.ofCode_code]
  all_goals simp
theorem greadResume (sc : Scope) (a : Reg) : Statement (.greadResume sc a) := by
  intro r hw hr
  obtain rfl := Option.some.inj hr
  refine decode_of .gread hw rfl (asmE_op ..) fun hi ho => ?_
  show Op.buildCopy .gread _ = _
  simp (disch := decide) only [Op.buildCopy, asmE_m, asmE_d, asmE_a, asmE_c, asmE_ectlScope, asmE_ectlResume, Raw.ty_of,
      Raw.m54_of, Option.bind_some, Scope.ofCode_code]
  all_goals simp
theorem gdone : Statement .gdone := fun r hw hr => by
  cases hr
  exact decode_of (r := asm1 .gdone 0 0 0) .gdone hw rfl rfl fun _ _ => rfl
theorem binit (grp : Bool) (a : SArg) (b : SArgI) : Statement (.binit grp a b) := by
  intro r hw hr
  obtain rfl := Option.some.inj hr
  refine decode_of .binit hw rfl (asm_op ..) fun hi ho => ?_
  show Op.buildCopy .binit _ = _
  simp (disch := decide) only [Op.buildCopy, asm_m, asm_sa, asm_sbI, Raw.m0_of, BitVec.getLsbD_append, getLsbD_b1]
  all_goals simp
theorem barv (a : Reg) : Statement (.barv a) := by
  intro r hw hr
  obtain rfl := Option.some.inj hr
  refine decode_of .barv hw rfl (asm1_op ..) fun hi ho => ?_
  show Op.buildCopy .barv _ = _
  simp (disch := decide) only [Op.buildCopy, asm1_a]
  all_goals simp
theorem bexp (a : SArg) (b : SArgI) (c : Option SArg) : Statement (.bexp a b c) := by
  cases c
  all_goals
    intro r hw hr
    obtain rfl := Option.some.inj hr
    refine decode_of .bexp hw rfl (asm_op ..) fun hi ho => ?_
    show Op.buildCopy .bexp _ = _
    simp (disch := decide) only [Op.buildCopy, asm_m, asm_d, asm_a, asm_b, asm_c, asm_rnd, asm_w2, asm_vaI, asm_vbI, asm_sa, asm_sb, asm_sc, asm_saI, asm_sbI, asm_oa, asm_ob, asm_oc, Raw.ty_of, Raw.m54_of, Raw.m10_of, Raw.m42_of, Raw.m32_of, Raw.fmt_of, Raw.m5_of, Raw.m4_of, Raw.m0_of, mTy_ty, mTy_m54, mTy_4, mTy_5, mS_m10, mS_m42, BitVec.extractLsb'_append_eq_of_add_le, BitVec.extractLsb'_append_eq_of_le, BitVec.getLsbD_append, getLsbD_b1, BitVec.extractLsb'_eq_self, Nat.sub_self, Option.bind_some, Option.map_some, Reg.fld, Ty.ofCode_code, STy.ofCode_code, Fmt.ofCode_code, Rnd.ofCode_code, Cmp.ofCode_code, Disp.ofCode_code, Scope.ofCode_code, LogOp.ofCode_code, RedOp.ofCode_code, ShMode.ofCode_code, VoteKind.ofCode_code, AtomOp.ofCode_code, AOrd.ofCode_code, FOrd.ofCode_code, GMode.ofCode_code, CollKind.ofCode_code]
    all_goals simp
theorem bwait (d : Reg) (a : Reg) : Statement (.bwait d a) := by
  intro r hw hr
  obtain rfl := Option.some.inj hr
  refine decode_of .bwait hw rfl (asm1_op ..) fun hi ho => ?_
  show Op.buildCopy .bwait _ = _
  simp (disch := decide) only [Op.buildCopy, asm1_d, asm1_a]
  all_goals simp
theorem binv (a : Reg) : Statement (.binv a) := by
  intro r hw hr
  obtain rfl := Option.some.inj hr
  refine decode_of .binv hw rfl (asm1_op ..) fun hi ho => ?_
  show Op.buildCopy .binv _ = _
  simp (disch := decide) only [Op.buildCopy, asm1_a]
  all_goals simp
theorem btest (d : Reg) (a : Reg) : Statement (.btest d a) := by
  intro r hw hr
  obtain rfl := Option.some.inj hr
  refine decode_of .btest hw rfl (asm1_op ..) fun hi ho => ?_
  show Op.buildCopy .btest _ = _
  simp (disch := decide) only [Op.buildCopy, asm1_d, asm1_a]
  all_goals simp
theorem cnd (f : Fmt) (sc : Scope) (a : Reg) (b : Reg) : Statement (.cnd f sc a b) := by
  intro r hw hr
  obtain rfl := Option.some.inj hr
  refine decode_of .cnd hw rfl (asmE_op ..) fun hi ho => ?_
  show Op.buildMatrix .cnd _ = _
  simp (disch := decide) only [Op.buildMatrix, asmE_m, asmE_a, asmE_b, asmE_ectlScope, Raw.fmt_of,
      BitVec.extractLsb'_append_eq_of_add_le, BitVec.extractLsb'_eq_self, Option.bind_some, Option.map_some,
      Fmt.ofCode_code, Scope.ofCode_code]
  all_goals simp
theorem mma (fa : Fmt) (fb : Fmt) (d : Reg) (a : VArg) (b : SArg) : Statement (.mma fa fb d a b) := by
  intro r hw hr
  obtain rfl := Option.some.inj hr
  refine decode_of .mma hw rfl (asm_op ..) fun hi ho => ?_
  show Op.buildMatrix .mma _ = _
  simp (disch := decide) only [Op.buildMatrix, asm_m, asm_d, asm_c, asm_sb, asm_va _ _ _ _ _ _ _ _ _ (.inl rfl), Raw.fmt_of,
      BitVec.extractLsb'_append_eq_of_add_le, BitVec.extractLsb'_eq_self, Option.bind_some, Option.map_some,
      Fmt.ofCode_code]
  all_goals simp
theorem mmas (fa : Fmt) (mixed : Bool) (d : Reg) (a : VArg) (b : SArg) (c : VArg) : Statement (.mmas fa mixed d a b c) := by
  intro r hw hr
  obtain rfl := Option.some.inj hr
  refine decode_of .mmas hw rfl (asm_op ..) fun hi ho => ?_
  show Op.buildMatrix .mmas _ = _
  simp (disch := decide) only [Op.buildMatrix, asm_m, asm_d, asm_sb, asm_va _ _ _ _ _ _ _ _ _ (.inl rfl), asm_vc _ _ _ _ _ _ _ _ _ (.inl rfl), Raw.fmt_of, Raw.m5_of,
      BitVec.extractLsb'_append_eq_of_add_le, BitVec.getLsbD_append, getLsbD_b1, BitVec.extractLsb'_eq_self, Nat.sub_self,
      Option.map_some, Fmt.ofCode_code]
  all_goals simp
theorem mclr (d : Reg) : Statement (.mclr d) := by
  intro r hw hr
  obtain rfl := Option.some.inj hr
  refine decode_of .mclr hw rfl (asm1_op ..) fun hi ho => ?_
  show Op.buildMatrix .mclr _ = _
  simp (disch := decide) only [Op.buildMatrix, asm1_d]
  all_goals simp
theorem mlda (t : Ty) (d : Reg) (a : VArg) (c : Option VArg) : Statement (.mlda t d a c) := by
  cases c
  all_goals
    intro r hw hr
    obtain rfl := Option.some.inj hr
    refine decode_of .mlda hw rfl (asm_op ..) fun hi ho => ?_
    show Op.buildMatrix .mlda _ = _
    simp (disch := decide) only [Op.buildMatrix, asm_m, asm_d, asm_va _ _ _ _ _ _ _ _ _ (.inl rfl),
        asm_vc _ _ _ _ _ _ _ _ _ (.inl rfl), Raw.ty_of, Raw.m5_of, Raw.m4_of, Raw.m54_of, mTy_ty, mTy_m54, mTy_4, mTy_5,
        BitVec.extractLsb'_append_eq_of_add_le, BitVec.getLsbD_append, getLsbD_b1, BitVec.extractLsb'_eq_self, Nat.sub_self,
        Option.bind_some, Option.map_some, Ty.ofCode_code]
    all_goals simp
theorem msta (f : Fmt) (r : Rnd) (d a : Reg) (b c : Option SArg) : Statement (.msta f r d a b c) := by
  intro w hw hr
  obtain rfl := Option.some.inj hr
  refine decode_of .msta hw rfl (asm_op ..) fun _ ho => ?_
  have hb : b.isSome = mxFmts.contains f := by simpa [Instr.optFits] using ho
  have hf : fmtIn f.code mxFmts = mxFmts.contains f := by unfold fmtIn; rw [Fmt.ofCode_code]
  have h5 : (b1 c.isSome ++ f.code : BitVec 6).getLsbD 5 = c.isSome := by
    simp only [BitVec.getLsbD_append, getLsbD_b1]
    simp
  have h0 : (b1 c.isSome ++ f.code : BitVec 6).extractLsb' 0 5 = f.code := by
    simp (disch := decide) only [BitVec.extractLsb'_append_eq_of_add_le]
    simp
  show Op.buildMatrix .msta _ = _
  simp only [Op.buildMatrix, Raw.fmt_of, Raw.m5_of, asm_m, asm_d, asm_a, asm_rnd, h0, h5, Fmt.ofCode_code, Rnd.ofCode_code,
    Option.bind_some, Option.map_some, hf, ← hb]
  cases b <;> cases c <;> simp [asm_sb, asm_sc, Reg.fld]
theorem coll (kind : CollKind) (op : RedOp) (fast : Bool) (cnt : Bool) (f : Fmt) (sc : Scope) (a : Reg) (b : Reg) : Statement (.coll kind op fast cnt f sc a b) := by
  intro r hw hr
  obtain rfl := Option.some.inj hr
  refine decode_of .coll hw rfl (asmE_op ..) fun hi ho => ?_
  show Op.buildMatrix .coll _ = _
  simp (disch := decide) only [Op.buildMatrix, asmE_m, asmE_a, asmE_b, asmE_c, asmE_ectlScope, Raw.m10_of, Raw.m32_of,
      Raw.m5_of, Raw.m4_of, BitVec.extractLsb'_append_eq_of_add_le, BitVec.extractLsb'_append_eq_of_le,
      BitVec.getLsbD_append, getLsbD_b1, BitVec.extractLsb'_eq_self, Nat.sub_self, Option.bind_some, Option.map_some,
      Fmt.ofCode_code, Scope.ofCode_code, RedOp.ofCode_code, CollKind.ofCode_code]
  all_goals simp
theorem chwait (ch : BitVec 3) (a : Reg) : Statement (.chwait ch a) := by
  intro r hw hr
  obtain rfl := Option.some.inj hr
  refine decode_of .chwait hw rfl (asm1_op ..) fun hi ho => ?_
  show Op.buildMatrix .chwait _ = _
  simp (disch := decide) only [Op.buildMatrix, asm1_m, asm1_a, BitVec.extractLsb'_append_eq_of_add_le,
      BitVec.extractLsb'_eq_self]
  all_goals simp
theorem mapld (d : Reg) (sp : Bool) (a : Reg) : Statement (.mapld d sp a) := by
  intro r hw hr
  obtain rfl := Option.some.inj hr
  refine decode_of .mapld hw rfl (asm1_op ..) fun hi ho => ?_
  show Op.buildMatrix .mapld _ = _
  simp (disch := decide) only [Op.buildMatrix, asm1_m, asm1_d, asm1_a, Raw.m0_of, BitVec.getLsbD_append, getLsbD_b1]
  all_goals simp
theorem tmark (a : Reg) : Statement (.tmark a) := by
  intro r hw hr
  obtain rfl := Option.some.inj hr
  refine decode_of .tmark hw rfl (asm1_op ..) fun hi ho => ?_
  show Op.buildSys .tmark _ = _
  simp (disch := decide) only [Op.buildSys, asm1_a]
  all_goals simp
theorem sample (a : Reg) : Statement (.sample a) := by
  intro r hw hr
  obtain rfl := Option.some.inj hr
  refine decode_of .sample hw rfl (asm1_op ..) fun hi ho => ?_
  show Op.buildSys .sample _ = _
  simp (disch := decide) only [Op.buildSys, asm1_a]
  all_goals simp
theorem tlbinv (sc : Scope) (a : Option Reg) : Statement (.tlbinv sc a) := by
  cases a
  all_goals
    intro r hw hr
    obtain rfl := Option.some.inj hr
    refine decode_of .tlbinv hw rfl (asm1_op ..) fun hi ho => ?_
    show Op.buildSys .tlbinv _ = _
    simp (disch := decide) only [Op.buildSys, asm1_m, asm1_d, asm1_a, Raw.ty_of, Raw.m54_of, Raw.m10_of, Raw.m42_of, Raw.m32_of, Raw.fmt_of, Raw.m5_of, Raw.m4_of, Raw.m0_of, mTy_ty, mTy_m54, mTy_4, mTy_5, mS_m10, mS_m42, BitVec.extractLsb'_append_eq_of_add_le, BitVec.extractLsb'_append_eq_of_le, BitVec.getLsbD_append, getLsbD_b1, BitVec.extractLsb'_eq_self, Nat.sub_self, Option.bind_some, Option.map_some, Reg.fld, Ty.ofCode_code, STy.ofCode_code, Fmt.ofCode_code, Rnd.ofCode_code, Cmp.ofCode_code, Disp.ofCode_code, Scope.ofCode_code, LogOp.ofCode_code, RedOp.ofCode_code, ShMode.ofCode_code, VoteKind.ofCode_code, AtomOp.ofCode_code, AOrd.ofCode_code, FOrd.ofCode_code, GMode.ofCode_code, CollKind.ofCode_code]
    all_goals simp
theorem ctxsv (a : Reg) : Statement (.ctxsv a) := by
  intro r hw hr
  obtain rfl := Option.some.inj hr
  refine decode_of .ctxsv hw rfl (asm1_op ..) fun hi ho => ?_
  show Op.buildSys .ctxsv _ = _
  simp (disch := decide) only [Op.buildSys, asm1_a]
  all_goals simp
theorem ctxld (a : Reg) : Statement (.ctxld a) := by
  intro r hw hr
  obtain rfl := Option.some.inj hr
  refine decode_of .ctxld hw rfl (asm1_op ..) fun hi ho => ?_
  show Op.buildSys .ctxld _ = _
  simp (disch := decide) only [Op.buildSys, asm1_a]
  all_goals simp
theorem pgset (d : Reg) (a : Reg) (b : Reg) (lvl : BitVec 2) : Statement (.pgset d a b lvl) := by
  intro r hw hr
  obtain rfl := Option.some.inj hr
  refine decode_of .pgset hw rfl (asm_op ..) fun hi ho => ?_
  show Op.buildSys .pgset _ = _
  simp (disch := decide) only [Op.buildSys, asm_m, asm_d, asm_a, asm_b, Raw.m10_of, BitVec.extractLsb'_append_eq_of_add_le,
      BitVec.extractLsb'_eq_self, Reg.fld]
  all_goals simp
theorem fwcall (d : Reg) (a : Reg) (fn : BitVec 6) : Statement (.fwcall d a fn) := by
  intro r hw hr
  obtain rfl := Option.some.inj hr
  refine decode_of .fwcall hw rfl (asm1_op ..) fun hi ho => ?_
  show Op.buildSys .fwcall _ = _
  simp (disch := decide) only [Op.buildSys, asm1_m, asm1_d, asm1_a]
  all_goals simp
theorem clock (d : Reg) : Statement (.clock d) := by
  intro r hw hr
  obtain rfl := Option.some.inj hr
  refine decode_of .clock hw rfl (asm1_op ..) fun hi ho => ?_
  show Op.buildSys .clock _ = _
  simp (disch := decide) only [Op.buildSys, asm1_d]
  all_goals simp
theorem registerFill (b : BeamKey) (n : Nat) (err : Mask) : Statement (.registerFill b n err) := Statement.event rfl
theorem mmaComplete (b : BeamKey) : Statement (.mmaComplete b) := Statement.event rfl
theorem walkComplete (core : Nat) (ctx : Nat) (va : Addr) (write : Bool) : Statement (.walkComplete core ctx va write) := Statement.event rfl
theorem copyBurst (core : Nat) (req : Nat) (burst : Nat) : Statement (.copyBurst core req burst) := Statement.event rfl
theorem copyComplete (core : Nat) (req : Nat) : Statement (.copyComplete core req) := Statement.event rfl
theorem engineFault (core : Nat) (req : Nat) : Statement (.engineFault core req) := Statement.event rfl
theorem glintBirth (core : Nat) (req : Nat) (burst : Nat) (slot : Nat) : Statement (.glintBirth core req burst slot) := Statement.event rfl
theorem cpycsrComplete (core : Nat) (req : Nat) : Statement (.cpycsrComplete core req) := Statement.event rfl
theorem cndComplete (core : Nat) (req : Nat) : Statement (.cndComplete core req) := Statement.event rfl
theorem collComplete (core : Nat) (req : Nat) : Statement (.collComplete core req) := Statement.event rfl
theorem fuseWindowExpiry (b : BeamKey) : Statement (.fuseWindowExpiry b) := Statement.event rfl
theorem delayExpiry (b : BeamKey) (e : Nat) : Statement (.delayExpiry b e) := Statement.event rfl
theorem waitvWake (b : BeamKey) (e : Nat) : Statement (.waitvWake b e) := Statement.event rfl
theorem waitvTimeout (b : BeamKey) (e : Nat) : Statement (.waitvTimeout b e) := Statement.event rfl
theorem mwaitWake (b : BeamKey) (e : Nat) : Statement (.mwaitWake b e) := Statement.event rfl
theorem mwaitTimeout (b : BeamKey) (e : Nat) : Statement (.mwaitTimeout b e) := Statement.event rfl
theorem fwcallAnswer (b : BeamKey) (e : Nat) : Statement (.fwcallAnswer b e) := Statement.event rfl
theorem fwcallTimeout (b : BeamKey) (e : Nat) : Statement (.fwcallTimeout b e) := Statement.event rfl
theorem agingPromotion (b : BeamKey) (e : Nat) : Statement (.agingPromotion b e) := Statement.event rfl
theorem throttleRotation (core : Nat) (quad : Nat) : Statement (.throttleRotation core quad) := Statement.event rfl
theorem timeSliceExpiry (part : Nat) : Statement (.timeSliceExpiry part) := Statement.event rfl
theorem cohortPlace (kernel : Nat) (core : Nat) : Statement (.cohortPlace kernel core) := Statement.event rfl
theorem cohortRestore (c : CohortKey) (core : Nat) : Statement (.cohortRestore c core) := Statement.event rfl
theorem exchange (victim : CohortKey) (woken : CohortKey) : Statement (.exchange victim woken) := Statement.event rfl
theorem wakeRecheck (c : CohortKey) : Statement (.wakeRecheck c) := Statement.event rfl
theorem evictionSave (c : CohortKey) : Statement (.evictionSave c) := Statement.event rfl
theorem cohortRetire (c : CohortKey) : Statement (.cohortRetire c) := Statement.event rfl
theorem launchCmd (q : Nat) (core : Nat) : Statement (.launchCmd q core) := Statement.event rfl
theorem copyCmd (q : Nat) : Statement (.copyCmd q) := Statement.event rfl
theorem copyCmdComplete (q : Nat) (seq : Nat) : Statement (.copyCmdComplete q seq) := Statement.event rfl
theorem wait (q : Nat) : Statement (.wait q) := Statement.event rfl
theorem waitRecheck (q : Nat) : Statement (.waitRecheck q) := Statement.event rfl
theorem signal (q : Nat) : Statement (.signal q) := Statement.event rfl
theorem timestamp (q : Nat) : Statement (.timestamp q) := Statement.event rfl
theorem preempt (q : Nat) : Statement (.preempt q) := Statement.event rfl
theorem fenceCmd (q : Nat) : Statement (.fenceCmd q) := Statement.event rfl
theorem contextFault (ctx : Nat) : Statement (.contextFault ctx) := Statement.event rfl
theorem migrationWaitExpiry (b : BeamKey) (e : Nat) : Statement (.migrationWaitExpiry b e) := Statement.event rfl
theorem memwr (f : From) (ctx : Nat) (va : Addr) (data : List Byte) : Statement (.memwr f ctx va data) := Statement.event rfl
theorem memrd (f : From) (ctx : Nat) (va : Addr) (len : Nat) : Statement (.memrd f ctx va len) := Statement.event rfl
theorem queueAppend (f : From) (q : Nat) (record : List Byte) : Statement (.queueAppend f q record) := Statement.event rfl
theorem ringAppend (f : From) (handle : DWord) (seq : Nat) (data : List Byte) : Statement (.ringAppend f handle seq data) := Statement.event rfl
theorem collMessage (f : From) (group : Nat) (op : Nat) (crc : Nat) (kind : Nat) (redop : Nat) (fmt : Nat) (e : Nat) (data : List Byte) : Statement (.collMessage f group op crc kind redop fmt e data) := Statement.event rfl
theorem reply (f : From) (status : Nat) : Statement (.reply f status) := Statement.event rfl
theorem notifyResend (vf : Nat) : Statement (.notifyResend vf) := Statement.event rfl
theorem fabricTimeout (tag : Nat) : Statement (.fabricTimeout tag) := Statement.event rfl
theorem flitReceive (port : Nat) (lseq ackseq : BitVec 12) (credit : BitVec 2 × BitVec 6) (rest : List Byte) :
    Statement (.flitReceive port lseq ackseq credit rest) := Statement.event rfl
theorem pathFailure (dest : Nat) (vc : Nat) : Statement (.pathFailure dest vc) := Statement.event rfl
theorem linkRetrain (port : Nat) : Statement (.linkRetrain port) := Statement.event rfl
theorem trainingComplete (port : Nat) (lanes : Nat) : Statement (.trainingComplete port lanes) := Statement.event rfl
theorem laneLockLoss (port : Nat) : Statement (.laneLockLoss port) := Statement.event rfl
theorem portFence (port : Nat) : Statement (.portFence port) := Statement.event rfl
theorem portUnfence (port : Nat) : Statement (.portUnfence port) := Statement.event rfl
theorem dcdCapacityAdd (part : Nat) (base : Nat) (limit : Nat) : Statement (.dcdCapacityAdd part base limit) := Statement.event rfl
theorem dcdRelease (part : Nat) (base : Nat) (limit : Nat) (confirmed : Bool) : Statement (.dcdRelease part base limit confirmed) := Statement.event rfl
theorem psctlWrite (core : Nat) (w : DWord) : Statement (.psctlWrite core w) := Statement.event rfl
theorem psrpWrite (core : Nat) (w : DWord) : Statement (.psrpWrite core w) := Statement.event rfl
theorem spctlWrite (core : Nat) (w : DWord) : Statement (.spctlWrite core w) := Statement.event rfl
theorem sprpWrite (core : Nat) (w : DWord) : Statement (.sprpWrite core w) := Statement.event rfl
theorem sgctlWrite (core : Nat) (w : DWord) : Statement (.sgctlWrite core w) := Statement.event rfl
theorem sgWrite (core : Nat) (quad : Nat) (n : Nat) (w : DWord) : Statement (.sgWrite core quad n w) := Statement.event rfl
theorem sgstatW1c (core : Nat) (quad : Nat) (w : DWord) : Statement (.sgstatW1c core quad w) := Statement.event rfl
theorem registerPageWrite (core : Nat) (off : Nat) (w : DWord) : Statement (.registerPageWrite core off w) := Statement.event rfl
theorem samplePeriod (core : Nat) : Statement (.samplePeriod core) := Statement.event rfl
theorem i3cAccess (op : I3cOp) : Statement (.i3cAccess op) := Statement.event rfl
theorem pwrgood : Statement .pwrgood := Statement.event rfl
theorem resetNAssert : Statement .resetNAssert := Statement.event rfl
theorem resetNRelease (img : BootImage) : Statement (.resetNRelease img) := Statement.event rfl
theorem thermtrip (die : Nat) : Statement (.thermtrip die) := Statement.event rfl
theorem supplyTrip (part : Nat) (mhz : Nat) : Statement (.supplyTrip part mhz) := Statement.event rfl
theorem cxlWriteAcknowledgement (pa : Nat) (ok : Bool) : Statement (.cxlWriteAcknowledgement pa ok) := Statement.event rfl
theorem congestionLevelChange (region : Nat) (level : Nat) : Statement (.congestionLevelChange region level) := Statement.event rfl
theorem sliceIssueSlotCount (core : Nat) : Statement (.sliceIssueSlotCount core) := Statement.event rfl
theorem diaphragmWrite (part : Nat) (reg : Nat) (v : Nat) : Statement (.diaphragmWrite part reg v) := Statement.event rfl
theorem powerClockSetting (part : Nat) (watts : Option Nat) (mhz : Option Nat) : Statement (.powerClockSetting part watts mhz) := Statement.event rfl
theorem faultNAssertionEnd : Statement .faultNAssertionEnd := Statement.event rfl
theorem boundaryScanAccess (tms : Bool) (tdi : Bool) : Statement (.boundaryScanAccess tms tdi) := Statement.event rfl
theorem unknownRequestCode (f : From) (code : Nat) : Statement (.unknownRequestCode f code) := Statement.event rfl
theorem discardedMessage (f : From) (typ : Nat) : Statement (.discardedMessage f typ) := Statement.event rfl
theorem create (f : From) (world : Nat) (root : Nat) (handler : Nat) (save : Nat) (savesz : Nat) : Statement (.create f world root handler save savesz) := Statement.event rfl
theorem stop (f : From) (ctx : Nat) : Statement (.stop f ctx) := Statement.event rfl
theorem resume (f : From) (ctx : Nat) : Statement (.resume f ctx) := Statement.event rfl
theorem destroy (f : From) (ctx : Nat) : Statement (.destroy f ctx) := Statement.event rfl
theorem query (f : From) (ctx : Nat) : Statement (.query f ctx) := Statement.event rfl
theorem dbgstop (f : From) (ctx : Nat) (kernel : Nat) (cohort : Nat) (stop : Nat) : Statement (.dbgstop f ctx kernel cohort stop) := Statement.event rfl
theorem qcreate (f : From) (args : List Nat) : Statement (.qcreate f args) := Statement.event rfl
theorem qstop (f : From) (q : Nat) : Statement (.qstop f q) := Statement.event rfl
theorem qresume (f : From) (q : Nat) : Statement (.qresume f q) := Statement.event rfl
theorem qreset (f : From) (q : Nat) : Statement (.qreset f q) := Statement.event rfl
theorem qdestroy (f : From) (q : Nat) : Statement (.qdestroy f q) := Statement.event rfl
theorem tlbflush (f : From) (ctx : Nat) (va : Option Addr) : Statement (.tlbflush f ctx va) := Statement.event rfl
theorem lgcreate (f : From) (ctx : Nat) (va : Nat) (count : Nat) : Statement (.lgcreate f ctx va count) := Statement.event rfl
theorem lgdestroy (f : From) (ctx : Nat) (handle : Nat) : Statement (.lgdestroy f ctx handle) := Statement.event rfl
theorem domain (f : From) : Statement (.domain f) := Statement.event rfl
theorem getVersion (f : From) : Statement (.getVersion f) := Statement.event rfl
theorem getCapabilities (f : From) : Statement (.getCapabilities f) := Statement.event rfl
theorem negotiateAlgorithms (f : From) (asym : Bool) (hash : Bool) (meas : Bool) : Statement (.negotiateAlgorithms f asym hash meas) := Statement.event rfl
theorem getDigests (f : From) : Statement (.getDigests f) := Statement.event rfl
theorem getCertificate (f : From) (slot : Nat) (offset : Nat) (len : Nat) : Statement (.getCertificate f slot offset len) := Statement.event rfl
theorem challenge (f : From) (slot : Nat) (nonce : List Byte) : Statement (.challenge f slot nonce) := Statement.event rfl
theorem getMeasurements (f : From) (index : Nat) (nonce : List Byte) : Statement (.getMeasurements f index nonce) := Statement.event rfl

end Sys2Proof.Laws.RoundTrip
end

