-- ==== Sys2Proof/Tests/Slice0.lean ====
section
/-! SUPPORT. Decoding of words written out from the manual's encodings, ill-formed terms that are refused, single steps
with results worked out by hand from the rules, and, for each statement, states and operands that meet its hypotheses. -/

set_option Elab.async false

namespace Sys2Proof.Tests

open Sys2Proof.Machine

/-! ### Helpers -/

/-- A vector register without Prism. -/
def vr (r : Reg) : VArg := .v r .id false

/-- A scalar register with empty policy 0. -/
def sr (r : Reg) : SArg := ⟨r, false⟩

/-- What the decoder reads from three words. -/
def read (w0 w1 w2 : Word) : Option Instr :=
  match decodeRaw ⟨w0, w1, w2⟩ with
  | .ok i => some i
  | .bad _ => none

/-- A device of one running beam of 8 lanes, about to execute an instruction of one word; its memory holds the page tables and
the handler's header. -/
def base : State :=
  { State.reset.placed [] with
    turns := [], cur := some ⟨⟨0, 0⟩, 0, loadPc, ⟨0, 0, 0⟩, 1⟩
    mem := [(0x2000, 1), (0x10000, 1), (0x10001, 0x20), (0x10002, 1), (0x12000, 1), (0x12001, 0x40), (0x12002, 1), (0x14000, 0x1D),
      (0x14001, 0x0E)] }

/-- The same with the beam changed. -/
def onB (f : Beam → Beam) (s : State := base) : State := { s with beams := s.beams.map f }

/-- The same with the issuing entry changed. -/
def onE (f : Entry → Entry) (s : State := base) : State := onB (fun b => b.setEntry 0 (f (b.entry 0))) s

/-- A scalar register holds a value. -/
def sreg (r : Nat) (v : DWord) (b : Beam) : Beam := { b with s := b.s.set r v }

/-- A vector register holds one word in every lane. -/
def vreg (r : Nat) (v : Word) (b : Beam) : Beam := { b with v := b.v.set r (List.replicate 8 v) }

/-- The scalar registers hold values. -/
def sregs (rs : List (Nat × DWord)) (s : State := base) : State := onB (fun b => rs.foldl (fun b r => sreg r.1 r.2 b) b) s

/-- The operands of a multiplication of nothing. -/
def noOp : MmaOp := { int := false, scaled := false, fa := .f16, fb := .f16, a := [], xa := [], off := none, b := [], tiles := [] }

/-- Guards without privilege: of what a glint may execute, and of what it may not. -/
def openL (us : List Use) : Guard := { priv := false, noGlint := false, uses := us }
def shut (us : List Use) : Guard := { priv := false, noGlint := true, uses := us }

/-- The guard of an instruction for PL1. -/
def kern (us : List Use) : Guard := { priv := true, noGlint := false, uses := us }

/-- Nothing holds the issuing fragment up, and `p` is true of it. -/
def meets (s : State) (g : Guard) (p : Frag → Bool := fun _ => true) : Bool :=
  match s.frag with
  | none => false
  | some x =>
    x.entry.st == .run && x.pending.isNone && (x.check g).isNone && !x.waitsSrc g && !s.tooEarly x g &&
      (x.emptyTrap g).isNone && !x.waitsDst g && p x

/-- What `meets` says. -/
theorem meets_clear {s : State} {g : Guard} {p : Frag → Bool} (h : meets s g p = true) :
    ∃ x, Clear s x g ∧ p x = true := by
  unfold meets at h
  split at h
  · exact absurd h (by simp)
  · next x hx =>
    simp only [Bool.and_eq_true, Option.isNone_iff_eq_none, Bool.not_eq_true', beq_iff_eq] at h
    obtain ⟨⟨⟨⟨⟨⟨⟨h1, h2⟩, h3⟩, h4⟩, h5⟩, h6⟩, h7⟩, h8⟩ := h
    exact ⟨x, ⟨hx, h1, h2, h3, h4, h5, h6, h7⟩, h8⟩

/-- Each of these is true. -/
def holds (cs : List Bool) : Bool := cs.all id

/-- The state after an instruction. -/
def after (i : Instr) (s : State) : State :=
  match exec i s with
  | .next t => t
  | _ => s

/-- The beam after an instruction. -/
def beamAfter (i : Instr) (s : State) : Beam := ((after i s).beam? ⟨0, 0⟩).getD (loadBeam false)

/-- The cause of the trap that the beam has taken, as group and code; 0 and 0 for none. -/
def trapOf (s : State) : Nat × Nat :=
  let b := (s.beam? ⟨0, 0⟩).getD (loadBeam false)
  if b.trap.isSome then (b.tcause.toNat % 32, b.tcause.toNat / 2 ^ 16) else (0, 0)

/-! ## Decoding: words written out from the encoding tables of the spec -/

theorem test_decode_control_1 :
    read 0xC1401 0xFFFF6528 0 = some (.hdr ⟨12, 0, false, true, false, true, BitVec.ofInt 18 (-3), 2, 5, 40⟩) ∧
    read 0xFFFFF804 0 0 = some (.bra (BitVec.ofInt 22 (-2))) ∧
    read 0x54C09 0x70006 0 = some (.brs .uo 3 5 6 7) ∧
    read 0x5E40D 6 0 = some (.brv .ux 9 5 6 0) ∧
    read 0x11000010 0 0 = some (.jmpi (sr 17)) ∧
    read 0xC14 0 0 = some (.call 3) ∧
    read 0x18 0 0 = some (.ret) ∧
    read 0x1C 0 0 = some (.exit) ∧
    read 0x20 0 0 = some (.nop) ∧
    read 0x24 0 0 = some (.yield) ∧
    read 0x12340028 0 0 = some (.brk 0x1234) ∧
    read 0xBEEF002C 0 0 = some (.trap 0xBEEF) := by
  decide

theorem test_decode_control_2 :
    read 0x430 0 0 = some (.eret true) ∧
    read 0xFFFC2434 0 0 = some (.bdec 9 (BitVec.ofInt 16 (-4))) ∧
    read 0x3A 0x80000000 0x64 = some (.delay (.imm 100)) ∧
    read 0x506003C 0 0 = some (.chunk 6 5) ∧
    read 0x30040 0 0 = some (.bsplit 3) ∧
    read 0x40044 0 0 = some (.bfuse 4) ∧
    read 0xB0A0048 0 0 = some (.gjoin 10 11) ∧
    read 0xD0C004C 0 0 = some (.gleave 12 13) ∧
    read 0xE0050 0 0 = some (.gnew 14) ∧
    read 0x10454 0 0 = some (.gets (.v 1) 0) ∧
    read 0x70C0058 0 0 = some (.sets 0x0C (.s (sr 7))) ∧
    read 0x201005D 3 0 = some (.launch 1 (sr 2) (sr 3)) := by
  decide

theorem test_decode_scalar_1 :
    read 0x2010460 0 0 = some (.smov .n64 1 (.reg (sr 2))) ∧
    read 0x2010866 0x80000000 0xCAFEF00D = some (.smovi 1 (sr 2) 0xCAFEF00D) ∧
    read 0x2010069 3 0 = some (.sadd .s64 1 (sr 2) (.reg (sr 3))) ∧
    read 0x201046D 3 0 = some (.ssub .n64 1 (sr 2) (.reg (sr 3))) ∧
    read 0x2010871 3 0 = some (.smul .b64 1 (sr 2) (.reg (sr 3))) ∧
    read 0x2010085 3 0 = some (.sshl .s64 1 (sr 2) (.reg (sr 3))) ∧
    read 0x2010489 3 0 = some (.sshr .n64 1 (sr 2) (.reg (sr 3))) ∧
    read 0x201008D 3 0 = some (.ssar .s64 1 (sr 2) (.reg (sr 3))) ∧
    read 0x2010491 3 0 = some (.smin .n64 1 (sr 2) (.reg (sr 3))) ∧
    read 0x2010895 3 0 = some (.smax .b64 1 (sr 2) (.reg (sr 3))) ∧
    read 0x20108A5 3 0 = some (.sbfe .b64 1 (sr 2) (.reg (sr 3))) ∧
    read 0x20104BD 3 0 = some (.sfill .n64 1 (sr 2) (.reg (sr 3))) := by
  decide

theorem test_decode_scalar_2 :
    read 0x2010075 0x403 0 = some (.smad .s64 1 (sr 2) (.reg (sr 3)) (sr 4)) ∧
    read 0x2010879 3 0 = some (.sand 1 (sr 2) (.reg (sr 3))) ∧
    read 0x201087D 3 0 = some (.sor 1 (sr 2) (.reg (sr 3))) ∧
    read 0x2010881 3 0 = some (.sxor 1 (sr 2) (.reg (sr 3))) ∧
    read 0x2073499 3 0 = some (.scmp .le .n64 7 (sr 2) (.reg (sr 3))) ∧
    read 0x201089D 0x503 0 = some (.ssel .b64 1 (sr 2) (.reg (sr 3)) 5) ∧
    read 0x20160A1 3 0 = some (.slea 6 .s64 1 (sr 2) (.reg (sr 3))) ∧
    read 0x20108A8 0 0 = some (.spopc .b64 1 (.reg (sr 2))) ∧
    read 0x20104AC 0 0 = some (.sclz .n64 1 (.reg (sr 2))) ∧
    read 0x20108B1 3 0 = some (.klog .xor 1 2 3) ∧
    read 0x2C80CB4 0 0 = some (.stov .f32 200 (sr 2)) ∧
    read 0xC80144B9 3 0 = some (.vtos .s32 1 (vr 200) (.lane (.reg (sr 3)))) := by
  decide

theorem test_decode_integer_1 :
    read 0x140A04C1 0x1E 0 = some (.iadd .s32 10 (vr 20) (.reg (vr 30))) ∧
    read 0x140A08C5 0x1E 0 = some (.isub .n32 10 (vr 20) (.reg (vr 30))) ∧
    read 0x140A24C9 0x1E 0 = some (.imul .s16x2 10 (vr 20) (.reg (vr 30))) ∧
    read 0x140A08D1 0x1E 0 = some (.imulh .n32 10 (vr 20) (.reg (vr 30))) ∧
    read 0x140A2CD5 0x1E 0 = some (.imin .s8x4 10 (vr 20) (.reg (vr 30))) ∧
    read 0x140A30D9 0x1E 0 = some (.imax .n8x4 10 (vr 20) (.reg (vr 30))) ∧
    read 0x140A00E5 0x1E 0 = some (.and .b32 10 (vr 20) (.reg (vr 30))) ∧
    read 0x140A00E9 0x1E 0 = some (.or .b32 10 (vr 20) (.reg (vr 30))) ∧
    read 0x140A00ED 0x1E 0 = some (.xor .b32 10 (vr 20) (.reg (vr 30))) ∧
    read 0x140A04F5 0x1E 0 = some (.shl .s32 10 (vr 20) (.reg (vr 30))) ∧
    read 0x140A08F9 0x1E 0 = some (.shr .n32 10 (vr 20) (.reg (vr 30))) ∧
    read 0x140A04FD 0x1E 0 = some (.sar .s32 10 (vr 20) (.reg (vr 30))) := by
  decide

theorem test_decode_integer_2 :
    read 0x140A0101 0x1E 0 = some (.bfe .b32 10 (vr 20) (.reg (vr 30))) ∧
    read 0x140A28CD 0x281E 0 = some (.imad .n16x2 10 (vr 20) (.reg (vr 30)) (vr 40)) ∧
    read 0x140A0105 0x281E 0 = some (.bfi .b32 10 (vr 20) (.reg (vr 30)) (vr 40)) ∧
    read 0x140A2D19 0x281E 0 = some (.idot4 .s8x4 10 (vr 20) (.reg (vr 30)) (vr 40)) ∧
    read 0x140A04DC 0 0 = some (.iabs .s32 10 (.reg (vr 20))) ∧
    read 0x140A00E0 0 0 = some (.ineg .b32 10 (.reg (vr 20))) ∧
    read 0x140A00F0 0 0 = some (.not .b32 10 (.reg (vr 20))) ∧
    read 0x140A0908 0 0 = some (.popc .n32 10 (.reg (vr 20))) ∧
    read 0x140A050C 0 0 = some (.clz .s32 10 (.reg (vr 20))) ∧
    read 0x140F0511 0x51E 0 = some (.icmp .ge .s32 15 (vr 20) (.reg (vr 30))) ∧
    read 0x140A0515 0x21E 0 = some (.lea 2 .s32 10 (vr 20) (.reg (vr 30))) ∧
    read 0x140A411D 0x200001E 0 = some (.mov .b32 10 (.idx 20 true ⟨30, .id, false⟩)) := by
  decide

theorem test_decode_integer_3 :
    read 0x140A18C2 0x400001E 0x100049 = some (.iadd .s64 10 (.v 20 (.rot 9) false) (.reg (.s 30 true))) ∧
    read 0x140A00CE 0x82B281E 0x40800 = some (.imad .b32 10 (.s 20 false) (.reg (.v 30 (.bfly 5) false)) (.v 40 .mir true)) ∧
    read 0x140A08C6 0x80000000 0x80000001 = some (.isub .n32 10 (vr 20) (.imm 0x80000001)) := by
  decide

theorem test_decode_float_1 :
    read 0x140A0D21 0x1000001E 0 = some (.fadd .f32 .rz 10 (vr 20) (.reg (vr 30))) ∧
    read 0x140A1125 0x2000001E 0 = some (.fsub .f16x2 .ru 10 (vr 20) (.reg (vr 30))) ∧
    read 0x140A1529 0x3000001E 0 = some (.fmul .bf16x2 .rd 10 (vr 20) (.reg (vr 30))) ∧
    read 0x140A1169 0x4000001E 0 = some (.padd .f16x2 .ro 10 (vr 20) (.reg (vr 30))) ∧
    read 0x140A0D6D 0x5000001E 0 = some (.fscale .f32 .rna 10 (vr 20) (.reg (vr 30))) ∧
    read 0x140A0D2D 0x1000281E 0 = some (.ffma .f32 .rz 10 (vr 20) (.reg (vr 30)) (vr 40)) ∧
    read 0x140A1561 0x2000281E 0 = some (.fdot2 .bf16x2 .ru 10 (vr 20) (.reg (vr 30)) (vr 40)) ∧
    read 0x140A1165 0x281E 0 = some (.pfma .f16x2 .rn 10 (vr 20) (.reg (vr 30)) (vr 40)) ∧
    read 0x140A0D31 0x1E 0 = some (.fmin .f32 10 (vr 20) (.reg (vr 30))) ∧
    read 0x140A1535 0x1E 0 = some (.fmax .bf16x2 10 (vr 20) (.reg (vr 30))) ∧
    read 0x14030D39 0x41E 0 = some (.fcmp .gt 3 (vr 20) (.reg (vr 30))) ∧
    read 0x140A0D3D 0x10000000 0 = some (.frcp .f32 .rz 10 (.reg (vr 20))) := by
  decide

theorem test_decode_float_2 :
    read 0x140A0D45 0x30000000 0 = some (.fsqrt .f32 .rd 10 (.reg (vr 20))) ∧
    read 0x140A0D95 0x20000000 0 = some (.frnd .f32 .ru 10 (.reg (vr 20))) ∧
    read 0x140A0D40 0 0 = some (.frsq .f32 10 (.reg (vr 20))) ∧
    read 0x140A0D48 0 0 = some (.fexp2 .f32 10 (.reg (vr 20))) ∧
    read 0x140A0D4C 0 0 = some (.flog2 .f32 10 (.reg (vr 20))) ∧
    read 0x140A0D50 0 0 = some (.fsin .f32 10 (.reg (vr 20))) ∧
    read 0x140A0D54 0 0 = some (.fcos .f32 10 (.reg (vr 20))) ∧
    read 0x140A0D58 0 0 = some (.ftanh .f32 10 (.reg (vr 20))) ∧
    read 0x140A0D5C 0 0 = some (.fclass 10 (.reg (vr 20))) ∧
    read 0x140A0571 0x10000300 0 = some (.cvt .s32 .f32 .rz 10 (.reg (vr 20))) ∧
    read 0x140A4D75 0x8C1E 0 = some (.pack .e5m2 true .f32 1 .rn 10 (vr 20) (.reg (vr 30))) ∧
    read 0x140A0D79 0x6B00 0 = some (.unpk .f32 .e4m3 3 .rn 10 (.reg (vr 20))) := by
  decide

theorem test_decode_float_3 :
    read 0x1409097C 0 0 = some (.pres .n32 9 (.reg (vr 20))) := by
  decide

theorem test_decode_lane_1 :
    read 0x140A0581 0x1E 0 = some (.fill .s32 10 (vr 20) (.reg (vr 30))) ∧
    read 0x140A0585 4 0 = some (.mkab .s32 10 (vr 20) 4) ∧
    read 0x140A0189 0x51E 0 = some (.tsel .b32 10 (vr 20) (.reg (vr 30)) 5) ∧
    read 0x201058D 3 0 = some (.tlog .or 1 2 3) ∧
    read 0x70A0990 0 0 = some (.tval .n32 10 7) ∧
    read 0x140A8199 0x1E 0 = some (.shfl .wrap .b32 10 (vr 20) (.reg (vr 30))) ∧
    read 0x140A019D 0x281E 0 = some (.prm .b32 10 (vr 20) (.reg (vr 30)) (vr 40)) ∧
    read 0x70309A0 0 0 = some (.vote .uni 3 7) ∧
    read 0x70A01A4 0 0 = some (.ballot 10 7) ∧
    read 0x140A85A9 0x100 0 = some (.red .max true .s32 10 (.reg (vr 20))) ∧
    read 0x140A4DAD 0 0 = some (.scan .min false .f32 10 (.reg (vr 20))) ∧
    read 0x140341B0 0 0 = some (.laneMatch true .b32 3 (.reg (vr 20))) := by
  decide

theorem test_decode_lane_2 :
    read 0x70305B4 0 0 = some (.elect 3 (some 7)) := by
  decide

theorem test_decode_memory_1 :
    read 0x140A0DC2 0x80000400 0x10 = some (.ld .dev .f32 10 (.uni (sr 20) (some 16))) ∧
    read 0x140A41C5 0x2008100 0 = some (.st .cohort .b32 (.s 10) (.vec 20 true none)) ∧
    read 0x140AA1C9 0x1E 0 = some (.lds .beam .b64 10 (.idx (sr 20) 30 false)) ∧
    read 0x140A6DCC 0 0 = some (.sts .beam .s8x4 (.v 10) (.vec 20 false none)) ∧
    read 0x140A05D1 0xA00 0 = some (.ldu true .core .s32 10 (.uni (sr 20) none)) ∧
    read 0x140A09D5 0x300 0 = some (.stu false .die .n32 10 (.uni (sr 20) none)) ∧
    read 0x140A41D9 0x900 0 = some (.lda true .cohort .b32 10 (.vec 20 false none)) ∧
    read 0x140A01DD 0x500 0 = some (.stl false .sys .b32 (.v 10) (.uni (sr 20) none)) ∧
    read 0x140049E1 0x1C1E 0 = some (.atom .min .acq true .dev .n32 0 (vr 20) (.reg (vr 30))) ∧
    read 0x140AC1E5 0x701E 0 = some (.atoms .cas .ar false .beam .b32 10 (vr 20) (.reg (vr 30))) ∧
    read 0x140A9DE9 0x9A1E 0 = some (.atomu .dec .rel true .core .n64 10 (sr 20) (.reg (sr 30))) ∧
    read 0x4DEC 0 0 = some (.fence .sc .dev) := by
  decide

theorem test_decode_memory_2 :
    read 0x140A49F1 0x521E 0 = some (.waitv .ge true false .core .n32 10 (sr 20) (sr 30)) ∧
    read 0xC1F4 0 0 = some (.cflush .beam .all) ∧
    read 0x140001F9 0x200 0 = some (.cinv .core (.uni (sr 20) none)) ∧
    read 0x140041FD 0x300 0 = some (.pref .die (.vec 20 false none)) ∧
    read 0xB0A0200 0 0 = some (.tlook 10 11) ∧
    read 0xB0A0204 0 0 = some (.tins 10 11) ∧
    read 0xB0A0208 0 0 = some (.tdel 10 11) ∧
    read 0x140A020D 0x1E 0 = some (.msend 10 (sr 20) (sr 30)) ∧
    read 0xB0A0210 0 0 = some (.mpoll 10 11) ∧
    read 0x140A0215 0x1E 0 = some (.mwait 10 (sr 20) (sr 30)) ∧
    read 0xB0A0218 0 0 = some (.mpop 10 11) := by
  decide

theorem test_decode_engines_1 :
    read 0x140A6641 0x63001E 0 = some (.cpy true 9 6 .die 10 20 30) ∧
    read 0x14000241 0xA0000 0 = some (.cpyResume .core 20) ∧
    read 0x140A2A45 0x54281E 0 = some (.cpycsr .f32 5 .dev 10 20 30 40) ∧
    read 0x140A664A 0x80032800 0xFFFFFFF0 = some (.gread .record 9 .die 10 20 40 0xFFFFFFF0) ∧
    read 0x14000249 0xA0000 0 = some (.greadResume .core 20) ∧
    read 0x24C 0 0 = some (.gdone) ∧
    read 0x14000651 0x1E 0 = some (.binit true (sr 20) (.reg (sr 30))) ∧
    read 0x14000254 0 0 = some (.barv 20) ∧
    read 0x14000659 0x281E 0 = some (.bexp (sr 20) (.reg (sr 30)) (some (sr 40))) ∧
    read 0x140A025C 0 0 = some (.bwait 10 20) ∧
    read 0x14000260 0 0 = some (.binv 20) ∧
    read 0x140A0264 0 0 = some (.btest 10 20) := by
  decide

theorem test_decode_engines_2 :
    read 0x14002E69 0x4001E 0 = some (.cnd .e4m3 .dev 20 30) ∧
    read 0x1403226D 0x81E 0 = some (.mma .f16 .f16 3 (.v 20 .id false) (sr 30)) ∧
    read 0x1403C271 0x281E 0 = some (.mmas .mx8b true 3 (.v 20 .id false) (sr 30) (.v 40 .id false)) ∧
    read 0x70274 0 0 = some (.mclr 7) ∧
    read 0x14034679 0x8002800 0 = some (.mlda .s32 3 (.v 20 .id false) (some (.v 40 .id true))) ∧
    read 0x30AA67D 0x40002800 0 = some (.msta .bf16 .ro 10 3 none (some (sr 40))) ∧
    read 0x14006681 0x50A1E 0 = some (.coll .redscatter .max true false .f32 .sys 20 30) ∧
    read 0x14001684 0 0 = some (.chwait 5 20) ∧
    read 0x1409068C 0 0 = some (.mapld 9 true 20) := by
  decide

theorem test_decode_system :
    read 0x140002C0 0 0 = some (.tmark 20) ∧
    read 0x140002C4 0 0 = some (.sample 20) ∧
    read 0x140042C8 0 0 = some (.tlbinv .dev (some 20)) ∧
    read 0x140002CC 0 0 = some (.ctxsv 20) ∧
    read 0x140002D0 0 0 = some (.ctxld 20) ∧
    read 0x140A0AD5 0x1E 0 = some (.pgset 10 20 30 2) ∧
    read 0x140A86D8 0 0 = some (.fwcall 10 20 33) ∧
    read 0xA02DC 0 0 = some (.clock 10) := by
  decide

/-! ### Ill-formed terms are refused -/

/-- The trap code of an instruction that no encoding holds. -/
def refusedWith (i : Instr) : Option Nat := (encodeRaw i).bind encodingFault

/-- Registers above their range (R110). -/
theorem test_wf_range :
    holds [
      !Instr.wf (.sadd .s64 64 (sr 0) (.reg (sr 0))), refusedWith (.sadd .s64 64 (sr 0) (.reg (sr 0))) == some 3,
      !Instr.wf (.icmp .eq .s32 16 (vr 0) (.imm 0)), !Instr.wf (.klog .and 8 0 0), !Instr.wf (.mclr 16), !Instr.wf (.mapld 16 false 0),
      Instr.wf (.sadd .s64 63 (sr 63) (.reg (sr 63))), Instr.wf (.iadd .s32 255 (vr 255) (.reg (vr 255)))
    ] := by
  decide

/-- Odd registers where a pair is due (R21, R154). -/
theorem test_wf_pairs :
    holds [
      refusedWith (.iadd .s64 11 (vr 20) (.reg (vr 30))) == some 4, !Instr.wf (.iadd .s64 11 (vr 20) (.reg (vr 30))),
      !Instr.wf (.iadd .s64 10 (vr 21) (.reg (vr 30))), !Instr.wf (.chunk 5 4), !Instr.wf (.cpycsr .f32 0 .core 11 2 4 8)
    ] := by
  decide

/-- Types and selectors outside their sets (R169, R182, R168). -/
theorem test_wf_sets :
    holds [
      refusedWith (.sand 1 (sr 2) (.reg (sr 3))) == none, refusedWith (.sshr .s64 1 (sr 2) (.reg (sr 3))) == some 5,
      !Instr.wf (.sshr .s64 1 (sr 2) (.reg (sr 3))), !Instr.wf (.fadd .s32 .rn 10 (vr 20) (.reg (vr 30))),
      !Instr.wf (.gets (.s 1) 0x1B), !Instr.wf (.sets 0x02 (.s (sr 1))), !Instr.wf (.pack .e5m2 true .f32 2 .rn 10 (vr 20) (.reg (vr 30))),
      !Instr.wf (.mma .f16 .bf16 3 (.v 20 .id false) (sr 30)), !Instr.wf (.brs .uf 0 1 2 3)
    ] := by
  decide

/-- RND where nothing rounds (R36), Prism parameters (R113), and immediates (R114, R232, R273). -/
theorem test_wf_fields :
    holds [
      refusedWith (.msta .f32 .rz 10 3 none none) == some 6, !Instr.wf (.msta .f32 .rz 10 3 none none),
      refusedWith (.iadd .s32 10 (.v 20 (.mirg 7) false) (.reg (vr 30))) == some 7,
      !Instr.wf (.iadd .s32 10 (.v 20 (.mirg 7) false) (.reg (vr 30))), Instr.wf (.iadd .s32 10 (.v 20 (.mirg 6) false) (.reg (vr 30))),
      refusedWith (.atom .cas .none false .dev .b32 10 (vr 20) (.imm 1)) == some 9,
      !Instr.wf (.atom .cas .none false .dev .b32 10 (vr 20) (.imm 1)), !Instr.wf (.binit true (sr 2) (.imm 1))
    ] := by
  decide

/-- An immediate leaves no room for a Prism of A (R106), and MSTA names a scale destination for the block-scaled formats
(R290). -/
theorem test_wf_fits :
    holds [
      !Instr.immFits (.iadd .s32 10 (.v 20 .mir false) (.imm 1)), !Instr.wf (.iadd .s32 10 (.v 20 .mir false) (.imm 1)),
      Instr.wf (.iadd .s32 10 (.v 20 .mir false) (.reg (vr 30))), !Instr.optFits (.msta .mx8 .rn 10 3 none none),
      !Instr.wf (.msta .mx8 .rn 10 3 none none), Instr.wf (.msta .mx8 .rn 10 3 (some (sr 4)) none)
    ] := by
  decide

/-- Words that R104, R107, R110, R113, R114 and R127 refuse, with their codes. -/
theorem test_decode_refuses :
    holds [
      decodeRaw ⟨0x00000023, 0, 0⟩ == .bad 1, decodeRaw ⟨0x000000C0, 0, 0⟩ == .bad 1, decodeRaw ⟨0x000001B8, 0, 0⟩ == .bad 2,
      decodeRaw ⟨0x00400460, 0, 0⟩ == .bad 3, decodeRaw ⟨0x140B18C1, 0x1E, 0⟩ == .bad 4, decodeRaw ⟨0x00000420, 0, 0⟩ == .bad 5,
      decodeRaw ⟨0x140A0D21, 0x6000001E, 0⟩ == .bad 6, decodeRaw ⟨0x140A04C2, 0x1E, 7⟩ == .bad 7,
      decodeRaw ⟨0x140A04C2, 0x1E, 0x80000⟩ == .bad 8, decodeRaw ⟨0x140A04C2, 0x8000001E, 1⟩ == .bad 9,
      decodeTableWord 32 0x20 == some .nop, decodeTableWord 8 0x20 == some .nop
    ] := by
  decide

/-! ## A witness for the hypotheses of every statement -/

/-! ### States that meet the statements' hypotheses: registers, branches and traps -/

theorem wit_ScalarResults :
    holds [
    meets base (plain (dstS 1 ++ (SArg.uses 1 (sr 2) ++ SArgI.uses 2 (.reg (sr 3))))) (fun x => x.b.shaped),
      meets base (plain (dstS 1 ++ (SArg.uses 1 (sr 2) ++ SArgI.uses 2 (.reg (sr 3)) ++ SArg.uses 3 (sr 63))))
        (fun x => x.b.shaped)] := by
  decide +kernel

theorem wit_VectorIntegerResults :
    holds [
    meets base (plain (dstV .s64 14 ++ VArg.uses true 1 (vr 12) ++ VArgI.uses true 2 (.reg (.s 5 false))))
      (fun x => x.b.shaped),
      meets base (plain (dstV .b32 15 ++ VArgI.uses false 1 (.imm 7))) (fun x => x.b.shaped)] := by
  decide +kernel

theorem wit_VectorFloatResults :
    holds [
    meets base (plain (regUses .v 14 true 0 true false ++ VArg.uses false 1 (vr 12) ++ VArgI.uses true 2 (.reg (vr 10)) ++
      VArg.uses true 3 (vr 8))) (fun x => x.b.shaped)] := by
  decide +kernel

theorem wit_VectorMoveResults :
    holds [
    meets base (plain (dstV .b32 14 ++ useAB .b32 (vr 1) (.reg (vr 2)) ++ regUses .c 15 false 3 false false))
      (fun x => x.b.shaped && !Ty.wide .b32),
    meets (onB (vreg 2 3)) (plain (dstV .b32 14 ++
        [{ set := .v, r := 4, src := 1, dst := false, trap := false, named := true }] ++ VOp.uses false 2 ⟨2, .id, false⟩))
      (fun x => x.b.shaped && (List.range 8).all fun i =>
        match idxReg x.b .b32 4 (x.vop .n32 ⟨2, .id, false⟩ i) with
        | .reg r => x.b.vfullAt r && r == 7
        | _ => false)] := by
  decide +kernel

theorem wit_TruthAndCrossLaneResults :
    holds [
    meets base (plain (dstC 15 ++ useAB .s32 (vr 1) (.imm 0))) (fun x => x.b.shaped),
      meets base (plain (dstK 7 ++ regUses .c 3 false 1 false false)) (fun x => x.b.shaped),
      meets base (plain (dstV .n64 12 ++ [{ set := .v, r := 14, src := 5, dst := true, trap := false }] ++
        VArgI.uses true 1 (.reg (vr 2)))) (fun x => x.b.shaped)] := by
  decide +kernel

/-- A header with a reserved bit; one with LEN 0; a fragment that meets no join on its way in. -/
theorem wit_HeaderEntry :
    holds [
    meets base (plain []) (fun x => (x.b.arrivalAt x.pc 9 x.e []).isNone)] := by
  decide +kernel

/-- A header at the handler's address, and nothing at 0x3000. -/
theorem wit_BranchesTransfer :
    holds [
    meets base (plain []) (fun x => (base.transferTrap x (x.target 511)).isNone && x.target 511 == loadHandler),
    meets (onB fun b => { b with k := List.replicate 8 2 }) (plain [{ set := .k, r := 7, src := 1, dst := false, trap := false }])
      (fun x => dispose .uf (Tri.ofCode (x.b.kreg 7)) == some .f && dispose .ux (Tri.ofCode (x.b.kreg 7)) == none),
    meets (sregs [(2, 0x2000)]) (plain (SArg.uses 1 (sr 2)))
      (fun x => !Fmt.isAbsent .n64 (x.sval (sr 2)) && decide (x.sval (sr 2) < 2 ^ 56) &&
        ((sregs [(2, 0x2000)]).transferTrap x (x.sval (sr 2))).isNone),
    meets (onE fun e => { e with rstack := List.replicate 7 0 }) (shut [])
      (fun x => decide (x.entry.rstack.length < 8)),
    meets (onE fun e => { e with rstack := [0x2000] }) (plain []) (fun x => x.entry.rstack == [0x2000]),
    meets (sregs [(9, 2)]) (plain [{ set := .s, r := 9, src := 1, dst := false, trap := false },
        { set := .s, r := 9, src := 0, dst := true, trap := false }])
      (fun x => !((sregs [(9, 2)]).coreOf x.core).trace.br && !Fmt.isAbsent .s64 (x.b.sreg 9).toNat &&
        decide (0 < (BitVec.ofNat 64 (satCode .s64 ((x.b.sreg 9).toInt - 1)).1 : DWord).toInt)),
    meets (sregs [(9, 1)]) (plain [{ set := .s, r := 9, src := 0, dst := true, trap := false }])
      (fun x => !((sregs [(9, 1)]).coreOf x.core).dim &&
        decide ((BitVec.ofNat 64 (satCode .s64 ((x.b.sreg 9).toInt - 1)).1 : DWord).toInt ≤ 0)),
    meets (sregs [(9, 2 ^ 63)]) (plain []) (fun x => Fmt.isAbsent .s64 (x.b.sreg 9).toNat)] := by
  decide +kernel

theorem wit_BranchTraps :
    holds [
    meets base (plain []) (fun x => match base.contextOf x.b with
      | some c => base.headerFault x.core c (x.target 1023) == some 1
      | none => false),
    meets (onE fun e => { e with rstack := List.replicate 8 0 }) (shut [])
      (fun x => decide (8 ≤ x.entry.rstack.length)),
    meets (sregs [(2, 2 ^ 64 - 1)]) (plain (SArg.uses 1 (sr 2))) (fun x => Fmt.isAbsent .n64 (x.sval (sr 2))),
    meets (sregs [(2, 2 ^ 56)]) (plain (SArg.uses 1 (sr 2)))
      (fun x => !Fmt.isAbsent .n64 (x.sval (sr 2)) && decide (2 ^ 56 ≤ x.sval (sr 2))),
    meets (onB fun b => { b with k := List.replicate 8 2 }) (plain [{ set := .k, r := 0, src := 1, dst := false, trap := false }])
      (fun x => Tri.ofCode (x.b.kreg 0) == .u),
    meets base (plain []) (fun x => x.entry.rstack == [])] := by
  decide +kernel

/-- Lanes 0 to 3 at TRUE and the others at FALSE in c0, and a block that reconverges at the handler's header. -/
def split4 : State :=
  onE (fun e => { e with blk := some { hdr := 0x1000, len := 4, x := true, rcv := 512, livev := 255, livea := 15 } })
    (onB fun b => { b with c := b.c.set 0 [1, 1, 1, 1, 0, 0, 0, 0] })

/-- A join entry 1 that waits for the issuing fragment, alone or for lanes 4 to 7 too. -/
def joining (m : Mask) : State :=
  onB (fun b => b.setEntry 1 { Entry.none_ with st := .join, pc := loadPc, mask := m })
    (onE fun e => { e with mask := 15, join := some loadPc, parent := some 1 })

theorem wit_BrvDiverges :
    holds [
      meets split4 (plain [{ set := .c, r := 0, src := 1, dst := false, trap := false }]) (fun x =>
        let ps := brvPaths x .uf 0 511 0 0
        x.mask.getLsbD 7 && !(split4.coreOf x.core).trace.br && ps.length == 2 && decide (ps.length ≤ (x.b.entriesIn .free).length) &&
          (match split4.reconv x with | .ok j => j == 0x2000 | _ => false) &&
          ps.all fun p => p.inside || (split4.transferTrap x p.target).isNone),
      meets split4 (plain []) (fun x => (brvPaths x .uf 1 0 511 0).length == 1 && (brvPaths x .uf 1 511 0 0).all (·.inside)),
      meets (joining 15) (plain []) (fun x => !x.b.stacked x.e && x.b.trap.isNone && x.b.entriesIn .join == [1] &&
        (x.b.entry 1).mask &&& ~~~x.b.exited &&& ~~~((x.b.entry 1).arrived ||| x.mask) == 0),
      meets (joining 255) (plain []) (fun x => x.entry.parent == some 1 &&
        (x.b.entry 1).mask &&& ~~~x.b.exited &&& ~~~((x.b.entry 1).arrived ||| x.mask) != 0)
    ] := by
  decide +kernel

/-- The issuing fragment waits. -/
def waiting (k : WaitKind) (rem : Option Nat) (woken : Bool := false) (aux : Nat := 0) (i : Instr := .nop) : State :=
  onE fun e => { e with wait := some { kind := k, ins := i, words := 1, waited := 0, rem := rem, woken := woken, aux := aux } }

/-- Deterministic issue mode is on (R435). -/
def dimState : State := { base with cores := base.cores.map fun c => { c with trace := { c.trace with ctl := 2 ^ 58 } } }

theorem wit_Pauses :
    holds [
      meets base (plain []) (fun x => !(base.coreOf x.core).dim),
      meets dimState (plain []) (fun x => (dimState.coreOf x.core).dim),
      meets (sregs [(3, 4097)]) (plain (SArgI.uses 1 (.reg (sr 3)))) (fun x =>
        !Fmt.isAbsent .n64 (x.svalI .n64 (.reg (sr 3))) && x.svalI .n64 (.reg (sr 3)) != 0),
      meets base (plain (SArgI.uses 1 (.imm 0))) (fun x => x.svalI .n64 (.imm 0) == 0),
      ((waiting .delay (some 0)).beam? ⟨0, 0⟩).any fun b => (b.entry 0).wait.any fun w => w.kind == .delay && w.rem == some 0,
      ((onE fun e => { e with passed := 64 }).beam? ⟨0, 0⟩).any fun b =>
        (b.entry 0).st == .run && decide (64 ≤ (b.entry 0).passed) && !(b.entry 0).promoted
    ] := by
  decide +kernel

theorem wit_SoftwareAndPrivilegeTraps :
    holds [
      meets base (plain []) (fun x => x.b.trap.isNone && !base.owed x.b.key && decide (x.e < x.b.split.length) &&
        (base.contextOf x.b).any fun c => base.headerIs x.core c c.handler (fun w => !headerK w && !headerG w)),
      base.frag.any fun x => x.pending.isNone && !x.b.pl && spPriv 0x20 && spPriv 0x30
    ] := by
  decide +kernel

/-- The beam in trap mode. -/
def trapped : State := base.trapEntry ⟨0, 0⟩ 0 loadPc 1 (Trap.simple gSOFTWARE 7 0)

theorem wit_TrapEntryAndDoubleTrap :
    holds [
      (base.beam? ⟨0, 0⟩).any fun b => b.trap.isNone && !base.owed b.key && decide (0 < b.split.length) &&
        (base.contextOf b).any fun c => base.headerIs 0 c c.handler (fun w => !headerK w && !headerG w),
      (trapped.beam? ⟨0, 0⟩).any fun b => b.trap.isSome && (trapped.contextOf b).isSome &&
        (trapped.kernel? b.cohort.kernel).any fun k => k.st != .faulted && k.st != .completed,
      let s : State := { base with contexts := base.contexts.map fun c => { c with handler := 0x3000 } }
      (s.beam? ⟨0, 0⟩).any fun b => !s.owed b.key && (s.contextOf b).any fun c =>
        !s.headerIs 0 c c.handler (fun w => !headerK w && !headerG w)
    ] := by
  decide +kernel

/-- The handler is about to execute an instruction in its block. -/
def inHandler : State :=
  onE (fun e => { e with pc := 0x2008, blk := some { hdr := 0x2000, len := 4, x := true, rcv := 0, livev := 255, livea := 15 } })
    { trapped with cur := some ⟨⟨0, 0⟩, 0, 0x2008, ⟨0, 0, 0⟩, 1⟩ }

/-- A second beam of the cohort runs. -/
def twoBeams : State := { base with beams := base.beams ++ base.beams.map fun b => { b with key := ⟨0, 1⟩, id := 1 } }

/-- The beam is a glint of request 0. -/
def glinted (s : State) : State :=
  onB (fun b => { b with glint := some { req := 0, burst := 0, barrier := 0, issuer := ⟨0, 1⟩ } }) s

theorem wit_EretAndExit :
    holds [
      meets (onB fun b => { b with pl := true }) (kern []) (fun x => x.b.trap.isNone),
      meets inHandler (kern []) (fun x =>
        !(inHandler.coreOf x.core).trace.br && x.b.entriesIn .join == [] &&
          x.b.trap.any fun t => t.loaded.isNone && decide (t.entry < x.b.split.length) && t.held.st == .held &&
            x.b.epc == t.epc),
      meets (onE fun e => { e with mask := 0x7F }) (plain []) (fun x =>
        x.b.trap.isNone && x.b.glint.isNone && x.b.live &&& ~~~x.mask == 0x80 && !(base.coreOf x.core).trace.br),
      meets twoBeams (plain []) (fun x => x.b.trap.isNone && x.b.glint.isNone && x.b.live &&& ~~~x.mask == 0 &&
        (twoBeams.liveBeams x.b.cohort).any fun y => y.key != x.b.key),
      meets base (plain []) (fun x => x.b.trap.isNone && x.b.glint.isNone && x.b.live &&& ~~~x.mask == 0 &&
        (base.liveBeams x.b.cohort).all fun y => y.key == x.b.key),
      meets (onE (fun e => { e with mask := 0x7F }) inHandler) (plain []) (fun x =>
        x.b.trap.isSome && x.b.glint.isNone && x.b.live &&& ~~~x.mask == 0x80),
      meets (glinted base) (plain []) (fun x => x.b.trap.isNone && x.b.glint.isSome),
      meets (glinted inHandler) (plain []) (fun x => x.b.trap.isSome && x.b.glint.isSome)
    ] := by
  decide +kernel

theorem wit_SpecialRegisters :
    holds [
      meets base (plain (dstS 5)) (fun x => x.b.shaped && !base.flagsOwed x 0x0B),
      meets { base with mmas := [{ beam := ⟨0, 0⟩, op := noOp, tile := 0, tiles := [], flags := 0, ready := 9 }] } (plain (dstS 5))
        (fun x => ({ base with mmas := [{ beam := ⟨0, 0⟩, op := noOp, tile := 0, tiles := [], flags := 0, ready := 9 }] } : State).flagsOwed x 0x0B),
      meets base (plain (regUses .v 14 true 0 true false)) (fun x => x.b.shaped),
      meets (onB fun b => { b with pl := true }) { priv := false, privSp := some 0x30, noGlint := false, uses := SetSrc.uses' false (.s (sr 4)) }
        (fun x => x.b.converged && (base.contextOf x.b).isSome),
      meets base { priv := false, privSp := none, noGlint := false, uses := SetSrc.uses' false (.v (vr 4)) }
    ] := by
  decide +kernel

/-- The kernel's group 0 is live, with the beam in it or not; handle 1 × 2¹⁶ names it. -/
def grouped (members : List (Nat × Nat)) : State :=
  { base with kernels := base.kernels.map fun k => { k with groups := [{ index := 0, st := .live, gen := 1, members := members }] } }

/-- The lanes 4 to 7 run as a fragment of their own. -/
def diverged : State :=
  onB (fun b => b.setEntry 1 { b.entry 0 with mask := 0xF0, parent := some 2 }) (onE fun e => { e with mask := 0x0F, parent := some 2 })

theorem wit_GroupResults :
    holds [
      meets base (shut (dstS 1)) (fun x => x.b.converged && decide (base.liveGroups < 16384) &&
        (base.kernelOf x.b).any fun k => ((List.range 1024).find? fun i => (k.group i).st == .free) == some 0),
      meets diverged (shut (dstS 1)) (fun x => !x.b.converged),
      meets base (shut (dstS 1 ++ regUses .s 2 false 1 false false)) (fun x =>
        (base.kernelOf x.b).any fun k => (k.named 0x20000).isNone),
      meets (grouped [(0, 0)]) (shut (dstS 1 ++ regUses .s 2 false 1 false false)) (fun x =>
        ((grouped [(0, 0)]).kernelOf x.b).any fun k => (k.named 0x10000).any fun g => g.members.contains x.b.member),
      meets (grouped [(0, 1)]) (shut (dstS 1 ++ regUses .s 2 false 1 false false)) (fun x =>
        ((grouped [(0, 1)]).kernelOf x.b).any fun k => (k.named 0x10000).any fun g =>
          !g.members.contains x.b.member && decide (g.members.length < 4095))
    ] := by
  decide +kernel

/-- A beam of `w` lanes. -/
def wide (w : Nat) : State :=
  { base with beams := [(Beam.fresh ⟨0, 0⟩ ⟨1, 0⟩ 0 w 16 64 16 0 8).setEntry 0
      { Entry.none_ with st := .run, pc := loadPc, mask := fullMask w
                         blk := some { hdr := 0x1000, len := 4, x := true, rcv := 0, livev := 255, livea := 15 } }] }

theorem wit_SplitHalvesAndWidthFailures :
    holds [
      meets (wide 16) (shut (dstS 1)) (fun x => x.b.shaped && x.b.converged && decide (16 ≤ x.w) &&
        !(wide 16).pending x.b && ((wide 16).freeSlots x.b.cohort x.core 0).length == 15 && decide (((wide 16).liveBeams x.b.cohort).length < 64) &&
        ((wide 16).kernelOf x.b).isSome && x.b.exited == 0),
      meets base (shut (dstS 1)) (fun x => x.b.converged && decide (x.w < 16) && x.w != 64 &&
        !base.pending x.b && (match base.buddy x.b with | .error _ => true | .ok _ => false)),
      meets (wide 64) (shut (dstS 1)) (fun x => x.w == 64),
      meets diverged (shut (dstS 1)) (fun x =>
        x.w != 64 && !x.b.converged)
    ] := by
  decide +kernel

/-- Two buddies of 8 lanes at the same BFUSE; the upper one waits. -/
def buddies : State :=
  let y := (sreg 3 9 (base.beams.headD (loadBeam false)))
  { base with
    kernels := base.kernels.map fun k => { k with launch := { k.launch with beams := 8 } }
    beams := base.beams ++ [{ y with key := ⟨0, 1⟩, id := 4, coloff := 16, laneg := (List.range 8).map (· + 8) }.setEntry 0
      { y.entry 0 with wait := some { kind := .bfuse, ins := .bfuse 1, words := 1, waited := 0, rem := some 4096, woken := false, aux := 0 } }] }

/-- The same before the buddy has reached its BFUSE. -/
def lonely : State := { buddies with beams := buddies.beams.map fun b => b.setEntry 0 { b.entry 0 with wait := none } }

theorem wit_FuseJoins :
    holds [
      meets buddies (shut (dstS 1)) (fun x =>
        match buddies.buddy x.b with
        | .ok y => x.b.shaped && y.shaped && x.w != 64 && x.b.converged && !buddies.pending x.b && decide (x.b.coloff < y.coloff) &&
            y.fusing.any fun f => f.1 == 0 && f.2.1 == 1 && (buddies.pairFault (x.pc, (y.entry 0).pc) x.b y).isNone
        | .error _ => false),
      meets lonely (shut (dstS 1)) (fun x =>
        match lonely.buddy x.b with
        | .ok y => y.fusing.isNone && x.entry.wait.isNone && x.entry.carry.isNone && (lonely.contextOf x.b).any fun c => c.fusewin != 0
        | .error _ => false)
    ] := by
  decide +kernel

/-- Global addresses are even pairs of registers; `va` in every lane's v4 and v5. -/
def atVa (va : Nat) : State := onB fun b => vreg 4 (BitVec.ofNat 32 va) (vreg 5 (BitVec.ofNat 32 (va / 2 ^ 32)) b)

/-- The operand of every lane's own address, in global memory and in the window. -/
def glob : MemArg := .vec 4 false none
def win : MemArg := .uni (sr 2) none

theorem wit_LoadsAndStoresComplete :
    holds [
      meets (atVa 0x8000) (openL (dstV .s64 14 ++ MemArg.uses false glob)) (fun x =>
        let k := loadAcc .s64 false .dev false
        let ls := x.present (x.addr false glob)
        ls.length == 8 && (x.memTrap k ((atVa 0x8000).laneFaults x k ls)).isNone && (atVa 0x8000).migrating x k ls == []),
      meets (sregs [(2, 1020)]) (openL (dstS 1 ++ MemArg.uses true win)) (fun x =>
        let k := loadAcc .b32 true .core true
        let ls := x.single true win
        ls == [(0, 1020)] && (x.memTrap k ((sregs [(2, 1020)]).laneFaults x k ls)).isNone),
      meets (atVa 0x8000) (openL (StSrc.uses .b32 (.s 3) ++ MemArg.uses false glob)) (fun x =>
        let k := storeAcc .b32 false .sys false
        let ls := x.present (x.addr false glob)
        ls.length == 8 && (x.memTrap k ((atVa 0x8000).laneFaults x k ls)).isNone && (atVa 0x8000).migrating x k ls == [] &&
          !(atVa 0x8000).unperformed x .sys),
      let s := { atVa 0x8000 with posted := [{ who := .beam ⟨0, 0⟩, kernel := some 1, line := 0, sys := false, since := 0 }] }
      meets s (openL (StSrc.uses .b32 (.s 3) ++ MemArg.uses false glob)) (fun x => s.unperformed x .sys)
    ] := by
  decide +kernel

theorem wit_LoadValues :
    holds [
      base.frag.any fun x => (base.cohort? x.b.cohort).isSome &&
        ((base.contextOf x.b).any fun c => match base.xlate (.beam x.core) false c 0x8000 with
          | .page pa tier leaf at_ _ => (regPageOf pa).isNone && pa == 0x8000 && at_ == 0x14000 && tier != 2 &&
              base.readNat at_ 8 == leaf
          | _ => false),
      base.frag.any fun x => (base.contextOf x.b).any fun c => match base.leafFrom (.beam x.core) false c 0x8000 with
        | .walk _ => true
        | _ => false
    ] := by
  decide +kernel

/-- A result is on its way to a register. -/
def arriving (dst : FillDst) (set : Beam → Beam) : State :=
  { onB set with fills := [{ beam := ⟨0, 0⟩, entry := 0, pc := loadPc, dst := dst, absent := (0xFFFFFFFF, 0), src := .memory, ready := 0, mask := 0xFF, units := [], down := 0, take := none }] }

theorem wit_ResultsArrive :
    holds [
      (base.beam? ⟨0, 0⟩).any fun b => b.trap.isNone && decide (b.nv ≤ b.vfull.length) && decide (14 + 2 ≤ b.nv),
      let s := arriving (.v 4 0xFF [List.replicate 8 7] false) fun b => { b with vfull := b.vfull.set 4 false }
      (s.beam? ⟨0, 0⟩).any fun b => s.fills.any fun f => f.beam == b.key && f.down == 0 && decide (f.ready ≤ s.clock) && b.trap.isNone &&
        b.pend.isNone && decide (4 < b.v.length) && (0x10 : Mask) &&& fullMask b.w &&& 0xFF != 0,
      let s := arriving (.s 63 7 false false) fun b => { b with sfull := b.sfull.set 63 false }
      (s.beam? ⟨0, 0⟩).any fun b => s.fills.any fun f => f.beam == b.key && f.down == 0 && decide (f.ready ≤ s.clock) &&
        decide (63 < b.s.length) && decide (63 < b.sfull.length)
    ] := by
  decide +kernel

theorem wit_StoreWritesItsBytes :
    holds [
      base.frag.any fun x => (storeAcc .b32 true .core false).spad && (base.cohort? x.b.cohort).isSome &&
        (base.contextOf x.b).any fun c => !(storeAcc .b32 false .core false).spad && match base.xlate (.beam x.core) true c 0x8000 with
          | .page pa _ _ _ _ => (regPageOf pa).isNone
          | _ => false
    ] := by
  decide +kernel

theorem wit_MemoryTraps :
    holds [
      meets (atVa 0x8002) (openL (dstV .b32 14 ++ MemArg.uses false glob)) (fun x =>
        ((x.present (x.addr false glob)).filter fun l => l.2 % 4 != 0).head? == some (0, 0x8002)),
      meets (atVa 0x8002) (openL (StSrc.uses .b32 (.v 3) ++ MemArg.uses false glob)) (fun x =>
        ((x.present (x.addr false glob)).filter fun l => l.2 % 4 != 0).head? == some (0, 0x8002)),
      meets (sregs [(2, 1024)]) (openL (dstS 1 ++ MemArg.uses true win)) (fun x =>
        x.addr true win x.lead == some 1024 && x.mask != 0 && (base.cohort? x.b.cohort).any fun c => decide ((c.wsize : Int) < 1024 + 4)),
      let s : State := { sregs [(2, 64)] with cohorts := base.cohorts.map fun c => { c with tags := [2] } }
      meets s (openL (regUses .s 1 false 0 false false ++ MemArg.uses true win)) (fun x =>
        x.addr true win x.lead == some 64 && (s.cohort? x.b.cohort).any fun c => decide (64 + 4 ≤ (c.wsize : Int)) && c.tagged 64)
    ] := by
  decide +kernel

theorem wit_Atomics :
    holds [
      meets (atVa 0x8000) (openL (dstV .n32 14 ++ atomUses false (vr 4) ++
          VArgI.uses false 2 (.reg (vr 6)) ++ casUses .cas .n32 (.reg (vr 6)))) (fun x =>
        let k := atomAcc .n32 false .dev false
        let ls := x.present (x.atomAddr false (vr 4))
        ls.length == 8 && (x.memTrap k ((atVa 0x8000).laneFaults x k ls)).isNone && (atVa 0x8000).migrating x k ls == []),
      meets (sregs [(2, 1020)]) (openL (dstS 1 ++ SArg.uses 1 (sr 2) ++ SArgI.uses 2 (.imm 1) ++
          casUses .add .n32 (.imm 1))) (fun x =>
        let k := atomAcc .n32 true .core true
        let ls := x.single true (.uni (sr 2) none)
        ls == [(0, 1020)] && (x.memTrap k ((sregs [(2, 1020)]).laneFaults x k ls)).isNone),
      !Ty.isAbsent .n32 (2 ^ 32 - 2) && !Ty.isAbsent .n32 0 && Ty.isAbsent .n32 (2 ^ 32 - 1)
    ] := by
  decide +kernel

/-- A cohort whose window ends in a tag table of 4 sets. -/
def tagTable : State :=
  { sregs [(2, 2 ^ 48 - 1)] with kernels := base.kernels.map fun k => { k with launch := { k.launch with taglog := 2 } } }

theorem wit_ChunksAndTags :
    holds [
      ([1, 3, 2, 1] : List Nat).all fun n => !Fmt.isAbsent .n32 n,
      meets (sregs [(2, 0x8000)]) (openL (regUses .s 4 true 0 true false ++ regUses .s 2 false 1 false false))
        (fun x =>
          let ls := x.single false (.uni ⟨2, false⟩ none)
          ls == [(0, 0x8000)] && (x.memTrap chunkAcc ((sregs [(2, 0x8000)]).laneFaults x chunkAcc ls)).isNone &&
            (sregs [(2, 0x8000)]).migrating x chunkAcc ls == []),
      meets (sregs [(2, 2 ^ 64 - 1)]) (openL (regUses .s 4 true 0 true false ++ regUses .s 2 false 1 false false))
        (fun x => x.single false (.uni ⟨2, false⟩ none) == []),
      tagHit (List.replicate 4 { v := true, age := 3, tag := 5 }) 5 == some 0 &&
        tagHit (List.replicate 4 { v := true, age := 3, tag := 5 }) 6 == none,
      meets base (openL (dstS 1 ++ regUses .s 2 false 1 false false)) (fun x => base.tagSets x.b == 0),
      meets tagTable (openL (dstS 1 ++ regUses .s 2 false 1 false false)) (fun x =>
        tagTable.tagSets x.b != 0 && (tagTable.cohort? x.b.cohort).isSome && decide ((x.b.sreg 2).toNat < 2 ^ 48))
    ] := by
  decide +kernel

theorem wit_FencesAndCaches :
    holds [
      meets base (openL []) (fun x => !x.b.flushing),
      meets (onB (fun b => b.setEntry 1 { b.entry 0 with mask := 0xF0, wait := some { kind := .cflush, ins := .cflush .sys .all, words := 1, waited := 0, rem := none, woken := false, aux := 0 } }) (onE fun e => { e with mask := 0x0F }))
        (openL []) (fun x => x.b.flushing),
      meets (sregs [(2, 0x8000)]) (openL (MemArg.cacheUses (.uni (sr 2) none))) (fun x =>
        x.entry.wait.isNone && (sregs [(2, 0x8000)]).dirtyLines x (.uni (sr 2) none) == []),
      let s : State := { sregs [(2, 0x8000)] with dirty := [(0x8000, 1)], parts := base.parts.map fun p => { p with near := [], far := [(0, 2 ^ 30)], slices := [⟨0, 0, 128⟩] } }
      meets s (openL (MemArg.cacheUses .all)) (fun x =>
        x.entry.wait.isNone && s.dirtyLines x .all != [])
    ] := by
  decide +kernel

/-! ### States that meet the statements' hypotheses: waits, rings, barriers and engines -/

/-- The cohort changed. -/
def onC (f : Cohort → Cohort) (s : State := base) : State := { s with cohorts := s.cohorts.map f }

theorem wit_Waits :
    holds [
      meets (sregs [(2, 2 ^ 64 - 1)]) (shut (waitvUses 1 (sr 2) (sr 4))) (fun x => x.single true (.uni (sr 2) none) == []),
      let s := onC (fun c => c.put 64 (natLe 4 5)) (sregs [(2, 64), (4, 5), (5, 0)])
      meets s (shut (waitvUses 1 (sr 2) (sr 4))) (fun x =>
        let k := loadAcc .n32 true .core true
        let ls := x.single true (.uni (sr 2) none)
        ls == [(0, 64)] && !x.asleep .waitv && (x.memTrap k (s.laneFaults x k ls)).isNone &&
          compareElem .n32 .eq (s.loadVals x k .n32 ls 0) (scalarOperand .n32 (x.sval (sr 4))).1 == .t &&
          compareElem .n32 .ne (s.loadVals x k .n32 ls 0) (scalarOperand .n32 (x.sval (sr 4))).1 != .t &&
          (x.waited .waitv (some 0)).2 == some 0 && (x.waited .waitv none).2 == none),
      let s := onE (fun e => { e with wait := some { kind := .waitv, ins := .nop, words := 2, waited := 7, rem := none, woken := false, aux := 0 } }) (sregs [(2, 64)])
      meets s (shut (waitvUses 1 (sr 2) (sr 4))) (fun x => x.asleep .waitv && x.single true (.uni (sr 2) none) != []),
      ((waiting .waitv (some 0)).beam? ⟨0, 0⟩).any fun b => (b.entry 0).wait.any fun w => w.kind == .waitv && w.rem == some 0,
      ((waiting .mwait (some 5)).beam? ⟨0, 0⟩).any fun b => (b.entry 0).wait.any fun w => w.kind == .mwait && w.rem != some 0,
      let s := onE (fun e => { e with wait := some { kind := .migrate, ins := .nop, words := 1, waited := 65536, rem := none, woken := false, aux := 1 } })
      (s.beam? ⟨0, 0⟩).any fun b => (b.entry 0).st == .run && (b.entry 0).wait.any fun w => w.kind == .migrate && decide (65536 ≤ w.waited)
    ] := by
  decide +kernel

/-- A ring of 512 bytes at 512 in the window, its descriptor at 128. -/
def ringAt (tail head : Nat) (c : Cohort) : Cohort :=
  c.put 128 (natLe 4 512 ++ natLe 4 512 ++ natLe 4 tail ++ natLe 4 head ++ natLe 4 1 ++ natLe 12 0)

/-- The handle of that ring: window ring of cohort 0 of kernel 1 of device 0, offset 128. -/
def ringHandle : DWord := 2 ^ 38 + 128

def ringed (tail head : Nat) (rs : List (Nat × DWord)) : State :=
  onC (fun c => (ringAt tail head c).put 512 (natLe 8 4 ++ natLe 8 0)) (sregs rs)

theorem wit_Rings :
    holds [
      let s := ringed 0 0 []
      ((s.cohort? ⟨1, 0⟩).any fun c => c.st == .resident) && (s.ring? (.window ⟨1, 0⟩) 128).any (fun r => r.tail % 8 == 0 && r.fits 256 && r.fits 504 && !r.fits 505) &&
        (s.ring? (.window ⟨1, 0⟩) 129).isNone,
      let s := ringed 0 0 [(2, ringHandle), (4, 0), (5, 256)]
      meets s (openL (msgUses 1 (sr 2) ++ SArg.uses 2 (sr 4) ++ [{ set := .s, r := 5, src := 5, dst := false, trap := false }])) (fun x =>
        (match ringOf (x.sval (sr 2)) with
          | .window dev k c off => dev == s.mgmt.device && k == 1 && c == 0 && off == 128
          | _ => false) && (s.payloadTrap x 0 256).isNone && (x.descTrap 128).isNone && (s.cohort? x.b.cohort).isSome &&
          (s.receiver 1 0).isSome && (s.receiver 1 1).isNone),
      match ringOf (2 ^ 63 + 2 ^ 56) with | .bad => true | _ => false,
      let s := { ringed 0 0 [(2, 2 ^ 53 + ringHandle), (4, 0), (5, 1)] with parts := base.parts.map fun p => { p with egress := [1] } }
      meets s (openL (msgUses 1 (sr 2) ++ SArg.uses 2 (sr 4) ++ [{ set := .s, r := 5, src := 5, dst := false, trap := false }])) (fun x =>
        (match ringOf (x.sval (sr 2)) with | .window dev _ _ _ => dev != s.mgmt.device | _ => false) && (x.descTrap 128).isNone &&
          (s.payloadTrap x 0 1).isNone && (s.partOfCore x.core).any fun p => p.egress.contains 1 && !p.egress.contains 2),
      let s := onC (fun c => c.put 144 [0]) (ringed 0 0 [(2, ringHandle)])
      meets s (openL (msgUses 1 (sr 2))) (fun x => (x.descTrap 128).isNone && (s.ring? (.window x.b.cohort) 128).isNone),
      meets (ringed 16 0 [(2, ringHandle)]) (openL (msgUses 1 ⟨2, false⟩)) (fun x => (x.descTrap 128).isNone &&
        ((ringed 16 0 []).ring? (.window x.b.cohort) 128).any fun r => (ringed 16 0 []).pastPads r 4 r.head != r.tail),
      meets (ringed 0 0 [(2, ringHandle), (4, 0)]) (shut (msgUses 1 (sr 2) ++ SArg.uses 2 (sr 4))) (fun x => !x.asleep .mwait &&
        (x.waited .mwait (some (x.sval (sr 4)))).2 == some 0 &&
        ((ringed 0 0 []).ring? (.window x.b.cohort) 128).any fun r => (ringed 0 0 []).pastPads r 4 r.head == r.tail)
    ] := by
  decide +kernel

/-- Nothing holds an access up. -/
def passes (s : State) (x : Frag) (k : Acc) (ls : List (Nat × Int)) : Bool :=
  (x.memTrap k (s.laneFaults x k ls)).isNone && s.migrating x k ls == []

/-- A ring of 512 bytes in memory at 0x8200, its descriptor at 0x8100, with one record of 4 bytes behind HEAD. -/
def memRing (size : Nat) (full : List Host.Cell := []) : State :=
  { sregs [(2, BitVec.ofNat 64 (2 ^ 63 + 0x8100)), (4, 0), (5, 256)] with
    mem := [(0x2000, 1), (0x8101, 0x82), (0x8105, BitVec.ofNat 8 size), (0x8108, 16)] ++ full ++ [(0x8110, 1), (0x8200, 4), (0x10000, 1),
      (0x10001, 0x20), (0x10002, 1), (0x12000, 1), (0x12001, 0x40), (0x12002, 1), (0x14000, 0x1D), (0x14001, 0x0E)] }

theorem wit_MemoryRings :
    holds [
      let s := memRing 2
      meets s (openL (msgUses 1 (sr 2) ++ SArg.uses 2 (sr 4) ++ [{ set := .s, r := 5, src := 5, dst := false, trap := false }])) (fun x =>
        passes s x (descAcc .read) [(x.lead, 0x8100)] && (s.payloadTrap x 0 256).isNone &&
          (match ringOf (x.sval (sr 2)) with | .mem va => va == 0x8100 | _ => false) &&
          (((s.setBeam (x.b.sendSeq (x.b.sreg 2)).2).laneNote x (descAcc .read) 0x8100).ring? (.mem 0 1) 0x8100).any fun r =>
            r.fits 256 && passes s x (bufAcc .write) ((r.units 256).map fun u : Nat => (x.lead, (u : Int)))),
      let s := memRing 2
      meets s (openL (msgUses 1 (sr 2))) (fun x =>
        let t := s.laneNote x (descAcc .read) 0x8100
        (t.ring? (.mem 0 1) 0x8100).any fun r => r.tail == 16 && r.head == 0 && t.pastPads r 4 r.head != r.tail &&
          t.ringNear r && passes s x (bufAcc .read) ((t.headersRead r 4 r.head).map fun u : Nat => (x.lead, (u : Int)))),
      ((memRing 2 [(0x8109, 1)]).ring? (.mem 0 1) 0x8100).any fun r => !r.fits 256,
      let s := memRing 3
      meets s (openL (msgUses 1 (sr 2))) (fun x => passes s x (descAcc .read) [(x.lead, 0x8100)] &&
        ((s.laneNote x (descAcc .read) 0x8100).ring? (.mem 0 1) 0x8100).isNone)
    ] := by
  decide +kernel

/-- A barrier at 64 in the window, which is tagged. -/
def barAt (st exp arr : Nat) (s : State := base) : State :=
  onC (fun c => ({ c with tags := [2] } : Cohort).put 64 ((Bar.bytes { phase := 0, st := st, exp := exp, arr := arr, valid := 0
                                                                       src := [0, 0, 0, 0], cnt := [0, 0, 0, 0], fault := 0 }) ++ natLe 4 0)) s

theorem wit_BarrierInstructions :
    holds [
      meets (sregs [(2, 64)]) (plain (SArg.uses 1 (sr 2) ++ SArgI.uses 2 (.imm 4095))) (fun x =>
        (base.cohort? x.b.cohort).isSome && (base.barTrap x .write true 64).isNone && base.binitCount x false 4095 == some 4095 &&
          (base.binitCount x false 4096).isNone && !base.tagged ⟨1, 0⟩ 64 && (base.coreOf x.core).orphans == []),
      meets (barAt 1 2 1 (sregs [(2, 64)])) (plain (regUses .s 2 false 1 false false)) (fun x =>
        let s := barAt 1 2 1
        (s.barTrap x .write false 64).isNone && (s.bar x.b.cohort 64).formed && (s.bar x.b.cohort 64).arr != (s.bar x.b.cohort 64).exp),
      meets (barAt 1 2 2 (sregs [(2, 64)])) (plain (regUses .s 2 false 1 false false)) (fun x =>
        let s := barAt 1 2 2
        (s.barTrap x .write false 64).isNone && (s.bar x.b.cohort 64).formed && (s.bar x.b.cohort 64).arr == (s.bar x.b.cohort 64).exp),
      meets (barAt 0 2 2 (sregs [(2, 64)])) (plain (regUses .s 2 false 1 false false)) (fun x =>
        !((barAt 0 2 2).bar x.b.cohort 64).formed),
      meets (barAt 1 2 1 (sregs [(2, 64), (3, 256)])) (plain (SArg.uses 1 (sr 2) ++ SArgI.uses 2 (.imm 128) ++ SArg.uses 3 (sr 3))) (fun x =>
        (((barAt 1 2 1).bar x.b.cohort 64).apply 255 (2 ^ 31 - 1)).isSome && x.sval (sr 3) == 256),
      meets (barAt 1 2 1 (sregs [(2, 64), (1, 1)])) (shut (dstS 1 ++ regUses .s 2 false 1 false false)) (fun x =>
        let s := barAt 1 2 1
        x.entry.wait.isNone && (s.barTrap x .read false 64).isNone && (s.bar x.b.cohort 64).st != 2 && (s.markOn x.b.cohort 64 x.b.id).isNone &&
          (s.bar x.b.cohort 64).phase != (x.b.sreg 1).toNat % 2),
      let s := onE (fun e => { e with wait := some { kind := .bwait, ins := .bwait 1 2, words := 1, waited := 0, rem := none, woken := true, aux := 2 ^ 32 + 64 } }) (sregs [(2, 64)])
      meets s (shut (dstS 1 ++ regUses .s 2 false 1 false false)) (fun x => x.entry.wait.any fun w =>
        w.kind == .bwait && w.woken && w.aux / 2 ^ 32 == 1 && (s.markOn x.b.cohort (w.aux % 2 ^ 32) x.b.id).isNone),
      meets (barAt 1 2 1 (sregs [(2, 64)])) (plain (dstS 1 ++ regUses .s 1 false 0 false false ++ regUses .s 2 false 1 false false))
    ] := by
  decide +kernel

theorem wit_PhaseFlips :
    holds [
      let b : Bar := { phase := 1, st := 1, exp := 2, arr := 2, valid := 1, src := [7, 0, 0, 0], cnt := [0, 0, 0, 0], fault := 0 }
      b.complete && b.src.length == 4 && b.cnt.length == 4 && b.slotOf 7 == some 0 && (b.slotOf 8).isNone && !b.slotValid 1,
      let b : Bar := { phase := 1, st := 3, exp := 2, arr := 2, valid := 15, src := [7, 8, 9, 10], cnt := [5, 0, 0, 0], fault := 0 }
      !b.complete && (b.slotOf 11).isNone && (List.range 4).all b.slotValid
    ] := by
  decide +kernel

/-- The image of a map of 32 f32 elements at 0x8000. -/
def mapImage : List Byte :=
  natLe 7 0x8000 ++ [0x10, 10, 0, 0, 0] ++ natLe 4 0 ++ natLe 4 32 ++ natLe 4 1 ++ natLe 4 1 ++ natLe 4 1 ++ natLe 4 1 ++
    natLe 16 0 ++ [31, 0, 0, 0, 0] ++ natLe 7 0

theorem wit_MapldLoads :
    holds [
      let s := onC (fun c => c.put 64 mapImage) (sregs [(2, 64)])
      meets s (plain ({ set := .m, r := 15, src := 0, dst := true, trap := false } :: regUses .s 2 false 1 false false)) (fun x =>
        (s.cohort? x.b.cohort).isSome && ((TMap.ofBytes (s.mapImage x true 64)).bad (s.mapImage x true 64)).isNone &&
          (x.mapTrap true (s.mapFaults x true 64)).isNone),
      let s := onC (fun c => c.put 72 mapImage) (sregs [(2, 72)])
      meets s (plain ({ set := .m, r := 15, src := 0, dst := true, trap := false } :: regUses .s 2 false 1 false false)) (fun x =>
        ((TMap.ofBytes (s.mapImage x true 72)).bad (s.mapImage x true 72)).isNone && (x.mapTrap true (s.mapFaults x true 72)).isNone),
      let s := sregs [(2, 68)]
      meets s (plain ({ set := .m, r := 15, src := 0, dst := true, trap := false } :: regUses .s 2 false 1 false false)) (fun x =>
        (x.mapTrap true (s.mapFaults x true 68)).isSome),
      (TMap.ofBytes (List.replicate 64 0)).bad (List.replicate 64 0) == some 7
    ] := by
  decide +kernel

/-- Registers of engine instructions: the barrier in s2, the image or the coordinates in s8, the parameters from s4. -/
def engRegs : State :=
  onC (fun c => { c with maps := c.maps.set 3 (some mapImage) }) (barAt 1 1 0 (sregs [(2, 64), (8, 128), (9, 256), (4, 0), (7, 2 ^ 32)]))

theorem wit_EngineIssue :
    holds [
      meets engRegs (shut (regUses .s 8 false 0 false false ++ regUses .s 2 false 1 false false ++ groupUses 4 (engRegs.coordRegs 3) 2)) (fun x =>
        let m := TMap.ofBytes mapImage
        (engRegs.barTrap x .read false 64).isNone && engRegs.mapIn x.b.cohort 3 == some mapImage &&
          (engRegs.mapIn x.b.cohort 4).isNone && (engRegs.winTrap x .write 1 1 128 m.size).isNone && m.chain == 0 && m.bursts == 1 &&
          !m.badStart (x.coords 4 m.rank) && !engRegs.engineFull x.core 0),
      meets engRegs (shut (groupUses 8 2 0 ++ regUses .s 2 false 1 false false ++ groupUses 4 4 2 ++ regUses .s 10 false 3 false false)) (fun x =>
        (engRegs.winTrap x .write 1 1 128 (4 * (1 + 1) + 4 * 8)).isNone && (engRegs.winTrap x .write 1 1 256 (fmtBytes .f32 8)).isNone),
      meets engRegs (shut (engRegs.greadUses 3 .record 4 2 8)) (fun x => (engRegs.contextOf x.b).any fun c =>
        !engRegs.headerIs x.core c 0x2000 headerG && !engRegs.engineFull x.core 1 && (engRegs.logTrap x .record 256 1).isNone),
      meets engRegs (shut (regUses .s 2 false 1 false false ++ groupUses 4 4 2)) (fun x =>
        !engRegs.engineFull x.core 2 && !engRegs.engineFull x.core 3 && (engRegs.partOfCore x.core).any fun p => (engRegs.linkOf p.id 0x10000).isNone)
    ] := by
  decide +kernel

/-- A request of the copy engine on the barrier at 64. -/
def copyReq (bursts : List BState) (kind : ReqKind) : Req :=
  { id := 5, core := 0, cohort := ⟨1, 0⟩, beam := ⟨0, 0⟩, slot := 0, bid := 0, pc := loadPc, entry := 0, mask := 0xFF, w := 8, kind := kind, map := mapImage, coords := List.replicate 5 (some 0)
    barrier := 64, scope := .core, params := [2 ^ 64 - 1, 0, 0, 0x1000800000000], bursts := bursts, parked := false, dropped := false
    orphan := false, fault := none, first := 0, delivered := 0, counted := 0, refused := 0, aux := [], migSince := none, down := none, arrived := []
    births := [], follow := true, parts := [], flags := 0, was := [], wasWin := [] }

def withReq (r : Req) : State := { engRegs with reqs := [r] }

theorem wit_ChwaitAndResume :
    holds [
      meets engRegs (shut (regUses .s 8 false 1 false false)) (fun x => x.entry.wait.isNone &&
        decide ((engRegs.chanView x.b 7).toNat < (x.b.sreg 8).toNat) && decide ((x.b.sreg 4).toNat ≤ (engRegs.chanView x.b 7).toNat)),
      let s := onE (fun e => { e with wait := some { kind := .chwait, ins := .chwait 7 8, words := 1, waited := 0, rem := none, woken := false, aux := 128 } }) engRegs
      meets s (shut (regUses .s 8 false 1 false false)) (fun x => x.entry.wait.any fun w => w.kind == .chwait &&
        !Fmt.isAbsent .n64 w.aux && decide ((s.chanView x.b 7).toNat < w.aux)),
      let s := withReq { copyReq [.faulted 1] (.cpy false 128 0) with parked := true }
      meets s (shut (regUses .s 2 false 1 false false)) (fun x => (s.barTrap x .read false 64).isNone && decide (s.queued x.core 0 + 1 ≤ 64) &&
        s.reqs.any fun r => r.core == x.core && r.cohort == x.b.cohort && r.barrier == 64 && r.parked && !r.dropped && r.kind.engine == 0),
      let t : State := { engRegs with reqs := List.replicate 64 (copyReq [.waiting] (.cpy false 128 0)) }
      meets t (shut (regUses .s 2 false 1 false false)) (fun x => decide (64 < t.queued x.core 0 + 1)),
      meets engRegs (shut (regUses .s 2 false 1 false false)) (fun x => (engRegs.barTrap x .read false 64).isNone && engRegs.reqs == [] &&
        (engRegs.barTrap x .read false 96).isSome)
    ] := by
  decide +kernel

/-- A copy of that one element of e2m1 out of the window. -/
def storing (b : BState) : State :=
  withReq { copyReq [b] (.cpy true 128 0) with map := (mapImage.set 8 13).set 52 0 }

/-- What the statement asks of a store's burst. -/
def storable (s : State) (olds : Nat) : Bool :=
  (s.req? 5).any fun r => s.headOfChan r &&
    match r.xfer.storePiece s 128 (r.xfer.m.piece 0) with
    | .ok (ws, _) => (s.engWritesFault 0 r.cohort r.xfer.m.space ws).isNone && !s.engMigrates 0 r.cohort r.xfer.m.space ws &&
        (s.engOlds 0 r.cohort r.xfer.m.space ws).length == olds
    | .error _ => false

theorem wit_CopyBursts :
    holds [
      storable (storing .waiting) 1, storable (storing (.read [7])) 1,
      storable (withReq (copyReq [.waiting] (.cpy true 128 0))) 0,
      let s := withReq (copyReq [.waiting] (.cpy false 128 0))
      (s.req? 5).any fun r => r.core == 0 && !r.dropped && !r.parked && r.bursts[0]? == some .waiting && s.headOfChan r && r.lowest == none &&
        (match r.xfer.loadPiece s (r.xfer.m.piece 0) with | .ok _ => true | .error _ => false) && s.barLive r &&
        ((s.bar r.cohort r.barrier).apply r.core (-128)).isSome,
      let s := withReq { copyReq [.waiting] (.cpy false 128 0) with map := natLe 7 0x70000000 ++ mapImage.drop 7, orphan := true }
      (s.req? 5).any fun r => (match r.xfer.loadPiece s (r.xfer.m.piece 0) with | .ok _ => false | .error _ => true) && !s.barLive r,
      (copyReq [.done] (.cpy true 128 0)).bursts.all (· == .done)
    ] := by
  decide +kernel

theorem wit_EngineEnds :
    holds [
      let s := withReq (copyReq [.faulted 3] (.gread 0x2000 0 .plain 0))
      (s.req? 5).any fun r => !r.hasWaiting && r.lowest == some (0, 3) && s.barLive r && decide ((s.faultList 0).length < 64) &&
        (s.bar r.cohort r.barrier).fault == 0 && (s.cohort? r.cohort).any fun c => c.st == .resident,
      ([(copyReq [.faulted 3] (.cpy false 128 0)), copyReq [.waiting] (.cpy false 128 0), copyReq [.waiting] (.gread 0x2000 0 .plain 0),
        copyReq [.waiting] (.cnd .f32)].all fun r => ((withReq r).req? 5).any fun r => r.core == 0 && !r.parked && !r.dropped),
      let s := withReq { copyReq [.waiting] (.csr .f32 128 256 4 0) with params := [0x8000, 0x9000, 0xA000, 0] }
      (s.req? 5).any fun r => s.headOfChan r && (match s.csrData r .f32 4 with | .ok _ => true | .error _ => false),
      let s := withReq (copyReq [.waiting] (.cnd .f32))
      (s.req? 5).any fun r => (cndShape (r.params.getD 2 0) (r.params.getD 3 0)).ok &&
        (match s.cndStream r with | .ok bs => bs == [] | .error _ => false) && !(cndShape 0 0).ok,
      let s := withReq { copyReq [.waiting] (.coll .allreduce .add false true .f32 { part := 0, group := 0, op := 0, ranks := 1, rank := 0, head := [] }) with parts := [(0, natLe 4 0)] }
      (s.req? 5).any fun r => r.parts.length == 1 && (s.cohort? r.cohort).any fun c => decide ((collArgs r.params).cnt ≤ c.wsize)
    ] := by
  decide +kernel

theorem wit_Glints :
    holds [
      let s := withReq (copyReq [.read (List.replicate 128 7)] (.gread 0x2000 0 .plain 0))
      (s.req? 5).any fun r => (s.beam? ⟨0, 64⟩).isNone && r.bursts[0]? == some (.read (List.replicate 128 7)) &&
        !Fmt.four (TMap.ofBytes r.map).fmt,
      meets base (plain []) (fun x => x.b.glint.isNone),
      let s := onB (fun b => { b with glint := some { req := 5, burst := 0, barrier := 64, issuer := ⟨0, 1⟩ } }) (withReq (copyReq [.running] (.gread 0x2000 0 .plain 0)))
      meets s (plain []) (fun x => x.b.converged && x.b.glint.any fun g => (s.req? g.req).isSome)
    ] := by
  decide +kernel

/-- A beam of 32 lanes with two tiles. -/
def tiled : State :=
  let e : Entry := { Entry.none_ with st := .run, pc := loadPc, mask := fullMask 32
                                      blk := some { hdr := 0x1000, len := 4, x := true, rcv := 0, livev := 255, livea := 15 } }
  let b := (Beam.fresh ⟨0, 0⟩ ⟨1, 0⟩ 0 32 64 64 16 2 8).setEntry 0 e
  { base with beams := [sreg 2 0 b] }

theorem wit_MatrixAndTiles :
    holds [
      meets tiled (shut (tileUses 1 tiled.pairWidth true 0 ++ rowUses (vr 8) (aRegs .f16) 1 ++ SArg.uses 2 (sr 2))) (fun x =>
        (x.oddTrap (vr 8)).isNone && (x.shapeTrap 1).isNone && (tiled.matTrap x .read 0 1024).isNone && !tiled.unitBusy x &&
          !tiled.tileBusy x.b.key 1 x.tiles && (x.oddTrap (vr 9)).isSome),
      meets base (shut (rowUses (vr 2) 2 1 ++ SArg.uses 2 (sr 2))) (fun x => (x.oddTrap (vr 2)).isNone && (x.shapeTrap 0).isSome),
      let p : MmaPend := { beam := ⟨0, 0⟩, op := { noOp with off := some 0, b := [1, 2] }, tile := 0, tiles := [], flags := 0, ready := 9 }
      (p.sees [1, 2] [1, 3] fun _ => true).op.b == [1, 3] && (p.sees [1, 2] [1, 3] fun _ => false) == p &&
        (p.op.product == (p.tiles, p.flags)),
      let s := { tiled with mmas := [{ beam := ⟨0, 0⟩, op := noOp, tile := 1, tiles := [{ vals := [], cnts := [] }], flags := 0, ready := 0 }] }
      meets s (openL (tileUses 1 false true 0)) (fun x => s.tileBusy x.b.key 1 1 && !s.tileBusy x.b.key 0 1 &&
        s.mmas.any fun m => m.beam == x.b.key && decide (m.ready ≤ s.clock)),
      meets tiled (openL (regUses .s 2 false 0 false false ++ tileUses 1 false false 1)) (fun x => (tiled.matTrap x .write 0 1024).isNone)
    ] := by
  decide +kernel

theorem wit_LongLatencyResults :
    holds [
      meets base (plain (dstV .f32 14 ++ VArgI.uses false 1 (.reg (vr 2)))),
      meets base (plain (dstS 1 ++ VArg.uses true 1 (vr 2) ++ laneUses (.lane (.reg (sr 3))))),
      meets base (plain (dstS 1 ++ regUses .c 15 false 1 false false))
    ] := by
  decide +kernel

/-! ### States that meet the statements' hypotheses: the system, scheduling, messages and the board -/

/-- A queue with one record at its HEAD. -/
def queued (rec : List Byte) (st : QState := .running) (s : State := base) (cls : Nat := 0) : State :=
  { s with
    mem := (rec.zipIdx.filter fun x => x.1 != 0).foldl (fun m x => Memory.write m (0x20000 + x.2) x.1) s.mem
    queues := [{ num := 1, ctx := 1, desc := 0x30000, base := 0x20000, size := 16, cls := cls, weight := 1, st := st, fcode := 0
                 tail := 1, head := 0, done := 0, fseq := 0, hostStop := false, ctxStop := false, finished := [], offered := none
                 credit := 0, recs := [(1, rec)] }] }

/-- Records of each type with sequence number 1. -/
def recOf (ty : Nat) (words : List Nat) : List Byte :=
  natLe 8 ty ++ natLe 8 1 ++ words.flatMap (natLe 8) ++ natLe (8 * (6 - words.length)) 0

/-- A LAUNCH of one cohort of one beam of 8 lanes, whose entry is a header with K at 0x3000. -/
def launchRec : List Byte :=
  natLe 8 1 ++ natLe 8 1 ++ natLe 8 0x3000 ++ natLe 4 1 ++ natLe 1 1 ++ natLe 1 8 ++ natLe 2 16 ++ natLe 1 8 ++ natLe 1 4 ++ natLe 2 0 ++
    natLe 4 1024 ++ natLe 8 77 ++ natLe 16 0

theorem wit_LaunchAndAppends :
    holds [
      meets (sregs [(2, 1), (3, 0x8000)]) (plain (dstS 1 ++ SArg.uses 1 (sr 2) ++ SArg.uses 2 (sr 3))) (fun x =>
        let us := [(x.lead, (x.sval (sr 3) : Int))]
        !Fmt.isAbsent .n64 (x.sval (sr 2)) && !Fmt.isAbsent .n64 (x.sval (sr 3)) && (x.memTrap launchAcc (base.laneFaults x launchAcc us)).isNone &&
          base.migrating x launchAcc us == [] && (x.memTrap launchAcc (base.laneFaults x launchAcc [(x.lead, (0x8008 : Int))])).isSome),
      meets (sregs [(2, 2 ^ 64 - 1)]) (plain (dstS 1 ++ SArg.uses 1 (sr 2) ++ SArg.uses 2 (sr 3))) (fun x =>
        Fmt.isAbsent .n64 (x.sval (sr 2))),
      let s := queued (recOf 7 [])
      (s.queue? 1).any fun q => q.st == .running && decide (q.tail - q.head < q.size) && (s.context? q.ctx).any fun c => c.st == .open_,
      recordValid (recOf 7 []) && !recordValid (recOf 8 []) && (base.queue? 1).isNone
    ] := by
  decide +kernel

/-- The beam at PL1. -/
def atPl1 (s : State := base) : State := onB (fun b => { b with pl := true }) s

theorem wit_SystemInstructions :
    holds [
      meets (atPl1 (sregs [(2, 0x8000)])) (kern (dstS 1 ++ regUses .s 2 false 1 false false ++ regUses .s 3 false 2 false false)) (fun x =>
        (base.kernelOf x.b).isSome && (base.contextOf x.b).isSome && decide ((x.b.sreg 2).toNat < 2 ^ 56)),
      meets (atPl1 (sregs [(2, 2 ^ 56)])) (kern (regUses .s 2 false 1 false false)) (fun x =>
        !Fmt.isAbsent .n64 (x.b.sreg 2).toNat && decide (2 ^ 56 ≤ (x.b.sreg 2).toNat)),
      meets (onB (sreg 2 0x18000) inHandler) (kern (regUses .s 2 false 1 false false)) (fun x =>
        let us := x.imageUnits 0x18000
        x.b.trap.isSome && (x.memTrap (imageAcc .write) (inHandler.laneFaults x (imageAcc .write) us)).isNone &&
          inHandler.migrating x (imageAcc .write) us == [] && (x.memTrap (imageAcc .read) (inHandler.laneFaults x (imageAcc .read) us)).isNone),
      meets (sregs [(2, 3)]) (plain (regUses .s 2 false 1 false false)) (fun x =>
        !(base.coreOf x.core).trace.mark && !(base.coreOf x.core).spec.spctl.getLsbD 63),
      meets base (plain (regUses .s 1 false 0 false false)) (fun x => base.quiet x.b),
      (base.context? 1).any fun c => (base.part? c.part).any fun p =>
        (base.tableAt p 0x8000 ((List.range 1).map (· + 1)) c.root).isSome && (base.tableAt p 0x8000 ((List.range 0).map (· + 1)) c.root).isSome
    ] := by
  decide +kernel

theorem wit_FirmwareCalls :
    holds [
      meets (atPl1 (sregs [(2, 5)])) (kern (dstS 1 ++ regUses .s 2 false 1 false false)) (fun x => x.entry.wait.isNone),
      meets (atPl1 (waiting .fwcall (some 9) true 7 (.fwcall 1 2 3))) (kern (dstS 1 ++ regUses .s 2 false 1 false false)) (fun x =>
        x.entry.wait.any fun w => w.woken),
      let s := waiting .fwcall (some 0) false 7 (.fwcall 1 2 3)
      (s.beam? ⟨0, 0⟩).any fun y => (y.calling 0).any (fun w => w.rem == some 0) && decide (0 < y.split.length) && (s.contextOf y).isSome,
      (base.context? 1).any fun c => (xlFaults c .write (base.xlate (.beam 0) true c 0x8000)).isEmpty && !(base.xlate (.beam 0) true c 0x8000).migrates .write &&
        !(xlFaults c .read (base.xlate (.beam 0) false c (2 ^ 40))).isEmpty
    ] := by
  decide +kernel

theorem wit_RegisterPages :
    holds [
      let p := (base.coreOf 0).spec
      p.sg.length == 4 && p.sg.all (·.length == 18) && p.stat.length == 4,
      let s : State := { base with cores := base.cores.map fun c => { c with spec := { c.spec with spctl := 2 ^ 63, ctl := 2 ^ 63 } } }
      s.samplesNow (s.coreOf 0) && (s.coreOf 0).spec.ctl.getLsbD 63 && !(s.coreOf 0).counted,
      let s : State := { base with cores := base.cores.map fun c => { c with quads := c.quads.map fun q => { q with engaged := true } } }
      ((s.coreOf 0).quads[3]?).any (fun q => q.engaged && !q.rotated) && s.clock % 256 == 0 && (s.partOfCore 0).isSome
    ] := by
  decide +kernel

/-- It is the turn of the only queue, whose record therefore stands at HEAD and may be taken, and is of the type. -/
def goes (s : State) (ty : Nat) : Bool :=
  (s.mem.read 0x20000).toNat == ty && (s.part? 0).any fun p => s.nextQueue p == some 1

theorem wit_QueueCommands :
    holds [
      goes (queued (recOf 3 [0x8000, 0])) 3, goes (queued (recOf 4 [0x8000, 5]) .blocked) 4, goes (queued (recOf 5 [0x8000])) 5,
      goes (queued (recOf 7 [])) 7, goes (queued (recOf 2 [0x8000, 0x9000, 64])) 2, goes (queued (recOf 6 [1])) 6,
      let s := queued (recOf 3 [0x8004, 0])
      (s.queue? 1).any fun q => (s.context? 1).any fun c => (s.part? 0).any fun p => (s.headCmd q).any fun r => s.judge p c q r == .fault 4,
      let s := queued (recOf 3 [0x8000, 1])
      (s.queue? 1).any fun q => (s.context? 1).any fun c => (s.part? 0).any fun p => (s.headCmd q).any fun r => s.judge p c q r == .wait,
      let s := queued (recOf 8 [])
      (s.queue? 1).any fun q => q.serves && (s.headCmd q).isNone,
      (base.context? 1).any fun c => (base.ioFault viaQueue c .read 0x8000 64).isNone && (base.ioFault viaQueue c .write 0x9000 64).isNone &&
        !base.ioMigrates viaQueue c 0x9000 64 && (base.ioFault viaQueue c .read (2 ^ 40) 64).isSome
    ] := by
  decide +kernel

/-- Another leaf entry for the page of low addresses, in far memory that no CXL port reaches. -/
def leafed (lo hi : Byte) (s : State := base) : State :=
  { s with
    mem := s.mem.map fun c => if c.1 == 0x14000 then (c.1, lo) else if c.1 == 0x14001 then (c.1, hi) else c
    hdm := [{ base := 0, limit := 2 ^ 30, ports := [3], gran := 256 }]
    parts := s.parts.map fun p => { p with far := [(0, 2 ^ 30)] } }

/-- A COPY that has been taken. -/
def copying (waits : Option Nat) (s : State := base) : State :=
  { queued (recOf 2 [0x8000, 0x9000, 64]) .running s with
    cmds := [{ queue := 1, seq := 1, copy := some (0x8000, 0x9000, 64), cohorts := [], waits := waits, down := none, written := false }] }

def copyHolds (s : State) (waits down : Bool) : Bool :=
  (s.context? 1).any fun c => (s.ioFault viaQueue c .read 0x8000 64).isNone && (s.ioFault viaQueue c .write 0x9000 64).isNone &&
    s.ioMigrates viaQueue c 0x9000 64 == waits && s.ioDown viaQueue true c 0x9000 64 == down &&
    s.ioDown viaQueue false c 0x8000 64 == down && (s.cmds.find? fun c => c.queue == 1 && c.seq == 1).isSome

theorem wit_CopyEnds :
    holds [
      copyHolds (copying none) false false, copyHolds (copying none (leafed 0x1D 0x0F)) true false,
      copyHolds (copying (some 0) (leafed 0x1D 0x0F)) true false, copyHolds (copying none (leafed 0x5D 0x0E)) false true,
      -- it is the turn of another queue of a higher class
      let s := queued (recOf 7 []) .running base 1
      let s' : State := { s with queues := s.queues ++ s.queues.map fun q => { q with num := 2, cls := 0 } }
      (s'.queue? 1).any fun q => (s'.context? 1).any fun c => (s'.part? 0).any fun p => s'.nextQueue p != some 1 &&
        (s'.headCmd q).any fun r => s'.judge p c q r == .go
    ] := by
  decide +kernel

/-- The LAUNCH and its entry's header. -/
def launching : State := queued launchRec .running (base.writeBytes none false 0x3000 (natLe 4 0x801))

theorem wit_LaunchCommand :
    holds [
      goes launching 1 && (launching.context? 1).any fun c => (launching.part? 0).any fun p =>
        (launching.launchPlace (.launch 1 1) p c (launchOf launchRec)).any fun r => r.1 == 0 && r.2.1.core == 1
    ] := by
  decide +kernel

/-- A kernel with a cohort to place. -/
def placing : State :=
  { base with kernels := base.kernels.map fun k => { k with st := .placing, launch := { k.launch with cohorts := 2 } } }

/-- A partition of one cluster whose four cores hold a whole window each; the cohort of core 0 sleeps in WAITV, and another
waits for a place. -/
def crowded : State :=
  let w := 3145728
  let z := loadCohort
  let s := onE (fun e => { e with wait := some { kind := .waitv, ins := .nop, words := 2, waited := 7, rem := none, woken := false, aux := 0 } })
  { s with
    clock := 3000000
    kernels := s.kernels.map fun k => { k with ctx := 1, st := .running, launch := { k.launch with window := w, cohorts := 5 }, placed := 5 }
    parts := s.parts.map fun p => { p with clusters := [0], slice := 2250000 }
    cohorts := (List.range 4).map (fun i => { z with key := ⟨1, i⟩, core := i, wsize := w, wbase := 0, stop := none }) ++
      [{ z with key := ⟨1, 4⟩, core := 0, wsize := w, st := .parked, woken := some 0, save := some (0x40000, 0x4000) }] }

theorem wit_Exchange :
    holds [
      let s := crowded
      (s.cohort? ⟨1, 4⟩).any fun z => z.st == .parked && z.woken.isSome && (s.kernel? 1).any fun k => (s.home k).any fun h =>
        h.2.st == .open_ && (s.parkedSpot z k).isNone && (s.exchangeVictim h.1 k z).map (·.key) == some ⟨1, 0⟩ &&
          !s.leaving (.restore ⟨1, 4⟩) &&
          (s.evictFor (.restore ⟨1, 4⟩) k.launch (s.savedQuads z) [⟨1, 0⟩] 0 true).leaving (.restore ⟨1, 4⟩),
      (base.cohort? ⟨1, 0⟩).any fun y => y.st == .resident && y.stop.isNone
    ] := by
  decide +kernel

theorem wit_PlacementAndRetirement :
    holds [
      (placing.kernel? 1).any fun k => (placing.home k).any fun h => k.st == .placing && h.2.st == .open_ &&
        (placing.nextPlace k).any fun n => placing.cohortWork h.1 == some (.cohortPlace 1 n.1.core),
      (base.part? 0).any fun p => (base.sliceChoice p).isNone,
      let s := onB (fun b => { b with exited := 0xFF, retiring := true })
      (s.cohort? ⟨1, 0⟩).any fun y => y.st == .resident && y.stop.isNone && s.mayRetire ⟨1, 0⟩ && (s.kernel? 1).any fun k => k.retired + 1 == k.launch.cohorts,
      (base.context? 1).any fun c => c.st != .faulted
    ] := by
  decide +kernel

/-- A beam at a rest point, its cohort told to stop. -/
def stopping (why : StopWhy) : State :=
  onE (fun e => { e with wait := some { kind := .waitv, ins := .nop, words := 2, waited := 7, rem := none, woken := false, aux := 0 } })
    (onC fun c => { c with stop := some why, save := some (0x40000, 0x4000) })

/-- The cohort parked, its wake condition met. -/
def parkedState : State :=
  onC (fun c => { c with st := .parked, woken := some 0, save := some (0x40000, 0x4000)
                         saved := [{ id := 0, area := 0, place := 0, lv := 8, la := 4, na := 0, laneg := List.range 8, exited := 0, ents := [], recs := [], sends := [] }] })
    { base with beams := [] }

/-- The same with a record that passes the checks of R330. -/
def restorable : State :=
  let area := 0x40000 + recBeams
  let cells := [(area + 1, 1), (area + 2, 8), (area + 6657, 8)] ++ (natLe 4 (imageSize 8)).zipIdx.map (fun b => (area + 8 + b.2, b.1)) ++
    (List.range 8).map fun k => (area + 64 + 32 * k + 24, 0xFF)
  { parkedState with mem := cells.foldl (fun (m : Memory) (c : Nat × Byte) => m.write c.1 c.2) parkedState.mem }

/-- Can the parked cohort's beams be read from its record? -/
def reads (s : State) : Bool :=
  (s.kernel? 1).any fun k => (s.cohort? ⟨1, 0⟩).any fun y => (s.readBeams k y 0x40000 fun _ => ⟨1, 0⟩).isSome

theorem wit_SaveAndRestore :
    holds [
      reads restorable && !reads parkedState,
      ((stopping .evict).cohort? ⟨1, 0⟩).any fun y => y.st == .resident && (stopping .evict).drained y && y.stop == some .evict &&
        y.save.isSome && y.dbg.isNone && ((stopping .evict).kernel? 1).isSome,
      let s := stopping (.debug 3 { src := 1, vfn := 0, vc := 3, eseq := 0, tag := 0, port := 1 })
      (s.cohort? ⟨1, 0⟩).any fun y => s.drained y && (s.beam? ⟨0, 0⟩).any fun b => b.live != 0 && b.glint.isNone,
      [parkedState, restorable].all fun s => (s.cohort? ⟨1, 0⟩).any fun y => y.st == .parked && y.woken.isSome &&
        y.save == some (0x40000, 0x4000) && (s.kernel? 1).any fun k => (s.home k).isSome && (s.parkedSpot y k).any fun sp =>
          (s.part? 0).any fun p => s.cohortWork p == some (.cohortRestore ⟨1, 0⟩ sp.core)
    ] := by
  decide +kernel

/-- A running device with one virtual function, reached by host 7 on VC 1. -/
def managed (s : State := base) : State :=
  { s with
    mgmt := { s.mgmt with running := true, inReset := false, spdm := .negotiated, measures := [[1], [2]] }
    parts := s.parts.map fun p => { p with ingress := [7], egress := [7] }
    vfs := [{ id := 0, part := 0, notes := [], count := 0 }] }

def host : From := { src := 7, vfn := 0, vc := 1, eseq := 0, tag := 3, port := 1 }

/-- The same on the management channel. -/
def host3 : From := { host with vc := 3 }

def admitted (s : State) (f : From) : Bool :=
  s.mgmt.running && f.eseq == (s.flow f.src f.vc).inSeq && s.accepts f (s.partOfVf f.vfn)

theorem wit_ArrivingRequests :
    holds [
      !base.mgmt.running, managed.mgmt.running && host.eseq == (managed.flow 7 1).inSeq,
      !managed.accepts { host with src := 8 } (managed.partOfVf 0) && managed.mgmt.running,
      admitted managed host && (channelsOf 1).contains host.vc && !(channelsOf 6).contains host.vc && (channelsOf 6).contains 3,
      admitted managed host3 && admitted managed { host with vc := 0 } && admitted managed { host with vc := 2 }
    ] := by
  decide +kernel

theorem wit_HostMessages :
    holds [
      admitted managed host && (managed.context? 9).isNone && (managed.context? 1).any fun c => c.vf == host.vfn &&
        (managed.ioFault viaHost c .read 0x8000 16).isNone && (managed.ioFault viaHost c .write 0x8000 16).isNone && !managed.ioMigrates viaHost c 0x8000 16 &&
        (managed.ioFault viaHost c .read (2 ^ 56 - 1) 16).isSome,
      managed.links.find? (fun l => some l.part == (managed.partOfVf 0).map (·.id) && l.index == 0 && l.live) == none,
      -- a page that migrates, with and without a write that waits, and a page of far memory that no port reaches
      let s := managed (leafed 0x1D 0x0F)
      admitted s host && (s.context? 1).any fun c => (s.ioFault viaHost c .write 0x8000 16).isNone && s.ioMigrates viaHost c 0x8000 16 &&
        (s.flow 7 1).waits.isNone,
      let s := managed (leafed 0x1D 0x0F)
      let t := s.setFlow { s.flow 7 1 with waits := some (0, .memwr host 1 0x8000 [7]) }
      admitted t host && (t.flow 7 1).waits.any fun w => w.1 == 0 && decide (t.clock < w.1 + 65536),
      let s := managed (leafed 0x5D 0x0E)
      admitted s host && (s.context? 1).any fun c => (s.ioFault viaHost c .read 0x8000 16).isNone &&
        (s.ioNotes viaHost c 0x8000 16 false).ioDown viaHost false c 0x8000 16,
      let s := managed (ringed 0 0 [])
      (match ringOf ringHandle.toNat with | .window dev k c off => dev == s.mgmt.device && k == 1 && c == 0 && off == 128 | _ => false) &&
        (s.kernel? 1).any fun k => (s.home k).any fun h => s.accepts host (some h.1) && (s.receiver 1 0).isSome &&
          (s.ring? (.window ⟨1, 0⟩) 128).any fun r => r.fits 256
    ] := by
  decide +kernel

theorem wit_RepliesAndTimeouts :
    holds [
      let s := { managed with fabric := [{ tag := 3, peer := 7, part := some 0, since := 0, limit := 0, what := .msend ⟨1, 0⟩ ⟨0, 0⟩ 0 55 false }] }
      s.mgmt.running && (s.fabric.find? (fun r => r.tag == host.tag && r.peer == host.src)).any (fun r => decide (r.since + r.limit ≤ s.clock) &&
          s.accepts host (r.part.bind s.part?)) &&
        (s.beam? ⟨0, 0⟩).any fun y => decide (55 < y.s.length),
      let s := { managed with fabric := [{ tag := 3, peer := 7, part := some 0, since := 0, limit := 22500, what := .coll 5 7 },
          { tag := 4, peer := 7, part := some 0, since := 0, limit := 0, what := .note 0 1 }] }
      (s.fabric.find? (fun r => r.tag == 3)).any fun r => decide (s.clock < r.since + r.limit)
    ] := by
  decide +kernel

theorem wit_ContextRequests :
    holds [
      admitted managed host3 && lowestFree 4096 (managed.contexts.map (·.id)) == some 0 && (managed.partOfVf 0).any fun p =>
        p.holdsContext 0x2000 0x10000 1 && !p.holdsContext 0x1000 0x10000 1 && !p.world,
      (managed.context? 1).any fun c => c.vf == host.vfn && c.st == .open_ && (managed.cohort? ⟨1, 0⟩).any fun y => !managed.stopPends y,
      let s := managed (stopping .evict)
      (s.cohort? ⟨1, 0⟩).any fun y => y.st == .resident && y.stop == some .evict && !s.stopPends y,
      let s := managed parkedState
      (s.cohort? ⟨1, 0⟩).any fun y => y.st == .parked && y.save.isSome && !s.stopPends y,
      let s : State := { managed with contexts := managed.contexts.map fun c => { c with st := .stopped } }
      (s.context? 1).any fun c => c.st == .stopped
    ] := by
  decide +kernel

theorem wit_QueueAndGroupRequests :
    holds [
      admitted managed host3 && (managed.context? 1).any fun c => c.vf == 0 && lowestFree 8192 (managed.queues.map (·.num)) == some 0 &&
        (16 == 2 ^ Nat.log2 16) && (managed.nearPages c 0x20000 (64 * 16)).isSome && (managed.nearPages c 0x30000 64).isSome,
      let s := managed (queued (recOf 7 []) .stopped)
      (s.queue? 1).any fun q => !q.serving && q.done == q.head && (s.context? q.ctx).any fun c => c.vf == 0,
      (managed.context? 1).any fun c => (managed.part? c.part).any fun p => (managed.linkOf c.part 0x10000).isNone &&
        lowestFree 64 (((managed.links.filter fun g => g.part == p.id).filter fun g => g.live).map (·.index)) == some 0 &&
          managed.deviceList c 0x8000 1 == some [0]
    ] := by
  decide +kernel

theorem wit_SpdmResponses :
    holds [
      admitted managed host3 && managed.mgmt.spdm == .negotiated && managed.mgmt.measures[2 - 1]? == some [2],
      managed.mgmt.spdm != .versioned && managed.mgmt.spdm != .capable
    ] := by
  decide +kernel

theorem wit_PortsAndFarMemory :
    holds [
      let s : State := { managed with ports := [{ Port.reset 3 with st := .up, badRun := 15 }, { Port.reset 4 with st := .training, failed := 2 }, { Port.reset 5 with st := .fenced }] }
      (s.port? 3).any (fun p => p.usable && decide (15 ≤ p.badRun)) && (s.port? 4).any (fun p => p.st == .training && decide (2 ≤ p.failed)) &&
        (s.port? 5).any fun p => p.st == .fenced,
      let s : State := { managed with parts := managed.parts.map fun p => { p with farWin := [(2 ^ 40, 2 ^ 41)] } }
      (s.part? 0).any fun p => (p.farWin.any fun w => decide (w.1 ≤ 2 ^ 40 ∧ 2 ^ 40 + 4096 ≤ w.2)) && decide (s.farBytes + 4096 ≤ 2 ^ 44)
    ] := by
  decide +kernel

/-- A flit passes its check whatever the check is. -/
theorem wit_goodFlit : ∃ rest : List Byte, rest.length = 252 ∧
    leNat (rest.drop 244) = (Config.flitCheck (natLe 4 (0 + 2 ^ 2 * 7 + 2 ^ 14 * 9 + 2 ^ 26 * 0) ++ rest.take 244)).toNat := by
  obtain ⟨l, hl⟩ : ∃ l : List Byte, l.length = 244 := ⟨List.replicate 244 0, List.length_replicate⟩
  refine ⟨l ++ natLe 8 (Config.flitCheck (natLe 4 (0 + 2 ^ 2 * 7 + 2 ^ 14 * 9 + 2 ^ 26 * 0) ++ l)).toNat, ?_, ?_⟩
  · rw [List.length_append, hl, natLe_length]
  · rw [List.drop_left' hl, List.take_left' hl, leNat_natLe]
    exact Nat.mod_eq_of_lt (Config.flitCheck _).isLt

/-- RESET_N asserted with power good; an image that is too short. The checks behind it depend on the fuses, which the
manual leaves to the implementation. -/
theorem wit_ResetAndBoot :
    holds [
      let s : State := { base with mgmt := { base.mgmt with pwrgood := true, inReset := true } }
      s.mgmt.inReset && s.mgmt.pwrgood && imgFault [] 0x4E5A4657 == some 1 && !base.mgmt.pwrgood
    ] := by
  decide +kernel

theorem wit_BoardAndPower :
    holds [
      let s : State := { managed with mgmt := { managed.mgmt with locked := true, pins := 10, faultn := some 0 } }
      s.mgmt.locked && (s.part? 0).isSome && !s.mgmt.inReset && s.mgmt.pins.getLsbD 1 && s.mgmt.faultn == some 0,
      !base.mgmt.locked && base.mgmt.inReset && !base.mgmt.pins.getLsbD 3,
      let s : State := { managed with turns := [.setting (.slice 0 7), .setting (.timeout 0 2250), .setting (.cgctl 0 0)] }
      s.mgmt.running && (s.part? 0).isSome && (match s.turn with | .setting _ => true | _ => false)
    ] := by
  decide +kernel

/-- The first step from a state into which an instruction has been put runs that instruction: a NOP, and a word that no
instruction has. -/
theorem wit_StepRunsTheInstruction :
    holds [
      let s := State.reset.withFetchWord 32 0x20
      s.turn == .run ⟨0, 0⟩ 0 && (s.begin.beam? ⟨0, 0⟩).any fun b => (b.entry 0).st == .run && s.begin.mayGo b 0 && s.begin.fetchFor b 0 == .ok .nop ⟨0x20, 0, 0⟩ 1 &&
        (s.begin.contextOf b).isSome && (b.entry 0).wait.isNone && ((b.entry 0).blk.any fun k => (b.entry 0).pc != k.stop),
      let s := State.reset.withFetchWord 32 0x300
      (s.begin.beam? ⟨0, 0⟩).any fun b => match s.begin.fetchFor b 0 with | .trap t _ => t.code == 2 | _ => false,
      (State.reset.turn == .tick),
      let s := State.reset.withFetchWord 32 0x20
      let t : State := { s with beams := s.beams.map fun b => b.setEntry 0 { b.entry 0 with st := .free } }
      t.turn == .run ⟨0, 0⟩ 0 && (t.begin.beam? ⟨0, 0⟩).any fun b => !t.begin.mayGo b 0
    ] := by
  decide +kernel

theorem wit_MemoryStaysCanonical : holds [Memory.wf base.mem, Memory.wf State.reset.mem] := by
  decide +kernel

theorem wit_BeamsStayShaped : holds [base.shaped, State.reset.shaped] := by
  decide +kernel

theorem wit_DecodeOfEncode :
    holds [
      Instr.wf (.iadd .s32 10 (vr 20) (.imm 7)) && (encodeRaw (.iadd .s32 10 (vr 20) (.imm 7))).isSome
    ] := by
  decide +kernel

/-! ### States that meet the hypotheses of the statements' further clauses -/

/-- The handler of the beam's context has no header at an address. -/
def noHeader (s : State) (x : Frag) (target : Nat) : Bool :=
  (s.contextOf x.b).any fun c => (s.headerFault x.core c target).isSome

theorem wit_TransfersToNoHeader :
    holds [
      let s := onB fun b => { b with k := List.replicate 8 1 }
      meets s (plain [{ set := .k, r := 7, src := 1, dst := false, trap := false }]) (fun x =>
        dispose .ux (Tri.ofCode (x.b.kreg 7)) == some .t && noHeader s x (x.target 1023)),
      meets (sregs [(9, 2)]) (plain [{ set := .s, r := 9, src := 1, dst := false, trap := false },
        { set := .s, r := 9, src := 0, dst := true, trap := false }]) (fun x => noHeader (sregs [(9, 2)]) x (x.target 1023)),
      meets (sregs [(2, 0x3000)]) (plain (SArg.uses 1 (sr 2))) (fun x =>
        decide (x.sval (sr 2) < 2 ^ 56) && noHeader (sregs [(2, 0x3000)]) x (x.sval (sr 2))),
      let s := onE fun e => { e with rstack := [0x3000] }
      meets s (plain []) (fun x => noHeader s x 0x3000),
      meets split4 (plain [{ set := .c, r := 0, src := 1, dst := false, trap := false }]) (fun x => x.b.glint.isNone &&
        brvUnknown x 0 == 0 && (brvPaths x .ux 0 1023 0 0).any fun p => !p.inside && noHeader split4 x p.target)
    ] := by
  decide +kernel

/-- The branch of `split4` with every other entry in use and records on the stack. -/
def stackFull (n : Nat) : State :=
  onB (fun b => { (List.range 7).foldl (fun (b : Beam) k => b.setEntry (k + 1) { Entry.none_ with st := .held }) b with
    dstack := List.replicate n { marker := false, pc := 0x2000, mask := 0, j := 0x2000, owner := 1, rstack := [], blk := none, back := false } })
    split4

theorem wit_StackedDivergence :
    holds [
      meets (stackFull 14) (plain [{ set := .c, r := 0, src := 1, dst := false, trap := false }]) (fun x =>
        let ps := brvPaths x .uf 0 511 0 0
        ps.length == 2 && (match (stackFull 14).reconv x with | .ok _ => true | _ => false) && (x.b.entriesIn .free).length == 0 &&
          x.b.dstack.length + ps.length == 16 && (ps.map fun p => leadOf p.mask) == [0, 4] &&
          ps.all fun p => p.inside || ((stackFull 14).transferTrap x p.target).isNone),
      meets (stackFull 15) (plain [{ set := .c, r := 0, src := 1, dst := false, trap := false }]) (fun x =>
        (match (stackFull 15).reconv x with | .ok _ => true | _ => false) && x.b.dstack.length + 2 == 17),
      meets (onE (fun e => { e with blk := some { hdr := 0x1000, len := 4, x := true, rcv := 0, livev := 255, livea := 15 } }) split4)
        (plain []) (fun x => x.block.rcv == 0 && (brvPaths x .uf 0 511 0 0).length == 2)
    ] := by
  decide +kernel

theorem wit_LastTrappedLaneExits :
    holds [
      let s := onE (fun e => { e with pc := 0x2008, blk := some { hdr := 0x2000, len := 4, x := true, rcv := 0, livev := 255, livea := 15 } })
        { diverged.trapEntry ⟨0, 0⟩ 0 loadPc 1 (Trap.simple gSOFTWARE 7 0) with cur := some ⟨⟨0, 0⟩, 0, 0x2008, ⟨0, 0, 0⟩, 1⟩ }
      meets s (plain []) (fun x => x.b.glint.isNone && x.b.live &&& ~~~x.mask == 0xF0 && x.b.entriesIn .join == [] &&
        x.b.trap.any fun tm => tm.held.mask &&& ~~~(x.b.exited ||| x.mask) == 0 && tm.loaded.isNone && tm.users.contains 1 &&
          (x.b.entry 1).st == .held)
    ] := by
  decide +kernel

/-- Does the pair at the BFUSE fail with this code? -/
def failing (s : State) (c : Nat) : Bool :=
  meets s (shut (dstS 1)) (fun x =>
    match s.buddy x.b with
    | .ok y => x.b.shaped && y.shaped && x.w != 64 && x.b.converged && y.converged && !s.pending x.b && s.beam? y.key == some y &&
        decide (x.b.coloff < y.coloff) &&
        y.fusing.any fun f => decide (f.2.1.toNat < y.ns) && s.pairFault (x.pc, (y.entry f.1).pc) x.b y == some c
    | .error _ => false)

/-- The upper buddy changed. -/
def upper (f : Beam → Beam) : State := { buddies with beams := buddies.beams.map fun b => if b.id == 4 then f b else b }

theorem wit_PairsFail :
    holds [
      failing (upper fun b => b.setEntry 0 { b.entry 0 with pc := loadPc + 4 }) 3,
      failing (upper fun b => { b with na := 1, tiles := [{ vals := List.replicate 1024 0, cnts := List.replicate 1024 0 }] }) 5,
      failing { buddies with kernels := buddies.kernels.map fun k => { k with groups := [{ index := 0, st := .live, gen := 1, members := [(0, 4)] }] } } 6,
      let s := upper fun b => b.setEntry 0 { b.entry 0 with wait := (b.entry 0).wait.map fun w => { w with rem := some 0 } }
      (s.beam? ⟨0, 1⟩).any fun b => b.fusing.any fun f => f.2.2.rem == some 0 && !s.stopped b f.1
    ] := by
  decide +kernel

theorem wit_MisalignedForms :
    holds [
      meets (atVa 0x8002) (openL (dstV .n32 14 ++ atomUses false (vr 4) ++ VArgI.uses false 2 (.reg (vr 6)) ++
          casUses .add .n32 (.reg (vr 6)))) (fun x =>
        ((x.present (x.atomAddr false (vr 4))).filter fun l => l.2 % 4 != 0).head? == some (0, 0x8002) &&
          !(AOrd.releases .rel && (atVa 0x8002).unperformed x .dev)),
      meets (sregs [(2, 1021)]) (openL (dstS 1 ++ SArg.uses 1 (sr 2) ++ SArgI.uses 2 (.imm 1) ++ casUses .add .n32 (.imm 1))) (fun x =>
        ((x.single true (.uni (sr 2) none)).filter fun l => l.2 % 4 != 0).head? == some (0, 1021)),
      meets (sregs [(2, 1021)]) (openL (dstS 1 ++ MemArg.uses true win)) (fun x =>
        ((x.single true win).filter fun l => l.2 % 4 != 0).head? == some (0, 1021)),
      meets (sregs [(2, 1021)]) (openL (regUses .s 3 false 0 false false ++ MemArg.uses true win)) (fun x =>
        ((x.single true win).filter fun l => l.2 % 4 != 0).head? == some (0, 1021))
    ] := by
  decide +kernel

theorem wit_ReleaseHeldUp :
    holds [
      let s : State := { atVa 0x8000 with posted := [{ who := .beam ⟨0, 0⟩, kernel := some 1, line := 0, sys := false, since := 0 }] }
      meets s (openL (dstV .n32 14 ++ atomUses false (vr 4) ++ VArgI.uses false 2 (.reg (vr 6)) ++ casUses .add .n32 (.reg (vr 6))))
        (fun x => AOrd.releases .rel && s.unperformed x .sys),
      let s : State := { base with posted := [{ who := .beam ⟨0, 0⟩, kernel := some 1, line := 0, sys := false, since := 0 }] }
      meets s (openL []) (fun x => s.unperformed x .sys)
    ] := by
  decide +kernel

theorem wit_OldestWay :
    holds [
      let ws : List TagEntry := [⟨true, 2, 9⟩, ⟨true, 3, 8⟩, ⟨true, 3, 7⟩, ⟨true, 0, 6⟩]
      (tagHit ws 5).isNone && ws.all (·.v) && (ws.zipIdx.all fun p => decide (p.1.age ≤ 3) && (decide (1 ≤ p.2) || decide (p.1.age < 3)))
    ] := by
  decide +kernel

theorem wit_CachesInScope :
    holds [
      Scope.covers .core 0 0 && !Scope.covers .core 0 1,
      meets (sregs [(2, 0x8000)]) (openL (MemArg.cacheUses (.uni (sr 2) none))) (fun x =>
        decide (x.core < 256) && ((sregs [(2, 0x8000)]).named x (.uni (sr 2) none)).length == 8 && !Scope.wide .core &&
          ((sregs [(2, 0x8000)]).named x (.uni (sr 2) none)).all fun p => p.2 != 1 && lineOf p.1 == lineOf 0x8000)
    ] := by
  decide +kernel

theorem wit_TrappedWaitWakes :
    holds [
      let s := (waiting .waitv none).trapEntry ⟨0, 0⟩ 0 loadPc 1 (Trap.simple gDEBUG 2 0)
      (s.beam? ⟨0, 0⟩).any fun b => b.trap.any fun tm => tm.entry == 0 && tm.held.wait.any fun w => w.kind == .waitv,
      let s := (waiting .mwait none).trapEntry ⟨0, 0⟩ 0 loadPc 1 (Trap.simple gDEBUG 2 0)
      (s.beam? ⟨0, 0⟩).any fun b => b.trap.any fun tm => tm.entry == 0 && tm.held.wait.any fun w => w.kind == .mwait
    ] := by
  decide +kernel

theorem wit_RecordsOfRings :
    holds [
      let s := ringed 448 448 []
      (s.cohort? ⟨1, 0⟩).any fun c => c.key == ⟨1, 0⟩ && c.st == .resident && (s.ring? (.window c.key) 128).any fun r =>
        r.tail % 8 == 0 && r.fits 100 && r.pad 100 == 64 && decide (128 + 32 ≤ r.buf) && (List.range 1024).all fun o => !c.tagged o,
      let s : State := { memRing 2 [(0x8109, 1)] with mem := Memory.write (memRing 2 [(0x8109, 1)]).mem 0x8103 16 }
      meets s (openL (msgUses 1 (sr 2) ++ SArg.uses 2 (sr 4) ++ [{ set := .s, r := 5, src := 5, dst := false, trap := false }])) (fun x =>
        ((s.laneNote x (descAcc .read) 0x8100).ring? (.mem 0 1) 0x8100).any fun r => !r.fits 256 && !s.ringNear r)
    ] := by
  decide +kernel

/-- The low page in far memory behind a port that is down; in far memory, writes of a copy and of a command being on their way. -/
def farPage (s : State := base) : State := leafed 0x5D 0x0E s
def onWay (w : Writer) (s : State := base) : State :=
  { s with posted := [{ who := w, kernel := none, line := 0x8000, sys := true, since := 0 }] }

theorem wit_EnginesWait :
    holds [
      let s := farPage (withReq (copyReq [.waiting] (.cpy false 128 0)))
      (s.req? 5).any fun r => r.down.isNone && s.headOfChan r && match r.xfer.loadPiece s (r.xfer.m.piece 0) with | .error k => k == 20 | .ok _ => false,
      let s := onWay (.req 5) (withReq { copyReq [.done] (.cpy true 128 0) with scope := .sys })
      (s.req? 5).any fun r => s.unfinished r && r.bursts.all (· == .done) && r.lowest == none,
      let s := onWay (.req 5) (withReq { copyReq [.faulted 20] (.cpy true 128 0) with scope := .sys })
      (s.req? 5).any fun r => s.unfinished r && !r.hasWaiting && r.lowest == some (0, 20),
      let s := farPage (withReq { copyReq [.waiting] (.csr .f32 128 256 4 0) with params := [0x8000, 0x9000, 0xA000, 0] })
      (s.req? 5).any fun r => match s.csrData r .f32 4 with | .error k => k == 20 | .ok _ => false,
      let s := withReq (copyReq [.read [1, 2]] (.cnd .f32))
      (s.req? 5).any fun r => r.bursts == [.read [1, 2]] && (cndShape (r.params.getD 2 0) (r.params.getD 3 0)).ok,
      let s : State := { withReq { copyReq [.waiting] (.coll .allreduce .add false true .f32 { part := 0, group := 0, op := 0, ranks := 1, rank := 0, head := [] }) with parts := [(0, natLe 4 0)] } with
        fabric := [{ tag := 3, peer := 7, part := some 0, since := 0, limit := 22500, what := .coll 5 7 }] }
      (s.req? 5).any fun r => r.parts.length == 1 && s.collWaits 5,
      -- a burst that had borne a glint, lost since, and one that had not
      (copyReq [.faulted 29, .faulted 1] (.gread 0x2000 0 .plain 0)).restart.bursts == [.done, .waiting]
    ] := by
  decide +kernel

theorem wit_GlintAndMatrixWaits :
    holds [
      let s := onWay (.beam ⟨0, 0⟩) (onB (fun b => { b with glint := some { req := 5, burst := 0, barrier := 64, issuer := ⟨0, 1⟩ } })
        (withReq { copyReq [.running] (.gread 0x2000 0 .plain 0) with scope := .sys }))
      meets s (plain []) (fun x => x.b.converged && x.b.glint.any fun g => (s.req? g.req).any fun r => s.unperformed x r.scope),
      meets dimState (plain []) (fun x => (dimState.core? x.core).any fun c => c.dim && c.quads[quadOf x.b.key.slot]?.isSome),
      meets (onB (fun b => { b with behind := [(1020, 7)] }) (sregs [(2, 1020)])) (openL (dstS 1 ++ MemArg.uses true win)) (fun x =>
        x.b.behind != [] && (base.cohort? x.b.cohort).isSome)
    ] := by
  decide +kernel

theorem wit_AppendsAndCommands :
    holds [
      let s : State := { queued (recOf 7 []) with contexts := base.contexts.map fun c => { c with st := .stopped } }
      (s.queue? 1).any fun q => q.st == .running && decide (q.tail - q.head < q.size) && (s.context? q.ctx).any fun c => c.st != .open_,
      let s := onWay (.cmd 1 1) { queued (recOf 2 [0x8000, 0x9000, 64]) with
        cmds := [{ queue := 1, seq := 1, copy := some (0x8000, 0x9000, 64), cohorts := [], waits := none, down := none, written := true }] }
      s.unacked (.cmd 1 1) && s.cmds.any (·.written),
      let s := farPage (copying none)
      (s.context? 1).any fun c => (s.ioFault viaQueue c .read 0x8000 64).isNone && !s.ioMigrates viaQueue c 0x9000 64 &&
        s.ioDown viaQueue false c 0x8000 64 && s.cmds.any fun m => m.down.isNone && !m.written
    ] := by
  decide +kernel

theorem wit_MessagesAndPorts :
    holds [
      -- before the firmware runs, on the management channel of the management port
      let s : State := { base with mgmt := { base.mgmt with inReset := false } }
      let f : From := { host3 with port := 0 }
      !s.mgmt.running && s.expects f && !s.expects host3 && !s.expects { f with vc := 1 },
      let s := managed (ringed 0 0 [])
      let s : State := { s with
        parts := (s.parts.map fun p => { p with world := true }) ++ s.parts.map fun p => { p with id := 1 }
        vfs := [{ id := 0, part := 1, notes := [], count := 0 }] }
      (s.kernel? 1).any fun k => (s.home k).any fun h => s.expects host && s.accepts host (some h.1) && h.1.world &&
        (s.partOfVf host.vfn).any fun q => !q.world,
      let s : State := { base with ports := [{ Port.reset 3 with st := .fenced }] }
      !s.mgmt.running && (s.port? 3).any fun p => p.st == .fenced,
      let s := onWay (.beam ⟨0, 0⟩)
      s.posted.any (fun w => w.line == nearLine 0x8000) && !base.flushing.contains (nearLine 0x8000) && base.posted.isEmpty,
      let s : State := { managed with mgmt := { managed.mgmt with pins := 2 }, parts := managed.parts.map fun p => { p with pwrMax := 3 } }
      s.mgmt.pins.getLsbD 1 && (s.part? 0).any fun p => p.pwrMax == 3
    ] := by
  decide +kernel

/-! ## Results worked out by hand from the spec -/

/-! ### Single steps, their results worked out by hand from the rules -/

/-- Two lanes' registers: v1 and v2. -/
def lanes2 (a b : Word) : State := onB fun x => vreg 1 a (vreg 2 b x)

/-- The lane 3 of a vector register after an instruction. -/
def lane3 (r : Nat) (i : Instr) (s : State) : Nat := ((beamAfter i s).vl r 3).toNat

/-- A scalar register after an instruction. -/
def scal (r : Nat) (i : Instr) (s : State) : Nat := ((beamAfter i s).sreg r).toNat

/-- R170, R171: s64 clamps at 2⁶³ − 1 and raises SAT; n64 clamps at 0; b64 wraps; absence is absorbed. -/
theorem test_scalar_arithmetic :
    holds [
      let i : Instr := .sadd .s64 1 (sr 2) (.reg (sr 3))
      scal 1 i (sregs [(2, 2 ^ 63 - 1), (3, 1)]) == 2 ^ 63 - 1 && (beamAfter i (sregs [(2, 2 ^ 63 - 1), (3, 1)])).status == 1,
      scal 1 (.ssub .n64 1 (sr 2) (.imm 5)) (sregs [(2, 3)]) == 0, scal 1 (.smul .b64 1 (sr 2) (.imm 2)) (sregs [(2, 2 ^ 63 + 1)]) == 2,
      scal 1 (.sadd .s64 1 (sr 2) (.reg (sr 3))) (sregs [(2, 2 ^ 63), (3, 1)]) == 2 ^ 63,
      scal 1 (.smad .s64 1 (sr 2) (.imm 4) (sr 3)) (sregs [(2, 3), (3, 5)]) == 17, scal 1 (.smin .s64 1 (sr 2) (.imm 0)) (sregs [(2, 2 ^ 64 - 1)]) == 2 ^ 64 - 1,
      scal 1 (.smax .s64 1 (sr 2) (.imm 0)) (sregs [(2, 2 ^ 64 - 1)]) == 0
    ] := by
  decide +kernel

/-- R169, R171, R173, R174: shifts, bits, counts, LEA and selection. -/
theorem test_scalar_bits :
    holds [
      scal 1 (.ssar .s64 1 (sr 2) (.imm 1)) (sregs [(2, 2 ^ 64 - 3)]) == 2 ^ 64 - 2, scal 1 (.sshr .b64 1 (sr 2) (.imm 64)) (sregs [(2, 7)]) == 0,
      scal 1 (.sshl .n64 1 (sr 2) (.imm 63)) (sregs [(2, 2)]) == 2 ^ 64 - 2, scal 1 (.sand 1 (sr 2) (.imm 6)) (sregs [(2, 12)]) == 4,
      scal 1 (.sor 1 (sr 2) (.imm 6)) (sregs [(2, 12)]) == 14, scal 1 (.sxor 1 (sr 2) (.imm 6)) (sregs [(2, 12)]) == 10,
      scal 1 (.spopc .b64 1 (.reg (sr 2))) (sregs [(2, 0xF0F)]) == 8, scal 1 (.sclz .b64 1 (.reg (sr 2))) (sregs [(2, 0)]) == 64,
      scal 1 (.slea 4 .s64 1 (sr 2) (.imm 3)) (sregs [(2, 0x1000)]) == 0x1030, scal 1 (.smovi 1 (sr 2) 9) (sregs [(2, 5)]) == 5 * 2 ^ 32 + 9,
      scal 1 (.sfill .n64 1 (sr 2) (.imm 9)) (sregs [(2, 2 ^ 64 - 1)]) == 9,
      scal 1 (.ssel .s64 1 (sr 2) (.imm 9) 4) (onB (fun b => { b with k := List.replicate 8 2 }) (sregs [(2, 5)])) == 2 ^ 63,
      (beamAfter (.scmp .gt .s64 0 (sr 7) (.imm 0)) (sregs [(7, 5)])).kreg 0 == 1, (beamAfter (.scmp .lt .n64 0 (sr 7) (.imm 9)) (sregs [(7, 2 ^ 64 - 1)])).kreg 0 == 2,
      (beamAfter (.klog .or 1 2 3) (onB fun b => { b with k := [0, 0, 2, 1, 0, 0, 0, 0] })).kreg 1 == 1
    ] := by
  decide +kernel

/-- R187 to R192: s32 clamps with SAT, n16x2 and s8x4 work by elements, a Prism rotates by one lane. -/
theorem test_integer :
    holds [
      lane3 4 (.iadd .s32 4 (vr 1) (.reg (vr 2))) (lanes2 0x7FFFFFFF 1) == 0x7FFFFFFF, (beamAfter (.iadd .s32 4 (vr 1) (.reg (vr 2))) (lanes2 0x7FFFFFFF 1)).status == 1,
      lane3 4 (.isub .s32 4 (vr 1) (.imm 5)) (lanes2 0x80000001 0) == 0x80000001, lane3 4 (.imul .n16x2 4 (vr 1) (.reg (vr 2))) (lanes2 0x00030100 0x00050100) == 0x000FFFFE,
      lane3 4 (.imulh .n32 4 (vr 1) (.imm 0x10)) (lanes2 0xF0000000 0) == 0xF, lane3 4 (.iabs .s8x4 4 (.reg (vr 1))) (lanes2 0xFF80017F 0) == 0x0180017F,
      lane3 4 (.shl .b32 4 (vr 1) (.imm 31)) (lanes2 3 0) == 0x80000000, lane3 4 (.popc .b32 4 (.reg (vr 1))) (lanes2 0xFF 0) == 8,
      let s := onB fun b => { b with v := b.v.set 1 [0, 1, 2, 3, 4, 5, 6, 7] }
      lane3 4 (.mov .b32 4 (.plain (.reg (.v 1 (.rot 1) false)))) s == 4 && lane3 4 (.mov .b32 4 (.plain (.reg (.v 1 .mir false)))) s == 4 &&
        lane3 4 (.mov .b32 4 (.plain (.reg (.v 1 (.bc 9) false)))) s == 0xFFFFFFFF && lane3 4 (.mov .b32 4 (.plain (.reg (.v 1 (.bfly 5) false)))) s == 6,
      (beamAfter (.icmp .lt .s32 2 (vr 1) (.imm 0)) (lanes2 0xFFFFFFFF 0)).cl 2 3 == 1, lane3 4 (.idot4 .s8x4 4 (vr 1) (.reg (vr 2)) (vr 3)) (lanes2 0x01020304 0x01010101) == 10
    ] := by
  decide +kernel

/-- R195, R196, R198, R203, R204: f32 sums round to even or as RND says, −0 lies below +0, CVT rounds, PACK clamps. -/
theorem test_float :
    holds [
      lane3 4 (.fadd .f32 .rn 4 (vr 1) (.reg (vr 2))) (lanes2 0x3F800000 0x40000000) == 0x40400000,
      lane3 4 (.fadd .f32 .rn 4 (vr 1) (.reg (vr 2))) (lanes2 0x4B800000 0x3F800000) == 0x4B800000, lane3 4 (.fadd .f32 .ru 4 (vr 1) (.reg (vr 2))) (lanes2 0x4B800000 0x3F800000) == 0x4B800001,
      lane3 4 (.fadd .f32 .rn 4 (vr 1) (.reg (vr 2))) (lanes2 0xFFFFFFFF 0x3F800000) == 0xFFFFFFFF,
      lane3 4 (.ffma .f32 .rn 4 (vr 1) (.reg (vr 2)) (vr 1)) (lanes2 0x40000000 0x40400000) == 0x41000000, lane3 4 (.fmin .f32 4 (vr 1) (.reg (vr 2))) (lanes2 0 0x80000000) == 0x80000000,
      lane3 4 (.fmul .f16x2 .rn 4 (vr 1) (.reg (vr 2))) (lanes2 0x40003C00 0x40003C00) == 0x44003C00, lane3 4 (.cvt .f32 .s32 .rn 4 (.reg (vr 1))) (lanes2 16777217 0) == 0x4B800000,
      lane3 4 (.cvt .s32 .f32 .rz 4 (.reg (vr 1))) (lanes2 0xBFC00000 0) == 0xFFFFFFFF, lane3 4 (.pack .n8 false .s32 0 .rn 4 (vr 1) (.reg (vr 2))) (lanes2 300 7) % 2 ^ 16 == 0x07FE,
      (beamAfter (.frcp .f32 .rn 4 (.reg (vr 1))) (lanes2 0x40000000 0)).vfullAt 4 == false
    ] := by
  decide +kernel

/-- R206 to R215: absence, truth values and the lanes of a beam of 8. -/
theorem test_lanes :
    holds [
      lane3 4 (.fill .s32 4 (vr 1) (.reg (vr 2))) (lanes2 0x80000000 7) == 7, (beamAfter (.pres .n32 2 (.reg (vr 1))) (lanes2 0xFFFFFFFF 0)).cl 2 3 == 0,
      let s := onB fun b => { b with v := b.v.set 1 [0, 1, 2, 3, 4, 5, 6, 7], c := b.c.set 2 [1, 0, 0, 1, 0, 0, 0, 0] }
      lane3 4 (.red .add false .n32 4 (.reg (vr 1))) s == 28 && lane3 4 (.scan .max false .n32 4 (.reg (vr 1))) s == 3 &&
        lane3 6 (.red .min true .n32 6 (.reg (vr 1))) s == 0 && lane3 7 (.red .min true .n32 6 (.reg (vr 1))) s == 8 &&
        lane3 4 (.shfl .off .b32 4 (vr 1) (.imm 5)) s == 0xFFFFFFFF && lane3 4 (.shfl .wrap .b32 4 (vr 1) (.imm 6)) s == 1 &&
        (beamAfter (.vote .any 2 2) s).kreg 2 == 1 && (beamAfter (.vote .uni 2 2) s).kreg 2 == 0 && (beamAfter (.elect 3 none) s).cl 3 0 == 1 &&
        (beamAfter (.elect 3 none) s).cl 3 3 == 0 && lane3 4 (.tval .n32 4 2) s == 1 && lane3 4 (.laneMatch false .b32 4 (.reg (vr 1))) s == 3
    ] := by
  decide +kernel

/-- R143 to R147, R151, R152, R406: transfers, and what a trap saves. -/
theorem test_control :
    holds [
      ((beamAfter (.bra 511) base).entry 0).pc == 0x2000, ((beamAfter (.call 511) base).entry 0).rstack == [0x1018],
      scal 9 (.bdec 9 511) (sregs [(9, 2)]) == 1 && ((beamAfter (.bdec 9 511) (sregs [(9, 2)])).entry 0).pc == 0x2000,
      ((beamAfter (.bdec 9 511) (sregs [(9, 1)])).entry 0).pc == 0x100C, trapOf (after (.brk 5) base) == (15, 1), trapOf (after (.trap 7) base) == (16, 7),
      trapOf (after (.eret false) base) == (4, 1), trapOf (after .ret base) == (3, 4), trapOf (after (.bra 0) base) == (1, 1),
      let b := beamAfter (.trap 7) base
      b.epc == 0x1008 && b.pl && (b.entry 0).pc == 0x2000 && b.tlanes == 0xFF,
      let t := { inHandler with beams := inHandler.beams }
      (beamAfter (.eret true) t).trap.isNone && ((beamAfter (.eret true) t).entry 0).pc == 0x100C && !(beamAfter (.eret false) t).pl,
      scal 1 (.gnew 1) base == 0x10000, scal 1 (.gleave 1 2) (sregs [(2, 7)]) == 0x101, scal 1 (.bsplit 1) base == 0x103, scal 1 (.gets (.s 1) 2) base == 8
    ] := by
  decide +kernel

/-- R221, R228, R232, R274, R276, R277: the window, an atomic, and a barrier of one arrival. -/
theorem test_memory_and_barriers :
    holds [
      let t := after (.stu true .core .b32 1 (.uni (sr 2) none)) (sregs [(1, 0x11223344), (2, 64)])
      (t.cohort? ⟨1, 0⟩).any fun c => c.nat 64 4 == 0x11223344 && c.nat 64 1 == 0x44,
      let t := after (.st .dev .b32 (.s 1) (.uni (sr 2) (some 4))) (sregs [(1, 0x11223344), (2, 0x8000)])
      t.readNat 0x8004 4 == 0x11223344 && t.readNat 0x8000 4 == 0,
      let t := after (.atomu .add .none true .core .n32 1 (sr 2) (.imm 5)) (onC (fun c => c.put 64 (natLe 4 0xFFFFFFFD)) (sregs [(2, 64)]))
      (t.cohort? ⟨1, 0⟩).any fun c => c.nat 64 4 == 0xFFFFFFFE,
      let t := after (.binit false (sr 2) (.imm 3)) (sregs [(2, 64)])
      (t.cohort? ⟨1, 0⟩).any fun c => c.nat 64 4 == 50 && c.tagged 64,
      let t := after (.barv 2) (barAt 1 1 0 (sregs [(2, 64)]))
      (t.cohort? ⟨1, 0⟩).any fun c => c.nat 64 4 == 19,
      trapOf (after (.barv 2) (barAt 1 1 1 (sregs [(2, 64)]))) == (12, 5), trapOf (after (.barv 2) (sregs [(2, 64)])) == (12, 3),
      trapOf (after (.ldu true .core .b32 1 (.uni (sr 2) none)) (sregs [(2, 1022)])) == (10, 1), trapOf (after (.ldu true .core .b32 1 (.uni (sr 2) none)) (sregs [(2, 1024)])) == (11, 1),
      let t := after (.mclr 1) tiled
      (t.beam? ⟨0, 0⟩).any fun b => (b.tile 1).vals == List.replicate 1024 0xFFFFFFFF && (b.tile 0).cnts == List.replicate 1024 0
    ] := by
  decide +kernel

/-- R338, R381, R382, R389, R420: a SIGNAL keeps the larger number, PGSET answers the old entry, and registers keep their bits. -/
theorem test_system :
    holds [
      let t := after (.signal 1) (queued (recOf 4 [0x8000, 5]))
      t.readNat 0x8000 8 == 5 && (t.queue? 1).any fun q => q.head == 1 && q.done == 1,
      scal 1 (.pgset 1 2 3 1) (atPl1 (sregs [(2, 0), (3, 0)])) == 0x14001, scal 1 (.pgset 1 2 3 0) (atPl1 (sregs [(2, 2 ^ 64 - 1)])) == 0xFFF0000000000004,
      (after (.psrpWrite 0 0x1234) base).regRead 0 0x020 == 0x1234, (after (.registerPageWrite 0 0x008 0xFFFFFFFFFFFFFFFF) base).regRead 0 0x008 == 0xFFFFFFFFFF000,
      let t := after (.trainingComplete 3 5) { base with ports := [{ Port.reset 3 with st := .training }] }
      (t.port? 3).any fun p => p.st == .degraded && p.lanes == 4,
      (after (.diaphragmWrite 0 1 2) { base with mgmt := { base.mgmt with locked := true } }).log == [.diaphragm 0 1]
    ] := by
  decide +kernel

/-- R24, R38, R203: CVT.f32.f32 of a NaN with a payload writes the canonical NaN and keeps the absent code. -/
theorem test_cvt_same_format :
    holds [(cvtLane .f32 .f32 .rn 0x7F812345).1 == 0x7FC00000, (cvtLane .f32 .f32 .rn 0xFFFFFFFF).1 == 0xFFFFFFFF] := by
  decide +kernel

/-- The digest of "abc" in the SM3 standard's first example. -/
theorem test_sm3_abc : (sm3 [0x61, 0x62, 0x63]).take 8 = [0x66, 0xC7, 0xF0, 0xF4, 0x62, 0xEE, 0xED, 0xD9] := by
  decide +kernel

end Sys2Proof.Tests
end

section
/-! One lane's store: what a write leaves in a cohort's window, and in memory at a translated address (R3, R102, R228). -/

namespace Sys2Proof.Machine

/-! ### The bytes of a window -/

theorem Cohort.put_cons (c : Cohort) (off : Nat) (x : Byte) (bs : List Byte) :
    c.put off (x :: bs) = (c.put off [x]).put (off + 1) bs := rfl

theorem Cohort.byte_put_one (c : Cohort) (off : Nat) (x : Byte) (o : Nat) :
    (c.put off [x]).byte o = if o = off then x else c.byte o := by
  simp only [Cohort.put, Cohort.byte, List.zipIdx_cons, List.zipIdx_nil, List.foldl_cons, List.foldl_nil, cellAt_cellPut]
  split <;> rfl

/-- Every byte of the window outside those put is as before. -/
theorem Cohort.byte_put_other (c : Cohort) (off : Nat) (bs : List Byte) (o : Nat) (h : o < off ∨ off + bs.length ≤ o) :
    (c.put off bs).byte o = c.byte o := by
  induction bs generalizing c off with
  | nil => rfl
  | cons x bs ih =>
    rw [List.length_cons] at h
    rw [Cohort.put_cons, ih _ _ (by omega), Cohort.byte_put_one, if_neg (by omega)]

/-- The bytes put are the bytes read. -/
theorem Cohort.bytes_put (c : Cohort) (off : Nat) (bs : List Byte) : (c.put off bs).bytes off bs.length = bs := by
  induction bs generalizing c off with
  | nil => rfl
  | cons x bs ih =>
    rw [Cohort.put_cons, List.length_cons, Cohort.bytes, ih, Cohort.byte_put_other _ _ _ _ (by omega),
      Cohort.byte_put_one, if_pos rfl]

/-- A number put is the number read, within its bytes. -/
theorem Cohort.nat_put_natLe (c : Cohort) (off n v : Nat) : (c.put off (natLe n v)).nat off n = v % 256 ^ n := by
  have h := c.bytes_put off (natLe n v)
  rw [natLe_length] at h
  rw [Cohort.nat, h, leNat_natLe]

/-! ### A store to a window -/

theorem State.cohort?_key {s : State} {k : CohortKey} {c : Cohort} (h : s.cohort? k = some c) : c.key = k := by
  simpa using List.find?_some h

/-- What a store makes newest changes the beams only. -/
theorem State.newest_only (s : State) (k : CohortKey) (a n : Nat) : ∃ bs, s.newest k a n = { s with beams := bs } := by
  unfold State.newest
  split
  · exact ⟨_, rfl⟩
  · exact ⟨s.beams, rfl⟩

/-- Of a beam it changes only which older bytes of the window the beam may still give (R102). -/
theorem State.newest_beams (s : State) (k : CohortKey) (a n : Nat) :
    (s.newest k a n).beams.map (fun b => { b with behind := [] }) = s.beams.map fun b => { b with behind := [] } := by
  unfold State.newest
  split
  · rw [List.map_map]
    refine List.map_congr_left fun b _ => ?_
    simp only [Function.comp_apply]
    split <;> rfl
  · rfl

theorem State.spadPut_mem (s : State) (c : Cohort) (a : Nat) (bs : List Byte) : (s.spadPut c a bs).mem = s.mem := by
  obtain ⟨bms, h⟩ := (s.setCohort (c.put a bs)).newest_only c.key a bs.length
  rw [State.spadPut, h, State.setCohort_mem]

theorem State.spadPut_beams (s : State) (c : Cohort) (a : Nat) (bs : List Byte) :
    (s.spadPut c a bs).beams.map (fun b => { b with behind := [] }) = s.beams.map fun b => { b with behind := [] } :=
  (s.setCohort (c.put a bs)).newest_beams c.key a bs.length

/-- The cohort that a store's window belongs to holds the bytes stored. -/
theorem State.cohort?_spadPut {s : State} {k : CohortKey} {c : Cohort} (h : s.cohort? k = some c) (a : Nat)
    (bs : List Byte) : (s.spadPut c a bs).cohort? k = some (c.put a bs) := by
  have hkey : (c.put a bs).key = k := show c.key = k from State.cohort?_key h
  have hset : (s.setCohort (c.put a bs)).cohort? k = some (c.put a bs) := by
    rw [State.cohort?_setCohort, if_pos hkey, h, Option.map_some]
  obtain ⟨bms, hn⟩ := (s.setCohort (c.put a bs)).newest_only c.key a bs.length
  rw [State.spadPut, hn]
  exact hset

theorem State.laneWrite_window {s : State} {x : Frag} {k : Acc} {c : Cohort} (hk : k.spad = true)
    (hc : s.cohort? x.b.cohort = some c) (a : Nat) (bs : List Byte) : s.laneWrite x k a bs = s.spadPut c a bs := by
  simp only [State.laneWrite, hk, if_true, hc]

/-! ### A store to a page -/

/-- A number in memory rests on memory alone. -/
theorem State.readNat_congr {s t : State} (h : s.mem = t.mem) (pa n : Nat) : s.readNat pa n = t.readNat pa n := by
  simp only [State.readNat, State.readBytes_eq, h]

/-- The bytes of a number, written by any agent, are the number read, within its bytes. -/
theorem State.readNat_writeBytes_natLe (s : State) (who : Option Nat) (cached : Bool) (pa n v : Nat) :
    (s.writeBytes who cached pa (natLe n v)).readNat pa n = v % 256 ^ n := by
  have h := s.readBytes_writeBytes who cached pa (natLe n v)
  rw [natLe_length] at h
  rw [State.readNat, h, leNat_natLe]

/-- A lane's write to a page of memory writes its bytes there; of a far page it is also on its way (R226). -/
theorem State.laneWrite_page {s : State} {x : Frag} {k : Acc} {a : Nat} {c : Context} {pa tier leaf at_ : Nat} {large : Bool}
    (hk : k.spad = false) (hacc : k.acc ≠ .rmw) (hc : s.contextOf x.b = some c)
    (hx : s.xlate (.beam x.core) true c a = .page pa tier leaf at_ large) (hr : regPageOf pa = none) (bs : List Byte) :
    ∃ ps, s.laneWrite x k a bs = { s.writeBytes (some x.core) (tier == 2) pa bs with posted := ps } := by
  have hrmw : (k.acc == .rmw) = false := by simpa using hacc
  simp only [State.laneWrite, hk, hc, hrmw, hx, hr, Option.isSome_none, Bool.false_eq_true, if_false]
  split
  · exact ⟨_, rfl⟩
  · exact ⟨_, rfl⟩

/-- Writing bytes of memory changes no cohort and no beam. -/
theorem State.writeBytes_cohorts_beams (s : State) (who : Option Nat) (cached : Bool) (pa : Nat) (bs : List Byte) :
    (s.writeBytes who cached pa bs).cohorts = s.cohorts ∧ (s.writeBytes who cached pa bs).beams = s.beams := by
  obtain ⟨m, d, o, cs, st, h⟩ := s.writeBytes_only who cached pa bs
  rw [h]
  exact ⟨rfl, rfl⟩

/-- Settles O21: in the window by what `Cohort.put` leaves in each byte, in memory by what `State.writeBytes` does. -/
theorem storeWritesItsBytes : Obligations.StoreWritesItsBytes := by
  intro s x k a v
  refine ⟨fun c hk hc => ?window, fun c pa tier leaf at_ large hk hacc hc hx hr => ?page⟩
  case window =>
    rw [State.laneWrite_window hk hc]
    refine ⟨c.put a (natLe k.n v), State.cohort?_spadPut hc a _, c.nat_put_natLe a k.n v, State.spadPut_mem ..,
      State.spadPut_beams .., fun o ho => c.byte_put_other a _ o ?_⟩
    rwa [natLe_length]
  case page =>
    obtain ⟨ps, ht⟩ := State.laneWrite_page hk hacc hc hx hr (natLe k.n v)
    have hmem : (s.laneWrite x k a (natLe k.n v)).mem =
        (s.writeBytes (some x.core) (tier == 2) pa (natLe k.n v)).mem := by rw [ht]
    refine ⟨?_, fun p hp => ?_, ?_⟩
    · rw [State.readNat_congr hmem, State.readNat_writeBytes_natLe]
    · rw [hmem]
      exact s.writeBytes_read_other _ _ _ _ p (by rwa [natLe_length])
    · rw [ht]
      exact State.writeBytes_cohorts_beams ..

end Sys2Proof.Machine
end

section
/-! Where a beam instruction leaves its fragment: the beam that its effect leaves has the key and the split table that it
had, so that the frame's end finds it (R78, R118). -/

namespace Sys2Proof.Machine

/-! ### Beams whose fragments stand where they stood -/

/-- The beam `b'` has the key and the split table of `b`. -/
structure Beam.SamePlace (b b' : Beam) : Prop where
  key   : b'.key = b.key
  split : b'.split = b.split

namespace Beam.SamePlace

theorem refl (b : Beam) : b.SamePlace b := ⟨rfl, rfl⟩

theorem trans {a b c : Beam} (h : a.SamePlace b) (h' : b.SamePlace c) : a.SamePlace c :=
  ⟨h'.key.trans h.key, h'.split.trans h.split⟩

theorem ite {p : Prop} [Decidable p] {b y z : Beam} (hy : b.SamePlace y) (hz : b.SamePlace z) :
    b.SamePlace (if p then y else z) := by
  split
  · exact hy
  · exact hz

/-- A change made again and again keeps the place if each one does. -/
theorem foldl {α : Type} {f : Beam → α → Beam} (hf : ∀ (b : Beam) (a : α), b.SamePlace (f b a)) (l : List α) (b : Beam) :
    b.SamePlace (l.foldl f b) := by
  induction l generalizing b with
  | nil => exact refl b
  | cons a l ih => exact (hf b a).trans (ih _)

end Beam.SamePlace

theorem Beam.samePlace_raise (b : Beam) (f : Flags) : b.SamePlace (b.raise f) := ⟨rfl, rfl⟩

theorem Beam.samePlace_setTile (b : Beam) (n : Nat) (t : Tile) : b.SamePlace (b.setTile n t) := ⟨rfl, rfl⟩

theorem Beam.samePlace_setVfull (b : Beam) (r : Nat) (full : Bool) : b.SamePlace (b.setVfull r full) := by
  unfold Beam.setVfull
  split
  · split <;> exact ⟨rfl, rfl⟩
  · exact ⟨rfl, rfl⟩

theorem Beam.samePlace_setSfull (b : Beam) (r : Nat) (full : Bool) : b.SamePlace (b.setSfull r full) := by
  unfold Beam.setSfull
  split
  · split <;> exact ⟨rfl, rfl⟩
  · exact ⟨rfl, rfl⟩

/-- Whether R86 admits the write or drops it. -/
theorem Beam.samePlace_claimS (b : Beam) (lead r : Nat) : b.SamePlace ((b.claimS lead r).getD b) := by
  cases hc : b.claimS lead r with
  | none => exact .refl b
  | some c =>
    obtain ⟨-, -, -, -, -, hsplit, hkey, -⟩ := Beam.claimS_reads hc
    exact ⟨hkey, hsplit⟩

/-! ### The ends of an instruction -/

/-- A beam put in place of the one with its key is found there. -/
theorem State.beam?_setBeam_of_key {s : State} {k : BeamKey} {y b : Beam} (h : s.beam? k = some y) (hk : b.key = k) :
    (s.setBeam b).beam? k = some b := by
  rw [State.beam?_setBeam, if_pos hk, h, Option.map_some]

/-- An instruction that stays with the state `u` ends there. -/
theorem exec_of_stay {s u : State} {x : Frag} {g : Guard} {i : Instr} {body : Frag → State → Res} (h : Clear s x g)
    (hi : exec i s = s.runFrag g body) (hu : body x s = .stay u) : exec i s = .next u := by
  rw [hi, State.runFrag_clear h, hu]
  rfl

/-- An instruction whose effect keeps the place of its beam goes on. -/
theorem goes_of_samePlace {s u : State} {x : Frag} {g : Guard} {i : Instr} {body : Frag → State → Res} {b : Beam}
    (h : Clear s x g) (hi : exec i s = s.runFrag g body) (hu : body x s = .done u) (hb : u.beam? x.b.key = some b)
    (hp : x.b.SamePlace b) : Goes s x i u :=
  goes_of_done h hi hu hb (by rw [hp.split]; exact Frag.e_lt h.runs)

/-- An instruction that changes its beam alone, and not its place, goes on. -/
theorem goes_of_beamDone {s : State} {x : Frag} {g : Guard} {i : Instr} {body : Frag → State → Res} {b : Beam}
    (h : Clear s x g) (hi : exec i s = s.runFrag g body) (hu : body x s = s.beamDone b) (hp : x.b.SamePlace b) :
    Goes s x i (s.setBeam b) :=
  goes_of_samePlace h hi hu (State.beam?_setBeam_of_key (State.frag_beam h.frag) hp.key) hp

end Sys2Proof.Machine
end

section
/-! Long-latency producers (R42, R78, R178, R201, R211): the result is on its way, and the fragment goes on. -/

namespace Sys2Proof.Machine

section
variable {s : State} {x : Frag} {g : Guard} {i : Instr} {body : Frag → State → Res}

/-- An instruction that sends a result to vector registers goes on. -/
theorem goes_of_pendV (h : Clear s x g) (hi : exec i s = s.runFrag g body) {b : Beam} (hp : x.b.SamePlace b)
    {e pc r : Nat} {m : Mask} {vals : List (List Word)} {absent : Word × Word} {src : FillSrc} {at_ : Arrival}
    (hu : body x s = .done (s.pendV b e pc r m vals absent src at_)) :
    Goes s x i (s.pendV b e pc r m vals absent src at_) := by
  have hempty := hp.trans (.foldl (fun b k => Beam.samePlace_setVfull b (r + k) false) (List.range vals.length) b)
  exact goes_of_samePlace h hi hu (State.beam?_setBeam_of_key (State.frag_beam h.frag) hempty.key) hempty

/-- An instruction that sends a result to a scalar register goes on. -/
theorem goes_of_pendS (h : Clear s x g) (hi : exec i s = s.runFrag g body) {b : Beam} (hp : x.b.SamePlace b)
    {e pc lead r : Nat} {val : DWord} {absent : Word × Word} {src : FillSrc} {at_ : Arrival}
    (hu : body x s = .done (s.pendS b e pc lead r val absent src at_)) :
    Goes s x i (s.pendS b e pc lead r val absent src at_) := by
  have hempty := (hp.trans (Beam.samePlace_claimS b lead r)).trans (Beam.samePlace_setSfull _ r false)
  exact goes_of_samePlace h hi hu (State.beam?_setBeam_of_key (State.frag_beam h.frag) hempty.key) hempty

/-- Every special function sends its lanes' values, with their flags in `status` at once. -/
theorem goes_of_special {fn : SFn} {t : Ty} {r : Rnd} {d : Reg} {a : VArgI}
    (h : Clear s x (plain (dstV t d ++ VArgI.uses t.wide 1 a))) (hi : exec i s = s.special fn t r d a) :
    let rs := x.results fun i => mapElems t (fun v => specialElem fn t r (v.getD 0 0)) [(x.srcI t a).1 i]
    Goes s x i (s.pendV (x.b.raise ((x.srcI t a).2 ||| flagsOf rs)) x.e x.pc d.toNat x.mask
      [rs.map fun c => BitVec.ofNat 32 c.1] (0, 0) .special (s.within x.core 16)) :=
  goes_of_pendV h hi (Beam.samePlace_raise ..) rfl

end

/-- Settles O37: each instruction's meaning is `pendV` or `pendS` of its value, which leave the fragment where it stands. -/
theorem longLatencyResults : Obligations.LongLatencyResults := by
  intro s x t r d
  refine ⟨fun a i fn m hmem h => ?special, fun a l h => ?vtos, fun a h => ?ballot⟩
  case special =>
    simp only [List.mem_cons, List.not_mem_nil, or_false, Prod.mk.injEq] at hmem
    obtain ⟨rfl, rfl, rfl⟩ | ⟨rfl, rfl, rfl⟩ | ⟨rfl, rfl, rfl⟩ | ⟨rfl, rfl, rfl⟩ | ⟨rfl, rfl, rfl⟩ | ⟨rfl, rfl, rfl⟩ |
      ⟨rfl, rfl, rfl⟩ | ⟨rfl, rfl, rfl⟩ := hmem
    all_goals exact goes_of_special h rfl
  case vtos => exact goes_of_pendS h rfl (Beam.samePlace_raise ..) rfl
  case ballot => exact goes_of_pendS h rfl (.refl x.b) rfl

end Sys2Proof.Machine
end

section
/-! The special registers: packed truth registers, what GETS reads and what SETS leaves (R162 to R166, R42, R86). -/

namespace Sys2Proof.Machine

/-! ### Packed truth registers (R165) -/

theorem sum_base4_lt {f : Nat → Nat} (hf : ∀ k, f k < 4) (N : Nat) : ∑ k ∈ Finset.range N, f k * 4 ^ k < 4 ^ N := by
  induction N with
  | zero => simp
  | succ N ih =>
    have := Nat.mul_le_mul_right (4 ^ N) (Nat.le_of_lt_succ (hf N))
    rw [Finset.sum_range_succ, Nat.pow_succ]
    omega

/-- A field of two bits of packed fields is the field. -/
theorem sum_base4_digit {f : Nat → Nat} (hf : ∀ k, f k < 4) {N n : Nat} (hn : n < N) :
    (∑ k ∈ Finset.range N, f k * 4 ^ k) / 4 ^ n % 4 = f n := by
  induction N with
  | zero => omega
  | succ N ih =>
    rw [Finset.sum_range_succ]
    obtain hlt | rfl : n < N ∨ n = N := by omega
    · obtain ⟨m, rfl⟩ : ∃ m, N = n + 1 + m := ⟨N - (n + 1), by omega⟩
      have hpow : f (n + 1 + m) * 4 ^ (n + 1 + m) = 4 ^ n * (4 * (f (n + 1 + m) * 4 ^ m)) := by ring
      rw [hpow, Nat.add_mul_div_left _ _ (by positivity), Nat.add_mul_mod_self_left, ih hlt]
    · rw [Nat.add_mul_div_right _ _ (by positivity), Nat.div_eq_of_lt (sum_base4_lt hf n), Nat.zero_add,
        Nat.mod_eq_of_lt (hf n)]

theorem foldl_add_range_map (f : Nat → Nat) (N : Nat) :
    ((List.range N).map f).foldl (· + ·) 0 = ∑ k ∈ Finset.range N, f k := by
  induction N with
  | zero => rfl
  | succ N ih =>
    rw [List.range_succ, List.map_append, List.foldl_append, ih, Finset.sum_range_succ]
    rfl

theorem Beam.cpack_digit (b : Beam) (i : Nat) {n : Nat} (hn : n < 16) :
    b.cpack i / 4 ^ n % 4 = if n < b.nc then (b.cl n i).toNat else 0 := by
  have hsum : b.cpack i = ∑ k ∈ Finset.range 16, (if k < b.nc then (b.cl k i).toNat else 0) * 4 ^ k := by
    simp only [Beam.cpack, foldl_add_range_map, ite_mul, Nat.zero_mul]
  rw [hsum]
  refine sum_base4_digit (f := fun k => if k < b.nc then (b.cl k i).toNat else 0) (fun k => ?_) hn
  split
  · exact (b.cl k i).isLt
  · decide

theorem Beam.kpack_digit (b : Beam) {n : Nat} (hn : n < 8) : b.kpack / 4 ^ n % 4 = (b.kreg n).toNat := by
  rw [Beam.kpack, foldl_add_range_map]
  exact sum_base4_digit (f := fun k => (b.kreg k).toNat) (fun k => (b.kreg k).isLt) hn

section

/-! ### GETS -/

variable {s : State} {x : Frag}

/-- Only a read or a write of `status` waits for flags (R42). -/
theorem State.flagsOwed_iff (s : State) (x : Frag) (sp : Reg) :
    s.flagsOwed x sp.toNat = true ↔ sp = 0x0B ∧ ∃ m ∈ s.mmas, m.beam = x.b.key := by
  have hsp : sp.toNat = 0x0B ↔ sp = 0x0B := (BitVec.toNat_inj (x := sp) (y := 0x0B#8))
  simp [State.flagsOwed, hsp]

theorem gets_scalar_completes {r sp : Reg} (hs : x.b.shaped = true) (h : Clear s x (plain (dstS r)))
    (hf : s.flagsOwed x sp.toNat = false) :
    Completes s x (.gets (.s r) sp) { s := [(r.toNat, BitVec.ofNat 64 (spValue s x sp.toNat x.lead))] } := by
  have hs := (Beam.shaped_iff _).mp hs
  have hr : x.b.HasS r.toNat := Beam.hasS_of hs (Frag.has_of_check h.check (regUses_dst_mem ..)) rfl
  exact completes_of_wrote h rfl (if_neg (ne_true_of_eq_false hf)) (Wrote.putS x hs r hr _)

theorem gets_vector_completes {r sp : Reg} (hs : x.b.shaped = true)
    (h : Clear s x (plain (regUses .v r (spWide sp.toNat) 0 true false))) (hf : s.flagsOwed x sp.toNat = false) :
    Completes s x (.gets (.v r) sp)
      { v := wordsOf (spWide sp.toNat) r fun i => spValue s x sp.toNat (if spLane sp.toNat then i else x.lead) } := by
  have hs := (Beam.shaped_iff _).mp hs
  obtain ⟨hlow, hhigh⟩ := hasV_dst hs h.check (List.append_nil _).symm
  exact completes_of_wrote h rfl (if_neg (ne_true_of_eq_false hf)) (Wrote.putV x hs _ r hlow hhigh _)

theorem spValue_chan (s : State) (x : Frag) (i : Nat) {ch : Nat} (hch : ch < 8) :
    spValue s x (0x10 + ch) i = (s.chanView x.b ch).toNat := by
  interval_cases ch <;> rfl

/-! ### SETS -/

theorem Beam.samePlace_putSp (b : Beam) (lead : Nat) (p : SpStamp) {f : Beam → Beam} (hf : b.SamePlace (f b)) :
    b.SamePlace (b.putSp lead p f) :=
  .ite hf (.ite ⟨hf.key, hf.split⟩ (.refl b))

theorem Beam.samePlace_putSpecial (b : Beam) (lead sp v : Nat) : b.SamePlace (b.putSpecial lead sp v) :=
  have register (p : SpStamp) {f : Beam → Beam} (hf : b.SamePlace (f b)) := b.samePlace_putSp lead p hf
  .ite (register .status ⟨rfl, rfl⟩) <| .ite (register .ctl ⟨rfl, rfl⟩) <|
  .ite (.ite ⟨rfl, rfl⟩ (.ite ⟨rfl, rfl⟩ (.refl b))) <|
  .ite (register .epc ⟨rfl, rfl⟩) <| .ite (register .tcause ⟨rfl, rfl⟩) <| .ite (register .tlanes ⟨rfl, rfl⟩) <|
  .ite (register .tdetx ⟨rfl, rfl⟩) <| .ite (register .tdety ⟨rfl, rfl⟩) <| .ite (register .tdetz ⟨rfl, rfl⟩) (.refl b)

theorem Beam.samePlace_putCpack (b : Beam) (m : Mask) (f : Nat → Nat) : b.SamePlace (b.putCpack m f) :=
  .foldl (f := fun b n => b.putC n m fun i => BitVec.ofNat 2 (f i / 4 ^ n)) (fun _ _ => ⟨rfl, rfl⟩) _ b

/-! What SETS does to each register of the beam (R164, R165). -/

section
variable (b : Beam) (lead v : Nat)

theorem Beam.putSpecial_status :
    b.putSpecial lead 0x0B v = b.putSp lead .status fun b => { b with status := BitVec.ofNat 32 v &&& 7 } := rfl
theorem Beam.putSpecial_ctl :
    b.putSpecial lead 0x0C v = b.putSp lead .ctl fun b => { b with ctl := BitVec.ofNat 32 v &&& 1 } := rfl
theorem Beam.putSpecial_kpack : b.putSpecial lead 0x0E v = b.putKpack lead v := rfl
theorem Beam.putSpecial_epc :
    b.putSpecial lead 0x20 v = b.putSp lead .epc fun b => { b with epc := v % 2 ^ 56 } := rfl
theorem Beam.putSpecial_tcause :
    b.putSpecial lead 0x21 v = b.putSp lead .tcause fun b => { b with tcause := BitVec.ofNat 32 v &&& 0xFFFF001F } := rfl
theorem Beam.putSpecial_tlanes :
    b.putSpecial lead 0x22 v = b.putSp lead .tlanes fun b => { b with tlanes := BitVec.ofNat 64 v &&& fullMask b.w } := rfl
theorem Beam.putSpecial_tdetx :
    b.putSpecial lead 0x23 v = b.putSp lead .tdetx fun b => { b with tdetx := BitVec.ofNat 32 v } := rfl
theorem Beam.putSpecial_tdety :
    b.putSpecial lead 0x24 v = b.putSp lead .tdety fun b => { b with tdety := BitVec.ofNat 32 v } := rfl
theorem Beam.putSpecial_tdetz :
    b.putSpecial lead 0x25 v = b.putSp lead .tdetz fun b => { b with tdetz := BitVec.ofNat 32 v } := rfl

end

theorem Beam.putKpack_converged {b : Beam} (hc : b.converged = true) (lead v : Nat) :
    b.putKpack lead v = { b with k := (List.range 8).map fun n => BitVec.ofNat 2 (v / 4 ^ n) } :=
  if_pos hc

section
variable {sp : Reg} {a : SetSrc}
  (h : Clear s x { priv := false, privSp := if spPriv sp.toNat then some sp.toNat else none, noGlint := false
                   uses := SetSrc.uses' (spWide sp.toNat) a })
include h

theorem sets_waits (hf : s.flagsOwed x sp.toNat = true) : exec (.sets sp a) s = .next s :=
  exec_of_stay h rfl (if_pos hf)

variable (hf : s.flagsOwed x sp.toNat = false)
include hf

theorem sets_cpack (hsp : sp = 0x0D) :
    Goes s x (.sets sp a) (s.setBeam (x.b.putCpack x.mask (x.setSrc (spWide sp.toNat) a))) := by
  subst hsp
  exact goes_of_beamDone h rfl ((if_neg (ne_true_of_eq_false hf)).trans (if_pos rfl)) (x.b.samePlace_putCpack ..)

/-- `fusewin` is the context's (R92, R162). -/
theorem sets_fusewin (hsp : sp = 0x30) {c : Context} (hc : s.contextOf x.b = some c) :
    Goes s x (.sets sp a) (s.setContext { c with fusewin := x.setSrc (spWide sp.toNat) a x.lead % 2 ^ 32 }) := by
  subst hsp
  refine goes_of_samePlace h rfl ((if_neg (ne_true_of_eq_false hf)).trans ((if_neg (by decide)).trans ((if_pos rfl).trans ?_)))
    (State.frag_beam h.frag) (.refl x.b)
  rw [hc]

/-- Any other register is the beam's own. -/
theorem sets_special (hc : sp ≠ 0x0D) (hw : sp ≠ 0x30) {b : Beam}
    (hb : x.b.putSpecial x.lead sp.toNat (x.setSrc (spWide sp.toNat) a x.lead) = b) :
    Goes s x (.sets sp a) (s.setBeam b) := by
  have ne (y : Reg) (hy : sp ≠ y) : ¬ (sp.toNat == y.toNat) = true := fun e => hy (BitVec.eq_of_toNat_eq (eq_of_beq e))
  subst hb
  exact goes_of_beamDone h rfl
    ((if_neg (ne_true_of_eq_false hf)).trans ((if_neg (ne 0x0D hc)).trans (if_neg (ne 0x30 hw))))
    (x.b.samePlace_putSpecial ..)

/-- A converged beam's write of a register that has a stamp is made, whatever the stamp (R86). -/
theorem sets_converged (hconv : x.b.converged = true) (hc : sp ≠ 0x0D) (hw : sp ≠ 0x30) {p : SpStamp} {f : Beam → Beam}
    (hput : x.b.putSpecial x.lead sp.toNat (x.setSrc (spWide sp.toNat) a x.lead) = x.b.putSp x.lead p f) :
    Goes s x (.sets sp a) (s.setBeam (f x.b)) :=
  sets_special h hf hc hw (hput.trans (if_pos hconv))

end

end

/-! ### The statement -/

/-- Settles O14: GETS by what `putS` and `putV` write and by the table of values, SETS by the register's own update, which
a converged beam makes. -/
theorem specialRegisters : Obligations.SpecialRegisters := by
  refine ⟨fun r sp s x hs => ⟨fun h => ⟨gets_scalar_completes hs h, fun hf => exec_of_stay h rfl (if_pos hf)⟩,
    fun h => ⟨gets_vector_completes hs h, fun hf => exec_of_stay h rfl (if_pos hf)⟩,
    s.flagsOwed_iff x sp, fun i => ?values⟩, fun s x sp a h => ⟨sets_waits h, fun hf => ?sets⟩⟩
  case values =>
    refine ⟨rfl, rfl, rfl, rfl, rfl, rfl, rfl, rfl, rfl, rfl, rfl, rfl, rfl, rfl, rfl, rfl, rfl, rfl, rfl, ?kernel,
      fun n => x.b.cpack_digit i, fun n => x.b.kpack_digit, ?chan, ?pc, ?fusewin⟩
    case kernel =>
      intro k hk
      simp [spValue, hk]
    case chan =>
      intro ch c hch hc
      rw [spValue_chan s x i hch, State.chanView, hc]
      rfl
    case pc =>
      intro k hk
      show x.block.stop = _
      rw [Frag.block, hk]
      rfl
    case fusewin =>
      intro c hc
      simp [spValue, hc]
  case sets =>
    refine ⟨sets_cpack h hf, fun hsp c hc => sets_fusewin h hf hsp hc, fun h1 h2 => sets_special h hf h1 h2 rfl,
      fun hc => ⟨?_, ?_, ?_, ?_, ?_, ?_, ?_, ?_, ?_⟩⟩
    · rintro rfl; exact sets_converged h hf hc (by decide) (by decide) (Beam.putSpecial_status ..)
    · rintro rfl; exact sets_converged h hf hc (by decide) (by decide) (Beam.putSpecial_ctl ..)
    · rintro rfl; exact sets_converged h hf hc (by decide) (by decide) (Beam.putSpecial_epc ..)
    · rintro rfl; exact sets_converged h hf hc (by decide) (by decide) (Beam.putSpecial_tcause ..)
    · rintro rfl; exact sets_converged h hf hc (by decide) (by decide) (Beam.putSpecial_tlanes ..)
    · rintro rfl; exact sets_converged h hf hc (by decide) (by decide) (Beam.putSpecial_tdetx ..)
    · rintro rfl; exact sets_converged h hf hc (by decide) (by decide) (Beam.putSpecial_tdety ..)
    · rintro rfl; exact sets_converged h hf hc (by decide) (by decide) (Beam.putSpecial_tdetz ..)
    · rintro rfl
      exact sets_special h hf (by decide) (by decide) ((Beam.putSpecial_kpack ..).trans (Beam.putKpack_converged hc ..))

end Sys2Proof.Machine
end

section
/-! The matrix unit and the tiles (R44, R45, R60, R286 to R290): what the unit takes, what lands in the tiles, and what MCLR,
MLDA and MSTA leave. -/

namespace Sys2Proof.Machine

section
variable {s : State} {x : Frag} {g : Guard} {i : Instr} {body : Frag → State → Res}

/-! ### Checks of an instruction's own -/

theorem trap_of_check {o : Option Trap} {tr : Trap} {r : Res} :
    o = some tr → (match o with | some t => Res.trap t | none => r) = .trap tr := by
  rintro rfl
  rfl

theorem pass_of_check {o : Option Trap} {r : Res} :
    o = none → (match o with | some t => Res.trap t | none => r) = r := by
  rintro rfl
  rfl

/-! ### The unit takes a multiplication (R287, R288) -/

@[simp] theorem State.modCore_mmas (s : State) (c : Nat) (f : Core → Core) : (s.modCore c f).mmas = s.mmas := by
  obtain ⟨cs, h⟩ := s.modCore_only c f
  rw [h]

@[simp] theorem State.modCore_clock (s : State) (c : Nat) (f : Core → Core) : (s.modCore c f).clock = s.clock := by
  obtain ⟨cs, h⟩ := s.modCore_only c f
  rw [h]

/-- A core of the list after a change that keeps its number. -/
theorem State.core?_modCore {k : Nat} {c : Core} (h : s.core? k = some c) {f : Core → Core} (hf : ∀ y, (f y).id = y.id) :
    (s.modCore k f).core? k = some (f c) := by
  have hid : (c.id == k) = true := List.find?_some (p := fun y : Core => y.id == k) h
  have hsame : ((fun y : Core => y.id == k) ∘ fun y => if y.id == k then f y else y) = fun y => y.id == k := by
    funext y
    by_cases hy : y.id = k <;> simp [hy, hf]
  have hmod : s.modCore k f = { s with cores := s.cores.map fun y => if y.id == k then f y else y } :=
    if_pos (by rw [h]; rfl)
  rw [hmod, State.core?, List.find?_map, hsame]
  show Option.map _ (s.core? k) = _
  rw [h, Option.map_some, if_pos hid]

theorem State.coreOf_modCore {k : Nat} {c : Core} (h : s.core? k = some c) {f : Core → Core} (hf : ∀ y, (f y).id = y.id) :
    (s.modCore k f).coreOf k = f c := by
  rw [State.coreOf, State.core?_modCore h hf]
  rfl

@[simp] theorem State.mmaStart_beam? (s : State) (x : Frag) (d : Nat) (m : MmaOp) (k : BeamKey) :
    (s.mmaStart x d m).beam? k = s.beam? k := by
  simp [State.beam?, State.mmaStart]

/-- The multiplication is under way, and its tiles come 8 cycles after the unit is free. -/
theorem State.mmaStart_mmas (s : State) (x : Frag) (d : Nat) (m : MmaOp) :
    (s.mmaStart x d m).mmas = s.mmas ++ [⟨x.b.key, m, d, m.product.1, m.product.2,
      s.clock + if (s.coreOf x.core).dim then 32 * x.tiles + 8 else 0⟩] := by
  cases hd : (s.coreOf x.core).dim <;> simp [State.mmaStart, hd, Nat.add_assoc]

/-- The quadrant's unit is busy for 32 cycles a tile in deterministic issue mode. -/
theorem State.mmaStart_quads (s : State) (x : Frag) (d : Nat) (m : MmaOp) {c : Core} {q : Quad}
    (hc : s.core? x.core = some c) (hq : c.quads[quadOf x.b.key.slot]? = some q) :
    ((s.mmaStart x d m).coreOf x.core).quads[quadOf x.b.key.slot]? =
      some { q with muBusy := s.clock + if c.dim then 32 * x.tiles else 0 } := by
  have hcore : s.coreOf x.core = c := by rw [State.coreOf, hc]; rfl
  have hstart : (s.mmaStart x d m).coreOf x.core = _ := State.coreOf_modCore hc (f := fun y => { y with
    quads := y.quads.modify (quadOf x.b.key.slot) fun z => { z with
      muBusy := s.clock + if (s.coreOf x.core).dim then 32 * x.tiles else 0 } }) fun _ => rfl
  rw [hstart, hcore]
  simp [hq]

/-- A multiplication waits for the unit and the tiles, and goes on behind its start. -/
theorem starts_of_multiply (h : Clear s x g) (hi : exec i s = s.runFrag g body) {d : Nat} {m : MmaOp}
    (hu : body x s = s.multiply x d m) :
    (s.unitBusy x = true ∨ s.tileBusy x.b.key d x.tiles = true → exec i s = .next s) ∧
      (s.unitBusy x = false → s.tileBusy x.b.key d x.tiles = false → Goes s x i (s.mmaStart x d m)) := by
  refine ⟨fun hbusy => exec_of_stay h hi (hu.trans (if_pos ?_)), fun hunit htile => ?_⟩
  · rwa [Bool.or_eq_true]
  · refine goes_of_samePlace h hi (hu.trans (if_neg (ne_true_of_eq_false ?_)))
      ((s.mmaStart_beam? x d m _).trans (State.frag_beam h.frag)) (.refl x.b)
    rw [hunit, htile]
    rfl

/-! ### A multiplication under way (R288) -/

/-- Each byte of B is as it was or as it is. -/
theorem MmaPend.sees_op (m : MmaPend) (was now : List Byte) (newer : Nat → Bool) :
    (m.sees was now newer).op = { m.op with
      b := m.op.b.zipIdx.map fun p =>
        if was.getD p.2 0 ≠ now.getD p.2 0 ∧ newer p.2 = true then now.getD p.2 0 else p.1 } := by
  simp only [MmaPend.sees, Bool.and_eq_true, bne_iff_ne]
  split
  · next h => rw [eq_of_beq h]
  · rfl

/-- What is under way stays the product of its operands. -/
theorem MmaPend.sees_product {m : MmaPend} (hm : (m.tiles, m.flags) = m.op.product) (was now : List Byte)
    (newer : Nat → Bool) :
    ((m.sees was now newer).tiles, (m.sees was now newer).flags) = (m.sees was now newer).op.product := by
  unfold MmaPend.sees
  extract_lets b op
  split
  · exact hm
  · rfl

/-- The beam's own writes take nothing of its multiplication. -/
theorem State.mem_mmaSees_own {t : State} {m : MmaPend} (hm : m ∈ t.mmas) (s : State) :
    m ∈ (t.mmaSees (some m.beam) s).mmas := by
  refine List.mem_map.mpr ⟨m, hm, ?_⟩
  split
  · rfl
  · exact if_pos (beq_self_eq_true _)

/-! ### Tiles that land (R44, R288) -/

theorem getElem?_foldl_set_other {α : Type} (xs l : List α) (k n : Nat) (h : n < k ∨ k + xs.length ≤ n) :
    ((xs.zipIdx k).foldl (fun (ys : List α) p => ys.set p.2 p.1) l)[n]? = l[n]? := by
  induction xs generalizing l k with
  | nil => rfl
  | cons a xs ih =>
    rw [List.length_cons] at h
    rw [List.zipIdx_cons, List.foldl_cons, ih _ _ (by omega), List.getElem?_set_ne (by omega)]

theorem getElem?_foldl_set {α : Type} {xs : List α} {n : Nat} {a : α} (h : xs[n]? = some a) {l : List α} {k : Nat}
    (hl : k + n < l.length) : ((xs.zipIdx k).foldl (fun (ys : List α) p => ys.set p.2 p.1) l)[k + n]? = some a := by
  induction xs generalizing l k n with
  | nil => simp at h
  | cons y xs ih =>
    rw [List.zipIdx_cons, List.foldl_cons]
    cases n with
    | zero =>
      obtain rfl : y = a := by simpa using h
      rw [getElem?_foldl_set_other _ _ _ _ (by omega), Nat.add_zero, List.getElem?_set_self (by omega)]
    | succ n =>
      rw [show k + (n + 1) = k + 1 + n by omega]
      exact ih (by simpa using h) (by rw [List.length_set]; omega)

/-- MMA_COMPLETE puts the beam's first finished multiplication in place. -/
theorem exec_mmaComplete {k : BeamKey} {y : Beam} {m : MmaPend} (hy : s.beam? k = some y)
    (hm : s.mmas.find? (fun m => m.beam == k && decide (m.ready ≤ s.clock)) = some m) :
    exec (.mmaComplete k) s = .next { s.setBeam (y.landMma m) with mmas := s.mmas.erase m } := by
  show execMmaComplete k s = _
  simp only [execMmaComplete, hy, hm]

/-! ### MSTA's writes to the window (R290) -/

/-- Every beam of `s` is in `t`, its fragments where they stood. -/
def State.KeepsPlaces (s t : State) : Prop := ∀ k b, s.beam? k = some b → ∃ b', t.beam? k = some b' ∧ b.SamePlace b'

theorem State.KeepsPlaces.of_beams {s t : State} (h : t.beams = s.beams) : s.KeepsPlaces t := fun k b hb =>
  ⟨b, by rwa [State.beam?, h], .refl b⟩

theorem State.KeepsPlaces.trans {s t u : State} (h : s.KeepsPlaces t) (h' : t.KeepsPlaces u) : s.KeepsPlaces u :=
  fun k b hb =>
    have ⟨b', hb', hp⟩ := h k b hb
    have ⟨b'', hb'', hp'⟩ := h' k b' hb'
    ⟨b'', hb'', hp.trans hp'⟩

theorem goes_of_keepsPlaces (h : Clear s x g) (hi : exec i s = s.runFrag g body) {u : State} (hu : body x s = .done u)
    (hk : s.KeepsPlaces u) : Goes s x i u :=
  have ⟨_, hb, hp⟩ := hk _ _ (State.frag_beam h.frag)
  goes_of_samePlace h hi hu hb hp

@[simp] theorem State.winPut_beams (s : State) (c : CohortKey) (off : Nat) (bs : List Byte) :
    (s.winPut c off bs).beams = s.beams := by
  unfold State.winPut
  split
  · rfl
  · split
    · exact (s.writeBytes_cohorts_beams ..).2
    · rfl

/-- A change made again and again keeps the beams if each one does. -/
theorem State.foldl_beams {α : Type} {f : State → α → State} (hf : ∀ (s : State) (a : α), (f s a).beams = s.beams)
    (l : List α) (s : State) : (l.foldl f s).beams = s.beams := by
  induction l generalizing s with
  | nil => rfl
  | cons a l ih => exact (ih _).trans (hf s a)

@[simp] theorem State.winData_beams (s : State) (c : CohortKey) (off : Nat) (bs : List Byte) :
    (s.winData c off bs).beams = s.beams := by
  unfold State.winData
  split
  · rfl
  · split
    · refine State.foldl_beams (fun t p => ?_) _ s
      split
      · rfl
      · exact t.winPut_beams ..
    · exact s.winPut_beams ..

/-- What a store makes newest leaves every fragment where it stood. -/
theorem State.newest_keepsPlaces (s : State) (c : CohortKey) (a n : Nat) : s.KeepsPlaces (s.newest c a n) := by
  unfold State.newest
  split
  · intro k b hb
    have hsame (f : Nat → Bool) : ((fun y : Beam => y.key == k) ∘ fun y => if y.cohort == c then y.caughtUp f else y) =
        fun y => y.key == k := by
      funext y
      simp only [Function.comp_apply]
      split <;> rfl
    refine ⟨_, (List.find?_map ..).trans (congrArg _ ((congrArg (List.find? · s.beams) (hsame _)).trans hb)), ?_⟩
    dsimp only
    split
    · exact ⟨rfl, rfl⟩
    · exact .refl b
  · exact .of_beams rfl

theorem State.matPut_keepsPlaces (s : State) (x : Frag) (off : Nat) (bs : List Byte) : s.KeepsPlaces (s.matPut x off bs) := by
  unfold State.matPut
  split
  · exact .of_beams rfl
  · exact State.KeepsPlaces.trans (.of_beams (s.winData_beams ..)) (State.newest_keepsPlaces _ x.b.cohort off bs.length)

theorem State.raise_keepsPlaces (s : State) (k : BeamKey) (f : Flags) : s.KeepsPlaces (s.raise k f) := by
  unfold State.raise
  split
  · next y hy =>
    intro j b hb
    have hkey : (y.raise f).key = k := show y.key = k from State.beam?_key hy
    rw [State.beam?_setBeam]
    split
    · next hj =>
      obtain rfl : k = j := hkey.symm.trans hj
      obtain rfl : y = b := Option.some.inj (hy.symm.trans hb)
      exact ⟨_, by rw [hb, Option.map_some], y.samePlace_raise f⟩
    · exact ⟨b, hb, .refl b⟩
  · exact .of_beams rfl

end

/-! ### The statement -/

/-- Settles O36: the multiplications by `multiply`, which waits or starts the unit, MMA_COMPLETE by what `landMma` leaves in
each tile, MCLR and MLDA as effects on the beam, MSTA as writes to the window that keep every fragment's place. -/
theorem matrixAndTiles : Obligations.MatrixAndTiles := by
  refine ⟨fun s x fa fb mixed d a c b => ?unit, fun s x t f r d a o oc b c => ?tiles⟩
  case unit =>
    intro off started
    refine ⟨fun h => ⟨fun tr hodd => ?_, fun tr hodd hshape => ?_, fun hodd hshape hwin => ?_⟩,
      fun h => ?scaled, fun m => ⟨s.mmaStart_mmas x d.toNat m, fun c q => s.mmaStart_quads x d.toNat m⟩,
      fun m was now newer => ⟨m.sees_op was now newer, fun hm => MmaPend.sees_product hm was now newer⟩,
      fun t m hm => State.mem_mmaSees_own hm s, fun k y m hy hm => ?complete⟩
    · exact traps_of_trap h rfl (trap_of_check (by rw [hodd]; rfl))
    · exact traps_of_trap h rfl (trap_of_check (by rw [hodd, hshape]; rfl))
    · exact starts_of_multiply h rfl (pass_of_check (by rw [hodd, hshape, hwin]; rfl))
    case scaled =>
      intro fb nb hodd hshape hwin
      exact starts_of_multiply h rfl (pass_of_check (by rw [hodd, hshape, hwin]; rfl))
    case complete =>
      have hk : (y.landMma m).key = k := show y.key = k from State.beam?_key hy
      exact ⟨_, _, exec_mmaComplete hy hm, rfl, rfl, State.beam?_setBeam_of_key hy hk, rfl, rfl,
        fun n hn => getElem?_foldl_set_other m.tiles y.tiles m.tile n hn, fun n ti hti hn => getElem?_foldl_set hti hn⟩
  case tiles =>
    refine ⟨fun h => ⟨fun hbusy => exec_of_stay h rfl (if_pos hbusy), fun hfree =>
        goes_of_beamDone h rfl (if_neg (ne_true_of_eq_false hfree)) ⟨rfl, rfl⟩⟩,
      fun h => ⟨fun tr hshape => traps_of_trap h rfl (trap_of_check hshape), fun hshape hfree => ?load⟩,
      ?store⟩
    case load =>
      have hloaded := Beam.SamePlace.foldl (fun b k => b.samePlace_setTile (d.toNat + k) (x.loadTile t o oc (32 * k)))
        (List.range x.tiles) x.b
      exact goes_of_beamDone h rfl ((pass_of_check hshape).trans (if_neg (ne_true_of_eq_false hfree)))
        (hloaded.trans (Beam.samePlace_raise ..))
    case store =>
      intro opt val off h hval hscale hcount
      have hpass : ((s.matTrap x .write off (128 * Fmt.width f)).or (s.matTrap x .write (val b) 32)).or
          (s.matTrap x .write (val c) 2048) = none := by rw [hval, hscale, hcount]; rfl
      refine ⟨fun hbusy => exec_of_stay h rfl ((pass_of_check hpass).trans (if_pos hbusy)), fun hfree =>
        goes_of_keepsPlaces h rfl ((pass_of_check hpass).trans (if_neg (ne_true_of_eq_false hfree))) ?_⟩
      have put (s : State) (off : Nat) (bs : List Byte) := s.matPut_keepsPlaces x off bs
      exact (((put _ _ _).trans (put _ _ _)).trans (put _ _ _)).trans (State.raise_keepsPlaces _ _ _)

end Sys2Proof.Machine
end

section
/-! What an access leaves beside memory: the caches, the TLBs and the table entry that its translation notes (R305, R379,
R381), and what a lane's load reads (R62, R102, R220, R225). -/

namespace Sys2Proof.Machine

/-! ### Memory and what is kept of it -/

/-- The state `t` with the memory of `s`, and with what the caches, the TLBs and the links to far memory of `s` keep of
it. -/
def State.withMemoryOf (t s : State) : State :=
  { t with mem := s.mem, dirty := s.dirty, older := s.older, posted := s.posted, cores := s.cores, stored := s.stored
           dieTlb := s.dieTlb, walkc := s.walkc }

/-- The states differ in memory, and in what is kept of it, alone. -/
def State.SameBesideMemory (s t : State) : Prop := t.withMemoryOf s = s

namespace State.SameBesideMemory

variable {s t u : State}

theorem refl (s : State) : s.SameBesideMemory s := rfl

theorem trans (h : s.SameBesideMemory t) (h' : t.SameBesideMemory u) : s.SameBesideMemory u :=
  (congrArg (fun v : State => v.withMemoryOf s) h').trans h

theorem field {α : Type} (h : s.SameBesideMemory t) (f : State → α) : f (t.withMemoryOf s) = f s := congrArg f h

theorem beams (h : s.SameBesideMemory t) : t.beams = s.beams := h.field State.beams
theorem cohorts (h : s.SameBesideMemory t) : t.cohorts = s.cohorts := h.field State.cohorts
theorem fills (h : s.SameBesideMemory t) : t.fills = s.fills := h.field State.fills
theorem reqs (h : s.SameBesideMemory t) : t.reqs = s.reqs := h.field State.reqs

theorem ite {p : Prop} [Decidable p] (ht : s.SameBesideMemory t) (hu : s.SameBesideMemory u) :
    s.SameBesideMemory (if p then t else u) := by
  split
  · exact ht
  · exact hu

/-- A change made again and again is of memory alone if each one is. -/
theorem foldl {α : Type} {f : State → α → State} (hf : ∀ (s : State) (a : α), s.SameBesideMemory (f s a))
    (l : List α) (s : State) : s.SameBesideMemory (l.foldl f s) := by
  induction l generalizing s with
  | nil => exact refl s
  | cons a l ih => exact (hf s a).trans (ih _)

end State.SameBesideMemory

section
variable (s : State)

theorem State.sameBesideMemory_modCore (c : Nat) (f : Core → Core) : s.SameBesideMemory (s.modCore c f) := by
  obtain ⟨cs, h⟩ := s.modCore_only c f
  rw [h]
  rfl

theorem State.sameBesideMemory_writeBytes (who : Option Nat) (cached : Bool) (pa : Nat) (bs : List Byte) :
    s.SameBesideMemory (s.writeBytes who cached pa bs) := by
  obtain ⟨m, d, o, cs, st, h⟩ := s.writeBytes_only who cached pa bs
  rw [h]
  rfl

theorem State.sameBesideMemory_fillL1 (v : Via) (t : TlbEntry) : s.SameBesideMemory (s.fillL1 v t) := by
  unfold State.fillL1
  split
  · exact s.sameBesideMemory_modCore ..
  · exact .refl s

theorem State.sameBesideMemory_post (who : Writer) (sys : Bool) (pa : Nat) : s.SameBesideMemory (s.post who sys pa) := rfl

theorem State.sameBesideMemory_fillL2 (v : Via) (t : TlbEntry) : s.SameBesideMemory (s.fillL2 v t) := rfl

theorem State.sameBesideMemory_keepPath (path : List (Nat × WalkEntry)) : s.SameBesideMemory (s.keepPath path) := rfl

/-! ### What a translation leaves -/

/-- Both TLBs and the walk cache take what a walk has found. -/
theorem State.sameBesideMemory_fill (v : Via) (t : TlbEntry) (path : List (Nat × WalkEntry)) :
    s.SameBesideMemory (((s.fillL2 v t).fillL1 v t).keepPath path) :=
  ((s.sameBesideMemory_fillL2 v t).trans (State.sameBesideMemory_fillL1 _ v t)).trans
    (State.sameBesideMemory_keepPath _ path)

theorem State.fill_mem (v : Via) (t : TlbEntry) (path : List (Nat × WalkEntry)) :
    (((s.fillL2 v t).fillL1 v t).keepPath path).mem = s.mem := by
  rw [State.keepPath_mem, State.fillL1_mem]
  rfl

theorem State.sameBesideMemory_xlNoteAs (v : Via) (write wrote : Bool) (x : Context) (va : Nat) :
    s.SameBesideMemory (s.xlNoteAs v write wrote x va) := by
  unfold State.xlNoteAs
  split
  · exact .refl s
  · exact s.sameBesideMemory_fillL1 ..
  · exact .refl s
  · extract_lets e' t path s'
    have hw : s.SameBesideMemory s' := .ite (.refl s) (s.sameBesideMemory_writeBytes ..)
    exact hw.trans (s'.sameBesideMemory_fill ..)

variable {s}

/-- A translation that a TLB gives writes nothing. -/
theorem State.xlNoteAs_mem_cached {v : Via} {write : Bool} {x : Context} {va : Nat}
    (h : ∀ w, s.leafFrom v write x va ≠ .walk w) (wrote : Bool) : (s.xlNoteAs v write wrote x va).mem = s.mem := by
  unfold State.xlNoteAs
  split
  · rfl
  · exact s.fillL1_mem ..
  · rfl
  · next a e large hw => exact absurd hw (h _)

/-- A translation that is walked notes A and D in its leaf entry. -/
theorem State.xlNoteAs_mem_walked {v : Via} {write : Bool} {x : Context} {va a e : Nat} {large : Bool}
    (h : s.leafFrom v write x va = .walk (.leaf a e large)) (wrote : Bool) :
    (s.xlNoteAs v write wrote x va).mem =
      if leafTouched e (wrote && !pteAP e) = e then s.mem else (s.writeNat a 8 (leafTouched e (wrote && !pteAP e))).mem := by
  unfold State.xlNoteAs
  rw [h]
  dsimp only
  rw [State.fill_mem]
  by_cases he : leafTouched e (wrote && !pteAP e) = e
  · rw [if_pos he, if_pos (beq_iff_eq.mpr he)]
  · rw [if_neg he, if_neg (by rwa [beq_iff_eq])]

/-- Every byte outside the leaf entry is as before. -/
theorem State.xlNoteAs_read_other {v : Via} {write : Bool} {x : Context} {va a e : Nat} {large : Bool}
    (h : (s.leafFrom v write x va).leaf = .leaf a e large) (wrote : Bool) {p : Nat} (hp : p < a ∨ a + 8 ≤ p) :
    (s.xlNoteAs v write wrote x va).mem.read p = s.mem.read p := by
  cases hf : s.leafFrom v write x va with
  | l1 t | l2 t => rw [State.xlNoteAs_mem_cached (by rw [hf]; intro w hw; cases hw)]
  | walk w =>
    rw [hf] at h
    obtain rfl : w = .leaf a e large := h
    rw [State.xlNoteAs_mem_walked hf]
    split
    · rfl
    · exact s.writeBytes_read_other _ _ _ _ p (by rwa [natLe_length])

theorem leNat_lt (bs : List Byte) : leNat bs < 256 ^ bs.length := by
  induction bs with
  | nil => exact Nat.one_pos
  | cons b bs ih =>
    have hb : b.toNat < 256 := b.isLt
    rw [List.length_cons, Nat.pow_succ]
    show b.toNat + 256 * leNat bs < _
    omega

theorem State.readNat_lt (s : State) (pa n : Nat) : s.readNat pa n < 256 ^ n := by
  have h := leNat_lt (s.readBytes pa n)
  rwa [State.readBytes_eq, List.length_map, List.length_range, ← State.readBytes_eq] at h

/-- A and D are set where they are clear, so that the entry stays within its 8 bytes. -/
theorem leafTouched_lt {e : Nat} (h : e < 256 ^ 8) (write : Bool) : leafTouched e write < 256 ^ 8 := by
  have hA : (if pteA e then e else e + 2 ^ 9) < 256 ^ 8 := by
    split
    · exact h
    · next hclear =>
      have : e / 2 ^ 9 % 2 ^ 1 ≠ 1 := by simpa [pteA, bits] using hclear
      omega
  unfold leafTouched
  generalize (if pteA e then e else e + 2 ^ 9) = e' at hA
  show (if write && !pteD e' then e' + 2 ^ 10 else e') < 256 ^ 8
  split
  · next hset =>
    have : e' / 2 ^ 10 % 2 ^ 1 ≠ 1 := by
      have hclear : pteD e' = false := by simpa using (Bool.and_eq_true_iff.mp hset).2
      simpa [pteD, bits] using hclear
    omega
  · exact hA

/-- A walked leaf entry that still stands in memory has A and, for a write, D set in it (R379). -/
theorem State.xlNoteAs_leaf {v : Via} {write : Bool} {x : Context} {va a e : Nat} {large : Bool}
    (h : s.leafFrom v write x va = .walk (.leaf a e large)) (he : s.readNat a 8 = e) (wrote : Bool) :
    (s.xlNoteAs v write wrote x va).readNat a 8 = leafTouched e (wrote && !pteAP e) := by
  rw [State.readNat_congr (t := if leafTouched e (wrote && !pteAP e) = e then s else
    s.writeNat a 8 (leafTouched e (wrote && !pteAP e))) (by rw [State.xlNoteAs_mem_walked h, apply_ite State.mem])]
  split
  · next hsame => rw [he, hsame]
  · have hlt : e < 256 ^ 8 := he ▸ s.readNat_lt a 8
    rw [State.readNat_writeNat, Nat.mod_eq_of_lt (leafTouched_lt hlt _)]

end

/-! ### What one lane's access leaves -/

section
variable {s : State} {x : Frag} {k : Acc} {a : Nat} {c : Context} {pa tier leaf at_ : Nat} {large : Bool}
  (hk : k.spad = false) (hc : s.contextOf x.b = some c)
include hk hc

/-- Of a global address a lane notes what its translation leaves, and at most what its core's L1 takes. -/
theorem State.laneNote_cases (a : Nat) :
    ∃ cs, s.laneNote x k a = { s.xlNoteAs (.beam x.core) k.acc.writes (k.acc == .write) c a with cores := cs } := by
  simp only [State.laneNote, hk, hc, Bool.false_eq_true, if_false]
  split
  · split
    · exact ⟨_, rfl⟩
    · exact State.modCore_only ..
  · exact ⟨_, rfl⟩

theorem State.sameBesideMemory_laneNote (a : Nat) : s.SameBesideMemory (s.laneNote x k a) := by
  obtain ⟨cs, h⟩ := State.laneNote_cases hk hc a
  rw [h]
  exact (s.sameBesideMemory_xlNoteAs ..).trans rfl

theorem State.laneNote_mem (a : Nat) :
    (s.laneNote x k a).mem = (s.xlNoteAs (.beam x.core) k.acc.writes (k.acc == .write) c a).mem := by
  obtain ⟨cs, h⟩ := State.laneNote_cases hk hc a
  rw [h]

end

/-- The leaf that a translation to a page goes through. -/
theorem State.leafFrom_of_page {s : State} {v : Via} {write : Bool} {c : Context} {a pa tier leaf at_ : Nat} {large : Bool}
    (h : s.xlate v write c a = .page pa tier leaf at_ large) : (s.leafFrom v write c a).leaf = .leaf at_ leaf large := by
  unfold State.xlate at h
  split at h
  · cases h
  · next a' e large' hleaf =>
    rw [hleaf]
    split at h
    · cases h
    · cases h
      rfl

/-! ### What one lane's access reads -/

theorem Cohort.bytes_eq (c : Cohort) (a n : Nat) : c.bytes a n = (List.range n).map fun j => c.byte (a + j) := by
  induction n generalizing a with
  | zero => rfl
  | succ n ih =>
    rw [Cohort.bytes, ih, List.range_succ_eq_map, List.map_cons, List.map_map, Nat.add_zero]
    congr 2
    funext j
    exact congrArg c.byte (Nat.add_right_comm a 1 j)

theorem zipIdx_range_map {α : Type} (f : Nat → α) (n : Nat) :
    ((List.range n).map f).zipIdx = (List.range n).map fun j => (f j, j) := by
  refine List.ext_getElem (by simp) fun i hi hi' => ?_
  simp

/-- What a window gives for one of its bytes: the byte, or the older one that the beam may still give (R102). -/
def State.spadByte (s : State) (x : Frag) (k : Acc) (c : Cohort) (o : Nat) : Byte :=
  if s.givesOld x k o then (cellAt o x.b.behind).getD (c.byte o) else c.byte o

section
variable (s : State) (x : Frag) (k : Acc) (c : Cohort)

theorem State.spadByte_cases (o : Nat) :
    s.spadByte x k c o = c.byte o ∨ cellAt o x.b.behind = some (s.spadByte x k c o) := by
  unfold State.spadByte
  split
  · cases cellAt o x.b.behind with
    | none => exact .inl rfl
    | some b => exact .inr rfl
  · exact .inl rfl

/-- Where nothing older is left, or the access is no plain load, the window's own byte is read. -/
theorem State.spadByte_newest (h : x.b.behind = [] ∨ k.acc ≠ .read ∨ k.atomic = true) (o : Nat) :
    s.spadByte x k c o = c.byte o := by
  have hold : s.givesOld x k o = false := by
    obtain h | h | h := h <;> simp [State.givesOld, h, cellAt]
  rw [State.spadByte, hold]
  rfl

theorem State.spadRead_eq (a : Nat) : s.spadRead x k c a = (List.range k.n).map fun j => s.spadByte x k c (a + j) := by
  unfold State.spadRead
  rw [Cohort.bytes_eq]
  split
  · next h =>
    refine List.map_congr_left fun j _ => (s.spadByte_newest x k c (.inl (List.isEmpty_iff.mp h)) _).symm
  · simp only [zipIdx_range_map, List.map_map]
    rfl

variable {s x k c}

theorem State.laneRead_window (hk : k.spad = true) (hc : s.cohort? x.b.cohort = some c) (absent a : Nat) :
    s.laneRead x k absent a = s.spadRead x k c a := by
  simp only [State.laneRead, hk, if_true, hc, Option.map_some, Option.getD_some]

/-- A page of near memory, or of far memory at scope `.sys`, is read from memory at a wide scope (R225, R226). -/
theorem State.laneRead_page {x' : Context} {a pa tier leaf at_ : Nat} {large : Bool} (hk : k.spad = false)
    (hc : s.contextOf x.b = some x') (hx : s.xlate (.beam x.core) k.acc.writes x' a = .page pa tier leaf at_ large)
    (hr : regPageOf pa = none) (hw : k.wide = true) (hs : k.sys = true ∨ tier ≠ 2) (absent : Nat) :
    s.laneRead x k absent a = s.readBytes pa k.n := by
  have hnear : (tier == 2 && !k.sys) = false := by
    obtain h | h := hs <;> simp [h]
  simp only [State.laneRead, hk, hc, hx, hr, State.frameRead, State.coreRead, Acc.beneath, hw, hnear, Option.isSome_none,
    Bool.false_eq_true, if_false, if_true, Bool.true_or, Bool.false_and]

end

/-! ### The statement -/

/-- Settles O19: a window's bytes by `spadByte`, a page's by memory; what an access leaves by what its translation notes in
the leaf entry, which is all of memory that it writes. -/
theorem loadValues : Obligations.LoadValues := by
  refine ⟨fun s x k t ls i a => ⟨fun hno => ?absent, fun hfind => ?reads⟩,
    fun s x k a c pa tier leaf at_ large hk hc hx => ?notes⟩
  case absent =>
    have hnone : ls.find? (fun l => l.1 == i) = none := by simpa using hno
    rw [State.loadVals, hnone]
  case reads =>
    have hval : s.loadVals x k t ls i = leNat (s.laneRead x k (Ty.absent t) a.toNat) := by rw [State.loadVals, hfind]
    refine ⟨fun c hk hc => ?window, fun c pa tier leaf at_ large hk hc hx hr hw hs => ?page⟩
    case window =>
      rw [State.laneRead_window hk hc, State.spadRead_eq] at hval
      refine ⟨fun hnew => ?_, fun j => s.spadByte x k c (a.toNat + j), hval, fun j _ => s.spadByte_cases x k c _⟩
      rw [hval, Cohort.bytes_eq]
      simp only [s.spadByte_newest x k c hnew]
    case page => rw [hval, State.laneRead_page hk hc hx hr hw hs, State.readNat]
  case notes =>
    intro t
    have hsame : s.SameBesideMemory t := State.sameBesideMemory_laneNote hk hc a
    have hmem : t.mem = _ := State.laneNote_mem hk hc a
    have hleaf := State.leafFrom_of_page hx
    refine ⟨hsame.beams, hsame.cohorts, hsame.fills, fun p hp => ?_, fun ⟨w, hw⟩ he => ?_⟩
    · rw [hmem, State.xlNoteAs_read_other hleaf _ hp]
    · rw [hw] at hleaf
      obtain rfl : w = .leaf at_ leaf large := hleaf
      rw [State.readNat_congr hmem, State.xlNoteAs_leaf hw he]

end Sys2Proof.Machine
end

section
/-! The waits for a value (R63, R236, R237, R414): WAITV as it completes or sleeps, what wakes it and MWAIT, and the end of a
write's wait for a migrating page (R386). -/

namespace Sys2Proof.Machine

/-! ### Changes that leave every fragment where it stood -/

theorem Beam.samePlace_storeS (b : Beam) (r : Nat) (v : DWord) : b.SamePlace (b.storeS r v) := by
  obtain ⟨-, -, -, -, hsplit, hkey, -⟩ := b.storeS_rest r v
  exact ⟨hkey, hsplit⟩

theorem Beam.samePlace_putS (b : Beam) (lead r : Nat) (v : DWord) : b.SamePlace (b.putS lead r v) := by
  have hclaim := b.samePlace_claimS lead r
  unfold Beam.putS
  cases hc : b.claimS lead r with
  | none => exact .refl b
  | some c =>
    rw [hc] at hclaim
    exact hclaim.trans (c.samePlace_storeS r v)

theorem State.KeepsPlaces.setBeam {s : State} {k : BeamKey} {b b' : Beam} (hb : s.beam? k = some b) (hp : b.SamePlace b') :
    s.KeepsPlaces (s.setBeam b') := by
  have hkey : b'.key = k := hp.key.trans (State.beam?_key hb)
  intro j y hy
  rw [State.beam?_setBeam]
  split
  · next hj =>
    obtain rfl : k = j := hkey.symm.trans hj
    obtain rfl : b = y := Option.some.inj (hb.symm.trans hy)
    exact ⟨b', by rw [hy, Option.map_some], hp⟩
  · exact ⟨y, hy, .refl y⟩

theorem State.KeepsPlaces.refl (s : State) : s.KeepsPlaces s := .of_beams rfl

theorem State.KeepsPlaces.ite {p : Prop} [Decidable p] {s t u : State} (ht : s.KeepsPlaces t) (hu : s.KeepsPlaces u) :
    s.KeepsPlaces (if p then t else u) := by
  split
  · exact ht
  · exact hu

section
variable (s : State) (x : Frag) (k : Acc)

theorem State.laneNote_keepsPlaces (a : Nat) : s.KeepsPlaces (s.laneNote x k a) := by
  cases hk : k.spad with
  | true =>
    cases hb : s.beam? x.b.key with
    | none => exact .of_beams (by simp only [State.laneNote, hk, hb, if_true])
    | some b =>
      simp only [State.laneNote, hk, hb, if_true]
      exact .ite (.refl s) (.setBeam hb ⟨rfl, rfl⟩)
  | false =>
    cases hc : s.contextOf x.b with
    | none => exact .of_beams (by simp only [State.laneNote, hk, hc, Bool.false_eq_true, if_false])
    | some c => exact .of_beams (State.sameBesideMemory_laneNote hk hc a).beams

theorem State.notes_keepsPlaces (ls : List (Nat × Int)) : s.KeepsPlaces (s.notes x k ls) := by
  unfold State.notes
  induction ls generalizing s with
  | nil => exact .refl s
  | cons l ls ih => exact (s.laneNote_keepsPlaces x k l.2.toNat).trans (ih _)

theorem State.packet_keepsPlaces (at_ : Site) (typ : Byte) (pieces : List TracePiece) :
    s.KeepsPlaces (s.packet at_ typ pieces) := by
  unfold State.packet
  split
  · exact .refl s
  · extract_lets b p t
    have ht : s.KeepsPlaces t := by
      cases hb : s.beam? at_.key with
      | none => simp only [t, b, hb]; exact .refl s
      | some y => simp only [t, b, hb]; exact .setBeam hb ⟨rfl, rfl⟩
    exact ht.trans (.of_beams (t.modCore_beams ..))

theorem State.memrec_keepsPlaces (ls : List (Nat × Int)) : s.KeepsPlaces (s.memrec x k ls) :=
  .ite (.refl s) (s.packet_keepsPlaces _ _ _)

theorem State.catchUp_keepsPlaces (j : BeamKey) : s.KeepsPlaces (s.catchUp j) := by
  unfold State.catchUp
  split
  · next b hb => exact .setBeam hb ⟨rfl, rfl⟩
  · exact .refl s

theorem State.acquire_keepsPlaces (acq : Bool) (sc : Scope) : s.KeepsPlaces (s.acquire x acq sc) :=
  State.KeepsPlaces.trans (.ite (s.catchUp_keepsPlaces x.b.key) (.refl s))
    (.ite (.of_beams (State.modCore_beams ..)) (.refl _))

theorem State.sendS_keepsPlaces (t : Ty) (d : Reg) (v : Nat) (ready : Arrival) (take : Option LoadTake) :
    s.KeepsPlaces (s.sendS x t d v ready take) := by
  unfold State.sendS
  split
  · next b hb =>
    have hp : b.SamePlace (((b.claimS x.lead d.toNat).getD b).setSfull d.toNat false) :=
      (b.samePlace_claimS x.lead d.toNat).trans (Beam.samePlace_setSfull _ d.toNat false)
    exact State.KeepsPlaces.trans (.setBeam hb hp) (.of_beams rfl)
  · exact .refl s

end

/-! ### WAITV (R63, R236, R237) -/

/-- An access whose checks pass is made. -/
theorem State.access_of_passes {s : State} {x : Frag} {k : Acc} {ls : List (Nat × Int)} (h : Passes s x k ls) (i : Instr)
    (go : Res) : s.access x k i ls go = go := by
  obtain ⟨htrap, hmig⟩ := h
  obtain ⟨tr, hcase, -⟩ | ⟨-, ⟨-, hgo⟩ | ⟨hcase, -⟩⟩ := s.access_cases x k i ls go
  · rw [htrap] at hcase
    cases hcase
  · exact hgo
  · exact absurd hmig hcase

/-- What WAITV's first read of its address notes: its access, the flags of a narrowed operand, and its MEMREC; a later read
notes its access alone. -/
def State.waitvNotes (s : State) (x : Frag) (k : Acc) (ls : List (Nat × Int)) (f : Flags) : State :=
  if x.entry.wait.isSome then s.notes x k ls else ((s.notes x k ls).raise x.b.key f).memrec x k ls

theorem State.waitvNotes_keepsPlaces (s : State) (x : Frag) (k : Acc) (ls : List (Nat × Int)) (f : Flags) :
    s.KeepsPlaces (s.waitvNotes x k ls f) := by
  have hnotes := s.notes_keepsPlaces x k ls
  exact .ite hnotes ((hnotes.trans (State.raise_keepsPlaces _ x.b.key f)).trans (State.memrec_keepsPlaces _ x k ls))

section
variable {s : State} {x : Frag} {cmp : Cmp} {acq sp : Bool} {sc : Scope} {t : Ty} {d : Reg} {a b : SArg}
  (h : Clear s x { priv := false, noGlint := true, uses := waitvUses d a b })
include h

/-- An absent address never compares TRUE: WAITV completes with the absent code (R63). -/
theorem waitv_absent (hls : x.single sp (.uni a none) = []) :
    Goes s x (.waitv cmp acq sp sc t d a b) (((s.setBeam (x.putS d (widen t (Ty.absent t)))).acquire x acq sc).memrec x
      (loadAcc t sp sc true) []) := by
  have hput : s.KeepsPlaces (s.setBeam (x.putS d (widen t (Ty.absent t)))) :=
    .setBeam (State.frag_beam h.frag) (x.b.samePlace_putS ..)
  exact goes_of_keepsPlaces h rfl (if_pos (List.isEmpty_iff.mpr hls))
    ((hput.trans (State.acquire_keepsPlaces _ x acq sc)).trans (State.memrec_keepsPlaces _ x _ []))

variable (hls : x.single sp (.uni a none) ≠ [])
include hls

theorem waitv_asleep (hz : x.asleep .waitv = true) : exec (.waitv cmp acq sp sc t d a b) s = .next s :=
  exec_of_stay h rfl ((if_neg (by rwa [List.isEmpty_iff])).trans (if_pos hz))

variable (hz : x.asleep .waitv = false) (hpass : Passes s x (loadAcc t sp sc true) (x.single sp (.uni a none)))
include hz hpass

/-- A WAITV that reads completes with the value read when the comparison is TRUE or its limit has run out, and else
sleeps. -/
theorem waitv_reads :
    let i := Instr.waitv cmp acq sp sc t d a b
    let k := loadAcc t sp sc true
    let ls := x.single sp (.uni a none)
    let c := scalarOperand t (x.sval b)
    let lim := (x.b.sreg (b.r.toNat + 1)).toNat
    let r := x.waited .waitv (if Fmt.isAbsent .n64 lim then none else some lim)
    let m := s.loadVals x k t ls x.lead
    let s1 := s.waitvNotes x k ls c.2
    (compareElem (Ty.fmt t) cmp m c.1 = .t ∨ r.2 = some 0 →
      Goes s x i ((s1.acquire x acq sc).sendS x t d m (s.loadReady x k ls))) ∧
    (compareElem (Ty.fmt t) cmp m c.1 ≠ .t → r.2 ≠ some 0 →
      exec i s = .next (s1.sleep x { kind := .waitv, ins := i, words := x.words, waited := r.1, rem := r.2, woken := false
                                     aux := r.1 })) := by
  intro i k ls c lim r m s1
  have hreads (absent go : Res) :
      (if ls.isEmpty then absent else if x.asleep .waitv then .stay s else s.access x k i ls go) = go :=
    (if_neg (by rwa [List.isEmpty_iff])).trans ((if_neg (ne_true_of_eq_false hz)).trans (State.access_of_passes hpass i go))
  refine ⟨fun hend => ?_, fun hcmp hlim => ?_⟩
  · have hs1 : s.KeepsPlaces s1 := s.waitvNotes_keepsPlaces x k ls c.2
    refine goes_of_keepsPlaces h rfl ((hreads _ _).trans (if_pos ?_))
      ((hs1.trans (State.acquire_keepsPlaces s1 x acq sc)).trans (State.sendS_keepsPlaces _ x t d m _ none))
    rwa [Bool.or_eq_true, beq_iff_eq, beq_iff_eq]
  · refine exec_of_stay h rfl ((hreads _ _).trans (if_neg ?_))
    rw [Bool.or_eq_true, beq_iff_eq, beq_iff_eq]
    exact fun hend => hend.elim hcmp hlim

end

/-! ### Wakes (R237, R250, R414) -/

/-- The wait of an entry has been woken. -/
def Entry.awoken (y : Entry) (w : Wait) : Entry := { y with wait := some { w with woken := true } }

section
variable {s : State} {k : BeamKey} {e : Nat} {b : Beam} (hb : s.beam? k = some b)
include hb

/-- A wake reaches the entry's wait where it is of its kind and is to be woken. -/
theorem State.wake_untrapped {w : Wait} (hw : (b.entry e).wait = some w) (ht : b.trap = none) {kind : WaitKind}
    (hkind : w.kind = kind) (ok : Wait → Bool) :
    s.wake k e kind ok = if ok w then s.setBeam (b.setEntry e ((b.entry e).awoken w)) else s := by
  cases hok : ok w with
  | true => simp [State.wake, hb, ht, hw, hkind, hok, Entry.awoken]
  | false => simp [State.wake, hb, ht, hw, hok]

theorem State.wake_any {w : Wait} (hw : (b.entry e).wait = some w) (ht : b.trap = none) {kind : WaitKind}
    (hkind : w.kind = kind) : s.wake k e kind (fun _ => true) = s.setBeam (b.setEntry e ((b.entry e).awoken w)) :=
  (State.wake_untrapped hb hw ht hkind _).trans (if_pos rfl)

/-- The end of a limit wakes a wait only when the limit has run out. -/
theorem State.wake_timeout {w : Wait} (hw : (b.entry e).wait = some w) (ht : b.trap = none) {kind : WaitKind}
    (hkind : w.kind = kind) :
    (w.rem = some 0 →
      s.wake k e kind (fun w => w.rem == some 0) = s.setBeam (b.setEntry e ((b.entry e).awoken w))) ∧
    (w.rem ≠ some 0 → s.wake k e kind (fun w => w.rem == some 0) = s) := by
  rw [State.wake_untrapped hb hw ht hkind]
  exact ⟨fun hrem => if_pos (beq_iff_eq.mpr hrem), fun hrem => if_neg (by rwa [beq_iff_eq])⟩

/-- In trap mode the trapped fragment's wait keeps the wake (R414). -/
theorem State.wake_trapped {tm : TrapMode} {v : Wait} (ht : b.trap = some tm) (he : tm.entry = e)
    (hv : tm.held.wait = some v) :
    (s.wake k e v.kind fun _ => true).mem = s.mem ∧ ∃ b' tm', (s.wake k e v.kind fun _ => true).beam? k = some b' ∧
      b'.trap = some tm' ∧ tm'.held = tm.held.awoken v := by
  have hkey : b.key = k := State.beam?_key hb
  simp only [State.wake, hb, ht]
  refine ⟨rfl, _, _, State.beam?_setBeam_of_key hb hkey, rfl, (if_pos (beq_iff_eq.mpr he)).trans ?_⟩
  simp [hv, Entry.awoken]

/-- A write that has waited too long for a migrating page traps MIGRATING (R386). -/
theorem exec_migrationWaitExpiry {w : Wait} (hw : (b.entry e).wait = some w) (hkind : w.kind = .migrate)
    (hrun : (b.entry e).st = .run) (hlong : 65536 ≤ w.waited) (hpend : b.pend = none) :
    exec (.migrationWaitExpiry k e) s = .next (s.trapEntry k e (b.entry e).pc w.words
      (Trap.addr gXLATE 5 (some (BitVec.ofNat 64 w.aux)) (w.aux / 2 ^ 64 % 2 ^ 56) (w.aux / 2 ^ 64 / 2 ^ 56))) := by
  show execMigrationWaitExpiry k e s = _
  simp [execMigrationWaitExpiry, hb, hw, hkind, hrun, hlong, Frag.pending, hpend]

end

/-! ### The statement -/

/-- Settles O26: WAITV by the three ways in which it ends, the wakes by what reaches the entry's wait, the expiry by the trap
that the wait has kept. -/
theorem waits : Obligations.Waits := by
  refine ⟨fun s x cmp acq sp sc t d a b => ?waitv, fun s k e b hb => ⟨fun w hw ht => ?woken,
    fun tm v i ht he hv hi => ?held,
    fun w hw hkind hrun hlong hpend => exec_migrationWaitExpiry hb hw hkind hrun hlong hpend⟩⟩
  case waitv =>
    intro i k ls c lim r m s1 h
    refine ⟨waitv_absent h, waitv_asleep h, fun hls hz hpass => ?_⟩
    obtain ⟨hends, hsleeps⟩ := waitv_reads (cmp := cmp) (acq := acq) h hls hz hpass
    exact ⟨hends, fun hcmp hlim => ⟨_, rfl, rfl, rfl, rfl, rfl, hsleeps hcmp hlim⟩⟩
  case woken =>
    refine ⟨fun hkind => ?_, fun hkind => ?_⟩
    all_goals
      have hany := State.wake_any hb hw ht hkind
      obtain ⟨hover, hleft⟩ := State.wake_timeout hb hw ht hkind
      exact ⟨congrArg _ hany, fun hrem => congrArg _ (hover hrem), fun hrem => congrArg _ (hleft hrem)⟩
  case held =>
    have hexec : exec i s = .next (s.wake k e v.kind fun _ => true) := by
      obtain ⟨hkind, rfl⟩ | ⟨hkind, rfl⟩ := hi
      · rw [hkind]
        rfl
      · rw [hkind]
        rfl
    obtain ⟨hmem, b', tm', hb', ht', hheld⟩ := State.wake_trapped hb ht he hv
    exact ⟨_, b', tm', hexec, hmem, hb', ht', hheld⟩

end Sys2Proof.Machine
end

section
/-! The bursts of a copy (R70, R260, R262 to R264, R309, R404): what a burst leaves of memory and of its request, how a copy
ends, and how bytes are counted on a barrier (R275, R279, R372). -/

namespace Sys2Proof.Machine

/-! ### Requests -/

theorem State.req?_id {s : State} {id : Nat} {r : Req} (h : s.req? id = some r) : r.id = id := by
  simpa using List.find?_some h

/-- A request put in place of the one with its number is found there. -/
theorem State.req?_setReq_of_id {s : State} {id : Nat} {r r' : Req} (h : s.req? id = some r) (hid : r'.id = r.id) :
    (s.setReq r').req? id = some r' := by
  rw [State.req?_setReq, if_pos (hid.trans (State.req?_id h)), h, Option.map_some]

theorem State.req?_congr {s t : State} (h : t.reqs = s.reqs) (id : Nat) : t.req? id = s.req? id := by
  rw [State.req?, h]
  rfl

/-! ### What the writes and the reads of a burst leave of the requests -/

theorem State.foldl_reqs {α : Type} {f : State → α → State} (hf : ∀ (s : State) (a : α), (f s a).reqs = s.reqs)
    (l : List α) (s : State) : (l.foldl f s).reqs = s.reqs := by
  induction l generalizing s with
  | nil => rfl
  | cons a l ih => exact (ih _).trans (hf s a)

section
variable (s : State)

theorem State.sameBesideMemory_engNotes (core : Nat) (c : CohortKey) (win write : Bool) (as : List Int) :
    s.SameBesideMemory (s.engNotes core c win write as) := by
  unfold State.engNotes
  split
  · exact .refl s
  · refine .foldl (fun s a => ?_) as s
    split
    · exact .ite (s.sameBesideMemory_xlNoteAs ..) (.refl s)
    · exact .refl s

theorem State.sameBesideMemory_burstNotes (x : Xfer) (es : List (Nat × Nat)) (reads : List Int) :
    s.SameBesideMemory (s.burstNotes x es reads) :=
  s.sameBesideMemory_engNotes ..

theorem State.winPut_reqs (key : CohortKey) (off : Nat) (bs : List Byte) : (s.winPut key off bs).reqs = s.reqs := by
  unfold State.winPut
  split
  · rfl
  · split
    · exact (s.sameBesideMemory_writeBytes ..).reqs
    · rfl

theorem State.winData_reqs (key : CohortKey) (off : Nat) (bs : List Byte) : (s.winData key off bs).reqs = s.reqs := by
  unfold State.winData
  split
  · rfl
  · split
    · refine State.foldl_reqs (fun t p => ?_) _ s
      split
      · rfl
      · exact t.winPut_reqs ..
    · exact s.winPut_reqs ..

theorem State.deliver_reqs (r : Req) (off : Nat) (bs : List Byte) : (s.deliver r off bs).reqs = s.reqs := by
  unfold State.deliver
  split
  · next c _ =>
    have hdata := s.winData_reqs c.key off bs
    unfold State.delivered
    extract_lets t
    split
    · exact hdata
    · split
      · exact hdata
      · exact hdata
  · rfl

theorem State.engPut_reqs (r : Req) (win : Bool) (a : Int) (b : Byte) : (s.engPut r win a b).reqs = s.reqs := by
  unfold State.engPut
  split
  · exact s.deliver_reqs ..
  · split
    · next pa tier leaf at_ large _ =>
      extract_lets t
      have ht : s.SameBesideMemory t := (s.sameBesideMemory_writeBytes ..).trans (State.sameBesideMemory_modCore ..)
      exact (ht.trans (.ite (t.sameBesideMemory_post ..) (.refl t))).reqs
    · rfl

theorem State.engWrite_reqs (r : Req) (win : Bool) (old : Option Byte) (w : Wr) :
    (s.engWrite r win old w).reqs = s.reqs := by
  cases w with
  | bytes a bs => exact State.foldl_reqs (fun t p => t.engPut_reqs ..) _ s
  | nib a hi code => exact s.engPut_reqs ..

theorem State.engWrites_reqs (r : Req) (win : Bool) (olds : List Byte) (ws : List Wr) (seen : List Int) :
    (s.engWrites r win olds ws seen).reqs = s.reqs := by
  induction ws generalizing s olds seen with
  | nil => rfl
  | cons w ws ih => exact (ih ..).trans (s.engWrite_reqs ..)

theorem State.storeFails_reqs (r : Req) (p : TMap.Piece) (kind : Nat) : (s.storeFails r p kind).reqs = s.reqs := by
  unfold State.storeFails
  extract_lets x ws
  split
  · rfl
  · exact s.engWrites_reqs ..

/-- A burst that faults writes nothing, but for a row's span that does not fit its slot (R70). -/
theorem State.storeFails_of_fits (r : Req) (p : TMap.Piece) {kind : Nat} (h : kind ≠ 23) : s.storeFails r p kind = s := by
  have hfits : (kind == 23) = false := by simpa using h
  simp only [State.storeFails, hfits, Bool.false_eq_true, if_false]
  exact ite_self' _ s

/-- A channel's write pointer is no part of the requests. -/
theorem State.wpAdd_setReq (r : Req) (core ch n : Nat) : (s.setReq r).wpAdd core ch n = (s.wpAdd core ch n).setReq r := by
  unfold State.wpAdd State.modCore
  show (if (s.core? core).isSome then _ else _) = State.setReq (if (s.core? core).isSome then _ else _) r
  split
  · rfl
  · split
    · rfl
    · rfl

end

/-! ### A burst that faults (R280, R404) -/

section
variable {s : State} {r : Req} {go : Req → State}

theorem State.engFails_now {kind : Nat} (h : kind ≠ 20) : s.engFails r kind go = go r :=
  if_pos (by rwa [bne_iff_ne])

theorem State.engFails_down (h : r.down = none) : s.engFails r 20 go = s.setReq { r with down := some s.clock } := by
  rw [State.engFails, h]
  rfl

theorem State.engFails_waits {t : Nat} (h : r.down = some t)
    (hearly : s.clock < t + ((s.partOfCore r.core).map (·.timeout)).getD 0) : s.engFails r 20 go = s := by
  rw [State.engFails, h]
  exact if_pos hearly

theorem State.engFails_late {t : Nat} (h : r.down = some t)
    (hlate : t + ((s.partOfCore r.core).map (·.timeout)).getD 0 ≤ s.clock) : s.engFails r 20 go = go r := by
  rw [State.engFails, h]
  exact if_neg (Nat.not_lt.mpr hlate)

end

/-- The burst `k` of the request `r` faults in the step `o` from `s`, which changes no memory, no window and no core. -/
def State.BurstFaults (s : State) (o : Host.Outcome State Fault Refusal) (id : Nat) (r : Req) (k kind : Nat) : Prop :=
  ∃ t r', o = .next t ∧ t.mem = s.mem ∧ t.cohorts = s.cohorts ∧ t.cores = s.cores ∧ t.req? id = some r' ∧
    r'.bursts = r.bursts.set k (.faulted kind)

section
variable {s : State} {o : Host.Outcome State Fault Refusal} {id : Nat} {r : Req} (h : s.req? id = some r) {k : Nat}
include h

theorem State.burstFaults_of_setReq {r' : Req} {kind : Nat} (ho : o = .next (s.setReq r')) (hid : r'.id = r.id)
    (hb : r'.bursts = r.bursts.set k (.faulted kind)) : s.BurstFaults o id r k kind :=
  ⟨_, r', ho, rfl, rfl, rfl, State.req?_setReq_of_id h hid, hb⟩

/-- A burst that cannot be read or written faults at once, but where its far memory's port is down: then it waits for the
fabric timeout (R404). -/
theorem State.burst_error {kind : Nat} {aux : List (Int × Nat)}
    (ho : o = .next (s.engFails r kind fun q => s.setReq { q.setBurst k (.faulted kind) with aux := aux })) :
    (kind ≠ 20 → s.BurstFaults o id r k kind) ∧
    (kind = 20 →
      (r.down = none → o = .next (s.setReq { r with down := some s.clock })) ∧
      ∀ t, r.down = some t →
        (s.clock < t + ((s.partOfCore r.core).map (·.timeout)).getD 0 → o = .next s) ∧
        (t + ((s.partOfCore r.core).map (·.timeout)).getD 0 ≤ s.clock → s.BurstFaults o id r k 20)) := by
  refine ⟨fun hkind => ?_, ?_⟩
  · exact State.burstFaults_of_setReq h (ho.trans (congrArg _ (State.engFails_now hkind))) rfl rfl
  · rintro rfl
    refine ⟨fun hdown => ho.trans (congrArg _ (State.engFails_down hdown)),
      fun t hdown => ⟨fun hearly => ?_, fun hlate => ?_⟩⟩
    · exact ho.trans (congrArg _ (State.engFails_waits hdown hearly))
    · exact State.burstFaults_of_setReq h (ho.trans (congrArg _ (State.engFails_late hdown hlate))) rfl rfl

end

/-! ### COPY_BURST (R262 to R264) -/

/-- The next burst of the first copy of a channel is taken. -/
theorem exec_copyBurst {s : State} {core req k image ch : Nat} {st : Bool} {r : Req} (h : s.req? req = some r)
    (hcore : r.core = core) (hdrop : r.dropped = false) (hkind : r.kind = .cpy st image ch) (hpark : r.parked = false)
    (hhead : s.headOfChan r = true) (hfirst : ∀ j b, j < k → r.bursts[j]? = some b → b.open_ = false)
    (hopen : r.bursts[k]?.any BState.open_ = true) :
    exec (.copyBurst core req k) s = .next (if st then s.storeBurst r image k else s.loadBurst r image ch k) := by
  have hbefore : (r.bursts.take k).any BState.open_ = false := by
    rw [List.any_eq_false]
    intro b hb
    obtain ⟨j, hj, rfl⟩ := List.mem_take_iff_getElem.mp hb
    rw [hfirst j _ (by omega) (List.getElem?_eq_getElem (by omega))]
    exact Bool.false_ne_true
  show execCopyBurst core req k s = _
  simp only [execCopyBurst, h, hcore, hdrop, hkind, hpark, hhead, hbefore, hopen, bne_self_eq_false, Bool.not_true,
    Bool.or_false, Bool.false_eq_true, if_false]
  cases st <;> rfl

section
variable {s : State} {r : Req} {image ch k : Nat}

theorem State.loadBurst_error {kind : Nat} (h : r.xfer.loadPiece s (r.xfer.m.piece k) = .error kind) :
    ∃ aux, s.loadBurst r image ch k =
      s.engFails r kind fun q => s.setReq { q.setBurst k (.faulted kind) with aux := aux } := by
  simp only [State.loadBurst, h]
  exact ⟨_, rfl⟩

/-- A load's bytes are delivered, and the channel's pointer grows unless an earlier burst has faulted. -/
theorem State.loadBurst_ok {bs : List Byte} {fl : Flags} (h : r.xfer.loadPiece s (r.xfer.m.piece k) = .ok (bs, fl)) :
    let x := r.xfer
    let es := x.elems (x.m.piece k)
    let u := (s.burstNotes x es (x.touched s es)).deliver r (image + x.m.at_ (x.m.piece k)) bs
    ∃ r', r'.id = r.id ∧ r'.bursts = r.bursts.set k .done ∧ r'.delivered = r.delivered + bs.length ∧
      s.loadBurst r image ch k = (if r.lowest.isSome then u else u.wpAdd r.core ch bs.length).setReq r' := by
  simp only [State.loadBurst, h, State.wpAdd_setReq]
  cases r.lowest.isSome
  · refine ⟨_, ?_, ?_, ?_, rfl⟩ <;> rfl
  · refine ⟨_, ?_, ?_, ?_, rfl⟩ <;> rfl

theorem State.storeBurst_error {kind : Nat} (h : r.xfer.storePiece s image (r.xfer.m.piece k) = .error kind) :
    ∃ aux, s.storeBurst r image k = s.engFails r kind fun q =>
      (s.storeFails q (r.xfer.m.piece k) kind).setReq { q.setBurst k (.faulted kind) with aux := aux } := by
  simp only [State.storeBurst, h]
  exact ⟨_, rfl⟩

/-- Only a span that does not fit its slot writes as it faults. -/
theorem State.storeBurst_error_fits {kind : Nat} (h : r.xfer.storePiece s image (r.xfer.m.piece k) = .error kind)
    (hfits : kind ≠ 23) :
    ∃ aux, s.storeBurst r image k =
      s.engFails r kind fun q => s.setReq { q.setBurst k (.faulted kind) with aux := aux } := by
  simp only [State.storeBurst, h, State.storeFails_of_fits s _ _ hfits]
  exact ⟨_, rfl⟩

section
variable {ws : List Wr} {fl : Flags} (h : r.xfer.storePiece s image (r.xfer.m.piece k) = .ok (ws, fl))
include h

theorem State.storeBurst_fault {kind : Nat} (hf : s.engWritesFault r.core r.cohort r.xfer.m.space ws = some kind) :
    ∃ r', r'.id = r.id ∧ r'.bursts = r.bursts.set k (.faulted kind) ∧ s.storeBurst r image k = s.setReq r' := by
  simp only [State.storeBurst, h, hf]
  refine ⟨_, ?_, ?_, rfl⟩ <;> rfl

variable (hf : s.engWritesFault r.core r.cohort r.xfer.m.space ws = none)
  (hm : s.engMigrates r.core r.cohort r.xfer.m.space ws = false)
include hf hm

/-- A burst that writes nibbles reads their bytes first (R309). -/
theorem State.storeBurst_reads (hk : r.bursts[k]? = some .waiting)
    (holds : s.engOlds r.core r.cohort r.xfer.m.space ws ≠ []) :
    ∃ r', r'.id = r.id ∧ r'.bursts = r.bursts.set k (.read (s.engOlds r.core r.cohort r.xfer.m.space ws)) ∧
      s.storeBurst r image k = s.setReq r' := by
  simp only [State.storeBurst, h, hf, hm, hk, List.isEmpty_iff, holds, Bool.false_eq_true, if_false]
  refine ⟨_, ?_, ?_, rfl⟩ <;> rfl

/-- A burst whose nibbles' bytes are read, or that writes none, writes its bytes. -/
theorem State.storeBurst_writes {bs : List Byte} (hk : r.bursts[k]? = some (.read bs) ∨
      r.bursts[k]? = some .waiting ∧ s.engOlds r.core r.cohort r.xfer.m.space ws = [] ∧ bs = []) :
    let x := r.xfer
    ∃ r', r'.id = r.id ∧ r'.bursts = r.bursts.set k .done ∧
      s.storeBurst r image k = (((s.burstNotes x (x.elems (x.m.piece k)) []).engNotes r.core r.cohort x.m.space true
        (wrEnds ws)).engWrites r x.m.space bs ws []).setReq r' := by
  obtain hk | ⟨hk, holds, rfl⟩ := hk
  · simp only [State.storeBurst, h, hf, hm, hk, Bool.false_eq_true, if_false]
    refine ⟨_, ?_, ?_, rfl⟩ <;> rfl
  · simp only [State.storeBurst, h, hf, hm, hk, holds, List.isEmpty_nil, Bool.false_eq_true, if_false, if_true]
    refine ⟨_, ?_, ?_, rfl⟩ <;> rfl

end

end

section
variable {s : State} {id : Nat} {r : Req} (h : s.req? id = some r) {image ch k : Nat}
include h

/-- The step of a load's burst that is read: memory, the window, the beams and the results in flight are as the delivery
leaves them. -/
theorem State.loadBurst_delivers {bs : List Byte} {fl : Flags}
    (hok : r.xfer.loadPiece s (r.xfer.m.piece k) = .ok (bs, fl)) :
    let x := r.xfer
    let es := x.elems (x.m.piece k)
    let u := (s.burstNotes x es (x.touched s es)).deliver r (image + x.m.at_ (x.m.piece k)) bs
    let t := s.loadBurst r image ch k
    ∃ r', t.mem = u.mem ∧ t.cohorts = u.cohorts ∧ t.beams = u.beams ∧ t.fills = u.fills ∧ t.req? id = some r' ∧
      r'.bursts = r.bursts.set k .done ∧ r'.delivered = r.delivered + bs.length ∧
      (r.lowest = none → t.cores = (u.wpAdd r.core ch bs.length).cores) ∧ (r.lowest ≠ none → t.cores = u.cores) := by
  intro x es u t
  obtain ⟨r', hid, hbursts, hdelivered, ht⟩ : ∃ r', _ ∧ _ ∧ _ ∧ t = _ := State.loadBurst_ok hok
  generalize hv : (if r.lowest.isSome then u else u.wpAdd r.core ch bs.length) = v at ht
  have hsame : u.SameBesideMemory v := hv ▸ .ite (.refl u) (u.sameBesideMemory_modCore ..)
  have hmem : v.mem = u.mem := by
    rw [← hv, apply_ite State.mem, State.wpAdd, State.modCore_mem, ite_self']
  have hu : u.reqs = s.reqs := (State.deliver_reqs ..).trans (s.sameBesideMemory_burstNotes ..).reqs
  have hreq : v.req? id = some r := (State.req?_congr (hsame.reqs.trans hu) id).trans h
  rw [ht]
  refine ⟨r', hmem, hsame.cohorts, hsame.beams, hsame.fills, State.req?_setReq_of_id hreq hid, hbursts, hdelivered,
    fun hlow => ?_, fun hlow => ?_⟩
  · rw [← hv, hlow]
    rfl
  · rw [← hv, if_pos (Option.isSome_iff_ne_none.mpr hlow)]
    rfl

variable {ws : List Wr} {fl : Flags} (hok : r.xfer.storePiece s image (r.xfer.m.piece k) = .ok (ws, fl))
  (hf : s.engWritesFault r.core r.cohort r.xfer.m.space ws = none)
  (hm : s.engMigrates r.core r.cohort r.xfer.m.space ws = false)
include hok hf hm

/-- The step of a store's burst that writes. -/
theorem State.storeBurst_performs {bs : List Byte} (hk : r.bursts[k]? = some (.read bs) ∨
      r.bursts[k]? = some .waiting ∧ s.engOlds r.core r.cohort r.xfer.m.space ws = [] ∧ bs = []) :
    let x := r.xfer
    let u := ((s.burstNotes x (x.elems (x.m.piece k)) []).engNotes r.core r.cohort x.m.space true (wrEnds ws)).engWrites r
      x.m.space bs ws []
    let t := s.storeBurst r image k
    ∃ r', t.mem = u.mem ∧ t.cohorts = u.cohorts ∧ t.cores = u.cores ∧ t.req? id = some r' ∧
      r'.bursts = r.bursts.set k .done := by
  intro x u t
  obtain ⟨r', hid, hbursts, ht⟩ : ∃ r', _ ∧ _ ∧ t = _ := State.storeBurst_writes hok hf hm hk
  have hnotes : s.SameBesideMemory _ :=
    (s.sameBesideMemory_burstNotes x (x.elems (x.m.piece k)) []).trans (State.sameBesideMemory_engNotes _ r.core r.cohort
      x.m.space true (wrEnds ws))
  have hreq : u.req? id = some r := (State.req?_congr ((State.engWrites_reqs ..).trans hnotes.reqs) id).trans h
  rw [ht]
  exact ⟨r', rfl, rfl, rfl, State.req?_setReq_of_id hreq hid, hbursts⟩

end

/-! ### COPY_COMPLETE (R262, R314) -/

section
variable {s : State} {core req image ch : Nat} {st : Bool} {r : Req} (h : s.req? req = some r)
  (hkind : r.kind = .cpy st image ch)
include h hkind

/-- A copy that is not parked ends when its bursts are done and its writes are performed at its SCOPE. -/
theorem exec_copyComplete_ends (hcore : r.core = core) (hdrop : r.dropped = false) (hpark : r.parked = false)
    (hdone : ∀ b ∈ r.bursts, b = .done) (hfin : s.unfinished r = false) :
    let n := r.bytesFrom r.first r.bursts.length
    exec (.copyComplete core req) s =
      .next (((if st then s.wpAdd core ch n else s).reqFlags req).countAndEnd req n) := by
  have hall : r.bursts.all (· == .done) = true := by simpa [List.all_eq_true] using hdone
  show execCopyComplete core req s = _
  simp [execCopyComplete, h, hkind, hcore, hdrop, hpark, hall, hfin]

theorem exec_copyComplete_stays (hleft : r.parked = true ∨ (∃ b ∈ r.bursts, b ≠ .done) ∨ s.unfinished r = true) :
    exec (.copyComplete core req) s = .next s := by
  have hno : (r.core == core && !r.parked && !r.dropped && r.bursts.all (· == .done) && !s.unfinished r) = false := by
    obtain hpark | ⟨b, hb, hne⟩ | hfin := hleft
    · simp [hpark]
    · have hall : r.bursts.all (· == .done) = false := List.all_eq_false.mpr ⟨b, hb, by simpa using hne⟩
      simp [hall]
    · simp [hfin]
  show execCopyComplete core req s = _
  simp only [execCopyComplete, h, hkind, hno, Bool.false_eq_true, if_false]

end

/-! ### Counts on a barrier (R274, R275, R279, R372) -/

section
variable {s : State} {id : Nat} {r : Req} (h : s.req? id = some r)
include h

/-- An orphan, or a request whose barrier is gone, enters the orphan log. -/
theorem State.barCount_orphan (hlive : s.barLive r = false) (n : Nat) :
    s.barCount id n = s.orphaned r.core { cohort := r.cohort, off := r.barrier, bytes := n } := by
  simp only [State.barCount, h, hlive, Bool.not_false, if_true]

/-- A count that a slot takes changes the barrier. -/
theorem State.barCount_taken (hlive : s.barLive r = true) {n : Nat} {b : Bar}
    (hb : (s.bar r.cohort r.barrier).apply r.core (-(n : Int)) = some b) :
    s.barCount id n = (s.setReq { r with counted := r.counted + n }).barChanged r.cohort r.barrier b := by
  simp only [State.barCount, h, hlive, hb, Bool.not_true, Bool.false_eq_true, if_false]

end

/-- An entry of the orphan log changes its core alone. -/
theorem State.orphaned_frame (s : State) (core : Nat) (o : Orphan) :
    (s.orphaned core o).mem = s.mem ∧ (s.orphaned core o).cohorts = s.cohorts ∧ (s.orphaned core o).beams = s.beams :=
  ⟨s.modCore_mem .., (s.sameBesideMemory_modCore ..).cohorts, s.modCore_beams ..⟩

/-! ### The statement -/

/-- Settles O33: a burst by what `loadBurst` and `storeBurst` leave in each case of what is read or written, the end by the
conditions of COPY_COMPLETE, the counts by whether the barrier is live. -/
theorem copyBursts : Obligations.CopyBursts := by
  refine ⟨fun s core req k image ch st r h hcore hdrop hkind hpark hhead hfirst => ?burst,
    fun s core req image ch st r h hcore hdrop hkind => ?complete,
    fun s id n r h => ⟨fun hlive => State.barCount_orphan h hlive n, fun hlive b hb => State.barCount_taken h hlive hb,
      fun o => s.orphaned_frame r.core o⟩⟩
  case burst =>
    subst hcore
    intro x p spoiled unreachable
    refine ⟨fun hst hk => ?load, fun hst hopen => ?store⟩
    case load =>
      subst hst
      have hexec := exec_copyBurst h rfl hdrop hkind hpark hhead hfirst (by rw [hk]; rfl)
      refine ⟨fun fl hfl he => ?_, fun he => ?_, fun bs fl hok => ?_⟩
      · obtain ⟨aux, hl⟩ := State.loadBurst_error he
        exact (State.burst_error h (hexec.trans (congrArg _ hl))).1 hfl
      · obtain ⟨aux, hl⟩ := State.loadBurst_error he
        exact (State.burst_error h (hexec.trans (congrArg _ hl))).2 rfl
      · obtain ⟨r', hleft⟩ := State.loadBurst_delivers (image := image) (ch := ch) h hok
        exact ⟨_, _, r', rfl, hexec, hleft⟩
    case store =>
      subst hst
      have hexec := exec_copyBurst h rfl hdrop hkind hpark hhead hfirst hopen
      have herror {kind : Nat} (hfits : kind ≠ 23) (he : x.storePiece s image p = .error kind) :=
        have ⟨_, hl⟩ := State.storeBurst_error_fits he hfits
        State.burst_error h (hexec.trans (congrArg _ hl))
      refine ⟨fun fl hfl hfits he => (herror hfits he).1 hfl, fun he => (herror (by decide) he).2 rfl, fun he => ?span,
        fun ws fl hok => ⟨fun f hf => ?fault, fun hf hm => ⟨fun hk holds => ?reads, fun bs hk => ?writes⟩⟩⟩
      case span =>
        obtain ⟨aux, hl⟩ := State.storeBurst_error he
        rw [State.engFails_now (by decide)] at hl
        have hreq : (s.storeFails r p 23).req? req = some r := (State.req?_congr (s.storeFails_reqs r p 23) req).trans h
        exact ⟨_, _, hexec.trans (congrArg _ hl), rfl, rfl, State.req?_setReq_of_id hreq rfl, rfl⟩
      case fault =>
        obtain ⟨r', hid, hb, hl⟩ := State.storeBurst_fault hok hf
        exact State.burstFaults_of_setReq h (hexec.trans (congrArg _ hl)) hid hb
      case reads =>
        obtain ⟨r', hid, hb, hl⟩ := State.storeBurst_reads hok hf hm hk holds
        exact ⟨_, r', hexec.trans (congrArg _ hl), rfl, rfl, State.req?_setReq_of_id h hid, hb⟩
      case writes =>
        obtain ⟨r', hleft⟩ := State.storeBurst_performs h hok hf hm hk
        exact ⟨_, _, r', rfl, hexec, hleft⟩
  case complete =>
    refine ⟨exec_copyComplete_ends h hkind hcore hdrop, exec_copyComplete_stays h hkind, ?_⟩
    rw [State.unfinished, Bool.and_eq_true, beq_iff_eq, State.req?_id h]

end Sys2Proof.Machine
end

section
/-! Two beams of 64 lanes that wait at a BFUSE as each other's buddies: BFUSE asks for the width only of a fragment that does
not wait yet (R93, R94), so the pair fuses, to a width that no beam may have (R75). -/

namespace Sys2Proof.Machine

/-- A beam of 64 lanes and one scalar register, whose fragment waits in a BFUSE. -/
def wideWaiter (slot id coloff : Nat) : Beam :=
  { (Beam.fresh ⟨0, slot⟩ ⟨1, 0⟩ id 64 0 1 0 0 0).setEntry 0 { Entry.none_ with
      st := .run, pc := loadPc, mask := fullMask 64
      wait := some { kind := .bfuse, ins := .bfuse 0, words := 1, waited := 0, rem := some 1, woken := false, aux := 0 } } with
    coloff := coloff }

/-- Two buddies of 64 lanes that wait, and the turn of the lower one. -/
def wideBuddies : State :=
  { State.reset with
    turns := [.run ⟨0, 0⟩ 0], beams := [wideWaiter 0 0 0, wideWaiter 1 4 8], contexts := [loadContext]
    kernels := [{ loadKernel with launch := { loadKernel.launch with beams := 8, width := 64, v := 0, s := 1 } }]
    cohorts := [loadCohort] }

theorem wideBuddies_shaped : wideBuddies.shaped = true := by decide

/-- The widths of the beams after a step; none where it has no next state. -/
def stepWidths (s : State) : List Nat :=
  match step s with
  | .next t => t.beams.map Beam.w
  | _ => []

theorem stepWidths_wideBuddies : stepWidths wideBuddies = [128] := by decide +kernel

theorem State.widthOk_of_shaped {s : State} (h : s.shaped = true) : ∀ w ∈ s.beams.map Beam.w, widthOk w = true := by
  intro w hw
  obtain ⟨b, hb, rfl⟩ := List.mem_map.mp hw
  simp only [State.shaped, Bool.and_eq_true, List.all_eq_true] at h
  exact ((Beam.shaped_iff b).mp (h.1.1 b hb)).width

/-- Refutes O60: from `wideBuddies`, whose beams are shaped, a step leaves one beam of 128 lanes. -/
theorem not_beamsStayShaped : ¬ Obligations.BeamsStayShaped := by
  intro h
  have hwidths := stepWidths_wideBuddies
  unfold stepWidths at hwidths
  split at hwidths
  · next t ht =>
    have hok := State.widthOk_of_shaped (h wideBuddies t wideBuddies_shaped ht)
    rw [hwidths] at hok
    exact absurd (hok 128 (List.mem_singleton.mpr rfl)) (by decide)
  · cases hwidths

end Sys2Proof.Machine
end

section
/-! What answers, ended commands and the bytes of a record leave as it was: the beams, the cohorts, the kernels and the clock
(R333, R338, R341, R393). -/

namespace Sys2Proof.Machine

/-- The states have the same beams, cohorts, kernels and clock. -/
structure State.SameWork (s t : State) : Prop where
  beams   : t.beams = s.beams
  cohorts : t.cohorts = s.cohorts
  kernels : t.kernels = s.kernels
  clock   : t.clock = s.clock

namespace State.SameWork

variable {s t u : State}

theorem refl (s : State) : s.SameWork s := ⟨rfl, rfl, rfl, rfl⟩

theorem trans (h : s.SameWork t) (h' : t.SameWork u) : s.SameWork u :=
  ⟨h'.beams.trans h.beams, h'.cohorts.trans h.cohorts, h'.kernels.trans h.kernels, h'.clock.trans h.clock⟩

theorem ite {p : Prop} [Decidable p] (ht : s.SameWork t) (hu : s.SameWork u) : s.SameWork (if p then t else u) := by
  split
  · exact ht
  · exact hu

/-- A change made again and again keeps the work if each one does. -/
theorem foldl {α : Type} {f : State → α → State} (hf : ∀ (s : State) (a : α), s.SameWork (f s a)) (l : List α) (s : State) :
    s.SameWork (l.foldl f s) := by
  induction l generalizing s with
  | nil => exact refl s
  | cons a l ih => exact (hf s a).trans (ih _)

/-- A change of memory, and of what is kept of it, keeps the work. -/
theorem of_memory (h : s.SameBesideMemory t) : s.SameWork t :=
  ⟨h.beams, h.cohorts, h.field State.kernels, h.field State.clock⟩

theorem beam? (h : s.SameWork t) (k : BeamKey) : t.beam? k = s.beam? k := by rw [State.beam?, h.beams, State.beam?]
theorem cohort? (h : s.SameWork t) (k : CohortKey) : t.cohort? k = s.cohort? k := by
  rw [State.cohort?, h.cohorts, State.cohort?]
theorem kernel? (h : s.SameWork t) (k : Nat) : t.kernel? k = s.kernel? k := by rw [State.kernel?, h.kernels, State.kernel?]

end State.SameWork

section
variable (s : State)

/-- An answer goes out by a port, or waits for one, on its flow. -/
theorem State.respond_only (f : From) (status : Nat) (body : List Byte) :
    ∃ fl ps out un, s.respond f status body = { s with flows := fl, ports := ps, out := out, unsent := un } := by
  unfold State.respond State.transmit State.send
  extract_lets w m port
  split
  · exact ⟨_, _, _, _, rfl⟩
  · exact ⟨_, _, _, _, rfl⟩

theorem State.sameWork_respond (f : From) (status : Nat) (body : List Byte) : s.SameWork (s.respond f status body) := by
  obtain ⟨fl, ps, out, un, h⟩ := s.respond_only f status body
  rw [h]
  exact ⟨rfl, rfl, rfl, rfl⟩

theorem State.sameWork_writeBytes (who : Option Nat) (cached : Bool) (pa : Nat) (bs : List Byte) :
    s.SameWork (s.writeBytes who cached pa bs) := .of_memory (s.sameBesideMemory_writeBytes who cached pa bs)

theorem State.sameWork_modCore (c : Nat) (f : Core → Core) : s.SameWork (s.modCore c f) :=
  .of_memory (s.sameBesideMemory_modCore c f)

theorem State.sameWork_putQueue (q : Queue) : s.SameWork (s.putQueue q) :=
  State.SameWork.trans (t := s.setQueue q) ⟨rfl, rfl, rfl, rfl⟩ (State.sameWork_writeBytes _ none false q.desc q.image)

theorem State.sameWork_queueEnd (num seq : Nat) : s.SameWork (s.queueEnd num seq) := by
  unfold State.queueEnd
  split
  · exact .refl s
  · exact s.sameWork_putQueue _

theorem State.sameWork_queueFault (num code seq : Nat) : s.SameWork (s.queueFault num code seq) := by
  unfold State.queueFault
  extract_lets t
  have ht : s.SameWork t := by
    unfold t
    split
    · exact .refl s
    · exact .ite (.refl s) (s.sameWork_putQueue _)
  split
  · exact ht
  · exact ht.trans (.ite (t.sameWork_queueEnd num seq) (.refl t))

theorem State.sameWork_cohortsGone (gone : CohortKey → Bool) : s.SameWork (s.cohortsGone gone) := by
  unfold State.cohortsGone
  extract_lets cmds over_
  refine State.SameWork.trans ?_ (.foldl (fun t c => t.sameWork_queueEnd c.queue c.seq) over_ _)
  exact ⟨rfl, rfl, rfl, rfl⟩

theorem State.sameWork_settleContext (ctx : Nat) : s.SameWork (s.settleContext ctx) := by
  unfold State.settleContext
  split
  · exact .refl s
  · exact .ite ⟨rfl, rfl, rfl, rfl⟩ (.refl s)

theorem State.sameWork_stopsOver (which : Cohort → Bool) : s.SameWork (s.stopsOver which) := by
  refine .foldl (fun t c => ?_) _ s
  extract_lets u
  have hu : t.SameWork u := by
    unfold u
    split
    · exact t.sameWork_respond _ _ _
    · exact .refl t
  split
  · exact hu.trans (u.sameWork_respond _ _ _)
  · exact hu

end

/-- A faulted kernel keeps no beam, and its record says so (R345, R346). -/
theorem State.kernelFault_leaves {s : State} {kid : Nat} {k : Kernel} (hk : s.kernel? kid = some k) (hf : k.st ≠ .faulted)
    (hc : k.st ≠ .completed) (code : Option Nat) :
    (s.kernelFault kid code).kernel? kid = some { k with st := .faulted, groups := [] } ∧
      (s.kernelFault kid code).beams = s.beams.filter fun b => b.cohort.kernel != kid := by
  have hid : k.id = kid := by simpa using List.find?_some hk
  have hnot : ¬ (k.st == .faulted || k.st == .completed) = true := by simp [hf, hc]
  simp only [State.kernelFault, hk, if_neg hnot]
  have hkernel : (s.setKernel { k with st := .faulted, groups := [] }).kernel? kid = some { k with st := .faulted, groups := [] } := by
    rw [State.kernel?_setKernel, if_pos hid, hk, Option.map_some]
  have hstops := (s.setKernel { k with st := .faulted, groups := [] }).sameWork_stopsOver fun c => c.key.kernel == kid
  have hends (u : State) : u.SameWork (match code with
      | some c => ((u.cohortsGone fun c => c.kernel == kid).settleContext k.ctx).queueFault k.queue c k.seq
      | none => ((u.cohortsGone fun c => c.kernel == kid).settleContext k.ctx).queueEnd k.queue k.seq) := by
    have hgone := (u.sameWork_cohortsGone fun c => c.kernel == kid).trans (State.sameWork_settleContext _ k.ctx)
    cases code with
    | none => exact hgone.trans (State.sameWork_queueEnd _ k.queue k.seq)
    | some c => exact hgone.trans (State.sameWork_queueFault _ k.queue c k.seq)
  refine ⟨?_, ?_⟩
  · refine ((hends _).kernel? kid).trans ?_
    exact (hstops.kernel? kid).trans hkernel
  · refine (hends _).beams.trans ?_
    exact congrArg (List.filter _) hstops.beams

end Sys2Proof.Machine
end

section
/-! Taking a trap (R73, R79, R406, R407): what the results that arrive before it change of the beam, what the registers read
behind it, and what a faulted kernel leaves. -/

namespace Sys2Proof.Machine

/-! ### Results that arrive (R78, R288) -/

/-- The beam `l` differs from `b` in registers, full bits, tiles and `status` alone. -/
def Beam.Landed (b l : Beam) : Prop :=
  ∃ v s vf sf ts st, l = { b with v := v, s := s, vfull := vf, sfull := sf, tiles := ts, status := st }

theorem Beam.Landed.refl (b : Beam) : b.Landed b := ⟨_, _, _, _, _, _, rfl⟩

theorem Beam.Landed.trans {a b c : Beam} (h : a.Landed b) (h' : b.Landed c) : a.Landed c := by
  obtain ⟨_, _, _, _, _, _, rfl⟩ := h
  obtain ⟨_, _, _, _, _, _, rfl⟩ := h'
  exact ⟨_, _, _, _, _, _, rfl⟩

section
variable {b l : Beam} (h : b.Landed l)
include h

/-- What rests on the other fields is as before. -/
theorem Beam.Landed.same {α : Type} (f : Beam → α)
    (hf : ∀ v s vf sf ts st, f { b with v := v, s := s, vfull := vf, sfull := sf, tiles := ts, status := st } = f b) :
    f l = f b := by
  obtain ⟨v, s, vf, sf, ts, st, rfl⟩ := h
  exact hf v s vf sf ts st

theorem Beam.Landed.key : l.key = b.key := h.same Beam.key fun _ _ _ _ _ _ => rfl
theorem Beam.Landed.trap : l.trap = b.trap := h.same Beam.trap fun _ _ _ _ _ _ => rfl
theorem Beam.Landed.w : l.w = b.w := h.same Beam.w fun _ _ _ _ _ _ => rfl
theorem Beam.Landed.split : l.split = b.split := h.same Beam.split fun _ _ _ _ _ _ => rfl
theorem Beam.Landed.dstack : l.dstack = b.dstack := h.same Beam.dstack fun _ _ _ _ _ _ => rfl
theorem Beam.Landed.entry (e : Nat) : l.entry e = b.entry e := h.same (·.entry e) fun _ _ _ _ _ _ => rfl

end

/-- Outside trap mode no register is banked, and what arrives again and again is such a change if each arrival is. -/
theorem Beam.Landed.foldl {α : Type} {f : Beam → α → Beam} (hf : ∀ (b : Beam) (a : α), b.trap = none → b.Landed (f b a))
    (l : List α) {b : Beam} (h : b.trap = none) : b.Landed (l.foldl f b) := by
  induction l generalizing b with
  | nil => exact .refl b
  | cons a l ih =>
    have ha := hf b a h
    exact ha.trans (ih (ha.trap.trans h))

section
variable {b : Beam} (h : b.trap = none)
include h

theorem Beam.setVreg_untrapped (r : Nat) (x : List Word) : b.setVreg r x = { b with v := b.v.set r x } := by
  simp only [Beam.setVreg, h]

theorem Beam.setVfull_untrapped (r : Nat) (x : Bool) : b.setVfull r x = { b with vfull := b.vfull.set r x } := by
  simp only [Beam.setVfull, h]

theorem Beam.setSfull_untrapped (r : Nat) (x : Bool) : b.setSfull r x = { b with sfull := b.sfull.set r x } := by
  simp only [Beam.setSfull, h]

theorem Beam.storeS_untrapped (r : Nat) (x : DWord) : b.storeS r x = { b with s := b.s.set r x } := by
  simp only [Beam.storeS, h]

theorem Beam.vl_untrapped (r i : Nat) : b.vl r i = (b.v.getD r []).getD i 0 := by
  simp only [Beam.vl, Beam.vreg, h]

theorem Beam.sreg_untrapped (r : Nat) : b.sreg r = b.s.getD r 0 := by
  simp only [Beam.sreg, h]

theorem Beam.landed_putV (r : Nat) (m : Mask) (f : Nat → Word) : b.Landed (b.putV r m f) := by
  rw [Beam.putV, Beam.setVreg_untrapped h]
  exact ⟨_, _, _, _, _, _, rfl⟩

theorem Beam.landed_setVfull (r : Nat) (x : Bool) : b.Landed (b.setVfull r x) := by
  rw [Beam.setVfull_untrapped h]
  exact ⟨_, _, _, _, _, _, rfl⟩

theorem Beam.landed_setSfull (r : Nat) (x : Bool) : b.Landed (b.setSfull r x) := by
  rw [Beam.setSfull_untrapped h]
  exact ⟨_, _, _, _, _, _, rfl⟩

theorem Beam.landed_storeS (r : Nat) (x : DWord) : b.Landed (b.storeS r x) := by
  rw [Beam.storeS_untrapped h]
  exact ⟨_, _, _, _, _, _, rfl⟩

theorem Beam.landed_land (f : Fill) : b.Landed (b.land f) := by
  unfold Beam.land
  split
  · next r m vals banked _ =>
    split
    · exact .refl b
    · refine .foldl (fun b x hb => ?_) _ h
      have hput := Beam.landed_putV hb x.2 (m &&& ~~~b.exited) fun i => x.1.getD i 0
      exact hput.trans (Beam.landed_setVfull (hput.trap.trans hb) x.2 true)
  · next r val drop banked _ =>
    split
    · exact .refl b
    · have hfull := Beam.landed_setSfull h r true
      cases drop
      · exact hfull.trans (Beam.landed_storeS (hfull.trap.trans h) r val)
      · exact hfull

end

theorem Beam.landed_landMma (b : Beam) (m : MmaPend) : b.Landed (b.landMma m) := ⟨_, _, _, _, _, _, rfl⟩

/-- Every result on its way to a beam outside trap mode arrives (R406). -/
theorem State.landAll_beam? {s : State} {b : Beam} (hb : s.beam? b.key = some b) (h : b.trap = none) :
    ∃ l, (s.landAll b.key).beam? b.key = some l ∧ b.Landed l := by
  have hfills := Beam.Landed.foldl (fun b f hb => Beam.landed_land hb f) (s.fills.filter fun f => f.beam == b.key) h
  have hall := hfills.trans
    (.foldl (fun b m _ => b.landed_landMma m) (s.mmas.filter fun m => m.beam == b.key) (hfills.trap.trans h))
  simp only [State.landAll, hb]
  exact ⟨_, State.beam?_setBeam_of_key hb hall.key, hall⟩

theorem State.landAll_fills {s : State} {k : BeamKey} {b : Beam} (hb : s.beam? k = some b) :
    (s.landAll k).fills = s.fills.filter fun f => f.beam != k := by
  simp only [State.landAll, hb]

@[simp] theorem State.landAll_mem (s : State) (k : BeamKey) : (s.landAll k).mem = s.mem := by
  unfold State.landAll
  split <;> rfl

/-! ### The beam in trap mode (R79, R406, R407) -/

section
variable (b : Beam) {e : Nat} (pc words handler : Nat) (t : Trap)

/-- The trapped fragment goes on at the handler with the lanes that it had, in no block. -/
theorem Beam.entry_enterTrap_self (he : e < b.split.length) : (b.enterTrap e pc words handler t).entry e =
    { Entry.none_ with
      st := .run, pc := handler, mask := (b.entry e).mask, since := (b.entry e).since, ready := (b.entry e).ready } := by
  show List.getD (List.set _ _ _) _ _ = _
  rw [getD_set_eq, if_pos ⟨rfl, by rwa [List.length_map]⟩]

/-- Every other fragment is held. -/
theorem Beam.entry_enterTrap_other {j : Nat} (hj : j ≠ e) : (b.enterTrap e pc words handler t).entry j =
    if (b.entry j).st = .run then { b.entry j with st := .held } else b.entry j := by
  show List.getD (List.set _ _ _) _ _ = _
  rw [getD_set_eq, if_neg fun h => hj h.1]
  simp only [Beam.entry, List.getD_eq_getElem?_getD, List.getElem?_map]
  cases b.split[j]? with
  | none => rfl
  | some y => simp

theorem Beam.sreg_enterTrap_low {r : Nat} (hr : r < 56) : (b.enterTrap e pc words handler t).sreg r = b.s.getD r 0 :=
  if_neg (by omega)

theorem Beam.vl_enterTrap_low {r : Nat} (hr : r < 240) (i : Nat) :
    (b.enterTrap e pc words handler t).vl r i = (b.v.getD r []).getD i 0 := by
  have hreg : (b.enterTrap e pc words handler t).vreg r = b.v.getD r [] := if_neg (by omega)
  rw [Beam.vl, hreg]

/-- The banked vector registers read all ones. -/
theorem Beam.vl_enterTrap_banked {r i : Nat} (h240 : 240 ≤ r) (h256 : r < 256) (hi : i < b.w) :
    (b.enterTrap e pc words handler t).vl r i = 0xFFFFFFFF := by
  have hreg : (b.enterTrap e pc words handler t).vreg r = (List.replicate 16 (List.replicate b.w (~~~0))).getD (r - 240) [] :=
    if_pos h240
  rw [Beam.vl, hreg, List.getD_replicate _ (by omega), List.getD_replicate _ hi]
  rfl

end

/-- A trap with no result owed, outside trap mode and with a HANDLER that can be entered, is taken once every result has
arrived (R406). -/
theorem State.trapEntry_taken {s : State} {b : Beam} {c : Context} (hb : s.beam? b.key = some b)
    (hc : s.contextOf b = some c) (ht : b.trap = none) (ho : s.owed b.key = false)
    (hh : s.headerIs b.key.core c c.handler (fun w => !headerK w && !headerG w) = true) (e pc words : Nat) (t : Trap) :
    ∃ l, (s.landAll b.key).beam? b.key = some l ∧ b.Landed l ∧
      s.trapEntry b.key e pc words t = (s.landAll b.key).setBeam (l.enterTrap e pc words c.handler t) := by
  obtain ⟨l, hl, hland⟩ := State.landAll_beam? hb ht
  refine ⟨l, hl, hland, ?_⟩
  simp only [State.trapEntry, hb, hc, ht, ho, hh, hl, Option.isNone_none, Option.isSome_none, Bool.and_false, Bool.or_self,
    Bool.not_true, Bool.false_eq_true, if_false]

/-- `tcause` as s56 reads it: the cause has 32 bits. -/
theorem Trap.setWidth_cause (t : Trap) :
    BitVec.setWidth 64 t.cause = BitVec.ofNat 64 (t.code % 2 ^ 16 * 2 ^ 16 + t.group % 32) := by
  apply BitVec.eq_of_toNat_eq
  simp only [Trap.cause, BitVec.toNat_setWidth, BitVec.toNat_ofNat]
  omega

/-- A trap in trap mode, or with a HANDLER that cannot be entered, faults the kernel (R73, R318). -/
theorem State.trapEntry_faults {s : State} {b : Beam} {c : Context} (hb : s.beam? b.key = some b)
    (hc : s.contextOf b = some c)
    (h : b.trap.isSome = true ∨
      (s.owed b.key = false ∧ s.headerIs b.key.core c c.handler (fun w => !headerK w && !headerG w) = false))
    (e pc words : Nat) (t : Trap) : s.trapEntry b.key e pc words t = s.kernelFault b.cohort.kernel (some 2) := by
  have howed : ¬ (b.trap.isNone && s.owed b.key) = true := by
    obtain ht | ⟨ho, -⟩ := h
    · simp [Option.isNone_eq_false_iff.mpr ht]
    · simp [ho]
  have hfault : (b.trap.isSome || !s.headerIs b.key.core c c.handler fun w => !headerK w && !headerG w) = true := by
    obtain ht | ⟨-, hh⟩ := h
    · rw [ht, Bool.true_or]
    · rw [hh, Bool.not_false, Bool.or_true]
  simp only [State.trapEntry, hb, hc, if_neg howed, if_pos hfault]

/-- Settles O12: a trap that is taken is `enterTrap` of the beam with its results landed, one that is not a `kernelFault`. -/
theorem trapEntryAndDoubleTrap : Obligations.TrapEntryAndDoubleTrap := by
  refine ⟨fun s b c e pc words tr hb hc ht ho he hh => ?taken,
    fun s b c k e pc words tr hb hc hk hnf hnc h => ?faults⟩
  case taken =>
    obtain ⟨l, hl, hland, heq⟩ := State.trapEntry_taken hb hc ht ho hh e pc words tr
    have hlt := hland.trap.trans ht
    rw [← hland.split] at he
    rw [heq, ← hland.w, ← hland.dstack]
    simp only [← hland.entry]
    have hself := l.entry_enterTrap_self pc words c.handler tr he
    have hother := fun j (hj : j ≠ e) => l.entry_enterTrap_other pc words c.handler tr hj
    refine ⟨_, State.beam?_setBeam_of_key hl hland.key, rfl, rfl, rfl, rfl, rfl, rfl, rfl, rfl, congrArg Entry.st hself,
      congrArg Entry.pc hself, by rw [hself], congrArg Entry.blk hself,
      fun j hj hrun => (hother j hj).trans (if_pos hrun), fun j hj hrun => (hother j hj).trans (if_neg hrun),
      State.landAll_fills hb, s.landAll_mem _, tr.setWidth_cause, rfl, rfl, rfl, rfl, rfl, rfl, rfl,
      fun r i h240 h256 hi => l.vl_enterTrap_banked pc words c.handler tr h240 h256 hi, l, hl, fun r hr => ?_,
      fun r i hr => ?_, rfl, rfl, rfl, rfl⟩
    · rw [l.sreg_enterTrap_low pc words c.handler tr hr, Beam.sreg_untrapped hlt]
    · rw [l.vl_enterTrap_low pc words c.handler tr hr, Beam.vl_untrapped hlt]
  case faults =>
    obtain ⟨hkernel, hbeams⟩ := State.kernelFault_leaves hk hnf hnc (some 2)
    rw [State.trapEntry_faults hb hc h]
    refine ⟨rfl, by rw [hkernel]; rfl, fun y hy => ?_⟩
    rw [hbeams] at hy
    simpa using (List.mem_filter.mp hy).2

end Sys2Proof.Machine
end

section
/-! Results on their way (R78, R412, R413): what a beam's registers and full bits read when a result leaves and when it
arrives, whole or with an uncorrectable error. -/

namespace Sys2Proof.Machine

/-! ### Full bits outside trap mode (R78) -/

section
variable {b : Beam} (h : b.trap = none)
include h

theorem Beam.vfullAt_untrapped (r : Nat) : b.vfullAt r = b.vfull.getD r true := by
  simp only [Beam.vfullAt, h]

theorem Beam.sfullAt_untrapped (r : Nat) : b.sfullAt r = b.sfull.getD r true := by
  simp only [Beam.sfullAt, h]

/-- Registers that await a result are empty, and nothing else of the beam has changed. -/
theorem Beam.foldl_setVfull_false (r n : Nat) :
    (List.range n).foldl (fun (b : Beam) k => b.setVfull (r + k) false) b =
      { b with vfull := (List.range n).foldl (fun vf k => vf.set (r + k) false) b.vfull } := by
  induction n with
  | zero => rfl
  | succ n ih =>
    simp only [List.range_succ, List.foldl_append, List.foldl_cons, List.foldl_nil, ih]
    exact Beam.setVfull_untrapped (by exact h) ..

end

/-- A list of full bits whose entries from `r` on are cleared. -/
theorem getD_foldl_set_false (vf : List Bool) {r n : Nat} (hn : r + n ≤ vf.length) (q : Nat) :
    ((List.range n).foldl (fun (vf : List Bool) k => vf.set (r + k) false) vf).getD q true =
      (decide (q < r ∨ r + n ≤ q) && vf.getD q true) := by
  induction n with
  | zero => simp [Nat.lt_or_ge]
  | succ n ih =>
    have hlen : ((List.range n).foldl (fun (vf : List Bool) k => vf.set (r + k) false) vf).length = vf.length := by
      clear ih hn
      induction n with
      | zero => rfl
      | succ n ih => simpa [List.range_succ] using ih
    simp only [List.range_succ, List.foldl_append, List.foldl_cons, List.foldl_nil]
    rw [getD_set_eq, hlen, ih (by omega)]
    by_cases hq : q = r + n
    · subst hq
      simp [show r + n < vf.length by omega]
    · rw [if_neg fun h => hq h.1]
      congr 1
      exact decide_eq_decide.mpr (by omega)

/-! ### Registers that a result fills -/

section
variable {b : Beam} (h : b.trap = none) {f : Fill}
include h

/-- One vector register takes the lanes that have not exited, and is full. -/
theorem Beam.land_vector {r : Nat} {m : Mask} {vals : List Word} (hf : f.dst = .v r m [vals] false) :
    b.land f =
      { b with
        v := b.v.set r ((List.range b.w).map fun i => if (m &&& ~~~b.exited).getLsbD i then vals.getD i 0 else b.vl r i)
        vfull := b.vfull.set r true } := by
  simp only [Beam.land, hf, Bool.false_and, Bool.false_eq_true, if_false, List.zipIdx_cons, List.zipIdx_nil, List.foldl_cons,
    List.foldl_nil, Beam.putV, Beam.setVreg_untrapped h]
  exact Beam.setVfull_untrapped (by exact h) ..

theorem Beam.land_scalar {r : Nat} {v : DWord} (hf : f.dst = .s r v false false) :
    b.land f = { b with s := b.s.set r v, sfull := b.sfull.set r true } := by
  simp only [Beam.land, hf, Bool.false_and, Bool.false_eq_true, if_false, Beam.setSfull_untrapped h]
  exact Beam.storeS_untrapped (by exact h) ..

theorem Beam.vl_land {r : Nat} {m : Mask} {vals : List Word} (hf : f.dst = .v r m [vals] false) (hr : r < b.v.length)
    {i : Nat} (hi : i < b.w) :
    (b.land f).vl r i = if m.getLsbD i && !b.exited.getLsbD i then vals.getD i 0 else b.vl r i := by
  have hlanes : (m &&& ~~~b.exited).getLsbD i = (m.getLsbD i && !b.exited.getLsbD i) := by
    rw [BitVec.getLsbD_and, BitVec.getLsbD_not]
    by_cases h64 : i < 64
    · simp [h64]
    · simp [BitVec.getLsbD_of_ge m i (by omega)]
  rw [Beam.land_vector h hf, Beam.vl_untrapped (by exact h), getD_set_eq, if_pos ⟨rfl, hr⟩, getD_range_map, if_pos hi, hlanes]

theorem Beam.vfullAt_land {r : Nat} {m : Mask} {vals : List Word} (hf : f.dst = .v r m [vals] false)
    (hr : r < b.vfull.length) : (b.land f).vfullAt r = true := by
  rw [Beam.land_vector h hf, Beam.vfullAt_untrapped (by exact h), getD_set_eq, if_pos ⟨rfl, hr⟩]

theorem Beam.sreg_land {r : Nat} {v : DWord} (hf : f.dst = .s r v false false) (hr : r < b.s.length) :
    (b.land f).sreg r = v := by
  rw [Beam.land_scalar h hf, Beam.sreg_untrapped (by exact h), getD_set_eq, if_pos ⟨rfl, hr⟩]

theorem Beam.sfullAt_land {r : Nat} {v : DWord} (hf : f.dst = .s r v false false) (hr : r < b.sfull.length) :
    (b.land f).sfullAt r = true := by
  rw [Beam.land_scalar h hf, Beam.sfullAt_untrapped (by exact h), getD_set_eq, if_pos ⟨rfl, hr⟩]

end

/-! ### REGISTER_FILL (R412, R413) -/

theorem Fill.failed_vector {f : Fill} {r : Nat} {m : Mask} {vals : List Word} (hf : f.dst = .v r m [vals] false)
    (bad : Mask) :
    (f.failed bad).dst = .v r m [vals.zipIdx.map fun q => if (bad &&& m).getLsbD q.2 then f.absent.1 else q.1] false := by
  simp [Fill.failed, hf]

/-- Lanes that fail, and have not exited, hold the absent code. -/
theorem Beam.vl_land_failed {b : Beam} (h : b.trap = none) {f : Fill} {r : Nat} {m bad : Mask} {vals : List Word}
    (hf : f.dst = .v r m [vals] false) (hr : r < b.v.length) {i : Nat} (hi : i < b.w) (hlen : i < vals.length)
    (hlane : (bad &&& m &&& ~~~b.exited).getLsbD i = true) : (b.land (f.failed bad)).vl r i = f.absent.1 := by
  simp only [BitVec.getLsbD_and, BitVec.getLsbD_not, Bool.and_eq_true] at hlane
  obtain ⟨⟨hbad, hm⟩, -, hex⟩ := hlane
  rw [Beam.vl_land h (Fill.failed_vector hf bad) hr hi, hm, hex]
  simp [hlen, hbad, hm]

/-- Without an error no lane of a result fails. -/
theorem Fill.failing_none (f : Fill) (m : Mask) : f.failing ((0 ||| 0) &&& m) = 0 := by
  unfold Fill.failing
  split <;> simp

section
variable {s : State} {k : BeamKey} {n : Nat} {err : Mask} {b : Beam} {f : Fill} (hb : s.beam? k = some b)
  (hn : s.fills[n]? = some f) (hk : f.beam = k) (hready : f.ready ≤ s.clock)
include hb hn hk hready

theorem exec_registerFill_clean (herr : err = 0) (hdown : f.down = 0) :
    exec (.registerFill k n err) s = .next { s.setBeam (b.land f) with fills := s.fills.eraseIdx n } := by
  have hnow : ¬ (f.beam != k || decide (s.clock < f.ready)) = true := by simp [hk, hready]
  have hbad : (if f.src == .memory then f.failing ((err ||| f.down) &&& fullMask b.w) else 0) = 0 := by
    rw [herr, hdown, Fill.failing_none, ite_self]
  show execRegisterFill k n err s = _
  simp only [execRegisterFill, hn, hb, if_neg hnow, hbad, beq_self_eq_true, if_true]

theorem exec_registerFill_failed {bad : Mask} (hsrc : f.src = .memory)
    (hbad : f.failing ((err ||| f.down) &&& fullMask b.w) = bad) (hne : bad ≠ 0) :
    exec (.registerFill k n err) s =
      .next (({ s.setBeam (b.land (f.failed bad)) with fills := s.fills.eraseIdx n } : State).returned f bad) := by
  have hnow : ¬ (f.beam != k || decide (s.clock < f.ready)) = true := by simp [hk, hready]
  have hnz : ¬ (bad == 0) = true := by simpa using hne
  show execRegisterFill k n err s = _
  simp only [execRegisterFill, hn, hb, if_neg hnow, hsrc, beq_self_eq_true, if_true, hbad, if_neg hnz]

end

@[simp] theorem State.hwError_beam? (s : State) (code unit at_ : Nat) (k : BeamKey) :
    (s.hwError code unit at_).beam? k = s.beam? k := by
  unfold State.hwError
  extract_lets t
  split <;> rfl

/-- An error in returned data is pending on its beam, which holds no cause and is not in trap mode (R413). -/
theorem State.returned_pends {s : State} {f : Fill} {b : Beam} (hb : s.beam? f.beam = some b) (ht : b.trap = none)
    (hp : b.pend = none) (lanes : Mask) : ∃ p, (s.returned f lanes).beam? f.beam = some { b with pend := some p } ∧
      p.cause = 3 * 2 ^ 16 + gHWERR ∧ p.lanes = lanes := by
  have hfree : b.holdsCause = false := by simp [Beam.holdsCause, hp]
  have hkey : b.key = f.beam := State.beam?_key hb
  simp only [State.returned, State.hwPend, State.hwError_beam?, hb, ht, hfree, Option.isSome_none, Bool.false_eq_true, if_false]
  refine ⟨_, State.beam?_setBeam_of_key (y := b) ?_ hkey, ?_⟩
  · rw [State.hwError_beam?, hb]
  · exact ⟨rfl, rfl⟩

/-- Settles O20: `pendV` clears full bits, REGISTER_FILL is `Beam.land` of the result, as it is or with its failed lanes absent
and the cause put on the beam. -/
theorem resultsArrive : Obligations.ResultsArrive := by
  refine ⟨fun s b e pc r ready m vals ab src take hb ht hfull hr => ?leaves, fun s k n err b f hb ht hn hk hready => ?arrives⟩
  case leaves =>
    have hempty := Beam.foldl_setVfull_false ht r vals.length
    have hdst : (b.trap.isSome && decide (240 ≤ r)) = false := by rw [ht]; rfl
    refine ⟨_, State.beam?_setBeam_of_key hb (by rw [hempty]), by rw [hempty], fun q => ?_, rfl, ?_⟩
    · rw [hempty, Beam.vfullAt_untrapped (by exact ht), Beam.vfullAt_untrapped ht]
      exact getD_foldl_set_false b.vfull (by omega) q
    · simp only [State.pendV, hdst]
  case arrives =>
    have hkey (g : Fill) : (b.land g).key = k := (Beam.landed_land ht g).key.trans (State.beam?_key hb)
    have hput (g : Fill) := State.beam?_setBeam_of_key hb (hkey g)
    refine ⟨fun herr hdown => ⟨_, exec_registerFill_clean hb hn hk hready herr hdown, rfl, rfl, fun q hq => ?_,
      fun r m vals hf hr hfull => ⟨_, hput f, Beam.vfullAt_land ht hf hfull, fun i hi => Beam.vl_land ht hf hr hi⟩,
      fun r v hf hr hfull => ⟨_, hput f, Beam.sfullAt_land ht hf hfull, Beam.sreg_land ht hf hr⟩⟩,
      fun r m vals hf hsrc hdown hpend hne hr => ?fails⟩
    · refine (State.beam?_setBeam s (b.land f) q).trans (if_neg fun h => hq ?_)
      exact h.symm.trans (hkey f)
    case fails =>
      have hbad : f.failing ((err ||| f.down) &&& fullMask b.w) = err &&& fullMask b.w &&& m := by
        simp [Fill.failing, hf, hdown]
      have hland := Beam.landed_land ht (f.failed (err &&& fullMask b.w &&& m))
      have hsame : (b.land (f.failed (err &&& fullMask b.w &&& m))).pend = b.pend := hland.same Beam.pend fun _ _ _ _ _ _ => rfl
      subst hk
      obtain ⟨p, hp, hcause, hlanes⟩ := State.returned_pends
        (s := { s.setBeam (b.land (f.failed (err &&& fullMask b.w &&& m))) with fills := s.fills.eraseIdx n })
        (hput _) (hland.trap.trans ht) (hsame.trans hpend) (err &&& fullMask b.w &&& m)
      refine ⟨_, _, p, exec_registerFill_failed hb hn rfl hready hsrc hbad hne, hp, rfl, hcause, hlanes, fun i hi hlen hlane => ?_⟩
      refine Beam.vl_land_failed ht hf hr hi hlen ?_
      rwa [BitVec.and_assoc _ m m, BitVec.and_self]

end Sys2Proof.Machine
end

section
/-! The pauses (R99, R149, R150, R352): what NOP, YIELD and DELAY leave, and the steps of time that end a pause or promote a
fragment. -/

namespace Sys2Proof.Machine

section
variable {s : State} {x : Frag} {a : SArgI}

/-- A fragment that stays in the table goes on with what has changed of its own entry. -/
theorem goes_of_setEntry {g : Guard} {i : Instr} {body : Frag → State → Res} {y : Entry} (h : Clear s x g)
    (hi : exec i s = s.runFrag g body) (hu : body x s = s.beamDone (x.b.setEntry x.e y)) :
    Goes s x i (s.setBeam (x.b.setEntry x.e y)) :=
  goes_of_done h hi hu (State.beam?_setBeam_of_key (State.frag_beam h.frag) rfl)
    (by simpa [Beam.setEntry] using Frag.e_lt h.runs)

/-- An instruction without an effect goes on behind itself. -/
theorem goes_of_nothing {g : Guard} {i : Instr} {body : Frag → State → Res} (h : Clear s x g)
    (hi : exec i s = s.runFrag g body) (hu : body x s = .done s) : Goes s x i s :=
  goes_of_samePlace h hi hu (State.frag_beam h.frag) (.refl x.b)

theorem goes_yield (h : Clear s x (plain [])) (hdim : (s.coreOf x.core).dim = false) :
    Goes s x .yield (s.setBeam (x.b.setEntry x.e { x.entry with yielded := some s.clock })) :=
  goes_of_setEntry h rfl (if_neg (by simp [hdim]))

theorem goes_yield_dim (h : Clear s x (plain [])) (hdim : (s.coreOf x.core).dim = true) : Goes s x .yield s :=
  goes_of_nothing h rfl (if_pos hdim)

theorem goes_delay (h : Clear s x (plain (SArgI.uses 1 a)))
    (hn : Fmt.isAbsent .n64 (x.svalI .n64 a) = true ∨ x.svalI .n64 a = 0) : Goes s x (.delay a) s :=
  goes_of_nothing h rfl (if_pos (by simpa using hn))

/-- A DELAY with a count waits at the next instruction. -/
theorem exec_delay (h : Clear s x (plain (SArgI.uses 1 a))) (habs : Fmt.isAbsent .n64 (x.svalI .n64 a) = false)
    (hn : x.svalI .n64 a ≠ 0) :
    exec (.delay a) s = .next (s.setBeam (x.b.setEntry x.e { x.entry with
      pc := x.next, carry := none
      wait := some { kind := .delay, ins := .delay a, words := x.words, waited := 0
                     rem := some (min (x.svalI .n64 a) 4096), woken := false, aux := 0 } })) :=
  exec_of_stay h rfl (if_neg (by simp [habs, hn]))

theorem exec_delayExpiry {k : BeamKey} {e : Nat} {b : Beam} {w : Wait} (hb : s.beam? k = some b)
    (hw : (b.entry e).wait = some w) (hkind : w.kind = .delay) (hrem : w.rem = some 0) :
    exec (.delayExpiry k e) s = .next (s.setBeam (b.setEntry e { b.entry e with wait := none, since := s.clock })) := by
  show execDelayExpiry k e s = _
  simp [execDelayExpiry, hb, hw, hkind, hrem]

theorem exec_agingPromotion {k : BeamKey} {e : Nat} {b : Beam} (hb : s.beam? k = some b) (hrun : (b.entry e).st = .run)
    (hpassed : 64 ≤ (b.entry e).passed) (hpromoted : (b.entry e).promoted = false) :
    exec (.agingPromotion k e) s = .next (s.setBeam (b.setEntry e { b.entry e with promoted := true })) := by
  show execAgingPromotion k e s = _
  simp [execAgingPromotion, hb, hrun, hpassed, hpromoted]

end

/-- Settles O10: each pause by its own equation. -/
theorem pauses : Obligations.Pauses := by
  intro s x a
  refine ⟨fun h => ⟨goes_of_nothing h rfl rfl, goes_yield h, goes_yield_dim h⟩,
    fun h => ⟨goes_delay h, fun habs hn => ⟨_, _, exec_delay h habs hn, rfl, rfl, rfl⟩⟩,
    fun k e b w hb hw hkind hrem => exec_delayExpiry hb hw hkind hrem,
    fun k e b hb hrun hpassed hpromoted => exec_agingPromotion hb hrun hpassed hpromoted⟩

end Sys2Proof.Machine
end

section
/-! Width changes (R92 to R95): the halves that BSPLIT makes, the pair that BFUSE joins or lets go on, and their failures. -/

namespace Sys2Proof.Machine

/-! ### Registers of a beam in one fragment -/

section
variable {b : Beam} (h : b.converged = true)
include h

theorem Beam.trap_of_converged : b.trap = none := by
  simp only [Beam.converged, Bool.and_eq_true, Option.isNone_iff_eq_none] at h
  exact h.1.1.1.1

theorem Beam.putS_converged (lead r : Nat) (x : DWord) : b.putS lead r x = { b with s := b.s.set r x } := by
  have ht := b.trap_of_converged h
  simp only [Beam.putS, Beam.claimS, ht, h, if_true, Beam.storeS_untrapped ht]

end

/-- A scalar register after it has been stored to. -/
theorem Beam.sreg_set {b : Beam} (ht : b.trap = none) {d : Nat} (hd : d < b.s.length) (x : DWord) (r : Nat) :
    ({ b with s := b.s.set d x } : Beam).sreg r = if r = d then x else b.sreg r := by
  rw [Beam.sreg_untrapped (by exact ht), Beam.sreg_untrapped ht, getD_set_eq]
  simp only [hd, and_true]

/-- The scalar destination of an instruction stands in the file. -/
theorem Clear.dst_lt {s : State} {x : Frag} {g : Guard} {d : Reg} (h : Clear s x g) (hu : g.uses = dstS d)
    (hs : x.b.shaped = true) (ht : x.b.trap = none) : d.toNat < x.b.s.length := by
  have hshape := (Beam.shaped_iff _).mp hs
  have hhas := Beam.hasS_of hshape (Frag.has_of_check h.check (u := ⟨.s, d.toNat, 0, true, false, false⟩)
    (by rw [hu]; exact regUses_dst_mem ..)) rfl
  rw [hshape.s]
  simpa [Beam.HasS, ht] using hhas.1

theorem Beam.entry_advance_self {b : Beam} {e : Nat} (he : e < b.split.length) (next : Nat) :
    ((b.advance e next).entry e).pc = next := by
  rw [Beam.advance, Beam.entry_setEntry, if_pos ⟨rfl, he⟩]

/-! ### A beam retires (R160) -/

theorem State.leaveAll_beams (s : State) (b : Beam) : (s.leaveAll b).beams = s.beams := by
  unfold State.leaveAll
  split <;> rfl

theorem State.leaveAll_mem (s : State) (b : Beam) : (s.leaveAll b).mem = s.mem := by
  unfold State.leaveAll
  split <;> rfl

theorem State.retire_mem (s : State) (k : BeamKey) : (s.retire k).mem = s.mem := by
  unfold State.retire
  split
  · rfl
  · exact s.leaveAll_mem _

/-- A beam that retires is gone; another one that stands stays. -/
theorem State.retire_beam? (s : State) (k j : BeamKey) :
    ((s.retire k).beam? j).isSome = (decide (j ≠ k) && (s.beam? j).isSome) := by
  unfold State.retire
  split
  · next hk =>
    by_cases hj : j = k
    · simp [hj, hk]
    · simp [hj]
  · next b hk =>
    simp only [State.beam?, List.find?_map, Option.isSome_map, List.find?_filter, State.leaveAll_beams]
    by_cases hj : j = k
    · subst hj
      simp [List.find?_eq_none]
    · have hsame (y : Beam) : decide ((y.key != k) = true ∧ (y.key == j) = true) = (y.key == j) := by
        by_cases hy : y.key = j
        · simp [hy, hj]
        · simp [hy]
      simp only [Function.comp_def, hsame, hj, ne_eq, not_false_eq_true, decide_true, Bool.true_and]

/-! ### BFUSE: two buddies (R93 to R95) -/

theorem State.buddy_spec {s : State} {b y : Beam} (h : s.buddy b = .ok y) :
    y ∈ s.beams ∧ y.key ≠ b.key ∧ y.w = b.w := by
  unfold State.buddy at h
  extract_lets n at_ at h
  split at h
  · cases h
  · split at h
    · cases h
    · next z hz =>
      split at h
      · cases h
      · next hw =>
        obtain rfl : z = y := by simpa using h
        have hfound := List.find?_some hz
        have hlive := List.mem_of_find?_eq_some hz
        simp only [Bool.and_eq_true, bne_iff_ne] at hfound
        exact ⟨(List.mem_filter.mp hlive).1, hfound.2, by simpa using hw⟩

theorem Beam.trap_of_fusing {b : Beam} {f : Nat × Reg × Wait} (h : b.fusing = some f) : b.trap = none := by
  unfold Beam.fusing at h
  split at h
  · cases h
  · next ht => simpa using ht

/-- A fragment at its BFUSE meets the buddy that waits there, whether it waits itself or has just come. -/
theorem exec_bfuse_meets {s : State} {x : Frag} {d yd : Reg} {y : Beam} {ye : Nat} {yw : Wait}
    (h : Clear s x { priv := false, noGlint := true, uses := dstS d }) (hw : x.w ≠ 64) (hc : x.b.converged = true)
    (hp : s.pending x.b = false) (hbuddy : s.buddy x.b = .ok y) (hf : y.fusing = some (ye, yd, yw)) :
    exec (.bfuse d) s = .next (s.fusePair x d y ye yd yw) := by
  refine exec_of_stay h rfl ?_
  have hw' : ¬ (x.w == 64) = true := by simpa using hw
  simp only [hbuddy, hf, Option.map_some, hc, hp, if_neg hw', Bool.not_true, Bool.false_eq_true, if_false, ite_self]

/-! ### The fused beam (R95) -/

section
variable {lower upper : Beam} (ht : lower.trap = none) (e next : Nat) (d : Reg)
include ht

/-- What of the fused beam does not rest on its split table. -/
theorem Beam.fuse_eq : ∃ sp, lower.fuse upper e next d = { lower with
    w := 2 * lower.w, laneg := lower.laneg ++ upper.laneg
    v := lower.v.zipWith (· ++ ·) upper.v, c := lower.c.zipWith (· ++ ·) upper.c
    exited := (lower.exited &&& fullMask lower.w) ||| (upper.exited &&& fullMask lower.w) <<< lower.w
    status := lower.status ||| upper.status, stamps := Stamps.none_
    s := lower.s.set d.toNat 0, split := sp, owesSync := true } := by
  refine ⟨(lower.fuse upper e next d).split, ?_⟩
  simp only [Beam.fuse, Beam.storeS, Beam.advance, Beam.setEntry, ht, Beam.oweSync]

theorem Beam.fuse_pc (he : e < lower.split.length) : ((lower.fuse upper e next d).entry e).pc = next := by
  simp only [Beam.fuse, Beam.storeS, Beam.advance, Beam.setEntry, ht, Beam.oweSync, Beam.entry]
  rw [getD_set_eq, if_pos ⟨rfl, by simpa using he⟩]

end

/-- The lanes of the fused beam are the lower beam's and then the upper's. -/
theorem getD_zipWith_append {v v' : List (List Word)} {n w r i : Nat} (hv : v.length = n) (hv' : v'.length = n)
    (hw : ∀ l ∈ v, l.length = w) (hr : r < n) (hi : i < w) :
    ((v.zipWith (· ++ ·) v').getD r []).getD i 0 = (v.getD r []).getD i 0 ∧
      ((v.zipWith (· ++ ·) v').getD r []).getD (w + i) 0 = (v'.getD r []).getD i 0 := by
  have hl : (v.getD r []).length = w := hw _ (getD_mem v r [] (by omega))
  have hrow : (v.zipWith (· ++ ·) v').getD r [] = v.getD r [] ++ v'.getD r [] := by
    simp [List.getD_eq_getElem?_getD, hv, hv', hr]
  rw [hrow]
  constructor
  · rw [List.getD_append _ _ _ _ (by omega)]
  · rw [List.getD_append_right _ _ _ _ (by omega), hl, Nat.add_sub_cancel_left]

/-- A pair that can fuse does, in the slot of the lower beam, here the issuing one. -/
theorem State.fusePair_joins {s : State} {x : Frag} {d yd : Reg} {y : Beam} {ye : Nat} {yw : Wait}
    (hcol : x.b.coloff < y.coloff) (hfault : s.pairFault (x.pc, (y.entry ye).pc) x.b y = none) :
    s.fusePair x d y ye yd yw = (s.retire y.key).setBeam (x.b.fuse y x.e x.next d) := by
  simp only [State.fusePair, hcol, if_true, hfault]

theorem State.pairFault_none {s : State} {pcs : Nat × Nat} {lower upper : Beam} (h : s.pairFault pcs lower upper = none) :
    lower.nv = upper.nv := by
  unfold State.pairFault at h
  split at h
  · cases h
  · split at h
    · cases h
    · next hshape =>
      simp only [Bool.or_eq_true, bne_iff_ne, not_or, not_not] at hshape
      exact hshape.1.1.1

section
variable {lower upper : Beam} (e next : Nat) (d : Reg)

theorem Beam.sreg_fuse (ht : lower.trap = none) (hd : d.toNat < lower.s.length) (r : Nat) :
    (lower.fuse upper e next d).sreg r = if r = d.toNat then 0 else lower.sreg r := by
  obtain ⟨sp, hfused⟩ := Beam.fuse_eq ht (upper := upper) e next d
  rw [hfused, Beam.sreg_untrapped (by exact ht), Beam.sreg_untrapped ht, getD_set_eq]
  simp only [hd, and_true]

theorem Beam.vl_fuse (ht : lower.trap = none) (htu : upper.trap = none) (hl : lower.Shape) (hu : upper.Shape)
    (hnv : lower.nv = upper.nv) {r i : Nat} (hr : r < lower.nv) (hi : i < lower.w) :
    (lower.fuse upper e next d).vl r i = lower.vl r i ∧ (lower.fuse upper e next d).vl r (lower.w + i) = upper.vl r i := by
  obtain ⟨sp, hfused⟩ := Beam.fuse_eq ht (upper := upper) e next d
  have hv (q j : Nat) : (lower.fuse upper e next d).vl q j =
      ((lower.v.zipWith (· ++ ·) upper.v).getD q []).getD j 0 := by
    rw [hfused]
    exact Beam.vl_untrapped (by exact ht) q j
  rw [hv, hv, Beam.vl_untrapped ht, Beam.vl_untrapped htu]
  exact getD_zipWith_append hl.v (hu.v.trans hnv.symm) hl.vw hr hi

end

/-- With the upper beam retired the fused one stands in the lower one's slot. -/
theorem State.beam?_retire_setBeam {s : State} {k : BeamKey} {b f : Beam} (hb : s.beam? b.key = some b) (hk : k ≠ b.key)
    (hf : f.key = b.key) :
    ((s.retire k).setBeam f).beam? b.key = some f ∧ ((s.retire k).setBeam f).beam? k = none := by
  constructor
  · have hstays : ((s.retire k).beam? b.key).isSome = true := by
      rw [State.retire_beam?, hb]
      simpa using Ne.symm hk
    obtain ⟨z, hz⟩ := Option.isSome_iff_exists.mp hstays
    exact State.beam?_setBeam_of_key hz hf
  · rw [State.beam?_setBeam, hf, if_neg (Ne.symm hk), ← Option.not_isSome_iff_eq_none, State.retire_beam?]
    simp

/-- Settles O17: the pair meets, the upper beam retires, and the fused beam stands in the lower one's slot. -/
theorem fuseJoins : Obligations.FuseJoins := by
  intro s x d yd y ye yw h hs hy hw hc hp hbuddy hf hcol hfault
  obtain ⟨-, hkey, -⟩ := State.buddy_spec hbuddy
  have ht := Beam.trap_of_converged hc
  have hsreg := Beam.sreg_fuse (upper := y) x.e x.next d ht (h.dst_lt rfl hs ht)
  have hpc := Beam.fuse_pc (upper := y) ht x.e x.next d (Frag.e_lt h.runs)
  have hmeet := exec_bfuse_meets h hw hc hp hbuddy hf
  rw [State.fusePair_joins hcol hfault] at hmeet
  have hlanes (r i : Nat) (hr : r < x.b.nv) (hi : i < x.w) :=
    Beam.vl_fuse x.e x.next d ht (Beam.trap_of_fusing hf) ((Beam.shaped_iff _).mp hs) ((Beam.shaped_iff _).mp hy)
      (State.pairFault_none hfault) hr hi
  obtain ⟨sp, hfused⟩ := Beam.fuse_eq ht (upper := y) x.e x.next d
  obtain ⟨hlower, hupper⟩ := State.beam?_retire_setBeam (f := x.b.fuse y x.e x.next d) (State.frag_beam h.frag) hkey
    (by rw [hfused])
  exact ⟨_, _, hmeet, s.retire_mem y.key, hlower, hupper, by rw [hfused]; rfl, by rw [hfused],
    (hsreg _).trans (if_pos rfl), fun r hr => (hsreg r).trans (if_neg hr), by rw [hfused], hlanes, hpc⟩

end Sys2Proof.Machine
end

section
/-! BSPLIT's halves (R92), the pair that meets and cannot fuse, and the codes of both width changes (R92 to R95). -/

namespace Sys2Proof.Machine

/-! ### BSPLIT (R92) -/

theorem pick_mem {α : Type} (seed : Nat) {xs : List α} (h : xs ≠ []) : ∃ x ∈ xs, pick seed xs = some x := by
  unfold pick
  split
  · exact absurd rfl h
  · next x => exact ⟨x, List.mem_singleton_self x, rfl⟩
  · have hlt : Config.freeNat seed % xs.length < xs.length := Nat.mod_lt _ (List.length_pos_iff.mpr h)
    exact ⟨xs[Config.freeNat seed % xs.length], List.getElem_mem hlt, List.getElem?_eq_getElem hlt⟩

theorem State.free_of_freeSlots {s : State} {own : CohortKey} {core quad slot : Nat} (h : slot ∈ s.freeSlots own core quad) :
    s.beam? ⟨core, slot⟩ = none := by
  have hfree := (List.mem_filter.mp h).2
  rw [Bool.and_eq_true] at hfree
  exact Option.isNone_iff_eq_none.mp hfree.1

/-- A half of a beam of at least 16 lanes without exited ones lives. -/
theorem Beam.half_live {b : Beam} (he : b.exited = 0) (hw : 16 ≤ b.w) (hok : widthOk b.w = true) (up : Bool) :
    (b.half up).live ≠ 0 := by
  have hlive : (b.half up).live = fullMask (b.w / 2) := by
    show fullMask (b.w / 2) &&& ~~~((if up then b.exited >>> (b.w / 2) else b.exited) &&& fullMask (b.w / 2)) = _
    have hex : (if up then b.exited >>> (b.w / 2) else b.exited) &&& fullMask (b.w / 2) = 0 := by cases up <;> simp [he]
    rw [hex]
    exact BitVec.and_allOnes
  rw [hlive]
  obtain h | h | h | h := (widthOk_iff _).mp hok
  · omega
  all_goals rw [h]; decide

section
variable {b : Beam} (ht : b.trap = none) (up : Bool)
include ht

/-- The lanes of a half are those of the beam from its first lane on. -/
theorem Beam.vl_half (r : Nat) {i : Nat} (hi : i < b.w / 2) :
    (b.half up).vl r i = b.vl r ((if up then b.w / 2 else 0) + i) := by
  rw [Beam.vl_untrapped (by exact ht), Beam.vl_untrapped ht]
  have hrow : (b.v.map (cutLanes (b.w / 2) up)).getD r [] = cutLanes (b.w / 2) up (b.v.getD r []) := by
    simp only [List.getD_eq_getElem?_getD, List.getElem?_map]
    cases b.v[r]? with
    | none => cases up <;> simp [cutLanes]
    | some l => rfl
  show ((b.v.map (cutLanes (b.w / 2) up)).getD r []).getD i 0 = _
  rw [hrow]
  cases up
  · simp [cutLanes, List.getD_eq_getElem?_getD, hi]
  · simp [cutLanes, List.getD_eq_getElem?_getD]

end

theorem Beam.entry_half_pc (b : Beam) (up : Bool) (e : Nat) : ((b.half up).entry e).pc = (b.entry e).pc := by
  unfold Beam.entry Beam.half Beam.oweSync
  simp only [List.getD_eq_getElem?_getD, List.getElem?_map]
  cases b.split[e]? <;> rfl

theorem State.joinAll_beams (s : State) (b upper : Beam) : (s.joinAll b upper).beams = s.beams := by
  unfold State.joinAll
  split <;> rfl

theorem State.joinAll_mem (s : State) (b upper : Beam) : (s.joinAll b upper).mem = s.mem := by
  unfold State.joinAll
  split <;> rfl

theorem State.takeSlot_beams (s : State) (c : CohortKey) (slot : Nat) : (s.takeSlot c slot).beams = s.beams := by
  unfold State.takeSlot
  split
  · split <;> rfl
  · rfl

theorem State.takeSlot_mem (s : State) (c : CohortKey) (slot : Nat) : (s.takeSlot c slot).mem = s.mem := by
  unfold State.takeSlot
  split
  · split <;> rfl
  · rfl

/-- The lower half of the fragment's beam, which keeps its slot. -/
def Frag.lowerHalf (x : Frag) (d : Reg) : Beam := ((x.b.advance x.e x.next).half false).storeS d.toNat 0

/-- The upper half of the fragment's beam, in its new slot. -/
def Frag.newHalf (x : Frag) (d : Reg) (slot id : Nat) : Beam := ((x.b.advance x.e x.next).upperHalf slot id).storeS d.toNat 1

section
variable {s : State} {x : Frag} {d : Reg} {slot : Nat}

/-- With both halves alive the upper one stands beside the beams, and the lower one in place of the halved one. -/
theorem State.splitBeam_beams (hl : (x.lowerHalf d).live ≠ 0) (hu : ∀ id, (x.newHalf d slot id).live ≠ 0) :
    ∃ id, (s.splitBeam x d slot).beams = (s.setBeam (x.lowerHalf d)).beams ++ [x.newHalf d slot id] ∧
      (s.splitBeam x d slot).mem = s.mem := by
  let upper := x.newHalf d slot (s.freeId x.b.cohort)
  let t := (s.setBeam (x.lowerHalf d)).joinAll (x.lowerHalf d) upper
  have hstands : s.splitBeam x d slot = { t with beams := t.beams ++ [upper] }.takeSlot x.b.cohort slot :=
    (if_neg fun h => hl (eq_of_beq h)).trans (if_neg fun h => hu _ (eq_of_beq h))
  refine ⟨s.freeId x.b.cohort, ?_, ?_⟩
  · rw [hstands, State.takeSlot_beams, State.joinAll_beams]
  · rw [hstands, State.takeSlot_mem]
    exact State.joinAll_mem ..

/-- The halves stand in the old slot and in one that was free; every other beam is as before. -/
theorem State.splitBeam_beam? {id : Nat} (hb : s.beam? x.b.key = some x.b) (hfree : s.beam? ⟨x.core, slot⟩ = none)
    (hkl : (x.lowerHalf d).key = x.b.key) (hku : (x.newHalf d slot id).key = ⟨x.core, slot⟩) {t : State}
    (ht : t.beams = (s.setBeam (x.lowerHalf d)).beams ++ [x.newHalf d slot id]) :
    t.beam? x.b.key = some (x.lowerHalf d) ∧ t.beam? ⟨x.core, slot⟩ = some (x.newHalf d slot id) ∧
      ∀ q, q ≠ x.b.key → q ≠ ⟨x.core, slot⟩ → t.beam? q = s.beam? q := by
  have hfind (q : BeamKey) : t.beam? q =
      ((s.setBeam (x.lowerHalf d)).beam? q).or
        (if (⟨x.core, slot⟩ : BeamKey) = q then some (x.newHalf d slot id) else none) := by
    simp only [State.beam?, ht, List.find?_append, List.find?_singleton, hku, beq_iff_eq]
  have hne : x.b.key ≠ ⟨x.core, slot⟩ := fun h => by
    rw [← h, hb] at hfree
    cases hfree
  refine ⟨?_, ?_, fun q hq hq' => ?_⟩
  · rw [hfind, State.beam?_setBeam_of_key hb hkl, Option.some_or]
  · rw [hfind, State.beam?_setBeam, hkl, if_neg hne, hfree, if_pos rfl, Option.none_or]
  · rw [hfind, State.beam?_setBeam, hkl, if_neg (Ne.symm hq), if_neg (Ne.symm hq'), Option.or_none]

/-! What the halves hold. -/

section
variable (ht : x.b.trap = none) (slot : Nat) (id : Nat)
include ht

theorem Frag.lowerHalf_eq : x.lowerHalf d = { (x.b.advance x.e x.next).half false with s := x.b.s.set d.toNat 0 } :=
  Beam.storeS_untrapped (b := (x.b.advance x.e x.next).half false) ht ..

theorem Frag.newHalf_eq :
    x.newHalf d slot id = { (x.b.advance x.e x.next).upperHalf slot id with s := x.b.s.set d.toNat 1 } :=
  Beam.storeS_untrapped (b := (x.b.advance x.e x.next).upperHalf slot id) ht ..

theorem Frag.sreg_halves (hd : d.toNat < x.b.s.length) (r : Nat) :
    (x.lowerHalf d).sreg r = (if r = d.toNat then 0 else x.b.sreg r) ∧
      (x.newHalf d slot id).sreg r = (if r = d.toNat then 1 else x.b.sreg r) := by
  have hlower := Beam.sreg_set (b := (x.b.advance x.e x.next).half false) ht hd 0 r
  have hupper := Beam.sreg_set (b := (x.b.advance x.e x.next).upperHalf slot id) ht hd 1 r
  rw [Beam.sreg_untrapped (b := (x.b.advance x.e x.next).half false) ht] at hlower
  rw [Beam.sreg_untrapped (b := (x.b.advance x.e x.next).upperHalf slot id) ht] at hupper
  rw [Frag.lowerHalf_eq ht, Frag.newHalf_eq ht, Beam.sreg_untrapped ht]
  exact ⟨hlower, hupper⟩

theorem Frag.vl_halves (r : Nat) {i : Nat} (hi : i < x.w / 2) :
    (x.lowerHalf d).vl r i = x.b.vl r i ∧ (x.newHalf d slot id).vl r i = x.b.vl r (x.w / 2 + i) := by
  have hhalf (up : Bool) := Beam.vl_half (b := x.b.advance x.e x.next) ht up r hi
  have hb (j : Nat) : (x.b.advance x.e x.next).vl r j = x.b.vl r j := by
    rw [Beam.vl_untrapped ht]
    exact Beam.vl_untrapped ht ..
  have hlower := hhalf false
  have hupper := hhalf true
  rw [hb] at hlower hupper
  rw [Frag.lowerHalf_eq ht, Frag.newHalf_eq ht]
  refine ⟨Eq.trans ?_ (hlower.trans (by simp)), Eq.trans ?_ hupper⟩ <;> rfl

theorem Frag.pc_halves (he : x.e < x.b.split.length) :
    ((x.lowerHalf d).entry x.e).pc = x.next ∧ ((x.newHalf d slot id).entry x.e).pc = x.next := by
  have hhalf (up : Bool) := ((x.b.advance x.e x.next).entry_half_pc up x.e).trans (Beam.entry_advance_self he x.next)
  rw [Frag.lowerHalf_eq ht, Frag.newHalf_eq ht]
  exact ⟨hhalf false, hhalf true⟩

end

end

/-- A fragment that can be halved is, into a slot that was free. -/
theorem exec_bsplit_halves {s : State} {x : Frag} {d : Reg} (h : Clear s x { priv := false, noGlint := true, uses := dstS d })
    (hc : x.b.converged = true) (hw : 16 ≤ x.w) (hp : s.pending x.b = false)
    (hfree : s.freeSlots x.b.cohort x.core (quadOf x.b.key.slot) ≠ []) (hroom : (s.liveBeams x.b.cohort).length < 64) :
    ∃ slot ∈ s.freeSlots x.b.cohort x.core (quadOf x.b.key.slot), exec (.bsplit d) s = .next (s.splitBeam x d slot) := by
  obtain ⟨slot, hslot, hpick⟩ := pick_mem s.free hfree
  refine ⟨slot, hslot, exec_of_stay h rfl ?_⟩
  simp only [hc, hp, hpick, if_neg (Nat.not_lt.mpr hw), if_neg (Nat.not_le.mpr hroom), Bool.not_true, Bool.false_eq_true,
    if_false, ge_iff_le]

/-! ### The codes (R92 to R94) -/

section
variable {s : State} {x : Frag} {d : Reg} (h : Clear s x { priv := false, noGlint := true, uses := dstS d })
include h

/-- A width change that fails writes its code and goes on. -/
theorem goes_of_code {i : Instr} {body : Frag → State → Res}
    (hi : exec i s = s.runFrag { priv := false, noGlint := true, uses := dstS d } body)
    {c : Nat} (hu : body x s = s.beamDone (x.putS d (0x100 + c))) : Goes s x i (s.setBeam (x.putS d (0x100 + c))) :=
  goes_of_beamDone h hi hu (x.b.samePlace_putS ..)

theorem goes_bsplit_diverged (hc : x.b.converged = false) : Goes s x (.bsplit d) (s.setBeam (x.putS d (0x100 + 1))) :=
  goes_of_code h rfl (by simp only [hc, Bool.not_false, if_true])

theorem goes_bsplit_narrow (hc : x.b.converged = true) (hw : x.w < 16) :
    Goes s x (.bsplit d) (s.setBeam (x.putS d (0x100 + 3))) :=
  goes_of_code h rfl (by simp only [hc, hw, Bool.not_true, Bool.false_eq_true, if_false, if_true])

theorem goes_bsplit_pending (hc : x.b.converged = true) (hw : 16 ≤ x.w) (hp : s.pending x.b = true) :
    Goes s x (.bsplit d) (s.setBeam (x.putS d (0x100 + 4))) :=
  goes_of_code h rfl (by simp only [hc, Nat.not_lt.mpr hw, hp, Bool.not_true, Bool.false_eq_true, if_false, if_true])

/-- No slot, or no beam number, is free. -/
theorem goes_bsplit_noSlot (hc : x.b.converged = true) (hw : 16 ≤ x.w) (hp : s.pending x.b = false)
    (hfull : s.freeSlots x.b.cohort x.core (quadOf x.b.key.slot) = [] ∨ 64 ≤ (s.liveBeams x.b.cohort).length) :
    Goes s x (.bsplit d) (s.setBeam (x.putS d (0x100 + 2))) := by
  refine goes_of_code h rfl ?_
  simp only [hc, Nat.not_lt.mpr hw, hp, Bool.not_true, Bool.false_eq_true, if_false]
  split
  · rfl
  · next slot hpick =>
    obtain hnone | hmany := hfull
    · rw [hnone] at hpick
      cases hpick
    · exact if_pos hmany

variable (hwait : x.entry.wait = none)
include hwait

theorem goes_bfuse_widest (hw : x.w = 64) : Goes s x (.bfuse d) (s.setBeam (x.putS d (0x100 + 8))) :=
  goes_of_code h rfl (by simp only [hwait, hw, Option.any_none, Bool.false_eq_true, if_false, beq_self_eq_true, if_true])

variable (hw : x.w ≠ 64)
include hw

theorem goes_bfuse_diverged (hc : x.b.converged = false) : Goes s x (.bfuse d) (s.setBeam (x.putS d (0x100 + 4))) :=
  goes_of_code h rfl (by
    simp only [hwait, hw, hc, Option.any_none, beq_iff_eq, Bool.false_eq_true, Bool.not_false, if_false, if_true])

variable (hc : x.b.converged = true)
include hc

theorem goes_bfuse_pending (hp : s.pending x.b = true) : Goes s x (.bfuse d) (s.setBeam (x.putS d (0x100 + 7))) :=
  goes_of_code h rfl (by
    simp only [hwait, hw, hc, hp, Option.any_none, beq_iff_eq, Bool.false_eq_true, Bool.not_true, if_false, if_true])

variable (hp : s.pending x.b = false)
include hp

theorem goes_bfuse_noBuddy {c : Nat} (hb : s.buddy x.b = .error c) :
    Goes s x (.bfuse d) (s.setBeam (x.putS d (0x100 + c))) :=
  goes_of_code h rfl (by
    simp only [hwait, hw, hc, hp, hb, Option.any_none, beq_iff_eq, Bool.false_eq_true, Bool.not_true, if_false])

variable {y : Beam} {c : Context} (hb : s.buddy x.b = .ok y) (hf : y.fusing = none) (hctx : s.contextOf x.b = some c)
  (hcarry : x.entry.carry = none)
include hb hf hctx hcarry

theorem goes_bfuse_noWindow (hwin : c.fusewin = 0) : Goes s x (.bfuse d) (s.setBeam (x.putS d (0x100 + 9))) :=
  goes_of_code h rfl (by
    simp only [hwait, hw, hc, hp, hb, hf, hctx, hcarry, hwin, Option.any_none, beq_iff_eq, Bool.false_eq_true, Bool.not_true,
      if_false, Option.map_none, Option.map_some, Option.getD_some, if_true])

theorem exec_bfuse_waits (hwin : c.fusewin ≠ 0) :
    exec (.bfuse d) s = .next (s.setBeam (x.b.setEntry x.e { x.entry with
      wait := some { kind := .bfuse, ins := .bfuse d, words := x.words, waited := 0, rem := some c.fusewin
                     woken := false, aux := 0 }
      carry := none })) :=
  exec_of_stay h rfl (by
    simp only [hwait, hw, hc, hp, hb, hf, hctx, hcarry, hwin, Option.any_none, beq_iff_eq, Bool.false_eq_true, Bool.not_true,
      if_false, Option.map_none, Option.map_some, Option.getD_some])

end

/-! ### The pair that meets and cannot fuse (R94) -/

theorem exec_fuseWindowExpiry {s : State} {k : BeamKey} {b : Beam} {e : Nat} {r : Reg} {w : Wait} (hb : s.beam? k = some b)
    (hf : b.fusing = some (e, r, w)) (hrem : w.rem = some 0) :
    exec (.fuseWindowExpiry k) s = .next (if s.stopped b e then s
      else s.setBeam ((b.putS (leadOf (b.entry e).mask) r.toNat 0x109).advance e ((b.entry e).pc + 4 * w.words))) := by
  show execFuseWindowExpiry k s = _
  simp only [execFuseWindowExpiry, hb, hf, hrem, beq_self_eq_true, Bool.true_and, Bool.not_eq_true', State.fuseEnds]
  cases s.stopped b e <;> rfl

section
variable (s : State) {pcs : Nat × Nat} {lower upper : Beam}

theorem State.pairFault_pcs (hpc : pcs.1 ≠ pcs.2) : s.pairFault pcs lower upper = some 3 := if_pos (by simpa using hpc)

theorem State.pairFault_shape (hpc : pcs.1 = pcs.2)
    (hshape : (lower.nv, lower.ns, lower.nc) ≠ (upper.nv, upper.ns, upper.nc) ∨ 0 < upper.na) :
    s.pairFault pcs lower upper = some 5 := by
  have hdiffer : (lower.nv != upper.nv || lower.ns != upper.ns || lower.nc != upper.nc || decide (upper.na > 0)) = true := by
    simp only [ne_eq, Prod.mk.injEq, not_and_or] at hshape
    simp only [Bool.or_eq_true, bne_iff_ne, decide_eq_true_eq, or_assoc]
    simpa only [or_assoc] using hshape
  simp only [State.pairFault, hpc, bne_self_eq_false, Bool.false_eq_true, if_false, if_pos hdiffer]

theorem State.pairFault_groups (hpc : pcs.1 = pcs.2) (hshape : (lower.nv, lower.ns, lower.nc) = (upper.nv, upper.ns, upper.nc))
    (hna : upper.na = 0) :
    s.pairFault pcs lower upper = if s.groupsOf lower = s.groupsOf upper then none else some 6 := by
  simp only [Prod.mk.injEq] at hshape
  obtain ⟨hnv, hns, hnc⟩ := hshape
  simp [State.pairFault, hpc, hnv, hns, hnc, hna, ite_not]

end

/-- The entry that waits in BFUSE is one of the split table. -/
theorem Beam.fusing_lt {b : Beam} {e : Nat} {d : Reg} {w : Wait} (hf : b.fusing = some (e, d, w)) : e < b.split.length := by
  unfold Beam.fusing at hf
  split at hf
  · cases hf
  · obtain ⟨i, hi, hfound⟩ := List.exists_of_findSome?_eq_some hf
    have hlt : i < b.split.length := List.mem_range.mp (List.mem_filter.mp hi).1
    split at hfound
    · split at hfound
      · split at hfound
        · cases hfound
          exact hlt
        · cases hfound
      · cases hfound
    · cases hfound

/-- A converged beam whose BFUSE has ended with a code. -/
def Beam.afterCode (b : Beam) (e next : Nat) (d : Reg) (code : Nat) : Beam :=
  { b with s := b.s.set d.toNat (BitVec.ofNat 64 code) }.advance e next

theorem Beam.sreg_afterCode {b : Beam} (ht : b.trap = none) {d : Reg} (hd : d.toNat < b.s.length) (e next code r : Nat) :
    (b.afterCode e next d code).sreg r = if r = d.toNat then BitVec.ofNat 64 code else b.sreg r := by
  refine Eq.trans ?_ (Beam.sreg_set ht hd (BitVec.ofNat 64 code) r)
  rw [Beam.sreg_untrapped (b := b.afterCode e next d code) ht,
    Beam.sreg_untrapped (b := { b with s := b.s.set d.toNat (BitVec.ofNat 64 code) }) ht]
  rfl

/-- The BFUSE of a converged beam that ends with a code goes on behind it. -/
theorem State.fuseEnds_converged {s : State} {k : BeamKey} {b : Beam} (hb : s.beam? k = some b) (hc : b.converged = true)
    (e next : Nat) (d : Reg) (code : Nat) :
    s.fuseEnds k e next d code =
      s.setBeam (b.afterCode e next d code) := by
  simp only [State.fuseEnds, hb, Beam.putS_converged hc, Beam.afterCode]

/-- Both beams of a pair that cannot fuse go on with the code. -/
theorem State.fusePair_fails {s : State} {x : Frag} {d yd : Reg} {y : Beam} {ye c : Nat} {yw : Wait}
    (hx : s.beam? x.b.key = some x.b) (hy : s.beam? y.key = some y) (hkey : y.key ≠ x.b.key) (hc : x.b.converged = true)
    (hyc : y.converged = true)
    (hfault : s.pairFault (x.pc, (y.entry ye).pc) (if x.b.coloff < y.coloff then x.b else y)
      (if x.b.coloff < y.coloff then y else x.b) = some c) :
    s.fusePair x d y ye yd yw = (s.setBeam (x.b.afterCode x.e x.next d (0x100 + c))).setBeam
      (y.afterCode ye ((y.entry ye).pc + 4 * yw.words) yd (0x100 + c)) := by
  have hstays : (s.setBeam (x.b.afterCode x.e x.next d (0x100 + c))).beam? y.key = some y := by
    rw [State.beam?_setBeam]
    exact (if_neg (Ne.symm hkey)).trans hy
  simp only [State.fusePair, hfault]
  rw [State.fuseEnds_converged hx hc, State.fuseEnds_converged hstays hyc]

/-- Settles O16: a halved beam is `lowerHalf` and `newHalf`, each code has its own equation, and a pair that cannot fuse is
`fusePair_fails`. -/
theorem splitHalvesAndWidthFailures : Obligations.SplitHalvesAndWidthFailures := by
  refine ⟨fun s x d k h hs hc hw hp hfree hroom _ he => ?halves, fun s x d h => ⟨goes_bsplit_diverged h, goes_bsplit_narrow h,
    goes_bsplit_pending h, goes_bsplit_noSlot h, goes_bfuse_widest h, goes_bfuse_diverged h, goes_bfuse_pending h,
    fun hwait hw hc hp => ?unmet,
    fun k b e r w => exec_fuseWindowExpiry, fun pcs lower upper => ⟨s.pairFault_pcs, s.pairFault_shape, s.pairFault_groups⟩,
    fun y ye yd yw c hw hc hp hb hy hf hs hys hyc hyd hfault => ?fails⟩⟩
  case halves =>
    have ht := Beam.trap_of_converged hc
    have hlive := Beam.half_live (b := x.b.advance x.e x.next) he hw ((Beam.shaped_iff _).mp hs).width
    obtain ⟨slot, hslot, hexec⟩ := exec_bsplit_halves h hc hw hp hfree hroom
    obtain ⟨id, hbeams, hmem⟩ := State.splitBeam_beams (s := s) (x := x) (d := d) (slot := slot)
      (by rw [Frag.lowerHalf_eq ht]; exact hlive false) (fun id => by rw [Frag.newHalf_eq ht]; exact hlive true)
    obtain ⟨hlower, hupper, hothers⟩ := State.splitBeam_beam? (State.frag_beam h.frag) (State.free_of_freeSlots hslot)
      (by rw [Frag.lowerHalf_eq ht]; rfl) (by rw [Frag.newHalf_eq ht]; rfl) hbeams
    have hsreg := Frag.sreg_halves (d := d) ht slot id (h.dst_lt rfl hs ht)
    obtain ⟨hpcl, hpcu⟩ := Frag.pc_halves (d := d) ht slot id (Frag.e_lt h.runs)
    refine ⟨slot, _, _, _, hslot, hexec, hmem, hlower, hupper, ?_, ?_, ?_, ?_, (hsreg _).1.trans (if_pos rfl),
      (hsreg _).2.trans (if_pos rfl), fun r hr => ?_, fun r i => Frag.vl_halves ht slot id r, hpcl, hpcu, hothers⟩
    · rw [Frag.lowerHalf_eq ht]; rfl
    · rw [Frag.newHalf_eq ht]; rfl
    · rw [Frag.lowerHalf_eq ht]; rfl
    · rw [Frag.newHalf_eq ht]; rfl
    · rw [(hsreg r).1, (hsreg r).2, if_neg hr, if_neg hr]
      exact ⟨rfl, rfl⟩
  case unmet =>
    refine ⟨fun c => goes_bfuse_noBuddy h hwait hw hc hp, fun y c hb hf hctx hcarry =>
      ⟨goes_bfuse_noWindow h hwait hw hc hp hb hf hctx hcarry, fun hwin =>
        ⟨_, rfl, rfl, rfl, exec_bfuse_waits h hwait hw hc hp hb hf hctx hcarry hwin⟩⟩⟩
  case fails =>
    obtain ⟨-, hkey, -⟩ := State.buddy_spec hb
    have ht := Beam.trap_of_converged hc
    have hx := State.frag_beam h.frag
    have hmeet := exec_bfuse_meets h hw hc hp hb hf
    rw [State.fusePair_fails hx hy hkey hc hyc hfault] at hmeet
    refine ⟨_, _, _, hmeet, rfl, ?_, ?_, Beam.sreg_afterCode ht (h.dst_lt rfl hs ht) _ _ _,
      Beam.sreg_afterCode (Beam.trap_of_converged hyc) (by rwa [((Beam.shaped_iff _).mp hys).s]) _ _ _, rfl, rfl,
      Beam.entry_advance_self (b := { x.b with s := _ }) (Frag.e_lt h.runs) _,
      Beam.entry_advance_self (b := { y with s := _ }) (Beam.fusing_lt hf) _⟩
    · rw [State.beam?_setBeam]
      exact (if_neg hkey).trans (State.beam?_setBeam_of_key hx rfl)
    · refine State.beam?_setBeam_of_key (y := y) ?_ rfl
      rw [State.beam?_setBeam]
      exact (if_neg (Ne.symm hkey)).trans hy

end Sys2Proof.Machine
end

section
/-! A cohort is saved, parked and restored (R97, R98, R324 to R328, R417, R418, R457): what each stage leaves of the cohort and of
the beams. -/

namespace Sys2Proof.Machine

/-! ### The debugger's STOP (R413, R417) -/

/-- The states differ in beams and the log alone. -/
def State.SameBesideStops (s t : State) : Prop := ∃ bs lg, t = { s with beams := bs, log := lg }

/-- A beam holds a cause. -/
def State.Pends (s : State) (k : BeamKey) : Prop := ∃ b, s.beam? k = some b ∧ b.pend.isSome = true

theorem Beam.pend_of_holdsCause {b : Beam} (h : b.holdsCause = true) : b.pend.isSome = true := by
  obtain ⟨p, hp, -⟩ := Option.any_eq_true _ _ |>.mp h
  rw [hp]
  rfl

section
variable (s : State) (n : Nat)

theorem State.sameBesideStops_holdStop (b : Beam) : s.SameBesideStops (s.holdStop n b) := by
  unfold State.holdStop
  split
  · exact ⟨_, _, rfl⟩
  · exact ⟨_, _, rfl⟩

theorem State.sameBesideStops_foldl (l : List Beam) :
    s.SameBesideStops (l.foldl (fun (s : State) b => s.holdStop n b) s) := by
  induction l generalizing s with
  | nil => exact ⟨s.beams, s.log, rfl⟩
  | cons b l ih =>
    obtain ⟨bs, lg, hb⟩ := s.sameBesideStops_holdStop n b
    obtain ⟨bs', lg', hl⟩ := ih (s.holdStop n b)
    exact ⟨bs', lg', by rw [List.foldl_cons, hl, hb]⟩

/-- A STOP leaves a place as it was or makes its beam hold a cause. -/
theorem State.beam?_holdStop (b : Beam) (k : BeamKey) :
    (s.holdStop n b).beam? k = s.beam? k ∨ (s.holdStop n b).Pends k := by
  unfold State.holdStop
  split
  · exact .inl rfl
  · by_cases hk : b.key = k
    · cases hs : s.beam? k with
      | none => exact .inl (by rw [State.beam?_setBeam, hs, Option.map_none, ite_self])
      | some y => exact .inr ⟨_, State.beam?_setBeam_of_key hs hk, rfl⟩
    · exact .inl (by rw [State.beam?_setBeam]; exact if_neg hk)

end

section
variable {s : State} {k : BeamKey} (n : Nat)

theorem State.Pends.holdStop (h : s.Pends k) (b : Beam) : (s.holdStop n b).Pends k := by
  obtain hsame | hpends := s.beam?_holdStop n b k
  · rwa [State.Pends, hsame]
  · exact hpends

/-- A beam that stands in its place holds a cause behind its STOP. -/
theorem State.pends_holdStop {b : Beam} (h : s.beam? b.key = some b ∨ s.Pends b.key) : (s.holdStop n b).Pends b.key := by
  obtain hb | hp := h
  · unfold State.holdStop
    split
    · next hc => exact ⟨b, hb, b.pend_of_holdsCause hc⟩
    · exact ⟨_, State.beam?_setBeam_of_key hb rfl, rfl⟩
  · exact hp.holdStop n b

theorem State.Pends.foldl (h : s.Pends k) (l : List Beam) : (l.foldl (fun (s : State) b => s.holdStop n b) s).Pends k := by
  induction l generalizing s with
  | nil => exact h
  | cons b l ih => exact ih (h.holdStop n b)

/-- Each beam that a list of STOPs names holds a cause behind them. -/
theorem State.pends_foldl {b : Beam} {l : List Beam} (hl : b ∈ l) (h : s.beam? b.key = some b ∨ s.Pends b.key) :
    (l.foldl (fun (s : State) b => s.holdStop n b) s).Pends b.key := by
  induction l generalizing s with
  | nil => cases hl
  | cons c l ih =>
    obtain rfl | hl := List.mem_cons.mp hl
    · exact (State.pends_holdStop n h).foldl n l
    · refine ih hl ?_
      obtain hsame | hpends := s.beam?_holdStop n c b.key
      · rwa [State.Pends, hsame]
      · exact .inr hpends

end

section
variable {s : State} {key : CohortKey} {y : Cohort} {k : Kernel} (hy : s.cohort? key = some y)
  (hk : s.kernel? key.kernel = some k)
include hy hk

/-- A cohort that is not to be saved stays. -/
theorem exec_evictionSave_not (h : y.stop = none ∨ y.st ≠ .resident ∨ s.drained y = false) :
    exec (.evictionSave key) s = .next s := by
  show execEvictionSave key s = _
  simp only [execEvictionSave, hy, hk]
  obtain h | h | h := h
  · simp only [h, ite_self]
  · exact if_pos (by simp [h])
  · exact if_pos (by simp [h])

variable (hst : y.st = .resident) (hd : s.drained y = true)
include hst hd

theorem exec_evictionSave_evict {at_ n : Nat} (hstop : y.stop = some .evict) (hsave : y.save = some (at_, n)) :
    exec (.evictionSave key) s = .next (s.park k y at_) := by
  show execEvictionSave key s = _
  have hgo : ¬ (y.st != .resident || !s.drained y) = true := by simp [hst, hd]
  simp only [execEvictionSave, hy, hk, if_neg hgo, hstop, hsave]

/-- A debugger stop: each live beam holds a cause, and the cohort stops for nothing else (R417). -/
theorem exec_evictionSave_debug {n : Nat} {f : From} (hstop : y.stop = some (.debug n f)) :
    ∃ t, exec (.evictionSave key) s = .next t ∧
      t.cohort? key = some { y with stop := if s.evictNext key then some .evict else none } ∧
      ∀ b, s.beam? b.key = some b → b.cohort = key → b.live ≠ 0 → b.glint = none →
        ∃ b', t.beam? b.key = some b' ∧ b'.pend.isSome = true := by
  have hgo : ¬ (y.st != .resident || !s.drained y) = true := by simp [hst, hd]
  let held := (s.liveBeams key).foldl (fun (s : State) b => s.holdStop n b) s
  have hwork := held.sameWork_respond f 0 (mgmtBody 0)
  obtain ⟨bs, lg, hheld⟩ : s.SameBesideStops held := s.sameBesideStops_foldl n _
  obtain ⟨fl, ps, out, un, hans⟩ := held.respond_only f 0 (mgmtBody 0)
  have hexec : exec (.evictionSave key) s = .next ((held.respond f 0 (mgmtBody 0)).setCohort
      { y with stop := if (held.respond f 0 (mgmtBody 0)).evictNext key then some .evict else none }) := by
    show execEvictionSave key s = _
    simp only [execEvictionSave, hy, hk, if_neg hgo, hstop]
    rfl
  have hnext : (held.respond f 0 (mgmtBody 0)).evictNext key = s.evictNext key := by
    rw [hans, hheld]
    rfl
  have hcohort : (held.respond f 0 (mgmtBody 0)).cohort? key = some y := by
    rw [hwork.cohort?, hheld]
    exact hy
  rw [hnext] at hexec
  refine ⟨_, hexec, ?_, fun b hb hc hl hg => ?_⟩
  · rw [State.cohort?_setCohort, hcohort]
    exact if_pos (State.cohort?_key hy)
  · have hlive : b ∈ s.liveBeams key := by
      have hmem : b ∈ s.beams := List.mem_of_find?_eq_some hb
      simpa [State.liveBeams, hmem, hc, hg] using hl
    obtain ⟨b', hb', hp⟩ := State.pends_foldl n hlive (.inl hb)
    exact ⟨b', (hwork.beam? b.key).trans hb', hp⟩

end

/-! ### The window of a resident cohort (R365, R373) -/

/-- The states have the same beams, memory and clock, and the cohort `c` may hold another window. -/
structure State.SameBesideWindow (s : State) (c : Cohort) (t : State) : Prop where
  beams  : t.beams = s.beams
  mem    : t.mem = s.mem
  clock  : t.clock = s.clock
  cohort : ∃ w, t.cohort? c.key = some { c with win := w }

/-- A barrier of a resident cohort stands in its window. -/
theorem State.SameBesideWindow.putBar {s t : State} {c : Cohort} (h : s.SameBesideWindow c t) (hst : c.st = .resident)
    (off : Nat) (b : Bar) : s.SameBesideWindow c (t.putBar c.key off b) := by
  obtain ⟨w, hw⟩ := h.cohort
  have hput : t.putBar c.key off b = t.setCohort (({ c with win := w } : Cohort).put off b.bytes) := by
    have hno : t.parkedWindow { c with win := w } = none := by simp only [State.parkedWindow, hst]
    simp only [State.putBar, State.winPut, hw, hno]
  rw [hput]
  refine ⟨h.beams, h.mem, h.clock, (({ c with win := w } : Cohort).put off b.bytes).win, ?_⟩
  rw [State.cohort?_setCohort, hw]
  exact if_pos rfl

theorem State.SameBesideWindow.foldl {α : Type} {s t : State} {c : Cohort} {f : State → α → State}
    (hf : ∀ (t : State) (a : α), s.SameBesideWindow c t → s.SameBesideWindow c (f t a)) (l : List α)
    (h : s.SameBesideWindow c t) : s.SameBesideWindow c (l.foldl f t) := by
  induction l generalizing t with
  | nil => exact h
  | cons a l ih => exact ih (hf t a h)

theorem State.sameBesideWindow_saveOrphans {s : State} {c : Cohort} (hc : s.cohort? c.key = some c)
    (hst : c.st = .resident) : s.SameBesideWindow c (s.saveOrphans c) := by
  have hwork (g : Core → Core) := s.sameWork_modCore c.core g
  refine .foldl (fun t o ht => ?_) _ ⟨(hwork _).beams, s.modCore_mem .., (hwork _).clock, c.win, ?_⟩
  · show s.SameBesideWindow c (if _ then _ else _)
    split
    · exact ht.putBar hst ..
    · exact ht
  · rw [(hwork _).cohort?, hc]

/-! ### Saving and parking (R97, R324 to R328) -/

theorem State.SameWork.writeBytes {s t : State} (h : s.SameWork t) (pa : Nat) (bs : List Byte) :
    s.SameWork (t.writeBytes none false pa bs) := h.trans (t.sameWork_writeBytes none false pa bs)

theorem State.SameWork.again {α : Type} {s t : State} (h : s.SameWork t) {f : State → α → State}
    (hf : ∀ (s : State) (a : α), s.SameWork (f s a)) (l : List α) : s.SameWork (l.foldl f t) := h.trans (.foldl hf l t)

theorem State.sameWork_saveBeam (s : State) (at_ : Nat) (l : Launch) (k : SavedBeam) (t : Nat) (b : Beam) :
    s.SameWork (s.saveBeam at_ l k t b) := by
  unfold State.saveBeam
  extract_lets area s1 s2 s3 s4
  have h3 : s.SameWork s3 := (((State.SameWork.refl s).writeBytes _ _).writeBytes _ _).writeBytes _ _
  have h4 : s.SameWork s4 := h3.again (fun s p => (State.SameWork.refl s).writeBytes _ _) _
  exact h4.again (fun s p => (State.SameWork.refl s).writeBytes _ _) _

theorem State.sameWork_saveRecord (s : State) (k : Kernel) (c : Cohort) (at_ : Nat) (bs : List Beam) :
    s.SameWork (s.saveRecord k c at_ bs) := by
  unfold State.saveRecord
  extract_lets l s1 view s2 s3 s4 s5
  have h3 : s.SameWork s3 := (((State.SameWork.refl s).writeBytes _ _).writeBytes _ _).writeBytes _ _
  have h4 : s.SameWork s4 := h3.again (fun s p => s.sameWork_saveBeam ..) _
  exact (h4.writeBytes _ _).writeBytes _ _

/-- A cohort on which a debugger waits answers it before it is saved (R417). -/
def State.debugAnswered (s : State) (c : Cohort) : State :=
  match c.dbg with
  | some d =>
    ((s.beams.filter fun b => b.cohort == c.key && b.live != 0).foldl (fun (s : State) b => s.holdStop d.1 b) s).respond d.2 0
      (mgmtBody 0)
  | none => s

theorem State.debugAnswered_cohorts (s : State) (c : Cohort) :
    (s.debugAnswered c).cohorts = s.cohorts ∧ (s.debugAnswered c).clock = s.clock := by
  unfold State.debugAnswered
  split
  · next d _ =>
    obtain ⟨bs, lg, hheld⟩ := s.sameBesideStops_foldl d.1 (s.beams.filter fun b => b.cohort == c.key && b.live != 0)
    rw [hheld]
    have hwork := State.sameWork_respond { s with beams := bs, log := lg } d.2 0 (mgmtBody 0)
    exact ⟨hwork.cohorts, hwork.clock⟩
  · exact ⟨rfl, rfl⟩

/-- In `t` the cohort `y` of `s` is parked with its save place, and has no beam; the other beams are those of `s` once it has
answered a debugger. -/
structure State.Parked (s : State) (y : Cohort) (t : State) : Prop where
  cohort : ∃ c, t.cohort? y.key = some c ∧ c.st = .parked ∧ c.stop = none ∧ c.save = y.save ∧ c.parked = s.clock
  beams  : t.beams = (s.debugAnswered y).beams.filter fun b => b.cohort != y.key

theorem State.Parked.of_sameWork {s t u : State} {y : Cohort} (h : s.Parked y t) (hw : t.SameWork u) : s.Parked y u :=
  ⟨by rw [hw.cohort?]; exact h.cohort, hw.beams.trans h.beams⟩

/-- A resident cohort that is saved is parked, and its beams are gone. -/
theorem State.park_parks {s : State} {y : Cohort} (hy : s.cohort? y.key = some y) (hst : y.st = .resident) (k : Kernel)
    (at_ : Nat) : s.Parked y (s.park k y at_) := by
  unfold State.park
  extract_lets held u bs saved v
  have hu : u = s.debugAnswered y := by
    simp only [u, held, State.debugAnswered]
    cases y.dbg <;> rfl
  obtain ⟨hcohorts, hclock⟩ := s.debugAnswered_cohorts y
  have hv : (s.debugAnswered y).SameBesideWindow y v :=
    hu ▸ State.sameBesideWindow_saveOrphans (by rw [hu, State.cohort?, hcohorts]; exact hy) hst
  obtain ⟨w, hw⟩ := hv.cohort
  split
  · next hnone =>
    rw [hw] at hnone
    cases hnone
  · next c hc =>
    obtain rfl := Option.some.inj (hw.symm.trans hc)
    extract_lets r c src t t'
    have hrecord : v.SameWork r := v.sameWork_saveRecord ..
    have ht : t.cohort? y.key = some c := by
      show (r.setCohort c).cohort? y.key = _
      rw [State.cohort?_setCohort, hrecord.cohort?, hw]
      exact if_pos rfl
    have hbeams : t.beams = (s.debugAnswered y).beams.filter fun b => b.cohort != y.key :=
      congrArg (List.filter _) (hrecord.beams.trans hv.beams)
    have hsaved : c.parked = s.clock := hrecord.clock.trans (hv.clock.trans hclock)
    have hparked : s.Parked y t' := by
      unfold t'
      split
      · refine ⟨⟨{ c with woken := some t.clock }, ?_, rfl, rfl, rfl, hsaved⟩, hbeams⟩
        rw [State.cohort?_setCohort, ht]
        exact if_pos rfl
      · exact ⟨⟨c, ht, rfl, rfl, rfl, hsaved⟩, hbeams⟩
    exact hparked.of_sameWork ((t'.sameWork_cohortsGone _).trans (State.sameWork_settleContext _ _))

/-! ### Coming back (R98, R418, R457) -/

section
variable {s : State} {key : CohortKey} {y : Cohort} (hy : s.cohort? key = some y) (hst : y.st = .parked)
include hy hst

theorem exec_wakeRecheck : exec (.wakeRecheck key) s =
    .next (s.setCohort { y with woken := if s.wakeMet y then some (y.woken.getD s.clock) else none }) := by
  have hpark : ¬ (y.st != .parked) = true := by simp [hst]
  show execWakeRecheck key s = _
  simp only [execWakeRecheck, hy, if_neg hpark]
  cases y.woken <;> rfl

/-- A restore that the partition's turn names loads the record. -/
theorem exec_cohortRestore {k : Kernel} (hk : s.kernel? key.kernel = some k) {p : Partition} {c : Context} {at_ n : Nat}
    {sp : Spot} (hhome : s.home k = some (p, c)) (hsave : y.save = some (at_, n)) (hwoken : y.woken.isSome = true)
    (hopen : c.st = .open_) (hspot : s.parkedSpot y k = some sp)
    (hturn : s.cohortWork p = some (.cohortRestore key sp.core)) :
    exec (.cohortRestore key sp.core) s = .next (s.restoreAt k y at_ sp) := by
  have hgo : ¬ (y.st != .parked || y.woken.isNone || c.st != .open_) = true := by
    simp [hst, hopen, Option.isNone_eq_false_iff.mpr hwoken]
  have hnow : (s.cohortWork p == some (.cohortRestore key sp.core) && sp.core == sp.core) = true := by simp [hturn]
  show execCohortRestore key sp.core s = _
  simp only [execCohortRestore, hy, hk, hhome, hsave, if_neg hgo, hspot, if_pos hnow]

end

/-- In `t` the cohort `y` of `s` is resident on a core with the beams `bs`, and memory is as before. -/
structure State.Restored (s : State) (y : Cohort) (core : Nat) (bs : List Beam) (t : State) : Prop where
  mem    : t.mem = s.mem
  beams  : t.beams = s.beams ++ bs
  cohort : ∃ c, t.cohort? y.key = some c ∧ c.st = .resident ∧ c.core = core ∧ c.placed = s.clock

section
variable {s : State} {y : Cohort} (k : Kernel) (at_ : Nat) (sp : Spot)

theorem State.restoreAt_invalid (hbs : s.readBeams k y at_ (fun j => ⟨sp.core, sp.slots.getD j noSlot⟩) = none) :
    s.restoreAt k y at_ sp = s.kernelFault k.id (some 2) := by
  simp only [State.restoreAt, hbs]

/-- A cohort whose record gives its beams comes back with them. -/
theorem State.restoreAt_restores (hy : s.cohort? y.key = some y) {bs : List Beam}
    (hbs : s.readBeams k y at_ (fun j => ⟨sp.core, sp.slots.getD j noSlot⟩) = some bs) :
    s.Restored y sp.core bs (s.restoreAt k y at_ sp) := by
  unfold State.restoreAt
  extract_lets old l u win tags maps wp bias
  split
  · next hnone =>
    rw [hbs] at hnone
    cases hnone
  · next bs' hsome =>
    obtain rfl := Option.some.inj (hbs.symm.trans hsome)
    extract_lets c src t
    have hu : s.SameWork u := s.sameWork_modCore ..
    have ht : t.cohort? c.key = some c := by
      show (u.setCohort c).cohort? y.key = _
      rw [State.cohort?_setCohort, hu.cohort?, hy]
      exact if_pos rfl
    have hbars : t.SameBesideWindow c
        (tags.foldl (fun (s : State) g => s.putBar c.key (32 * g) ((s.bar c.key (32 * g)).moved old sp.core)) t) :=
      .foldl (fun v g hv => hv.putBar rfl ..) _ ⟨rfl, rfl, rfl, c.win, ht⟩
    obtain ⟨w, hw⟩ := hbars.cohort
    exact ⟨hbars.mem.trans (s.modCore_mem ..), hbars.beams.trans (congrArg (· ++ bs) hu.beams),
      _, hw, rfl, rfl, hu.clock⟩

end

/-- Settles O45: a saved cohort is `Parked`, a restored one is `Restored`, and a debugger stop leaves each live beam a cause. -/
theorem saveAndRestore : Obligations.SaveAndRestore := by
  intro s key y k hy hk
  obtain rfl := State.cohort?_key hy
  refine ⟨fun hst hd => ⟨fun at_ n hstop hsave => ?saved, fun n f hstop => exec_evictionSave_debug hy hk hst hd hstop⟩,
    exec_evictionSave_not hy hk, fun hst => ⟨_, exec_wakeRecheck hy hst, rfl, ?rechecked⟩,
    fun p c at_ n sp hhome hsave hst hwoken hopen hspot hturn => ?restored⟩
  case saved =>
    have hparked := State.park_parks hy hst k at_
    obtain ⟨c, hc, hpark, hstop', hsave', hclock⟩ := hparked.cohort
    refine ⟨_, c, exec_evictionSave_evict hy hk hst hd hstop hsave, hc, hpark, hstop', hsave', hclock, ?_, ?_⟩
    · intro b hb
      rw [hparked.beams] at hb
      simpa using (List.mem_filter.mp hb).2
    · intro hdbg b hb
      rw [hparked.beams, List.mem_filter]
      simp [State.debugAnswered, hdbg, hb]
  case rechecked =>
    rw [State.cohort?_setCohort, hy]
    exact if_pos rfl
  case restored =>
    have hexec := exec_cohortRestore hy hst hk hhome hsave hwoken hopen hspot hturn
    refine ⟨fun hbs => hexec.trans (congrArg _ (State.restoreAt_invalid k at_ sp hbs)), fun bs hbs => ?_⟩
    have hrestored := State.restoreAt_restores k at_ sp hy hbs
    obtain ⟨c', hc'⟩ := hrestored.cohort
    exact ⟨_, c', hexec, hrestored.mem, hrestored.beams, hc'⟩

end Sys2Proof.Machine
end

section
/-! Decoding what the encoder writes, for every instruction, and words of the manual (R104 to R117, R123, R125). -/

namespace Sys2Proof.Laws.RoundTrip

/-- Every instruction has its round trip: the cases are the rows of the opcode table, in its order. -/
theorem roundTrip (i : Instr) : Statement i :=
  Instr.casesOn i
    -- control, beam, group and scalar side (chapter 07)
    hdr bra brs brv jmpi call ret exit nop yield brk trap eret bdec delay chunk bsplit bfuse gjoin gleave gnew gets
    sets launch smov smovi sadd ssub smul smad sand sor sxor sshl sshr ssar smin smax scmp ssel slea sbfe spopc
    sclz klog stov vtos sfill
    -- vector arithmetic, truth and cross-lane (chapter 08)
    iadd isub imul imad imulh imin imax iabs ineg and or xor not shl shr sar bfe bfi popc clz icmp lea idot4 mov
    fadd fsub fmul ffma fmin fmax fcmp frcp frsq fsqrt fexp2 flog2 fsin fcos ftanh fclass fdot2 pfma padd fscale
    cvt pack unpk pres fill mkab tsel tlog tval frnd shfl prm vote ballot red scan laneMatch elect
    -- memory, atomics, messages and fences (chapter 09)
    ld st lds sts ldu stu lda stl atom atoms atomu fence waitv cflush cinv pref tlook tins tdel msend mpoll mwait
    mpop
    -- engines (chapter 10)
    cpy cpyResume cpycsr gread greadResume gdone binit barv bexp bwait binv btest cnd mma mmas mclr mlda msta coll
    chwait mapld
    -- trace, trap and system instructions (chapters 12, 17, 20)
    tmark sample tlbinv ctxsv ctxld pgset fwcall clock
    -- completions inside a core
    registerFill mmaComplete walkComplete copyBurst copyComplete engineFault glintBirth cpycsrComplete cndComplete
    collComplete fuseWindowExpiry delayExpiry waitvWake waitvTimeout mwaitWake mwaitTimeout fwcallAnswer
    fwcallTimeout agingPromotion throttleRotation
    -- the scheduler
    timeSliceExpiry cohortPlace cohortRestore exchange wakeRecheck evictionSave cohortRetire launchCmd copyCmd
    copyCmdComplete wait waitRecheck signal timestamp preempt fenceCmd contextFault migrationWaitExpiry
    -- the fabric
    memwr memrd queueAppend ringAppend collMessage reply notifyResend fabricTimeout flitReceive pathFailure
    linkRetrain trainingComplete laneLockLoss portFence portUnfence dcdCapacityAdd dcdRelease
    -- Periscope and the Spectrograph
    psctlWrite psrpWrite spctlWrite sprpWrite sgctlWrite sgWrite sgstatW1c registerPageWrite samplePeriod
    -- the board, the boot and the power plane
    i3cAccess pwrgood resetNAssert resetNRelease thermtrip supplyTrip cxlWriteAcknowledgement congestionLevelChange
    sliceIssueSlotCount diaphragmWrite powerClockSetting faultNAssertionEnd boundaryScanAccess unknownRequestCode
    discardedMessage
    -- management requests of the host
    create stop resume destroy query dbgstop qcreate qstop qresume qreset qdestroy tlbflush lgcreate lgdestroy
    domain getVersion getCapabilities negotiateAlgorithms getDigests getCertificate challenge getMeasurements

/-- Settles O57: each instruction by its own round trip. -/
theorem decodeOfEncode : Obligations.DecodeOfEncode := fun i => roundTrip i

/-- Settles O56: every word by running the decoder on it. -/
theorem decodeWords : Obligations.DecodeWords := by
  unfold Obligations.DecodeWords
  decide

end Sys2Proof.Laws.RoundTrip
end

section
/-! FENCE, CFLUSH, CINV and PREF (R225, R226, R235, R238 to R241): what an acquire takes, what a write-back waits for, and
which lines the caches drop and take. -/

namespace Sys2Proof.Machine

/-! ### FENCE (R235) -/

@[simp] theorem State.acquire_false (s : State) (x : Frag) (sc : Scope) : s.acquire x false sc = s := rfl

@[simp] theorem State.acquire_beam (s : State) (x : Frag) (acq : Bool) : s.acquire x acq .beam = s := by
  cases acq <;> rfl

theorem State.acquire_core (s : State) (x : Frag) : s.acquire x true .core = s.catchUp x.b.key := rfl

/-- A wide acquire takes what copies have delivered, and empties the L1. -/
theorem State.acquire_wide (s : State) (x : Frag) {sc : Scope} (h : Scope.wide sc = true) :
    s.acquire x true sc = (s.catchUp x.b.key).modCore x.core fun c => c.dropLines fun _ => true := by
  cases sc with
  | beam | cohort | core => cases h
  | die | dev | sys => rfl

/-- The wait in which a FENCE stays that is not performed, and a CFLUSH whose lines are on their way. -/
def Frag.flushWait (x : Frag) (i : Instr) : Wait :=
  { kind := .cflush, ins := i, words := x.words, waited := 0, rem := none, woken := false, aux := 0 }

section
variable {s : State} {x : Frag} {o : FOrd} {sc : Scope} (h : Clear s x { priv := false, noGlint := false, uses := [] })
include h

theorem fence_goes (hperf : o = .acq ∨ s.unperformed x sc = false) :
    Goes s x (.fence o sc) (s.acquire x (o != .rel && sc != .cohort) sc) := by
  refine goes_of_keepsPlaces h rfl (if_neg ?_) (s.acquire_keepsPlaces x _ sc)
  obtain rfl | hperf := hperf
  · exact Bool.false_ne_true
  · simp [hperf]

theorem fence_waits (hrel : o ≠ .acq) (hun : s.unperformed x sc = true) :
    exec (.fence o sc) s =
      .next (s.setBeam (x.b.setEntry x.e { x.entry with wait := some (x.flushWait (.fence o sc)) })) := by
  refine exec_of_stay h rfl ((if_pos (by simp [hrel, hun])).trans ?_)
  rw [State.frag_beam h.frag]
  rfl

/-- FENCE, by its order and its scope. -/
theorem fence_completes (hperf : o = .acq ∨ s.unperformed x sc = false) :
    (o = .rel ∨ sc = .beam ∨ sc = .cohort → Goes s x (.fence o sc) s) ∧
    (o ≠ .rel → sc = .core → Goes s x (.fence o sc) (s.catchUp x.b.key)) ∧
    (o ≠ .rel → Scope.wide sc = true →
      Goes s x (.fence o sc) ((s.catchUp x.b.key).modCore x.core fun c => c.dropLines fun _ => true)) := by
  have hgoes := fence_goes h hperf
  refine ⟨?_, fun hacq hsc => ?_, fun hacq hwide => ?_⟩
  · rintro (rfl | rfl | rfl)
    · exact hgoes
    · rwa [State.acquire_beam] at hgoes
    · rwa [bne_self_eq_false, Bool.and_false, State.acquire_false] at hgoes
  · subst hsc
    rwa [bne_iff_ne.mpr hacq, Bool.true_and] at hgoes
  · have hcohort : sc ≠ .cohort := by
      rintro rfl
      cases hwide
    rwa [bne_iff_ne.mpr hacq, bne_iff_ne.mpr hcohort, Bool.and_true, State.acquire_wide s x hwide] at hgoes

end

/-! ### CFLUSH (R239) -/

/-- Writing lines back changes which writes are on their way to far memory, and which lines. -/
theorem State.flush_only (s : State) (who : Writer) (ls : List Nat) :
    ∃ ps, s.flush who ls =
      { s with posted := ps, flushing := s.flushing ++ ls.filter fun l => !s.flushing.contains l } := by
  unfold State.flush
  generalize s.flushing ++ ls.filter (fun l => !s.flushing.contains l) = fl
  induction ls generalizing s with
  | nil => exact ⟨s.posted, rfl⟩
  | cons l ls ih => exact ih (s.post who true l)

theorem State.mem_flush_flushing (s : State) (who : Writer) {ls : List Nat} {l : Nat} (hl : l ∈ ls) :
    l ∈ (s.flush who ls).flushing := by
  obtain ⟨ps, hflush⟩ := s.flush_only who ls
  rw [hflush, List.mem_append, List.mem_filter]
  by_cases hin : l ∈ s.flushing
  · exact .inl hin
  · exact .inr ⟨hl, by simpa using hin⟩

theorem State.sleep_eq {s : State} {x : Frag} (hb : s.beam? x.b.key = some x.b) (w : Wait) :
    s.sleep x w = s.setBeam (x.b.setEntry x.e { x.entry with wait := some w, carry := none }) := by
  rw [State.sleep, hb]
  rfl

section
variable {s : State} {x : Frag} {sc : Scope} {m : MemArg}
  (h : Clear s x { priv := false, noGlint := false, uses := MemArg.cacheUses m })
include h

theorem cflush_below_sys (hsc : sc ≠ .sys) : Goes s x (.cflush sc m) s :=
  goes_of_keepsPlaces h rfl (if_pos (bne_iff_ne.mpr hsc)) (.refl s)

/-- A CFLUSH that waits goes on when no line that it names is on its way. -/
theorem cflush_waiting (hw : x.entry.wait.isSome = true) :
    ((∀ l ∈ s.dirtyLines x m, l ∉ s.flushing) → Goes s x (.cflush .sys m) s) ∧
    ((∃ l ∈ s.dirtyLines x m, l ∈ s.flushing) → exec (.cflush .sys m) s = .next s) := by
  obtain ⟨w, hw⟩ := Option.isSome_iff_exists.mp hw
  have hany : (s.dirtyLines x m).any s.flushing.contains = true ↔ ∃ l ∈ s.dirtyLines x m, l ∈ s.flushing := by simp
  refine ⟨fun hnone => goes_of_keepsPlaces h rfl (u := s) ?_ (.refl s), fun hsome => exec_of_stay h rfl (u := s) ?_⟩
  · simp only [hw, bne_self_eq_false, Bool.false_eq_true, if_false]
    exact if_neg fun hin => have ⟨l, hl, hfl⟩ := hany.mp hin; hnone l hl hfl
  · simp only [hw, bne_self_eq_false, Bool.false_eq_true, if_false]
    exact if_pos (hany.mpr hsome)

variable (hw : x.entry.wait = none)
include hw

theorem cflush_clean (hls : s.dirtyLines x m = []) : Goes s x (.cflush .sys m) s := by
  refine goes_of_keepsPlaces h rfl ?_ (.refl s)
  simp only [hw, hls, bne_self_eq_false, Bool.false_eq_true, if_false, List.isEmpty_nil, if_true]

theorem cflush_dirty (hls : s.dirtyLines x m ≠ []) :
    exec (.cflush .sys m) s =
      .next ((s.flush (.beam x.b.key) (s.dirtyLines x m)).sleep x (x.flushWait (.cflush .sys m))) := by
  refine exec_of_stay h rfl ?_
  simp only [hw, bne_self_eq_false, Bool.false_eq_true, if_false]
  exact if_neg (by rwa [List.isEmpty_iff])

/-- A CFLUSH with lines to write back sends them, and its fragment waits. -/
theorem cflush_sends (hls : s.dirtyLines x m ≠ []) :
    ∃ t w, exec (.cflush .sys m) s = .next t ∧ w.kind = .cflush ∧ t.mem = s.mem ∧
      (∀ l ∈ s.dirtyLines x m, l ∈ t.flushing) ∧
      t.beam? x.b.key = some (x.b.setEntry x.e { x.entry with wait := some w, carry := none }) := by
  have hmem (l : Nat) (hl : l ∈ s.dirtyLines x m) := s.mem_flush_flushing (.beam x.b.key) hl
  have hexec := cflush_dirty h hw hls
  obtain ⟨ps, hflush⟩ := s.flush_only (.beam x.b.key) (s.dirtyLines x m)
  have hb : (s.flush (.beam x.b.key) (s.dirtyLines x m)).beam? x.b.key = some x.b := by
    rw [hflush]
    exact State.frag_beam h.frag
  rw [State.sleep_eq hb] at hexec
  exact ⟨_, _, hexec, rfl, by rw [State.setBeam_mem, hflush], hmem, State.beam?_setBeam_of_key hb rfl⟩

end

/-! ### CINV (R240) -/

/-- The lines that a CINV drops: those that it names, or every one. -/
def State.cinvDrops (s : State) (x : Frag) (m : MemArg) (l : Nat) : Bool :=
  match m with
  | .all => true
  | _ => ((s.named x m).map fun p => lineOf p.1).contains l

theorem State.cinvDrops_named {s : State} {x : Frag} {m : MemArg} {p : Nat × Nat} (hp : p ∈ s.named x m) :
    s.cinvDrops x m (lineOf p.1) = true := by
  unfold State.cinvDrops
  split
  · rfl
  · exact List.contains_iff_mem.mpr (List.mem_map_of_mem hp)

/-- The core without the lines in its L1 and its instruction cache, and without their older words. -/
def Core.invalidate (c : Core) (drop : Nat → Bool) : Core := (c.dropLines drop).dropFetch drop

section
variable {c : Core} {drop : Nat → Bool}

theorem Core.mem_invalidate_l1 {l : Nat} : l ∈ (c.invalidate drop).l1 ↔ l ∈ c.l1 ∧ drop l = false := by
  simp [Core.invalidate, Core.dropFetch, Core.dropLines]

theorem Core.mem_invalidate_icache {l : Nat} : l ∈ (c.invalidate drop).icache ↔ l ∈ c.icache ∧ drop l = false := by
  simp [Core.invalidate, Core.dropFetch, Core.dropLines]

theorem Core.mem_invalidate_iold {w : Nat × Word} :
    w ∈ (c.invalidate drop).iold ↔ w ∈ c.iold ∧ drop (lineOf w.1) = false := by
  simp [Core.invalidate, Core.dropFetch, Core.dropLines]

/-- Of a line that is dropped nothing is left. -/
theorem Core.invalidate_drops {l : Nat} (hl : drop l = true) :
    l ∉ (c.invalidate drop).l1 ∧ l ∉ (c.invalidate drop).icache ∧ ∀ w ∈ (c.invalidate drop).iold, lineOf w.1 ≠ l := by
  have hnot : ¬ drop l = false := by simp [hl]
  refine ⟨fun h => hnot (Core.mem_invalidate_l1.mp h).2, fun h => hnot (Core.mem_invalidate_icache.mp h).2, ?_⟩
  rintro w hmem rfl
  exact hnot (Core.mem_invalidate_iold.mp hmem).2

theorem Core.invalidate_all (h : ∀ l, drop l = true) :
    (c.invalidate drop).l1 = [] ∧ (c.invalidate drop).icache = [] ∧ (c.invalidate drop).iold = [] := by
  simp [Core.invalidate, Core.dropFetch, Core.dropLines, h]

end

/-- The cores of a die are listed for a CINV of that scope (R109). -/
def State.listDie (s : State) (x : Frag) (sc : Scope) : State :=
  if sc == .die && !s.stored.isEmpty then
    (List.range 64).foldl (fun (s : State) k => s.modCore (64 * dieOf x.core + k) fun c => c) s
  else s

theorem State.listDie_sameBesideMemory (s : State) (x : Frag) (sc : Scope) : s.SameBesideMemory (s.listDie x sc) :=
  .ite (.foldl (fun s _ => s.sameBesideMemory_modCore ..) _ s) (.refl s)

theorem State.listDie_mem (s : State) (x : Frag) (sc : Scope) : (s.listDie x sc).mem = s.mem := by
  unfold State.listDie
  split
  · exact List.foldlRecOn (motive := fun t : State => t.mem = s.mem) _ _ rfl
      fun t ht k _ => (t.modCore_mem ..).trans ht
  · rfl

/-- Listing a core leaves the records of those that were listed. -/
theorem State.mem_modCore_same {s : State} {c : Core} (hc : c ∈ s.cores) (k : Nat) :
    c ∈ (s.modCore k fun c => c).cores := by
  unfold State.modCore
  split
  · simpa using hc
  · split
    · exact List.mem_append_left _ hc
    · exact hc

theorem State.mem_listDie {s : State} {c : Core} (hc : c ∈ s.cores) (x : Frag) (sc : Scope) :
    c ∈ (s.listDie x sc).cores := by
  unfold State.listDie
  split
  · exact List.foldlRecOn (motive := fun t : State => c ∈ t.cores) _ _ hc fun t ht k _ => State.mem_modCore_same ht _
  · exact hc

section
variable {s : State} {x : Frag} {sc : Scope} {m : MemArg}
  (h : Clear s x { priv := false, noGlint := false, uses := MemArg.cacheUses m })
include h

/-- A CINV changes no memory and no beam, and invalidates the lines in the cores of its scope. -/
theorem cinv_goes : ∃ u, Goes s x (.cinv sc m) u ∧ u.mem = s.mem ∧ u.beams = s.beams ∧
    u.cores = (s.listDie x sc).cores.map fun c =>
      if Scope.covers sc x.core c.id then c.invalidate (s.cinvDrops x m) else c := by
  have hbeams := (s.listDie_sameBesideMemory x sc).beams
  refine ⟨_, goes_of_keepsPlaces h rfl rfl (.of_beams ?keeps), ?mem, ?beams, rfl⟩
  case mem => exact s.listDie_mem x sc
  all_goals exact hbeams

theorem cinv_completes : ∃ u, Goes s x (.cinv sc m) u ∧ u.mem = s.mem ∧ u.beams = s.beams ∧
    (∀ c ∈ s.cores, Scope.covers sc x.core c.id = true → ∃ c' ∈ u.cores, c'.id = c.id ∧
      (∀ p ∈ s.named x m, lineOf p.1 ∉ c'.l1 ∧ lineOf p.1 ∉ c'.icache ∧ ∀ w ∈ c'.iold, lineOf w.1 ≠ lineOf p.1) ∧
      (m = .all → c'.l1 = [] ∧ c'.icache = [] ∧ c'.iold = [])) ∧
    (∀ c ∈ s.cores, Scope.covers sc x.core c.id = false → c ∈ u.cores) := by
  obtain ⟨u, hgoes, hmem, hbeams, hcores⟩ := cinv_goes (sc := sc) h
  refine ⟨u, hgoes, hmem, hbeams, fun c hc hcov => ?_, fun c hc hcov => ?_⟩
  · refine ⟨c.invalidate (s.cinvDrops x m), ?_, rfl, fun p hp => Core.invalidate_drops (State.cinvDrops_named hp), ?_⟩
    · rw [hcores]
      exact List.mem_map.mpr ⟨c, State.mem_listDie hc x sc, if_pos hcov⟩
    · rintro rfl
      exact Core.invalidate_all fun _ => rfl
  · rw [hcores]
    exact List.mem_map.mpr ⟨c, State.mem_listDie hc x sc, if_neg (ne_true_of_eq_false hcov)⟩

end

/-! ### PREF (R241) -/

theorem State.mem_of_mem_keepMost {α : Type} {s : State} {n : Nat} {l : List α} {y : α} (h : y ∈ s.keepMost n l) :
    y ∈ l := by
  unfold State.keepMost at h
  split at h
  · exact h
  · exact List.mem_of_mem_eraseIdx h

/-- The newest is kept. -/
theorem State.mem_keepMost_cons {α : Type} (s : State) (n : Nat) (y : α) (l : List α) : y ∈ s.keepMost n (y :: l) := by
  unfold State.keepMost
  split
  · exact List.mem_cons_self
  · rw [Nat.add_comm, List.eraseIdx_cons_succ]
    exact List.mem_cons_self

section
variable (c : Core) (s : State) (line : Nat)

theorem Core.allocate_id : (c.allocate s line).id = c.id := by
  unfold Core.allocate
  split <;> rfl

theorem Core.mem_allocate_self : line ∈ (c.allocate s line).l1 := by
  unfold Core.allocate
  split
  · next hin => exact List.contains_iff_mem.mp hin
  · exact s.mem_keepMost_cons ..

variable {c s line}

theorem Core.of_mem_allocate {l : Nat} (h : l ∈ (c.allocate s line).l1) : l = line ∨ l ∈ c.l1 := by
  unfold Core.allocate at h
  split at h
  · exact .inr h
  · exact List.mem_cons.mp (State.mem_of_mem_keepMost h)

end

/-- The L1 takes the lines of addresses, one after the other. -/
def Core.prefetch (s : State) (ps : List (Nat × Nat)) (c : Core) : Core :=
  ps.foldl (fun (c : Core) (p : Nat × Nat) => c.allocate s (lineOf p.1)) c

section
variable (s : State) (ps : List (Nat × Nat)) (c : Core)

theorem Core.prefetch_id : (c.prefetch s ps).id = c.id :=
  List.foldlRecOn (motive := fun d : Core => d.id = c.id) _ _ rfl fun d hd _ _ => (d.allocate_id s _).trans hd

variable {s ps c}

theorem Core.of_mem_prefetch {l : Nat} : l ∈ (c.prefetch s ps).l1 → l ∈ c.l1 ∨ ∃ p ∈ ps, l = lineOf p.1 :=
  List.foldlRecOn (motive := fun d : Core => l ∈ d.l1 → l ∈ c.l1 ∨ ∃ p ∈ ps, l = lineOf p.1) _ _ .inl
    fun _ hd p hp hl => (Core.of_mem_allocate hl).elim (fun heq => .inr ⟨p, hp, heq⟩) hd

/-- Where only one line enters, it is there at the end. -/
theorem Core.mem_prefetch {p : Nat × Nat} (hp : p ∈ ps) (hone : ∀ q ∈ ps, lineOf q.1 = lineOf p.1) :
    lineOf p.1 ∈ (c.prefetch s ps).l1 := by
  cases ps with
  | nil => cases hp
  | cons q qs =>
    have hfirst : lineOf p.1 ∈ (c.allocate s (lineOf q.1)).l1 := by
      rw [hone q List.mem_cons_self]
      exact c.mem_allocate_self s _
    refine List.foldlRecOn (motive := fun d : Core => lineOf p.1 ∈ d.l1) qs _ hfirst fun d _ r hr => ?_
    rw [hone r (List.mem_cons_of_mem _ hr)]
    exact d.mem_allocate_self s _

end

/-- A core's record after a change that keeps its number, listed before or not. -/
theorem State.coreOf_modCore_self (s : State) (k : Nat) {f : Core → Core} (hf : ∀ y, (f y).id = y.id) :
    (s.modCore k f).coreOf k = if (s.core? k).isSome ∨ k < 256 then f (s.coreOf k) else s.coreOf k := by
  cases hc : s.core? k with
  | some c =>
    rw [State.coreOf_modCore hc hf, State.coreOf, hc]
    rfl
  | none =>
    by_cases hk : k < 256
    · have hmod : s.modCore k f = { s with cores := s.cores ++ [f { Core.reset k with iold := s.stored }] } := by
        simp [State.modCore, hc, hk]
      have hid : (f { Core.reset k with iold := s.stored }).id = k := hf _
      have hnew : (s.modCore k f).core? k = some (f { Core.reset k with iold := s.stored }) := by
        rw [State.core?] at hc
        simp [hmod, State.core?, hc, hid]
      simp [State.coreOf, hnew, hc, hk]
    · simp [State.modCore, hc, hk]

section
variable {s : State} {x : Frag} {sc : Scope} {m : MemArg}
  (h : Clear s x { priv := false, noGlint := false, uses := MemArg.cacheUses m })
include h

theorem pref_wide (hsc : Scope.wide sc = true) : Goes s x (.pref sc m) s :=
  goes_of_keepsPlaces h rfl (if_pos hsc) (.refl s)

theorem pref_goes (hsc : Scope.wide sc = false) :
    Goes s x (.pref sc m) (s.modCore x.core (Core.prefetch s ((s.named x m).filter fun p => p.2 != 1))) :=
  goes_of_keepsPlaces h rfl (if_neg (ne_true_of_eq_false hsc)) (.of_beams (s.modCore_beams ..))

theorem pref_narrow (hsc : Scope.wide sc = false) :
    ∃ u, Goes s x (.pref sc m) u ∧ u.mem = s.mem ∧ u.beams = s.beams ∧ u.dieTlb = s.dieTlb ∧
      (∀ l ∈ (u.coreOf x.core).l1, l ∈ (s.coreOf x.core).l1 ∨ ∃ p ∈ s.named x m, p.2 ≠ 1 ∧ l = lineOf p.1) ∧
      (∀ p ∈ s.named x m, p.2 ≠ 1 → (∀ q ∈ s.named x m, q.2 ≠ 1 → lineOf q.1 = lineOf p.1) → x.core < 256 →
        lineOf p.1 ∈ (u.coreOf x.core).l1) := by
  have hin (p : Nat × Nat) : p ∈ (s.named x m).filter (fun p => p.2 != 1) ↔ p ∈ s.named x m ∧ p.2 ≠ 1 := by
    rw [List.mem_filter, bne_iff_ne]
  have hcore := s.coreOf_modCore_self x.core (Core.prefetch_id s ((s.named x m).filter fun p => p.2 != 1))
  refine ⟨_, pref_goes h hsc, s.modCore_mem .., s.modCore_beams .., ?_, fun l hl => ?_, fun p hp htier hone hlt => ?_⟩
  · obtain ⟨cs, hcs⟩ := s.modCore_only x.core (Core.prefetch s ((s.named x m).filter fun p => p.2 != 1))
    rw [hcs]
  · rw [hcore] at hl
    split at hl
    · obtain hold | ⟨p, hp, hline⟩ := Core.of_mem_prefetch hl
      · exact .inl hold
      · obtain ⟨hnamed, htier⟩ := (hin p).mp hp
        exact .inr ⟨p, hnamed, htier, hline⟩
    · exact .inl hl
  · rw [hcore, if_pos (.inr hlt)]
    refine Core.mem_prefetch ((hin p).mpr ⟨hp, htier⟩) fun q hq => ?_
    obtain ⟨hnamed, hq1⟩ := (hin q).mp hq
    exact hone q hnamed hq1

end

/-- Settles O25: FENCE by what its acquire takes, CFLUSH by the lines that it sends, CINV by what `Core.invalidate` leaves in
each core, PREF by what `Core.prefetch` puts into the L1. -/
theorem fencesAndCaches : Obligations.FencesAndCaches := by
  refine ⟨fun s x o sc h => ⟨fence_completes h, fun hrel hun => ⟨_, rfl, fence_waits h hrel hun⟩⟩, fun s x sc m h => ?_⟩
  refine ⟨cflush_below_sys h, ?waiting, ?first, cinv_completes h, pref_wide h, pref_narrow h⟩
  case waiting =>
    rintro rfl
    exact cflush_waiting h
  case first =>
    rintro rfl hw
    exact ⟨cflush_clean h hw, cflush_sends h hw⟩

end Sys2Proof.Machine
end

section
/-! Branches that cannot be made and headers that are entered (R118, R121 to R123, R141 to R145, R147). -/

namespace Sys2Proof.Machine

/-! ### Why a transfer cannot be made (R118, R141, R270) -/

section
variable {s : State} {x : Frag} {c : Context}

theorem State.targetTrap_of_context (hc : s.contextOf x.b = some c) (target : Nat) :
    s.targetTrap x target =
      (s.headerFault x.core c target).map fun code => Trap.addr gFETCH code none target 0 := by
  simp only [State.targetTrap, hc]

theorem State.transferTrap_of_headerFault (hc : s.contextOf x.b = some c) {target code : Nat}
    (hf : s.headerFault x.core c target = some code) :
    s.transferTrap x target = some (Trap.addr gFETCH code none target 0) := by
  simp only [State.transferTrap, State.targetTrap_of_context hc, hf, Option.map_some]

theorem Frag.glintBack_of_not_glint (hg : x.b.glint = none) (target : Nat) : x.glintBack target = none := by
  simp only [Frag.glintBack, hg, Option.isSome_none, Bool.false_and, Bool.false_eq_true, if_false]

/-- Outside a glint only the header checks keep a transfer from its target. -/
theorem State.transferTrap_eq_some (hc : s.contextOf x.b = some c) (hg : x.b.glint = none) {target : Nat} {tr : Trap}
    (h : s.transferTrap x target = some tr) :
    ∃ code, s.headerFault x.core c target = some code ∧ tr = Trap.addr gFETCH code none target 0 := by
  cases hf : s.headerFault x.core c target with
  | none =>
    simp only [State.transferTrap, State.targetTrap_of_context hc, hf, Option.map_none, Frag.glintBack_of_not_glint hg,
      reduceCtorEq] at h
  | some code =>
    rw [State.transferTrap_of_headerFault hc hf] at h
    exact ⟨code, rfl, (Option.some.inj h).symm⟩

theorem State.goto_of_headerFault (hc : s.contextOf x.b = some c) {target code : Nat}
    (hf : s.headerFault x.core c target = some code) (s' : State) :
    s.goto x target s' = .trap (Trap.addr gFETCH code none target 0) := by
  simp only [State.goto, State.transferTrap_of_headerFault hc hf]

/-- A word without a header's low bits is no header, wherever it lies. -/
theorem State.headerFault_of_word {core va : Nat} {w : Word} (hw : s.fetchWord core c va = .ok w)
    (hlow : w.extractLsb' 0 10 ≠ 1#10) : s.headerFault core c va = some 1 := by
  simp [State.headerFault, hw, headerWord, hlow]

/-- Only the FALSE and UNKNOWN sides go on behind the branch, at offset 0. -/
theorem State.branch_eq_goto {zeroNext : Bool} {off : Int} (h : zeroNext = false ∨ off ≠ 0) (s' : State) :
    s.branch x zeroNext off s' = s.goto x (x.target off) s' := by
  refine if_neg fun hpast => ?_
  rw [Bool.and_eq_true, beq_iff_eq] at hpast
  obtain hside | hoff := h
  · exact absurd hpast.1 (ne_true_of_eq_false hside)
  · exact hoff hpast.2

end

/-! ### Where each branch traps -/

section
variable {s : State} {x : Frag} {c : Context}

theorem bra_traps (h : Clear s x (plain [])) (hc : s.contextOf x.b = some c) {off : BitVec 22} {code : Nat}
    (hf : s.headerFault x.core c (x.target off.toInt) = some code) :
    Traps s x (.bra off) (Trap.addr gFETCH code none (x.target off.toInt) 0) :=
  traps_of_trap h rfl (State.goto_of_headerFault hc hf s)

section
variable (h : Clear s x { priv := false, noGlint := true, uses := [] }) {off : BitVec 22}
include h

theorem call_traps (hc : s.contextOf x.b = some c) (hroom : x.entry.rstack.length < 8) {code : Nat}
    (hf : s.headerFault x.core c (x.target off.toInt) = some code) :
    Traps s x (.call off) (Trap.addr gFETCH code none (x.target off.toInt) 0) :=
  traps_of_trap h rfl ((if_neg (Nat.not_le.mpr hroom)).trans (State.goto_of_headerFault hc hf _))

theorem call_traps_full (hfull : 8 ≤ x.entry.rstack.length) : Traps s x (.call off) (Trap.simple gREGISTER 3 0) :=
  traps_of_trap h rfl (if_pos hfull)

end

section
variable (h : Clear s x (plain []))
include h

theorem ret_traps (hc : s.contextOf x.b = some c) {t : Nat} {rest : List Nat} (hstack : x.entry.rstack = t :: rest)
    {code : Nat} (hf : s.headerFault x.core c t = some code) : Traps s x .ret (Trap.addr gFETCH code none t 0) :=
  traps_of_trap h rfl (by simp only [hstack, State.goto_of_headerFault hc hf])

theorem ret_traps_empty (hstack : x.entry.rstack = []) : Traps s x .ret (Trap.simple gREGISTER 4 0) :=
  traps_of_trap h rfl (by simp only [hstack])

end

section
variable {u : Disp} {k : BitVec 3} {bt bf bn : BitVec 16}
  (h : Clear s x (plain [{ set := .k, r := k.toNat, src := 1, dst := false, trap := false }]))
include h

theorem brs_traps (hc : s.contextOf x.b = some c) {v : Tri} (hv : dispose u (Tri.ofCode (x.b.kreg k.toNat)) = some v)
    {code : Nat} :
    let o := match v with | .t => bt | .f => bf | .u => bn
    v = .t ∨ o.toInt ≠ 0 → s.headerFault x.core c (x.target o.toInt) = some code →
      Traps s x (.brs u k bt bf bn) (Trap.addr gFETCH code none (x.target o.toInt) 0) := by
  intro o hmoves hf
  refine traps_of_trap h rfl ?_
  simp only [hv]
  cases v with
  | t => exact (State.branch_eq_goto (.inl rfl) _).trans (State.goto_of_headerFault hc hf _)
  | f => exact (State.branch_eq_goto (.inr (hmoves.resolve_left nofun)) _).trans (State.goto_of_headerFault hc hf _)
  | u => exact (State.branch_eq_goto (.inr (hmoves.resolve_left nofun)) _).trans (State.goto_of_headerFault hc hf _)

theorem brs_traps_unknown (hu : Tri.ofCode (x.b.kreg k.toNat) = .u) :
    Traps s x (.brs .ux k bt bf bn) (unknownBranch k.toNat false x.mask) :=
  traps_of_trap h rfl (by simp only [hu, dispose])

end

/-- A scalar register's number is its two's complement value. -/
theorem sext_eq_toInt (n : Nat) : sext 64 n = (BitVec.ofNat 64 n).toInt := by
  rw [sext, BitVec.toInt_eq_toNat_cond, BitVec.toNat_ofNat]
  split <;> split <;> omega

theorem bdec_traps {n : BitVec 6} {o : BitVec 16}
    (h : Clear s x (plain [{ set := .s, r := n.toNat, src := 1, dst := false, trap := false },
      { set := .s, r := n.toNat, src := 0, dst := true, trap := false }]))
    (hc : s.contextOf x.b = some c) (hpresent : Fmt.isAbsent .s64 (x.b.sreg n.toNat).toNat = false)
    (hcount : 0 < (BitVec.ofNat 64 (satCode .s64 ((x.b.sreg n.toNat).toInt - 1)).1).toInt) {code : Nat}
    (hf : s.headerFault x.core c (x.target o.toInt) = some code) :
    Traps s x (.bdec n o) (Trap.addr gFETCH code none (x.target o.toInt) 0) := by
  have hold : sext 64 (x.b.sreg n.toNat).toNat = (x.b.sreg n.toNat).toInt := by
    rw [sext_eq_toInt, BitVec.ofNat_toNat, BitVec.setWidth_eq]
  rw [← sext_eq_toInt, ← hold] at hcount
  exact traps_of_trap h rfl ((if_neg (ne_true_of_eq_false hpresent)).trans
    ((if_pos hcount).trans (State.goto_of_headerFault hc hf _)))

section
variable {a : SArg} (h : Clear s x (plain (SArg.uses 1 a)))
include h

theorem jmpi_traps_absent (habsent : Fmt.isAbsent .n64 (x.sval a) = true) :
    Traps s x (.jmpi a) { group := gFETCH, code := 1, lanes := none, x := 2 ^ 32 - 1, y := 2 ^ 24 - 1, z := 0 } :=
  traps_of_trap h rfl (if_pos habsent)

variable (hpresent : Fmt.isAbsent .n64 (x.sval a) = false)
include hpresent

theorem jmpi_traps_above (hhigh : 2 ^ 56 ≤ x.sval a) : Traps s x (.jmpi a) (Trap.addr gFETCH 4 none (x.sval a) 0) :=
  traps_of_trap h rfl ((if_neg (ne_true_of_eq_false hpresent)).trans (if_pos hhigh))

theorem jmpi_traps (hc : s.contextOf x.b = some c) (hlow : x.sval a < 2 ^ 56) {code : Nat}
    (hf : s.headerFault x.core c (x.sval a) = some code) :
    Traps s x (.jmpi a) (Trap.addr gFETCH code none (x.sval a) 0) :=
  traps_of_trap h rfl ((if_neg (ne_true_of_eq_false hpresent)).trans
    ((if_neg (Nat.not_le.mpr hlow)).trans (State.goto_of_headerFault hc hf _)))

end

/-- The first path that cannot be taken gives the trap. -/
theorem brv_traps {u : Disp} {cr : BitVec 4} {bt bf bn : BitVec 16}
    (h : Clear s x (plain [{ set := .c, r := cr.toNat, src := 1, dst := false, trap := false }]))
    (hc : s.contextOf x.b = some c) (hknown : u = .ux → brvUnknown x cr.toNat = 0) (hg : x.b.glint = none) {p : Path}
    (hp : p ∈ brvPaths x u cr.toNat bt bf bn) (hout : p.inside = false) {code : Nat}
    (hf : s.headerFault x.core c p.target = some code) :
    ∃ q code', q ∈ brvPaths x u cr.toNat bt bf bn ∧ q.inside = false ∧ s.headerFault x.core c q.target = some code' ∧
      Traps s x (.brv u cr bt bf bn) (Trap.addr gFETCH code' none q.target 0) := by
  have hsome : (((brvPaths x u cr.toNat bt bf bn).filter fun p => !p.inside).findSome? fun p =>
      s.transferTrap x p.target).isSome = true :=
    List.findSome?_isSome_iff.mpr ⟨p, List.mem_filter.mpr ⟨hp, by rw [hout, Bool.not_false]⟩,
      by rw [State.transferTrap_of_headerFault hc hf, Option.isSome_some]⟩
  obtain ⟨tr, hfirst⟩ := Option.isSome_iff_exists.mp hsome
  obtain ⟨q, hq, hqtr⟩ := List.exists_of_findSome?_eq_some hfirst
  obtain ⟨hqmem, hqout⟩ := List.mem_filter.mp hq
  obtain ⟨code', hqf, rfl⟩ := State.transferTrap_eq_some hc hg hqtr
  have hux : ¬ (u == .ux && brvUnknown x cr.toNat != 0) = true := by
    simpa using hknown
  exact ⟨q, code', hqmem, by simpa using hqout, hqf, traps_of_trap h rfl ((if_neg hux).trans (by simp only [hfirst]))⟩

end

/-- Settles O8: each transfer by the fault of its target, the other causes by the branch's own first check. -/
theorem branchTraps : Obligations.BranchTraps := by
  intro s x c off k u cr n o bt bf bn a kUse cUse dUses noHeader fetch fenced hc
  refine ⟨fun code hf => ⟨fun h => bra_traps h hc hf, fun h hroom => call_traps h hc hroom hf⟩,
    fun code v h hv => brs_traps h hc hv, fun code h hpresent hcount hf => bdec_traps h hc hpresent hcount hf,
    fun code h hpresent hlow hf => jmpi_traps h hpresent hc hlow hf,
    fun code t rest h hstack hf => ret_traps h hc hstack hf,
    fun code p h hknown hg hp hout hf => brv_traps h hc hknown hg hp hout hf,
    fun w hw hlow h => bra_traps h hc (State.headerFault_of_word hw hlow),
    fun h => ⟨jmpi_traps_absent h, jmpi_traps_above h⟩, brs_traps_unknown, fun h => call_traps_full h, ret_traps_empty⟩

/-! ### Headers (R121 to R123) -/

section
variable {s : State} {x : Frag} {hd : Header} (h : Clear s x (plain []))
include h

theorem hdr_traps (hbad : hd.rsv ≠ 0 ∨ hd.len.toNat % 2 = 1) :
    Traps s x (.hdr hd) (Trap.addr gFETCH 7 none x.pc 0) :=
  traps_of_trap h rfl (if_pos (by simpa using hbad))

theorem hdr_enters (hrsv : hd.rsv = 0) (hlen : hd.len.toNat % 2 = 0)
    (hjoin : x.b.arrivalAt x.pc 9 x.e [] = none) :
    exec (.hdr hd) s = .next (s.setBeam (x.b.enterBlock x.e x.pc hd)) := by
  refine exec_of_stay h rfl ((if_neg (by simp [hrsv, hlen])).trans ?_)
  have harrive : x.b.arrive x.e x.pc = none := by simp only [Beam.arrive, hjoin]
  simp only [harrive]

end

theorem Beam.entry_enterBlock_other (b : Beam) {e j : Nat} (pc : Nat) (hd : Header) (hj : j ≠ e) :
    (b.enterBlock e pc hd).entry j = b.entry j := by
  rw [Beam.enterBlock, Beam.entry_setEntry, if_neg fun hand => hj hand.1]

theorem Beam.entry_enterBlock_self (b : Beam) {e : Nat} (pc : Nat) (hd : Header) (he : e < b.split.length) :
    (b.enterBlock e pc hd).entry e = { b.entry e with
      pc := pc + 8, back := false
      blk := some { hdr := pc, len := hd.len.toNat, x := hd.x, rcv := sext 18 hd.rcv.toNat, livev := hd.livev.toNat
                    livea := hd.livea.toNat } } := by
  rw [Beam.enterBlock, Beam.entry_setEntry, if_pos ⟨rfl, he⟩]

/-- Settles O6: a header that passes its checks is `enterBlock` of the fragment, which changes its own entry alone. -/
theorem headerEntry : Obligations.HeaderEntry := by
  intro hd s x h
  refine ⟨hdr_traps h, fun hrsv hlen hjoin => ?_⟩
  have hself := x.b.entry_enterBlock_self x.pc hd (Frag.e_lt h.runs)
  have hbeam := State.beam?_setBeam_of_key (b := x.b.enterBlock x.e x.pc hd) (State.frag_beam h.frag) rfl
  obtain ⟨honly, hothers⟩ := (OnlyBeam.refl s x.b.key).setBeam (x.b.enterBlock x.e x.pc hd) rfl
  refine ⟨_, _, hdr_enters h hrsv hlen hjoin, honly, hothers, hbeam, rfl,
    fun j hj => x.b.entry_enterBlock_other x.pc hd hj, ?_⟩
  rw [hself]
  exact ⟨rfl, rfl, h.runs, rfl⟩

end Sys2Proof.Machine
end

section
/-! A step and its turn (R104, R108, R118, R126): what a fragment's turn fetches and executes, and what multiplications under
way take of a step (R288). -/

namespace Sys2Proof.Machine

/-! ### What multiplications take (R288) -/

/-- Of bytes that have not changed a multiplication takes nothing. -/
theorem MmaPend.sees_same (m : MmaPend) (bs : List Byte) (newer : Nat → Bool) : m.sees bs bs newer = m := by
  have hb : (m.op.b.zipIdx.map fun p =>
      if (bs.getD p.2 0 != bs.getD p.2 0 && newer p.2) = true then bs.getD p.2 0 else p.1) = m.op.b := by
    simp
  exact if_pos (beq_iff_eq.mpr hb)

/-- Where nothing has happened multiplications take nothing. -/
theorem State.mmaSees_self (s : State) (who : Option BeamKey) : s.mmaSees who s = s := by
  have hmmas : (s.mmaSees who s).mmas = s.mmas := by
    refine List.map_id'' (fun m => ?_) s.mmas
    split
    · rfl
    · split
      · rfl
      · exact m.sees_same ..
  exact congrArg (fun ms => { s with mmas := ms }) hmmas

theorem State.mmaSees_of_mmas_nil {t : State} (h : t.mmas = []) (who : Option BeamKey) (s : State) :
    t.mmaSees who s = t := by
  have hmmas : (t.mmaSees who s).mmas = t.mmas := by rw [State.mmaSees, h, List.map_nil]
  exact congrArg (fun ms => { t with mmas := ms }) hmmas

/-! ### The turn of a fragment -/

section
variable {s : State} {k : BeamKey} {e : Nat} {b : Beam} (hb : s.beam? k = some b)
include hb

theorem State.runTurn_held (hgo : s.mayGo b e = false) : s.runTurn k e = .next s := by
  simp only [State.runTurn, hb, hgo, Bool.not_false, if_true]

variable (hgo : s.mayGo b e = true)
include hgo

theorem State.runTurn_fetchTrap {tr : Trap} {w : Nat} (hf : s.fetchFor b e = .trap tr w) :
    s.runTurn k e = .next (s.fetchTrap b e w tr) := by
  simp only [State.runTurn, hb, hgo, hf, Bool.not_true, Bool.false_eq_true, if_false]

/-- An issue that moves its fragment's entry is the step; one that does not is none; a fault or refusal is passed on. -/
theorem State.runTurn_executes {i : Instr} {r : Raw} {w : Nat} (hf : s.fetchFor b e = .ok i r w) :
    let u := s.ready b e i r w
    let same := fun t : State => (t.beam? k).map (fun x => x.entry e) = (u.beam? k).map fun x => x.entry e
    (∀ t, exec i u = .next t → (¬ same t → s.runTurn k e = s.seen (some k) (.next t)) ∧
      (same t → s.runTurn k e = .next s)) ∧
    ((∀ t, exec i u ≠ .next t) → s.runTurn k e = exec i u) := by
  intro u same
  have hrun : s.runTurn k e = s.seen (some k) (s.ifIssued u k e (exec i u)) := by
    simp only [State.runTurn, hb, hgo, hf, Bool.not_true, Bool.false_eq_true, if_false, u]
  rw [hrun]
  refine ⟨fun t ht => ⟨fun hmoved => ?moved, fun hsame => ?waits⟩, fun hnot => ?stops⟩
  case moved =>
    rw [ht, State.ifIssued, if_neg hmoved]
  case waits =>
    rw [ht, State.ifIssued, if_pos hsame, State.seen, State.mmaSees_self]
  case stops =>
    cases hexec : exec i u with
    | next t => exact absurd hexec (hnot t)
    | fault _ => rfl
    | refused _ => rfl

end

/-! ### What is fetched inside a block (R104, R119, R125) -/

theorem decodeHere_ok {r : Raw} {i : Instr} (hop : r.op ≠ 0) (hd : decodeRaw r = .ok i) :
    decodeHere r = .ok i r r.words := by
  rw [decodeHere, if_neg (by rwa [beq_iff_eq]), hd]

theorem decodeHere_bad {r : Raw} {code : Nat} (hop : r.op ≠ 0) (hd : decodeRaw r = .bad code) :
    decodeHere r = .trap (encodingTrap code r) r.words := by
  rw [decodeHere, if_neg (by rwa [beq_iff_eq]), hd]

theorem State.fetchInside_eq {s : State} {core pc : Nat} {c : Context} {blk : Block} {w0 : Word} {ws : List Word}
    (hfirst : s.fetchWords core c blk.stop pc 1 = .ok [w0])
    (hwords : s.fetchWords core c blk.stop pc (rawOf [w0]).words = .ok ws) :
    s.fetchInside core c blk pc = decodeHere (rawOf ws) := by
  simp only [State.fetchInside, hfirst, hwords]

theorem State.fetchFor_inside {s : State} {b : Beam} {e : Nat} {c : Context} {blk : Block}
    (hc : s.contextOf b = some c) (hwait : (b.entry e).wait = none) (hblk : (b.entry e).blk = some blk)
    (hpc : (b.entry e).pc ≠ blk.stop) : s.fetchFor b e = s.fetchInside b.key.core c blk (b.entry e).pc := by
  simp only [State.fetchFor, hc, hwait, hblk, beq_iff_eq, hpc, if_false]

/-! ### The step -/

theorem step_of_run {s : State} {k : BeamKey} {e : Nat} (h : s.turn = .run k e) : step s = s.begin.runTurn k e := by
  simp only [step, h]

/-- Settles O58: every other turn by its own arm of `step`, a fragment's by what it fetches. -/
theorem stepRunsTheInstruction : Obligations.StepRunsTheInstruction := by
  intro s
  refine ⟨fun i h => ?_, fun who t => ⟨rfl, rfl, fun hnone => State.mmaSees_of_mmas_nil hnone who s⟩, fun h => ?_,
    fun v h => ?_, fun pa bs h => ?_, fun n up h => ?_, fun n l h => ?_, fun u a h => ?_, fun k e b h hb => ?run⟩
  case run =>
    rw [step_of_run h]
    refine ⟨State.runTurn_held hb, fun hgo => ⟨fun i r w => State.runTurn_executes hb hgo,
      fun tr w => State.runTurn_fetchTrap hb hgo, fun c blk w0 ws hc hwait hblk hpc hfirst hwords hop => ?_⟩⟩
    have hfetch : s.begin.fetchFor b e = decodeHere (rawOf ws) := by
      rw [State.fetchFor_inside hc hwait hblk hpc, State.beam?_key hb, State.fetchInside_eq hfirst hwords]
    exact ⟨fun i hd => State.runTurn_executes hb hgo (hfetch.trans (decodeHere_ok hop hd)),
      fun code hd => State.runTurn_fetchTrap hb hgo (hfetch.trans (decodeHere_bad hop hd))⟩
  all_goals simp only [step, h]

end Sys2Proof.Machine
end

section
/-! BRK, TRAP and what traps at PL0 (R126, R129, R151, R162, R406, R410): the frame's own checks, and the beam once the
trap has been taken. -/

namespace Sys2Proof.Machine

/-! ### Traps of the frame (R126, R129, R162) -/

section
variable {s : State} {x : Frag} {g : Guard} {i : Instr} {body : Frag → State → Res}

/-- A fragment with no cause pending traps with what the guard's check finds. -/
theorem traps_of_check (hf : s.frag = some x) (hp : x.pending = none) (hi : exec i s = s.runFrag g body) {tr : Trap}
    (hc : x.check g = some tr) : Traps s x i tr := by
  simp only [Traps, hi, State.runFrag, hf, hp, hc]

theorem Frag.check_priv (hg : g.priv = true) (hpl : x.b.pl = false) : x.check g = some (Trap.simple gPRIV 1 x.op) :=
  if_pos (by rw [hg, hpl]; rfl)

theorem Frag.check_privSp (hg : g.priv = false) {sp : Nat} (hsp : g.privSp = some sp) (hpl : x.b.pl = false) :
    x.check g = some { Trap.simple gPRIV 2 x.op with y := sp } := by
  simp [Frag.check, hg, hsp, hpl]

end

/-! ### BRK and TRAP (R151) -/

section
variable {s : State} {x : Frag} (h : Clear s x (plain []))
include h

theorem brk_traps (n : BitVec 16) : Traps s x (.brk n) (Trap.simple gDEBUG 1 n.toNat) := traps_of_trap h rfl rfl

theorem trap_traps (n : BitVec 16) : Traps s x (.trap n) (Trap.simple gSOFTWARE n.toNat 0) := traps_of_trap h rfl rfl

end

/-- A trap over the active lanes, with one detail word, is taken: the fragment stands at HANDLER (R406). -/
theorem Traps.taken {s : State} {x : Frag} {c : Context} {i : Instr} {group code detail : Nat}
    (h : Traps s x i (Trap.simple group code detail)) (hf : s.frag = some x) (hc : s.contextOf x.b = some c)
    (ht : x.b.trap = none) (ho : s.owed x.b.key = false) (he : x.e < x.b.split.length)
    (hh : s.headerIs x.core c c.handler (fun w => !headerK w && !headerG w) = true) :
    ∃ t b, exec i s = .next t ∧ t.beam? x.b.key = some b ∧ b.pl = true ∧ b.trap.isSome = true ∧ b.epc = x.pc ∧
      b.tcause = BitVec.ofNat 32 (code % 2 ^ 16 * 2 ^ 16 + group % 32) ∧ b.tlanes = x.mask &&& fullMask x.w ∧
      b.tdetx = BitVec.ofNat 32 detail ∧ b.tdety = 0 ∧ b.tdetz = 0 ∧ (b.entry x.e).st = .run ∧
      (b.entry x.e).pc = c.handler ∧ (b.entry x.e).mask = x.mask ∧ (b.entry x.e).blk = none ∧ t.mem = s.mem := by
  obtain ⟨b, hbeam, hpl, htrap, hepc, hcause, hlanes, hx, hy, hz, hst, hpc, hmask, hblk, -, -, -, hmem, -⟩ :=
    trapEntryAndDoubleTrap.1 s x.b c x.e x.pc x.words (Trap.simple group code detail) (State.frag_beam hf) hc ht ho he hh
  exact ⟨_, b, h, hbeam, hpl, htrap, hepc, hcause, hlanes, hx, hy, hz, hst, hpc, hmask, hblk, hmem⟩

/-- Settles O11: each instruction by the check that it fails or the trap that it names, and a trap once taken by O12's
statement of trap entry. -/
theorem softwareAndPrivilegeTraps : Obligations.SoftwareAndPrivilegeTraps := by
  refine ⟨fun s x c n h hc => ⟨fun ht ho he hh => ⟨?brk, ?trap⟩, brk_traps h n, trap_traps h n⟩,
    fun s x skip sp d r r' a sc page lvl fn hf hp hpl => ?priv⟩
  case brk => exact (brk_traps h n).taken h.frag hc ht ho he hh
  case trap =>
    have htaken := (trap_traps h n).taken h.frag hc ht ho he hh
    rwa [Nat.mod_eq_of_lt n.isLt] at htaken
  case priv =>
    have hpriv {i : Instr} {g : Guard} {body : Frag → State → Res} (hi : exec i s = s.runFrag g body)
        (hg : g.priv = true) : Traps s x i (Trap.simple gPRIV 1 x.op) :=
      traps_of_check hf hp hi (Frag.check_priv hg hpl)
    exact ⟨hpriv rfl rfl, hpriv rfl rfl, hpriv rfl rfl, hpriv rfl rfl, hpriv rfl rfl, hpriv rfl rfl,
      fun hsp => traps_of_check hf hp rfl (Frag.check_privSp rfl (if_pos hsp) hpl)⟩

end Sys2Proof.Machine
end

section
/-! GNEW, GJOIN and GLEAVE (R157 to R159, R358): the kernel's group table, and the code that each answers. -/

namespace Sys2Proof.Machine

/-! ### The group table -/

theorem Kernel.group_index (k : Kernel) (i : Nat) : (k.group i).index = i := by
  unfold Kernel.group
  cases hg : k.groups.find? fun g => g.index == i with
  | none => rfl
  | some g => simpa using List.find?_some hg

theorem Kernel.group_setGroup (k : Kernel) (g : Group) : (k.setGroup g).group g.index = g := by
  simp only [Kernel.group, Kernel.setGroup, List.find?_cons, beq_self_eq_true, Option.getD_some]

theorem Kernel.group_of_named {k : Kernel} {h : Nat} {g : Group} (hg : k.named h = some g) : k.group (bits h 0 16) = g := by
  unfold Kernel.named at hg
  extract_lets g' at hg
  split at hg
  · cases hg
  · exact Option.some.inj hg

theorem Kernel.named_eq_none_of_not_live {k : Kernel} {h : Nat} (hst : (k.group (bits h 0 16)).st ≠ .live) :
    k.named h = none := by
  have hlive : ((k.group (bits h 0 16)).st != .live) = true := bne_iff_ne.mpr hst
  exact if_pos (by simp only [hlive, Bool.or_true, Bool.true_or])

theorem Group.leave_index (g : Group) (m : Nat × Nat) : (g.leave m).index = g.index := by
  unfold Group.leave
  extract_lets ms
  split
  · split <;> rfl
  · rfl

/-- A group that its last member leaves lives no longer (R358). -/
theorem Group.leave_last {g : Group} {m : Nat × Nat} (h : ∀ y ∈ g.members, y = m) : (g.leave m).st ≠ .live := by
  have hempty : (g.members.filter fun y => y != m).isEmpty = true := by
    simpa [List.isEmpty_iff, List.filter_eq_nil_iff, Prod.forall] using h
  simp only [Group.leave, hempty, if_true]
  split <;> simp

/-- The handle that the last member has left names no group. -/
theorem Kernel.named_setGroup_leave {k : Kernel} {h : Nat} {g : Group} (hg : k.named h = some g) {m : Nat × Nat}
    (hm : ∀ y ∈ g.members, y = m) : (k.setGroup (g.leave m)).named h = none := by
  have hindex : (g.leave m).index = bits h 0 16 := by
    rw [Group.leave_index, ← Kernel.group_of_named hg, Kernel.group_index]
  apply Kernel.named_eq_none_of_not_live
  rw [← hindex, Kernel.group_setGroup]
  exact Group.leave_last hm

/-! ### What the instructions answer -/

section
variable {s : State} {x : Frag} {g : Guard} {i : Instr} {body : Frag → State → Res}

/-- An instruction that replaces its kernel's record and answers in a scalar register goes on. -/
theorem goes_of_setKernel (h : Clear s x g) (hi : exec i s = s.runFrag g body) {k : Kernel} {d : Reg} {v : Nat}
    (hu : body x s = (s.setKernel k).beamDone (x.putS d v)) : Goes s x i ((s.setKernel k).setBeam (x.putS d v)) := by
  have hp : x.b.SamePlace (x.putS d v) := x.b.samePlace_putS ..
  have hb : (s.setKernel k).beam? x.b.key = some x.b := State.frag_beam h.frag
  exact goes_of_samePlace h hi hu (State.beam?_setBeam_of_key hb hp.key) hp

/-- An instruction that answers in a scalar register alone goes on. -/
theorem goes_of_putS (h : Clear s x g) (hi : exec i s = s.runFrag g body) {d : Reg} {v : Nat}
    (hu : body x s = s.beamDone (x.putS d v)) : Goes s x i (s.setBeam (x.putS d v)) :=
  goes_of_beamDone h hi hu (x.b.samePlace_putS ..)

end

section
variable {s : State} {x : Frag} {k : Kernel} (hk : s.kernelOf x.b = some k)
include hk

section
variable {d : Reg} (h : Clear s x { priv := false, noGlint := true, uses := dstS d })
include h

theorem gnew_full (hf : ((List.range 1024).find? fun i => (k.group i).st == .free) = none) :
    Goes s x (.gnew d) (s.setBeam (x.putS d (Fmt.absent .n64))) :=
  goes_of_putS h rfl (by simp only [hk, hf])

variable {i : Nat} (hf : ((List.range 1024).find? fun i => (k.group i).st == .free) = some i)
include hf

theorem gnew_refused (hr : x.b.converged = false ∨ 16384 ≤ s.liveGroups) :
    Goes s x (.gnew d) (s.setBeam (x.putS d (Fmt.absent .n64))) := by
  have hrefused : (!x.b.converged || decide (16384 ≤ s.liveGroups)) = true := by simpa using hr
  exact goes_of_putS h rfl (by simp only [hk, hf, ge_iff_le, hrefused, if_true])

theorem gnew_makes (hc : x.b.converged = true) (hroom : s.liveGroups < 16384) :
    Goes s x (.gnew d)
      ((s.setKernel (k.setGroup { k.group i with st := .live, members := [x.b.member] })).setBeam
        (x.putS d (i + (k.group i).gen * 2 ^ 16))) := by
  have hmakes : (!x.b.converged || decide (16384 ≤ s.liveGroups)) = false := by simpa [hc] using hroom
  refine goes_of_setKernel h rfl ?_
  simp only [hk, hf, ge_iff_le, hmakes, Bool.false_eq_true, if_false]
  rfl

end

section
variable {a : Reg}

theorem State.groupCheck_unnamed (hc : x.b.converged = true) {h : Nat} (hn : k.named h = none) :
    s.groupCheck x h = .error 1 := by
  simp only [State.groupCheck, hc, hk, hn, Bool.not_true, Bool.false_eq_true, if_false]

theorem State.groupCheck_named (hc : x.b.converged = true) {h : Nat} {g : Group} (hg : k.named h = some g) :
    s.groupCheck x h = .ok (k, g) := by
  simp only [State.groupCheck, hc, hk, hg, Bool.not_true, Bool.false_eq_true, if_false]

omit hk in
theorem State.groupCheck_diverged (hc : x.b.converged = false) (h : Nat) : s.groupCheck x h = .error 4 :=
  if_pos (by rw [hc, Bool.not_false])

variable {d : Reg} (h : Clear s x { priv := false, noGlint := true, uses := dstS d ++ regUses .s a false 1 false false })
include h

omit hk in
/-- A handle that the check refuses: GJOIN and GLEAVE answer its code. -/
theorem group_refused {c : Nat} (hr : s.groupCheck x (x.b.sreg a.toNat).toNat = .error c) :
    Goes s x (.gjoin d a) (s.setBeam (x.putS d (0x100 + c))) ∧ Goes s x (.gleave d a) (s.setBeam (x.putS d (0x100 + c))) :=
  ⟨goes_of_putS h rfl (by simp only [hr]), goes_of_putS h rfl (by simp only [hr])⟩

variable {g : Group} (hr : s.groupCheck x (x.b.sreg a.toNat).toNat = .ok (k, g))
include hr

omit hk in
theorem group_member (hm : x.b.member ∈ g.members) :
    Goes s x (.gjoin d a) (s.setBeam (x.putS d 0x102)) ∧
      Goes s x (.gleave d a) ((s.setKernel (k.setGroup (g.leave x.b.member))).setBeam (x.putS d 0)) := by
  have hin : g.members.contains x.b.member = true := by simpa using hm
  exact ⟨goes_of_putS h rfl (by simp only [hr, hin, if_true]),
    goes_of_setKernel h rfl (by simp only [hr, hin, if_true])⟩

variable (hm : x.b.member ∉ g.members)
include hm

omit hk in
theorem gleave_outsider : Goes s x (.gleave d a) (s.setBeam (x.putS d 0x105)) := by
  have hout : g.members.contains x.b.member = false := by simpa using hm
  exact goes_of_putS h rfl (by simp only [hr, hout, Bool.false_eq_true, if_false])

omit hk in
theorem gjoin_full (hfull : 4095 ≤ g.members.length) : Goes s x (.gjoin d a) (s.setBeam (x.putS d 0x103)) := by
  have hout : g.members.contains x.b.member = false := by simpa using hm
  exact goes_of_putS h rfl (by simp only [hr, hout, Bool.false_eq_true, if_false, ge_iff_le, hfull, if_true])

omit hk in
theorem gjoin_joins (hroom : g.members.length < 4095) :
    Goes s x (.gjoin d a)
      ((s.setKernel (k.setGroup { g with members := g.members ++ [x.b.member] })).setBeam (x.putS d 0)) := by
  have hout : g.members.contains x.b.member = false := by simpa using hm
  exact goes_of_setKernel h rfl
    (by simp only [hr, hout, Bool.false_eq_true, if_false, ge_iff_le, Nat.not_le.mpr hroom])

end

end

/-- Settles O15: GNEW by the entry that it finds, GJOIN and GLEAVE by what the check of the handle answers. -/
theorem groupResults : Obligations.GroupResults := by
  intro s x d a k none_ one ends h hk
  refine ⟨fun hclear => ⟨fun i hf => ⟨gnew_refused hk hclear hf, gnew_makes hk hclear hf⟩, gnew_full hk hclear⟩,
    fun hclear => ⟨fun hc => ?diverged, fun hc hn => ?unnamed, fun hc g hg => ?named⟩⟩
  case diverged => exact group_refused (c := 4) hclear (State.groupCheck_diverged hc _)
  case unnamed => exact group_refused (c := 1) hclear (State.groupCheck_unnamed hk hc hn)
  case named =>
    have hr : s.groupCheck x h = .ok (k, g) := State.groupCheck_named hk hc hg
    refine ⟨fun hm => ?_, fun hm =>
      ⟨gleave_outsider hclear hr hm, gjoin_full hclear hr hm, gjoin_joins hclear hr hm⟩⟩
    obtain ⟨hjoin, hleave⟩ := group_member hclear hr hm
    exact ⟨hjoin, hleave, Kernel.named_setGroup_leave hg⟩

end Sys2Proof.Machine
end

section
/-! The scalar instructions and the moves on vectors (R168 to R173, R176, R177, R193, R204 to R207): each is a frame's run
with its own result. -/

namespace Sys2Proof.Machine

/-! ### Scalar results -/

/-- Settles O1: each instruction is the scalar frame of its result. -/
theorem scalarResults : Obligations.ScalarResults := by
  refine ⟨fun t d a b c => ⟨?_, ?_, ?_, ?_, ?_, ?_⟩,
    fun t d a b w sh k => ⟨?_, ?_, ?_, ?_, ?_, ?_, ?_, ?_, ?_, ?_, ?_, ?_, ?_, ?_⟩⟩
  all_goals exact State.scalar_runs d _ _ _ fun _ => rfl

/-! ### Vector results -/

theorem Beam.raise_zero (b : Beam) : b.raise 0 = b := by simp [Beam.raise]

/-- A vector instruction that writes one value a lane, with flags of its own, runs. -/
theorem runs_of_putV_raise {i : Instr} {wide : Bool} {d : Reg} {us : List Use} {f : Frag → Nat → Nat} {fl : Frag → Flags}
    (hi : ∀ s, exec i s = s.runFrag (plain (regUses .v d wide 0 true false ++ us)) fun x s =>
      s.beamDone ((x.putV wide d.toNat (f x)).raise (fl x))) :
    Runs i (regUses .v d wide 0 true false ++ us) fun _ x => { v := wordsOf wide d (f x), flags := fl x } :=
  runs_of_wrote hi (fun _ _ => rfl) fun _ x hs hu => Wrote.putV_raise x hs wide d hu (f x) (fl x)

/-- A vector instruction that writes one coded value a lane runs. -/
theorem runs_of_putCoded {i : Instr} {wide : Bool} {d : Reg} {us : List Use} {f : Frag → Nat → Coded} {fl : Frag → Flags}
    (hi : ∀ s, exec i s = s.runFrag (plain (regUses .v d wide 0 true false ++ us)) fun x s =>
      s.beamDone (x.putCoded wide d (fl x) (f x))) :
    Runs i (regUses .v d wide 0 true false ++ us) fun _ x => x.laneWrites wide d (fl x) (f x) :=
  runs_of_wrote hi (fun _ _ => rfl) fun _ x hs hu => Wrote.putCoded_uses x hs wide d hu (fl x) (f x)

/-! ### The indexed MOV (R193) -/

theorem mem_lanesOf {m : Mask} {i : Nat} : i ∈ lanesOf m ↔ i < 64 ∧ m.getLsbD i = true := by
  rw [lanesOf, List.mem_filter, List.mem_range]

section
variable {t : Ty} {a : Reg} {b : VOp} {s : State} {x : Frag}
  (hlanes : ∀ i, x.mask.getLsbD i = true → ∀ r, idxReg x.b t a (x.vop .n32 b i) ≠ .bad r ∧
    (idxReg x.b t a (x.vop .n32 b i) = .reg r → x.b.vfullAt r = true ∧ (t.wide = true → x.b.vfullAt (r + 1) = true)))
include hlanes

/-- Where every register that a lane's index names is there and full, the move is made. -/
theorem movIdx_moves (d : Reg) (ea : Bool) : movIdx t d a ea b x s =
    s.beamDone (x.putV t.wide d.toNat fun i =>
      match idxReg x.b t a (x.vop .n32 b i) with
      | .reg r => x.b.vval t.wide r i
      | _ => Ty.absent t) := by
  have hlane {i : Nat} (hi : i ∈ lanesOf x.mask) := hlanes i (mem_lanesOf.mp hi).2
  unfold movIdx
  extract_lets ix rs bad regs gone
  have hbad : bad = [] := by
    simp only [bad, rs, List.filterMap_map, List.filterMap_eq_nil_iff, Function.comp_apply]
    intro i hi
    split
    · next r hr => exact absurd hr (hlane hi r).1
    · rfl
  have hgone : gone = [] := by
    rw [List.filter_eq_nil_iff]
    intro r hr
    simp only [regs, rs, List.filterMap_map, List.mem_filterMap, Function.comp_apply] at hr
    obtain ⟨i, hi, hreg⟩ := hr
    split at hreg
    · next r' hr' =>
      obtain rfl : r' = r := Option.some.inj hreg
      obtain ⟨hfull, hnext⟩ := (hlane hi r').2 hr'
      cases hw : t.wide with
      | false => simp [hfull]
      | true => simp [hfull, hnext hw]
    · cases hreg
  rw [hbad, hgone] <;> rfl

end

/-- Settles O4: each instruction is a frame that writes the lanes of vD, the indexed MOV where no lane's register fails. -/
theorem vectorMoveResults : Obligations.VectorMoveResults := by
  refine ⟨fun t f sat p e r d a b c sa => ⟨?mov, ?stov, ?fill, ?mkab, ?tsel, ?tval, fun hw => ?packs⟩,
    fun t d a ea b s x h hshaped hlanes => ?indexed⟩
  case mov => exact State.vec1_runs t.wide t d b (fun p => (p, 0)) _ fun _ => rfl
  case stov => exact runs_of_putV_raise fun _ => rfl
  case fill =>
    exact State.vec2_runs t.wide t t d a b
      (fun p q => mapElems t (fun v => (if Ty.isAbsent t (v.getD 0 0) then v.getD 1 0 else v.getD 0 0, 0)) [p, q]) _ fun _ => rfl
  case mkab =>
    rw [List.append_assoc]
    refine runs_of_putV_raise (f := fun x l => if Tri.ofCode (x.b.cl c.toNat l) = .t then Ty.absent t else (x.src t a).1 l)
      (fl := fun x => (x.src t a).2) fun s => ?_
    rw [← List.append_assoc]
    show execMkab t d a c s = _
    simp only [execMkab, beq_iff_eq]
    rfl
  case tsel =>
    rw [List.append_assoc]
    refine runs_of_putV_raise fun s => ?_
    rw [← List.append_assoc]
    rfl
  case tval =>
    refine runs_of_putV_raise (fl := fun _ => 0) fun s => ?_
    simp only [Beam.raise_zero]
    rfl
  case packs =>
    simp only [dstV, hw]
    refine ⟨runs_of_putCoded fun s => ?_, runs_of_putCoded fun s => ?_⟩
    · show execPack f sat t p r d a b s = _
      simp only [execPack, dstV, hw]
      rfl
    · show execUnpk t f e r d b s = _
      simp only [execUnpk, dstV, hw]
      rfl
  case indexed =>
    have hs := (Beam.shaped_iff _).mp hshaped
    obtain ⟨hd, hd'⟩ := hasV_dst hs h.check (List.append_assoc _ _ _)
    exact completes_of_wrote h rfl (movIdx_moves hlanes d ea) (Wrote.putV x hs t.wide d hd hd' _)

end Sys2Proof.Machine
end

section
/-! Branches, calls and returns that are made (R118, R141 to R147). -/

namespace Sys2Proof.Machine

/-! ### Packets of branch tracing (R425) -/

theorem State.brPacket_keepsPlaces (s : State) (b : Beam) (e pc kind : Nat) (m t u : Mask) :
    s.KeepsPlaces (s.brPacket b e pc kind m t u) := .ite (s.packet_keepsPlaces _ _ _) (.refl s)

theorem State.jmpPacket_keepsPlaces (s : State) (b : Beam) (e pc : Nat) (m : Mask) (target : Nat) :
    s.KeepsPlaces (s.jmpPacket b e pc m target) := .ite (s.packet_keepsPlaces _ _ _) (.refl s)

theorem State.brPacket_untraced {s : State} {b : Beam} (h : (s.coreOf b.key.core).trace.br = false) (e pc kind : Nat)
    (m t u : Mask) : s.brPacket b e pc kind m t u = s := if_neg (ne_true_of_eq_false h)

/-! ### A transfer that is made, and a branch that goes on behind itself -/

theorem State.goto_free {s : State} {x : Frag} {target : Nat} (h : s.transferTrap x target = none) (u : State) :
    s.goto x target u = .jump u target := by
  simp only [State.goto, h]

theorem State.branch_eq_past {s : State} {x : Frag} {off : Int} (h : off = 0) (u : State) :
    s.branch x true off u = u.past x := if_pos (by rw [h]; rfl)

/-- The latency of a branch shows in the cycle of the fragment's next issue alone (R435). -/
theorem State.finish_past {s u : State} {x : Frag} {us : List Use} {b : Beam} (hb : u.beam? x.b.key = some b)
    (hl : x.e < b.split.length) :
    Ends u x x.next (b.entry x.e).blk (b.entry x.e).back (s.finish x us (u.past x)) := by
  have hkey := State.beam?_key hb
  obtain ⟨r, hlater | hlater⟩ := State.later_cases u x.b.key x.e 2 b hb
  · let b' := b.setEntry x.e { b.entry x.e with ready := r }
    have hself : b'.entry x.e = { b.entry x.e with ready := r } := by rw [Beam.entry_setEntry, if_pos ⟨rfl, hl⟩]
    have hb' : (u.setBeam b').beam? x.b.key = some b' := State.beam?_setBeam_of_key hb hkey
    have hends := State.finish_done (s := s) (us := us) hb' (by simpa [b', Beam.setEntry] using hl)
    rw [State.past, hlater]
    obtain ⟨honly, hothers, y, ready, rdy, hy, ht⟩ := hends
    obtain rfl : y = b' := Option.some.inj (hy.symm.trans hb')
    refine ⟨congrArg (fun v : State => { v with beams := u.beams }) honly, fun k hk =>
      (hothers k hk).trans (((OnlyBeam.refl u x.b.key).setBeam b' hkey).others k hk), b, ready, rdy, hb, ht.trans ?_⟩
    rw [hself]
    simp [b', Beam.setEntry]
  · rw [State.past, hlater]
    exact State.finish_done hb hl

section
variable {s u : State} {x : Frag} {g : Guard} {i : Instr} {body : Frag → State → Res} (h : Clear s x g)
  (hi : exec i s = s.runFrag g body)
include h hi

theorem goes_of_past (hu : body x s = u.past x) (hk : s.KeepsPlaces u) : Goes s x i u := by
  obtain ⟨b, hb, hp⟩ := hk _ _ (State.frag_beam h.frag)
  have hl : x.e < b.split.length := by rw [hp.split]; exact Frag.e_lt h.runs
  exact ⟨_, by rw [hi, State.runFrag_clear h, hu], b, hb, State.finish_past hb hl⟩

theorem jumps_of_keepsPlaces {target : Nat} (hu : body x s = .jump u target) (hk : s.KeepsPlaces u) :
    Jumps s x i u target := by
  obtain ⟨b, hb, hp⟩ := hk _ _ (State.frag_beam h.frag)
  exact jumps_of_jump h hi hu hb (by rw [hp.split]; exact Frag.e_lt h.runs)

/-- A transfer that changes the fragment's own entry besides. -/
theorem jumps_of_setEntry {y : Entry} {target : Nat}
    (hu : body x s = .jump (s.setBeam (x.b.setEntry x.e y)) target) :
    Jumps s x i (s.setBeam (x.b.setEntry x.e y)) target :=
  jumps_of_jump h hi hu (State.beam?_setBeam_of_key (State.frag_beam h.frag) rfl)
    (by simpa [Beam.setEntry] using Frag.e_lt h.runs)

end

/-! ### Each branch -/

section
variable {s : State} {x : Frag}

theorem bra_jumps (h : Clear s x (plain [])) {off : BitVec 22} (hfree : s.transferTrap x (x.target off.toInt) = none) :
    Jumps s x (.bra off) s (x.target off.toInt) :=
  jumps_of_keepsPlaces h rfl (State.goto_free hfree s) (.refl s)

theorem call_jumps (h : Clear s x { priv := false, noGlint := true, uses := [] }) {off : BitVec 22}
    (hroom : x.entry.rstack.length < 8) (hfree : s.transferTrap x (x.target off.toInt) = none) :
    Jumps s x (.call off)
      (s.setBeam (x.b.setEntry x.e { x.entry with rstack := x.block.stop :: x.entry.rstack })) (x.target off.toInt) :=
  jumps_of_setEntry h rfl ((if_neg (Nat.not_le.mpr hroom)).trans (State.goto_free hfree _))

theorem ret_jumps (h : Clear s x (plain [])) {t : Nat} {rest : List Nat} (hstack : x.entry.rstack = t :: rest)
    (hfree : s.transferTrap x t = none) :
    Jumps s x .ret (s.setBeam (x.b.setEntry x.e { x.entry with rstack := rest })) t :=
  jumps_of_setEntry h rfl (by simp only [hstack, State.goto_free hfree])

theorem jmpi_jumps {a : SArg} (h : Clear s x (plain (SArg.uses 1 a))) (hpresent : Fmt.isAbsent .n64 (x.sval a) = false)
    (hlow : x.sval a < 2 ^ 56) (hfree : s.transferTrap x (x.sval a) = none) :
    Jumps s x (.jmpi a) (s.jmpPacket x.b x.e x.pc x.mask (x.sval a)) (x.sval a) :=
  jumps_of_keepsPlaces h rfl ((if_neg (ne_true_of_eq_false hpresent)).trans
    ((if_neg (Nat.not_le.mpr hlow)).trans (State.goto_free hfree _))) (s.jmpPacket_keepsPlaces _ _ _ _ _)

section
variable {u : Disp} {k : BitVec 3} {bt bf bn : BitVec 16}
  (h : Clear s x (plain [{ set := .k, r := k.toNat, src := 1, dst := false, trap := false }])) {v : Tri}
  (hv : dispose u (Tri.ofCode (x.b.kreg k.toNat)) = some v)
include h hv

theorem brs_goes :
    let o := match v with | .t => bt | .f => bf | .u => bn
    v ≠ .t ∧ o.toInt = 0 → Goes s x (.brs u k bt bf bn)
      (s.brPacket x.b x.e x.pc 1 x.mask (if v == .t then x.mask else 0) (if v == .u then x.mask else 0)) := by
  rintro o ⟨hne, ho⟩
  refine goes_of_past h rfl ?_ (s.brPacket_keepsPlaces _ _ _ _ _ _ _)
  simp only [hv]
  cases v with
  | t => exact absurd rfl hne
  | f => exact State.branch_eq_past ho _
  | u => exact State.branch_eq_past ho _

theorem brs_jumps :
    let o := match v with | .t => bt | .f => bf | .u => bn
    v = .t ∨ o.toInt ≠ 0 → s.transferTrap x (x.target o.toInt) = none → Jumps s x (.brs u k bt bf bn)
      (s.brPacket x.b x.e x.pc 1 x.mask (if v == .t then x.mask else 0) (if v == .u then x.mask else 0))
      (x.target o.toInt) := by
  intro o hmoves hfree
  refine jumps_of_keepsPlaces h rfl ?_ (s.brPacket_keepsPlaces _ _ _ _ _ _ _)
  simp only [hv]
  cases v with
  | t => exact (State.branch_eq_goto (.inl rfl) _).trans (State.goto_free hfree _)
  | f => exact (State.branch_eq_goto (.inr (hmoves.resolve_left nofun)) _).trans (State.goto_free hfree _)
  | u => exact (State.branch_eq_goto (.inr (hmoves.resolve_left nofun)) _).trans (State.goto_free hfree _)

end

section
variable {n : BitVec 6} {o : BitVec 16}
  (h : Clear s x (plain [{ set := .s, r := n.toNat, src := 1, dst := false, trap := false },
    { set := .s, r := n.toNat, src := 0, dst := true, trap := false }]))
  (htrace : (s.coreOf x.core).trace.br = false)
include h htrace

theorem bdec_absent (habsent : Fmt.isAbsent .s64 (x.b.sreg n.toNat).toNat = true) : Goes s x (.bdec n o) s :=
  goes_of_past h rfl ((if_pos habsent).trans (congrArg (State.past · x) (State.brPacket_untraced htrace ..))) (.refl s)

variable (hpresent : Fmt.isAbsent .s64 (x.b.sreg n.toNat).toNat = false)
include hpresent

theorem bdec_jumps :
    let y := satCode .s64 ((x.b.sreg n.toNat).toInt - 1)
    let s' := s.setBeam ((x.b.putS x.lead n.toNat (BitVec.ofNat 64 y.1)).raise y.2)
    0 < (BitVec.ofNat 64 y.1).toInt → s.transferTrap x (x.target o.toInt) = none →
      Jumps s x (.bdec n o) s' (x.target o.toInt) := by
  intro y s' hcount hfree
  have hp : x.b.SamePlace ((x.b.putS x.lead n.toNat (BitVec.ofNat 64 y.1)).raise y.2) :=
    (x.b.samePlace_putS ..).trans (Beam.samePlace_raise ..)
  refine jumps_of_keepsPlaces h rfl ?_ (.setBeam (State.frag_beam h.frag) hp)
  simp only [hpresent, Bool.false_eq_true, if_false, sext_eq_toInt, BitVec.ofNat_toNat, BitVec.setWidth_eq, gt_iff_lt]
  rw [if_pos hcount, State.goto_free hfree]
  exact congrArg (Res.jump · _) (State.brPacket_untraced (s := s') htrace ..)

theorem bdec_ends :
    let y := satCode .s64 ((x.b.sreg n.toNat).toInt - 1)
    (BitVec.ofNat 64 y.1).toInt ≤ 0 →
      Goes s x (.bdec n o) (s.setBeam ((x.b.putS x.lead n.toNat (BitVec.ofNat 64 y.1)).raise y.2)) := by
  intro y hcount
  have hp : x.b.SamePlace ((x.b.putS x.lead n.toNat (BitVec.ofNat 64 y.1)).raise y.2) :=
    (x.b.samePlace_putS ..).trans (Beam.samePlace_raise ..)
  refine goes_of_past h rfl ?_ (.setBeam (State.frag_beam h.frag) hp)
  simp only [hpresent, Bool.false_eq_true, if_false, sext_eq_toInt, BitVec.ofNat_toNat, BitVec.setWidth_eq, gt_iff_lt]
  rw [if_neg (Int.not_lt.mpr hcount)]
  exact congrArg (State.past · x) (State.brPacket_untraced (s := s.setBeam _) htrace ..)

end

end

/-- Settles O7: each branch by its own equation, a transfer by the check that its target passes. -/
theorem branchesTransfer : Obligations.BranchesTransfer := by
  intro s x off u k bt bf bn o n a free kUse dUses fenced
  refine ⟨fun h => bra_jumps h, fun h v hv => ⟨brs_goes h hv, brs_jumps h hv⟩, fun h => jmpi_jumps h, fun h => call_jumps h,
    fun h t rest hstack hfree => ret_jumps h hstack hfree, fun h htrace hpresent => bdec_jumps h htrace hpresent,
    fun h htrace _ => ⟨bdec_absent h htrace, bdec_ends h htrace⟩⟩

end Sys2Proof.Machine
end

section
/-! Writes through a translation (R66, R313, R334, R419): of the queues and of the beams' places they change nothing. -/

namespace Sys2Proof.Machine

/-- The states have the same queues, and every fragment of `s` stands in `t` where it stood. -/
structure State.SameQueues (s t : State) : Prop where
  queues : t.queues = s.queues
  places : s.KeepsPlaces t

namespace State.SameQueues

variable {s t u : State}

theorem refl (s : State) : s.SameQueues s := ⟨rfl, .refl s⟩

theorem trans (h : s.SameQueues t) (h' : t.SameQueues u) : s.SameQueues u :=
  ⟨h'.queues.trans h.queues, h.places.trans h'.places⟩

theorem ite {p : Prop} [Decidable p] (ht : s.SameQueues t) (hu : s.SameQueues u) :
    s.SameQueues (if p then t else u) := by
  split
  · exact ht
  · exact hu

/-- A change made again and again keeps the queues if each one does. -/
theorem foldl {α : Type} {f : State → α → State} (hf : ∀ (s : State) (a : α), s.SameQueues (f s a)) (l : List α)
    (s : State) : s.SameQueues (l.foldl f s) := by
  induction l generalizing s with
  | nil => exact refl s
  | cons a l ih => exact (hf s a).trans (ih _)

theorem of_memory (h : s.SameBesideMemory t) : s.SameQueues t := ⟨h.field State.queues, .of_beams h.beams⟩

theorem queue? (h : s.SameQueues t) (num : Nat) : t.queue? num = s.queue? num := by
  rw [State.queue?, h.queues, State.queue?]

end State.SameQueues

/-- A change of every beam that keeps its place. -/
theorem State.keepsPlaces_map {f : Beam → Beam} (hf : ∀ b : Beam, b.SamePlace (f b)) (s : State) :
    s.KeepsPlaces { s with beams := s.beams.map f } := by
  intro k b hb
  have hsame : (fun y : Beam => y.key == k) ∘ f = fun y => y.key == k := by
    funext y
    rw [Function.comp_apply, (hf y).key]
  have hfind : (s.beams.map f).find? (fun y => y.key == k) = (s.beams.find? fun y => y.key == k).map f := by
    rw [List.find?_map, hsame]
  exact ⟨f b, hfind.trans (congrArg (Option.map f) hb), hf b⟩

section
variable (s : State)

theorem State.sameQueues_psctl (core : Nat) (w : DWord) : s.SameQueues (s.psctl core w) := by
  unfold State.psctl
  extract_lets c t en dim keep ctl s'
  have hs : s.SameQueues s' := .of_memory (s.sameBesideMemory_modCore ..)
  have howe (b : Beam) : b.SamePlace (if b.key.core == core then b.oweSync else b) := .ite ⟨rfl, rfl⟩ (.refl b)
  exact .ite (hs.trans ⟨rfl, s'.keepsPlaces_map howe⟩) hs

theorem State.sameQueues_regWrite (core off : Nat) (w : DWord) : s.SameQueues (s.regWrite core off w) := by
  unfold State.regWrite
  split
  · exact .ite (.of_memory (s.sameBesideMemory_modCore ..)) (.of_memory (s.sameBesideMemory_modCore ..))
  · exact .ite (s.sameQueues_psctl core w) (.ite (.of_memory (s.sameBesideMemory_modCore ..))
      (.ite (.of_memory (s.sameBesideMemory_modCore ..)) (.of_memory (s.sameBesideMemory_modCore ..))))

theorem State.sameQueues_pageWrite (pa : Nat) (bs : List Byte) : s.SameQueues (s.pageWrite pa bs) :=
  s.sameQueues_regWrite ..

theorem State.sameQueues_writeBytes (who : Option Nat) (cached : Bool) (pa : Nat) (bs : List Byte) :
    s.SameQueues (s.writeBytes who cached pa bs) := .of_memory (s.sameBesideMemory_writeBytes ..)

theorem State.sameQueues_xlNote (v : Via) (write : Bool) (x : Context) (va : Nat) : s.SameQueues (s.xlNote v write x va) :=
  .of_memory (s.sameBesideMemory_xlNoteAs ..)

theorem State.sameQueues_post (who : Writer) (sys : Bool) (pa : Nat) : s.SameQueues (s.post who sys pa) :=
  .of_memory (s.sameBesideMemory_post ..)

theorem State.sameQueues_flush (who : Writer) (ls : List Nat) : s.SameQueues (s.flush who ls) := by
  obtain ⟨ps, h⟩ := s.flush_only who ls
  rw [h]
  exact ⟨rfl, .of_beams rfl⟩

theorem State.sameQueues_ioUnit (who : Writer) (v : Via) (x : Context) (va : Nat) (bs : List Byte) :
    s.SameQueues (s.ioUnit who v x va bs) := by
  unfold State.ioUnit
  split
  · next pa tier _ _ _ _ =>
    extract_lets t
    have ht : s.SameQueues t := s.sameQueues_writeBytes ..
    exact .ite (.ite (s.sameQueues_pageWrite pa bs) (.refl s))
      (.ite (ht.trans (t.sameQueues_post ..)) (.ite (ht.trans (t.sameQueues_flush ..)) ht))
  · exact .refl s

theorem State.sameQueues_ioWrite (who : Writer) (v : Via) (x : Context) (va : Nat) (bs : List Byte) :
    s.SameQueues (s.ioWrite who v x va bs) := by
  have hunit (t : State) (u : Nat × List Byte) : t.SameQueues (t.ioUnit who v x u.1 u.2) := t.sameQueues_ioUnit who v x u.1 u.2
  unfold State.ioWrite
  generalize unitsOf (bs.length + 1) va bs = us
  exact .foldl hunit us s

theorem State.sameQueues_ioNotes (v : Via) (x : Context) (va n : Nat) (write : Bool) :
    s.SameQueues (s.ioNotes v x va n write) := by
  unfold State.ioNotes
  exact .foldl (fun s a => s.sameQueues_xlNote v write x a) _ s

/-- A beam's write to a global address. -/
theorem State.sameQueues_laneWrite {x : Frag} {k : Acc} (hk : k.spad = false) (a : Nat) (bs : List Byte) :
    s.SameQueues (s.laneWrite x k a bs) := by
  unfold State.laneWrite
  rw [if_neg (ne_true_of_eq_false hk)]
  split
  · exact .refl s
  · next c _ =>
    extract_lets s'
    have hs : s.SameQueues s' := .ite (s.sameQueues_xlNote ..) (.refl s)
    split
    · next pa tier _ _ _ _ =>
      extract_lets t
      have ht : s'.SameQueues t := s'.sameQueues_writeBytes ..
      exact hs.trans (.ite (s'.sameQueues_pageWrite pa bs) (.ite (ht.trans (t.sameQueues_post ..)) ht))
    · exact hs

end

end Sys2Proof.Machine
end

section
/-! Appends to a queue, and LAUNCH (R167, R322, R334 to R336, R340). -/

namespace Sys2Proof.Machine

/-! ### What an append answers -/

/-- The queue with the record `bs` appended. -/
def Queue.append (q : Queue) (bs : List Byte) : Queue :=
  { q with tail := q.tail + 1, recs := (q.recs.filter fun r => decide (q.head < r.1)) ++ [(q.tail + 1, bs)] }

/-- The record as the ring takes it: with its sequence number. -/
def Queue.numbered (q : Queue) (rcd : List Byte) : List Byte := rcd.take 8 ++ natLe 8 (q.tail + 1) ++ rcd.drop 16

/-- The state once the ring's slot and the descriptor have been written (R333, R334). -/
def State.appended (s : State) (num : Nat) (q : Queue) (c : Context) (rcd : List Byte) : State :=
  ((s.ioNotes viaQueue c (q.slot (q.tail + 1)) 64 true).ioWrite (.cmd num (q.tail + 1)) viaQueue c (q.slot (q.tail + 1))
    (q.numbered rcd)).putQueue (q.append (q.numbered rcd))

section
variable {s : State} {device : Bool} {num : Nat} {owned : Queue → Bool} {bs : List Byte}

theorem State.queueAppend_none (h : s.queue? num = none ∨ ∃ q, s.queue? num = some q ∧ owned q = false) :
    s.queueAppend device num owned bs = (s, 2 ^ 63 + 2) := by
  obtain h | ⟨q, h, ho⟩ := h
  · simp only [State.queueAppend, h]
  · simp only [State.queueAppend, h, ho, Bool.not_false, if_true]

variable {q : Queue} {c : Context} (hq : s.queue? num = some q) (ho : owned q = true) (hc : s.context? q.ctx = some c)
include hq ho hc

theorem State.queueAppend_closed (h : q.st = .stopped ∨ q.st = .faulted ∨ (device = true ∧ c.st ≠ .open_)) :
    s.queueAppend device num owned bs = (s, 2 ^ 63 + 3) := by
  by_cases hst : (q.st == .stopped || q.st == .faulted) = true
  · simp only [State.queueAppend, hq, ho, hst, Bool.not_true, Bool.false_eq_true, if_false, if_true]
  · have hclosed : (device && c.st != .open_) = true := by
      simp only [Bool.or_eq_true, beq_iff_eq, not_or] at hst
      simpa [hst] using h
    simp only [State.queueAppend, hq, ho, hc, if_neg hst, hclosed, Bool.not_true, Bool.false_eq_true, if_false, if_true]

/-- A queue that takes records: the record is judged, then the room. -/
theorem State.queueAppend_open (hst : q.st = .running ∨ q.st = .blocked) (hopen : device = true → c.st = .open_) :
    s.queueAppend device num owned bs =
      if recordValid bs = false then (s, 2 ^ 63 + 4)
      else if q.size ≤ q.tail - q.head then (s, 2 ^ 63 + 1) else (s.appended num q c bs, q.tail + 1) := by
  have hruns : (q.st == .stopped || q.st == .faulted) = false := by
    obtain hst | hst := hst <;> rw [hst] <;> rfl
  have hcontext : (device && c.st != .open_) = false := by simpa using hopen
  simp only [State.queueAppend, hq, ho, hc, hruns, hcontext, Bool.not_true, Bool.not_eq_true', Bool.false_eq_true, if_false,
    ge_iff_le]
  rfl

end

section
variable (s : State) (num : Nat) (q : Queue) (c : Context) (rcd : List Byte)

theorem State.sameQueues_appendWrites :
    s.SameQueues ((s.ioNotes viaQueue c (q.slot (q.tail + 1)) 64 true).ioWrite (.cmd num (q.tail + 1)) viaQueue c
      (q.slot (q.tail + 1)) (q.numbered rcd)) :=
  (s.sameQueues_ioNotes ..).trans (State.sameQueues_ioWrite ..)

/-- An append replaces its queue's record alone. -/
theorem State.queue?_appended (i : Nat) :
    (s.appended num q c rcd).queue? i =
      if q.num = i then (s.queue? i).map fun _ => q.append (q.numbered rcd) else s.queue? i := by
  have hwrites := (s.sameQueues_appendWrites num q c rcd).queue? i
  unfold State.appended State.putQueue
  rw [(State.sameQueues_writeBytes _ none false _ _).queue? i, State.queue?_setQueue, hwrites]
  rfl

theorem State.appended_keepsPlaces : s.KeepsPlaces (s.appended num q c rcd) := by
  have hwrites := (s.sameQueues_appendWrites num q c rcd).places
  have hqueue (t : State) (q : Queue) : t.KeepsPlaces (t.putQueue q) :=
    State.KeepsPlaces.trans (t := t.setQueue q) (.of_beams rfl) (State.sameQueues_writeBytes ..).places
  exact hwrites.trans (hqueue _ _)

end

/-- An append leaves the state as it was, or appends to a queue. -/
theorem State.queueAppend_cases (s : State) (device : Bool) (num : Nat) (owned : Queue → Bool) (bs : List Byte) :
    (s.queueAppend device num owned bs).1 = s ∨
      ∃ q c, (s.queueAppend device num owned bs).1 = s.appended num q c bs := by
  cases hq : s.queue? num with
  | none => exact .inl (by rw [State.queueAppend_none (.inl hq)])
  | some q =>
    cases ho : owned q with
    | false => exact .inl (by rw [State.queueAppend_none (.inr ⟨q, hq, ho⟩)])
    | true =>
      cases hc : s.context? q.ctx with
      | none =>
        refine .inl ?_
        simp only [State.queueAppend, hq, ho, hc, Bool.not_true, Bool.false_eq_true, if_false]
        split <;> rfl
      | some c =>
        by_cases hclosed : q.st = .stopped ∨ q.st = .faulted ∨ (device = true ∧ c.st ≠ .open_)
        · exact .inl (by rw [State.queueAppend_closed hq ho hc hclosed])
        · have hst : q.st = .running ∨ q.st = .blocked := by
            cases hst : q.st <;> simp_all
          have hopen (hd : device = true) : c.st = .open_ := by
            by_contra hne
            exact hclosed (.inr (.inr ⟨hd, hne⟩))
          rw [State.queueAppend_open hq ho hc hst hopen]
          split
          · exact .inl rfl
          · split
            · exact .inl rfl
            · dsimp only
              exact .inr ⟨q, c, rfl⟩

theorem State.queueAppend_keepsPlaces (s : State) (device : Bool) (num : Nat) (owned : Queue → Bool) (bs : List Byte) :
    s.KeepsPlaces (s.queueAppend device num owned bs).1 := by
  obtain h | ⟨q, c, h⟩ := s.queueAppend_cases device num owned bs
  · rw [h]
    exact .refl s
  · rw [h]
    exact s.appended_keepsPlaces num q c bs

/-- TAIL counts the record, which stands in the ring's copy under its number; no other queue has changed. -/
theorem State.appended_spec {s : State} {num : Nat} {q : Queue} (hq : s.queue? num = some q) (c : Context)
    (bs : List Byte) :
    (∃ rs, (s.appended num q c bs).queue? num = some { q with tail := q.tail + 1, recs := rs } ∧
      (q.tail + 1, bs.take 8 ++ natLe 8 (q.tail + 1) ++ bs.drop 16) ∈ rs) ∧
    ∀ n, n ≠ num → (s.appended num q c bs).queue? n = s.queue? n := by
  have hnum : q.num = num := by simpa using List.find?_some hq
  refine ⟨⟨(q.append (q.numbered bs)).recs, ?_, List.mem_append_right _ (List.mem_singleton_self _)⟩, fun n hn => ?_⟩
  · rw [State.queue?_appended, if_pos hnum, hq, Option.map_some]
    rfl
  · rw [State.queue?_appended, if_neg fun h => hn (h.symm.trans hnum)]

/-! ### LAUNCH -/

section
variable {s : State} {x : Frag} {d : Reg} {a b : SArg}
  (h : Clear s x (plain (dstS d ++ SArg.uses 1 a ++ SArg.uses 2 b)))
include h

theorem launch_absent (ha : Fmt.isAbsent .n64 (x.sval a) = true ∨ Fmt.isAbsent .n64 (x.sval b) = true) :
    Goes s x (.launch d a b) (s.setBeam (x.putS d (Fmt.absent .n64))) :=
  goes_of_putS h rfl (if_pos (by simpa using ha))

variable (hq : Fmt.isAbsent .n64 (x.sval a) = false) (hp : Fmt.isAbsent .n64 (x.sval b) = false)
include hq hp

theorem launch_traps {tr : Trap}
    (htr : x.memTrap launchAcc (s.laneFaults x launchAcc [(x.lead, (x.sval b : Int))]) = some tr) :
    Traps s x (.launch d a b) tr :=
  traps_of_trap h rfl ((if_neg (by rw [hq, hp]; decide)).trans (by simp only [State.access, htr]))

theorem launch_appends (hpass : Passes s x launchAcc [(x.lead, (x.sval b : Int))]) :
    let r := (s.notes x launchAcc [(x.lead, (x.sval b : Int))]).queueAppend true (x.sval a)
      (fun y => decide (x.sval a ≤ 8191) && some y.ctx == (s.kernelOf x.b).map (·.ctx))
      (s.laneRead x launchAcc (2 ^ 512 - 1) (x.sval b))
    ∃ y, r.1.beam? x.b.key = some y ∧
      Goes s x (.launch d a b) (r.1.setBeam (y.putS x.lead d.toNat (BitVec.ofNat 64 r.2))) := by
  intro r
  have hplaces : s.KeepsPlaces r.1 :=
    State.KeepsPlaces.trans (s.notes_keepsPlaces x launchAcc _) (State.queueAppend_keepsPlaces _ _ _ _ _)
  obtain ⟨y, hy, -⟩ := hplaces _ _ (State.frag_beam h.frag)
  refine ⟨y, hy, goes_of_keepsPlaces h rfl ?_ (hplaces.trans (.setBeam hy (y.samePlace_putS ..)))⟩
  refine (if_neg (by rw [hq, hp]; decide)).trans ((State.access_of_passes hpass _ _).trans ?_)
  have hbeam : State.beam? (State.queueAppend (s.notes x launchAcc [(x.lead, (x.sval b : Int))]) true (x.sval a)
      (fun y => decide (x.sval a ≤ 8191) && some y.ctx == (s.kernelOf x.b).map (·.ctx))
      (s.laneRead x launchAcc (2 ^ 512 - 1) (x.sval b))).1 x.b.key = some y := hy
  simp only [hbeam]
  rfl

end

/-- Settles O38: LAUNCH by its access and the append, an append by the first check that the queue fails. -/
theorem launchAndAppends : Obligations.LaunchAndAppends := by
  refine ⟨fun s x d a b h => ⟨launch_absent h, fun hq hp => ⟨fun tr => launch_traps h hq hp, launch_appends h hq hp⟩⟩,
    fun s device num owned bs => ⟨fun q hq ho c hc =>
      ⟨State.queueAppend_closed hq ho hc, fun hst hopen => ?takes⟩, State.queueAppend_none⟩⟩
  case takes =>
    rw [State.queueAppend_open hq ho hc hst hopen]
    refine ⟨fun hbad => if_pos hbad, fun hok hfull => ?_, fun hok hroom => ?_⟩
    · rw [if_neg (by simp [hok]), if_pos hfull]
    · rw [if_neg (by simp [hok]), if_neg (Nat.not_le.mpr hroom)]
      dsimp only
      exact ⟨rfl, State.appended_spec hq c bs⟩

end Sys2Proof.Machine
end

section
/-! CHUNK (R154 to R156). -/

namespace Sys2Proof.Machine

theorem chunkClaim_none {nx en mn dv : Nat} (h : [nx, en, mn, dv].any (Fmt.isAbsent .n32) = true ∨ en ≤ nx) :
    chunkClaim nx en mn dv = none :=
  if_pos (by rw [Bool.or_eq_true, decide_eq_true_eq]; exact h)

theorem chunkClaim_some {nx en mn dv : Nat} (h : [nx, en, mn, dv].any (Fmt.isAbsent .n32) = false) (hlt : nx < en) :
    chunkClaim nx en mn dv = some (nx, min (en - nx) (max (max mn 1) ((en - nx) / max dv 1))) :=
  if_neg (by rw [h, Bool.false_or, decide_eq_true_eq]; omega)

/-- The access of an address in a scalar register: of the leading lane, and none where it is absent. -/
theorem Frag.single_reg (x : Frag) (a : Reg) : x.single false (.uni ⟨a, false⟩ none) =
    if Fmt.isAbsent .n64 (x.b.sreg a.toNat).toNat then [] else [(x.lead, ((x.b.sreg a.toNat).toNat : Int))] := by
  have hdisp : dispOf none = 0 := rfl
  simp only [Frag.single, Frag.addr, Frag.sval, hdisp, Int.add_zero]
  split <;> rfl

/-- The two answers of CHUNK, on their way to s[D] and s[D + 1]. -/
def State.chunkAnswers (u : State) (x : Frag) (d : Reg) (ready : Arrival) (lo hi : Nat) : State :=
  (u.sendS x .s64 d lo ready).sendS x .s64 (d + 1) hi ready

theorem State.chunkAnswers_keepsPlaces (u : State) {x : Frag} {d : Reg} {ready : Arrival} {lo hi : Nat} :
    u.KeepsPlaces (u.chunkAnswers x d ready lo hi) :=
  State.KeepsPlaces.trans (u.sendS_keepsPlaces x .s64 d lo ready none) (State.sendS_keepsPlaces _ x .s64 (d + 1) hi ready none)

section
variable {s : State} {x : Frag} {d a : Reg}
  (h : Clear s x { priv := false, noGlint := false, uses := regUses .s d true 0 true false ++ regUses .s a false 1 false false })
include h

theorem chunk_absent (ha : Fmt.isAbsent .n64 (x.b.sreg a.toNat).toNat = true) :
    Goes s x (.chunk d a) (s.chunkAnswers x d (s.loadReady x chunkAcc []) (Fmt.absent .s64) (Fmt.absent .s64)) := by
  refine goes_of_keepsPlaces h rfl ?_ s.chunkAnswers_keepsPlaces
  simp only [Frag.single_reg, ha, if_true]
  rfl

variable (ha : Fmt.isAbsent .n64 (x.b.sreg a.toNat).toNat = false)
include ha

theorem chunk_traps {tr : Trap}
    (htr : x.memTrap chunkAcc (s.laneFaults x chunkAcc [(x.lead, ((x.b.sreg a.toNat).toNat : Int))]) = some tr) :
    Traps s x (.chunk d a) tr := by
  refine traps_of_trap h rfl ?_
  simp only [Frag.single_reg, ha, Bool.false_eq_true, if_false, State.access, htr]

variable (hpass : Passes s x chunkAcc [(x.lead, ((x.b.sreg a.toNat).toNat : Int))]) {claim : Option (Nat × Nat)}
  (hclaim :
    let f := fun j => leNat (((s.laneRead x chunkAcc 0 (x.b.sreg a.toNat).toNat).drop (4 * j)).take 4)
    chunkClaim (f 0) (f 1) (f 2) (f 3) = claim)
include hpass hclaim

/-- A counter that gives nothing is left as it was. -/
theorem chunk_usedUp (hnone : claim = none) :
    Goes s x (.chunk d a) ((s.laneNote x chunkAcc (x.b.sreg a.toNat).toNat).chunkAnswers x d
      (s.loadReady x chunkAcc [(x.lead, ((x.b.sreg a.toNat).toNat : Int))]) (Fmt.absent .s64) (Fmt.absent .s64)) := by
  subst hnone
  refine goes_of_keepsPlaces h rfl ?_
    (State.KeepsPlaces.trans (s.laneNote_keepsPlaces x chunkAcc _) (State.chunkAnswers_keepsPlaces _))
  simp only [Frag.single_reg, ha, Bool.false_eq_true, if_false, State.access_of_passes hpass, Int.toNat_natCast, hclaim]
  rfl

/-- A claim moves NEXT behind it. -/
theorem chunk_claims {lo len : Nat} (hsome : claim = some (lo, len)) :
    Goes s x (.chunk d a) (((s.laneNote x chunkAcc (x.b.sreg a.toNat).toNat).laneWrite x chunkAcc (x.b.sreg a.toNat).toNat
      (natLe 4 (lo + len))).chunkAnswers x d
        (s.loadReady x chunkAcc [(x.lead, ((x.b.sreg a.toNat).toNat : Int))]) lo len) := by
  subst hsome
  have hwrite := State.sameQueues_laneWrite (s.laneNote x chunkAcc (x.b.sreg a.toNat).toNat) (x := x) (k := chunkAcc) rfl
    (x.b.sreg a.toNat).toNat (natLe 4 (lo + len))
  refine goes_of_keepsPlaces h rfl ?_
    (State.KeepsPlaces.trans (State.KeepsPlaces.trans (s.laneNote_keepsPlaces x chunkAcc _) hwrite.places)
      (State.chunkAnswers_keepsPlaces _))
  simp only [Frag.single_reg, ha, Bool.false_eq_true, if_false, State.access_of_passes hpass, Int.toNat_natCast, hclaim]
  rfl

end

end Sys2Proof.Machine
end

section
/-! The tag table (R242, R243, R365): what the operations do to a set of four ways, and how a set is written back. -/

namespace Sys2Proof.Machine

/-! ### A set of ways -/

/-- A way's fields fit the bits that an entry has for them. -/
def TagEntry.Fits (e : TagEntry) : Prop := e.age < 4 ∧ e.tag < 2 ^ 48

theorem TagEntry.ofNat_fits (x : Nat) : (TagEntry.ofNat x).Fits :=
  ⟨Nat.mod_lt _ (by decide), Nat.mod_lt _ (by decide)⟩

/-- An entry is read as it was written, whatever stands in its reserved bits. -/
theorem TagEntry.ofNat_written {e : TagEntry} (h : e.Fits) (old : Nat) :
    TagEntry.ofNat ((e.toNat + bits old 48 13 * 2 ^ 48) % 256 ^ 8) = e := by
  obtain ⟨v, age, tag⟩ := e
  obtain ⟨hage, htag⟩ := h
  have hold : bits old 48 13 < 2 ^ 13 := Nat.mod_lt _ (by decide)
  generalize bits old 48 13 = r at hold
  dsimp only at hage htag
  have hv : (TagEntry.ofNat (((TagEntry.mk v age tag).toNat + r * 2 ^ 48) % 256 ^ 8)).v = v := by
    cases v <;> simp only [TagEntry.ofNat, TagEntry.toNat, bits, Bool.false_eq_true, if_true, if_false, beq_iff_eq,
      beq_eq_false_iff_ne] <;> omega
  have hrest : bits (((TagEntry.mk v age tag).toNat + r * 2 ^ 48) % 256 ^ 8) 61 2 = age ∧
      bits (((TagEntry.mk v age tag).toNat + r * 2 ^ 48) % 256 ^ 8) 0 48 = tag := by
    cases v <;> simp only [TagEntry.toNat, bits, Bool.false_eq_true, if_true, if_false] <;> omega
  rw [TagEntry.mk.injEq]
  exact ⟨hv, hrest⟩

theorem tagTouch_length (ws : List TagEntry) (w : Nat) : (tagTouch ws w).length = ws.length := by
  simp only [tagTouch, List.length_map, List.length_zipIdx]

/-- A touched way is the youngest, and the others keep their tags. -/
theorem getElem?_tagTouch (ws : List TagEntry) (w j : Nat) : (tagTouch ws w)[j]? = ws[j]?.map fun e =>
    if j == w then { e with age := 0 }
    else if e.v && decide (e.age < (ws.getD w ⟨false, 0, 0⟩).age) then { e with age := e.age + 1 } else e := by
  simp only [tagTouch, List.getElem?_map, List.getElem?_zipIdx, Option.map_map, Nat.zero_add]
  rfl

theorem TagEntry.getD_fits {ws : List TagEntry} (h : ∀ e ∈ ws, e.Fits) (w : Nat) : (ws.getD w ⟨false, 0, 0⟩).Fits := by
  rw [List.getD_eq_getElem?_getD]
  cases hw : ws[w]? with
  | none => exact ⟨by decide, by decide⟩
  | some e => exact h e (List.mem_of_getElem? hw)

theorem tagTouch_fits {ws : List TagEntry} (h : ∀ e ∈ ws, e.Fits) (w : Nat) : ∀ e ∈ tagTouch ws w, e.Fits := by
  intro e he
  obtain ⟨j, hj⟩ := List.mem_iff_getElem?.mp he
  rw [getElem?_tagTouch, Option.map_eq_some_iff] at hj
  obtain ⟨y, hy, rfl⟩ := hj
  obtain ⟨hage, htag⟩ := h y (List.mem_of_getElem? hy)
  obtain ⟨hold, -⟩ := TagEntry.getD_fits h w
  split
  · exact ⟨Nat.zero_lt_succ 3, htag⟩
  · split
    · next holder =>
      rw [Bool.and_eq_true, decide_eq_true_eq] at holder
      exact ⟨by dsimp only; omega, htag⟩
    · exact ⟨hage, htag⟩

theorem set_fits {ws : List TagEntry} (h : ∀ e ∈ ws, e.Fits) {e : TagEntry} (he : e.Fits) (w : Nat) :
    ∀ y ∈ ws.set w e, y.Fits := by
  intro y hy
  obtain hy | rfl := List.mem_or_eq_of_mem_set hy
  · exact h y hy
  · exact he

theorem TagEntry.Fits.withAge {e : TagEntry} (h : e.Fits) (v : Bool) {age : Nat} (hage : age < 4) :
    ({ e with v := v, age := age } : TagEntry).Fits := ⟨hage, h.2⟩

/-! ### TLOOK, TINS and TDEL on a set -/

section
variable {ws : List TagEntry} {tag : Nat}

theorem tagLook_hit {w : Nat} (hh : tagHit ws tag = some w) : tagLook ws tag = (tagTouch ws w, some w) := by
  simp only [tagLook, hh]

theorem tagIns_hit {w : Nat} (hh : tagHit ws tag = some w) : tagIns ws tag = (tagTouch ws w, some w) := by
  simp only [tagIns, hh]

theorem tagDel_hit {w : Nat} (hh : tagHit ws tag = some w) :
    tagDel ws tag = (ws.set w { ws.getD w ⟨false, 0, 0⟩ with v := false, age := 0 }, some w) := by
  simp only [tagDel, hh]

theorem tagLook_miss (hm : tagHit ws tag = none) : tagLook ws tag = (ws, none) := by simp only [tagLook, hm]

theorem tagDel_miss (hm : tagHit ws tag = none) : tagDel ws tag = (ws, none) := by simp only [tagDel, hm]

/-- The set that TINS ages: an invalid victim counts as the oldest. -/
def tagAged (ws : List TagEntry) : List TagEntry :=
  if (ws.getD (tagVictim ws) ⟨false, 0, 0⟩).v then ws
  else ws.set (tagVictim ws) { ws.getD (tagVictim ws) ⟨false, 0, 0⟩ with age := 3 }

theorem tagIns_miss (hm : tagHit ws tag = none) : tagIns ws tag =
    ((tagTouch (tagAged ws) (tagVictim ws)).set (tagVictim ws) { v := true, age := 0, tag := tag }, some (tagVictim ws)) := by
  simp only [tagIns, hm, tagAged]

theorem tagAged_length : (tagAged ws).length = ws.length := by
  unfold tagAged
  split
  · rfl
  · exact List.length_set

theorem tagHit_lt {w : Nat} (hh : tagHit ws tag = some w) : w < ws.length :=
  (List.findIdx?_eq_some_iff_getElem.mp hh).1

/-- The first invalid way, where there is one. -/
theorem tagVictim_invalid {w : Nat} {e : TagEntry} (hw : ws[w]? = some e) (hv : e.v = false)
    (hfirst : ∀ j, j < w → ∀ e', ws[j]? = some e' → e'.v = true) : tagVictim ws = w := by
  have hfind : (ws.findIdx? fun e => !e.v) = some w := by
    obtain ⟨hlt, rfl⟩ := List.getElem?_eq_some_iff.mp hw
    refine List.findIdx?_eq_some_iff_getElem.mpr ⟨hlt, by rw [hv, Bool.not_false], fun j hj => ?_⟩
    rw [hfirst j hj _ (List.getElem?_eq_getElem (hj.trans hlt))]
    decide
  simp only [tagVictim, hfind]

theorem tagVictim_valid (hv : ∀ e ∈ ws, e.v = true) :
    tagVictim ws = (ws.findIdx? fun e => e.age == (ws.map (·.age)).foldl max 0).getD 0 := by
  have hnone : (ws.findIdx? fun e => !e.v) = none := by
    rw [List.findIdx?_eq_none_iff]
    exact fun e he => by rw [hv e he, Bool.not_true]
  simp only [tagVictim, hnone]

/-- A greatest element is the fold of `max`. -/
theorem foldl_max_of_greatest {l : List Nat} {m : Nat} (hm : m ∈ l) (hle : ∀ n ∈ l, n ≤ m) : l.foldl max 0 = m := by
  have hmax : (0 :: l).max? = some m :=
    List.max?_eq_some_iff.mpr ⟨List.mem_cons_of_mem 0 hm, List.forall_mem_cons.mpr ⟨Nat.zero_le m, hle⟩⟩
  exact Option.some.inj (List.max?_cons'.symm.trans hmax)

/-- The oldest way, the lowest of those, where all are valid. -/
theorem tagVictim_oldest (hv : ∀ e ∈ ws, e.v = true) {w : Nat} {e : TagEntry} (hw : ws[w]? = some e)
    (hold : ∀ j e', ws[j]? = some e' → e'.age ≤ e.age ∧ (j < w → e'.age < e.age)) : tagVictim ws = w := by
  have hmax : (ws.map (·.age)).foldl max 0 = e.age := by
    refine foldl_max_of_greatest (List.mem_map_of_mem (List.mem_of_getElem? hw)) fun n hn => ?_
    obtain ⟨y, hy, rfl⟩ := List.mem_map.mp hn
    obtain ⟨j, hj⟩ := List.mem_iff_getElem?.mp hy
    exact (hold j y hj).1
  obtain ⟨hlt, rfl⟩ := List.getElem?_eq_some_iff.mp hw
  have hfind : (ws.findIdx? fun y => y.age == ws[w].age) = some w := by
    refine List.findIdx?_eq_some_iff_getElem.mpr ⟨hlt, beq_self_eq_true _, fun j hj => ?_⟩
    have hyounger := (hold j _ (List.getElem?_eq_getElem (hj.trans hlt))).2 hj
    simp only [beq_iff_eq]
    omega
  rw [tagVictim_valid hv, hmax, hfind, Option.getD_some]

theorem tagVictim_lt (hne : ws ≠ []) : tagVictim ws < ws.length := by
  have hfound {p : TagEntry → Bool} {w : Nat} (h : ws.findIdx? p = some w) : w < ws.length :=
    (List.findIdx?_eq_some_iff_getElem.mp h).1
  unfold tagVictim
  split
  · next w hw => exact hfound hw
  · cases ho : ws.findIdx? fun e => e.age == (ws.map (·.age)).foldl max 0 with
    | none => exact List.length_pos_iff.mpr hne
    | some w => exact hfound ho

/-- The way that TINS fills holds the tag, as the youngest. -/
theorem tagIns_fills (hm : tagHit ws tag = none) (hne : ws ≠ []) :
    ((tagIns ws tag).1)[tagVictim ws]? = some { v := true, age := 0, tag := tag } := by
  rw [tagIns_miss hm]
  exact List.getElem?_set_self (by rw [tagTouch_length, tagAged_length]; exact tagVictim_lt hne)

theorem tagLook_youngest {w : Nat} (hh : tagHit ws tag = some w) :
    (((tagLook ws tag).1)[w]?).map (·.age) = some 0 := by
  rw [tagLook_hit hh, getElem?_tagTouch, List.getElem?_eq_getElem (tagHit_lt hh)]
  simp

theorem tagDel_invalid {w : Nat} (hh : tagHit ws tag = some w) :
    (((tagDel ws tag).1)[w]?).map (·.v) = some false := by
  rw [tagDel_hit hh, List.getElem?_set_self (tagHit_lt hh)]
  rfl

end

/-! ### What an operation leaves of a set -/

/-- An operation leaves four ways whose fields fit. -/
def KeepsWays (f : List TagEntry → Nat → List TagEntry × Option Nat) : Prop :=
  ∀ ws tag, ws.length = 4 → (∀ e ∈ ws, e.Fits) → tag < 2 ^ 48 →
    (f ws tag).1.length = 4 ∧ ∀ e ∈ (f ws tag).1, e.Fits

theorem tagLook_keepsWays : KeepsWays tagLook := by
  intro ws tag hlen hfits htag
  cases hh : tagHit ws tag with
  | some w => rw [tagLook_hit hh]; exact ⟨(tagTouch_length ws w).trans hlen, tagTouch_fits hfits w⟩
  | none => rw [tagLook_miss hh]; exact ⟨hlen, hfits⟩

theorem tagAged_fits {ws : List TagEntry} (h : ∀ e ∈ ws, e.Fits) : ∀ e ∈ tagAged ws, e.Fits := by
  unfold tagAged
  split
  · exact h
  · exact set_fits h ((TagEntry.getD_fits h _).withAge _ (Nat.lt_succ_self 3)) _

theorem tagIns_keepsWays : KeepsWays tagIns := by
  intro ws tag hlen hfits htag
  cases hh : tagHit ws tag with
  | some w => rw [tagIns_hit hh]; exact ⟨(tagTouch_length ws w).trans hlen, tagTouch_fits hfits w⟩
  | none =>
    rw [tagIns_miss hh]
    exact ⟨by rw [List.length_set, tagTouch_length, tagAged_length, hlen],
      set_fits (tagTouch_fits (tagAged_fits hfits) _) ⟨Nat.zero_lt_succ 3, htag⟩ _⟩

theorem tagDel_keepsWays : KeepsWays tagDel := by
  intro ws tag hlen hfits htag
  cases hh : tagHit ws tag with
  | some w =>
    rw [tagDel_hit hh]
    exact ⟨List.length_set.trans hlen, set_fits hfits ((TagEntry.getD_fits hfits w).withAge false (Nat.zero_lt_succ 3)) w⟩
  | none => rw [tagDel_miss hh]; exact ⟨hlen, hfits⟩

/-! ### A set is written back (R365) -/

/-- Way `w` of the set at offset `a`, written where it has changed and is no barrier's. -/
def Cohort.putWay (a : Nat) (ws rs : List TagEntry) (c : Cohort) (w : Nat) : Cohort :=
  if rs.getD w ⟨false, 0, 0⟩ == ws.getD w ⟨false, 0, 0⟩ || c.tagged (a + 8 * w) then c
  else c.putNat (a + 8 * w) 8 ((rs.getD w ⟨false, 0, 0⟩).toNat + bits (c.nat (a + 8 * w) 8) 48 13 * 2 ^ 48)

/-- The first `n` ways, written back. -/
def Cohort.putWays (c : Cohort) (a : Nat) (ws rs : List TagEntry) (n : Nat) : Cohort :=
  (List.range n).foldl (Cohort.putWay a ws rs) c

section
variable (c : Cohort) (a : Nat) (ws rs : List TagEntry)

theorem Cohort.putWay_cases (w : Nat) : c.putWay a ws rs w = c ∨ ∃ v, c.putWay a ws rs w = c.putNat (a + 8 * w) 8 v := by
  unfold Cohort.putWay
  split
  · exact .inl rfl
  · exact .inr ⟨_, rfl⟩

theorem Cohort.putWays_succ (n : Nat) : c.putWays a ws rs (n + 1) = (c.putWays a ws rs n).putWay a ws rs n := by
  simp only [Cohort.putWays, List.range_succ, List.foldl_append, List.foldl_cons, List.foldl_nil]

theorem Cohort.byte_putWay (w o : Nat) (ho : o < a + 8 * w ∨ a + 8 * (w + 1) ≤ o) :
    (c.putWay a ws rs w).byte o = c.byte o := by
  obtain h | ⟨v, h⟩ := c.putWay_cases a ws rs w
  · rw [h]
  · rw [h, Cohort.putNat]
    exact c.byte_put_other _ _ _ (by rw [natLe_length]; omega)

theorem Cohort.putWay_key_tags (w : Nat) : (c.putWay a ws rs w).key = c.key ∧ (c.putWay a ws rs w).tags = c.tags := by
  obtain h | ⟨v, h⟩ := c.putWay_cases a ws rs w
  · rw [h]; exact ⟨rfl, rfl⟩
  · rw [h]; exact ⟨rfl, rfl⟩

theorem Cohort.putWays_key_tags (n : Nat) :
    (c.putWays a ws rs n).key = c.key ∧ (c.putWays a ws rs n).tags = c.tags := by
  induction n with
  | zero => exact ⟨rfl, rfl⟩
  | succ n ih =>
    rw [Cohort.putWays_succ]
    obtain ⟨hkey, htags⟩ := Cohort.putWay_key_tags (c.putWays a ws rs n) a ws rs n
    exact ⟨hkey.trans ih.1, htags.trans ih.2⟩

/-- No byte outside the ways changes. -/
theorem Cohort.byte_putWays (n o : Nat) (ho : o < a ∨ a + 8 * n ≤ o) : (c.putWays a ws rs n).byte o = c.byte o := by
  induction n with
  | zero => rfl
  | succ n ih =>
    rw [Cohort.putWays_succ, Cohort.byte_putWay _ _ _ _ _ _ (by omega)]
    exact ih (by omega)

theorem Cohort.nat_congr {c c' : Cohort} {off n : Nat} (h : ∀ j, j < n → c'.byte (off + j) = c.byte (off + j)) :
    c'.nat off n = c.nat off n := by
  rw [Cohort.nat, Cohort.nat, Cohort.bytes_eq, Cohort.bytes_eq]
  exact congrArg leNat (List.map_congr_left fun j hj => h j (List.mem_range.mp hj))

variable {c a ws rs}

/-- A way of a set that is no barrier's reads as the operation leaves it. -/
theorem Cohort.ofNat_putWay {w : Nat} (hws : ws.getD w ⟨false, 0, 0⟩ = TagEntry.ofNat (c.nat (a + 8 * w) 8))
    (hrs : (rs.getD w ⟨false, 0, 0⟩).Fits) (ht : c.tagged (a + 8 * w) = false) :
    TagEntry.ofNat ((c.putWay a ws rs w).nat (a + 8 * w) 8) = rs.getD w ⟨false, 0, 0⟩ := by
  unfold Cohort.putWay
  split
  · next hsame =>
    rw [ht, Bool.or_false, beq_iff_eq] at hsame
    rw [← hws, hsame]
  · rw [Cohort.putNat, Cohort.nat_put_natLe, TagEntry.ofNat_written hrs]

theorem Cohort.ofNat_putWays {n : Nat} (hws : ∀ w, w < n → ws.getD w ⟨false, 0, 0⟩ = TagEntry.ofNat (c.nat (a + 8 * w) 8))
    (hrs : ∀ e ∈ rs, e.Fits) (ht : ∀ w, w < n → c.tagged (a + 8 * w) = false) {w : Nat} (hw : w < n) :
    TagEntry.ofNat ((c.putWays a ws rs n).nat (a + 8 * w) 8) = rs.getD w ⟨false, 0, 0⟩ := by
  induction n with
  | zero => exact absurd hw (Nat.not_lt_zero w)
  | succ n ih =>
    rw [Cohort.putWays_succ]
    by_cases hlast : w = n
    · subst hlast
      have hbefore : (c.putWays a ws rs w).nat (a + 8 * w) 8 = c.nat (a + 8 * w) 8 :=
        Cohort.nat_congr fun j _ => c.byte_putWays a ws rs w _ (by omega)
      refine Cohort.ofNat_putWay (by rw [hbefore]; exact hws w hw) (TagEntry.getD_fits hrs w) ?_
      rw [Cohort.tagged, (c.putWays_key_tags a ws rs w).2]
      exact ht w hw
    · rw [Cohort.nat_congr fun j hj => Cohort.byte_putWay _ a ws rs n _ (by omega)]
      exact ih (fun v hv => hws v (by omega)) (fun v hv => ht v (by omega)) (by omega)

/-- A barrier's granule keeps its bytes. -/
theorem Cohort.putWays_tagged {n : Nat} (ht : ∀ w, w < n → c.tagged (a + 8 * w) = true) : c.putWays a ws rs n = c := by
  induction n with
  | zero => rfl
  | succ n ih =>
    rw [Cohort.putWays_succ, ih fun w hw => ht w (by omega), Cohort.putWay, ht n (Nat.lt_succ_self n), Bool.or_true,
      if_pos rfl]

end

/-- The four ways of a set lie in one granule. -/
theorem Cohort.tagged_way (c : Cohort) {a w : Nat} (ha : a % 32 = 0) (hw : w < 4) :
    c.tagged (a + 8 * w) = c.tagged a := by
  rw [Cohort.tagged, Cohort.tagged, show (a + 8 * w) / 32 = a / 32 by omega]

/-! ### TLOOK, TINS and TDEL -/

section
variable {s : State} {x : Frag} {d a : Reg} {i : Instr} {f : List TagEntry → Nat → List TagEntry × Option Nat}
  (h : Clear s x { priv := false, noGlint := false, uses := dstS d ++ regUses .s a false 1 false false })
  (hi : exec i s = s.tagOp d a f)
include h hi

theorem tagOp_traps (ht : s.tagSets x.b = 0) :
    Traps s x i { group := gSPACE, code := 4, lanes := none, x := 0, y := 0, z := x.op * 256 } :=
  traps_of_trap h hi (if_pos (by rw [ht]; rfl))

variable {c : Cohort} (hc : s.cohort? x.b.cohort = some c) (ht : s.tagSets x.b ≠ 0)
include hc ht

theorem tagOp_absent (htag : 2 ^ 48 ≤ (x.b.sreg a.toNat).toNat) :
    Goes s x i (s.sendS x .n64 d (Fmt.absent .n64) { s.within x.core 20 with units := [2] }) := by
  refine goes_of_keepsPlaces h hi ?_ (s.sendS_keepsPlaces x _ _ _ _ _)
  refine (if_neg (by simpa using ht)).trans ?_
  simp only [hc, ge_iff_le, htag, if_true]

/-- The set is read, the operation's ways are written back, and its answer is on its way. -/
theorem tagOp_answers (htag : (x.b.sreg a.toNat).toNat < 2 ^ 48) :
    let t := s.tagSets x.b
    let tag := (x.b.sreg a.toNat).toNat
    let at_ := c.wsize - 32 * t + 32 * (tag % t)
    let ws := (List.range 4).map fun w => TagEntry.ofNat (c.nat (at_ + 8 * w) 8)
    Goes s x i ((s.setCohort (c.putWays at_ ws (f ws tag).1 4)).sendS x .n64 d
      (match (f ws tag).2 with | some w => 4 * (tag % t) + w | none => Fmt.absent .n64)
      { s.within x.core 20 with units := [2] }) := by
  intro t tag at_ ws
  have hcohort (c' : Cohort) : s.KeepsPlaces (s.setCohort c') := .of_beams rfl
  refine goes_of_keepsPlaces h hi ?_ ((hcohort _).trans (State.sendS_keepsPlaces _ x _ _ _ _ _))
  refine (if_neg (by simpa using ht)).trans ?_
  simp only [hc, ge_iff_le, Nat.not_le.mpr htag, if_false]
  rfl

/-- What the operation leaves of the window: no byte outside its set, a barrier's granule as it was, and else the four ways
that the operation gives. -/
theorem tagOp_spec (hf : KeepsWays f) (htag : (x.b.sreg a.toNat).toNat < 2 ^ 48) :
    let t := s.tagSets x.b
    let tag := (x.b.sreg a.toNat).toNat
    let at_ := fun w : Nat => c.wsize - 32 * t + 32 * (tag % t) + 8 * w
    let r := f ((List.range 4).map fun w => TagEntry.ofNat (c.nat (at_ w) 8)) tag
    ∃ c', c'.key = c.key ∧ (∀ o, o < at_ 0 ∨ at_ 4 ≤ o → c'.byte o = c.byte o) ∧
      (c.wsize % 32 = 0 → 32 * t ≤ c.wsize →
        if c.tagged (at_ 0) then ∀ o, c'.byte o = c.byte o
        else ∀ w, w < 4 → TagEntry.ofNat (c'.nat (at_ w) 8) = r.1.getD w ⟨false, 0, 0⟩) ∧
      Goes s x i ((s.setCohort c').sendS x .n64 d (match r.2 with | some w => 4 * (tag % t) + w | none => Fmt.absent .n64)
        { s.within x.core 20 with units := [2] }) := by
  intro t tag at_ r
  let ws := (List.range 4).map fun w => TagEntry.ofNat (c.nat (at_ w) 8)
  have hread (w : Nat) (hw : w < 4) : ws.getD w ⟨false, 0, 0⟩ = TagEntry.ofNat (c.nat (at_ w) 8) := by
    rw [getD_range_map, if_pos hw]
  have hways : ∀ e ∈ ws, e.Fits := by
    intro e he
    obtain ⟨w, -, rfl⟩ := List.mem_map.mp he
    exact TagEntry.ofNat_fits _
  obtain ⟨-, hfits⟩ := hf ws tag (by simp [ws]) hways htag
  refine ⟨_, (c.putWays_key_tags (at_ 0) ws r.1 4).1, fun o ho => c.byte_putWays (at_ 0) ws r.1 4 o ho,
    fun hsize htable => ?_, tagOp_answers h hi hc ht htag⟩
  have hgranule : at_ 0 % 32 = 0 := by
    show (c.wsize - 32 * t + 32 * (tag % t) + 8 * 0) % 32 = 0
    omega
  have htagged (w : Nat) (hw : w < 4) : c.tagged (at_ 0 + 8 * w) = c.tagged (at_ 0) := c.tagged_way hgranule hw
  split
  · next hbarrier =>
    intro o
    rw [Cohort.putWays_tagged fun w hw => (htagged w hw).trans hbarrier]
  · next hfree =>
    intro w hw
    exact Cohort.ofNat_putWays hread hfits (fun v hv => (htagged v hv).trans (eq_false_of_ne_true hfree)) hw

end

/-- Settles O24: CHUNK by its claim and the answers on their way, the tag table by what each operation makes of a set and by
what is written back of it. -/
theorem chunksAndTags : Obligations.ChunksAndTags := by
  refine ⟨⟨fun nx en mn dv => ⟨chunkClaim_none, fun hpresent hlt => ?claim⟩, fun s x d a h => ?chunk⟩,
    fun ws tag hlen => ⟨fun w hh => ?hit, fun hm => ?miss⟩, fun s x d a c h hc => ?instructions⟩
  case claim => exact ⟨_, chunkClaim_some hpresent hlt, by omega, by omega, rfl⟩
  case chunk =>
    exact ⟨chunk_absent h, fun ha hpass => ⟨chunk_usedUp h ha hpass rfl, fun lo len => chunk_claims h ha hpass rfl⟩,
      fun ha tr => chunk_traps h ha⟩
  case hit =>
    refine ⟨?_, ?_, ?_, tagLook_youngest hh, tagDel_invalid hh⟩
    · rw [tagLook_hit hh]
    · rw [tagIns_hit hh]
    · rw [tagDel_hit hh]
  case miss =>
    have hne : ws ≠ [] := by
      rintro rfl
      cases hlen
    exact ⟨tagLook_miss hm, tagDel_miss hm, by rw [tagIns_miss hm], tagIns_fills hm hne,
      fun w e => tagVictim_invalid, fun hv w e => tagVictim_oldest hv⟩
  case instructions =>
    intro t tag ready at_ ws answers
    refine ⟨fun ht htag => ⟨tagOp_spec h rfl hc ht tagLook_keepsWays htag, tagOp_spec h rfl hc ht tagIns_keepsWays htag,
      tagOp_spec h rfl hc ht tagDel_keepsWays htag⟩, fun i hmem => ?_⟩
    have hi : ∃ f, exec i s = s.tagOp d a f := by
      simp only [List.mem_cons, List.not_mem_nil, or_false] at hmem
      obtain rfl | rfl | rfl := hmem
      · exact ⟨tagLook, rfl⟩
      · exact ⟨tagIns, rfl⟩
      · exact ⟨tagDel, rfl⟩
    obtain ⟨f, hi⟩ := hi
    exact ⟨fun ht htag => tagOp_absent h hi hc ht htag, fun ht => tagOp_traps h hi ht⟩

end Sys2Proof.Machine
end

section
/-! Where the fragments of a beam go (R80 to R83, R435): what the operations of the split table and of the divergence
stack leave as it was, and a next issue that comes later. -/

namespace Sys2Proof.Machine

/-! ### Entries and their states -/

theorem Beam.mem_entriesIn {b : Beam} {st : EState} {e : Nat} :
    e ∈ b.entriesIn st ↔ e < b.split.length ∧ (b.entry e).st = st := by
  simp [Beam.entriesIn]

theorem Beam.entry_setEntry_self {b : Beam} {e : Nat} (h : e < b.split.length) (y : Entry) :
    (b.setEntry e y).entry e = y := by
  rw [Beam.entry_setEntry, if_pos ⟨rfl, h⟩]

theorem Beam.entry_setEntry_of_ne {b : Beam} {e j : Nat} (h : j ≠ e) (y : Entry) :
    (b.setEntry e y).entry j = b.entry j := by
  rw [Beam.entry_setEntry, if_neg fun hand => h hand.1]

theorem Beam.length_setEntry (b : Beam) (e : Nat) (y : Entry) : (b.setEntry e y).split.length = b.split.length :=
  List.length_set

theorem Beam.entry_restamp (b : Beam) (e : Nat) : b.restamp.entry e = b.entry e := by
  unfold Beam.restamp
  split
  · rfl
  · split <;> rfl

theorem Beam.entry_pop_of_ne (b : Beam) {e j : Nat} (h : j ≠ e) : (b.pop e).entry j = b.entry j := by
  unfold Beam.pop
  split
  · exact Beam.entry_setEntry_of_ne h _
  · split <;> exact Beam.entry_setEntry_of_ne h _

theorem Beam.entry_popLive_of_ne (b : Beam) {e j : Nat} (h : j ≠ e) (n : Nat) : (b.popLive e n).entry j = b.entry j := by
  induction n generalizing b with
  | zero => rfl
  | succ n ih =>
    unfold Beam.popLive
    split
    · exact (ih _).trans (b.entry_pop_of_ne h)
    · rfl

/-- A fragment that has lanes goes on where it is. -/
theorem Beam.popLive_of_lanes {b : Beam} {e : Nat} (h : (b.entry e).mask ≠ 0) (n : Nat) : b.popLive e n = b := by
  cases n with
  | zero => rfl
  | succ n => exact if_neg fun hand => h (eq_of_beq (Bool.and_eq_true_iff.mp hand).2)

theorem Beam.entry_resume_of_ne (b : Beam) {e j : Nat} (h : e ≠ j) : (b.resume j).entry e = b.entry e :=
  (Beam.entry_popLive_of_ne _ h 20).trans (Beam.entry_setEntry_of_ne h _)

theorem Beam.st_of_mem_ripe {b : Beam} {j : Nat} (h : j ∈ b.ripe) : (b.entry j).st = .join :=
  (Beam.mem_entriesIn.mp (List.mem_of_mem_filter h)).2

/-- Join entries alone return to run. -/
theorem Beam.entry_settle_of_ne_join {b : Beam} {e : Nat} (h : (b.entry e).st ≠ .join) (n : Nat) :
    (b.settle n).1.entry e = b.entry e := by
  induction n generalizing b with
  | zero => exact b.entry_restamp e
  | succ n ih =>
    unfold Beam.settle
    split
    · exact b.entry_restamp e
    · next j js hripe =>
      have hj : e ≠ j := by
        rintro rfl
        exact h (Beam.st_of_mem_ripe (hripe ▸ List.mem_cons_self))
      have hsame := b.entry_resume_of_ne hj
      exact (ih (by rwa [hsame])).trans hsame

/-! ### What they do not touch -/

/-- The beam `b'` is `b` but for its fragments, its records, its stamps and the banked stamps of its handler. -/
structure Beam.SameBesideFlow (b b' : Beam) : Prop where
  rest : { b' with split := b.split, dstack := b.dstack, stamps := b.stamps, trap := b.trap } = b
  trap : b.trap = none → b'.trap = none

namespace Beam.SameBesideFlow

theorem refl (b : Beam) : b.SameBesideFlow b := ⟨rfl, fun ht => ht⟩

theorem trans {a b c : Beam} (h : a.SameBesideFlow b) (h' : b.SameBesideFlow c) : a.SameBesideFlow c :=
  ⟨(congrArg (fun z : Beam => { z with split := a.split, dstack := a.dstack, stamps := a.stamps, trap := a.trap })
    h'.rest).trans h.rest, fun ht => h'.trap (h.trap ht)⟩

theorem setEntry (b : Beam) (e : Nat) (y : Entry) : b.SameBesideFlow (b.setEntry e y) := ⟨rfl, fun ht => ht⟩

theorem restamp (b : Beam) : b.SameBesideFlow b.restamp := by
  unfold Beam.restamp
  split
  · exact ⟨rfl, fun ht => ht⟩
  · split
    · exact ⟨rfl, fun ht => by rw [ht]; rfl⟩
    · exact .refl b

theorem pop (b : Beam) (e : Nat) : b.SameBesideFlow (b.pop e) := by
  unfold Beam.pop
  split
  · exact .setEntry b e _
  · split <;> exact ⟨rfl, fun ht => ht⟩

theorem popLive (b : Beam) (e n : Nat) : b.SameBesideFlow (b.popLive e n) := by
  induction n generalizing b with
  | zero => exact .refl b
  | succ n ih =>
    unfold Beam.popLive
    split
    · exact (pop b e).trans (ih _)
    · exact .refl b

theorem resume (b : Beam) (j : Nat) : b.SameBesideFlow (b.resume j) := (setEntry b j _).trans (popLive _ j 20)

theorem settle (b : Beam) (n : Nat) : b.SameBesideFlow (b.settle n).1 := by
  induction n generalizing b with
  | zero => exact restamp b
  | succ n ih =>
    unfold Beam.settle
    split
    · exact restamp b
    · exact (resume b _).trans (ih _)

section
variable {b b' : Beam} (h : b.SameBesideFlow b')
include h

theorem key : b'.key = b.key := (congrArg (fun z : Beam => z.key) h.rest :)
theorem cohort : b'.cohort = b.cohort := (congrArg (fun z : Beam => z.cohort) h.rest :)
theorem w : b'.w = b.w := (congrArg (fun z : Beam => z.w) h.rest :)
theorem v : b'.v = b.v := (congrArg (fun z : Beam => z.v) h.rest :)
theorem s : b'.s = b.s := (congrArg (fun z : Beam => z.s) h.rest :)
theorem c : b'.c = b.c := (congrArg (fun z : Beam => z.c) h.rest :)
theorem k : b'.k = b.k := (congrArg (fun z : Beam => z.k) h.rest :)
theorem status : b'.status = b.status := (congrArg (fun z : Beam => z.status) h.rest :)
theorem pl : b'.pl = b.pl := (congrArg (fun z : Beam => z.pl) h.rest :)
theorem exited : b'.exited = b.exited := (congrArg (fun z : Beam => z.exited) h.rest :)
theorem glint : b'.glint = b.glint := (congrArg (fun z : Beam => z.glint) h.rest :)

theorem live : b'.live = b.live := by rw [Beam.live, Beam.live, h.w, h.exited]

end

end Beam.SameBesideFlow

/-! ### A later next issue (R435) -/

/-- The beam `b'` is `b` but for the next issue of the entries `es`. -/
structure Beam.Delayed (es : List Nat) (b b' : Beam) : Prop where
  rest  : { b' with split := b.split } = b
  other : ∀ e, e ∉ es → b'.entry e = b.entry e
  entry : ∀ e, ∃ r, b'.entry e = { b.entry e with ready := r }

namespace Beam.Delayed

theorem refl (es : List Nat) (b : Beam) : b.Delayed es b := ⟨rfl, fun _ _ => rfl, fun e => ⟨(b.entry e).ready, rfl⟩⟩

theorem setEntry (b : Beam) (e r : Nat) : b.Delayed [e] (b.setEntry e { b.entry e with ready := r }) := by
  refine ⟨rfl, fun j hj => Beam.entry_setEntry_of_ne (List.ne_of_not_mem_cons hj) _, fun j => ?_⟩
  rw [Beam.entry_setEntry]
  split
  · next hself => exact ⟨r, by rw [hself.1]⟩
  · exact ⟨(b.entry j).ready, rfl⟩

theorem cons {e : Nat} {es : List Nat} {a b c : Beam} (h : a.Delayed [e] b) (h' : b.Delayed es c) :
    a.Delayed (e :: es) c := by
  refine ⟨(congrArg (fun z : Beam => { z with split := a.split }) h'.rest).trans h.rest, fun j hj => ?_, fun j => ?_⟩
  · rw [List.mem_cons, not_or] at hj
    exact (h'.other j hj.2).trans (h.other j (by simpa using hj.1))
  · obtain ⟨r, hr⟩ := h.entry j
    obtain ⟨r', hr'⟩ := h'.entry j
    exact ⟨r', by rw [hr', hr]⟩

section
variable {es : List Nat} {b b' : Beam} (h : b.Delayed es b') (e : Nat)
include h

theorem st : (b'.entry e).st = (b.entry e).st := by obtain ⟨r, hr⟩ := h.entry e; rw [hr]
theorem pc : (b'.entry e).pc = (b.entry e).pc := by obtain ⟨r, hr⟩ := h.entry e; rw [hr]
theorem mask : (b'.entry e).mask = (b.entry e).mask := by obtain ⟨r, hr⟩ := h.entry e; rw [hr]
theorem join : (b'.entry e).join = (b.entry e).join := by obtain ⟨r, hr⟩ := h.entry e; rw [hr]
theorem parent : (b'.entry e).parent = (b.entry e).parent := by obtain ⟨r, hr⟩ := h.entry e; rw [hr]
theorem arrived : (b'.entry e).arrived = (b.entry e).arrived := by obtain ⟨r, hr⟩ := h.entry e; rw [hr]

end

theorem sameBesideFlow {es : List Nat} {b b' : Beam} (h : b.Delayed es b') : b.SameBesideFlow b' := by
  have htrap := congrArg (fun z : Beam => z.trap) h.rest
  refine ⟨?_, fun ht => htrap.trans ht⟩
  exact congrArg (fun z : Beam => { z with dstack := b.dstack, stamps := b.stamps, trap := b.trap }) h.rest

end Beam.Delayed

/-! ### The state of an instruction that changes its beam alone -/

theorem State.setBeam_setBeam (s : State) {b b' : Beam} (h : b'.key = b.key) :
    (s.setBeam b).setBeam b' = s.setBeam b' := by
  unfold State.setBeam replaceBy
  rw [List.map_map]
  refine congrArg (fun l => { s with beams := l }) (List.map_congr_left fun y _ => ?_)
  by_cases hy : y.key = b.key
  · simp [hy, h]
  · simp [hy, h]

section
variable {s : State} {k : BeamKey} {b y : Beam} (hy : s.beam? k = some y) (hk : b.key = k)
include hy hk

theorem State.later_setBeam (e n : Nat) : ∃ b', (s.setBeam b).later k e n = s.setBeam b' ∧ b.Delayed [e] b' := by
  obtain ⟨r, hl | hl⟩ := State.later_cases (s.setBeam b) k e n b (State.beam?_setBeam_of_key hy hk)
  · exact ⟨_, hl.trans (s.setBeam_setBeam rfl), .setEntry b e r⟩
  · exact ⟨b, hl, .refl _ b⟩

theorem State.foldl_later_setBeam (n : Nat) (es : List Nat) :
    ∃ b', es.foldl (fun (s : State) e => s.later k e n) (s.setBeam b) = s.setBeam b' ∧ b.Delayed es b' := by
  induction es generalizing b with
  | nil => exact ⟨b, rfl, .refl _ b⟩
  | cons e es ih =>
    obtain ⟨b1, hlater, hdelayed⟩ := State.later_setBeam hy hk e n
    obtain ⟨b2, hfold, hrest⟩ := ih (hdelayed.sameBesideFlow.key.trans hk)
    exact ⟨b2, by rw [List.foldl_cons, hlater, hfold], hdelayed.cons hrest⟩

theorem State.laterAll_setBeam (js : List Returned) :
    ∃ b', (s.setBeam b).laterAll k js = s.setBeam b' ∧ b.Delayed (js.map (·.entry)) b' := by
  have hfold := State.foldl_later_setBeam hy hk 1 (js.map (·.entry))
  rwa [List.foldl_map] at hfold

end

theorem State.rcvPackets_untraced {s : State} {b : Beam} (h : (s.coreOf b.key.core).trace.br = false)
    (js : List Returned) : s.rcvPackets b js = s := by
  unfold State.rcvPackets
  induction js with
  | nil => rfl
  | cons j js ih =>
    rw [List.foldl_cons, if_neg (ne_true_of_eq_false h)]
    exact ih

end Sys2Proof.Machine
end

section
/-! The paths of BRV (R81, R144): its lanes sorted by their truth values, and paths of one target merged. -/

namespace Sys2Proof.Machine

/-! ### Masks as sets of lanes -/

theorem getLsbD_foldl_or {α : Type} (f : α → Mask) (l : List α) (m : Mask) (i : Nat) :
    (l.foldl (fun m a => m ||| f a) m).getLsbD i = true ↔ m.getLsbD i = true ∨ ∃ a ∈ l, (f a).getLsbD i = true := by
  induction l generalizing m with
  | nil => simp
  | cons a l ih =>
    rw [List.foldl_cons, ih, BitVec.getLsbD_or, Bool.or_eq_true, or_assoc]
    simp only [List.mem_cons, exists_eq_or_imp]

theorem getLsbD_one_shiftLeft (j : Nat) {i : Nat} (hi : i < 64) : (1#64 <<< j).getLsbD i = true ↔ i = j := by
  simp only [BitVec.getLsbD_shiftLeft, BitVec.getLsbD_one, Bool.and_eq_true, Bool.not_eq_true', decide_eq_true_eq,
    decide_eq_false_iff_not]
  omega

theorem getLsbD_maskOf (ls : List Nat) {i : Nat} (hi : i < 64) : (maskOf ls).getLsbD i = true ↔ i ∈ ls := by
  rw [maskOf, getLsbD_foldl_or]
  simp only [getLsbD_one_shiftLeft _ hi, exists_eq_right', BitVec.ofNat_eq_ofNat, BitVec.getLsbD_zero, Bool.false_eq_true,
    false_or]

/-! ### Merging the paths of one target -/

section
variable {i : Nat}

theorem mergePaths_targets_nodup (ps : List Path) : ((mergePaths ps).map (·.target)).Nodup := by
  induction ps with
  | nil => exact List.nodup_nil
  | cons p ps ih =>
    unfold mergePaths
    split
    · exact ih
    · refine List.nodup_cons.mpr ⟨?_, ih.sublist (List.filter_sublist.map _)⟩
      simp

/-- A lane of a path is a lane of the merged path of its target. -/
theorem exists_mem_mergePaths {ps : List Path} {p : Path} (hp : p ∈ ps) (hlane : p.mask.getLsbD i = true) :
    ∃ q ∈ mergePaths ps, q.target = p.target ∧ q.mask.getLsbD i = true := by
  induction ps with
  | nil => cases hp
  | cons r ps ih =>
    unfold mergePaths
    split
    · next hempty =>
      refine ih ((List.mem_cons.mp hp).resolve_left ?_)
      rintro rfl
      rw [eq_of_beq hempty] at hlane
      simp at hlane
    · rcases List.mem_cons.mp hp with rfl | hp
      · exact ⟨_, List.mem_cons_self, rfl, (getLsbD_foldl_or _ _ _ _).mpr (.inl hlane)⟩
      · obtain ⟨q, hq, htarget, hq'⟩ := ih hp
        by_cases hsame : q.target = r.target
        · exact ⟨_, List.mem_cons_self, hsame.symm.trans htarget,
            (getLsbD_foldl_or _ _ _ _).mpr (.inr ⟨q, List.mem_filter.mpr ⟨hq, beq_iff_eq.mpr hsame⟩, hq'⟩)⟩
        · exact ⟨q, List.mem_cons_of_mem _ (List.mem_filter.mpr ⟨hq, bne_iff_ne.mpr hsame⟩), htarget, hq'⟩

/-- A lane of a merged path is a lane of a path with that target. -/
theorem exists_of_mem_mergePaths {ps : List Path} {q : Path} (hq : q ∈ mergePaths ps) (hlane : q.mask.getLsbD i = true) :
    ∃ p ∈ ps, p.target = q.target ∧ p.mask.getLsbD i = true := by
  induction ps generalizing q with
  | nil => cases hq
  | cons r ps ih =>
    have hrest {q : Path} (hq : q ∈ mergePaths ps) (hlane : q.mask.getLsbD i = true) :
        ∃ p ∈ r :: ps, p.target = q.target ∧ p.mask.getLsbD i = true :=
      (ih hq hlane).imp fun p hp => ⟨List.mem_cons_of_mem _ hp.1, hp.2⟩
    unfold mergePaths at hq
    split at hq
    · exact hrest hq hlane
    · rcases List.mem_cons.mp hq with rfl | hq
      · rcases (getLsbD_foldl_or _ _ _ _).mp hlane with hown | ⟨q, hq, hlane⟩
        · exact ⟨r, List.mem_cons_self, rfl, hown⟩
        · obtain ⟨hmem, hsame⟩ := List.mem_filter.mp hq
          obtain ⟨p, hp, htarget, hp'⟩ := hrest hmem hlane
          exact ⟨p, hp, htarget.trans (beq_iff_eq.mp hsame), hp'⟩
      · exact hrest (List.mem_of_mem_filter hq) hlane

end

/-- Of paths with different targets, those that satisfy `f` and have one target are one path. -/
theorem length_filter_eq_one {l : List Path} {f : Path → Bool} {t : Nat} (hnodup : (l.map (·.target)).Nodup)
    (hsome : ∃ q ∈ l, f q = true) (hall : ∀ q ∈ l, f q = true → q.target = t) : (l.filter f).length = 1 := by
  obtain ⟨q, hq, hf⟩ := hsome
  have hpos : 0 < (l.filter f).length := List.length_pos_of_mem (List.mem_filter.mpr ⟨hq, hf⟩)
  have hconst : (l.filter f).map (·.target) = List.replicate ((l.filter f).map (·.target)).length t :=
    List.eq_replicate_of_mem fun b hb => by
      obtain ⟨q, hq, rfl⟩ := List.mem_map.mp hb
      exact hall q (List.mem_of_mem_filter hq) (List.of_mem_filter hq)
  have hone := hnodup.sublist (List.filter_sublist (p := f).map (·.target))
  rw [hconst, List.nodup_replicate, List.length_map] at hone
  omega

/-! ### The paths of a BRV -/

section
variable (x : Frag) (u : Disp) (c : Nat) (bt bf bn : BitVec 16)

/-- The path of the lanes with truth value `v` (R144). -/
def Frag.brvSide (v : Tri) : Path :=
  let off := match v with | .t => bt | .f => bf | .u => bn
  let inside := v != .t && off == 0
  { target := if inside then x.next else x.target off.toInt, mask := brvLanes x u c v, inside := inside }

theorem brvPaths_eq_merge :
    brvPaths x u c bt bf bn = mergePaths ([.t, .f, .u].map (x.brvSide u c bt bf bn)) := rfl

theorem Frag.brvSide_target (v : Tri) : (x.brvSide u c bt bf bn v).target =
    match some v with
    | some .t => x.target bt.toInt
    | some .f => if bf.toInt = 0 then x.next else x.target bf.toInt
    | _ => if bn.toInt = 0 then x.next else x.target bn.toInt := by
  have hzero (o : BitVec 16) : o = 0#16 ↔ o.toInt = 0 := BitVec.toInt_inj.symm
  cases v with
  | t => rfl
  | f => simp [Frag.brvSide, hzero bf]
  | u => simp [Frag.brvSide, hzero bn]

variable {x u c}

theorem getLsbD_brvLanes {v : Tri} {i : Nat} (hi : i < 64) : (brvLanes x u c v).getLsbD i = true ↔
    x.mask.getLsbD i = true ∧ dispose u (Tri.ofCode (x.b.cl c i)) = some v := by
  rw [brvLanes, getLsbD_maskOf _ hi, List.mem_filter, mem_lanesOf, beq_iff_eq, and_iff_right hi]

/-- A lane that BRV does not trap has a truth value after the disposition. -/
theorem exists_dispose {i : Nat} (hi : i < 64) (hlane : x.mask.getLsbD i = true) (hux : u = .ux → brvUnknown x c = 0) :
    ∃ v, dispose u (Tri.ofCode (x.b.cl c i)) = some v := by
  by_contra hnone
  have hdispose : dispose u (Tri.ofCode (x.b.cl c i)) = none := Option.eq_none_iff_forall_ne_some.mpr (by simpa using hnone)
  obtain ⟨rfl, hu⟩ : u = .ux ∧ Tri.ofCode (x.b.cl c i) = .u := by
    generalize Tri.ofCode (x.b.cl c i) = v at hdispose
    cases v <;> cases u <;> cases hdispose
    exact ⟨rfl, rfl⟩
  have hunknown : (brvUnknown x c).getLsbD i = true := by
    rw [brvUnknown, getLsbD_maskOf _ hi, List.mem_filter, mem_lanesOf, beq_iff_eq]
    exact ⟨⟨hi, hlane⟩, hu⟩
  rw [hux rfl] at hunknown
  simp at hunknown

theorem brvPaths_sorts {i : Nat} (hi : i < 64) (hlane : x.mask.getLsbD i = true) (hux : u = .ux → brvUnknown x c = 0) :
    ((brvPaths x u c bt bf bn).map (·.target)).Nodup ∧
    ((brvPaths x u c bt bf bn).filter fun p => p.mask.getLsbD i).length = 1 ∧
    ∀ p ∈ brvPaths x u c bt bf bn, p.mask.getLsbD i = true →
      p.target = match dispose u (Tri.ofCode (x.b.cl c i)) with
        | some .t => x.target bt.toInt
        | some .f => if bf.toInt = 0 then x.next else x.target bf.toInt
        | _ => if bn.toInt = 0 then x.next else x.target bn.toInt := by
  obtain ⟨v, hv⟩ := exists_dispose hi hlane hux
  have hside (w : Tri) : (x.brvSide u c bt bf bn w).mask.getLsbD i = true ↔ w = v := by
    rw [show (x.brvSide u c bt bf bn w).mask = brvLanes x u c w from rfl, getLsbD_brvLanes hi, hv, Option.some_inj,
      and_iff_right hlane, eq_comm]
  have htarget (p : Path) (hp : p ∈ brvPaths x u c bt bf bn) (hlane : p.mask.getLsbD i = true) :
      p.target = (x.brvSide u c bt bf bn v).target := by
    obtain ⟨q, hq, hpq, hlaneq⟩ := exists_of_mem_mergePaths (brvPaths_eq_merge x u c bt bf bn ▸ hp) hlane
    obtain ⟨w, -, rfl⟩ := List.mem_map.mp hq
    rw [← hpq, (hside w).mp hlaneq]
  have hnodup := mergePaths_targets_nodup ([.t, .f, .u].map (x.brvSide u c bt bf bn))
  refine ⟨hnodup, length_filter_eq_one hnodup ?_ htarget, fun p hp hlane => ?_⟩
  · have hmem : x.brvSide u c bt bf bn v ∈ [.t, .f, .u].map (x.brvSide u c bt bf bn) :=
      List.mem_map_of_mem (by cases v <;> decide)
    obtain ⟨q, hq, -, hlaneq⟩ := exists_mem_mergePaths hmem ((hside v).mpr rfl)
    exact ⟨q, hq, hlaneq⟩
  · rw [hv]
    exact (htarget p hp hlane).trans (x.brvSide_target u c bt bf bn v)

end

end Sys2Proof.Machine
end

section
/-! BRV with one path, with several, and where it traps (R81, R122, R144). -/

namespace Sys2Proof.Machine

/-! ### Several entries of the split table written one after the other -/

/-- Write the entry `f a` at every place `n` of the pairs `(a, n)`. -/
def Beam.setEntries {α : Type} (b : Beam) (f : α → Entry) (l : List (α × Nat)) : Beam :=
  l.foldl (fun b p => b.setEntry p.2 (f p.1)) b

section
variable {α : Type} (b : Beam) (f : α → Entry) (l : List (α × Nat))

theorem Beam.setEntries_rest : { b.setEntries f l with split := b.split } = b := by
  induction l generalizing b with
  | nil => rfl
  | cons p l ih =>
    exact congrArg (fun z : Beam => { z with split := b.split }) (ih (b.setEntry p.2 (f p.1)))

theorem Beam.length_setEntries : (b.setEntries f l).split.length = b.split.length := by
  induction l generalizing b with
  | nil => rfl
  | cons p l ih => exact (ih _).trans (b.length_setEntry p.2 _)

theorem Beam.entry_setEntries_other {e : Nat} (h : e ∉ l.map Prod.snd) : (b.setEntries f l).entry e = b.entry e := by
  induction l generalizing b with
  | nil => rfl
  | cons p l ih =>
    rw [List.map_cons, List.mem_cons, not_or] at h
    exact (ih _ h.2).trans (Beam.entry_setEntry_of_ne h.1 _)

theorem Beam.entry_setEntries_mem (hnodup : (l.map Prod.snd).Nodup) {p : α × Nat} (hp : p ∈ l)
    (hlt : p.2 < b.split.length) : (b.setEntries f l).entry p.2 = f p.1 := by
  induction l generalizing b with
  | nil => cases hp
  | cons q l ih =>
    obtain ⟨hfresh, hnodup⟩ := List.nodup_cons.mp hnodup
    rcases List.mem_cons.mp hp with rfl | hp
    · exact (Beam.entry_setEntries_other _ f l hfresh).trans (Beam.entry_setEntry_self hlt _)
    · exact ih _ hnodup hp (by rwa [Beam.length_setEntry])

end

theorem map_snd_zip_sublist {α β : Type} (as : List α) (bs : List β) : ((as.zip bs).map Prod.snd).Sublist bs := by
  induction as generalizing bs with
  | nil => exact List.nil_sublist bs
  | cons a as ih =>
    cases bs with
    | nil => exact List.nil_sublist _
    | cons b bs => exact (ih bs).cons_cons b

/-! ### A fragment diverges (R81) -/

/-- The entry of a path of entry `e`, which joins the others at `j`. -/
def Beam.pathEntry (b : Beam) (e pc j : Nat) (p : Path) : Entry :=
  { b.entry e with st := .run, pc := p.target, mask := p.mask, join := some j, parent := some e
                   arrived := 0, blk := if p.inside then (b.entry e).blk else none, wait := none
                   back := !p.inside && decide (p.target ≤ pc) }

/-- The entry that waits at `j` for the paths of entry `e`. -/
def Beam.joinEntry (b : Beam) (e j : Nat) : Entry :=
  { b.entry e with st := .join, pc := j, arrived := 0, blk := none, wait := none, back := false }

/-- The entry that goes on with its first path while the others lie on the stack. -/
def Beam.firstEntry (b : Beam) (e pc j : Nat) (p : Path) : Entry :=
  { b.entry e with pc := p.target, mask := p.mask, join := some j
                   blk := if p.inside then (b.entry e).blk else none, wait := none
                   back := !p.inside && decide (p.target ≤ pc) }

/-- The record of a path, and the marker of the join. -/
def Beam.pathRecord (b : Beam) (e pc j : Nat) (p : Path) : DRec :=
  { marker := false, pc := p.target, mask := p.mask, j := j, owner := e, rstack := (b.entry e).rstack
    blk := if p.inside then (b.entry e).blk else none, back := !p.inside && decide (p.target ≤ pc) }

def Beam.joinMarker (b : Beam) (e j : Nat) : DRec :=
  { marker := true, pc := j, mask := (b.entry e).mask, j := j, owner := e, rstack := (b.entry e).rstack, blk := none
    back := false }

section
variable {b : Beam} {e pc j : Nat} {ps : List Path}

theorem Beam.diverge_free (h : ps.length ≤ (b.entriesIn .free).length) :
    b.diverge e pc j ps =
      some ((b.setEntries (b.pathEntry e pc j) (ps.zip (b.entriesIn .free))).setEntry e (b.joinEntry e j)) := if_pos h

variable (h : (b.entriesIn .free).length < ps.length)
include h

theorem Beam.diverge_stacked (hroom : b.dstack.length + ps.length ≤ 16) {first : Path} {others : List Path}
    (hsort : ps.foldr pathInsert [] = first :: others) :
    b.diverge e pc j ps =
      some (Beam.setEntry { b with dstack := others.map (b.pathRecord e pc j) ++ b.joinMarker e j :: b.dstack } e
        (b.firstEntry e pc j first)) := by
  refine (if_neg (Nat.not_le.mpr h)).trans ((if_pos hroom).trans ?_)
  rw [hsort]
  rfl

theorem Beam.diverge_none (hfull : 16 < b.dstack.length + ps.length) : b.diverge e pc j ps = none :=
  (if_neg (Nat.not_le.mpr h)).trans (if_neg (Nat.not_le.mpr hfull))

end

/-- Sorting by the leading lane gives the one order in which the leading lanes rise. -/
theorem foldr_pathInsert_eq {ps qs : List Path} (hperm : qs.Perm ps)
    (hrise : qs.Pairwise fun p q => leadOf p.mask < leadOf q.mask) : ps.foldr pathInsert [] = qs := by
  let le := fun p q : Path => leadOf p.mask ≤ leadOf q.mask
  have hinsert : pathInsert = List.orderedInsert le := by
    funext p l
    induction l with
    | nil => rfl
    | cons q l ih => rw [pathInsert, ih]; rfl
  have : Std.Total le := ⟨fun p q => Nat.le_total _ _⟩
  have : IsTrans Path le := ⟨fun _ _ _ => Nat.le_trans⟩
  have hperm' := List.perm_insertionSort le ps
  have hinj : (qs.map fun p => leadOf p.mask).Nodup := List.pairwise_map.mpr (hrise.imp Nat.ne_of_lt)
  rw [hinsert]
  refine List.Perm.eq_of_pairwise (le := le) (fun p q hp hq hle hge => ?_) (List.pairwise_insertionSort le ps)
    (hrise.imp Nat.le_of_lt) (hperm'.trans hperm.symm)
  exact List.inj_on_of_nodup_map hinj (hperm.mem_iff.mpr (hperm'.mem_iff.mp hp)) hq (Nat.le_antisymm hle hge)

/-! ### The ends of BRV -/

section
variable {s : State} {x : Frag} {u : Disp} {c : BitVec 4} {bt bf bn : BitVec 16} {ps : List Path}

/-- No lane of BRV holds an UNKNOWN that traps. -/
theorem brv_known (hux : u = .ux → brvUnknown x c.toNat = 0) : ¬(u == .ux && brvUnknown x c.toNat != 0) = true := by
  intro hand
  obtain ⟨hu, hunknown⟩ := Bool.and_eq_true_iff.mp hand
  exact bne_iff_ne.mp hunknown (hux (eq_of_beq hu))

/-- Every target of BRV may be entered. -/
theorem brv_targets_free (hfree : ∀ p ∈ ps, p.inside = false → s.transferTrap x p.target = none) :
    (ps.filter fun p => !p.inside).findSome? (fun p => s.transferTrap x p.target) = none := by
  refine List.findSome?_eq_none_iff.mpr fun p hp => ?_
  obtain ⟨hmem, hinside⟩ := List.mem_filter.mp hp
  exact hfree p hmem (by simpa using hinside)

variable (h : Clear s x (plain [{ set := .c, r := c.toNat, src := 1, dst := false, trap := false }]))
  (hux : u = .ux → brvUnknown x c.toNat = 0) (hps : brvPaths x u c.toNat bt bf bn = ps)
  (hfree : ∀ p ∈ ps, p.inside = false → s.transferTrap x p.target = none)
include h hux hps hfree

section
variable {p : Path} (htrace : (s.coreOf x.core).trace.br = false) (hone : ps = [p])
include htrace hone

theorem brv_goes (hinside : p.inside = true) : Goes s x (.brv u c bt bf bn) s := by
  refine goes_of_past h rfl ((if_neg (brv_known hux)).trans ?_) (.refl s)
  simp only [hps, brv_targets_free hfree]
  simp only [hone, hinside, if_true]
  exact congrArg (State.past · x) (State.brPacket_untraced htrace ..)

theorem brv_jumps (hinside : p.inside = false) : Jumps s x (.brv u c bt bf bn) s p.target := by
  refine jumps_of_keepsPlaces h rfl ((if_neg (brv_known hux)).trans ?_) (.refl s)
  simp only [hps, brv_targets_free hfree]
  simp only [hone, hinside, Bool.false_eq_true, if_false]
  exact congrArg (Res.jump · _) (State.brPacket_untraced htrace ..)

end

variable (htwo : 2 ≤ ps.length)
include htwo

theorem brv_traps_of_reconv {tr : Trap} (hj : s.reconv x = .error tr) : Traps s x (.brv u c bt bf bn) tr := by
  refine traps_of_trap h rfl ((if_neg (brv_known hux)).trans ?_)
  simp only [hps, brv_targets_free hfree]
  match ps, htwo with
  | _ :: _ :: _, _ => simp only [hj]

theorem brv_traps_of_full {j : Nat} (hj : s.reconv x = .ok j) (hfull : x.b.diverge x.e x.pc j ps = none) :
    Traps s x (.brv u c bt bf bn)
      { group := gCONV, code := 4, lanes := none, x := x.op + x.w * 2 ^ 8, y := 0, z := 0 } := by
  refine traps_of_trap h rfl ((if_neg (brv_known hux)).trans ?_)
  simp only [hps, brv_targets_free hfree]
  match ps, htwo with
  | _ :: _ :: _, _ => simp only [hj, hfull]

theorem brv_diverges (htrace : (s.coreOf x.core).trace.br = false) {j : Nat} (hj : s.reconv x = .ok j) {b : Beam}
    (hdiverge : x.b.diverge x.e x.pc j ps = some b) (hkey : b.key = x.b.key) :
    ∃ b', exec (.brv u c bt bf bn) s = .next (s.setBeam b') ∧ b.Delayed (b.pathsOf x.b x.e) b' := by
  obtain ⟨b', hlater, hdelayed⟩ := State.foldl_later_setBeam (State.frag_beam h.frag) hkey 2 (b.pathsOf x.b x.e)
  refine ⟨b', exec_of_stay h rfl ((if_neg (brv_known hux)).trans ?_), hdelayed⟩
  have hpacket (m t n : Mask) : (s.setBeam b).brPacket x.b x.e x.pc 0 m t n = s.setBeam b :=
    State.brPacket_untraced (s := s.setBeam b) htrace ..
  simp only [hps, brv_targets_free hfree]
  match ps, htwo with
  | _ :: _ :: _, _ => simp only [hj, hdiverge, hpacket, hlater]

end

end Sys2Proof.Machine
end

section
/-! The beam after a BRV that diverges, and after an arrival at the join (R81, R82). -/

namespace Sys2Proof.Machine

section
variable {s : State} {x : Frag} {u : Disp} {c : BitVec 4} {bt bf bn : BitVec 16} {ps : List Path}
  (h : Clear s x (plain [{ set := .c, r := c.toNat, src := 1, dst := false, trap := false }]))
  (hux : u = .ux → brvUnknown x c.toNat = 0) (hps : brvPaths x u c.toNat bt bf bn = ps)
  (hfree : ∀ p ∈ ps, p.inside = false → s.transferTrap x p.target = none)
  (htrace : (s.coreOf x.core).trace.br = false) (htwo : 2 ≤ ps.length) {j : Nat} (hj : s.reconv x = .ok j)
include h hux hps hfree htrace htwo hj

theorem brv_diverges_to_entries (hroom : ps.length ≤ (x.b.entriesIn .free).length) :
    ∃ t b, exec (.brv u c bt bf bn) s = .next t ∧ t.mem = s.mem ∧ t.beam? x.b.key = some b ∧
      { b with split := x.b.split } = x.b ∧
      (b.entry x.e).st = .join ∧ (b.entry x.e).pc = j ∧ (b.entry x.e).mask = x.mask ∧
      (∀ pf ∈ ps.zip (x.b.entriesIn .free), (b.entry pf.2).st = .run ∧ (b.entry pf.2).pc = pf.1.target ∧
        (b.entry pf.2).mask = pf.1.mask ∧ (b.entry pf.2).join = some j ∧ (b.entry pf.2).parent = some x.e) ∧
      (∀ e, e ≠ x.e → (x.b.entry e).st ≠ .free → (b.entry e).st = (x.b.entry e).st ∧
        (b.entry e).pc = (x.b.entry e).pc ∧ (b.entry e).mask = (x.b.entry e).mask) := by
  have hxe := Frag.e_lt h.runs
  let f := x.b.pathEntry x.e x.pc j
  let l := ps.zip (x.b.entriesIn .free)
  have hmem {pf : Path × Nat} (hpf : pf ∈ l) := Beam.mem_entriesIn.mp (List.of_mem_zip hpf).2
  have hnodup : (l.map Prod.snd).Nodup := (List.nodup_range.filter _).sublist (map_snd_zip_sublist _ _)
  have hlen := x.b.length_setEntries f l
  have hwait : ((x.b.setEntries f l).setEntry x.e (x.b.joinEntry x.e j)).entry x.e = x.b.joinEntry x.e j :=
    Beam.entry_setEntry_self (by rwa [hlen]) _
  have hpath {pf : Path × Nat} (hpf : pf ∈ l) :
      ((x.b.setEntries f l).setEntry x.e (x.b.joinEntry x.e j)).entry pf.2 = f pf.1 := by
    obtain ⟨hlt, hst⟩ := hmem hpf
    have hne : pf.2 ≠ x.e := by
      intro he
      exact EState.noConfusion ((he ▸ hst : (x.b.entry x.e).st = .free).symm.trans h.runs)
    exact (Beam.entry_setEntry_of_ne hne _).trans (x.b.entry_setEntries_mem f l hnodup hpf hlt)
  have hother {e : Nat} (he : e ≠ x.e) (hst : (x.b.entry e).st ≠ .free) :
      ((x.b.setEntries f l).setEntry x.e (x.b.joinEntry x.e j)).entry e = x.b.entry e := by
    refine (Beam.entry_setEntry_of_ne he _).trans (x.b.entry_setEntries_other f l fun hin => ?_)
    obtain ⟨pf, hpf, rfl⟩ := List.mem_map.mp hin
    exact hst (hmem hpf).2
  have hrest : { (x.b.setEntries f l).setEntry x.e (x.b.joinEntry x.e j) with split := x.b.split } = x.b :=
    x.b.setEntries_rest f l
  have hdiverge := Beam.diverge_free (b := x.b) (e := x.e) (pc := x.pc) (j := j) hroom
  have hkey := congrArg (fun z : Beam => z.key) hrest
  obtain ⟨b, hexec, hd⟩ := brv_diverges h hux hps hfree htwo htrace hj hdiverge hkey
  have hkeyb := hd.sameBesideFlow.key.trans hkey
  refine ⟨_, b, hexec, rfl, State.beam?_setBeam_of_key (State.frag_beam h.frag) hkeyb,
    (congrArg (fun z : Beam => { z with split := x.b.split }) hd.rest).trans hrest, ?_, ?_, ?_, fun pf hpf => ?_,
    fun e he hst => ?_⟩
  · rw [hd.st, hwait]; rfl
  · rw [hd.pc, hwait]; rfl
  · rw [hd.mask, hwait]; rfl
  · rw [hd.st, hd.pc, hd.mask, hd.join, hd.parent, hpath hpf]
    exact ⟨rfl, rfl, rfl, rfl, rfl⟩
  · rw [hd.st, hd.pc, hd.mask, hother he hst]
    exact ⟨rfl, rfl, rfl⟩

theorem brv_diverges_to_stack {first : Path} {others : List Path} (hfew : (x.b.entriesIn .free).length < ps.length)
    (hroom : x.b.dstack.length + ps.length ≤ 16) (hperm : (first :: others).Perm ps)
    (hrise : (first :: others).Pairwise (fun p q => leadOf p.mask < leadOf q.mask)) :
    ∃ t b, exec (.brv u c bt bf bn) s = .next t ∧ t.mem = s.mem ∧ t.beam? x.b.key = some b ∧
      { b with split := x.b.split, dstack := x.b.dstack } = x.b ∧ (∀ e, e ≠ x.e → b.entry e = x.b.entry e) ∧
      (b.entry x.e).st = .run ∧ (b.entry x.e).pc = first.target ∧ (b.entry x.e).mask = first.mask ∧
      (b.entry x.e).join = some j ∧
      b.dstack.map (fun r => (r.marker, r.pc, r.mask, r.j, r.owner)) =
        others.map (fun p => (false, p.target, p.mask, j, x.e)) ++ (true, j, x.mask, j, x.e) ::
          x.b.dstack.map (fun r => (r.marker, r.pc, r.mask, r.j, r.owner)) := by
  have hxe := Frag.e_lt h.runs
  have hdiverge := Beam.diverge_stacked (b := x.b) (e := x.e) (pc := x.pc) (j := j) hfew hroom
    (foldr_pathInsert_eq hperm hrise)
  let stack := others.map (x.b.pathRecord x.e x.pc j) ++ x.b.joinMarker x.e j :: x.b.dstack
  let bd := Beam.setEntry { x.b with dstack := stack } x.e (x.b.firstEntry x.e x.pc j first)
  have hself : bd.entry x.e = x.b.firstEntry x.e x.pc j first := Beam.entry_setEntry_self hxe _
  have hother {e : Nat} (he : e ≠ x.e) : bd.entry e = x.b.entry e := Beam.entry_setEntry_of_ne he _
  have hown (e : Nat) (he : e ≠ x.e) : e ∉ bd.pathsOf x.b x.e := by
    intro hin
    obtain ⟨hrun, hpick⟩ := List.mem_filter.mp hin
    have hst := (Beam.mem_entriesIn.mp hrun).2
    rw [hother he] at hst
    simp [he, hst] at hpick
  obtain ⟨b, hexec, hd⟩ := brv_diverges h hux hps hfree htwo htrace hj hdiverge rfl
  have hstack := congrArg (fun z : Beam => z.dstack) hd.rest
  refine ⟨_, b, hexec, rfl, State.beam?_setBeam_of_key (State.frag_beam h.frag) hd.sameBesideFlow.key,
    congrArg (fun z : Beam => { z with split := x.b.split, dstack := x.b.dstack }) hd.rest,
    fun e he => (hd.other e (hown e he)).trans (hother he), ?_, ?_, ?_, ?_, ?_⟩
  · rw [hd.st, hself]; exact h.runs
  · rw [hd.pc, hself]; rfl
  · rw [hd.mask, hself]; rfl
  · rw [hd.join, hself]; rfl
  · rw [show b.dstack = stack from hstack]
    simp only [stack, List.map_append, List.map_map, List.map_cons]
    rfl

end

/-! ### An arrival at the join (R82) -/

/-- The beam once the lanes of entry `e` wait at the join entry `j`. -/
def Beam.arriveAt (b : Beam) (e j : Nat) : Beam :=
  (b.setEntry j { b.entry j with arrived := (b.entry j).arrived ||| (b.entry e).mask
                                 back := (b.entry j).back || (b.entry e).back }).setEntry e Entry.none_

section
variable {b : Beam} {e j : Nat}

/-- A fragment without records arrives at its parent. -/
theorem Beam.arrive_parent {h : Nat} (hjoin : (b.entry e).join = some h) (hparent : (b.entry e).parent = some j)
    (hruns : (b.entry e).st = .run) (hstacked : b.stacked e = false) :
    b.arrive e h = some ((b.arriveAt e j).settle 9) := by
  have hat : b.arrivalAt h 9 e [] = some (some j, []) := by
    simp [Beam.arrivalAt, hjoin, hparent, hruns]
  simp only [Beam.arrive, hat, hstacked, Bool.false_eq_true, if_false]
  rfl

variable (he : e < b.split.length) (hruns : (b.entry e).st = .run) (hjoins : b.entriesIn .join = [j])
include he

theorem Beam.entry_arriveAt_self : (b.arriveAt e j).entry e = Entry.none_ :=
  Beam.entry_setEntry_self (by rwa [Beam.length_setEntry]) _

include hruns hjoins

theorem Beam.join_of_entriesIn : j ≠ e ∧ j < b.split.length ∧ (b.entry j).st = .join := by
  obtain ⟨hlt, hst⟩ := Beam.mem_entriesIn.mp (hjoins ▸ List.mem_singleton_self j)
  refine ⟨?_, hlt, hst⟩
  rintro rfl
  exact EState.noConfusion (hst.symm.trans hruns)

theorem Beam.entry_arriveAt_join : (b.arriveAt e j).entry j =
    { b.entry j with arrived := (b.entry j).arrived ||| (b.entry e).mask
                     back := (b.entry j).back || (b.entry e).back } := by
  obtain ⟨hne, hlt, -⟩ := Beam.join_of_entriesIn he hruns hjoins
  exact (Beam.entry_setEntry_of_ne hne _).trans (Beam.entry_setEntry_self hlt _)

/-- `j` is still the one join entry. -/
theorem Beam.entriesIn_arriveAt : (b.arriveAt e j).entriesIn .join = [j] := by
  obtain ⟨hne, hlt, hst⟩ := Beam.join_of_entriesIn he hruns hjoins
  have hsame (i : Nat) : ((b.arriveAt e j).entry i).st = .join ↔ (b.entry i).st = .join := by
    by_cases hi : i = e
    · rw [hi, Beam.entry_arriveAt_self he, hruns]
      exact ⟨nofun, nofun⟩
    · by_cases hij : i = j
      · rw [hij, Beam.entry_arriveAt_join he hruns hjoins]
      · rw [Beam.arriveAt, Beam.entry_setEntry_of_ne hi, Beam.entry_setEntry_of_ne hij]
  have hlen : (b.arriveAt e j).split.length = b.split.length := by simp only [Beam.arriveAt, Beam.length_setEntry]
  rw [← hjoins]
  simp only [Beam.entriesIn, hlen, beq_eq_decide, hsame]

theorem Beam.ripe_arriveAt : (b.arriveAt e j).ripe =
    if (b.entry j).mask &&& ~~~b.exited &&& ~~~((b.entry j).arrived ||| (b.entry e).mask) = 0 then [j] else [] := by
  have hexited : (b.arriveAt e j).exited = b.exited := rfl
  rw [Beam.ripe, Beam.entriesIn_arriveAt he hruns hjoins, List.filter_singleton, Beam.entry_arriveAt_join he hruns hjoins,
    hexited]
  simp only [cond_eq_ite, beq_iff_eq]

/-- The join entry waits on while lanes that it waits for have neither arrived nor exited. -/
theorem Beam.entry_settle_waits
    (h : (b.entry j).mask &&& ~~~b.exited &&& ~~~((b.entry j).arrived ||| (b.entry e).mask) ≠ 0) :
    ((b.arriveAt e j).settle 9).1.entry j = (b.arriveAt e j).entry j := by
  have hripe := Beam.ripe_arriveAt he hruns hjoins
  rw [if_neg h] at hripe
  simp only [Beam.settle, hripe]
  exact Beam.entry_restamp _ j

/-- With the last of them it goes on, with the lanes that have arrived. -/
theorem Beam.entry_settle_runs
    (h : (b.entry j).mask &&& ~~~b.exited &&& ~~~((b.entry j).arrived ||| (b.entry e).mask) = 0)
    (hlanes : ((b.entry j).arrived ||| (b.entry e).mask) &&& ~~~b.exited ≠ 0) :
    (((b.arriveAt e j).settle 9).1.entry j).st = .run ∧ (((b.arriveAt e j).settle 9).1.entry j).pc = (b.entry j).pc ∧
      (((b.arriveAt e j).settle 9).1.entry j).mask = ((b.entry j).arrived ||| (b.entry e).mask) &&& ~~~b.exited := by
  obtain ⟨hne, hlt, -⟩ := Beam.join_of_entriesIn he hruns hjoins
  have hripe := Beam.ripe_arriveAt he hruns hjoins
  rw [if_pos h] at hripe
  have hjoin := Beam.entry_arriveAt_join he hruns hjoins
  have hlen : j < (b.arriveAt e j).split.length := by simpa only [Beam.arriveAt, Beam.length_setEntry] using hlt
  let y := (b.arriveAt e j).entry j
  let r : Entry := { y with st := .run, mask := y.arrived &&& ~~~b.exited, arrived := 0, blk := none, wait := none
                            carry := none }
  have hset : ((b.arriveAt e j).setEntry j r).entry j = r := Beam.entry_setEntry_self hlen r
  have hresume : ((b.arriveAt e j).resume j).entry j = r := by
    refine (congrArg (fun z : Beam => z.entry j) (Beam.popLive_of_lanes ?_ 20)).trans hset
    have hmask : r.mask = ((b.entry j).arrived ||| (b.entry e).mask) &&& ~~~b.exited := by
      simp only [r, y, hjoin]
    exact (congrArg Entry.mask hset).trans hmask ▸ hlanes
  have hsettle : ((b.arriveAt e j).settle 9).1 = (((b.arriveAt e j).resume j).settle 8).1 := by
    rw [Beam.settle, hripe]
  rw [hsettle, Beam.entry_settle_of_ne_join (by rw [hresume]; exact nofun), hresume]
  simp only [r, y, hjoin, and_self]

end

section
variable {s : State} {x : Frag} (h : Clear s x (plain []))
include h

/-- A fragment at its JOIN header leaves its block's entry as `arrive` says. -/
theorem hdr_arrives {hd : Header} (hrsv : hd.rsv = 0) (hlen : hd.len.toNat % 2 = 0)
    (htrace : (s.coreOf x.core).trace.br = false) {r : Beam × List Returned}
    (harrive : x.b.arrive x.e x.pc = some r) (hkey : r.1.key = x.b.key) :
    ∃ b', exec (.hdr hd) s = .next (s.setBeam b') ∧ r.1.Delayed (r.2.map (·.entry)) b' := by
  obtain ⟨b', hlater, hdelayed⟩ := State.laterAll_setBeam (State.frag_beam h.frag) hkey r.2
  refine ⟨b', exec_of_stay h rfl ((if_neg (by simp [hrsv, hlen])).trans ?_), hdelayed⟩
  simp only [harrive, State.rcvPackets_untraced (s := s.setBeam r.1) htrace, hlater]

theorem hdr_joins {hd : Header} (hrsv : hd.rsv = 0) (hlen : hd.len.toNat % 2 = 0)
    (htrace : (s.coreOf x.core).trace.br = false) {j : Nat} (hjoin : x.entry.join = some x.pc)
    (hparent : x.entry.parent = some j) (hstacked : x.b.stacked x.e = false) (hjoins : x.b.entriesIn .join = [j]) :
    ∃ t b, exec (.hdr hd) s = .next t ∧ t.beam? x.b.key = some b ∧ t.mem = s.mem ∧ b.v = x.b.v ∧ b.s = x.b.s ∧
      (b.entry x.e).st = .free ∧
      ((x.b.entry j).mask &&& ~~~x.b.exited &&& ~~~((x.b.entry j).arrived ||| x.mask) ≠ 0 →
        (b.entry j).st = .join ∧ (b.entry j).arrived = (x.b.entry j).arrived ||| x.mask) ∧
      ((x.b.entry j).mask &&& ~~~x.b.exited &&& ~~~((x.b.entry j).arrived ||| x.mask) = 0 →
        ((x.b.entry j).arrived ||| x.mask) &&& ~~~x.b.exited ≠ 0 →
        (b.entry j).st = .run ∧ (b.entry j).pc = (x.b.entry j).pc ∧
          (b.entry j).mask = ((x.b.entry j).arrived ||| x.mask) &&& ~~~x.b.exited) := by
  have he := Frag.e_lt h.runs
  let r := (x.b.arriveAt x.e j).settle 9
  have hsame : x.b.SameBesideFlow r.1 :=
    ((Beam.SameBesideFlow.setEntry x.b j _).trans (.setEntry _ x.e _)).trans (.settle _ 9)
  have hkey := hsame.key
  obtain ⟨b, hexec, hd⟩ := hdr_arrives h hrsv hlen htrace (Beam.arrive_parent hjoin hparent h.runs hstacked) hkey
  have hall := hsame.trans hd.sameBesideFlow
  have hfree : r.1.entry x.e = Entry.none_ := by
    have hself := Beam.entry_arriveAt_self (j := j) he
    exact (Beam.entry_settle_of_ne_join (by rw [hself]; exact nofun) 9).trans hself
  refine ⟨_, b, hexec,
    State.beam?_setBeam_of_key (State.frag_beam h.frag) hall.key, rfl,
    hall.v, hall.s, ?_, fun hsome => ?_,
    fun hnone hlanes => ?_⟩
  · rw [hd.st, hfree]; rfl
  · rw [hd.st, hd.arrived, Beam.entry_settle_waits he h.runs hjoins hsome, Beam.entry_arriveAt_join he h.runs hjoins]
    exact ⟨(Beam.join_of_entriesIn he h.runs hjoins).2.2, rfl⟩
  · rw [hd.st, hd.pc, hd.mask]
    exact Beam.entry_settle_runs he h.runs hjoins hnone hlanes

end

/-- Settles O9: the paths by what merging keeps of a lane, BRV by its equation in each case of `diverge`, and the arrival
by the one join entry that can be ripe. -/
theorem brvDiverges : Obligations.BrvDiverges := by
  refine ⟨fun x u c bt bf bn i hi hlane hux => brvPaths_sorts bt bf bn hi hlane hux, ?branch,
    fun hd s x j h hrsv hlen htrace hjoin hparent hstacked _ hjoins _ _ =>
      hdr_joins h hrsv hlen htrace hjoin hparent hstacked hjoins⟩
  intro s x u c bt bf bn h htrace hux ps hfree
  refine ⟨fun p hone => ⟨brv_goes h hux rfl hfree htrace hone, brv_jumps h hux rfl hfree htrace hone⟩,
    fun j htwo hj hroom => brv_diverges_to_entries h hux rfl hfree htrace htwo hj hroom,
    fun j first others htwo hj hfew hroom hperm hrise =>
      brv_diverges_to_stack h hux rfl hfree htrace htwo hj hfew hroom hperm hrise, fun htwo => ⟨fun hrcv => ?_, ?_⟩⟩
  · exact brv_traps_of_reconv h hux rfl hfree htwo (if_pos (beq_iff_eq.mpr hrcv))
  · exact fun j hj hfew hfull => brv_traps_of_full h hux rfl hfree htwo hj (Beam.diverge_none hfew hfull)

end Sys2Proof.Machine
end

section
/-! Trap mode ends, and lanes retire (R83, R85, R148, R152, R347). -/

namespace Sys2Proof.Machine

/-! ### The user's fragments (R85, R152) -/

theorem getD_map_zipIdx {α β : Type} (f : α × Nat → β) (l : List α) {i : Nat} (hi : i < l.length) (a : α) (b : β) :
    (l.zipIdx.map f).getD i b = f (l.getD i a, i) := by
  simp [List.getD_eq_getElem?_getD, List.getElem?_eq_getElem hi]

theorem Beam.lt_of_st_ne_free {b : Beam} {e : Nat} (h : (b.entry e).st ≠ .free) : e < b.split.length := by
  by_contra hge
  refine h ?_
  rw [Beam.entry, List.getD_eq_getElem?_getD, List.getElem?_eq_none (Nat.le_of_not_lt hge)]
  rfl

section
variable {b : Beam} {tm : TrapMode} (pc : Nat) (blk : Option Block) (hloaded : tm.loaded = none)
include hloaded

theorem Beam.length_userSplit : (b.userSplit tm).length = b.split.length := by
  simp [Beam.userSplit, hloaded]

theorem Beam.userSplit_getD {i : Nat} (hi : i < b.split.length) : (b.userSplit tm).getD i Entry.none_ =
    if i = tm.entry then { tm.held with pc := b.epc } else if i ∈ tm.users then b.entry i else Entry.none_ := by
  simp only [Beam.userSplit, hloaded]
  rw [getD_map_zipIdx _ _ hi Entry.none_]
  simp only [beq_iff_eq, List.contains_iff_mem, Beam.entry]

/-- The trapped fragment goes on at `pc`, with the lanes that have not exited. -/
theorem Beam.entry_leaveTrap_trapped (hlt : tm.entry < b.split.length) (hheld : tm.held.st = .held) :
    ((b.leaveTrap tm pc blk).entry tm.entry).st = .run ∧ ((b.leaveTrap tm pc blk).entry tm.entry).pc = pc ∧
      ((b.leaveTrap tm pc blk).entry tm.entry).mask = tm.held.mask &&& ~~~b.exited := by
  have hentry : (b.leaveTrap tm pc blk).entry tm.entry = _ :=
    getD_map_zipIdx _ (b.userSplit tm) (by rwa [Beam.length_userSplit hloaded]) Entry.none_ _
  rw [hentry, Beam.userSplit_getD hloaded hlt]
  simp [hheld, hloaded]

/-- Every other held fragment runs where it was. -/
theorem Beam.entry_leaveTrap_held {j : Nat} (hne : j ≠ tm.entry) (huser : j ∈ tm.users)
    (hheld : (b.entry j).st = .held) :
    ((b.leaveTrap tm pc blk).entry j).st = .run ∧ ((b.leaveTrap tm pc blk).entry j).pc = (b.entry j).pc := by
  have hlt : j < b.split.length := Beam.lt_of_st_ne_free (by rw [hheld]; exact nofun)
  have hentry : (b.leaveTrap tm pc blk).entry j = _ :=
    getD_map_zipIdx _ (b.userSplit tm) (by rwa [Beam.length_userSplit hloaded]) Entry.none_ _
  rw [hentry, Beam.userSplit_getD hloaded hlt]
  simp [hne, huser, hheld]

end

/-! ### ERET (R152) -/

section
variable {s : State} {x : Frag} {skip : Bool} (h : Clear s x { priv := true, noGlint := false, uses := [] })
include h

theorem eret_untrapped_goes (htrap : x.b.trap = none) : Goes s x (.eret skip) s := by
  refine goes_of_keepsPlaces h rfl (u := s) ?_ (.refl s)
  simp only [htrap]

variable {tm : TrapMode} (htrap : x.b.trap = some tm) (htrace : (s.coreOf x.core).trace.br = false)
include htrap htrace

/-- The beam that ERET leaves is that of `leaveTrap` but for what lets ripe join entries run. -/
theorem eret_leaves : ∃ b, exec (.eret skip) s = .next (s.setBeam b) ∧
    (x.b.leaveTrap tm (if skip && x.b.epc == tm.epc then x.b.epc + 4 * tm.words else x.b.epc)
      (if x.b.epc == tm.epc then tm.held.blk else none)).SameBesideFlow b ∧ (x.b.eret skip tm).1.Delayed [tm.entry] b := by
  let r := x.b.eret skip tm
  have hsettle := Beam.SameBesideFlow.settle (x.b.leaveTrap tm
    (if skip && x.b.epc == tm.epc then x.b.epc + 4 * tm.words else x.b.epc)
    (if x.b.epc == tm.epc then tm.held.blk else none)) 9
  have hkey : r.1.key = x.b.key := hsettle.key
  obtain ⟨b, hlater, hd⟩ := State.later_setBeam (State.frag_beam h.frag) hkey tm.entry 1
  refine ⟨b, exec_of_stay h rfl ?_, hsettle.trans hd.sameBesideFlow, hd⟩
  simp only [htrap]
  exact congrArg Res.stay ((congrArg (State.later · x.b.key tm.entry 1)
    (State.rcvPackets_untraced (s := s.setBeam r.1) htrace r.2)).trans hlater)

theorem eret_ends_trap : ∃ t b, exec (.eret skip) s = .next t ∧ t.beam? x.b.key = some b ∧ b.trap = none ∧
    b.pl = false ∧ t.mem = s.mem := by
  obtain ⟨b, hexec, hsame, -⟩ := eret_leaves (skip := skip) h htrap htrace
  exact ⟨_, b, hexec, State.beam?_setBeam_of_key (State.frag_beam h.frag) hsame.key,
    hsame.trap rfl, hsame.pl, rfl⟩

theorem eret_restores (hloaded : tm.loaded = none) (hlt : tm.entry < x.b.split.length) (hheld : tm.held.st = .held) :
    ∃ t b, exec (.eret skip) s = .next t ∧ t.mem = s.mem ∧ t.beam? x.b.key = some b ∧ b.trap = none ∧ b.pl = false ∧
      b.v = x.b.v ∧ b.s = x.b.s ∧ b.c = x.b.c ∧ b.k = x.b.k ∧ b.status = x.b.status ∧
      (b.entry tm.entry).st = .run ∧ (b.entry tm.entry).mask = tm.held.mask &&& ~~~x.b.exited ∧
      (b.entry tm.entry).pc = (if skip = true ∧ x.b.epc = tm.epc then x.b.epc + 4 * tm.words else x.b.epc) ∧
      (∀ j, j ≠ tm.entry → j ∈ tm.users → (x.b.entry j).st = .held →
        (b.entry j).st = .run ∧ (b.entry j).pc = (x.b.entry j).pc) := by
  obtain ⟨b, hexec, hsame, hd⟩ := eret_leaves (skip := skip) h htrap htrace
  let pc := if skip && x.b.epc == tm.epc then x.b.epc + 4 * tm.words else x.b.epc
  let blk := if x.b.epc == tm.epc then tm.held.blk else none
  have hpc : pc = if skip = true ∧ x.b.epc = tm.epc then x.b.epc + 4 * tm.words else x.b.epc :=
    if_congr (by rw [Bool.and_eq_true, beq_iff_eq]) rfl rfl
  have hruns {j : Nat} (hrun : ((x.b.leaveTrap tm pc blk).entry j).st = .run) :
      (x.b.eret skip tm).1.entry j = (x.b.leaveTrap tm pc blk).entry j :=
    Beam.entry_settle_of_ne_join (by rw [hrun]; exact nofun) 9
  obtain ⟨hst, htpc, hmask⟩ := Beam.entry_leaveTrap_trapped pc blk hloaded hlt hheld
  refine ⟨_, b, hexec, rfl,
    State.beam?_setBeam_of_key (State.frag_beam h.frag) hsame.key,
    hsame.trap rfl, hsame.pl, hsame.v, hsame.s, hsame.c, hsame.k, hsame.status, ?_, ?_, ?_,
    fun j hne huser hj => ?_⟩
  · rw [hd.st, hruns hst, hst]
  · rw [hd.mask, hruns hst, hmask]
  · rw [hd.pc, hruns hst, htpc, hpc]
  · obtain ⟨hjst, hjpc⟩ := Beam.entry_leaveTrap_held pc blk hloaded hne huser hj
    rw [hd.st, hd.pc, hruns hjst]
    exact ⟨hjst, hjpc⟩

end

/-! ### A beam without live lanes (R83, R347) -/

/-- A beam that retires leaves every other as it was, glints that it issued apart. -/
theorem State.retire_beam?_other {s : State} {k j : BeamKey} {y : Beam} (hj : j ≠ k) (hy : s.beam? j = some y)
    (hg : y.glint = none) : (s.retire k).beam? j = some y := by
  unfold State.retire
  split
  · exact hy
  · have hsame (z : Beam) : decide ((z.key != k) = true ∧ (z.key == j) = true) = (z.key == j) := by
      by_cases hz : z.key = j
      · simp [hz, hj]
      · simp [hz]
    simp only [State.beam?, List.find?_map, List.find?_filter, State.leaveAll_beams, Function.comp_def, hsame]
    rw [show s.beams.find? (fun z => z.key == j) = some y from hy]
    cases y
    cases hg
    rfl

theorem State.mem_setBeam {s : State} {b y : Beam} :
    y ∈ (s.setBeam b).beams ↔ (y = b ∧ ∃ z ∈ s.beams, z.key = b.key) ∨ (y ∈ s.beams ∧ y.key ≠ b.key) := by
  simp only [State.setBeam, replaceBy, List.mem_map, beq_iff_eq]
  constructor
  · rintro ⟨z, hz, rfl⟩
    split
    · next hkey => exact .inl ⟨rfl, z, hz, hkey⟩
    · next hkey => exact .inr ⟨hz, hkey⟩
  · rintro (⟨rfl, z, hz, hkey⟩ | ⟨hy, hkey⟩)
    · exact ⟨z, hz, if_pos hkey⟩
    · exact ⟨y, hy, if_neg hkey⟩

theorem State.mem_liveBeams {s : State} {c : CohortKey} {y : Beam} :
    y ∈ s.liveBeams c ↔ y ∈ s.beams ∧ y.cohort = c ∧ y.glint = none ∧ y.live ≠ 0 := by
  simp [State.liveBeams, and_assoc]

section
variable {s : State} {b y : Beam} (hy : s.beam? b.key = some y)

/-- Once the beam `b` has no live lane, the live beams of the cohort are the others. -/
theorem State.liveBeams_setBeam (hlive : b.live = 0) (c : CohortKey) :
    ((s.setBeam b).liveBeams c).isEmpty = true ↔ ∀ z ∈ s.liveBeams c, z.key = b.key := by
  rw [List.isEmpty_iff, List.eq_nil_iff_forall_not_mem]
  simp only [State.mem_liveBeams, State.mem_setBeam]
  constructor
  · rintro hnone z ⟨hz, hrest⟩
    by_contra hkey
    exact hnone z ⟨.inr ⟨hz, hkey⟩, hrest⟩
  · rintro hall z ⟨⟨rfl, -⟩ | ⟨hz, hkey⟩, hrest⟩
    · exact hrest.2.2 hlive
    · exact hkey (hall z ⟨hz, hrest⟩)

include hy

theorem State.afterExit_live (hlive : b.live ≠ 0) : (s.setBeam b).afterExit b.key = s.setBeam b := by
  simp only [State.afterExit, State.beam?_setBeam_of_key hy rfl]
  exact if_pos (bne_iff_ne.mpr hlive)

variable (hlive : b.live = 0) (hglint : b.glint = none)
include hlive hglint

theorem State.afterExit_last (hlast : ∀ z ∈ s.liveBeams b.cohort, z.key = b.key) :
    (s.setBeam b).afterExit b.key = s.setBeam { b with retiring := true } := by
  have hempty := (State.liveBeams_setBeam hlive b.cohort).mpr hlast
  simp only [State.afterExit, State.beam?_setBeam_of_key hy rfl, hlive, hglint, hempty, bne_self_eq_false,
    Bool.false_eq_true, if_false, Option.isNone_none, Bool.and_self, if_true]
  exact s.setBeam_setBeam rfl

theorem State.afterExit_retires (hother : ∃ z ∈ s.liveBeams b.cohort, z.key ≠ b.key) :
    (s.setBeam b).afterExit b.key = (s.setBeam b).retire b.key := by
  have hsome : ((s.setBeam b).liveBeams b.cohort).isEmpty = false := by
    rw [Bool.eq_false_iff, ne_eq, State.liveBeams_setBeam hlive]
    simpa using hother
  simp only [State.afterExit, State.beam?_setBeam_of_key hy rfl, hlive, hglint, hsome, bne_self_eq_false,
    Bool.false_eq_true, if_false, Bool.and_false]

end

end Sys2Proof.Machine
end

section
/-! EXIT (R83, R148, R270, R347, R408). -/

namespace Sys2Proof.Machine

/-- The beam once the lanes of entry `e` have exited. -/
def Beam.without (b : Beam) (e : Nat) : Beam := { b with exited := b.exited ||| (b.entry e).mask }

theorem Beam.live_without (b : Beam) (e : Nat) : (b.without e).live = b.live &&& ~~~(b.entry e).mask := by
  simp only [Beam.live, Beam.without, BitVec.not_or, BitVec.and_assoc]

/-- The lanes retire, the fragment goes on without them, and ripe join entries run. -/
theorem Beam.exitLanes_eq (b : Beam) (e : Nat) : b.exitLanes e =
    (((b.without e).setEntry e { b.entry e with mask := 0, blk := none }).popLive e 20).settle 9 := rfl

theorem Beam.exitLanes_sameBesideFlow (b : Beam) (e : Nat) : (b.without e).SameBesideFlow (b.exitLanes e).1 := by
  rw [Beam.exitLanes_eq]
  exact ((Beam.SameBesideFlow.setEntry _ e _).trans (.popLive _ e 20)).trans (.settle _ 9)

section
variable {b : Beam} {e : Nat} {tm : TrapMode}

/-- With its last lane the handler ends. -/
theorem Beam.exitTrap_last (h : tm.held.mask &&& ~~~(b.exited ||| (b.entry e).mask) = 0) : b.exitTrap e tm =
    ((((b.without e).leaveTrap tm b.epc none).popLive tm.entry 20).settle 9) := if_pos (beq_iff_eq.mpr h)

theorem Beam.exitTrap_more (h : tm.held.mask &&& ~~~(b.exited ||| (b.entry e).mask) ≠ 0) :
    b.exitTrap e tm = b.exitLanes e := if_neg fun h' => h (beq_iff_eq.mp h')

theorem Beam.exitTrap_last_sameBesideFlow (h : tm.held.mask &&& ~~~(b.exited ||| (b.entry e).mask) = 0) :
    ((b.without e).leaveTrap tm b.epc none).SameBesideFlow (b.exitTrap e tm).1 := by
  rw [Beam.exitTrap_last h]
  exact (Beam.SameBesideFlow.popLive _ _ 20).trans (.settle _ 9)

/-- What an EXIT in trap mode leaves in any case. -/
theorem Beam.exitTrap_keeps : (b.exitTrap e tm).1.key = b.key ∧
    (b.exitTrap e tm).1.exited = b.exited ||| (b.entry e).mask ∧ (b.exitTrap e tm).1.w = b.w := by
  by_cases h : tm.held.mask &&& ~~~(b.exited ||| (b.entry e).mask) = 0
  · have hsame := Beam.exitTrap_last_sameBesideFlow h
    exact ⟨hsame.key, hsame.exited, hsame.w⟩
  · rw [Beam.exitTrap_more h]
    have hsame := b.exitLanes_sameBesideFlow e
    exact ⟨hsame.key, hsame.exited, hsame.w⟩

/-- A fragment that trap mode held runs on where it was. -/
theorem Beam.entry_exitTrap_held (h : tm.held.mask &&& ~~~(b.exited ||| (b.entry e).mask) = 0) (hloaded : tm.loaded = none)
    {j : Nat} (hne : j ≠ tm.entry) (huser : j ∈ tm.users) (hheld : (b.entry j).st = .held) :
    ((b.exitTrap e tm).1.entry j).st = .run ∧ ((b.exitTrap e tm).1.entry j).pc = (b.entry j).pc := by
  have hleave := Beam.entry_leaveTrap_held (b := b.without e) b.epc none hloaded hne huser hheld
  have hpop := Beam.entry_popLive_of_ne ((b.without e).leaveTrap tm b.epc none) hne 20
  rw [Beam.exitTrap_last h, Beam.entry_settle_of_ne_join (by rw [hpop, hleave.1]; exact nofun), hpop]
  exact hleave

end

section
variable {s : State} {x : Frag} (h : Clear s x (plain [])) (htrace : (s.coreOf x.core).trace.br = false)
include h htrace

/-- What follows the exit of lanes, once the beam is as `exitLanes` or `exitTrap` leaves it. -/
theorem exit_tail {r : Beam × List Returned} (hkey : r.1.key = x.b.key) : ∃ b, r.1.Delayed (r.2.map (·.entry)) b ∧
    (((s.setBeam r.1).rcvPackets x.b r.2).laterAll x.b.key r.2).afterExit x.b.key = (s.setBeam b).afterExit b.key := by
  obtain ⟨b, hlater, hd⟩ := State.laterAll_setBeam (State.frag_beam h.frag) hkey r.2
  refine ⟨b, hd, ?_⟩
  rw [State.rcvPackets_untraced (s := s.setBeam r.1) htrace, hlater, hd.sameBesideFlow.key, hkey]

variable (hglint : x.b.glint = none)
include hglint

theorem exit_user (htrap : x.b.trap = none) : ∃ b, exec .exit s = .next ((s.setBeam b).afterExit b.key) ∧
    (x.b.without x.e).SameBesideFlow b := by
  have hsame := x.b.exitLanes_sameBesideFlow x.e
  obtain ⟨b, hd, htail⟩ := exit_tail h htrace hsame.key
  refine ⟨b, exec_of_stay h rfl ?_, hsame.trans hd.sameBesideFlow⟩
  simp only [htrap, hglint, htail]

theorem exit_handler {tm : TrapMode} (htrap : x.b.trap = some tm) :
    ∃ b, exec .exit s = .next ((s.setBeam b).afterExit b.key) ∧
      (x.b.exitTrap x.e tm).1.Delayed ((x.b.exitTrap x.e tm).2.map (·.entry)) b := by
  obtain ⟨hkey, -, -⟩ := Beam.exitTrap_keeps (b := x.b) (e := x.e) (tm := tm)
  obtain ⟨b, hd, htail⟩ := exit_tail h htrace hkey
  refine ⟨b, exec_of_stay h rfl ?_, hd⟩
  simp only [htrap, hglint, htail]

end

/-- Every beam but `k`, glints apart, is found as before. -/
def State.KeepsOthers (s : State) (k : BeamKey) (t : State) : Prop :=
  ∀ j y, j ≠ k → s.beam? j = some y → y.glint = none → t.beam? j = some y

theorem State.keepsOthers_setBeam (s : State) {b : Beam} {k : BeamKey} (hk : b.key = k) : s.KeepsOthers k (s.setBeam b) :=
  fun j _ hj hy _ => (((OnlyBeam.refl s k).setBeam b hk).others j hj).trans hy

section
variable {s : State} {x : Frag} (h : Clear s x (plain [])) (htrace : (s.coreOf x.core).trace.br = false)
  (hglint : x.b.glint = none)
include h htrace hglint

section
variable (htrap : x.b.trap = none)
include htrap

theorem exit_keeps_beam (hkept : x.b.live &&& ~~~x.mask ≠ 0) :
    ∃ t b, exec .exit s = .next t ∧ t.mem = s.mem ∧ t.beam? x.b.key = some b ∧ b.exited = x.b.exited ||| x.mask ∧
      b.v = x.b.v ∧ b.s = x.b.s ∧ b.c = x.b.c ∧ b.k = x.b.k ∧ b.status = x.b.status ∧ s.KeepsOthers x.b.key t := by
  obtain ⟨b, hexec, hsame⟩ := exit_user h htrace hglint htrap
  have hkey : b.key = x.b.key := hsame.key
  have hlive : b.live = (x.b.without x.e).live := hsame.live
  have hx := State.frag_beam h.frag
  rw [State.afterExit_live (by rwa [hkey]) (by rw [hlive, Beam.live_without]; exact hkept)] at hexec
  exact ⟨_, b, hexec, rfl, State.beam?_setBeam_of_key hx hkey, hsame.exited, hsame.v, hsame.s, hsame.c, hsame.k,
    hsame.status, s.keepsOthers_setBeam hkey⟩

variable (hgone : ¬x.b.live &&& ~~~x.mask ≠ 0)
include hgone

theorem exit_retires (hother : ∃ y ∈ s.liveBeams x.b.cohort, y.key ≠ x.b.key) :
    ∃ t, exec .exit s = .next t ∧ t.mem = s.mem ∧ t.beam? x.b.key = none ∧ s.KeepsOthers x.b.key t := by
  obtain ⟨b, hexec, hsame⟩ := exit_user h htrace hglint htrap
  have hkey : b.key = x.b.key := hsame.key
  have hcohort : b.cohort = x.b.cohort := hsame.cohort
  have hlive : b.live = (x.b.without x.e).live := hsame.live
  have hx := State.frag_beam h.frag
  rw [State.afterExit_retires (by rwa [hkey]) (by rw [hlive, Beam.live_without]; exact not_not.mp hgone)
    (hsame.glint.trans hglint) (by rwa [hkey, hcohort]), hkey] at hexec
  refine ⟨_, hexec, State.retire_mem _ _, ?_, fun j y hj hy hg =>
    State.retire_beam?_other hj (s.keepsOthers_setBeam hkey j y hj hy hg) hg⟩
  rw [← Option.not_isSome_iff_eq_none, State.retire_beam?]
  simp

theorem exit_last (hlast : ∀ y ∈ s.liveBeams x.b.cohort, y.key = x.b.key) :
    ∃ t b, exec .exit s = .next t ∧ t.mem = s.mem ∧ t.beam? x.b.key = some b ∧ b.retiring = true ∧ b.live = 0 ∧
      s.KeepsOthers x.b.key t := by
  obtain ⟨b, hexec, hsame⟩ := exit_user h htrace hglint htrap
  have hkey : b.key = x.b.key := hsame.key
  have hcohort : b.cohort = x.b.cohort := hsame.cohort
  have hlive : b.live = (x.b.without x.e).live := hsame.live
  have hx := State.frag_beam h.frag
  have hzero : b.live = 0 := by rw [hlive, Beam.live_without]; exact not_not.mp hgone
  rw [State.afterExit_last (by rwa [hkey]) hzero (hsame.glint.trans hglint)
    (by rwa [hkey, hcohort])] at hexec
  exact ⟨_, { b with retiring := true }, hexec, rfl, State.beam?_setBeam_of_key hx hkey, rfl, hzero,
    s.keepsOthers_setBeam hkey⟩

end

section
variable (hkept : x.b.live &&& ~~~x.mask ≠ 0) {tm : TrapMode} (htrap : x.b.trap = some tm)
include hkept htrap

theorem exit_handler_keeps_beam : ∃ b, exec .exit s = .next (s.setBeam b) ∧ b.key = x.b.key ∧
    (x.b.exitTrap x.e tm).1.Delayed ((x.b.exitTrap x.e tm).2.map (·.entry)) b := by
  obtain ⟨b, hexec, hd⟩ := exit_handler h htrace hglint htrap
  obtain ⟨hrkey, hrexited, hrw⟩ := Beam.exitTrap_keeps (b := x.b) (e := x.e) (tm := tm)
  have hkey := hd.sameBesideFlow.key.trans hrkey
  have hlive : b.live = (x.b.without x.e).live := by
    rw [hd.sameBesideFlow.live, Beam.live, hrexited, hrw]
    rfl
  rw [State.afterExit_live (by rw [hkey]; exact State.frag_beam h.frag)
    (by rw [hlive, Beam.live_without]; exact hkept)] at hexec
  exact ⟨b, hexec, hkey, hd⟩

theorem exit_handler_retires_lanes :
    ∃ t b, exec .exit s = .next t ∧ t.mem = s.mem ∧ t.beam? x.b.key = some b ∧ b.exited = x.b.exited ||| x.mask ∧
      s.KeepsOthers x.b.key t := by
  obtain ⟨b, hexec, hkey, hd⟩ := exit_handler_keeps_beam h htrace hglint hkept htrap
  obtain ⟨-, hexited, -⟩ := Beam.exitTrap_keeps (b := x.b) (e := x.e) (tm := tm)
  exact ⟨_, b, hexec, rfl, State.beam?_setBeam_of_key (State.frag_beam h.frag) hkey,
    hd.sameBesideFlow.exited.trans hexited, s.keepsOthers_setBeam hkey⟩

theorem exit_handler_ends_trap (hlast : tm.held.mask &&& ~~~(x.b.exited ||| x.mask) = 0) :
    ∃ t b, exec .exit s = .next t ∧ t.beam? x.b.key = some b ∧ b.trap = none ∧ b.pl = false ∧
      (tm.loaded = none → x.b.entriesIn .join = [] → ∀ j, j ≠ tm.entry → j ∈ tm.users → (x.b.entry j).st = .held →
        (b.entry j).st = .run ∧ (b.entry j).pc = (x.b.entry j).pc) := by
  obtain ⟨b, hexec, hkey, hd⟩ := exit_handler_keeps_beam h htrace hglint hkept htrap
  have hsame := (Beam.exitTrap_last_sameBesideFlow hlast).trans hd.sameBesideFlow
  refine ⟨_, b, hexec, State.beam?_setBeam_of_key (State.frag_beam h.frag) hkey, hsame.trap rfl, hsame.pl,
    fun hloaded _ j hne huser hheld => ?_⟩
  rw [hd.st, hd.pc]
  exact Beam.entry_exitTrap_held hlast hloaded hne huser hheld

end

end

/-! ### A glint's EXIT (R270) -/

section
variable {s : State} {x : Frag} (h : Clear s x (plain [])) {g : Glint} (hglint : x.b.glint = some g)
include h hglint

theorem exit_glint_traps (htrap : x.b.trap = none) : Traps s x .exit (x.glintTrap 2) :=
  traps_of_trap h rfl (by simp only [htrap, hglint])

theorem exit_glint_lost {tm : TrapMode} (htrap : x.b.trap = some tm) :
    exec .exit s = .next (s.glintLost x.b.key g) :=
  exec_of_stay h rfl (by simp only [htrap, hglint])

end

/-- Settles O13: ERET and the handler's last EXIT by `leaveTrap`, and every other EXIT by the beam that `exitLanes`
leaves, whose live lanes decide what `afterExit` does. -/
theorem eretAndExit : Obligations.EretAndExit := by
  refine ⟨fun s x skip h => ⟨eret_untrapped_goes h, fun htrap htrace => ?_,
    fun tm htrap hloaded htrace _ hlt hheld => eret_restores h htrap htrace hloaded hlt hheld⟩, fun s x h htrace => ?_⟩
  · obtain ⟨tm, htrap⟩ := Option.isSome_iff_exists.mp htrap
    exact eret_ends_trap h htrap htrace
  · refine ⟨fun htrap hglint => ⟨exit_keeps_beam h htrace hglint htrap, exit_retires h htrace hglint htrap,
      exit_last h htrace hglint htrap⟩, fun htrap hglint hkept => ?_,
      fun tm htrap hglint hkept hlast => exit_handler_ends_trap h htrace hglint hkept htrap hlast,
      fun g hglint => ⟨exit_glint_traps h hglint, fun htrap => ?_⟩⟩
    · obtain ⟨tm, htrap⟩ := Option.isSome_iff_exists.mp htrap
      exact exit_handler_retires_lanes h htrace hglint hkept htrap
    · obtain ⟨tm, htrap⟩ := Option.isSome_iff_exists.mp htrap
      exact exit_glint_lost h hglint htrap

end Sys2Proof.Machine
end

section
/-! The integer and floating-point instructions on vectors (R187 to R192, R195 to R200, R203): each is the frame of one,
two or three sources, with its own function of a lane's operands. -/

namespace Sys2Proof.Machine

/-! ### Frames of one kind of operation -/

section
variable {i : Instr} {t : Ty} {d : Reg} {a : VArg} {b : VArgI}

theorem State.int1_runs (op : Int → Int) (hi : ∀ s, exec i s = s.int1 t d b op) :
    Runs i (dstV t d ++ VArgI.uses t.wide 1 b) fun _ x => x.laneWrites t.wide d (x.srcI t b).2 fun l =>
      intLane t (fun v => op (argI v 0)) [(x.srcI t b).1 l] :=
  State.vec1_runs t.wide t d b (fun p => intLane t (fun v => op (argI v 0)) [p]) i hi

theorem State.int2_runs (op : Int → Int → Int) (hi : ∀ s, exec i s = s.int2 t d a b op) :
    Runs i (dstV t d ++ VArg.uses t.wide 1 a ++ VArgI.uses t.wide 2 b) fun _ x =>
      x.laneWrites t.wide d ((x.src t a).2 ||| (x.srcI t b).2) fun l =>
        intLane t (fun v => op (argI v 0) (argI v 1)) [(x.src t a).1 l, (x.srcI t b).1 l] :=
  State.vec2_runs t.wide t t d a b (fun p q => intLane t (fun v => op (argI v 0) (argI v 1)) [p, q]) i hi

theorem State.bits2_runs (op : Nat → Nat → Nat) (hi : ∀ s, exec i s = s.bits2 t d a b op) :
    Runs i (dstV t d ++ VArg.uses t.wide 1 a ++ VArgI.uses t.wide 2 b) fun _ x =>
      x.laneWrites t.wide d ((x.src t a).2 ||| (x.srcI t b).2) fun l => (op ((x.src t a).1 l) ((x.srcI t b).1 l), 0) :=
  State.vec2_runs t.wide t t d a b (fun p q => (op p q, 0)) i hi

theorem State.float2_runs {r : Rnd} (op : Num → Num → Num × Bool) (hi : ∀ s, exec i s = s.float2 t r d a b op) :
    Runs i (dstV t d ++ VArg.uses t.wide 1 a ++ VArgI.uses t.wide 2 b) fun _ x =>
      x.laneWrites t.wide d ((x.src t a).2 ||| (x.srcI t b).2) fun l =>
        mapElems t (floatElem (Ty.fmt t) r fun v => op (arg v 0) (arg v 1)) [(x.src t a).1 l, (x.srcI t b).1 l] :=
  State.vec2_runs t.wide t t d a b
    (fun p q => mapElems t (floatElem (Ty.fmt t) r fun v => op (arg v 0) (arg v 1)) [p, q]) i hi

end

/-! ### Integer results -/

/-- Settles O2: each instruction is the vector frame of its function of the lane's operands; IABS computes `Int.natAbs`,
which is the absolute value. -/
theorem vectorIntegerResults : Obligations.VectorIntegerResults := by
  refine ⟨fun t d a b c => ⟨?iadd, ?isub, ?imul, ?imulh, ?imin, ?imax, ?iabs, ?ineg, ?imad, ?idot4⟩,
    fun t d a b c sh => ⟨?and, ?or, ?xor, ?not, ?shl, ?shr, ?sar, ?bfe, ?bfi, ?popc, ?clz, ?lea⟩⟩
  case iadd => exact State.int2_runs (· + ·) fun _ => rfl
  case isub => exact State.int2_runs (· - ·) fun _ => rfl
  case imul => exact State.int2_runs (· * ·) fun _ => rfl
  case imulh => exact State.int2_runs (fun p q => p * q / 2 ^ 32) fun _ => rfl
  case imin => exact State.int2_runs min fun _ => rfl
  case imax => exact State.int2_runs max fun _ => rfl
  case iabs =>
    refine State.int1_runs (fun p => |p|) fun s => ?_
    simp only [Int.abs_eq_natAbs]
    rfl
  case ineg => exact State.int1_runs (fun p => -p) fun _ => rfl
  case imad =>
    exact State.vec3_runs t.wide t t t d a b c
      (fun p q u => intLane t (fun v => argI v 0 * argI v 1 + argI v 2) [p, q, u]) _ fun _ => rfl
  case idot4 => exact State.vec3_runs false t t (dotTy t) d a b c (idot4Lane t) _ fun _ => rfl
  case and => exact State.bits2_runs (· &&& ·) fun _ => rfl
  case or => exact State.bits2_runs (· ||| ·) fun _ => rfl
  case xor => exact State.bits2_runs (· ^^^ ·) fun _ => rfl
  case not => exact State.vec1_runs t.wide t d b (fun p => (2 ^ Ty.width t - 1 - p, 0)) _ fun _ => rfl
  case shl => exact State.vec2_runs t.wide t (countTy t) d a b (shlLane t) _ fun _ => rfl
  case shr => exact State.vec2_runs t.wide t (countTy t) d a b (shrLane t) _ fun _ => rfl
  case sar => exact State.vec2_runs t.wide t (countTy t) d a b (sarLane t) _ fun _ => rfl
  case bfe => exact State.vec2_runs t.wide t .b32 d a b (bfeLane t) _ fun _ => rfl
  case bfi => exact State.vec3_runs t.wide t .b32 t d a b c (bfiLane t) _ fun _ => rfl
  case popc => exact State.vec1_runs false t d b (laneCount t (popCount (Ty.width t))) _ fun _ => rfl
  case clz => exact State.vec1_runs false t d b (laneCount t (leadZeros (Ty.width t))) _ fun _ => rfl
  case lea => exact State.vec2_runs true .n64 t d a b (leaLane t sh.toNat) _ fun _ => rfl

/-! ### Floating-point results -/

/-- Settles O3: each instruction is the vector frame of its function of the lane's operands. -/
theorem vectorFloatResults : Obligations.VectorFloatResults := by
  intro t st r d a b c
  refine ⟨?fadd, ?fsub, ?fmul, ?ffma, ?fmin, ?fmax, ?fclass, ?fdot2, ?pfma, ?padd, ?fscale, ?frnd, ?cvt⟩
  case fadd => exact State.float2_runs (fun p q => sumExact (r == .rd) [p, q]) fun _ => rfl
  case fsub => exact State.float2_runs (fun p q => sumExact (r == .rd) [p, q.neg]) fun _ => rfl
  case fmul => exact State.float2_runs mulExact fun _ => rfl
  case ffma =>
    exact State.vec3_runs t.wide t t t d a b c (fun p q u =>
      mapElems t (floatElem (Ty.fmt t) r fun v => fmaExact (r == .rd) (arg v 0) (arg v 1) (arg v 2)) [p, q, u]) _
      fun _ => rfl
  case fmin =>
    exact State.vec2_runs t.wide t t d a b (fun p q =>
      mapElems t (fun v => (floatPick (Ty.fmt t) false (v.getD 0 0) (v.getD 1 0), 0)) [p, q]) _ fun _ => rfl
  case fmax =>
    exact State.vec2_runs t.wide t t d a b (fun p q =>
      mapElems t (fun v => (floatPick (Ty.fmt t) true (v.getD 0 0) (v.getD 1 0), 0)) [p, q]) _ fun _ => rfl
  case fclass => exact State.vec1_runs false .f32 d b (fun p => (classOf p, 0)) _ fun _ => rfl
  case fdot2 =>
    exact State.vec3_runs false t t .f32 d a b c (fun p q u =>
      dotF32 r [(elemNum t p 0, elemNum t q 0), (elemNum t p 1, elemNum t q 1)] [Fmt.value .f32 u]) _ fun _ => rfl
  case pfma =>
    exact State.vec3_runs true t t .b64 d a b c (fun p q u =>
      joinPair (dotF32 r [(elemNum t p 0, elemNum t q 0)] [pairNum u 0])
        (dotF32 r [(elemNum t p 1, elemNum t q 1)] [pairNum u 1])) _ fun _ => rfl
  case padd =>
    exact State.vec2_runs true t .b64 d a b (fun p u =>
      joinPair (dotF32 r [] [elemNum t p 0, pairNum u 0]) (dotF32 r [] [elemNum t p 1, pairNum u 1])) _ fun _ => rfl
  case fscale =>
    exact State.vec2_runs t.wide t .s32 d a b (fun p n =>
      mapElems t (fun v => scaleElem (Ty.fmt t) r n (v.getD 0 0)) [p]) _ fun _ => rfl
  case frnd =>
    exact State.vec1_runs t.wide t d b (fun p =>
      mapElems t (fun v => integralElem (Ty.fmt t) r (v.getD 0 0)) [p]) _ fun _ => rfl
  case cvt => exact State.vec1_runs t.wide st d b (cvtLane t st r) _ fun _ => rfl

end Sys2Proof.Machine
end

section
/-! The instructions that write truth values and those that read other lanes (R47, R57, R88, R174, R175, R190, R197, R206,
R207, R209, R210, R212 to R215). -/

namespace Sys2Proof.Machine

/-! ### Frames of a result

The registers that an instruction names begin with its destination's. -/

theorem prefix_append_append {α : Type} (us vs ws : List α) : us <+: us ++ vs ++ ws :=
  (List.prefix_append us vs).trans (List.prefix_append (us ++ vs) ws)

section
variable {i : Instr} {d : Reg} {us : List Use}

/-- An instruction that writes a truth value in every active lane, with flags of its own, runs. -/
theorem runs_of_putTri {f : Frag → Nat → Tri} {fl : Frag → Flags} (hd : dstC d <+: us)
    (hi : ∀ s, exec i s = s.runFrag (plain us) fun x s => s.beamDone (x.putTri d (fl x) (f x))) :
    Runs i us fun _ x => truthWrites d (fl x) (f x) := by
  obtain ⟨vs, rfl⟩ := hd
  exact runs_of_wrote hi (fun _ _ => rfl) fun _ x hs hu => Wrote.putTri x hs d hu (fl x) (f x)

/-- An instruction that writes a uniform truth value runs. -/
theorem runs_of_putK {f : Frag → Tri} (hd : dstK d <+: us)
    (hi : ∀ s, exec i s = s.runFrag (plain us) fun x s => s.beamDone (x.b.putK x.lead d.toNat (f x).code)) :
    Runs i us fun _ x => uniformWrites d (f x) := by
  obtain ⟨vs, rfl⟩ := hd
  exact runs_of_wrote hi (fun _ _ => rfl) fun _ x hs hu => Wrote.putK_uses x hs d hu (f x)

/-- An instruction that writes a uniform truth value and raises flags runs. -/
theorem runs_of_putK_raise {f : Frag → Tri} {fl : Frag → Flags} (hd : dstK d <+: us)
    (hi : ∀ s, exec i s = s.runFrag (plain us) fun x s =>
      s.beamDone ((x.b.putK x.lead d.toNat (f x).code).raise (fl x))) :
    Runs i us fun _ x => { uniformWrites d (f x) with flags := fl x } := by
  obtain ⟨vs, rfl⟩ := hd
  refine runs_of_wrote hi (fun _ _ => rfl) fun _ x hs hu => ?_
  simpa [uniformWrites] using (Wrote.putK_uses x hs d hu (f x)).raise (fl x)

/-- An instruction that writes one value a lane, with flags of its own, runs. -/
theorem runs_of_putV_raise_of_prefix {wide : Bool} {f : Frag → Nat → Nat} {fl : Frag → Flags}
    (hd : regUses .v d wide 0 true false <+: us)
    (hi : ∀ s, exec i s = s.runFrag (plain us) fun x s => s.beamDone ((x.putV wide d.toNat (f x)).raise (fl x))) :
    Runs i us fun _ x => { v := wordsOf wide d (f x), flags := fl x } := by
  obtain ⟨vs, rfl⟩ := hd
  exact runs_of_putV_raise hi

end

theorem State.vecCmp_runs {i : Instr} {c : Cmp} {t : Ty} {d : Reg} {a : VArg} {b : VArgI}
    (hi : ∀ s, exec i s = s.vecCmp c t d a b) :
    Runs i (dstC d ++ useAB t a b) fun _ x => truthWrites d ((x.src t a).2 ||| (x.srcI t b).2) fun l =>
      compareElem (Ty.fmt t) c ((x.src t a).1 l) ((x.srcI t b).1 l) :=
  runs_of_putTri (List.prefix_append ..) hi

/-! ### RED and SCAN -/

/-- The register of the count that `.cnt` keeps: the one behind vD (R213). -/
def countReg (t : Ty) (d : Reg) : Nat := d.toNat + if t.wide then 2 else 1

/-- The node over the first `n` lanes, for each element of the type (R47). -/
def Frag.nodes (x : Frag) (op : RedOp) (t : Ty) (b : VArgI) (n : Nat) : List Node :=
  (List.range (Ty.width t / Ty.ewidth t)).map fun e => scanOf (Ty.fmt t) op (x.leaf t (x.srcI t b).1 e) n

/-- The value of such nodes: absent where nothing is kept. -/
def nodesValue (t : Ty) (ns : List Node) : Coded :=
  (Ty.join t (ns.map fun v => v.val.getD (Fmt.absent (Ty.fmt t))), orFlags (ns.map (·.flags)))

/-- What RED and SCAN write where lane `i` covers the first `upTo i` lanes (R212, R213). -/
def Frag.scanWrites (x : Frag) (op : RedOp) (cnt : Bool) (t : Ty) (d : Reg) (b : VArgI) (upTo : Nat → Nat) : Writes :=
  let w := x.laneWrites t.wide d (x.srcI t b).2 fun i => nodesValue t (x.nodes op t b (upTo i))
  if cnt then
    { w with v := w.v ++ [(countReg t d, fun i => BitVec.ofNat 32 (((x.nodes op t b (upTo i)).map (·.count)).headD 0))] }
  else w

/-- The registers that a vector result writes lie before that of the count. -/
theorem ne_countReg_of_mem_wordsOf {t : Ty} {d : Reg} {f : Nat → Nat} {p : Nat × (Nat → Word)}
    (hp : p ∈ wordsOf t.wide d f) : p.1 ≠ countReg t d := by
  unfold countReg
  cases hw : t.wide with
  | false =>
    rw [hw, wordsOf, if_neg Bool.false_ne_true, List.mem_singleton] at hp
    simp [hp]
  | true =>
    rw [hw, wordsOf, if_pos rfl, List.mem_cons, List.mem_singleton] at hp
    obtain rfl | rfl := hp <;> simp

theorem State.reduce_runs {i : Instr} {op : RedOp} {cnt : Bool} {t : Ty} {d : Reg} {b : VArgI} {upTo : Nat → Nat → Nat}
    (hi : ∀ s, exec i s = s.reduce op cnt t d b upTo) :
    Runs i (dstV t d ++ (if cnt then [{ set := .v, r := countReg t d, src := 5, dst := true, trap := false }] else []) ++
      VArgI.uses t.wide 1 b) fun _ x => x.scanWrites op cnt t d b (upTo x.w) := by
  refine runs_of_wrote hi (fun _ _ => rfl) fun _ x hs hu => ?_
  have hvalue := Wrote.putCoded_uses x hs t.wide d (by rwa [List.append_assoc] at hu) (x.srcI t b).2
    fun i => nodesValue t (x.nodes op t b (upTo x.w i))
  cases cnt with
  | false => exact hvalue
  | true =>
    have hcount : x.b.HasV (countReg t d) :=
      Beam.hasV_of hs (hu ⟨.v, countReg t d, 5, true, false, false⟩ (by simp)) rfl
    exact hvalue.andV (x.putCoded_shape hs ..) (x.putCoded_hasV _ _ _ _ _ hcount)
      (fun _ hp => ne_countReg_of_mem_wordsOf hp) _

/-- Settles O5: each instruction is the frame that writes its kind of register, with its own value. -/
theorem truthAndCrossLaneResults : Obligations.TruthAndCrossLaneResults := by
  refine ⟨fun cmp t st op kind d c c' a b sa sb =>
      ⟨?icmp, ?fcmp, ?pres, ?tlog, ?electOf, ?electLead, ?scmp, ?klog, ?vote, ?matchAll⟩,
    fun m op t d a b c => ⟨?shfl, ?prm, fun cnt => ⟨?red, ?scan⟩, ?matchAny⟩⟩
  case icmp => exact State.vecCmp_runs fun _ => rfl
  case fcmp => exact State.vecCmp_runs fun _ => rfl
  case pres => exact runs_of_putTri (List.prefix_append ..) fun _ => rfl
  case tlog => exact runs_of_putTri (fl := fun _ => 0) (prefix_append_append ..) fun _ => rfl
  case electOf => exact runs_of_putTri (fl := fun _ => 0) (List.prefix_append ..) fun _ => rfl
  case electLead =>
    refine runs_of_putTri (fl := fun _ => 0) List.prefix_rfl fun s => ?_
    show execElect d none s = _
    simp only [execElect, ← List.head?_filter, List.filter_true, List.append_nil]
    rfl
  case scmp => exact runs_of_putK (prefix_append_append ..) fun _ => rfl
  case klog => exact runs_of_putK (prefix_append_append ..) fun _ => rfl
  case vote => exact runs_of_putK (List.prefix_append ..) fun _ => rfl
  case matchAll => exact runs_of_putK_raise (List.prefix_append ..) fun _ => rfl
  case shfl => exact runs_of_putV_raise_of_prefix (prefix_append_append ..) fun _ => rfl
  case prm => exact runs_of_putV_raise_of_prefix (prefix_append_append ..) fun _ => rfl
  case red => exact State.reduce_runs (upTo := fun w _ => w) fun _ => rfl
  case scan => exact State.reduce_runs (upTo := fun _ i => i + 1) fun _ => rfl
  case matchAny => exact runs_of_putV_raise fun _ => rfl

end Sys2Proof.Machine
end

section
/-! Loads and stores (R227 to R231, R298): what they note, store and send leaves every fragment where it stood, so that the
frame's end finds it. -/

namespace Sys2Proof.Machine

/-! ### Changes that leave every fragment where it stood -/

/-- A change made again and again leaves the fragments where they stood if each one does. -/
theorem State.KeepsPlaces.foldl {α : Type} {f : State → α → State} (hf : ∀ (s : State) (a : α), s.KeepsPlaces (f s a))
    (l : List α) (s : State) : s.KeepsPlaces (l.foldl f s) := by
  induction l generalizing s with
  | nil => exact .refl s
  | cons a l ih => exact (hf s a).trans (ih _)

section
variable (s : State) (x : Frag) (k : Acc)

theorem State.spadPut_keepsPlaces (c : Cohort) (a : Nat) (bs : List Byte) : s.KeepsPlaces (s.spadPut c a bs) :=
  State.KeepsPlaces.trans (t := s.setCohort (c.put a bs)) (.of_beams rfl) (State.newest_keepsPlaces _ c.key a bs.length)

theorem State.laneWrite_keepsPlaces (a : Nat) (bs : List Byte) : s.KeepsPlaces (s.laneWrite x k a bs) := by
  cases hk : k.spad with
  | false => exact (s.sameQueues_laneWrite hk a bs).places
  | true =>
    simp only [State.laneWrite, hk, if_true]
    split
    · next c _ => exact s.spadPut_keepsPlaces c a bs
    · exact .refl s

theorem State.dval_keepsPlaces (a old new : Nat) : s.KeepsPlaces (s.dval x k a old new) := by
  unfold State.dval
  exact .ite (s.packet_keepsPlaces _ _ _) (.refl s)

theorem State.lanePut_keepsPlaces (a v : Nat) : s.KeepsPlaces (s.lanePut x k a v) := by
  unfold State.lanePut
  exact ((s.laneNote_keepsPlaces x k a).trans (State.laneWrite_keepsPlaces _ x k a _)).trans
    (State.dval_keepsPlaces _ x k a _ v)

theorem State.storeAll_keepsPlaces (f : Nat → Nat) (ls : List (Nat × Int)) : s.KeepsPlaces (s.storeAll x k f ls) := by
  unfold State.storeAll
  refine .foldl (fun t l => ?_) ls s
  exact t.lanePut_keepsPlaces x k l.2.toNat (f l.1)

theorem State.sendV_keepsPlaces (t : Ty) (d : Reg) (f : Nat → Nat) (ready : Arrival) (take : Option LoadTake) :
    s.KeepsPlaces (s.sendV x t d f ready take) := by
  unfold State.sendV
  split
  · next b hb =>
    have hempty : b.SamePlace ((List.range (wordLists t x.w f).length).foldl
        (fun b k => b.setVfull (d.toNat + k) false) b) :=
      .foldl (fun b k => Beam.samePlace_setVfull b (d.toNat + k) false) _ b
    exact State.KeepsPlaces.trans (.setBeam hb hempty) (.of_beams rfl)
  · exact .refl s

end

/-! ### Each instruction -/

section
variable {s : State} {x : Frag} {i : Instr} {sp : Bool} {sc : Scope} {t : Ty} {m : MemArg}

/-- A vector load whose checks pass sends the values that its lanes read. -/
theorem goes_of_load {acq : Bool} {d : Reg} (hi : exec i s = s.load i sp acq sc t d m) :
    let k := loadAcc t sp sc (MemArg.uniform m)
    let ls := x.present (x.addr sp m)
    Clear s x { priv := false, noGlint := false, uses := dstV t d ++ MemArg.uses sp m } → Passes s x k ls →
      Goes s x i ((((s.notes x k ls).acquire x acq sc).sendV x t d (s.loadVals x k t ls) (s.loadReady x k ls)
        (s.taking x k t ls)).memrec x k ls) := by
  intro k ls h hpass
  exact goes_of_keepsPlaces h hi (State.access_of_passes hpass i _)
    ((((s.notes_keepsPlaces x k ls).trans (State.acquire_keepsPlaces _ x acq sc)).trans
      (State.sendV_keepsPlaces _ x t d _ _ _)).trans (State.memrec_keepsPlaces _ x k ls))

/-- LDU sends the value that its one access reads (R230). -/
theorem ldu_goes {d : Reg} :
    let k := loadAcc t sp sc true
    let ls := x.single sp m
    Clear s x { priv := false, noGlint := false, uses := dstS d ++ MemArg.uses sp m } → Passes s x k ls →
      Goes s x (.ldu sp sc t d m)
        (((s.notes x k ls).sendS x t d (s.loadVals x k t ls x.lead) (s.loadReady x k ls) (s.taking x k t ls)).memrec x k ls) := by
  intro k ls h hpass
  exact goes_of_keepsPlaces h rfl (State.access_of_passes hpass _ _)
    (((s.notes_keepsPlaces x k ls).trans (State.sendS_keepsPlaces _ x t d _ _ _)).trans (State.memrec_keepsPlaces _ x k ls))

/-- What a store of the lanes' data `v` leaves: the bytes stored, the flags of a narrowed scalar, and the access's packet. -/
def State.afterStore (s : State) (x : Frag) (k : Acc) (ls : List (Nat × Int)) (v : (Nat → Nat) × Flags) : State :=
  ((s.storeAll x k v.1 ls).raise x.b.key v.2).memrec x k ls

theorem State.afterStore_keepsPlaces (s : State) (x : Frag) (k : Acc) (ls : List (Nat × Int)) (v : (Nat → Nat) × Flags) :
    s.KeepsPlaces (s.afterStore x k ls v) :=
  ((s.storeAll_keepsPlaces x k v.1 ls).trans (State.raise_keepsPlaces _ x.b.key v.2)).trans
    (State.memrec_keepsPlaces _ x k ls)

section
variable {rel : Bool} {src : StSrc} (hi : exec i s = s.store i sp rel sc t src m)
  (h : Clear s x { priv := false, noGlint := false, uses := StSrc.uses t src ++ MemArg.uses sp m })
include hi h

/-- A vector store whose checks pass, and that waits for no earlier access, stores the lanes' data. -/
theorem goes_of_store (hrel : (rel && s.unperformed x sc) = false) :
    let k := storeAcc t sp sc (MemArg.uniform m)
    let ls := x.present (x.addr sp m)
    Passes s x k ls → Goes s x i (s.afterStore x k ls (x.data t src)) := by
  intro k ls hpass
  exact goes_of_keepsPlaces h hi ((if_neg (ne_true_of_eq_false hrel)).trans (State.access_of_passes hpass i _))
    (s.afterStore_keepsPlaces x k ls _)

/-- A store-release stays while an earlier access has not been performed (R229). -/
theorem exec_store_held (hrel : (rel && s.unperformed x sc) = true) : exec i s = .next s :=
  exec_of_stay h hi (if_pos hrel)

end

/-- STU stores its one value (R230). -/
theorem stu_goes {d : Reg} :
    let k := storeAcc t sp sc true
    let ls := x.single sp m
    Clear s x { priv := false, noGlint := false, uses := regUses .s d false 0 false false ++ MemArg.uses sp m } →
      Passes s x k ls → Goes s x (.stu sp sc t d m) (s.afterStore x k ls (x.data t (.s d))) := by
  intro k ls h hpass
  exact goes_of_keepsPlaces h rfl (State.access_of_passes hpass _ _) (s.afterStore_keepsPlaces x k ls _)

end

/-- Settles O18: each instruction is `State.load` or `State.store`, or their form of one access, whose effect leaves the
fragment where it stood. -/
theorem loadsAndStoresComplete : Obligations.LoadsAndStoresComplete := by
  refine ⟨fun s x sp sc t d m => ?loads, fun s x sp sc t src d m => ?stores⟩
  case loads =>
    intro goes
    exact ⟨goes_of_load rfl, goes_of_load rfl, goes_of_load rfl, ldu_goes⟩
  case stores =>
    intro put goes
    refine ⟨fun h => goes_of_store rfl h rfl, fun h => goes_of_store rfl h rfl, fun hfree h => ?_, fun hheld h => ?_, stu_goes⟩
    · exact goes_of_store rfl h ((Bool.true_and _).trans hfree)
    · exact exec_store_held rfl h ((Bool.true_and _).trans hheld)

end Sys2Proof.Machine
end

section
/-! Where memory instructions trap (R221, R222, R224, R410): of the conditions that the lanes meet the first in the order of
R222 is reported, and MEM.ALIGN comes ahead of every other. -/

namespace Sys2Proof.Machine

/-! ### The first condition in the order of R222 -/

/-- A condition that a lane meets: the lane, its address, and the group and code. -/
abbrev LaneFault := Nat × Int × Nat × Nat

/-- The place of a condition in the order of R222. -/
def faultRank (f : LaneFault) : Nat := groupRank f.2.2.1 * 256 + f.2.2.2

/-- The first in that order of a list of conditions. -/
def worstFault (f : LaneFault) (rest : List LaneFault) : LaneFault :=
  rest.foldl (fun b g => if faultRank g < faultRank b then g else b) f

/-- The conditions at one place of the order. -/
def faultsAt (rank : Nat) (fs : List LaneFault) : List LaneFault := fs.filter fun f => faultRank f == rank

theorem Frag.memTrap_cons (x : Frag) (k : Acc) (f : LaneFault) (rest : List LaneFault) :
    x.memTrap k (f :: rest) =
      let worst := worstFault f rest
      let hit := faultsAt (faultRank worst) (f :: rest)
      some (Trap.addr worst.2.2.1 worst.2.2.2 (if k.uniform then none else some (maskOf (hit.map (·.1))))
        ((hit.map fun g : LaneFault => g.2.1).headD 0 % 2 ^ 56).toNat (x.memZ k)) := rfl

theorem worstFault_least (f : LaneFault) (rest : List LaneFault) :
    worstFault f rest ∈ f :: rest ∧ ∀ g ∈ f :: rest, faultRank (worstFault f rest) ≤ faultRank g := by
  unfold worstFault
  induction rest generalizing f with
  | nil => simp
  | cons b rest ih =>
    obtain ⟨hmem, hle⟩ := ih (if faultRank b < faultRank f then b else f)
    rw [List.foldl_cons]
    rw [List.mem_cons] at hmem
    obtain ⟨hfirst, hrest⟩ := List.forall_mem_cons.mp hle
    refine ⟨?_, ?_⟩
    · obtain hmem | hmem := hmem
      · rw [hmem]
        split <;> simp
      · simp [hmem]
    · rw [List.forall_mem_cons, List.forall_mem_cons]
      refine ⟨hfirst.trans ?_, hfirst.trans ?_, hrest⟩
      · split <;> omega
      · split <;> omega

/-- The trap reports a condition that comes before every other, with the lanes that meet it and the first one's address. -/
theorem Frag.memTrap_of_least {x : Frag} {k : Acc} {fs : List LaneFault} {i group code : Nat} {z : Int}
    (hle : ∀ f ∈ fs, faultRank (i, z, group, code) ≤ faultRank f)
    (heq : ∀ f ∈ fs, faultRank f = faultRank (i, z, group, code) → f.2.2 = (group, code))
    (hfirst : (faultsAt (faultRank (i, z, group, code)) fs).head? = some (i, z, group, code)) :
    x.memTrap k fs = some (Trap.addr group code
      (if k.uniform then none else some (maskOf ((faultsAt (faultRank (i, z, group, code)) fs).map (·.1))))
      (z % 2 ^ 56).toNat (x.memZ k)) := by
  have hmem : (i, z, group, code) ∈ fs := (List.mem_filter.mp (List.mem_of_mem_head? hfirst)).1
  cases fs with
  | nil => cases hmem
  | cons f rest =>
    obtain ⟨hworst, hleast⟩ := worstFault_least f rest
    have hrank : faultRank (worstFault f rest) = faultRank (i, z, group, code) :=
      Nat.le_antisymm (hleast _ hmem) (hle _ hworst)
    have hhead : ((faultsAt (faultRank (i, z, group, code)) (f :: rest)).map fun g : LaneFault => g.2.1).headD 0 = z := by
      rw [List.headD_eq_head?_getD, List.head?_map, hfirst]
      rfl
    rw [Frag.memTrap_cons]
    dsimp only
    rw [heq _ hworst hrank, hrank, hhead]

/-! ### MEM.ALIGN (R221) -/

theorem groupRank_align : groupRank gALIGN = 0 := rfl

theorem groupRank_eq_zero {g : Nat} (h : groupRank g = 0) : g = gALIGN := by
  by_contra hg
  rw [groupRank, if_neg (by rwa [beq_iff_eq])] at h
  repeat' split at h
  all_goals cases h

section
variable (k : Acc)

theorem Cohort.spadFaults_groups (c : Cohort) (a : Int) : ∀ f ∈ c.spadFaults k a, f.1 ∈ [gSPACE, gSYNC] := by
  unfold Cohort.spadFaults
  split
  · simp
  · split <;> simp

theorem tierFaults_groups (t : Xl) : ∀ f ∈ tierFaults k t, f.1 = gSPACE := by
  unfold tierFaults
  split
  · split
    · simp
    · split
      · simp
      · split <;> simp
  · simp

theorem xlFaults_groups (c : Context) (acc : Access) (t : Xl) : ∀ f ∈ xlFaults c acc t, f.1 ∈ [gXLATE, gPROT] := by
  have hprot {p q r : Prop} [Decidable p] [Decidable q] [Decidable r] :
      ∀ f ∈ (if p then [(gPROT, 1)] else []) ++ (if q then [(gPROT, 2)] else []) ++ (if r then [(gPROT, 3)] else []),
        f.1 ∈ [gXLATE, gPROT] := by
    split <;> split <;> split <;> simp
  unfold xlFaults
  split
  · simp
  · split
    · simp
    · exact hprot
  · split
    · simp
    · exact hprot

theorem State.globalFaults_groups (s : State) (core : Nat) (c : Context) (a : Int) :
    ∀ f ∈ s.globalFaults core c k a, f.1 ∈ [gSPACE, gXLATE, gPROT] := by
  unfold State.globalFaults
  split
  · simp
  · intro f hf
    obtain hf | hf := List.mem_append.mp hf
    · simp [tierFaults_groups k _ f hf]
    · exact List.mem_cons_of_mem _ (xlFaults_groups c k.acc _ f hf)

/-- The conditions of an address beside its alignment. -/
def State.placeFaults (s : State) (x : Frag) (a : Int) : List (Nat × Nat) :=
  if k.spad then ((s.cohort? x.b.cohort).map fun c => c.spadFaults k a).getD []
  else ((s.contextOf x.b).map fun c => s.globalFaults x.core c k a).getD []

variable (s : State) (x : Frag)

theorem State.accFaults_eq (a : Int) :
    s.accFaults x k a = (if a % k.n != 0 then [(gALIGN, 1)] else []) ++ s.placeFaults k x a := by
  unfold State.accFaults State.placeFaults
  congr 1
  split
  · cases s.cohort? x.b.cohort <;> rfl
  · cases s.contextOf x.b <;> rfl

theorem State.placeFaults_not_align (a : Int) : ∀ f ∈ s.placeFaults k x a, f.1 ≠ gALIGN := by
  have hne {f : Nat × Nat} (hf : f.1 ∈ [gSPACE, gSYNC, gXLATE, gPROT]) : f.1 ≠ gALIGN := by
    intro h
    rw [h] at hf
    revert hf
    decide
  intro f hf
  refine hne ?_
  unfold State.placeFaults at hf
  split at hf
  · cases hc : s.cohort? x.b.cohort with
    | none => simp [hc] at hf
    | some c =>
      have := c.spadFaults_groups k a f (by simpa [hc] using hf)
      simp only [List.mem_cons, List.not_mem_nil, or_false] at this ⊢
      tauto
  · cases hc : s.contextOf x.b with
    | none => simp [hc] at hf
    | some c =>
      have := s.globalFaults_groups k x.core c a f (by simpa [hc] using hf)
      simp only [List.mem_cons, List.not_mem_nil, or_false] at this ⊢
      tauto

/-- MEM.ALIGN is the condition of rank 1, and no condition comes before it. -/
theorem faultRank_align {f : LaneFault} (h : f.2.2 = (gALIGN, 1) ∨ f.2.2.1 ≠ gALIGN) :
    1 ≤ faultRank f ∧ (faultRank f = 1 ↔ f.2.2 = (gALIGN, 1)) := by
  obtain h | h := h
  · have : faultRank f = 1 := by rw [faultRank, h, groupRank_align, Nat.zero_mul, Nat.zero_add]
    exact ⟨this.ge, iff_of_true this h⟩
  · have hpos : groupRank f.2.2.1 ≠ 0 := fun h0 => h (groupRank_eq_zero h0)
    have hlarge : 256 ≤ faultRank f := by
      unfold faultRank
      omega
    refine ⟨by omega, iff_of_false (by omega) fun hf => h (by rw [hf])⟩

theorem State.mem_laneFaults {ls : List (Nat × Int)} {f : LaneFault} (hf : f ∈ s.laneFaults x k ls) :
    f.2.2 = (gALIGN, 1) ∨ f.2.2.1 ≠ gALIGN := by
  obtain ⟨l, -, hl⟩ := List.mem_flatMap.mp hf
  obtain ⟨c, hc, rfl⟩ := List.mem_map.mp hl
  rw [State.accFaults_eq] at hc
  obtain hc | hc := List.mem_append.mp hc
  · left
    split at hc
    · exact List.mem_singleton.mp hc
    · cases hc
  · exact .inr (s.placeFaults_not_align k x l.2 c hc)

/-- The lanes whose address is no multiple of `n`. -/
def misaligned (n : Nat) (ls : List (Nat × Int)) : List (Nat × Int) := ls.filter fun l => l.2 % (n : Int) != 0

/-- One lane's condition of rank 1. -/
theorem State.faultsAt_one_lane (l : Nat × Int) :
    faultsAt 1 ((s.accFaults x k l.2).map fun f => (l.1, l.2, f.1, f.2)) =
      if l.2 % k.n != 0 then [(l.1, l.2, gALIGN, 1)] else [] := by
  have hplace : faultsAt 1 ((s.placeFaults k x l.2).map fun f => (l.1, l.2, f.1, f.2)) = [] := by
    refine List.filter_eq_nil_iff.mpr fun f hf => ?_
    obtain ⟨c, hc, rfl⟩ := List.mem_map.mp hf
    have hne := s.placeFaults_not_align k x l.2 c hc
    rw [beq_iff_eq, (faultRank_align (.inr hne)).2]
    exact fun h => hne (congrArg Prod.fst h)
  rw [State.accFaults_eq, List.map_append, faultsAt, List.filter_append]
  rw [faultsAt] at hplace
  rw [hplace, List.append_nil]
  have hrank : faultRank (l.1, l.2, gALIGN, 1) = 1 := (faultRank_align (.inl rfl)).2.mpr rfl
  split
  · rw [List.map_singleton, List.filter_singleton, hrank]
    rfl
  · rfl

theorem State.faultsAt_one (ls : List (Nat × Int)) :
    faultsAt 1 (s.laneFaults x k ls) = (misaligned k.n ls).map fun l => (l.1, l.2, gALIGN, 1) := by
  induction ls with
  | nil => rfl
  | cons l ls ih =>
    have hcons : s.laneFaults x k (l :: ls) =
        ((s.accFaults x k l.2).map fun f => (l.1, l.2, f.1, f.2)) ++ s.laneFaults x k ls := List.flatMap_cons
    have happend := s.faultsAt_one_lane k x l
    rw [faultsAt] at happend ih
    rw [hcons, faultsAt, List.filter_append, happend, ih, misaligned, misaligned, List.filter_cons]
    split <;> rfl

variable {k s x}

/-- A misaligned address is reported ahead of every other condition (R221, R222). -/
theorem State.memTrap_align {ls : List (Nat × Int)} {i : Nat} {z : Int} (h : (misaligned k.n ls).head? = some (i, z)) :
    x.memTrap k (s.laneFaults x k ls) = some (Trap.addr gALIGN 1
      (if k.uniform then none else some (maskOf ((misaligned k.n ls).map (·.1)))) (z % 2 ^ 56).toNat (x.memZ k)) := by
  have hrank : faultRank (i, z, gALIGN, 1) = 1 := (faultRank_align (.inl rfl)).2.mpr rfl
  have hat := s.faultsAt_one k x ls
  have htrap := Frag.memTrap_of_least (x := x) (k := k) (fs := s.laneFaults x k ls) (i := i) (z := z) (group := gALIGN)
    (code := 1) (fun f hf => hrank.le.trans (faultRank_align (s.mem_laneFaults k x hf)).1)
    (fun f hf hr => (faultRank_align (s.mem_laneFaults k x hf)).2.mp (hr.trans hrank))
    (by rw [hrank, hat, List.head?_map, h, Option.map_some])
  have hlanes : ((misaligned k.n ls).map fun l => (l.1, l.2, gALIGN, 1)).map (fun f : LaneFault => f.1) =
      (misaligned k.n ls).map (·.1) := by
    simp only [List.map_map, Function.comp_def]
  rw [htrap, hrank, hat, hlanes]

end

/-! ### Each instruction -/

section
variable {s : State} {x : Frag} {g : Guard} {i : Instr} {body : Frag → State → Res} {k : Acc} {j : Instr}
  {ls : List (Nat × Int)} {go : Res} (h : Clear s x g) (hi : exec i s = s.runFrag g body)
  (hbody : body x s = s.access x k i ls go)
include h hi hbody

/-- An instruction whose meaning is an access traps with what the access's checks find. -/
theorem traps_of_memTrap {tr : Trap} (htr : x.memTrap k (s.laneFaults x k ls) = some tr) : Traps s x i tr := by
  refine traps_of_trap h hi (hbody.trans ?_)
  simp only [State.access, htr]

theorem traps_of_misaligned {l : Nat} {z : Int} (hfirst : (misaligned k.n ls).head? = some (l, z)) :
    Traps s x i (Trap.addr gALIGN 1 (if k.uniform then none else some (maskOf ((misaligned k.n ls).map (·.1))))
      (z % 2 ^ 56).toNat (x.memZ k)) :=
  traps_of_memTrap h hi hbody (State.memTrap_align hfirst)

end

/-! ### MEM.SPACE and SYNC of a window's address (R222, R224) -/

theorem Frag.memTrap_singleton (x : Frag) (k : Acc) (f : LaneFault) :
    x.memTrap k [f] = some (Trap.addr f.2.2.1 f.2.2.2 (if k.uniform then none else some (maskOf [f.1]))
      (f.2.1 % 2 ^ 56).toNat (x.memZ k)) := by
  have hhit : faultsAt (faultRank (worstFault f [])) [f] = [f] := List.filter_cons_of_pos (beq_self_eq_true _)
  rw [Frag.memTrap_cons]
  dsimp only
  rw [hhit]
  rfl

section
variable {s : State} {x : Frag} {k : Acc} {c : Cohort} {z : Int} (hk : k.spad = true)
  (hc : s.cohort? x.b.cohort = some c) (halign : z % k.n = 0)
include hk hc halign

theorem State.accFaults_window : s.accFaults x k z = c.spadFaults k z := by
  simp only [State.accFaults_eq, State.placeFaults, hk, hc, halign, bne_self_eq_false, Bool.false_eq_true, if_false, if_true,
    Option.map_some, Option.getD_some, List.nil_append]

/-- The one access of a uniform instruction to a window reports the one condition of its address. -/
theorem State.memTrap_window {group code : Nat} (hu : k.uniform = true) (hf : c.spadFaults k z = [(group, code)]) :
    x.memTrap k (s.laneFaults x k [(x.lead, z)]) =
      some (Trap.addr group code none (z % 2 ^ 56).toNat (x.memZ k)) := by
  have hfaults : s.laneFaults x k [(x.lead, z)] = [(x.lead, z, group, code)] := by
    simp only [State.laneFaults, List.flatMap_singleton, State.accFaults_window hk hc halign, hf, List.map_singleton]
  rw [hfaults, Frag.memTrap_singleton, if_pos hu]

end

theorem Cohort.spadFaults_outside {c : Cohort} {k : Acc} {z : Int} (h : z < 0 ∨ (c.wsize : Int) < z + k.n) :
    c.spadFaults k z = [(gSPACE, 1)] :=
  if_pos (by simpa using h)

theorem Cohort.spadFaults_barrier {c : Cohort} {k : Acc} {z : Int} (h0 : 0 ≤ z) (hz : z + k.n ≤ c.wsize)
    (hw : k.acc.writes = true) (ht : c.tagged z.toNat = true) : c.spadFaults k z = [(gSYNC, 1)] := by
  have hinside : ¬ ((decide (z < 0) || decide (z + k.n > c.wsize)) = true) := by
    simp only [Bool.or_eq_true, decide_eq_true_eq]
    omega
  exact (if_neg hinside).trans (if_pos (by rw [hw, ht]; rfl))

theorem Frag.single_of_addr {x : Frag} {sp : Bool} {m : MemArg} {z : Int} (h : x.addr sp m x.lead = some z) :
    x.single sp m = [(x.lead, z)] := by
  rw [Frag.single, h]
  rfl

/-- Settles O22: each instruction is an access behind its frame, whose checks report the misaligned lanes first; a window's
other conditions by the one access of LDU and STU. -/
theorem memoryTraps : Obligations.MemoryTraps := by
  refine ⟨fun s x sp nr sc t d src m op o a b ua ub i z => ?aligned, fun s x sc t d a w c z => ?window⟩
  case aligned =>
    intro hit tr first uses ls one load store atom
    refine ⟨fun hfirst h => ⟨?_, ?lda⟩, fun hfirst h => ⟨?_, fun hfree => ?stl⟩, fun hfirst h => ?ldu, fun hfirst h => ?stu,
      fun hfirst hfree h => ?_, fun hfirst hfree h => ?atomu⟩
    case lda => exact traps_of_misaligned h rfl rfl hfirst
    case stl => exact traps_of_misaligned h rfl (if_neg (by rw [hfree]; exact Bool.false_ne_true)) hfirst
    case ldu => exact traps_of_misaligned h rfl rfl hfirst
    case stu => exact traps_of_misaligned h rfl rfl hfirst
    case atomu => exact traps_of_misaligned h rfl (if_neg (ne_true_of_eq_false hfree)) hfirst
    · cases sp
      · exact traps_of_misaligned h rfl rfl hfirst
      · exact traps_of_misaligned h rfl rfl hfirst
    · cases sp
      · exact traps_of_misaligned h rfl rfl hfirst
      · exact traps_of_misaligned h rfl rfl hfirst
    · cases sp
      · exact traps_of_misaligned h rfl (if_neg (ne_true_of_eq_false hfree)) hfirst
      · exact traps_of_misaligned h rfl (if_neg (ne_true_of_eq_false hfree)) hfirst
  case window =>
    intro m hc _ haddr halign
    have hsingle := Frag.single_of_addr haddr
    refine ⟨fun h hout => traps_of_memTrap h rfl rfl ?_, fun h h0 hz ht => traps_of_memTrap h rfl rfl ?_⟩
    · rw [hsingle]
      exact State.memTrap_window (k := loadAcc t true sc true) rfl hc halign rfl (Cohort.spadFaults_outside hout)
    · rw [hsingle]
      exact State.memTrap_window (k := storeAcc t true sc true) rfl hc halign rfl (Cohort.spadFaults_barrier h0 hz rfl ht)

end Sys2Proof.Machine
end

section
/-! Atomics (R58, R59, R231 to R234, R298, R305): the lanes' turns leave every fragment where it stood. -/

namespace Sys2Proof.Machine

section
variable (s : State) (x : Frag) (k : Acc) (op : AtomOp) (t : Ty) (f y : Nat → Nat)

theorem State.atomLane_keepsPlaces (l : Nat × Int) : s.KeepsPlaces (s.atomLane x k op t f y l).1 := by
  unfold State.atomLane
  have hnote := s.laneNote_keepsPlaces x k l.2.toNat
  exact .ite hnote (hnote.trans (State.laneWrite_keepsPlaces _ x k _ _))

theorem State.atomAll_keepsPlaces (ls : List (Nat × Int)) : s.KeepsPlaces (s.atomAll x k op t f y ls).1 := by
  induction ls generalizing s with
  | nil => exact .refl s
  | cons l ls ih => exact (s.atomLane_keepsPlaces x k op t f y l).trans (ih _)

theorem State.dvals_keepsPlaces (old : Nat → Nat) (ls : List (Nat × Int)) :
    s.KeepsPlaces (s.dvals x k op t f y old ls) := by
  unfold State.dvals
  refine .foldl (fun u l => ?_) ls s
  exact .ite (.refl u) (u.dval_keepsPlaces x k _ _ _)

/-- What the lanes' turns in `order` leave, with their packets, the flags and the acquire. -/
def State.afterAtomics (old : Nat → Nat) (order ls : List (Nat × Int)) (fl : Flags) (acq : Bool) (sc : Scope) : State :=
  (((s.atomAll x k op t f y order).1.dvals x k op t f y old ls).raise x.b.key fl).acquire x acq sc

theorem State.afterAtomics_keepsPlaces (old : Nat → Nat) (order ls : List (Nat × Int)) (fl : Flags) (acq : Bool)
    (sc : Scope) : s.KeepsPlaces (s.afterAtomics x k op t f y old order ls fl acq sc) :=
  (((s.atomAll_keepsPlaces x k op t f y order).trans (State.dvals_keepsPlaces _ x k op t f y old ls)).trans
    (State.raise_keepsPlaces _ x.b.key fl)).trans (State.acquire_keepsPlaces _ x acq sc)

end

/-! ### Each instruction -/

/-- Is the address of ATOM or ATOMS one for every lane? -/
def VArg.uniform : VArg → Bool
  | .s _ _ => true
  | .v _ _ _ => false

section
variable {s : State} {x : Frag} {i : Instr} {op : AtomOp} {o : AOrd} {nr sp : Bool} {sc : Scope} {t : Ty} {d : Reg}
  {a : VArg} {b : VArgI} (hi : exec i s = s.atomic i sp op o nr sc t d a b)
  (h : Clear s x { priv := false, noGlint := false
                   uses := (if nr then [] else dstV t d) ++ atomUses sp a ++ VArgI.uses t.wide 2 b ++ casUses op t b })
include hi h

/-- A releasing atomic stays while an earlier access has not been performed (R233). -/
theorem exec_atomic_held (hheld : (AOrd.releases o && s.unperformed x sc) = true) : exec i s = .next s :=
  exec_of_stay h hi (if_pos hheld)

/-- An atomic whose checks pass sends its lanes' old values, none with NR. -/
theorem goes_of_atomic (hfree : (AOrd.releases o && s.unperformed x sc) ≠ true) :
    let k := atomAcc t sp sc (VArg.uniform a)
    let ls := x.present (x.atomAddr sp a)
    let v := x.srcI t b
    let y := x.casVal op t b
    let r := s.atomAll x k op t v.1 y.1 (s.laneOrder ls)
    let old := fun j : Nat => ((r.2.1.find? fun p => p.1 == j).map (·.2)).getD (Ty.absent t)
    let s' := s.afterAtomics x k op t v.1 y.1 old (s.laneOrder ls) ls (v.2 ||| y.2 ||| r.2.2) (AOrd.acquires o) sc
    Passes s x k ls → Goes s x i ((if nr then s' else s'.sendV x t d old (s.loadReady x k ls)).memrec x k ls) := by
  intro k ls v y r old s' hpass
  have hs' : s.KeepsPlaces s' := s.afterAtomics_keepsPlaces x k op t v.1 y.1 old (s.laneOrder ls) ls _ _ sc
  exact goes_of_keepsPlaces h hi ((if_neg hfree).trans (State.access_of_passes hpass i _))
    (State.KeepsPlaces.trans (.ite hs' (hs'.trans (s'.sendV_keepsPlaces x t d _ _ _))) (State.memrec_keepsPlaces _ x k ls))

end

section
variable {s : State} {x : Frag} {op : AtomOp} {o : AOrd} {sp : Bool} {sc : Scope} {t : Ty} {d : Reg} {ua : SArg} {ub : SArgI}
  (h : Clear s x { priv := false, noGlint := false
                   uses := dstS d ++ SArg.uses 1 ua ++ SArgI.uses 2 ub ++ casUses op t (SArgI.toV ub) })
include h

/-- A releasing ATOMU stays as long (R233). -/
theorem exec_atomu_held (hheld : (AOrd.releases o && s.unperformed x sc) = true) :
    exec (.atomu op o sp sc t d ua ub) s = .next s :=
  exec_of_stay h rfl (if_pos hheld)

/-- ATOMU sends the old value of its one operation. -/
theorem atomu_goes (hfree : (AOrd.releases o && s.unperformed x sc) ≠ true) :
    let k := atomAcc t sp sc true
    let ls := x.single sp (.uni ua none)
    let v := x.srcI t (SArgI.toV ub)
    let y := x.casVal op t (SArgI.toV ub)
    let r := s.atomAll x k op t v.1 y.1 ls
    let old := ((r.2.1.head?).map (·.2)).getD (Ty.absent t)
    let s' := s.afterAtomics x k op t v.1 y.1 (fun _ => old) ls ls (v.2 ||| y.2 ||| r.2.2) (AOrd.acquires o) sc
    Passes s x k ls →
      Goes s x (.atomu op o sp sc t d ua ub) ((s'.sendS x t d old (s.loadReady x k ls)).memrec x k ls) := by
  intro k ls v y r old s' hpass
  have hs' : s.KeepsPlaces s' := s.afterAtomics_keepsPlaces x k op t v.1 y.1 _ ls ls _ _ sc
  exact goes_of_keepsPlaces h rfl ((if_neg hfree).trans (State.access_of_passes hpass _ _))
    ((hs'.trans (s'.sendS_keepsPlaces x t d _ _ _)).trans (State.memrec_keepsPlaces _ x k ls))

end

end Sys2Proof.Machine
end

section
/-! The new value of an atomic (R58, R59, R232): reductions of one element and of two, the sums and choices of integers, and
the halves of a packed type. -/

namespace Sys2Proof

/-! ### Elements -/

theorem bits_of_lt {x n : Nat} (h : x < 2 ^ n) : bits x 0 n = x := by
  rw [bits, Nat.pow_zero, Nat.div_one, Nat.mod_eq_of_lt h]

theorem orFlags_singleton (f : Flags) : orFlags [f] = f := BitVec.zero_or

/-- An operation on a type of one element is its operation on the operands. -/
theorem mapElems_single {t : Ty} (ht : Ty.ewidth t = Ty.width t) (f : List Nat → Coded) {xs : List Nat}
    (hx : ∀ x ∈ xs, x < 2 ^ Ty.width t) : mapElems t f xs = f xs := by
  have hone : Ty.width t / Ty.ewidth t = 1 := by
    rw [ht]
    unfold Ty.width
    split <;> rfl
  have hargs : (xs.map fun x => bits x (0 * Ty.ewidth t) (Ty.ewidth t)) = xs := by
    rw [ht, Nat.zero_mul]
    exact (List.map_congr_left fun x h => bits_of_lt (hx x h)).trans (List.map_id xs)
  simp only [mapElems, hone, List.range_one, List.map_singleton, hargs, Ty.join, List.foldr_cons, List.foldr_nil,
    orFlags_singleton, Nat.mul_zero, Nat.add_zero]

theorem Fmt.eq_absent {f : Fmt} {x : Nat} (h : Fmt.isAbsent f x = true) : x = Fmt.absent f := by
  simp only [Fmt.isAbsent, Bool.and_eq_true, beq_iff_eq] at h
  exact h.2

section
variable {f : Fmt} {op : RedOp} {m x : Nat}

theorem redElem_absent_right (hm : Fmt.isAbsent f m = false) (hx : Fmt.isAbsent f x = true) :
    redElem f op m x = (m, 0) :=
  (if_neg (ne_true_of_eq_false hm)).trans (if_pos hx)

theorem redElem_absent_left (hm : Fmt.isAbsent f m = true) : redElem f op m x = (keptCode f x, 0) := if_pos hm

/-- A reduction of two present elements. -/
theorem redElem_present (hm : Fmt.isAbsent f m = false) (hx : Fmt.isAbsent f x = false) :
    redElem f .add m x = addElem f m x ∧ redElem f .min m x = (pickElem f false m x, 0) ∧
      redElem f .max m x = (pickElem f true m x, 0) := by
  simp only [redElem, hm, hx, Bool.false_eq_true, if_false, and_self]

/-! ### Integers -/

variable (hf : Fmt.float? f = none)
include hf

theorem keptCode_int (v : Nat) : keptCode f v = v := by
  rw [keptCode, hf]
  rfl

/-- An absent operand of an integer operation changes nothing, whether or not the location is absent. -/
theorem redElem_int_absent_right (hx : Fmt.isAbsent f x = true) : redElem f op m x = (m, 0) := by
  cases hm : Fmt.isAbsent f m with
  | false => exact redElem_absent_right hm hx
  | true => rw [redElem_absent_left hm, keptCode_int hf, Fmt.eq_absent hm, Fmt.eq_absent hx]

theorem addElem_int (hraw : Fmt.raw f = false) (hm : Fmt.isAbsent f m = false) (hx : Fmt.isAbsent f x = false) :
    addElem f m x = satCode f (Fmt.int f m + Fmt.int f x) := by
  simp only [addElem, hf, intElem, hraw, List.any_cons, List.any_nil, hm, hx, Option.isSome_none, Bool.or_false,
    Bool.false_eq_true, if_false]
  rfl

theorem pickElem_int (hm : Fmt.isAbsent f m = false) (hx : Fmt.isAbsent f x = false) (max : Bool) :
    pickElem f max m x = if decide (Fmt.int f m < Fmt.int f x) != max then m else x := by
  simp only [pickElem, hf, hm, hx, Option.isSome_none, Bool.or_self, Bool.false_eq_true, if_false]

end

theorem sext_inj {n x y : Nat} (hx : x < 2 ^ n) (hy : y < 2 ^ n) (h : sext n x = sext n y) : x = y := by
  unfold sext at h
  rw [Nat.mod_eq_of_lt hx, Nat.mod_eq_of_lt hy] at h
  generalize 2 ^ n = w at *
  split at h <;> split at h <;> omega

theorem Fmt.int_inj {f : Fmt} {x y : Nat} (hx : x < 2 ^ Fmt.width f) (hy : y < 2 ^ Fmt.width f)
    (h : Fmt.int f x = Fmt.int f y) : x = y := by
  unfold Fmt.int at h
  split at h
  · exact sext_inj hx hy h
  · rw [Nat.mod_eq_of_lt hx, Nat.mod_eq_of_lt hy] at h
    exact Int.ofNat.inj h

end Sys2Proof

namespace Sys2Proof.Machine

/-! ### Atomics of one element -/

/-- ADD, MIN and MAX on a type of one element reduce the location and the operand. -/
theorem atomNew_single {t : Ty} (ht : Ty.ewidth t = Ty.width t) {m x : Nat} (hm : m < 2 ^ Ty.width t)
    (hx : x < 2 ^ Ty.width t) (y : Nat) :
    atomNew .add t m x y = redElem (Ty.fmt t) .add m x ∧ atomNew .min t m x y = redElem (Ty.fmt t) .min m x ∧
      atomNew .max t m x y = redElem (Ty.fmt t) .max m x := by
  have hred (o : RedOp) :
      mapElems t (fun v => redElem (Ty.fmt t) o (v.getD 0 0) (v.getD 1 0)) [m, x] = redElem (Ty.fmt t) o m x :=
    mapElems_single ht _ (by simp [hm, hx])
  exact ⟨hred .add, hred .min, hred .max⟩

/-- INC and DEC change nothing where the location or the operand is absent. -/
theorem atomNew_count_absent {t : Ty} {m x : Nat} (h : Ty.isAbsent t m = true ∨ Ty.isAbsent t x = true) (y : Nat) :
    atomNew .inc t m x y = (m, 0) ∧ atomNew .dec t m x y = (m, 0) := by
  have h : (Ty.isAbsent t m || Ty.isAbsent t x) = true := by rwa [Bool.or_eq_true]
  exact ⟨if_pos h, if_pos h⟩

theorem atomNew_count_present {t : Ty} {m x : Nat} (hm : Ty.isAbsent t m = false) (hx : Ty.isAbsent t x = false) (y : Nat) :
    atomNew .inc t m x y = (if x ≤ m then 0 else m + 1, 0) ∧
      atomNew .dec t m x y = (if m = 0 ∨ x < m then x else m - 1, 0) := by
  simp [atomNew, hm, hx]

/-- An integer type: one element, of a format with an absent code. -/
structure Ty.IsInt (t : Ty) : Prop where
  single : Ty.ewidth t = Ty.width t
  float  : Fmt.float? (Ty.fmt t) = none
  raw    : Fmt.raw (Ty.fmt t) = false

theorem Ty.isInt_of_mem {t : Ty} (h : t = .s32 ∨ t = .n32 ∨ t = .s64 ∨ t = .n64) : Ty.IsInt t := by
  obtain rfl | rfl | rfl | rfl := h <;> exact ⟨rfl, rfl, rfl⟩

section
variable {t : Ty} (ht : Ty.IsInt t) {m x : Nat} (hm : m < 2 ^ Ty.width t) (hx : x < 2 ^ Ty.width t) (y : Nat)
include ht hm hx

theorem atomNew_int_absent_operand (hax : Ty.isAbsent t x = true) :
    atomNew .add t m x y = (m, 0) ∧ atomNew .min t m x y = (m, 0) ∧ atomNew .max t m x y = (m, 0) := by
  obtain ⟨hadd, hmin, hmax⟩ := atomNew_single ht.single hm hx y
  rw [hadd, hmin, hmax]
  exact ⟨redElem_int_absent_right ht.float hax, redElem_int_absent_right ht.float hax,
    redElem_int_absent_right ht.float hax⟩

theorem atomNew_int_absent_location (ham : Ty.isAbsent t m = true) :
    atomNew .add t m x y = (x, 0) ∧ atomNew .min t m x y = (x, 0) ∧ atomNew .max t m x y = (x, 0) := by
  obtain ⟨hadd, hmin, hmax⟩ := atomNew_single ht.single hm hx y
  rw [hadd, hmin, hmax, redElem_absent_left ham, redElem_absent_left ham, redElem_absent_left ham, keptCode_int ht.float]
  exact ⟨rfl, rfl, rfl⟩

theorem atomNew_int_present (ham : Ty.isAbsent t m = false) (hax : Ty.isAbsent t x = false) :
    let i := Fmt.int (Ty.fmt t)
    atomNew .add t m x y = satCode (Ty.fmt t) (i m + i x) ∧
      atomNew .min t m x y = (if i m ≤ i x then m else x, 0) ∧ atomNew .max t m x y = (if i x ≤ i m then m else x, 0) := by
  intro i
  obtain ⟨hadd, hmin, hmax⟩ := atomNew_single ht.single hm hx y
  obtain ⟨hadd', hmin', hmax'⟩ := redElem_present (m := m) (x := x) ham hax
  rw [hadd, hmin, hmax, hadd', hmin', hmax', addElem_int ht.float ht.raw ham hax, pickElem_int ht.float ham hax,
    pickElem_int ht.float ham hax]
  rw [← ht.single] at hm hx
  have hinj : i m = i x → m = x := Fmt.int_inj hm hx
  refine ⟨rfl, ?_, ?_⟩
  · by_cases hlt : i m < i x
    · rw [if_pos (by simpa using hlt), if_pos hlt.le]
    · by_cases heq : i m = i x
      · rw [hinj heq, ite_self', ite_self']
      · rw [if_neg (by simpa using hlt), if_neg (by omega)]
  · by_cases hlt : i m < i x
    · rw [if_neg (by simpa using hlt), if_neg (by omega)]
    · rw [if_pos (by simpa using hlt), if_pos (by omega)]

end

/-- Of n32 the sum stops below the absent code, and the smaller or larger number is taken. -/
theorem atomNew_n32 {m x : Nat} (hm : m < 2 ^ 32) (hx : x < 2 ^ 32) (ham : Ty.isAbsent .n32 m = false)
    (hax : Ty.isAbsent .n32 x = false) (y : Nat) :
    (atomNew .add .n32 m x y).1 = min (m + x) (2 ^ 32 - 2) ∧ (atomNew .min .n32 m x y).1 = min m x ∧
      (atomNew .max .n32 m x y).1 = max m x := by
  obtain ⟨hadd, hmin, hmax⟩ := atomNew_int_present (Ty.isInt_of_mem (.inr (.inl rfl))) hm hx y ham hax
  have hint {v : Nat} (hv : v < 2 ^ 32) : Fmt.int (Ty.fmt .n32) v = v := by
    show ((v % 2 ^ 32 : Nat) : Int) = v
    rw [Nat.mod_eq_of_lt hv]
  rw [hadd, hmin, hmax, hint hm, hint hx]
  refine ⟨?_, ?_, ?_⟩
  · show (if (m : Int) + x > 2 ^ 32 - 2 then (((2 ^ 32 - 2 : Int)).toNat, SAT)
      else if (m : Int) + x < 0 then (0, SAT) else (((m : Int) + x).toNat, 0)).1 = _
    split
    · rw [min_eq_right (by omega)]
      rfl
    · rw [if_neg (by omega), min_eq_left (by omega)]
      dsimp only
      omega
  · dsimp only
    split <;> omega
  · dsimp only
    split <;> omega

/-! ### Floating-point atomics -/

theorem redElem_float_present {f : Fmt} (hf : (Fmt.float? f).isSome = true) {m x : Nat} (hm : Fmt.isAbsent f m = false)
    (hx : Fmt.isAbsent f x = false) :
    redElem f .add m x = floatElem f .rn (fun v => sumExact false [arg v 0, arg v 1]) [m, x] ∧
      redElem f .min m x = (floatPick f false m x, 0) ∧ redElem f .max m x = (floatPick f true m x, 0) := by
  obtain ⟨hadd, hmin, hmax⟩ := redElem_present hm hx
  rw [hadd, hmin, hmax]
  simp only [addElem, pickElem, hf, if_true, and_self]

theorem atomNew_f32_present {m x : Nat} (hm : m < 2 ^ 32) (hx : x < 2 ^ 32) (ham : Ty.isAbsent .f32 m = false)
    (hax : Ty.isAbsent .f32 x = false) (y : Nat) :
    atomNew .add .f32 m x y = floatElem .f32 .rn (fun v => sumExact false [arg v 0, arg v 1]) [m, x] ∧
      atomNew .min .f32 m x y = (floatPick .f32 false m x, 0) ∧ atomNew .max .f32 m x y = (floatPick .f32 true m x, 0) := by
  obtain ⟨hadd, hmin, hmax⟩ := atomNew_single (t := .f32) rfl hm hx y
  rw [hadd, hmin, hmax]
  exact redElem_float_present rfl ham hax

theorem atomNew_f32_absent_operand {m x : Nat} (hm : m < 2 ^ 32) (hx : x < 2 ^ 32) (hax : Ty.isAbsent .f32 x = true)
    (y : Nat) : atomNew .add .f32 m x y = (m, 0) ∨ Ty.isAbsent .f32 m = true := by
  cases ham : Ty.isAbsent .f32 m with
  | true => exact .inr rfl
  | false => exact .inl ((atomNew_single (t := .f32) rfl hm hx y).1.trans (redElem_absent_right ham hax))

/-! ### Codes of 16 bits

Each element of a packed type keeps to its half of the operand. -/

/-- A float format of 16 bits with infinities. -/
structure Fmt.Half (f : Fmt) (p : FloatFmt) : Prop where
  float  : Fmt.float? f = some p
  ieee   : p.ieee = true
  sign   : p.eb + p.mb = 15
  inf    : (2 ^ p.eb - 1) * 2 ^ p.mb < 2 ^ 15
  max    : Fmt.maxFinite f < 2 ^ 15
  absent : Fmt.absent f < 2 ^ 16
  nan    : Fmt.nan f < 2 ^ 16

theorem Fmt.half_f16 : Fmt.Half .f16 ⟨5, 10, 15, true⟩ := by constructor <;> decide

theorem Fmt.half_bf16 : Fmt.Half .bf16 ⟨8, 7, 127, true⟩ := by constructor <;> decide

section
variable {f : Fmt} {p : FloatFmt} (h : Fmt.Half f p)
include h

theorem signBit_le (neg : Bool) : signBit p neg ≤ 2 ^ 15 := by
  unfold signBit
  rw [h.sign]
  split <;> decide

theorem zeroCode_lt (neg : Bool) : zeroCode p neg < 2 ^ 16 := by
  have hsign := signBit_le h neg
  unfold zeroCode
  split <;> omega

theorem overflowCode_lt (mode : Rnd) (sat neg : Bool) : (overflowCode f p mode sat neg).1 < 2 ^ 16 := by
  have hsign := signBit_le h neg
  have hinf := h.inf
  have hmax := h.max
  unfold overflowCode
  extract_lets s inf maxf
  have hi : inf < 2 ^ 16 := by omega
  have hm : maxf < 2 ^ 16 := by omega
  split
  · exact hm
  · cases mode with
    | rn | rna => exact hi
    | rz | ro => exact hm
    | ru | rd => cases neg <;> assumption

theorem roundFinite_lt (mode : Rnd) (sat neg : Bool) (m : Nat) (e : Int) :
    (roundFinite f p mode sat neg m e).1 < 2 ^ 16 := by
  have hsign := signBit_le h neg
  have hmax := h.max
  unfold roundFinite
  split
  · exact zeroCode_lt h neg
  · extract_lets emin lead q r code
    split
    · exact zeroCode_lt h neg
    · split
      · exact overflowCode_lt h ..
      · dsimp only
        omega

theorem roundNum_lt (mode : Rnd) (sat : Bool) (v : Num) : (roundNum f mode sat v).1 < 2 ^ 16 := by
  have hinf := h.inf
  have hmax := h.max
  have hnan := h.nan
  unfold roundNum
  rw [h.float]
  cases v with
  | absent => exact h.absent
  | nan =>
    dsimp only
    split <;> [exact Nat.two_pow_pos 16; exact hnan]
  | inf neg =>
    have hsign := signBit_le h neg
    dsimp only
    split <;> dsimp only <;> omega
  | fin neg m e => exact roundFinite_lt h ..

theorem floatElem_lt (mode : Rnd) (op : List Num → Num × Bool) (xs : List Nat) :
    (floatElem f mode op xs).1 < 2 ^ 16 := by
  unfold floatElem
  extract_lets vs
  split
  · exact h.absent
  · exact roundNum_lt h ..

theorem floatPick_lt (max : Bool) {x y : Nat} (hx : x < 2 ^ 16) (hy : y < 2 ^ 16) : floatPick f max x y < 2 ^ 16 := by
  unfold floatPick
  extract_lets a b neg less
  split
  · exact h.absent
  · split
    · exact h.nan
    · split <;> assumption

theorem redElem_lt (op : RedOp) {x y : Nat} (hx : x < 2 ^ 16) (hy : y < 2 ^ 16) : (redElem f op x y).1 < 2 ^ 16 := by
  have hf : (Fmt.float? f).isSome = true := by rw [h.float]; rfl
  cases hax : Fmt.isAbsent f x with
  | true =>
    rw [redElem_absent_left hax]
    unfold keptCode
    dsimp only
    split
    · exact h.nan
    · exact hy
  | false =>
    cases hay : Fmt.isAbsent f y with
    | true => rwa [redElem_absent_right hax hay]
    | false =>
      obtain ⟨hadd, hmin, hmax⟩ := redElem_float_present hf hax hay
      cases op with
      | add => rw [hadd]; exact floatElem_lt h ..
      | min => rw [hmin]; exact floatPick_lt h _ hx hy
      | max => rw [hmax]; exact floatPick_lt h _ hx hy

end

/-! ### Packed types -/

/-- Of two codes of 16 bits, one behind the other, each is in its place. -/
theorem bits_join_halves {lo hi : Nat} (hlo : lo < 2 ^ 16) (hhi : hi < 2 ^ 16) :
    bits (lo + 2 ^ 16 * hi) 0 16 = lo ∧ bits (lo + 2 ^ 16 * hi) 16 16 = hi := by
  unfold bits
  omega

/-- A type of two elements of a format of 16 bits. -/
structure Ty.Packed (t : Ty) : Prop where
  width  : Ty.width t = 32
  ewidth : Ty.ewidth t = 16
  half   : ∃ p, Fmt.Half (Ty.fmt t) p

theorem Ty.packed_of_mem {t : Ty} (h : t = .f16x2 ∨ t = .bf16x2) : Ty.Packed t := by
  obtain rfl | rfl := h
  · exact ⟨rfl, rfl, _, Fmt.half_f16⟩
  · exact ⟨rfl, rfl, _, Fmt.half_bf16⟩

theorem mapElems_packed {t : Ty} (ht : Ty.Packed t) (f : List Nat → Coded) (xs : List Nat) :
    (mapElems t f xs).1 = (f (xs.map fun x => bits x 0 16)).1 + 2 ^ 16 * (f (xs.map fun x => bits x 16 16)).1 := by
  simp only [mapElems, ht.width, ht.ewidth, Ty.join]
  rfl

/-- Each element of a packed atomic is its own reduction. -/
theorem bits_atomNew_packed {t : Ty} (ht : Ty.Packed t) (m x y : Nat) {e : Nat} (he : e < 2) :
    let el := fun z : Nat => bits z (16 * e) 16
    el (atomNew .add t m x y).1 = (redElem (Ty.fmt t) .add (el m) (el x)).1 ∧
      el (atomNew .min t m x y).1 = (redElem (Ty.fmt t) .min (el m) (el x)).1 ∧
      el (atomNew .max t m x y).1 = (redElem (Ty.fmt t) .max (el m) (el x)).1 := by
  intro el
  obtain ⟨p, hp⟩ := ht.half
  have hred (o : RedOp) :
      el (mapElems t (fun v => redElem (Ty.fmt t) o (v.getD 0 0) (v.getD 1 0)) [m, x]).1 =
        (redElem (Ty.fmt t) o (el m) (el x)).1 := by
    have hlt (k : Nat) : (redElem (Ty.fmt t) o (bits m k 16) (bits x k 16)).1 < 2 ^ 16 :=
      redElem_lt hp o (Nat.mod_lt _ (Nat.two_pow_pos 16)) (Nat.mod_lt _ (Nat.two_pow_pos 16))
    obtain ⟨hlo, hhi⟩ := bits_join_halves (hlt 0) (hlt 16)
    rw [mapElems_packed ht]
    obtain rfl | rfl : e = 0 ∨ e = 1 := by omega
    · exact hlo
    · exact hhi
  exact ⟨hred .add, hred .min, hred .max⟩

theorem bits_atomNew_packed_present {t : Ty} (ht : Ty.Packed t) (m x y : Nat) {e : Nat} (he : e < 2) :
    let el := fun z : Nat => bits z (16 * e) 16
    let f := Ty.fmt t
    Fmt.isAbsent f (el m) = false → Fmt.isAbsent f (el x) = false →
      el (atomNew .add t m x y).1 = (floatElem f .rn (fun v => sumExact false [arg v 0, arg v 1]) [el m, el x]).1 ∧
        el (atomNew .min t m x y).1 = floatPick f false (el m) (el x) ∧
        el (atomNew .max t m x y).1 = floatPick f true (el m) (el x) := by
  intro el f ham hax
  obtain ⟨p, hp⟩ := ht.half
  obtain ⟨hadd, hmin, hmax⟩ := bits_atomNew_packed ht m x y he
  obtain ⟨hadd', hmin', hmax'⟩ := redElem_float_present (by rw [hp.float]; rfl) ham hax
  exact ⟨hadd.trans (congrArg Prod.fst hadd'), hmin.trans (congrArg Prod.fst hmin'), hmax.trans (congrArg Prod.fst hmax')⟩

/-- Settles O23: each instruction is `State.atomic`, or its form of one access; the new value by the reduction of each
element of the type. -/
theorem atomics : Obligations.Atomics := by
  refine ⟨fun s x op o nr sp sc t d a b ua ub => ?complete, fun t m x y => ?values⟩
  case complete =>
    intro held goes
    exact ⟨fun h => ⟨exec_atomic_held rfl h, goes_of_atomic rfl h⟩, fun h => ⟨exec_atomic_held rfl h, goes_of_atomic rfl h⟩,
      fun h => ⟨exec_atomu_held h, atomu_goes h⟩⟩
  case values =>
    refine ⟨rfl, rfl, rfl, rfl, ?cas, fun h => atomNew_count_absent h y, fun hm hx => atomNew_count_present hm hx y,
      fun ht hm hx => ?int, fun hm hx ham hax => atomNew_n32 hm hx ham hax y,
      fun hm hx hax => atomNew_f32_absent_operand hm hx hax y,
      fun hm hx ham hax => atomNew_f32_present hm hx ham hax y, fun ht e he => ?packed⟩
    case cas => simp only [atomNew, beq_iff_eq]
    case int =>
      have hi := Ty.isInt_of_mem ht
      exact ⟨atomNew_int_absent_operand hi hm hx y, fun ham _ => atomNew_int_absent_location hi hm hx y ham,
        atomNew_int_present hi hm hx y⟩
    case packed => exact bits_atomNew_packed_present (Ty.packed_of_mem ht) m x y he

end Sys2Proof.Machine
end

section
/-! Appends to a ring (R246, R247, R249, R365): where a record and its PAD record lie, and what an append leaves in the window
of a resident cohort. -/

namespace Sys2Proof.Machine

/-! ### Several bytes of a window -/

theorem Cohort.bytes_add (c : Cohort) (o m n : Nat) : c.bytes o (m + n) = c.bytes o m ++ c.bytes (o + m) n := by
  induction m generalizing o with
  | zero => rw [Nat.zero_add]; rfl
  | succ m ih =>
    rw [Nat.succ_add, Cohort.bytes, Cohort.bytes, ih, List.cons_append, Nat.add_right_comm o 1 m, Nat.add_assoc o m 1]

/-- Bytes that a write does not reach read as before. -/
theorem Cohort.bytes_put_other (c : Cohort) {off : Nat} {bs : List Byte} {o n : Nat}
    (h : o + n ≤ off ∨ off + bs.length ≤ o) : (c.put off bs).bytes o n = c.bytes o n := by
  rw [Cohort.bytes_eq, Cohort.bytes_eq]
  refine List.map_congr_left fun j hj => c.byte_put_other _ _ _ ?_
  have := List.mem_range.mp hj
  omega

/-- Two pieces written together read each in its place. -/
theorem Cohort.bytes_put_append (c : Cohort) (off : Nat) (xs ys : List Byte) :
    (c.put off (xs ++ ys)).bytes off xs.length = xs ∧ (c.put off (xs ++ ys)).bytes (off + xs.length) ys.length = ys := by
  have h := c.bytes_put off (xs ++ ys)
  rw [List.length_append, Cohort.bytes_add] at h
  exact List.append_inj h (by rw [Cohort.bytes_eq, List.length_map, List.length_range])

/-! ### The window of a resident cohort -/

/-- The state `t` has the beams and the memory of `s`, and for the cohort `c` the cohort `c'`, which differs from `c` in its
window alone. -/
structure State.HoldsWindow (s : State) (c c' : Cohort) (t : State) : Prop where
  beams  : t.beams = s.beams
  mem    : t.mem = s.mem
  cohort : t.cohort? c.key = some c'
  same   : { c' with win := c.win } = c

section
variable {s t : State} {c c' : Cohort} (hst : c.st = .resident)
include hst

/-- Data written into a resident cohort's window, where no barrier lies, stands there. -/
theorem State.HoldsWindow.winData (h : s.HoldsWindow c c' t) {off : Nat} {bs : List Byte}
    (hfree : ∀ o, off ≤ o → o < off + bs.length → c.tagged o = false) :
    s.HoldsWindow c (c'.put off bs) (t.winData c.key off bs) := by
  have hst' : c'.st = .resident := (congrArg Cohort.st h.same).trans hst
  have htags : c'.tags = c.tags := (congrArg Cohort.tags h.same :)
  have hno : t.parkedWindow c' = none := by simp only [State.parkedWindow, hst']
  have hgranule : ((bs.zipIdx off).any fun p => t.granule c' p.2) = false := by
    rw [List.any_eq_false]
    intro p hp
    obtain ⟨hlo, hhi, -⟩ := List.mem_zipIdx hp
    have hgran : t.granule c' p.2 = c'.tagged p.2 := by simp only [State.granule, hst']
    rw [hgran, Cohort.tagged, htags]
    exact ne_true_of_eq_false (hfree p.2 hlo (by omega))
  have hput : t.winData c.key off bs = t.setCohort (c'.put off bs) := by
    simp only [State.winData, h.cohort, hgranule, State.winPut, hno, Bool.false_eq_true, if_false]
  rw [hput]
  refine ⟨h.beams, h.mem, ?_, h.same⟩
  rw [State.cohort?_setCohort, h.cohort]
  exact if_pos (congrArg Cohort.key h.same)

end

/-! ### Where a record lies (R246, R247) -/

theorem State.ring?_some {s : State} {sp : Space} {d : Nat} {r : RingDesc} (h : s.ring? sp d = some r) :
    r.sp = sp ∧ r.desc = d ∧ 512 ≤ r.size ∧ r.size = 2 ^ Nat.log2 r.size := by
  unfold State.ring? at h
  split at h
  · cases h
  · extract_lets f base size buf at h
    split at h
    · cases h
    · next hvalid =>
      simp only [Bool.or_eq_true, not_or, decide_eq_true_eq, bne_iff_ne, ne_eq, not_not, not_lt] at hvalid
      obtain ⟨⟨⟨-, hsize, -⟩, hpow⟩, -⟩ := hvalid
      obtain rfl := Option.some.inj h
      exact ⟨rfl, rfl, hsize, hpow⟩

/-- The size of a ring is a multiple of 8. -/
theorem eight_dvd_of_pow {n : Nat} (h : 512 ≤ n) (hpow : n = 2 ^ Nat.log2 n) : 8 ∣ n := by
  have hlog : 3 ≤ Nat.log2 n := by
    by_contra hlt
    have : 2 ^ Nat.log2 n ≤ 2 ^ 2 := Nat.pow_le_pow_right (by decide) (by omega)
    omega
  rw [hpow]
  exact pow_dvd_pow 2 hlog

theorem le_roundUp (n : Nat) : n ≤ roundUp n 8 := by
  unfold roundUp
  omega

/-- Offset of the next record in the buffer, behind the PAD record that it needs. -/
def RingDesc.place (r : RingDesc) (n : Nat) : Nat := (r.tail + r.pad n) % r.size

/-- The record lies within the buffer; its PAD record, where it needs one, fills the buffer's end from TAIL on, and the
record then lies before TAIL's offset. -/
structure RingDesc.Room (r : RingDesc) (n : Nat) : Prop where
  record : r.place n + recordBytes n ≤ r.size
  pad    : r.pad n ≠ 0 → 8 ≤ r.pad n ∧ r.tail % r.size + r.pad n = r.size ∧ r.place n + recordBytes n ≤ r.tail % r.size

theorem RingDesc.room_of_fits {r : RingDesc} {n : Nat} (hsize : 512 ≤ r.size) (hdvd : 8 ∣ r.size) (htail : r.tail % 8 = 0)
    (hfits : r.fits n = true) : r.Room n := by
  have hfit : r.used + r.pad n + recordBytes n ≤ r.size := of_decide_eq_true hfits
  have hoff : r.tail % r.size < r.size := Nat.mod_lt _ (by omega)
  have hoff8 : r.tail % r.size % 8 = 0 := by rw [Nat.mod_mod_of_dvd _ hdvd, htail]
  have hpos : 0 < recordBytes n := by unfold recordBytes; omega
  by_cases hleft : r.size - r.tail % r.size < recordBytes n
  · have hpad : r.pad n = r.size - r.tail % r.size := if_pos hleft
    have hend : r.place n = 0 := by
      rw [RingDesc.place, Nat.add_mod, hpad, ← Nat.add_mod, ← Nat.mod_add_mod, Nat.add_sub_cancel' hoff.le, Nat.mod_self]
    exact ⟨by omega, fun _ => by omega⟩
  · have hpad : r.pad n = 0 := if_neg hleft
    have hat : r.place n = r.tail % r.size := by rw [RingDesc.place, hpad, Nat.add_zero]
    exact ⟨by omega, fun hne => absurd hpad hne⟩

/-! ### The append (R247, R249) -/

/-- The header of a PAD record over `pad` bytes. -/
def padRecord (pad : Nat) : List Byte := natLe 8 (2 ^ 16) ++ List.replicate (pad - 8) 0

theorem padRecord_length {pad : Nat} (h : 8 ≤ pad) : (padRecord pad).length = pad := by
  rw [padRecord, List.length_append, natLe_length, List.length_replicate]
  omega

/-- The window with the PAD record that comes before a payload of `n` bytes, where one is needed. -/
def Cohort.padded (c : Cohort) (r : RingDesc) (n : Nat) : Cohort :=
  if r.pad n == 0 then c else c.put (r.buf + r.tail % r.size) (padRecord (r.pad n))

/-- The window after an append: the PAD record, the payload with its zeros, the header, and TAIL. -/
def Cohort.ringPut (c : Cohort) (r : RingDesc) (seq : Nat) (data : List Byte) : Cohort :=
  let n := data.length
  let pos := r.buf + r.place n
  (((c.padded r n).put (pos + 8) (data ++ List.replicate (roundUp n 8 - n) 0)).put pos
    (natLe 8 (n + seq % 2 ^ 32 * 2 ^ 32))).put (r.desc + 8) (natLe 4 (r.tail + r.pad n + recordBytes n))

theorem Cohort.ringPut_tail (c : Cohort) (r : RingDesc) (seq : Nat) (data : List Byte) :
    (c.ringPut r seq data).nat (r.desc + 8) 4 = (r.tail + r.pad data.length + recordBytes data.length) % 2 ^ 32 :=
  Cohort.nat_put_natLe ..

section
variable {r : RingDesc} {data : List Byte} (hroom : r.Room data.length)
include hroom

section
variable {s : State} {c : Cohort} (hst : c.st = .resident) (hc : s.cohort? c.key = some c) (hsp : r.sp = .window c.key)
  (hfree : ∀ o, (r.desc ≤ o ∧ o < r.desc + 32) ∨ (r.buf ≤ o ∧ o < r.buf + r.size) → c.tagged o = false)
include hst hc hsp hfree

theorem State.ringPut_window (seq : Nat) : s.HoldsWindow c (c.ringPut r seq data) (s.ringPut r seq data) := by
  have hrec : data.length ≤ roundUp data.length 8 := le_roundUp data.length
  have hlen : recordBytes data.length = 8 + roundUp data.length 8 := rfl
  obtain ⟨hplace, hpad⟩ := hroom
  unfold State.ringPut State.spPut
  rw [hsp]
  have hpadded : s.HoldsWindow c (c.padded r data.length) (if r.pad data.length == 0 then s
      else s.winData c.key (r.buf + r.tail % r.size) (padRecord (r.pad data.length))) := by
    have hstart : s.HoldsWindow c c s := ⟨rfl, rfl, hc, rfl⟩
    unfold Cohort.padded
    split
    · exact hstart
    · next hne =>
      obtain ⟨h8, hend, -⟩ := hpad (by simpa using hne)
      refine hstart.winData hst fun o hlo hhi => hfree o (.inr ?_)
      rw [padRecord_length h8] at hhi
      omega
  have hpayload := hpadded.winData hst (off := r.buf + r.place data.length + 8)
    (bs := data ++ List.replicate (roundUp data.length 8 - data.length) 0) fun o hlo hhi => hfree o (.inr (by
      rw [List.length_append, List.length_replicate] at hhi
      omega))
  have hheader := hpayload.winData hst (off := r.buf + r.place data.length)
    (bs := natLe 8 (data.length + seq % 2 ^ 32 * 2 ^ 32)) fun o hlo hhi => hfree o (.inr (by
      rw [natLe_length] at hhi
      omega))
  exact hheader.winData hst fun o hlo hhi => hfree o (.inl (by
    rw [natLe_length] at hhi
    omega))

end

variable (c : Cohort) (seq : Nat)

/-- Outside the buffer and TAIL every byte is as before. -/
theorem Cohort.ringPut_other {o : Nat} (hbuf : o < r.buf ∨ r.buf + r.size ≤ o) (htail : o < r.desc + 8 ∨ r.desc + 12 ≤ o) :
    (c.ringPut r seq data).byte o = c.byte o := by
  have hrec : data.length ≤ roundUp data.length 8 := le_roundUp data.length
  have hlen : recordBytes data.length = 8 + roundUp data.length 8 := rfl
  obtain ⟨hplace, hpad⟩ := hroom
  have hpadded : (c.padded r data.length).byte o = c.byte o := by
    unfold Cohort.padded
    split
    · rfl
    · next hne =>
      obtain ⟨h8, hend, -⟩ := hpad (by simpa using hne)
      exact c.byte_put_other _ _ _ (by rw [padRecord_length h8]; omega)
  unfold Cohort.ringPut
  rw [Cohort.byte_put_other _ _ _ _ (by rw [natLe_length]; omega), Cohort.byte_put_other _ _ _ _ (by rw [natLe_length]; omega),
    Cohort.byte_put_other _ _ _ _ (by rw [List.length_append, List.length_replicate]; omega), hpadded]

/-- Where the descriptor lies outside the buffer, the record stands in its place, and before it the PAD record that it
needs. -/
theorem Cohort.ringPut_record (hapart : r.desc + 32 ≤ r.buf ∨ r.buf + r.size ≤ r.desc) :
    let n := data.length
    let pos := r.buf + (r.tail + r.pad n) % r.size
    let c' := c.ringPut r seq data
    c'.bytes pos 8 = natLe 8 (n + seq % 2 ^ 32 * 2 ^ 32) ∧ c'.bytes (pos + 8) n = data ∧
      c'.bytes (pos + 8 + n) (roundUp n 8 - n) = List.replicate (roundUp n 8 - n) 0 ∧
      (r.pad n ≠ 0 → c'.bytes (r.buf + r.tail % r.size) 8 = natLe 8 (2 ^ 16)) := by
  intro n pos c'
  have hrec : n ≤ roundUp n 8 := le_roundUp n
  have hlen : recordBytes n = 8 + roundUp n 8 := rfl
  have hpos : pos = r.buf + r.place n := rfl
  obtain ⟨hplace, hpad⟩ : r.Room n := hroom
  let zeros := List.replicate (roundUp n 8 - n) (0 : Byte)
  let c1 := c.padded r n
  let c2 := c1.put (pos + 8) (data ++ zeros)
  let c3 := c2.put pos (natLe 8 (n + seq % 2 ^ 32 * 2 ^ 32))
  have hzeros : zeros.length = roundUp n 8 - n := List.length_replicate
  have htail {o m : Nat} (hlo : r.buf ≤ o) (hhi : o + m ≤ r.buf + r.size) : c'.bytes o m = c3.bytes o m :=
    Cohort.bytes_put_other c3 (by rw [natLe_length]; omega)
  have hheader {o m : Nat} (h : pos + 8 ≤ o ∨ o + m ≤ pos) : c3.bytes o m = c2.bytes o m :=
    Cohort.bytes_put_other c2 (by rw [natLe_length]; omega)
  obtain ⟨hdata, hrest⟩ := c1.bytes_put_append (pos + 8) data zeros
  rw [hzeros] at hrest
  refine ⟨?_, ?_, ?_, fun hne => ?_⟩
  · have hput := c2.bytes_put pos (natLe 8 (n + seq % 2 ^ 32 * 2 ^ 32))
    rw [natLe_length] at hput
    rw [htail (by omega) (by omega), hput]
  · rw [htail (by omega) (by omega), hheader (by omega), hdata]
  · rw [htail (by omega) (by omega), hheader (by omega)]
    exact hrest
  · obtain ⟨h8, hend, hbefore⟩ := hpad hne
    have hc1 : c1 = c.put (r.buf + r.tail % r.size) (padRecord (r.pad n)) := if_neg (by simpa using hne)
    have hpayload : c2.bytes (r.buf + r.tail % r.size) 8 = c1.bytes (r.buf + r.tail % r.size) 8 :=
      Cohort.bytes_put_other c1 (by rw [List.length_append, hzeros]; omega)
    have hput := (c.bytes_put_append (r.buf + r.tail % r.size) (natLe 8 (2 ^ 16)) (List.replicate (r.pad n - 8) 0)).1
    rw [natLe_length] at hput
    rw [htail (by omega) (by omega), hheader (by omega), hpayload, hc1, padRecord, hput]

end

/-! ### What an append answers (R248, R249) -/

theorem State.append_noRing {s : State} {sp : Space} {d : Nat} (h : s.ring? sp d = none) (seq : Nat) (data : List Byte) :
    s.append sp d seq data = (s, 0x102) := by
  rw [State.append, h]

theorem State.append_full {s : State} {sp : Space} {d : Nat} {r : RingDesc} (h : s.ring? sp d = some r) {data : List Byte}
    (hfits : r.fits data.length = false) (seq : Nat) : s.append sp d seq data = (s, 0x101) := by
  rw [State.append, h]
  exact if_neg (ne_true_of_eq_false hfits)

theorem State.append_fits {s : State} {sp : Space} {d : Nat} {r : RingDesc} (h : s.ring? sp d = some r) {data : List Byte}
    (hfits : r.fits data.length = true) (seq : Nat) : s.append sp d seq data = (s.ringPut r seq data, 0) := by
  rw [State.append, h]
  exact if_pos hfits

/-- An append to a window's open ring that the record fits. -/
theorem State.append_window {s : State} {c : Cohort} {d : Nat} {data : List Byte} {r : RingDesc}
    (hc : s.cohort? c.key = some c) (hst : c.st = .resident) (hr : s.ring? (.window c.key) d = some r)
    (hfits : r.fits data.length = true) (htail : r.tail % 8 = 0)
    (hfree : ∀ o, (d ≤ o ∧ o < d + 32) ∨ (r.buf ≤ o ∧ o < r.buf + r.size) → c.tagged o = false) (seq : Nat) :
    ∃ t c', s.append (.window c.key) d seq data = (t, 0) ∧ t.cohort? c.key = some c' ∧ t.mem = s.mem ∧
      t.beams = s.beams ∧ c'.nat (d + 8) 4 = (r.tail + r.pad data.length + recordBytes data.length) % 2 ^ 32 ∧
      (∀ o, (o < r.buf ∨ r.buf + r.size ≤ o) → (o < d + 8 ∨ d + 12 ≤ o) → c'.byte o = c.byte o) ∧
      (d + 32 ≤ r.buf ∨ r.buf + r.size ≤ d →
        let n := data.length
        let pos := r.buf + (r.tail + r.pad n) % r.size
        c'.bytes pos 8 = natLe 8 (n + seq % 2 ^ 32 * 2 ^ 32) ∧ c'.bytes (pos + 8) n = data ∧
        c'.bytes (pos + 8 + n) (roundUp n 8 - n) = List.replicate (roundUp n 8 - n) 0 ∧
        (r.pad n ≠ 0 → c'.bytes (r.buf + r.tail % r.size) 8 = natLe 8 (2 ^ 16))) := by
  obtain ⟨hsp, rfl, hsize, hpow⟩ := State.ring?_some hr
  have hroom := RingDesc.room_of_fits hsize (eight_dvd_of_pow hsize hpow) htail hfits
  obtain ⟨hbeams, hmem, hcohort, -⟩ := State.ringPut_window hroom hst hc hsp hfree seq
  exact ⟨_, _, State.append_fits hr hfits seq, hcohort, hmem, hbeams, c.ringPut_tail r seq data,
    fun o hbuf htail => c.ringPut_other hroom seq hbuf htail, c.ringPut_record hroom seq⟩

end Sys2Proof.Machine
end

section
/-! MSEND (R245, R248, R396, R400): its checks, and what each way of sending answers. -/

namespace Sys2Proof.Machine

/-! ### What an append and a send leave of the beams -/

section
variable (s : State)

theorem State.ringNotes_beams (core ctx a n : Nat) : (s.ringNotes core ctx a n).beams = s.beams := by
  unfold State.ringNotes
  split
  · exact State.foldl_beams (fun t va => (t.sameBesideMemory_xlNoteAs ..).beams) _ s
  · rfl

theorem State.spPut_beams (sp : Space) (a : Nat) (bs : List Byte) : (s.spPut sp a bs).beams = s.beams := by
  cases sp with
  | window c => exact s.winData_beams c a bs
  | mem core ctx =>
    refine (State.foldl_beams (fun t p => ?_) _ _).trans (s.ringNotes_beams core ctx a bs.length)
    split
    · exact State.writeByte_beams ..
    · rfl

theorem State.ringPut_beams (r : RingDesc) (seq : Nat) (data : List Byte) : (s.ringPut r seq data).beams = s.beams := by
  have hpad {n : Nat} {bs : List Byte} (a : Nat) : (if n == 0 then s else s.spPut r.sp a bs).beams = s.beams := by
    split
    · rfl
    · exact s.spPut_beams ..
  simp only [State.ringPut, State.spPut_beams, hpad]

theorem State.append_beams (sp : Space) (d seq : Nat) (data : List Byte) : (s.append sp d seq data).1.beams = s.beams := by
  unfold State.append
  split
  · rfl
  · split
    · exact s.ringPut_beams ..
    · rfl

theorem State.transmit_beams (peer vc vfn : Nat) (mk : Nat → OutMsg) : (s.transmit peer vc vfn mk).beams = s.beams := by
  unfold State.transmit State.send
  extract_lets f m port
  split <;> rfl

theorem State.msendAway_keepsPlaces (x : Frag) (d : Reg) (dev vc : Nat) (h : DWord) (seq : Nat) (data : List Byte) :
    s.KeepsPlaces (s.msendAway x d dev vc h seq data) := by
  unfold State.msendAway
  split
  · exact .refl s
  · next b hb =>
    have hempty := (b.samePlace_claimS x.lead d.toNat).trans (Beam.samePlace_setSfull _ d.toNat false)
    exact State.KeepsPlaces.trans (.setBeam hb hempty) (.of_beams (State.transmit_beams ..))

end

/-- A count of sends is no part of a fragment's place. -/
theorem Beam.samePlace_sendSeq (b : Beam) (h : DWord) : b.SamePlace (b.sendSeq h).2 := ⟨rfl, rfl⟩

/-! ### What an instruction means

The own effect of an instruction, behind its frame. -/

/-- For the fragment `x` the instruction's own effect is `r`. -/
def Means (s : State) (x : Frag) (g : Guard) (i : Instr) (r : Res) : Prop :=
  ∃ body : Frag → State → Res, exec i s = s.runFrag g body ∧ body x s = r

section
variable {s u : State} {x : Frag} {g : Guard} {i : Instr} (h : Clear s x g)
include h

theorem Means.goes (hm : Means s x g i (.done u)) (hk : s.KeepsPlaces u) : Goes s x i u :=
  have ⟨_, hi, hu⟩ := hm
  goes_of_keepsPlaces h hi hu hk

theorem Means.traps {tr : Trap} (hm : Means s x g i (.trap tr)) : Traps s x i tr :=
  have ⟨_, hi, hu⟩ := hm
  traps_of_trap h hi hu

theorem Means.stays (hm : Means s x g i (.stay u)) : exec i s = .next u :=
  have ⟨_, hi, hu⟩ := hm
  exec_of_stay h hi hu

/-- An instruction that only writes sD. -/
theorem Means.puts {d : Reg} {v : Nat} (hm : Means s x g i (s.beamDone (x.putS d v))) :
    Goes s x i (s.setBeam (x.putS d v)) :=
  Means.goes h hm (.setBeam (State.frag_beam h.frag) (x.b.samePlace_putS ..))

end

theorem Means.congr {s : State} {x : Frag} {g : Guard} {i : Instr} {r r' : Res} (hm : Means s x g i r) (h : r = r') :
    Means s x g i r' := h ▸ hm

/-! ### The checks of MSEND -/

/-- The registers that MSEND names. -/
def msendGuard (d : Reg) (a b : SArg) : Guard :=
  { priv := false, noGlint := false
    uses := msgUses d a ++ SArg.uses 2 b ++ [{ set := .s, r := b.r.toNat + 1, src := 5, dst := false, trap := false }] }

/-- A length that MSEND takes (R248). -/
theorem length_in_range {n : Nat} (h1 : 1 ≤ n) (h256 : n ≤ 256) : ¬ (decide (n < 1) || decide (n > 256)) = true := by
  rw [Bool.or_eq_true, decide_eq_true_eq, decide_eq_true_eq]
  omega

section
variable {s : State} {x : Frag} {d : Reg} {a b : SArg}

theorem msend_absent
    (habs : [x.sval a, x.sval b, (x.b.sreg (b.r.toNat + 1)).toNat].any (Fmt.isAbsent .n64) = true) :
    Means s x (msendGuard d a b) (.msend d a b) (s.beamDone (x.putS d (Fmt.absent .n64))) :=
  ⟨_, rfl, if_pos habs⟩

variable (hpres : [x.sval a, x.sval b, (x.b.sreg (b.r.toNat + 1)).toNat].any (Fmt.isAbsent .n64) = false)
include hpres

theorem msend_length (hn : (x.b.sreg (b.r.toNat + 1)).toNat < 1 ∨ 256 < (x.b.sreg (b.r.toNat + 1)).toNat) :
    Means s x (msendGuard d a b) (.msend d a b)
      (.trap (msgTrap 1 (x.sval a) (x.b.sreg (b.r.toNat + 1)).toNat)) :=
  ⟨_, rfl, (if_neg (ne_true_of_eq_false hpres)).trans (if_pos (by simpa using hn))⟩

variable (h1 : 1 ≤ (x.b.sreg (b.r.toNat + 1)).toNat) (h256 : (x.b.sreg (b.r.toNat + 1)).toNat ≤ 256)
include h1 h256

theorem msend_badHandle (hring : ringOf (x.sval a) = .bad) :
    Means s x (msendGuard d a b) (.msend d a b) (.trap (msgTrap 2 (x.sval a) 0)) := by
  refine ⟨_, rfl, (if_neg (ne_true_of_eq_false hpres)).trans ((if_neg (length_in_range h1 h256)).trans ?_)⟩
  simp only [hring]

theorem msend_payloadTraps (hring : ringOf (x.sval a) ≠ .bad) {tr : Trap}
    (hpay : s.payloadTrap x (x.sval b) (x.b.sreg (b.r.toNat + 1)).toNat = some tr) :
    Means s x (msendGuard d a b) (.msend d a b) (.trap tr) := by
  refine ⟨_, rfl, (if_neg (ne_true_of_eq_false hpres)).trans ((if_neg (length_in_range h1 h256)).trans ?_)⟩
  cases hr : ringOf (x.sval a) with
  | bad => exact absurd hr hring
  | window dev kernel cohort off => simp only [hpay]
  | mem va => simp only [hpay]

variable (hpay : s.payloadTrap x (x.sval b) (x.b.sreg (b.r.toNat + 1)).toNat = none) {c : Cohort}
  (hc : s.cohort? x.b.cohort = some c)
include hpay hc

theorem msend_toWindow {dev kernel cohort off : Nat} (hring : ringOf (x.sval a) = .window dev kernel cohort off)
    (hdesc : x.descTrap off = none) :
    Means s x (msendGuard d a b) (.msend d a b) (s.msendWindow x d (BitVec.ofNat 64 (x.sval a)) dev kernel cohort off
      (c.bytes (x.sval b) (x.b.sreg (b.r.toNat + 1)).toNat)) := by
  refine ⟨_, rfl, (if_neg (ne_true_of_eq_false hpres)).trans ((if_neg (length_in_range h1 h256)).trans ?_)⟩
  simp only [hring, hpay, hdesc, hc, Option.map_some, Option.getD_some]

theorem msend_toMemory {va : Nat} (hring : ringOf (x.sval a) = .mem va) :
    Means s x (msendGuard d a b) (.msend d a b) (s.msendMem x d (.msend d a b) (BitVec.ofNat 64 (x.sval a)) va
      (c.bytes (x.sval b) (x.b.sreg (b.r.toNat + 1)).toNat)) := by
  refine ⟨_, rfl, (if_neg (ne_true_of_eq_false hpres)).trans ((if_neg (length_in_range h1 h256)).trans ?_)⟩
  simp only [hring, hpay, hc, Option.map_some, Option.getD_some]

end

/-! ### The ways of sending -/

/-- The issuing beam has counted its send to the ring `h`. -/
def State.counted (s : State) (x : Frag) (h : DWord) : State := s.setBeam (x.b.sendSeq h).2

section
variable {s : State} {x : Frag} {d : Reg} {h : DWord} {data : List Byte}

section
variable {dev kernel cohort off : Nat}

theorem State.msendWindow_away (hdev : dev ≠ s.mgmt.device) {y : Partition} (hy : s.partOfCore x.core = some y) :
    s.msendWindow x d h dev kernel cohort off data =
      if y.egress.contains dev then
        .done ((s.counted x h).msendAway x d dev (if s.classOf x.b = 0 then 0 else 1) h (x.b.sendSeq h).1 data)
      else (s.counted x h).msendDone x d 0x103 := by
  have hy' : (s.setBeam (x.b.sendSeq h).2).partOfCore x.core = some y := hy
  have hclass : (s.setBeam (x.b.sendSeq h).2).classOf x.b = s.classOf x.b := rfl
  refine (if_pos (by simpa using hdev)).trans ?_
  simp only [hy', hclass, beq_iff_eq, Option.map_some, Option.getD_some]
  rfl

variable (hdev : dev = s.mgmt.device)
include hdev

theorem State.msendWindow_noRing (hr : (s.counted x h).receiver kernel cohort = none) :
    s.msendWindow x d h dev kernel cohort off data = (s.counted x h).msendDone x d 0x102 := by
  refine (if_neg (by simpa using hdev)).trans ?_
  unfold State.counted at hr ⊢
  simp only [hr]

variable {k : Kernel} {y : Cohort} (hr : (s.counted x h).receiver kernel cohort = some (k, y))
include hr

theorem State.msendWindow_refused (hctx : ((s.counted x h).kernelOf x.b).map (·.ctx) ≠ some k.ctx) :
    s.msendWindow x d h dev kernel cohort off data = (s.counted x h).msendDone x d 0x103 := by
  refine (if_neg (by simpa using hdev)).trans ?_
  unfold State.counted at hr hctx ⊢
  simp only [hr]
  exact if_pos (by rwa [bne_iff_ne])

theorem State.msendWindow_appends (hctx : ((s.counted x h).kernelOf x.b).map (·.ctx) = some k.ctx) :
    let r := (s.counted x h).append (.window ⟨kernel, cohort⟩) off (x.b.sendSeq h).1 data
    s.msendWindow x d h dev kernel cohort off data = r.1.msendDone x d r.2 := by
  refine (if_neg (by simpa using hdev)).trans ?_
  unfold State.counted at hr hctx ⊢
  simp only [hr]
  exact if_neg (by rw [hctx, bne_self_eq_false]; exact Bool.false_ne_true)

end

section
variable {i : Instr} {va : Nat} {k : Kernel} (hk : s.kernelOf x.b = some k)
  (hpass : Passes s x (descAcc .read) [(x.lead, (va : Int))])
include hk hpass

theorem State.msendMem_noRing
    (hr : ((s.counted x h).laneNote x (descAcc .read) va).ring? (.mem x.core k.ctx) va = none) :
    s.msendMem x d i h va data = ((s.counted x h).laneNote x (descAcc .read) va).msendDone x d 0x102 := by
  unfold State.counted at hr ⊢
  simp only [State.msendMem, hk, State.access_of_passes hpass, hr]

variable {r : RingDesc} (hr : ((s.counted x h).laneNote x (descAcc .read) va).ring? (.mem x.core k.ctx) va = some r)
include hr

theorem State.msendMem_full (hfits : r.fits data.length = false) :
    let s1 := (s.counted x h).laneNote x (descAcc .read) va
    s.msendMem x d i h va data = s1.msendDone x d (if s1.ringNear r then 0x101 else 0x102) := by
  unfold State.counted at hr ⊢
  simp only [State.msendMem, hk, State.access_of_passes hpass, hr, hfits, Bool.false_eq_true, if_false]

variable (hfits : r.fits data.length = true)
  (hbuf : Passes s x (bufAcc .write) ((r.units data.length).map fun u : Nat => (x.lead, (u : Int))))
include hfits hbuf

theorem State.msendMem_judged :
    let s1 := (s.counted x h).laneNote x (descAcc .read) va
    s.msendMem x d i h va data = if s1.ringNear r then
      s.access x (descAcc .rmw) i [(x.lead, (va : Int))] ((s1.ringPut r (x.b.sendSeq h).1 data).msendDone x d 0)
    else s1.msendDone x d 0x102 := by
  unfold State.counted at hr ⊢
  simp only [State.msendMem, hk, State.access_of_passes hpass, hr, hfits, State.access_of_passes hbuf, if_true]

end
end

theorem State.counted_keepsPlaces {s : State} {x : Frag} (hf : s.frag = some x) (h : DWord) :
    s.KeepsPlaces (s.counted x h) :=
  .setBeam (State.frag_beam hf) (x.b.samePlace_sendSeq h)

/-- An MSEND that ends at once sends its code to sD. -/
theorem Means.answers {s u : State} {x : Frag} {g : Guard} {i : Instr} {d : Reg} {code : Nat} (h : Clear s x g)
    (hm : Means s x g i (u.msendDone x d code)) (hk : s.KeepsPlaces u) :
    Goes s x i (u.sendS x .n64 d code (u.loadReady x chunkAcc [])) :=
  Means.goes h hm (hk.trans (u.sendS_keepsPlaces x .n64 d code _ none))

end Sys2Proof.Machine
end

section
/-! MPOLL, MWAIT and MPOP (R245, R246, R250, R251, R310): a consumer's ring with its checks, the move of HEAD, and the
answers. -/

namespace Sys2Proof.Machine

/-! ### The ring of a consumer -/

/-- A handle names an open ring `r` that passes its checks, and `u` is the state with what its reads leave. -/
def State.Opens (s : State) (x : Frag) (h : Nat) (u : State) (r : RingDesc) : Prop :=
  (∃ dev k c off, ringOf h = .window dev k c off ∧ x.descTrap off = none ∧
    s.ring? (.window x.b.cohort) off = some r ∧ u = s) ∨
  (∃ va k, ringOf h = .mem va ∧ s.kernelOf x.b = some k ∧ Passes s x (descAcc .read) [(x.lead, (va : Int))] ∧
    let s1 := s.laneNote x (descAcc .read) va
    let us := (s1.headersRead r 4 r.head).map fun u : Nat => (x.lead, (u : Int))
    s1.ring? (.mem x.core k.ctx) va = some r ∧ Passes s x (bufAcc .read) us ∧ s1.ringNear r = true ∧
      u = s1.notes x (bufAcc .read) us)

/-- A handle names a ring that is closed or invalid. -/
def State.Shut (s : State) (x : Frag) (h : Nat) : Prop :=
  (∃ dev k c off, ringOf h = .window dev k c off ∧ x.descTrap off = none ∧ s.ring? (.window x.b.cohort) off = none) ∨
  (∃ va k, ringOf h = .mem va ∧ s.kernelOf x.b = some k ∧ Passes s x (descAcc .read) [(x.lead, (va : Int))] ∧
    (s.laneNote x (descAcc .read) va).ring? (.mem x.core k.ctx) va = none)

section
variable {s : State} {x : Frag} {h : Nat}

theorem State.consume_bad (hring : ringOf h = .bad) (i : Instr) (go : State → RingDesc → Res) :
    s.consume x i h go = .trap (msgTrap 2 h 0) := by
  rw [State.consume, hring]

theorem State.consume_shut (hshut : s.Shut x h) (i : Instr) (go : State → RingDesc → Res) :
    s.consume x i h go = .trap (msgTrap 3 h 0) := by
  obtain ⟨dev, k, c, off, hring, hdesc, hnone⟩ | ⟨va, k, hring, hk, hpass, hnone⟩ := hshut
  · simp only [State.consume, hring, hdesc, hnone]
  · simp only [State.consume, hring, hk, State.access_of_passes hpass, hnone]

theorem State.consume_opens {u : State} {r : RingDesc} (hopen : s.Opens x h u r) (i : Instr)
    (go : State → RingDesc → Res) : s.consume x i h go = go u r := by
  obtain ⟨dev, k, c, off, hring, hdesc, hr, rfl⟩ | ⟨va, k, hring, hk, hpass, hr, hbuf, hnear, rfl⟩ := hopen
  · simp only [State.consume, hring, hdesc, hr]
  · simp only [State.consume, hring, hk, State.access_of_passes hpass, hr, State.access_of_passes hbuf, hnear, if_true]

theorem State.Opens.keepsPlaces {u : State} {r : RingDesc} (hopen : s.Opens x h u r) : s.KeepsPlaces u := by
  obtain ⟨dev, k, c, off, -, -, -, rfl⟩ | ⟨va, k, -, -, -, -, -, -, rfl⟩ := hopen
  · exact .refl _
  · exact (s.laneNote_keepsPlaces x (descAcc .read) va).trans (State.notes_keepsPlaces _ x (bufAcc .read) _)

end

/-! ### HEAD moves -/

/-- HEAD may move to `head`: it stays where it is, the ring lies in a window, or the descriptor's page passes its checks for
a write. -/
def State.Moves (u : State) (x : Frag) (r : RingDesc) (head : Nat) : Prop :=
  head = r.head ∨ (∃ c, r.sp = .window c) ∨ Passes u x (descAcc .rmw) [(x.lead, (r.desc : Int))]

section
variable {u : State} {x : Frag} {r : RingDesc} {head : Nat}

theorem State.moveHead_of_moves (hm : u.Moves x r head) (i : Instr) (go : State → Res) :
    u.moveHead x i r head go = go (u.putHead r head) := by
  unfold State.moveHead
  cases hsp : r.sp with
  | window c => rfl
  | mem core ctx =>
    dsimp only
    by_cases hhead : head = r.head
    · rw [if_pos (beq_iff_eq.mpr hhead), State.putHead, if_pos (beq_iff_eq.mpr hhead)]
    · rw [if_neg (by rwa [beq_iff_eq])]
      obtain h | ⟨c, h⟩ | h := hm
      · exact absurd h hhead
      · rw [hsp] at h
        cases h
      · exact State.access_of_passes h i _

theorem State.putHead_keepsPlaces (u : State) (r : RingDesc) (head : Nat) : u.KeepsPlaces (u.putHead r head) :=
  .ite (.refl u) (.of_beams (u.spPut_beams ..))

/-- The answer about an empty ring is absent. -/
theorem State.polled_empty (hm : u.Moves x r (u.pastPads r 4 r.head)) (hempty : u.pastPads r 4 r.head = r.tail) (i : Instr)
    (d : Reg) :
    let v := u.putHead r (u.pastPads r 4 r.head)
    u.polled x i d r = .done (v.sendS x .n64 d (Fmt.absent .n64) (v.ringReady x r)) := by
  intro v
  simp only [State.polled, State.moveHead_of_moves hm]
  exact if_pos (beq_iff_eq.mpr hempty)

/-- The answer about a record is its header's place, with an acquire. -/
theorem State.polled_record (hm : u.Moves x r (u.pastPads r 4 r.head)) (hrec : u.pastPads r 4 r.head ≠ r.tail) (i : Instr)
    (d : Reg) :
    let head := u.pastPads r 4 r.head
    let v := u.putHead r head
    u.polled x i d r =
      .done ((v.acquire x true .sys).sendS x .n64 d (r.buf + head % r.size) (v.ringReady x r)) := by
  intro head v
  simp only [State.polled, State.moveHead_of_moves hm]
  exact if_neg (by rwa [beq_iff_eq])

end

/-! ### What a poll answers -/

section
variable {s u : State} {x : Frag} {g : Guard} {i : Instr} {d : Reg} {r : RingDesc} (h : Clear s x g)
  (hu : s.KeepsPlaces u) (hm : Means s x g i (u.polled x i d r))
include h hu hm

/-- An instruction that polls a ring answers the place of the header at HEAD behind the PAD records, or absent. -/
theorem polls_of_means :
    let head := u.pastPads r 4 r.head
    let v := u.putHead r head
    u.Moves x r head →
    (head = r.tail → Goes s x i (v.sendS x .n64 d (Fmt.absent .n64) (v.ringReady x r))) ∧
    (head ≠ r.tail → Goes s x i ((v.acquire x true .sys).sendS x .n64 d (r.buf + head % r.size) (v.ringReady x r))) := by
  intro head v hmoves
  have hv : s.KeepsPlaces v := hu.trans (u.putHead_keepsPlaces r head)
  refine ⟨fun hempty => ?_, fun hrec => ?_⟩
  · exact Means.goes h (hm.congr (State.polled_empty hmoves hempty i d)) (hv.trans (v.sendS_keepsPlaces x .n64 d _ _ none))
  · exact Means.goes h (hm.congr (State.polled_record hmoves hrec i d))
      ((hv.trans (v.acquire_keepsPlaces x true .sys)).trans (State.sendS_keepsPlaces _ x .n64 d _ _ none))

end

/-! ### MPOLL and MPOP -/

section
variable {s : State} {x : Frag} {d a : Reg}
  (h : Clear s x { priv := false, noGlint := false, uses := msgUses d ⟨a, false⟩ })
include h

theorem poll_pop_absent (habs : Fmt.isAbsent .n64 (x.b.sreg a.toNat).toNat = true) :
    Goes s x (.mpoll d a) (s.setBeam (x.putS d (Fmt.absent .n64))) ∧
      Goes s x (.mpop d a) (s.setBeam (x.putS d (Fmt.absent .n64))) :=
  ⟨Means.puts h ⟨_, rfl, if_pos habs⟩, Means.puts h ⟨_, rfl, if_pos habs⟩⟩

variable (hpres : Fmt.isAbsent .n64 (x.b.sreg a.toNat).toNat = false)
include hpres

theorem poll_pop_bad (hring : ringOf (x.b.sreg a.toNat).toNat = .bad) :
    Traps s x (.mpoll d a) (msgTrap 2 (x.b.sreg a.toNat).toNat 0) ∧
      Traps s x (.mpop d a) (msgTrap 2 (x.b.sreg a.toNat).toNat 0) :=
  ⟨Means.traps h ⟨_, rfl, (if_neg (ne_true_of_eq_false hpres)).trans (State.consume_bad hring _ _)⟩,
    Means.traps h ⟨_, rfl, (if_neg (ne_true_of_eq_false hpres)).trans (State.consume_bad hring _ _)⟩⟩

theorem poll_pop_shut (hshut : s.Shut x (x.b.sreg a.toNat).toNat) :
    Traps s x (.mpoll d a) (msgTrap 3 (x.b.sreg a.toNat).toNat 0) ∧
      Traps s x (.mpop d a) (msgTrap 3 (x.b.sreg a.toNat).toNat 0) :=
  ⟨Means.traps h ⟨_, rfl, (if_neg (ne_true_of_eq_false hpres)).trans (State.consume_shut hshut _ _)⟩,
    Means.traps h ⟨_, rfl, (if_neg (ne_true_of_eq_false hpres)).trans (State.consume_shut hshut _ _)⟩⟩

variable {u : State} {r : RingDesc} (hopen : s.Opens x (x.b.sreg a.toNat).toNat u r)
include hopen

theorem mpoll_polls :
    let head := u.pastPads r 4 r.head
    let v := u.putHead r head
    u.Moves x r head →
    (head = r.tail → Goes s x (.mpoll d a) (v.sendS x .n64 d (Fmt.absent .n64) (v.ringReady x r))) ∧
    (head ≠ r.tail →
      Goes s x (.mpoll d a) ((v.acquire x true .sys).sendS x .n64 d (r.buf + head % r.size) (v.ringReady x r))) :=
  polls_of_means h hopen.keepsPlaces
    ⟨_, rfl, (if_neg (ne_true_of_eq_false hpres)).trans (State.consume_opens hopen _ _)⟩

theorem mpop_empty (hempty : u.pastPads r 4 r.head = r.tail) :
    Goes s x (.mpop d a) (u.sendS x .n64 d (Fmt.absent .n64) (u.ringReady x r)) :=
  Means.goes h ⟨_, rfl, (if_neg (ne_true_of_eq_false hpres)).trans ((State.consume_opens hopen _ _).trans
    (if_pos (beq_iff_eq.mpr hempty)))⟩ (hopen.keepsPlaces.trans (u.sendS_keepsPlaces x .n64 d _ _ none))

/-- MPOP moves HEAD past the record at HEAD and answers the bytes freed. -/
theorem mpop_record (hrec : u.pastPads r 4 r.head ≠ r.tail) :
    let head := u.pastPads r 4 r.head
    let next := (head + recordBytes (u.ringHeader r head).1) % 2 ^ 32
    u.Moves x r next → Goes s x (.mpop d a)
      ((u.putHead r next).sendS x .n64 d ((next + 2 ^ 32 - r.head) % 2 ^ 32) ((u.putHead r next).ringReady x r)) := by
  intro head next hmoves
  have hnext := hopen.keepsPlaces.trans (u.putHead_keepsPlaces r next)
  exact Means.goes h ⟨_, rfl, (if_neg (ne_true_of_eq_false hpres)).trans ((State.consume_opens hopen _ _).trans
    ((if_neg (by rwa [beq_iff_eq])).trans (State.moveHead_of_moves hmoves _ _)))⟩
    (hnext.trans (State.sendS_keepsPlaces _ x .n64 d _ _ none))

end

/-! ### MWAIT -/

section
variable {s : State} {x : Frag} {d : Reg} {a b : SArg}
  (h : Clear s x { priv := false, noGlint := true, uses := msgUses d a ++ SArg.uses 2 b })
include h

theorem mwait_absent (habs : Fmt.isAbsent .n64 (x.sval a) = true) :
    Goes s x (.mwait d a b) (s.setBeam (x.putS d (Fmt.absent .n64))) :=
  Means.puts h ⟨_, rfl, if_pos habs⟩

variable (hpres : Fmt.isAbsent .n64 (x.sval a) = false)
include hpres

theorem mwait_asleep (hz : x.asleep .mwait = true) : exec (.mwait d a b) s = .next s :=
  Means.stays h ⟨_, rfl, (if_neg (ne_true_of_eq_false hpres)).trans (if_pos hz)⟩

variable (hz : x.asleep .mwait = false)
include hz

theorem mwait_bad (hring : ringOf (x.sval a) = .bad) : Traps s x (.mwait d a b) (msgTrap 2 (x.sval a) 0) :=
  Means.traps h ⟨_, rfl, (if_neg (ne_true_of_eq_false hpres)).trans ((if_neg (ne_true_of_eq_false hz)).trans
    (State.consume_bad hring _ _))⟩

theorem mwait_shut (hshut : s.Shut x (x.sval a)) : Traps s x (.mwait d a b) (msgTrap 3 (x.sval a) 0) :=
  Means.traps h ⟨_, rfl, (if_neg (ne_true_of_eq_false hpres)).trans ((if_neg (ne_true_of_eq_false hz)).trans
    (State.consume_shut hshut _ _))⟩

variable {u : State} {r : RingDesc} (hopen : s.Opens x (x.sval a) u r)
include hopen

/-- MWAIT polls where there is a record or its limit has run out. -/
theorem mwait_polls
    (hend : u.pastPads r 4 r.head ≠ r.tail ∨
      (x.waited .mwait (if Fmt.isAbsent .n64 (x.sval b) then none else some (x.sval b))).2 = some 0) :
    let head := u.pastPads r 4 r.head
    let v := u.putHead r head
    u.Moves x r head →
    (head = r.tail → Goes s x (.mwait d a b) (v.sendS x .n64 d (Fmt.absent .n64) (v.ringReady x r))) ∧
    (head ≠ r.tail →
      Goes s x (.mwait d a b) ((v.acquire x true .sys).sendS x .n64 d (r.buf + head % r.size) (v.ringReady x r))) :=
  polls_of_means h hopen.keepsPlaces ⟨_, rfl, (if_neg (ne_true_of_eq_false hpres)).trans
    ((if_neg (ne_true_of_eq_false hz)).trans ((State.consume_opens hopen _ _).trans (if_pos (by simpa using hend))))⟩

/-- On an empty ring MWAIT sleeps while its limit has not run out. -/
theorem mwait_sleeps (hempty : u.pastPads r 4 r.head = r.tail)
    (hlim : (x.waited .mwait (if Fmt.isAbsent .n64 (x.sval b) then none else some (x.sval b))).2 ≠ some 0) :
    let lim := x.waited .mwait (if Fmt.isAbsent .n64 (x.sval b) then none else some (x.sval b))
    exec (.mwait d a b) s = .next (u.sleep x { kind := .mwait, ins := .mwait d a b, words := x.words, waited := lim.1
                                               rem := lim.2, woken := false, aux := r.tail }) :=
  Means.stays h ⟨_, rfl, (if_neg (ne_true_of_eq_false hpres)).trans
    ((if_neg (ne_true_of_eq_false hz)).trans ((State.consume_opens hopen _ _).trans (if_neg (by simp [hempty, hlim]))))⟩

end

/-! ### The statement -/

/-- Settles O27: an append by what it leaves of the window, MSEND by its checks and the ways of sending, the consumers by the
ring that they open and the move of HEAD. -/
theorem rings : Obligations.Rings := by
  refine ⟨fun s c d seq data hc hst => ⟨fun hnone => ?noRing, fun r hr => ⟨fun hfits => ?full, fun hfits htail hfree => ?fits⟩⟩,
    fun s x d a b => ?msend, fun s x d a sa sb => ?consumers⟩
  case noRing => exact State.append_noRing hnone seq data
  case full => exact State.append_full hr hfits seq
  case fits => exact State.append_window hc hst hr hfits htail hfree seq
  case msend =>
    intro h p n q s' code hclear
    have hs' : s.KeepsPlaces s' := State.counted_keepsPlaces hclear.frag (BitVec.ofNat 64 h)
    refine ⟨fun habs => Means.puts hclear (msend_absent habs), fun hpres => ⟨fun hn => Means.traps hclear (msend_length hpres hn),
      fun h1 h256 => ⟨fun hring => Means.traps hclear (msend_badHandle hpres h1 h256 hring),
        fun hring tr hpay => Means.traps hclear (msend_payloadTraps hpres h1 h256 hring hpay),
        fun c hpay hc => ⟨fun dev kernel cohort off hring hdesc => ?window, fun va k hring hk hpass => ?memory⟩⟩⟩⟩
    case window =>
      have hm := msend_toWindow hpres h1 h256 hpay hc (d := d) hring hdesc
      refine ⟨fun hdev => ⟨fun hr => ?_, fun k y hr => ⟨fun hctx => ?_, fun hctx => ?_⟩⟩,
        fun hdev y hy => ⟨fun hout => ?_, fun hout => ?_⟩⟩
      · exact Means.answers hclear (hm.congr (State.msendWindow_noRing hdev hr)) hs'
      · exact Means.answers hclear (hm.congr (State.msendWindow_refused hdev hr hctx)) hs'
      · exact Means.answers hclear (hm.congr (State.msendWindow_appends hdev hr hctx))
          (hs'.trans (.of_beams (s'.append_beams ..)))
      · exact Means.answers hclear (hm.congr ((State.msendWindow_away hdev hy).trans (if_neg (ne_true_of_eq_false hout)))) hs'
      · exact Means.goes hclear (hm.congr ((State.msendWindow_away hdev hy).trans (if_pos hout)))
          (hs'.trans (s'.msendAway_keepsPlaces x d dev _ _ _ _))
    case memory =>
      intro s1
      have hm := msend_toMemory hpres h1 h256 hpay hc (d := d) hring
      have hs1 : s.KeepsPlaces s1 := hs'.trans (s'.laneNote_keepsPlaces x (descAcc .read) va)
      have hlen : (c.bytes p n).length = n := by rw [Cohort.bytes_eq, List.length_map, List.length_range]
      refine ⟨fun hr => ?_, fun r hr => ⟨fun hfits => ?_, fun hfits hbuf => ?_⟩⟩
      · exact Means.answers hclear (hm.congr (State.msendMem_noRing hk hpass hr)) hs1
      · exact Means.answers hclear (hm.congr (State.msendMem_full hk hpass hr (by rwa [hlen]))) hs1
      · have hjudged := hm.congr (State.msendMem_judged hk hpass hr (by rwa [hlen]) (by rwa [hlen]))
        refine ⟨fun hfar => ?_, fun hnear hwrite => ?_⟩
        · exact Means.answers hclear (hjudged.congr (if_neg (ne_true_of_eq_false hfar))) hs1
        · exact Means.answers hclear (hjudged.congr ((if_pos hnear).trans (State.access_of_passes hwrite _ _)))
            (hs1.trans (.of_beams (s1.ringPut_beams ..)))
  case consumers =>
    intro opens shut none_ moves polls h
    refine ⟨fun hclear => ⟨poll_pop_absent hclear, fun hpres => ⟨poll_pop_bad hclear hpres, poll_pop_shut hclear hpres,
        fun u r hopen => ⟨mpoll_polls hclear hpres hopen, mpop_empty hclear hpres hopen, mpop_record hclear hpres hopen⟩⟩⟩,
      fun hclear => ?mwait⟩
    case mwait =>
      intro h lim
      exact ⟨mwait_absent hclear, mwait_asleep hclear, fun hpres hz => ⟨mwait_bad hclear hpres hz, mwait_shut hclear hpres hz,
        fun u r hopen => ⟨mwait_polls hclear hpres hz hopen,
          fun hempty hlim => ⟨_, rfl, rfl, rfl, mwait_sleeps hclear hpres hz hopen hempty hlim⟩⟩⟩⟩

end Sys2Proof.Machine
end

section
/-! What a change of a barrier and an engine's request leave of the beams (R263, R274, R277, R280): every beam is there with as
many entries as it had, though a wake changes the waits of its fragments. -/

namespace Sys2Proof.Machine

/-! ### Beams that keep their entries -/

/-- Every beam of `s` is in `t`, with as many entries. -/
structure State.KeepsBeams (s t : State) : Prop where
  beam : ∀ k b, s.beam? k = some b → ∃ b', t.beam? k = some b' ∧ b'.split.length = b.split.length

namespace State.KeepsBeams

variable {s t u : State}

theorem of_keepsPlaces (h : s.KeepsPlaces t) : s.KeepsBeams t where
  beam k b hb :=
    have ⟨b', hb', hp⟩ := h k b hb
    ⟨b', hb', congrArg List.length hp.split⟩

theorem of_beams (h : t.beams = s.beams) : s.KeepsBeams t := of_keepsPlaces (.of_beams h)

theorem refl (s : State) : s.KeepsBeams s := of_beams rfl

theorem trans (h : s.KeepsBeams t) (h' : t.KeepsBeams u) : s.KeepsBeams u where
  beam k b hb :=
    have ⟨b', hb', hlen⟩ := h.beam k b hb
    have ⟨b'', hb'', hlen'⟩ := h'.beam k b' hb'
    ⟨b'', hb'', hlen'.trans hlen⟩

/-- The beams of `s` are those of a state `t` from which `u` keeps them. -/
theorem from_beams (h : t.KeepsBeams u) (ht : t.beams = s.beams) : s.KeepsBeams u := (of_beams ht).trans h

theorem ite {p : Prop} [Decidable p] (ht : s.KeepsBeams t) (hu : s.KeepsBeams u) : s.KeepsBeams (if p then t else u) := by
  split
  · exact ht
  · exact hu

theorem foldl {α : Type} {f : State → α → State} (hf : ∀ (s : State) (a : α), s.KeepsBeams (f s a)) (l : List α)
    (s : State) : s.KeepsBeams (l.foldl f s) := by
  induction l generalizing s with
  | nil => exact refl s
  | cons a l ih => exact (hf s a).trans (ih _)

/-- A change of every beam that leaves its key and the number of its entries. -/
theorem of_map {f : Beam → Beam} (ht : t.beams = s.beams.map f) (hkey : ∀ b, (f b).key = b.key)
    (hlen : ∀ b, (f b).split.length = b.split.length) : s.KeepsBeams t := by
  refine ⟨fun k b hb => ?_⟩
  have hsame : ((fun y : Beam => y.key == k) ∘ f) = fun y => y.key == k := by
    funext y
    rw [Function.comp_apply, hkey]
  refine ⟨f b, ?_, hlen b⟩
  rw [State.beam?, ht, List.find?_map, hsame]
  exact congrArg (Option.map f) hb

end State.KeepsBeams

/-- An instruction goes on where its effect keeps the beams. -/
theorem Means.goes_of_keepsBeams {s u : State} {x : Frag} {g : Guard} {i : Instr} (h : Clear s x g)
    (hm : Means s x g i (.done u)) (hk : s.KeepsBeams u) : Goes s x i u := by
  obtain ⟨_, hi, hu⟩ := hm
  obtain ⟨b, hb, hlen⟩ := hk.beam _ _ (State.frag_beam h.frag)
  exact goes_of_done h hi hu hb (hlen ▸ Frag.e_lt h.runs)

/-! ### Barriers -/

section
variable (s : State) (c : CohortKey) (off : Nat)

theorem State.wakeBar_keepsBeams (code : Nat) : s.KeepsBeams (s.wakeBar c off code) := by
  refine .of_map rfl (fun b => ?_) fun b => ?_
  · split <;> rfl
  · split
    · exact List.length_map ..
    · rfl

theorem State.putBar_keepsBeams (b : Bar) : s.KeepsBeams (s.putBar c off b) := .of_beams (s.winPut_beams ..)

theorem State.marksOver_beams : (s.marksOver c off).beams = s.beams := by
  unfold State.marksOver
  split
  · split <;> rfl
  · rfl

theorem State.barChanged_keepsBeams (b : Bar) : s.KeepsBeams (s.barChanged c off b) :=
  .ite (((s.putBar_keepsBeams c off b.flip).trans (.of_beams (State.marksOver_beams ..))).trans (State.wakeBar_keepsBeams ..))
    (s.putBar_keepsBeams c off b)

theorem State.acquirePhase_keepsPlaces (k : BeamKey) : s.KeepsPlaces (s.acquirePhase k off) := by
  unfold State.acquirePhase
  split
  · exact .refl s
  · have hcatch := s.catchUp_keepsPlaces k
    extract_lets t
    split
    · exact .ite hcatch (hcatch.trans (.of_beams rfl))
    · exact hcatch

theorem State.rearm_keepsBeams : s.KeepsBeams (s.rearm c off) :=
  .ite ((State.barChanged_keepsBeams ..).from_beams rfl) (.refl s)

end

/-! ### Counts and faults of requests -/

section
variable (s : State)

theorem State.orphaned_keepsBeams (core : Nat) (o : Orphan) : s.KeepsBeams (s.orphaned core o) :=
  .of_beams (s.orphaned_frame core o).2.2

theorem State.barFault_keepsBeams (id kind index : Nat) : s.KeepsBeams (s.barFault id kind index) := by
  unfold State.barFault
  split
  · exact .refl s
  · next r _ =>
    refine .ite ((State.orphaned_keepsBeams ..).from_beams rfl) ?_
    exact ((State.putBar_keepsBeams ..).trans (State.wakeBar_keepsBeams ..)).from_beams rfl

theorem State.barCount_keepsBeams (id n : Nat) : s.KeepsBeams (s.barCount id n) := by
  unfold State.barCount
  split
  · exact .refl s
  · refine .ite (s.orphaned_keepsBeams ..) ?_
    split
    · exact (State.barFault_keepsBeams ..).from_beams rfl
    · exact (State.barChanged_keepsBeams ..).from_beams rfl

theorem State.restartReq_keepsBeams (r : Req) : s.KeepsBeams (s.restartReq r) := by
  unfold State.restartReq
  extract_lets old t u
  have hu : s.KeepsBeams u := KeepsBeams.from_beams (.ite (.refl t) (t.barCount_keepsBeams ..)) rfl
  split
  · exact .ite (hu.trans (.of_beams rfl)) hu
  · exact hu

end

end Sys2Proof.Machine
end

section
/-! A barrier's phase and its byte counts (R274, R275): when the phase is complete, and the slot that a count finds or takes. -/

namespace Sys2Proof.Machine

/-! ### The bit of a slot -/

/-- A power of two that a number lacks is one bit more. -/
theorem testBit_add_two_pow {v k j : Nat} (h : v.testBit k = false) (hj : j ≠ k) : (v + 2 ^ k).testBit j = v.testBit j := by
  have hlow : v % 2 ^ k < 2 ^ k := Nat.mod_lt v (Nat.two_pow_pos k)
  have hv : 2 ^ k * (v / 2 ^ k) + v % 2 ^ k = v := Nat.div_add_mod v (2 ^ k)
  have hsum : v + 2 ^ k = 2 ^ k * (v / 2 ^ k + 1) + v % 2 ^ k := by
    rw [Nat.mul_add_one]
    omega
  have heven : v / 2 ^ k % 2 = 0 := by
    rw [Nat.testBit_eq_decide_div_mod_eq, decide_eq_false_iff_not] at h
    omega
  rw [hsum, Nat.testBit_two_pow_mul_add _ hlow]
  conv_rhs => rw [← hv, Nat.testBit_two_pow_mul_add _ hlow]
  split
  · rfl
  · obtain ⟨m, hm⟩ : ∃ m, j - k = m + 1 := ⟨j - k - 1, by omega⟩
    rw [hm, Nat.testBit_succ, Nat.testBit_succ, show (v / 2 ^ k + 1) / 2 = v / 2 ^ k / 2 by omega]

theorem Bar.slotValid_eq_testBit (b : Bar) (k : Nat) : b.slotValid k = b.valid.testBit k := by
  rw [Nat.testBit_eq_decide_div_mod_eq]
  exact Bool.beq_eq_decide_eq ..

/-! ### The phase (R274) -/

theorem Bar.complete_iff (b : Bar) : b.complete = true ↔ (b.st = 1 ∨ b.st = 3) ∧ b.arr = b.exp ∧
    ∀ k, k < 4 → b.slotValid k = true → b.cnt.getD k 0 = 0 := by
  simp only [Bar.complete, Bool.and_eq_true, Bool.or_eq_true, Bool.not_eq_true', beq_iff_eq, List.all_eq_true, List.mem_range,
    Bool.eq_false_iff, ← imp_iff_not_or, and_assoc]

section
variable (s : State) (c : CohortKey) (off : Nat) {b : Bar}

theorem State.barChanged_incomplete (h : b.complete = false) : s.barChanged c off b = s.putBar c off b :=
  if_neg (ne_true_of_eq_false h)

theorem State.barChanged_complete (h : b.complete = true) :
    s.barChanged c off b = ((s.putBar c off b.flip).marksOver c off).wakeBar c off (1 + b.flip.phase) :=
  if_pos h

end

/-! ### A byte count (R275) -/

section
variable {b : Bar} {q k : Nat} {d : Int}

/-- The barrier with the count `n` of source core `q` in slot `k`. -/
def Bar.withCount (b : Bar) (k q : Nat) (n : Int) : Bar :=
  { b with valid := if b.slotValid k then b.valid else b.valid + 2 ^ k, src := b.src.set k q, cnt := b.cnt.set k n }

/-- A count goes to the slot of its core, or else to the lowest slot that is not valid, unless it leaves 32 bits. -/
theorem Bar.apply_of_slot (h : (b.slotOf q).or ((List.range 4).find? fun k => !b.slotValid k) = some k) :
    b.apply q d =
      let c := (if b.slotValid k then b.cnt.getD k 0 else 0) + d
      if c < -(2 ^ 31) ∨ 2 ^ 31 ≤ c then none else some (b.withCount k q c) := by
  rw [Bar.apply, h]
  rfl

theorem Bar.slotOf_valid (h : b.slotOf q = some k) : k < 4 ∧ b.slotValid k = true := by
  have hp := List.find?_some h
  rw [Bool.and_eq_true] at hp
  exact ⟨List.mem_range.mp (List.mem_of_find?_eq_some h), hp.1⟩

theorem Bar.apply_found (h : b.slotOf q = some k) :
    b.apply q d = if b.cnt.getD k 0 + d < -(2 ^ 31) ∨ 2 ^ 31 ≤ b.cnt.getD k 0 + d then none
      else some (b.withCount k q (b.cnt.getD k 0 + d)) := by
  rw [Bar.apply_of_slot (k := k) (by rw [h, Option.some_or]), (Bar.slotOf_valid h).2]
  rfl

theorem Bar.apply_full (h : b.slotOf q = none) (hfull : ∀ k, k < 4 → b.slotValid k = true) : b.apply q d = none := by
  have hno : (List.range 4).find? (fun k => !b.slotValid k) = none := by
    simpa [List.find?_eq_none] using hfull
  rw [Bar.apply, h, hno]
  rfl

/-- The lowest slot that is not valid is taken. -/
theorem Bar.apply_taken (h : b.slotOf q = none) (hk : k < 4) (hfree : b.slotValid k = false)
    (hbelow : ∀ j, j < k → b.slotValid j = true) (hlo : -(2 ^ 31) ≤ d) (hhi : d < 2 ^ 31) :
    b.apply q d = some (b.withCount k q d) := by
  have hfind : (List.range 4).find? (fun k => !b.slotValid k) = some k := by
    rw [List.find?_range_eq_some]
    refine ⟨by rw [hfree]; rfl, List.mem_range.mpr hk, fun j hj => ?_⟩
    rw [hbelow j hj]
    rfl
  rw [Bar.apply_of_slot (k := k) (by rw [h, hfind]; rfl), hfree, if_neg Bool.false_ne_true, Int.zero_add]
  exact if_neg (by omega)

end

/-! ### What the barrier holds after a count -/

section
variable {b : Bar} {q k : Nat} (n : Int)

theorem Bar.cnt_withCount_same (hlen : b.cnt.length = 4) (hk : k < 4) : (b.withCount k q n).cnt.getD k 0 = n := by
  rw [Bar.withCount, getD_set_eq, if_pos ⟨rfl, by omega⟩]

theorem Bar.src_withCount_same (hlen : b.src.length = 4) (hk : k < 4) : (b.withCount k q n).src.getD k 0 = q := by
  rw [Bar.withCount, getD_set_eq, if_pos ⟨rfl, by omega⟩]

theorem Bar.withCount_other {j : Nat} (hj : j ≠ k) :
    (b.withCount k q n).cnt.getD j 0 = b.cnt.getD j 0 ∧ (b.withCount k q n).src.getD j 0 = b.src.getD j 0 :=
  ⟨(getD_set_eq ..).trans (if_neg fun h => hj h.1), (getD_set_eq ..).trans (if_neg fun h => hj h.1)⟩

theorem Bar.valid_withCount_found (hv : b.slotValid k = true) : (b.withCount k q n).valid = b.valid := if_pos hv

variable (hfree : b.slotValid k = false)
include hfree

theorem Bar.valid_withCount_taken : (b.withCount k q n).valid = b.valid + 2 ^ k := if_neg (ne_true_of_eq_false hfree)

theorem Bar.slotValid_withCount_taken : (b.withCount k q n).slotValid k = true := by
  rw [Bar.slotValid_eq_testBit] at hfree ⊢
  rw [Bar.valid_withCount_taken n (by rwa [Bar.slotValid_eq_testBit]), Nat.add_comm, Nat.testBit_two_pow_add_eq, hfree]
  rfl

theorem Bar.slotValid_withCount_other {j : Nat} (hj : j ≠ k) : (b.withCount k q n).slotValid j = b.slotValid j := by
  rw [Bar.slotValid_eq_testBit, Bar.slotValid_eq_testBit, Bar.valid_withCount_taken n hfree]
  exact testBit_add_two_pow (by rwa [← Bar.slotValid_eq_testBit]) hj

end

/-! ### The statement -/

/-- Settles O29: a flip by the condition of `Bar.complete`, a count by the slot that it finds or takes. -/
theorem phaseFlips : Obligations.PhaseFlips := by
  refine ⟨fun s c off b => ⟨s.barChanged_incomplete c off,
    fun h => ⟨s.barChanged_complete c off h, rfl, rfl, rfl, rfl, rfl⟩, b.complete_iff⟩, fun b q d hsrc hcnt => ⟨fun k hslot => ?found, fun hnone => ⟨Bar.apply_full hnone, ?taken⟩⟩⟩
  case found =>
    obtain ⟨hk, hvalid⟩ := Bar.slotOf_valid hslot
    intro c
    refine ⟨fun hout => (Bar.apply_found hslot).trans (if_pos hout), fun hlo hhi => ⟨b.withCount k q c,
      (Bar.apply_found hslot).trans (if_neg (by omega)), Bar.cnt_withCount_same c hcnt hk, Bar.valid_withCount_found c hvalid,
      rfl, rfl, rfl, rfl, fun j hj => Bar.withCount_other c hj⟩⟩
  case taken =>
    intro k hk hfree hbelow hlo hhi
    exact ⟨b.withCount k q d, Bar.apply_taken hnone hk hfree hbelow hlo hhi, Bar.slotValid_withCount_taken d hfree,
      Bar.src_withCount_same d hsrc hk, Bar.cnt_withCount_same d hcnt hk,
      fun j hj => ⟨(Bar.withCount_other d hj).1, Bar.slotValid_withCount_other d hfree hj⟩⟩

end Sys2Proof.Machine
end

section
/-! The barrier instructions (R253, R274, R276 to R278, R372, R434): what BINIT, BINV, BARV and BEXP leave of a barrier, and how
BWAIT and BTEST read it. -/

namespace Sys2Proof.Machine

/-! ### The checks of R253 and R372 -/

section
variable {s : State} {x : Frag} {acc : Access} {off : Nat} (hpass : s.barTrap x acc false off = none) (go : Bar → Res)
include hpass

theorem State.onBar_formed (hformed : (s.bar x.b.cohort off).formed = true) :
    s.onBar x acc off go = go (s.bar x.b.cohort off) := by
  simp only [State.onBar, hpass, hformed, if_true]

theorem State.onBar_malformed (hformed : (s.bar x.b.cohort off).formed = false) :
    s.onBar x acc off go = .trap (s.syncTrap x 8 off) := by
  simp only [State.onBar, hpass, hformed, Bool.false_eq_true, if_false]

end

/-! ### BINIT (R276) -/

/-- The cohort whose granule at `off` is a barrier armed with the count `n`. -/
def Cohort.armed (c : Cohort) (off n : Nat) (orphan : Bool) : Cohort :=
  ({ c with tags := if c.tags.contains (off / 32) then c.tags else off / 32 :: c.tags } : Cohort).put off
    (natLe 4 (16 * n + if orphan then 6 else 2) ++ natLe 28 0)

section
variable (c : Cohort) (off n : Nat) (orphan : Bool)

/-- The two pieces that BINIT writes read each in its place. -/
theorem Cohort.bytes_armed : (c.armed off n orphan).bytes off 4 = natLe 4 (16 * n + if orphan then 6 else 2) ∧
    (c.armed off n orphan).bytes (off + 4) 28 = natLe 28 0 := by
  have h := Cohort.bytes_put_append { c with tags := if c.tags.contains (off / 32) then c.tags else off / 32 :: c.tags } off
    (natLe 4 (16 * n + if orphan then 6 else 2)) (natLe 28 0)
  rwa [natLe_length, natLe_length] at h

theorem Cohort.tagged_armed : (c.armed off n orphan).tagged off = true := by
  show (if c.tags.contains (off / 32) then c.tags else off / 32 :: c.tags).contains (off / 32) = true
  split
  · assumption
  · rw [List.contains_cons, beq_self_eq_true, Bool.true_or]

theorem Cohort.nat_armed_word (hn : n ≤ 4095) :
    (c.armed off n orphan).nat off 4 = 16 * n + if orphan then 6 else 2 := by
  rw [Cohort.nat, (c.bytes_armed off n orphan).1, leNat_natLe, Nat.mod_eq_of_lt]
  split <;> omega

theorem Cohort.nat_armed_rest : (c.armed off n orphan).nat (off + 4) 28 = 0 := by
  rw [Cohort.nat, (c.bytes_armed off n orphan).2, leNat_natLe, Nat.zero_mod]

theorem Cohort.byte_armed_other {o : Nat} (ho : o < off ∨ off + 32 ≤ o) : (c.armed off n orphan).byte o = c.byte o :=
  Cohort.byte_put_other _ off _ o (by rwa [List.length_append, natLe_length, natLe_length])

end

/-- A count that BINIT takes fits EXPECTED. -/
theorem State.binitCount_le {s : State} {x : Frag} {grp : Bool} {v n : Nat} (h : s.binitCount x grp v = some n) : n ≤ 4095 := by
  unfold State.binitCount at h
  split at h
  · rw [Option.filter_eq_some_iff] at h
    exact of_decide_eq_true h.2
  · split at h
    · cases h
    · next hok =>
      rw [Bool.or_eq_true, not_or, decide_eq_true_eq] at hok
      obtain rfl := Option.some.inj h
      omega

section
variable {s : State} {x : Frag} {grp : Bool} {a : SArg} {b : SArgI}

theorem binit_absent (habs : Fmt.isAbsent .n64 (x.sval a) = true) :
    Means s x (plain (SArg.uses 1 a ++ SArgI.uses 2 b)) (.binit grp a b) (.done s) :=
  ⟨_, rfl, if_pos habs⟩

variable (hpres : Fmt.isAbsent .n64 (x.sval a) = false) (hpass : s.barTrap x .write true (x.sval a) = none)
include hpres hpass

theorem binit_badCount (hcount : s.binitCount x grp (x.svalI .n64 b) = none) :
    Means s x (plain (SArg.uses 1 a ++ SArgI.uses 2 b)) (.binit grp a b) (.trap (s.syncTrap x 7 (x.sval a))) :=
  ⟨_, rfl, (if_neg (ne_true_of_eq_false hpres)).trans (by simp only [hpass, hcount])⟩

variable {n : Nat} (hcount : s.binitCount x grp (x.svalI .n64 b) = some n)
include hcount

theorem binit_busy (hbusy : (s.tagged x.b.cohort (x.sval a) && s.barBusy x.b.cohort (x.sval a)) = true) :
    Means s x (plain (SArg.uses 1 a ++ SArgI.uses 2 b)) (.binit grp a b) (.trap (s.syncTrap x 2 (x.sval a))) :=
  ⟨_, rfl, (if_neg (ne_true_of_eq_false hpres)).trans (by simp only [hpass, hcount, hbusy, if_true])⟩

theorem binit_arms {c : Cohort} (hc : s.cohort? x.b.cohort = some c)
    (hidle : (s.tagged x.b.cohort (x.sval a) && s.barBusy x.b.cohort (x.sval a)) = false) :
    Means s x (plain (SArg.uses 1 a ++ SArgI.uses 2 b)) (.binit grp a b)
      (.done ((s.setCohort (c.armed (x.sval a) n
        ((s.coreOf x.core).orphans.any fun o => o.cohort == x.b.cohort && o.off == x.sval a))).unmarked x.b.cohort (x.sval a))) :=
  ⟨_, rfl, (if_neg (ne_true_of_eq_false hpres)).trans
    (by simp only [hpass, hcount, hidle, hc, Bool.false_eq_true, if_false]; rfl)⟩

end

/-! ### BARV and BEXP (R276) -/

section
variable {s : State} {x : Frag} {r : Reg}

theorem barv_absent (habs : Fmt.isAbsent .n64 (x.b.sreg r.toNat).toNat = true) :
    Means s x (plain (regUses .s r false 1 false false)) (.barv r) (.done s) :=
  ⟨_, rfl, if_pos habs⟩

variable (hpres : Fmt.isAbsent .n64 (x.b.sreg r.toNat).toNat = false)
  (hpass : s.barTrap x .write false (x.b.sreg r.toNat).toNat = none)
include hpres hpass

theorem barv_malformed (hformed : (s.bar x.b.cohort (x.b.sreg r.toNat).toNat).formed = false) :
    Means s x (plain (regUses .s r false 1 false false)) (.barv r) (.trap (s.syncTrap x 8 (x.b.sreg r.toNat).toNat)) :=
  ⟨_, rfl, (if_neg (ne_true_of_eq_false hpres)).trans (State.onBar_malformed hpass _ hformed)⟩

/-- One arrival more, or SYNC 5 where all have come. -/
theorem barv_formed (hformed : (s.bar x.b.cohort (x.b.sreg r.toNat).toNat).formed = true) :
    let off := (x.b.sreg r.toNat).toNat
    let bar := s.bar x.b.cohort off
    Means s x (plain (regUses .s r false 1 false false)) (.barv r)
      (if bar.arr == bar.exp then .trap (s.syncTrap x 5 off)
       else .done (s.barChanged x.b.cohort off { bar with arr := (bar.arr + 1) % 4096 })) :=
  ⟨_, rfl, (if_neg (ne_true_of_eq_false hpres)).trans (State.onBar_formed hpass _ hformed)⟩

end

section
variable {s : State} {x : Frag} {a : SArg} {b : SArgI} {q : Option SArg}

/-- The registers that BEXP names. -/
def bexpUses (a : SArg) (b : SArgI) (q : Option SArg) : List Use :=
  SArg.uses 1 a ++ SArgI.uses 2 b ++ ((q.map (SArg.uses 3)).getD [])

theorem bexp_absent (habs : Fmt.isAbsent .n64 (x.sval a) = true) : Means s x (plain (bexpUses a b q)) (.bexp a b q) (.done s) :=
  ⟨_, rfl, if_pos habs⟩

variable (hpres : Fmt.isAbsent .n64 (x.sval a) = false) (hpass : s.barTrap x .write false (x.sval a) = none)
include hpres hpass

theorem bexp_malformed (hformed : (s.bar x.b.cohort (x.sval a)).formed = false) :
    Means s x (plain (bexpUses a b q)) (.bexp a b q) (.trap (s.syncTrap x 8 (x.sval a))) :=
  ⟨_, rfl, (if_neg (ne_true_of_eq_false hpres)).trans (State.onBar_malformed hpass _ hformed)⟩

variable (hformed : (s.bar x.b.cohort (x.sval a)).formed = true)
include hformed

theorem bexp_absentCount (hn : Fmt.isAbsent .n64 (x.svalI .n64 b) = true) :
    Means s x (plain (bexpUses a b q)) (.bexp a b q) (.done s) :=
  ⟨_, rfl, (if_neg (ne_true_of_eq_false hpres)).trans ((State.onBar_formed hpass _ hformed).trans (if_pos hn))⟩

variable (hn : Fmt.isAbsent .n64 (x.svalI .n64 b) = false)
include hn

theorem bexp_badCount (hbig : 2 ^ 31 ≤ x.svalI .n64 b) :
    Means s x (plain (bexpUses a b q)) (.bexp a b q) (.trap (s.syncTrap x 7 (x.sval a))) :=
  ⟨_, rfl, (if_neg (ne_true_of_eq_false hpres)).trans ((State.onBar_formed hpass _ hformed).trans
    ((if_neg (ne_true_of_eq_false hn)).trans (if_pos (by omega))))⟩

variable (hsmall : x.svalI .n64 b < 2 ^ 31)
include hsmall

/-- With a count in range BEXP goes by its source core. -/
theorem bexp_counts :
    let core := (q.map x.sval).getD x.core
    Means s x (plain (bexpUses a b q)) (.bexp a b q)
      (if Fmt.isAbsent .n64 core then .done s
       else if core > 255 then .trap (s.syncTrap x 9 (x.sval a))
       else
         match (s.bar x.b.cohort (x.sval a)).apply core (x.svalI .n64 b) with
         | none => .trap (s.syncTrap x 6 (x.sval a))
         | some k => .done (s.barChanged x.b.cohort (x.sval a) k)) :=
  ⟨_, rfl, (if_neg (ne_true_of_eq_false hpres)).trans ((State.onBar_formed hpass _ hformed).trans
    ((if_neg (ne_true_of_eq_false hn)).trans (if_neg (by omega))))⟩

theorem bexp_absentCore (hcore : Fmt.isAbsent .n64 ((q.map x.sval).getD x.core) = true) :
    Means s x (plain (bexpUses a b q)) (.bexp a b q) (.done s) :=
  (bexp_counts hpres hpass hformed hn hsmall).congr (if_pos hcore)

variable (hcore : Fmt.isAbsent .n64 ((q.map x.sval).getD x.core) = false)
include hcore

theorem bexp_badCore (hout : 255 < (q.map x.sval).getD x.core) :
    Means s x (plain (bexpUses a b q)) (.bexp a b q) (.trap (s.syncTrap x 9 (x.sval a))) :=
  (bexp_counts hpres hpass hformed hn hsmall).congr ((if_neg (ne_true_of_eq_false hcore)).trans (if_pos hout))

variable (hin : (q.map x.sval).getD x.core ≤ 255)
include hin

theorem bexp_full (hfull : (s.bar x.b.cohort (x.sval a)).apply ((q.map x.sval).getD x.core) (x.svalI .n64 b) = none) :
    Means s x (plain (bexpUses a b q)) (.bexp a b q) (.trap (s.syncTrap x 6 (x.sval a))) :=
  (bexp_counts hpres hpass hformed hn hsmall).congr
    ((if_neg (ne_true_of_eq_false hcore)).trans ((if_neg (Nat.not_lt.mpr hin)).trans (by rw [hfull])))

theorem bexp_takes {k : Bar}
    (hk : (s.bar x.b.cohort (x.sval a)).apply ((q.map x.sval).getD x.core) (x.svalI .n64 b) = some k) :
    Means s x (plain (bexpUses a b q)) (.bexp a b q) (.done (s.barChanged x.b.cohort (x.sval a) k)) :=
  (bexp_counts hpres hpass hformed hn hsmall).congr
    ((if_neg (ne_true_of_eq_false hcore)).trans ((if_neg (Nat.not_lt.mpr hin)).trans (by rw [hk])))

end

/-! ### BINV (R276, R371) -/

/-- A barrier that is written leaves its cohort as it was, but for the window. -/
theorem State.cohort?_putBar {s : State} {key : CohortKey} {c : Cohort} (hc : s.cohort? key = some c) (off : Nat) (b : Bar) :
    ∃ w, (s.putBar key off b).cohort? key = some { c with win := w } := by
  unfold State.putBar State.winPut
  rw [hc]
  dsimp only
  split
  · refine ⟨c.win, ?_⟩
    rw [State.cohort?, (s.writeBytes_cohorts_beams ..).1]
    exact hc
  · refine ⟨(c.put off b.bytes).win, ?_⟩
    rw [State.cohort?_setCohort, hc]
    exact if_pos (State.cohort?_key hc)

/-- The requests that a BINV leaves: a parked one on the barrier is discarded, and the others on it are orphans. -/
def reqsAfterBinv (c : CohortKey) (off : Nat) (rs : List Req) : List Req :=
  (rs.filter fun r => !((r.cohort == c && r.barrier == off) && r.parked)).map fun r =>
    if r.cohort == c && r.barrier == off then { r with orphan := true } else r

theorem orphan_of_mem_reqsAfterBinv {c : CohortKey} {off : Nat} {rs : List Req} {q : Req} (hq : q ∈ reqsAfterBinv c off rs)
    (hc : q.cohort = c) (hoff : q.barrier = off) : q.orphan = true ∧ q.parked = false := by
  obtain ⟨r, hr, rfl⟩ := List.mem_map.mp hq
  have hkept := (List.mem_filter.mp hr).2
  by_cases hmine : (r.cohort == c && r.barrier == off) = true
  · rw [if_pos hmine]
    rw [hmine, Bool.true_and, Bool.not_eq_true'] at hkept
    exact ⟨rfl, hkept⟩
  · rw [if_neg hmine] at hc hoff
    exact absurd (by rw [hc, hoff, beq_self_eq_true, beq_self_eq_true]; rfl) hmine

section
variable {s : State} {x : Frag} {a : Reg}

theorem binv_absent (habs : Fmt.isAbsent .n64 (x.b.sreg a.toNat).toNat = true) :
    Means s x (plain (regUses .s a false 1 false false)) (.binv a) (.done s) :=
  ⟨_, rfl, if_pos habs⟩

/-- The state of a BINV before the tag goes: the waiters have woken into SYNC 4, and no request in flight counts on the barrier
any more. -/
def State.invalidated (s : State) (c : CohortKey) (off : Nat) : State :=
  let t := (s.putBar c off { s.bar c off with st := 0 }).wakeBar c off 3
  { t with reqs := reqsAfterBinv c off t.reqs }

theorem State.cohort?_invalidated {key : CohortKey} {c : Cohort} (hc : s.cohort? key = some c) (off : Nat) :
    ∃ w, (s.invalidated key off).cohort? key = some { c with win := w } :=
  State.cohort?_putBar hc off { s.bar key off with st := 0 }

theorem State.invalidated_keepsBeams (s : State) (c : CohortKey) (off : Nat) : s.KeepsBeams (s.invalidated c off) :=
  ((s.putBar_keepsBeams c off { s.bar c off with st := 0 }).trans (State.wakeBar_keepsBeams ..)).trans (.of_beams rfl)

/-- The cohort without the tag of the granule at `off`. -/
def Cohort.untagged (c : Cohort) (off : Nat) : Cohort :=
  { c with tags := c.tags.filter fun t => t != off / 32 }

/-- The tag that BINV takes away is gone, and no other. -/
theorem Cohort.tagged_untagged (c : Cohort) (off : Nat) : (c.untagged off).tagged off = false := by
  rw [Cohort.tagged, Cohort.untagged, List.contains_eq_mem, decide_eq_false_iff_not, List.mem_filter, bne_self_eq_false]
  exact fun h => Bool.false_ne_true h.2

theorem Cohort.tagged_untagged_other (c : Cohort) {off o : Nat} (ho : o / 32 ≠ off / 32) :
    (c.untagged off).tagged o = c.tagged o := by
  rw [Cohort.tagged, Cohort.tagged, Cohort.untagged, List.contains_eq_mem, List.contains_eq_mem]
  simp only [List.mem_filter, bne_iff_ne, ne_eq, ho, not_false_eq_true, and_true]

theorem binv_untags {k : Cohort} (hpres : Fmt.isAbsent .n64 (x.b.sreg a.toNat).toNat = false)
    (hpass : s.barTrap x .write false (x.b.sreg a.toNat).toNat = none)
    (hk : (s.invalidated x.b.cohort (x.b.sreg a.toNat).toNat).cohort? x.b.cohort = some k) :
    let off := (x.b.sreg a.toNat).toNat
    Means s x (plain (regUses .s a false 1 false false)) (.binv a)
      (.done ((s.invalidated x.b.cohort off).setCohort (k.untagged off))) := by
  intro off
  have huntag {u : State} (hu : u.cohort? x.b.cohort = some k) :
      (match u.cohort? x.b.cohort with
        | none => Res.done u
        | some k => .done (u.setCohort { k with tags := k.tags.filter fun t => t != off / 32 })) =
      .done (u.setCohort (k.untagged off)) := by
    rw [hu]
    rfl
  exact ⟨_, rfl, (if_neg (ne_true_of_eq_false hpres)).trans ((pass_of_check hpass).trans (huntag hk))⟩

end

/-! ### BWAIT (R277, R434) -/

/-- Where no REPLAY mark meets the beam, BWAIT goes on. -/
theorem State.replayTrap_unmarked {s : State} {x : Frag} {off : Nat} (h : s.markOn x.b.cohort off x.b.id = none) (go : Res) :
    s.replayTrap x off go = go := by
  simp only [State.replayTrap, h]

/-- The guard of an instruction that no glint runs. -/
def beamGuard (us : List Use) : Guard := { priv := false, noGlint := true, uses := us }

/-- The registers that BWAIT names. -/
def bwaitUses (d a : Reg) : List Use := dstS d ++ regUses .s a false 1 false false

section
variable {s : State} {x : Frag} {d a : Reg}

section
variable (hwait : x.entry.wait = none)
include hwait

theorem bwait_absent (habs : Fmt.isAbsent .n64 (x.b.sreg a.toNat).toNat = true) :
    Means s x (beamGuard (bwaitUses d a)) (.bwait d a) (s.beamDone (x.putS d (Fmt.absent .n64))) :=
  ⟨_, rfl, by simp only [hwait, habs, if_true]⟩

variable (hpres : Fmt.isAbsent .n64 (x.b.sreg a.toNat).toNat = false)
  (hpass : s.barTrap x .read false (x.b.sreg a.toNat).toNat = none)
  (hformed : (s.bar x.b.cohort (x.b.sreg a.toNat).toNat).formed = true)
include hpres hpass hformed

/-- On a barrier that passes its checks BWAIT first judges the fault. -/
theorem bwait_judges :
    let off := (x.b.sreg a.toNat).toNat
    let bar := s.bar x.b.cohort off
    Means s x (beamGuard (bwaitUses d a)) (.bwait d a)
      (if bar.st == 2 then .trap (s.engineTrap x off)
       else
        s.replayTrap x off
          (if bar.phase != (x.b.sreg d.toNat).toNat % 2 then s.bwaitEnds x d off bar.phase
           else
             .stay (s.sleep x { kind := .bwait, ins := .bwait d a, words := x.words, waited := 0, rem := none
                                woken := false, aux := off }))) := by
  refine ⟨_, rfl, ?_⟩
  simp only [hwait, hpres, Bool.false_eq_true, if_false]
  exact State.onBar_formed hpass _ hformed

theorem bwait_faulted (hst : (s.bar x.b.cohort (x.b.sreg a.toNat).toNat).st = 2) :
    Means s x (beamGuard (bwaitUses d a)) (.bwait d a) (.trap (s.engineTrap x (x.b.sreg a.toNat).toNat)) :=
  (bwait_judges hwait hpres hpass hformed).congr (if_pos (beq_iff_eq.mpr hst))

variable (hst : (s.bar x.b.cohort (x.b.sreg a.toNat).toNat).st ≠ 2)
  (hmark : s.markOn x.b.cohort (x.b.sreg a.toNat).toNat x.b.id = none)
include hst hmark

theorem bwait_unfaulted :
    let off := (x.b.sreg a.toNat).toNat
    let bar := s.bar x.b.cohort off
    Means s x (beamGuard (bwaitUses d a)) (.bwait d a)
      (if bar.phase != (x.b.sreg d.toNat).toNat % 2 then s.bwaitEnds x d off bar.phase
       else
         .stay (s.sleep x { kind := .bwait, ins := .bwait d a, words := x.words, waited := 0, rem := none
                            woken := false, aux := off })) :=
  (bwait_judges hwait hpres hpass hformed).congr
    ((if_neg (by rwa [beq_iff_eq])).trans (State.replayTrap_unmarked hmark _))

end

section
variable {w : Wait} (hwait : x.entry.wait = some w) (hkind : w.kind = .bwait)
include hwait hkind

theorem bwait_asleep (hw : w.woken = false) : Means s x (beamGuard (bwaitUses d a)) (.bwait d a) (.stay s) :=
  ⟨_, rfl, by simp only [hwait, hkind, hw, bne_self_eq_false, Bool.false_eq_true, if_false, Bool.not_false, if_true]⟩

variable (hw : w.woken = true)
include hw

/-- The tag of the barrier has gone. -/
theorem bwait_untagged (hcode : w.aux / 2 ^ 32 = 3) :
    Means s x (beamGuard (bwaitUses d a)) (.bwait d a) (.trap (s.syncTrap x 4 (w.aux % 2 ^ 32))) :=
  ⟨_, rfl, by simp only [hwait, hkind, hw, hcode, bne_self_eq_false, Bool.false_eq_true, if_false, Bool.not_true,
    beq_self_eq_true, if_true]⟩

/-- A flip has decided the wait. -/
theorem bwait_flipped {p : Nat} (hp : p ≤ 1) (hcode : w.aux / 2 ^ 32 = 1 + p)
    (hmark : s.markOn x.b.cohort (w.aux % 2 ^ 32) x.b.id = none) :
    Means s x (beamGuard (bwaitUses d a)) (.bwait d a) (s.bwaitEnds x d (w.aux % 2 ^ 32) p) := by
  have h3 : (1 + p == 3) = false := by rw [beq_eq_false_iff_ne]; omega
  have h0 : (1 + p == 0) = false := by rw [beq_eq_false_iff_ne]; omega
  refine ⟨_, rfl, ?_⟩
  simp only [hwait, hkind, hw, hcode, h3, h0, bne_self_eq_false, Bool.false_eq_true, if_false, Bool.not_true,
    State.replayTrap_unmarked hmark, Nat.add_sub_cancel_left]

end

end

/-- BWAIT's end leaves every fragment where it stood. -/
theorem State.phaseRead_keepsPlaces {s : State} {x : Frag} (hf : s.frag = some x) (d : Reg) (v off : Nat) :
    s.KeepsPlaces ((s.setBeam (x.putS d v)).acquirePhase x.b.key off) :=
  State.KeepsPlaces.trans (.setBeam (State.frag_beam hf) (x.b.samePlace_putS ..)) (State.acquirePhase_keepsPlaces _ off x.b.key)

/-! ### BTEST (R278) -/

/-- The registers that BTEST names. -/
def btestUses (d a : Reg) : List Use :=
  dstS d ++ regUses .s d false 0 false false ++ regUses .s a false 1 false false

/-- BTEST's read: the control word in sD, and the acquire of a phase that differs from sD. -/
def State.btestRead (s : State) (x : Frag) (d : Reg) (off : Nat) : State :=
  let bar := s.bar x.b.cohort off
  let put := s.setBeam (x.putS d bar.word)
  if bar.phase ≠ (x.b.sreg d.toNat).toNat % 2 ∧ (bar.st = 1 ∨ bar.st = 3) then put.acquirePhase x.b.key off else put

theorem State.btestRead_keepsPlaces {s : State} {x : Frag} (hf : s.frag = some x) (d : Reg) (off : Nat) :
    s.KeepsPlaces (s.btestRead x d off) :=
  .ite (State.phaseRead_keepsPlaces hf d _ off) (.setBeam (State.frag_beam hf) (x.b.samePlace_putS ..))

section
variable {s : State} {x : Frag} {d a : Reg}

theorem btest_absent (habs : Fmt.isAbsent .n64 (x.b.sreg a.toNat).toNat = true) :
    Means s x (plain (btestUses d a)) (.btest d a) (s.beamDone (x.putS d (Fmt.absent .n64))) :=
  ⟨_, rfl, if_pos habs⟩

variable (hpres : Fmt.isAbsent .n64 (x.b.sreg a.toNat).toNat = false)
  (hpass : s.barTrap x .read false (x.b.sreg a.toNat).toNat = none)
include hpres hpass

theorem btest_malformed (hformed : (s.bar x.b.cohort (x.b.sreg a.toNat).toNat).formed = false) :
    Means s x (plain (btestUses d a)) (.btest d a) (.trap (s.syncTrap x 8 (x.b.sreg a.toNat).toNat)) :=
  ⟨_, rfl, (if_neg (ne_true_of_eq_false hpres)).trans (State.onBar_malformed hpass _ hformed)⟩

/-- A read of an orphaned barrier arms it and clears its granule from the orphan log. -/
theorem btest_reads (hformed : (s.bar x.b.cohort (x.b.sreg a.toNat).toNat).formed = true) :
    let off := (x.b.sreg a.toNat).toNat
    let bar := s.bar x.b.cohort off
    let read := s.btestRead x d off
    Means s x (plain (btestUses d a)) (.btest d a)
      (if bar.st == 3 then .done ((read.putBar x.b.cohort off { bar with st := 1 }).modCore x.core fun k =>
        { k with orphans := k.orphans.filter fun o => !(o.cohort == x.b.cohort && o.off == off) })
       else .done read) := by
  refine ⟨_, rfl, (if_neg (ne_true_of_eq_false hpres)).trans ((State.onBar_formed hpass _ hformed).trans ?_)⟩
  simp only [State.btestRead, Bool.and_eq_true, Bool.or_eq_true, bne_iff_ne, beq_iff_eq]

end

/-! ### The statement -/

/-- Settles O28: each instruction by what it means once the checks of R253 pass; a change of a barrier keeps the beams. -/
theorem barrierInstructions : Obligations.BarrierInstructions := by
  refine ⟨fun s x grp a b r q c hc => ?_, fun s x d a c hc => ?_⟩
  · rw [State.cohort?_key hc]
    refine ⟨fun h => ?binit, fun h => ?barv, fun h => ?bexp⟩
    case binit =>
      refine ⟨fun habs => Means.goes h (binit_absent habs) (.refl s), fun hpres hpass =>
        ⟨fun n hcount hidle => ?_, fun hcount => Means.traps h (binit_badCount hpres hpass hcount), fun n hcount htag hbusy =>
          Means.traps h (binit_busy hpres hpass hcount (by rw [htag, hbusy]; rfl))⟩⟩
      have hle := State.binitCount_le hcount
      exact ⟨_, c.tagged_armed _ n _, hle, c.nat_armed_word _ n _ hle, c.nat_armed_rest _ n _,
        fun o ho => c.byte_armed_other _ n _ ho,
        Means.goes h (binit_arms hpres hpass hcount hc (Bool.and_eq_false_iff.mpr hidle)) (.of_beams rfl)⟩
    case barv =>
      intro off bar
      refine ⟨fun habs => Means.goes h (barv_absent habs) (.refl s), fun hpres hpass =>
        ⟨fun hformed hmore => ?_, fun hformed hall => ?_, fun hformed => Means.traps h (barv_malformed hpres hpass hformed)⟩⟩
      · exact Means.goes_of_keepsBeams h ((barv_formed hpres hpass hformed).congr (if_neg (by rwa [beq_iff_eq])))
          (s.barChanged_keepsBeams ..)
      · exact Means.traps h ((barv_formed hpres hpass hformed).congr (if_pos (beq_iff_eq.mpr hall)))
    case bexp =>
      intro core off n bar
      refine ⟨fun habs => Means.goes h (bexp_absent habs) (.refl s), fun hpres hpass =>
        ⟨fun hformed => Means.traps h (bexp_malformed hpres hpass hformed), fun hformed =>
          ⟨fun hn => Means.goes h (bexp_absentCount hpres hpass hformed hn) (.refl s), fun hn =>
            ⟨fun hbig => Means.traps h (bexp_badCount hpres hpass hformed hn hbig),
              fun hsmall habs => Means.goes h (bexp_absentCore hpres hpass hformed hn hsmall habs) (.refl s),
              fun hsmall hcore =>
                ⟨fun hout => Means.traps h (bexp_badCore hpres hpass hformed hn hsmall hcore hout), fun hin =>
                  ⟨fun hfull => Means.traps h (bexp_full hpres hpass hformed hn hsmall hcore hin hfull), fun k hk =>
                    Means.goes_of_keepsBeams h (bexp_takes hpres hpass hformed hn hsmall hcore hin hk)
                      (s.barChanged_keepsBeams ..)⟩⟩⟩⟩⟩⟩
  · rw [State.cohort?_key hc]
    intro off bar dead
    refine ⟨fun h => ?binv, fun h => ?bwait, fun h => ?btest⟩
    case binv =>
      refine ⟨fun habs => Means.goes h (binv_absent habs) (.refl s), fun hdead hpass => ?_⟩
      obtain ⟨w, hw⟩ := State.cohort?_invalidated hc off
      have hm := binv_untags (Bool.eq_false_iff.mpr hdead) hpass hw
      refine ⟨_, ({ c with win := w } : Cohort).untagged off,
        Means.goes_of_keepsBeams h hm ((s.invalidated_keepsBeams x.b.cohort off).trans (.of_beams rfl)),
        ?cohort, ?gone, ?kept, fun q hq => orphan_of_mem_reqsAfterBinv hq⟩
      case cohort =>
        rw [State.cohort?_setCohort, hw]
        exact if_pos (State.cohort?_key hc)
      case gone => exact Cohort.tagged_untagged { c with win := w } off
      case kept => exact fun o ho => Cohort.tagged_untagged_other { c with win := w } ho
    case bwait =>
      refine ⟨fun habs hwait => Means.puts h (bwait_absent hwait habs), fun hdead hwait hpass hformed => ?first,
        fun w hwait hkind => ⟨fun hw => Means.stays h (bwait_asleep hwait hkind hw),
          fun hw hcode => Means.traps h (bwait_untagged hwait hkind hw hcode), fun hw p hp hcode hmark =>
            Means.goes h (bwait_flipped hwait hkind hw hp hcode hmark) (State.phaseRead_keepsPlaces h.frag d p _)⟩⟩
      case first =>
        have hpres := Bool.eq_false_iff.mpr hdead
        refine ⟨fun hst => Means.traps h (bwait_faulted hwait hpres hpass hformed hst), fun hst hmark =>
          ⟨fun hphase => ?_, fun hphase => ?_⟩⟩
        all_goals have hm := bwait_unfaulted hwait hpres hpass hformed hst hmark (d := d)
        · exact Means.goes h (hm.congr (if_pos (bne_iff_ne.mpr hphase))) (State.phaseRead_keepsPlaces h.frag d bar.phase off)
        · exact ⟨_, rfl, rfl, rfl, Means.stays h (hm.congr (if_neg (by rw [bne_iff_ne, not_not]; exact hphase)))⟩
    case btest =>
      intro put read
      have hread : s.KeepsPlaces read := State.btestRead_keepsPlaces h.frag d off
      refine ⟨fun habs => Means.puts h (btest_absent habs), fun hdead hpass => ?_⟩
      have hpres := Bool.eq_false_iff.mpr hdead
      refine ⟨fun hformed => Means.traps h (btest_malformed hpres hpass hformed), fun hformed hst => ?_, fun hformed hst => ?_⟩
      · exact Means.goes h ((btest_reads hpres hpass hformed).congr (if_neg (by rwa [beq_iff_eq]))) hread
      · exact Means.goes h ((btest_reads hpres hpass hformed).congr (if_pos (beq_iff_eq.mpr hst)))
          (hread.trans (.of_beams (by rw [State.modCore_beams, State.putBar, State.winPut_beams])))

end Sys2Proof.Machine
end

section
/-! MAPLD (R255, R256): the image's checks, and the slot that it fills. -/

namespace Sys2Proof.Machine

/-! ### What the image's accesses leave -/

section
variable (s : State) (x : Frag) (k : Acc)

theorem State.laneNote_cohorts (a : Nat) : (s.laneNote x k a).cohorts = s.cohorts := by
  cases hk : k.spad with
  | true =>
    simp only [State.laneNote, hk, if_true]
    split
    · split <;> rfl
    · rfl
  | false =>
    cases hc : s.contextOf x.b with
    | none => simp only [State.laneNote, hk, hc, Bool.false_eq_true, if_false]
    | some c => exact (State.sameBesideMemory_laneNote hk hc a).cohorts

theorem State.notes_cohorts (ls : List (Nat × Int)) : (s.notes x k ls).cohorts = s.cohorts := by
  unfold State.notes
  induction ls generalizing s with
  | nil => rfl
  | cons l ls ih => exact (ih _).trans (s.laneNote_cohorts x k l.2.toNat)

end

theorem State.cohort?_notes (s : State) (x : Frag) (k : Acc) (ls : List (Nat × Int)) (key : CohortKey) :
    (s.notes x k ls).cohort? key = s.cohort? key := by
  rw [State.cohort?, s.notes_cohorts x k ls, State.cohort?]

/-! ### What MAPLD means -/

/-- The registers that MAPLD names. -/
def mapldUses (d a : Reg) : List Use :=
  { set := .m, r := d.toNat, src := 0, dst := true, trap := false } :: regUses .s a false 1 false false

section
variable {s : State} {x : Frag} {d : Reg} {sp : Bool} {a : Reg}

theorem mapld_absent (habs : Fmt.isAbsent .n64 (x.b.sreg a.toNat).toNat = true) :
    Means s x (plain (mapldUses d a)) (.mapld d sp a) (.done s) :=
  ⟨_, rfl, if_pos habs⟩

variable (hpres : Fmt.isAbsent .n64 (x.b.sreg a.toNat).toNat = false)
include hpres

theorem mapld_faulted {tr : Trap} (htrap : x.mapTrap sp (s.mapFaults x sp (x.b.sreg a.toNat).toNat) = some tr) :
    Means s x (plain (mapldUses d a)) (.mapld d sp a) (.trap tr) :=
  ⟨_, rfl, (if_neg (ne_true_of_eq_false hpres)).trans (trap_of_check htrap)⟩

variable (hpass : x.mapTrap sp (s.mapFaults x sp (x.b.sreg a.toNat).toNat) = none)
include hpass

theorem mapld_bad {byte : Nat} (hbad : (TMap.ofBytes (s.mapImage x sp (x.b.sreg a.toNat).toNat)).bad
      (s.mapImage x sp (x.b.sreg a.toNat).toNat) = some byte) :
    Means s x (plain (mapldUses d a)) (.mapld d sp a) (.trap (x.engTrap 1 d.toNat byte)) :=
  ⟨_, rfl, (if_neg (ne_true_of_eq_false hpres)).trans ((pass_of_check hpass).trans (by simp only [hbad]))⟩

theorem mapld_loads {c : Cohort} (hc : s.cohort? x.b.cohort = some c)
    (hgood : (TMap.ofBytes (s.mapImage x sp (x.b.sreg a.toNat).toNat)).bad
      (s.mapImage x sp (x.b.sreg a.toNat).toNat) = none) :
    Means s x (plain (mapldUses d a)) (.mapld d sp a)
      (.done ((s.notes x (mapWord sp) (x.mapWords (x.b.sreg a.toNat).toNat)).setCohort
        { c with maps := c.maps.set d.toNat (some (s.mapImage x sp (x.b.sreg a.toNat).toNat)) })) :=
  ⟨_, rfl, (if_neg (ne_true_of_eq_false hpres)).trans ((pass_of_check hpass).trans
    (by simp only [hgood, State.cohort?_notes, hc]))⟩

end

/-! ### The statement -/

/-- Settles O30: the image's accesses leave the cohorts as they are, so that the slot is the cohort's own. -/
theorem mapldLoads : Obligations.MapldLoads := by
  intro s x d sp a c h hc v bs fs
  refine ⟨fun habs => Means.goes h (mapld_absent habs) (.refl s),
    fun hpres tr htrap => Means.traps h (mapld_faulted hpres htrap), fun hpres hpass =>
      ⟨fun byte hbad => Means.traps h (mapld_bad hpres hpass hbad), fun hgood => ?_⟩⟩
  exact Means.goes h (mapld_loads hpres hpass hc hgood) ((s.notes_keepsPlaces x _ _).trans (.of_beams rfl))

end Sys2Proof.Machine
end

section
/-! CHWAIT (R266) and the resumes of the parked requests (R281, R454). -/

namespace Sys2Proof.Machine

/-! ### The barrier operand of an engine instruction (R253) -/

section
variable {s : State} {x : Frag} {off : Nat} (go : Res)

theorem State.engBarrier_absent (habs : Fmt.isAbsent .n64 off = true) : s.engBarrier x off go = .done s := if_pos habs

variable (hpres : Fmt.isAbsent .n64 off = false)
include hpres

theorem State.engBarrier_trap {tr : Trap} (htrap : s.barTrap x .read false off = some tr) :
    s.engBarrier x off go = .trap tr :=
  (if_neg (ne_true_of_eq_false hpres)).trans (trap_of_check htrap)

theorem State.engBarrier_pass (hpass : s.barTrap x .read false off = none) : s.engBarrier x off go = go :=
  (if_neg (ne_true_of_eq_false hpres)).trans (pass_of_check hpass)

end

/-! ### CHWAIT -/

section
variable {s : State} {x : Frag} {ch : BitVec 3} {a : Reg}

/-- The wait that CHWAIT begins. -/
def Frag.chanWait (x : Frag) (ch : BitVec 3) (a : Reg) : Wait :=
  { kind := .chwait, ins := .chwait ch a, words := x.words, waited := 0, rem := none, woken := false
    aux := (x.b.sreg a.toNat).toNat }

theorem chwait_first (hwait : x.entry.wait = none) :
    let target := (x.b.sreg a.toNat).toNat
    Means s x (beamGuard (regUses .s a false 1 false false)) (.chwait ch a)
      (if Fmt.isAbsent .n64 target then .done s
       else if target ≤ (s.chanView x.b ch.toNat).toNat then .done (s.catchUp x.b.key)
       else .stay (s.sleep x (x.chanWait ch a))) :=
  ⟨_, rfl, by simp only [hwait, Option.any_none, Bool.false_eq_true, if_false]; rfl⟩

theorem chwait_again {w : Wait} (hwait : x.entry.wait = some w) (hkind : w.kind = .chwait)
    (hpres : Fmt.isAbsent .n64 w.aux = false) :
    Means s x (beamGuard (regUses .s a false 1 false false)) (.chwait ch a)
      (if w.aux ≤ (s.chanView x.b ch.toNat).toNat then .done (s.catchUp x.b.key) else .stay s) :=
  ⟨_, rfl, by simp only [hwait, hkind, hpres, Option.any_some, beq_self_eq_true, Bool.false_eq_true, if_false, if_true]⟩

end

/-! ### The resumes -/

/-- Does a resume start a request of this kind again? A CPYCSR's it does not. -/
def ReqKind.restarts : ReqKind → Bool
  | .csr .. => false
  | _ => true

/-- A request of the fragment's cohort and core that is parked on the barrier. -/
def Frag.parkedOn (x : Frag) (off : Nat) (r : Req) : Bool :=
  r.core == x.core && r.cohort == x.b.cohort && r.barrier == off && r.parked

/-- The requests that a resume queues again. -/
def State.toResume (s : State) (x : Frag) (off eng : Nat) : List Req :=
  s.reqs.filter fun r => x.parkedOn off r && !r.dropped && r.kind.engine == eng && r.kind.restarts

/-- The state with the barrier armed again and the dropped requests on it gone. -/
def State.rearmed (s : State) (x : Frag) (off : Nat) : State :=
  { s with reqs := s.reqs.filter fun r => !(x.parkedOn off r && r.dropped) }.rearm x.b.cohort off

theorem State.rearmed_keepsBeams (s : State) (x : Frag) (off : Nat) : s.KeepsBeams (s.rearmed x off) :=
  (State.rearm_keepsBeams ..).from_beams rfl

/-- The instruction resumes the parked requests of the engine `eng`. -/
def Resumes (i : Instr) (a : Reg) (eng : Nat) : Prop := ∀ s, exec i s = s.resumeReqs a eng

section
variable {i : Instr} {a : Reg} {eng : Nat} (hi : Resumes i a eng) {s : State} {x : Frag}
include hi

theorem resume_absent (habs : Fmt.isAbsent .n64 (x.b.sreg a.toNat).toNat = true) :
    Means s x (beamGuard (regUses .s a false 1 false false)) i (.done s) :=
  ⟨_, hi s, State.engBarrier_absent _ habs⟩

variable (hpres : Fmt.isAbsent .n64 (x.b.sreg a.toNat).toNat = false)
include hpres

theorem resume_traps {tr : Trap} (htrap : s.barTrap x .read false (x.b.sreg a.toNat).toNat = some tr) :
    Means s x (beamGuard (regUses .s a false 1 false false)) i (.trap tr) :=
  ⟨_, hi s, State.engBarrier_trap _ hpres htrap⟩

variable (hpass : s.barTrap x .read false (x.b.sreg a.toNat).toNat = none)
include hpass

theorem resume_judges :
    let off := (x.b.sreg a.toNat).toNat
    let rs := s.toResume x off eng
    Means s x (beamGuard (regUses .s a false 1 false false)) i
      (if !rs.isEmpty && decide (64 < s.queued x.core eng + rs.length) then .stay s
       else .done (rs.foldl State.restartReq (s.rearmed x off))) :=
  ⟨_, hi s, State.engBarrier_pass _ hpres hpass⟩

/-- Without requests, or with room for all of them, they are queued again. -/
theorem resume_queues (hroom : s.toResume x (x.b.sreg a.toNat).toNat eng = [] ∨
      s.queued x.core eng + (s.toResume x (x.b.sreg a.toNat).toNat eng).length ≤ 64) :
    Means s x (beamGuard (regUses .s a false 1 false false)) i
      (.done ((s.toResume x (x.b.sreg a.toNat).toNat eng).foldl State.restartReq (s.rearmed x (x.b.sreg a.toNat).toNat))) := by
  refine (resume_judges hi hpres hpass).congr (if_neg ?_)
  rw [Bool.and_eq_true, Bool.not_eq_true', List.isEmpty_eq_false_iff, decide_eq_true_eq]
  rintro ⟨hsome, hfull⟩
  exact hroom.elim hsome (Nat.not_le.mpr hfull)

theorem resume_stays (hsome : s.toResume x (x.b.sreg a.toNat).toNat eng ≠ [])
    (hfull : 64 < s.queued x.core eng + (s.toResume x (x.b.sreg a.toNat).toNat eng).length) :
    Means s x (beamGuard (regUses .s a false 1 false false)) i (.stay s) := by
  refine (resume_judges hi hpres hpass).congr (if_pos ?_)
  rw [Bool.and_eq_true, Bool.not_eq_true', List.isEmpty_eq_false_iff, decide_eq_true_eq]
  exact ⟨hsome, hfull⟩

end

/-- What a resume does, for either engine. -/
theorem resume_runs {i : Instr} {a : Reg} {eng : Nat} (hi : Resumes i a eng) {s : State} {x : Frag}
    (h : Clear s x (beamGuard (regUses .s a false 1 false false))) :
    let off := (x.b.sreg a.toNat).toNat
    let rs := s.toResume x off eng
    (Fmt.isAbsent .n64 off = true → Goes s x i s) ∧
    (Fmt.isAbsent .n64 off = false →
      (∀ tr, s.barTrap x .read false off = some tr → Traps s x i tr) ∧
      (s.barTrap x .read false off = none →
        (rs = [] → Goes s x i (s.rearmed x off)) ∧
        (rs ≠ [] → s.queued x.core eng + rs.length ≤ 64 → Goes s x i (rs.foldl State.restartReq (s.rearmed x off))) ∧
        (rs ≠ [] → 64 < s.queued x.core eng + rs.length → exec i s = .next s))) := by
  intro off rs
  refine ⟨fun habs => Means.goes h (resume_absent hi habs) (.refl s), fun hpres =>
    ⟨fun tr htrap => Means.traps h (resume_traps hi hpres htrap), fun hpass => ⟨fun hnone => ?_, fun _ hroom => ?_,
      fun hsome hfull => Means.stays h (resume_stays hi hpres hpass hsome hfull)⟩⟩⟩
  · have hm := resume_queues hi hpres hpass (.inl hnone)
    rw [show s.toResume x (x.b.sreg a.toNat).toNat eng = [] from hnone] at hm
    exact Means.goes_of_keepsBeams h hm (s.rearmed_keepsBeams x off)
  · exact Means.goes_of_keepsBeams h (resume_queues hi hpres hpass (.inr hroom))
      ((s.rearmed_keepsBeams x off).trans (.foldl State.restartReq_keepsBeams rs _))

/-! ### A request that starts again -/

section
variable {r : Req}

/-- A copy starts again at its lowest faulting burst. -/
theorem Req.restart_copy {st : Bool} {image ch k kind : Nat} (hkind : r.kind = .cpy st image ch)
    (hlow : r.lowest = some (k, kind)) :
    r.restart = { r with parked := false, fault := none, refused := 0, down := none
                         bursts := r.bursts.zipIdx.map fun b => if b.2 < k then b.1 else .waiting } := by
  have hlow' : ({ r with parked := false, fault := none, refused := 0, down := none } : Req).lowest = some (k, kind) := hlow
  simp only [Req.restart, hkind]
  simp only [Req.lowest] at hlow' ⊢
  simp only [hlow']

/-- A handler read reads its faulted bursts again, but for a burst whose glint was lost. -/
theorem Req.restart_read {target : Nat} {user : DWord} {mode : GMode} {log : Nat} (hkind : r.kind = .gread target user mode log) :
    r.restart.parked = false ∧ r.restart.bursts =
      r.bursts.map fun b => if b == .faulted 29 then .done else if b.isFault then .waiting else b := by
  simp only [Req.restart, hkind, and_self]

end

/-- What becomes of a burst of a handler read that starts again. -/
theorem BState.restarted_eq (b : BState) :
    (if b == .faulted 29 then BState.done else if b.isFault then .waiting else b) =
      match b with
      | .faulted k => if k = 29 then .done else .waiting
      | b => b := by
  cases b with
  | faulted k => simp only [beq_iff_eq, BState.faulted.injEq, BState.isFault, if_true]
  | _ => rfl

/-! ### The statement -/

/-- Settles O32: CHWAIT by its target and the cohort's view of the pointer, the resumes by what the parked requests need. -/
theorem chwaitAndResume : Obligations.ChwaitAndResume := by
  refine ⟨fun s x ch a h => ?chwait, fun s x sc a h => ?resume⟩
  case chwait =>
    intro i wp
    have hcaught : s.KeepsPlaces (s.catchUp x.b.key) := s.catchUp_keepsPlaces x.b.key
    refine ⟨fun hwait => ?first, fun w hwait hkind hpres => ?again⟩
    case first =>
      intro target
      have hm := chwait_first (s := s) (ch := ch) (a := a) hwait
      refine ⟨fun habs => Means.goes h (hm.congr (if_pos habs)) (.refl s), fun hpres hle => ?_, fun hpres hlt => ?_⟩
      all_goals have hm := hm.congr (if_neg (ne_true_of_eq_false hpres))
      · exact Means.goes h (hm.congr (if_pos hle)) hcaught
      · exact ⟨_, rfl, rfl, rfl, Means.stays h (hm.congr (if_neg (Nat.not_le.mpr hlt)))⟩
    case again =>
      have hm := chwait_again (s := s) (ch := ch) (a := a) hwait hkind hpres
      exact ⟨fun hle => Means.goes h (hm.congr (if_pos hle)) hcaught,
        fun hlt => Means.stays h (hm.congr (if_neg (Nat.not_le.mpr hlt)))⟩
  case resume =>
    refine ⟨resume_runs (fun _ => rfl) h, resume_runs (fun _ => rfl) h, fun r st image ch k kind hkind hlow => ?copy,
      fun r target user mode log hkind => ?read⟩
    case copy =>
      rw [Req.restart_copy hkind hlow]
      refine ⟨rfl, by rw [List.length_map, List.length_zipIdx], fun j hj => ?_⟩
      simp only [List.getElem?_map, List.getElem?_zipIdx, List.getElem?_eq_getElem hj, Option.map_some, Nat.zero_add]
      split <;> rfl
    case read =>
      obtain ⟨hparked, hbursts⟩ := Req.restart_read hkind
      refine ⟨hparked, by rw [hbursts, List.length_map], fun j b hb => ?_⟩
      rw [hbursts, List.getElem?_map, hb]
      exact congrArg some b.restarted_eq

end Sys2Proof.Machine
end

section
/-! How CPY, CPYCSR, GREAD, CND and COLL enter their requests (R253, R254, R262, R267, R268, R273, R282, R291, R401, R402). -/

namespace Sys2Proof.Machine

/-! ### What an engine's data and a collective leave of the beams -/

theorem State.KeepsBeams.enqueue {s t : State} (h : s.KeepsBeams t) (r : Req) : s.KeepsBeams (t.enqueue r) :=
  h.trans (.of_beams rfl)

section
variable (s : State)

theorem State.deliver_keepsBeams (r : Req) (off : Nat) (bs : List Byte) : s.KeepsBeams (s.deliver r off bs) := by
  unfold State.deliver
  split
  · next c _ =>
    have hdata : s.KeepsBeams (s.winData c.key off bs) := .of_beams (s.winData_beams ..)
    unfold State.delivered
    extract_lets t
    split
    · exact hdata
    · refine .ite hdata (hdata.trans (.of_map rfl (fun b => ?_) fun b => ?_))
      · split <;> rfl
      · split <;> rfl
  · exact .refl s

theorem State.collFault_keepsBeams (id kind : Nat) : s.KeepsBeams (s.collFault id kind) := by
  have hfault (r : Req) (k : CollKind) (f : Fmt) (o : CollOp) (t : State) :
      t.KeepsBeams ((t.collSpoiled r k f o).barFault id kind 0xFFFF) :=
    (t.deliver_keepsBeams r _ _).trans (State.barFault_keepsBeams _ id kind 0xFFFF)
  unfold State.collFault
  split
  · exact .refl s
  · split
    · refine .ite (.refl s) ((hfault _ _ _ _ _).from_beams ?_)
      split <;> rfl
    · exact .refl s

theorem State.collSend_beams (id vfn : Nat) (p : Partition) (o : CollOp) (devs : List Nat) (data : List Byte) :
    (s.collSend id vfn p o devs data).beams = s.beams := by
  refine State.foldl_beams (fun t _ => ?_) _ s
  refine State.foldl_beams (fun u _ => ?_) _ t
  exact State.transmit_beams ..

theorem State.collStart_keepsBeams (id : Nat) (kind : CollKind) (op : RedOp) (fast cnt : Bool) (f : Fmt) (g : LinkGroup)
    (p : Partition) : s.KeepsBeams (s.collStart id kind op fast cnt f g p) := by
  unfold State.collStart
  split
  · exact .refl s
  · extract_lets a o t n w data ms vfn sent met
    have ht : t.beams = s.beams := rfl
    have hmet : met.beams = s.beams := State.collSend_beams ..
    refine .ite ((t.collFault_keepsBeams ..).from_beams ht) (.ite ((t.barFault_keepsBeams ..).from_beams ht)
      (.ite ((t.collFault_keepsBeams ..).from_beams ht) (.ite ((met.collFault_keepsBeams ..).from_beams hmet) ?_)))
    split
    · exact .of_beams hmet
    · exact .of_beams hmet

end

/-! ### CPY (R262) -/

section
variable {s : State} {x : Frag} {st : Bool} {map : BitVec 4} {ch : BitVec 3} {sc : Scope} {d a b : Reg}

/-- The registers that CPY names. -/
def State.cpyUses (s : State) (map : BitVec 4) (d a b : Reg) : List Use :=
  regUses .s d false 0 false false ++ regUses .s a false 1 false false ++ groupUses b (s.coordRegs map.toNat) 2

theorem cpy_absent (habs : Fmt.isAbsent .n64 (x.b.sreg a.toNat).toNat = true) :
    Means s x (beamGuard (s.cpyUses map d a b)) (.cpy st map ch sc d a b) (.done s) :=
  ⟨_, rfl, State.engBarrier_absent _ habs⟩

variable (hpres : Fmt.isAbsent .n64 (x.b.sreg a.toNat).toNat = false)
  (hpass : s.barTrap x .read false (x.b.sreg a.toNat).toNat = none)
include hpres hpass

theorem cpy_absentImage (himage : Fmt.isAbsent .n64 (x.b.sreg d.toNat).toNat = true) :
    Means s x (beamGuard (s.cpyUses map d a b)) (.cpy st map ch sc d a b) (.done s) :=
  ⟨_, rfl, (State.engBarrier_pass _ hpres hpass).trans (if_pos himage)⟩

variable (himage : Fmt.isAbsent .n64 (x.b.sreg d.toNat).toNat = false)
include himage

theorem cpy_unmapped (hmap : s.mapIn x.b.cohort map.toNat = none) :
    Means s x (beamGuard (s.cpyUses map d a b)) (.cpy st map ch sc d a b) (.trap (x.engTrap 5 map.toNat 0)) :=
  ⟨_, rfl, (State.engBarrier_pass _ hpres hpass).trans ((if_neg (ne_true_of_eq_false himage)).trans (by simp only [hmap]))⟩

/-- A copy whose checks pass waits for room in the queue. -/
theorem cpy_enters {bs : List Byte} (hmap : s.mapIn x.b.cohort map.toNat = some bs)
    (hwin : s.winTrap x (if st then .read else .write) 1 1 (x.b.sreg d.toNat).toNat (TMap.ofBytes bs).size = none)
    (hchain : (TMap.ofBytes bs).chain ≠ if st then 1 else 2) (hbursts : (TMap.ofBytes bs).bursts ≤ 65536)
    (hstart : st = true → (TMap.ofBytes bs).badStart (x.coords b (TMap.ofBytes bs).rank) = false) :
    Means s x (beamGuard (s.cpyUses map d a b)) (.cpy st map ch sc d a b)
      (if s.engineFull x.core 0 then .stay s
       else .done (s.enqueue (Req.new s.nextId x (.cpy st (x.b.sreg d.toNat).toNat ch.toNat) bs
         (x.coords b (TMap.ofBytes bs).rank) (x.b.sreg a.toNat).toNat sc [] (TMap.ofBytes bs).bursts))) := by
  have hbad : (st && (TMap.ofBytes bs).badStart (x.coords b (TMap.ofBytes bs).rank)) = false := by
    rwa [Bool.and_eq_false_imp]
  refine ⟨_, rfl, (State.engBarrier_pass _ hpres hpass).trans ((if_neg (ne_true_of_eq_false himage)).trans ?_)⟩
  simp only [hmap, hwin]
  exact (if_neg (by rwa [beq_iff_eq])).trans
    ((if_neg (Nat.not_lt.mpr hbursts)).trans (if_neg (ne_true_of_eq_false hbad)))

end

/-! ### CPYCSR (R267) -/

section
variable {s : State} {x : Frag} {f : Fmt} {ch : BitVec 3} {sc : Scope} {d a b c : Reg}

/-- The registers that CPYCSR names. -/
def cpycsrUses (d a b c : Reg) : List Use :=
  groupUses d 2 0 ++ regUses .s a false 1 false false ++ groupUses b 4 2 ++ regUses .s c false 3 false false

theorem cpycsr_absent (habs : Fmt.isAbsent .n64 (x.b.sreg a.toNat).toNat = true) :
    Means s x (beamGuard (cpycsrUses d a b c)) (.cpycsr f ch sc d a b c) (.done s) :=
  ⟨_, rfl, State.engBarrier_absent _ habs⟩

variable (hpres : Fmt.isAbsent .n64 (x.b.sreg a.toNat).toNat = false)
  (hpass : s.barTrap x .read false (x.b.sreg a.toNat).toNat = none)
include hpres hpass

theorem cpycsr_absentBuffer (habs : Fmt.isAbsent .n64 (x.b.sreg d.toNat).toNat = true ∨
      Fmt.isAbsent .n64 (x.b.sreg (d.toNat + 1)).toNat = true) :
    Means s x (beamGuard (cpycsrUses d a b c)) (.cpycsr f ch sc d a b c) (.done s) :=
  ⟨_, rfl, (State.engBarrier_pass _ hpres hpass).trans (if_pos (Bool.or_eq_true_iff.mpr habs))⟩

theorem cpycsr_enters (hidx : Fmt.isAbsent .n64 (x.b.sreg d.toNat).toNat = false)
    (hval : Fmt.isAbsent .n64 (x.b.sreg (d.toNat + 1)).toNat = false)
    (hwinIdx : s.winTrap x .write 1 1 (x.b.sreg d.toNat).toNat
      (4 * (bits (x.b.sreg (b.toNat + 3)).toNat 32 32 + 1) + 4 * (x.b.sreg c.toNat).toNat) = none)
    (hwinVal : s.winTrap x .write 1 1 (x.b.sreg (d.toNat + 1)).toNat (fmtBytes f (x.b.sreg c.toNat).toNat) = none)
    (hroom : s.engineFull x.core 0 = false) :
    Means s x (beamGuard (cpycsrUses d a b c)) (.cpycsr f ch sc d a b c)
      (.done (s.enqueue (Req.new s.nextId x
        (.csr f (x.b.sreg d.toNat).toNat (x.b.sreg (d.toNat + 1)).toNat (x.b.sreg c.toNat).toNat ch.toNat) [] []
        (x.b.sreg a.toNat).toNat sc ((List.range 4).map fun j => x.b.sreg (b.toNat + j)) 1))) := by
  refine ⟨_, rfl, (State.engBarrier_pass _ hpres hpass).trans ((if_neg ?_).trans ?_)⟩
  · rw [hidx, hval]
    exact Bool.false_ne_true
  · simp only [hwinIdx, hwinVal, Option.or_none, hroom, Bool.false_eq_true, if_false]

end

/-! ### GREAD (R268, R273) -/

section
variable {s : State} {x : Frag} {mode : GMode} {map : BitVec 4} {sc : Scope} {d a c : Reg} {hdl : Word}

/-- The offset of a handler read's order log; there is none in the plain mode. -/
def Frag.logOff (x : Frag) (mode : GMode) (c : Reg) : Nat := if mode == .plain then 0 else (x.b.sreg (c.toNat + 1)).toNat

theorem gread_absent (habs : Fmt.isAbsent .n64 (x.b.sreg a.toNat).toNat = true) :
    Means s x (beamGuard (s.greadUses map.toNat mode d a c)) (.gread mode map sc d a c hdl) (.done s) :=
  ⟨_, rfl, State.engBarrier_absent _ habs⟩

variable (hpres : Fmt.isAbsent .n64 (x.b.sreg a.toNat).toNat = false)
  (hpass : s.barTrap x .read false (x.b.sreg a.toNat).toNat = none)
include hpres hpass

theorem gread_absentLog (hmode : mode ≠ .plain) (hlog : Fmt.isAbsent .n64 (x.logOff mode c) = true) :
    Means s x (beamGuard (s.greadUses map.toNat mode d a c)) (.gread mode map sc d a c hdl) (.done s) :=
  ⟨_, rfl, (State.engBarrier_pass _ hpres hpass).trans (if_pos (Bool.and_eq_true_iff.mpr ⟨bne_iff_ne.mpr hmode, hlog⟩))⟩

variable (hlog : mode = .plain ∨ Fmt.isAbsent .n64 (x.logOff mode c) = false) {bs : List Byte}
  (hmap : s.mapIn x.b.cohort map.toNat = some bs) {cx : Context} (hcx : s.contextOf x.b = some cx)
include hlog hmap hcx

/-- With a map, a handler read first judges its handler's header. -/
theorem gread_judges :
    let m := TMap.ofBytes bs
    let target := x.target (sext 32 hdl.toNat)
    let r := Req.new s.nextId x (.gread target (x.b.sreg c.toNat) mode (x.logOff mode c)) bs (x.coords d m.rank)
      (x.b.sreg a.toNat).toNat sc [] m.bursts
    Means s x (beamGuard (s.greadUses map.toNat mode d a c)) (.gread mode map sc d a c hdl)
      (if !s.headerIs x.core cx target headerG then .trap (x.engTrap 2 map.toNat 0)
       else if m.chain != 0 then .trap (x.engTrap 4 map.toNat 0)
       else if m.bursts > 65536 then .trap (x.engTrap 3 map.toNat 0)
       else
         match s.logTrap x mode (x.logOff mode c) m.bursts with
         | some t => .trap t
         | none =>
           if s.engineFull x.core 1 then .stay s
           else .done ((if mode == .record then s.deliver r (x.logOff mode c) (natLe 4 0) else s).enqueue r)) := by
  have hgoes : ¬(mode != .plain && Fmt.isAbsent .n64 (x.logOff mode c)) = true := by
    rw [Bool.and_eq_true, bne_iff_ne]
    exact fun ⟨hmode, habs⟩ => hlog.elim hmode (ne_true_of_eq_false · habs)
  refine ⟨_, rfl, (State.engBarrier_pass _ hpres hpass).trans ((if_neg hgoes).trans ?_)⟩
  simp only [hmap, hcx, Option.any_some]
  rfl

theorem gread_noHandler (hhead : s.headerIs x.core cx (x.target (sext 32 hdl.toNat)) headerG = false) :
    Means s x (beamGuard (s.greadUses map.toNat mode d a c)) (.gread mode map sc d a c hdl)
      (.trap (x.engTrap 2 map.toNat 0)) :=
  (gread_judges hpres hpass hlog hmap hcx).congr (if_pos (by rw [hhead]; rfl))

theorem gread_enters (hhead : s.headerIs x.core cx (x.target (sext 32 hdl.toNat)) headerG = true)
    (hchain : (TMap.ofBytes bs).chain = 0) (hbursts : (TMap.ofBytes bs).bursts ≤ 65536)
    (hwin : s.logTrap x mode (x.logOff mode c) (TMap.ofBytes bs).bursts = none) (hroom : s.engineFull x.core 1 = false) :
    let r := Req.new s.nextId x (.gread (x.target (sext 32 hdl.toNat)) (x.b.sreg c.toNat) mode (x.logOff mode c)) bs
      (x.coords d (TMap.ofBytes bs).rank) (x.b.sreg a.toNat).toNat sc [] (TMap.ofBytes bs).bursts
    Means s x (beamGuard (s.greadUses map.toNat mode d a c)) (.gread mode map sc d a c hdl)
      (.done ((if mode == .record then s.deliver r (x.logOff mode c) (natLe 4 0) else s).enqueue r)) := by
  refine (gread_judges hpres hpass hlog hmap hcx).congr ((if_neg (by rw [hhead]; decide)).trans
    ((if_neg (by rw [hchain]; decide)).trans ((if_neg (Nat.not_lt.mpr hbursts)).trans ?_)))
  rw [hwin]
  exact if_neg (ne_true_of_eq_false hroom)

end

/-! ### CND (R282) -/

section
variable {s : State} {x : Frag} {f : Fmt} {sc : Scope} {a b : Reg}

/-- The registers that CND and COLL name. -/
def paramUses (a b : Reg) : List Use := regUses .s a false 1 false false ++ groupUses b 4 2

/-- The parameter group from sB on. -/
def Frag.group4 (x : Frag) (b : Reg) : List DWord := (List.range 4).map fun j => x.b.sreg (b.toNat + j)

theorem cnd_absent (habs : Fmt.isAbsent .n64 (x.b.sreg a.toNat).toNat = true) :
    Means s x (beamGuard (paramUses a b)) (.cnd f sc a b) (.done s) :=
  ⟨_, rfl, State.engBarrier_absent _ habs⟩

theorem cnd_enters (hpres : Fmt.isAbsent .n64 (x.b.sreg a.toNat).toNat = false)
    (hpass : s.barTrap x .read false (x.b.sreg a.toNat).toNat = none)
    (hwin : let sh := cndShape (x.b.sreg (b.toNat + 2)) (x.b.sreg (b.toNat + 3))
      sh.ok = true → s.winTrap x .write 1 1 sh.y (6 * sh.n * sh.b) = none)
    (hroom : s.engineFull x.core 2 = false) :
    Means s x (beamGuard (paramUses a b)) (.cnd f sc a b)
      (.done (s.enqueue (s.cndSource (Req.new s.nextId x (.cnd f) [] [] (x.b.sreg a.toNat).toNat sc (x.group4 b) 1)))) := by
  have hnone : (if (cndShape (x.b.sreg (b.toNat + 2)) (x.b.sreg (b.toNat + 3))).ok
      then s.winTrap x .write 1 1 (cndShape (x.b.sreg (b.toNat + 2)) (x.b.sreg (b.toNat + 3))).y
        (6 * (cndShape (x.b.sreg (b.toNat + 2)) (x.b.sreg (b.toNat + 3))).n *
          (cndShape (x.b.sreg (b.toNat + 2)) (x.b.sreg (b.toNat + 3))).b)
      else none) = none := by
    split
    · next hok => exact hwin hok
    · rfl
  exact ⟨_, rfl, (State.engBarrier_pass _ hpres hpass).trans
    ((pass_of_check hnone).trans (if_neg (ne_true_of_eq_false hroom)))⟩

end

/-! ### COLL (R291, R401) -/

section
variable {s : State} {x : Frag} {kind : CollKind} {op : RedOp} {fast cnt : Bool} {f : Fmt} {sc : Scope} {a b : Reg}

/-- The state with the request of a COLL entered, in which it takes part in no operation yet. -/
def State.collEntered (s : State) (x : Frag) (kind : CollKind) (op : RedOp) (fast cnt : Bool) (f : Fmt) (sc : Scope)
    (a b : Reg) : State :=
  s.enqueue (Req.new s.nextId x
    (.coll kind op fast cnt f { part := 0, group := 0, op := 0, ranks := 0, rank := 0, head := [] }) [] []
    (x.b.sreg a.toNat).toNat sc (x.group4 b) 1)

theorem coll_absent (habs : Fmt.isAbsent .n64 (x.b.sreg a.toNat).toNat = true) :
    Means s x (beamGuard (paramUses a b)) (.coll kind op fast cnt f sc a b) (.done s) :=
  ⟨_, rfl, State.engBarrier_absent _ habs⟩

variable (hpres : Fmt.isAbsent .n64 (x.b.sreg a.toNat).toNat = false)
  (hpass : s.barTrap x .read false (x.b.sreg a.toNat).toNat = none)
include hpres hpass

theorem coll_stays (hfull : s.engineFull x.core 3 = true) :
    Means s x (beamGuard (paramUses a b)) (.coll kind op fast cnt f sc a b) (.stay s) :=
  ⟨_, rfl, (State.engBarrier_pass _ hpres hpass).trans (if_pos hfull)⟩

variable (hroom : s.engineFull x.core 3 = false) {p : Partition} (hpart : s.partOfCore x.core = some p)
include hroom hpart

/-- The handle decides between a mismatch and the group's next operation. -/
theorem coll_enters :
    let s' := s.collEntered x kind op fast cnt f sc a b
    Means s x (beamGuard (paramUses a b)) (.coll kind op fast cnt f sc a b)
      (match s'.linkOf p.id (collArgs (x.group4 b)).h with
       | none => .done (s'.collFault s.nextId 30)
       | some g => .done (s'.collStart s.nextId kind op fast cnt f g p)) := by
  intro s'
  have hpart' : s'.partOfCore x.core = some p := hpart
  refine ⟨_, rfl, (State.engBarrier_pass _ hpres hpass).trans ((if_neg (ne_true_of_eq_false hroom)).trans ?_)⟩
  show (match (s'.partOfCore x.core).bind fun p => (s'.linkOf p.id (collArgs (x.group4 b)).h).map fun g => (p, g) with
    | none => Res.done (s'.collFault s.nextId 30)
    | some (p, g) => .done (s'.collStart s.nextId kind op fast cnt f g p)) = _
  rw [hpart', Option.bind_some]
  cases s'.linkOf p.id (collArgs (x.group4 b)).h <;> rfl

theorem coll_unlinked (hlink : (s.collEntered x kind op fast cnt f sc a b).linkOf p.id (collArgs (x.group4 b)).h = none) :
    Means s x (beamGuard (paramUses a b)) (.coll kind op fast cnt f sc a b)
      (.done ((s.collEntered x kind op fast cnt f sc a b).collFault s.nextId 30)) :=
  (coll_enters hpres hpass hroom hpart).congr (by rw [hlink])

theorem coll_linked {g : LinkGroup}
    (hlink : (s.collEntered x kind op fast cnt f sc a b).linkOf p.id (collArgs (x.group4 b)).h = some g) :
    Means s x (beamGuard (paramUses a b)) (.coll kind op fast cnt f sc a b)
      (.done ((s.collEntered x kind op fast cnt f sc a b).collStart s.nextId kind op fast cnt f g p)) :=
  (coll_enters hpres hpass hroom hpart).congr (by rw [hlink])

end

/-! ### The statement -/

/-- Settles O31: each instruction by what it means once the checks of R253 pass; a request entered leaves the beams. -/
theorem engineIssue : Obligations.EngineIssue := by
  refine ⟨fun s x st map ch sc d a b c f mode hdl bs => ?copies, fun s x kind op fast cnt f sc a b h => ?coll⟩
  case' copies =>
    intro bar ready m four
    refine ⟨fun h => ?cpy, fun h => ?cpycsr, fun h => ?gread, fun h => ?cnd⟩
  case cpy =>
    refine ⟨fun habs => Means.goes h (cpy_absent habs) (.refl s),
      fun ⟨hpres, hpass⟩ himage => Means.goes h (cpy_absentImage hpres hpass himage) (.refl s),
      fun ⟨hpres, hpass⟩ himage hmap => Means.traps h (cpy_unmapped hpres hpass himage hmap),
      fun ⟨hpres, hpass⟩ himage hmap hwin hchain hbursts hstart => ?_⟩
    have hm := cpy_enters (sc := sc) (ch := ch) hpres hpass himage hmap hwin hchain hbursts hstart
    exact ⟨fun hfull => Means.stays h (hm.congr (if_pos hfull)),
      fun hroom => Means.goes h (hm.congr (if_neg (ne_true_of_eq_false hroom))) (.of_beams rfl)⟩
  case cpycsr =>
    exact ⟨fun habs => Means.goes h (cpycsr_absent habs) (.refl s),
      fun ⟨hpres, hpass⟩ habs => Means.goes h (cpycsr_absentBuffer hpres hpass habs) (.refl s),
      fun ⟨hpres, hpass⟩ hidx hval hwinIdx hwinVal hroom =>
        Means.goes h (cpycsr_enters hpres hpass hidx hval hwinIdx hwinVal hroom) (.of_beams rfl)⟩
  case gread =>
    refine ⟨fun habs => Means.goes h (gread_absent habs) (.refl s),
      fun ⟨hpres, hpass⟩ hmode hlog => Means.goes h (gread_absentLog hpres hpass hmode hlog) (.refl s),
      fun ⟨hpres, hpass⟩ hlog hmap cx hcx =>
        ⟨fun hhead => Means.traps h (gread_noHandler hpres hpass hlog hmap hcx hhead),
          fun hhead hchain hbursts hwin hroom => ?_⟩⟩
    have hm := gread_enters (sc := sc) (d := d) hpres hpass hlog hmap hcx hhead hchain hbursts hwin hroom
    exact Means.goes_of_keepsBeams h hm (State.KeepsBeams.enqueue (.ite (s.deliver_keepsBeams ..) (.refl s)) _)
  case cnd =>
    exact ⟨fun habs => Means.goes h (cnd_absent habs) (.refl s), fun ⟨hpres, hpass⟩ hwin hroom =>
      Means.goes h (cnd_enters hpres hpass hwin hroom) (.of_beams rfl)⟩
  case coll =>
    refine ⟨fun habs => Means.goes h (coll_absent habs) (.refl s), fun hpres hpass =>
      ⟨fun hfull => Means.stays h (coll_stays hpres hpass hfull),
        fun hroom p hpart => ⟨fun hlink => ?_, fun g hlink => ?_⟩⟩⟩
    · exact Means.goes_of_keepsBeams h (coll_unlinked hpres hpass hroom hpart hlink)
        ((State.collFault_keepsBeams ..).from_beams rfl)
    · exact Means.goes_of_keepsBeams h (coll_linked hpres hpass hroom hpart hlink)
        ((State.collStart_keepsBeams ..).from_beams rfl)

end Sys2Proof.Machine
end

section
/-! ENGINE_FAULT (R280, R412) and how CPYCSR, CND and COLL end (R267, R282, R292, R293, R404, R452). -/

namespace Sys2Proof.Machine

/-! ### A barrier in the window of a resident cohort -/

/-- The control word and FAULT stand in the first and the last four of a barrier's bytes. -/
theorem Bar.ofBytes_bytes (b : Bar) (hsrc : b.src.length = 4) (hcnt : b.cnt.length = 4) (rest : List Byte) :
    (Bar.ofBytes (b.bytes ++ rest)).st = bits (b.word % 256 ^ 4) 1 3 ∧
      (Bar.ofBytes (b.bytes ++ rest)).fault = b.fault % 256 ^ 4 := by
  have hmid : (b.src.flatMap (natLe 1) ++ b.cnt.flatMap fun c => natLe 4 (pattern 32 c)).length = 20 := by
    simp [List.length_flatMap, natLe_length, hsrc, hcnt]
  obtain ⟨mid, hlen, hbytes⟩ : ∃ mid : List Byte, mid.length = 20 ∧
      b.bytes ++ rest = natLe 4 b.word ++ (mid ++ (natLe 4 b.fault ++ rest)) :=
    ⟨_, hmid, by simp only [Bar.bytes, List.append_assoc]⟩
  have hword : ((b.bytes ++ rest).drop 0).take 4 = natLe 4 b.word := by
    rw [hbytes, List.drop_zero]
    exact List.take_left' (natLe_length 4 _)
  have hfault : ((b.bytes ++ rest).drop 24).take 4 = natLe 4 b.fault := by
    rw [hbytes, ← List.append_assoc, List.drop_left' (by rw [List.length_append, natLe_length, hlen])]
    exact List.take_left' (natLe_length 4 _)
  constructor
  · show bits (leNat (((b.bytes ++ rest).drop 0).take 4)) 1 3 = _
    rw [hword, leNat_natLe]
  · show leNat (((b.bytes ++ rest).drop 24).take 4) = _
    rw [hfault, leNat_natLe]

theorem Bar.bytes_length (b : Bar) (hsrc : b.src.length = 4) (hcnt : b.cnt.length = 4) : b.bytes.length = 28 := by
  simp [Bar.bytes, List.length_flatMap, natLe_length, hsrc, hcnt]

/-- A barrier written into a resident cohort's window reads as its bytes, followed by the reserved bytes of the granule. -/
theorem State.bar_putBar {s : State} {key : CohortKey} {c : Cohort} (hc : s.cohort? key = some c) (hst : c.st = .resident)
    (off : Nat) (b : Bar) (hsrc : b.src.length = 4) (hcnt : b.cnt.length = 4) :
    (s.putBar key off b).bar key off = Bar.ofBytes (b.bytes ++ c.bytes (off + 28) 4) := by
  have hput : s.putBar key off b = s.setCohort (c.put off b.bytes) := by
    simp only [State.putBar, State.winPut, hc, State.parkedWindow, hst]
  have hc' : (s.putBar key off b).cohort? key = some (c.put off b.bytes) := by
    rw [hput, State.cohort?_setCohort, hc]
    exact if_pos (State.cohort?_key hc)
  have hwin : (s.putBar key off b).winBytes (c.put off b.bytes) off 32 = (c.put off b.bytes).bytes off 32 := by
    have hst' : (c.put off b.bytes).st = .resident := hst
    simp only [State.winBytes, State.parkedWindow, hst']
  have hlen := b.bytes_length hsrc hcnt
  have hhead := c.bytes_put off b.bytes
  rw [hlen] at hhead
  rw [State.bar, hc', Option.map_some, Option.getD_some, hwin, Cohort.bytes_add _ off 28 4, hhead,
    Cohort.bytes_put_other _ (by omega)]

/-! ### A fault parks its request (R280) -/

/-- The barrier `b` with the fault of a request of the core. -/
def Bar.faultedBy (b : Bar) (core kind index : Nat) : Bar :=
  { b with
    st := 2
    fault := if b.fault == 0 then index % 2 ^ 16 + ((b.slotOf core).getD 0xFF) * 2 ^ 16 + kind * 2 ^ 24 else b.fault }

/-- The request parked by a fault of its barrier `b`. -/
def Req.parkedBy (r : Req) (b : Bar) (kind index : Nat) : Req :=
  { r with
    parked := true, migSince := none, down := none, bursts := r.parkedBursts false kind
    fault := if b.fault == 0 then some index else r.fault }

theorem State.barFault_parks {s : State} {id : Nat} {r : Req} (h : s.req? id = some r) (hlive : s.barLive r = true)
    (hpark : r.parked = false) (hroom : (s.faultList r.core).length < 64) (kind index : Nat) :
    s.barFault id kind index = ((s.setReq (r.parkedBy (s.bar r.cohort r.barrier) kind index)).putBar r.cohort r.barrier
      ((s.bar r.cohort r.barrier).faultedBy r.core kind index)).wakeBar r.cohort r.barrier 0 := by
  have hfits : decide ((s.faultList r.core).length ≥ 64) = false := decide_eq_false (Nat.not_le.mpr hroom)
  simp only [State.barFault, h, hlive, hpark, hfits, Bool.not_true, Bool.and_false, Bool.or_false, Bool.false_eq_true, if_false]
  rfl

/-- A barrier with no fault yet holds the index, the source core's slot and the kind of its first one. -/
theorem Bar.fault_faultedBy {b : Bar} (hzero : b.fault = 0) {core kind index : Nat} (hindex : index < 2 ^ 16)
    (hkind : kind < 256) :
    (b.faultedBy core kind index).fault < 256 ^ 4 ∧ (b.faultedBy core kind index).fault % 2 ^ 16 = index ∧
      (b.faultedBy core kind index).fault / 2 ^ 24 = kind := by
  have hslot : (b.slotOf core).getD 0xFF < 256 := by
    cases hs : b.slotOf core with
    | none => decide
    | some k => exact Nat.lt_trans (Bar.slotOf_valid hs).1 (by decide)
  have hword : (b.faultedBy core kind index).fault =
      index % 2 ^ 16 + ((b.slotOf core).getD 0xFF) * 2 ^ 16 + kind * 2 ^ 24 := if_pos (beq_iff_eq.mpr hzero)
  rw [hword]
  omega

/-- The state of a barrier with a one-bit phase stands in bits 1 to 3 of its word. -/
theorem Bar.word_st {b : Bar} (hphase : b.phase < 2) (hst : b.st < 8) : bits (b.word % 256 ^ 4) 1 3 = b.st := by
  simp only [Bar.word, bits]
  omega

/-- A handler read's fault stands in its barrier, and the read is parked. -/
theorem State.barFault_reads {s : State} {id k kind : Nat} {r : Req} {c : Cohort} (h : s.req? id = some r)
    (hpark : r.parked = false) (hk : k < 2 ^ 16) (hkind : kind < 256) (hc : s.cohort? r.cohort = some c)
    (hst : c.st = .resident) (hlive : s.barLive r = true) (hroom : (s.faultList r.core).length < 64)
    (hzero : (s.bar r.cohort r.barrier).fault = 0) :
    let t := s.barFault id kind k
    ∃ r', t.req? id = some r' ∧ r'.parked = true ∧ r'.fault = some k ∧
      (t.bar r.cohort r.barrier).st = 2 ∧ (t.bar r.cohort r.barrier).fault % 2 ^ 16 = k ∧
      (t.bar r.cohort r.barrier).fault / 2 ^ 24 = kind ∧ t.mem = s.mem := by
  intro t
  let b := s.bar r.cohort r.barrier
  let parked := s.setReq (r.parkedBy b kind k)
  have ht : t = (parked.putBar r.cohort r.barrier (b.faultedBy r.core kind k)).wakeBar r.cohort r.barrier 0 :=
    State.barFault_parks h hlive hpark hroom kind k
  have hcp : parked.cohort? r.cohort = some c := hc
  have hkey := State.cohort?_key hc
  have hsame : parked.SameBesideWindow c parked :=
    ⟨rfl, rfl, rfl, c.win, show parked.cohort? c.key = some c by rw [hkey, hcp]⟩
  have hput := hsame.putBar hst r.barrier (b.faultedBy r.core kind k)
  rw [hkey] at hput
  have hbar : t.bar r.cohort r.barrier =
      Bar.ofBytes ((b.faultedBy r.core kind k).bytes ++ c.bytes (r.barrier + 28) 4) := by
    rw [ht]
    exact State.bar_putBar hcp hst _ _ rfl rfl
  obtain ⟨hstate, hfault⟩ := (b.faultedBy r.core kind k).ofBytes_bytes rfl rfl (c.bytes (r.barrier + 28) 4)
  obtain ⟨hlt, hindex, hcode⟩ := Bar.fault_faultedBy (core := r.core) hzero hk hkind
  rw [Nat.mod_eq_of_lt hlt] at hfault
  rw [hbar, hstate, hfault]
  refine ⟨r.parkedBy b kind k, ?_, rfl, if_pos (beq_iff_eq.mpr hzero), ?_, hindex, hcode, ?_⟩
  · have hreqs : t.reqs = parked.reqs := by
      rw [ht]
      exact State.winPut_reqs ..
    rw [State.req?_congr hreqs]
    exact State.req?_setReq_of_id h rfl
  · exact Bar.word_st (Nat.mod_lt _ (by decide)) (by decide : 2 < 8)
  · rw [ht]
    exact hput.mem

/-! ### ENGINE_FAULT -/

section
variable {s : State} {core req : Nat} {r : Req} (h : s.req? req = some r) (hcore : r.core = core) (hpark : r.parked = false)
  (hdrop : r.dropped = false)
include h hcore hpark hdrop

theorem exec_engineFault_copyFaulted {st : Bool} {image ch k kind : Nat} (hkind : r.kind = .cpy st image ch)
    (hopen : r.hasWaiting = false) (hlow : r.lowest = some (k, kind)) :
    exec (.engineFault core req) s = .next (if s.unfinished r then s else s.copyFault r st ch k kind) := by
  show execEngineFault core req s = _
  simp only [execEngineFault, h, hcore, hpark, hdrop, hkind, hopen, hlow, bne_self_eq_false, Bool.or_false,
    Bool.false_eq_true, if_false]

theorem exec_engineFault_copyOpen {st : Bool} {image ch : Nat} (hkind : r.kind = .cpy st image ch)
    (hopen : r.hasWaiting = true) :
    exec (.engineFault core req) s = .next (s.setReq (r.setBurst (r.bursts.findIdx BState.open_) (.faulted 20))) := by
  show execEngineFault core req s = _
  simp only [execEngineFault, h, hcore, hpark, hdrop, hkind, hopen, bne_self_eq_false, Bool.or_false,
    Bool.false_eq_true, if_false]

section
variable {target : Nat} {user : DWord} {mode : GMode} {log : Nat} (hkind : r.kind = .gread target user mode log)
include hkind

theorem exec_engineFault_readFaulted {k kind : Nat} (hopen : r.hasWaiting = false) (hlow : r.lowest = some (k, kind)) :
    exec (.engineFault core req) s = .next (s.barFault req kind k) := by
  show execEngineFault core req s = _
  simp only [execEngineFault, h, hcore, hpark, hdrop, hkind, hopen, hlow, bne_self_eq_false, Bool.or_false,
    Bool.false_eq_true, if_false]

theorem exec_engineFault_readOpen (hopen : r.hasWaiting = true) :
    exec (.engineFault core req) s = .next (s.setReq (r.setBurst (r.bursts.findIdx (· == .waiting)) (.faulted 20))) := by
  show execEngineFault core req s = _
  simp only [execEngineFault, h, hcore, hpark, hdrop, hkind, hopen, bne_self_eq_false, Bool.or_false,
    Bool.false_eq_true, if_false]

end

/-- A request without bursts of its own faults whole. -/
theorem exec_engineFault_whole (hkind : (∃ f i v cap ch, r.kind = .csr f i v cap ch) ∨ (∃ f, r.kind = .cnd f) ∨
      ∃ k op fast cnt f o, r.kind = .coll k op fast cnt f o) :
    exec (.engineFault core req) s = .next (s.barFault req 20 0xFFFF) := by
  show execEngineFault core req s = _
  obtain ⟨f, i, v, cap, ch, hk⟩ | ⟨f, hk⟩ | ⟨k, op, fast, cnt, f, o, hk⟩ := hkind
  all_goals simp only [execEngineFault, h, hcore, hpark, hdrop, hk, bne_self_eq_false, Bool.or_false,
    Bool.false_eq_true, if_false]

end

/-! ### What cannot be read for now (R404) -/

/-- The step `o` waits for a port that is down, and goes on as `go` once the fabric timeout of the core's partition has
passed. -/
def State.FailsLate (s : State) (r : Req) (o : Host.Outcome State Fault Refusal) (go : State) : Prop :=
  let limit := ((s.partOfCore r.core).map (·.timeout)).getD 0
  (r.down = none → o = .next (s.setReq { r with down := some s.clock })) ∧
  ∀ t, r.down = some t → (s.clock < t + limit → o = .next s) ∧ (t + limit ≤ s.clock → o = .next go)

theorem State.failsLate {s : State} {r : Req} {o : Host.Outcome State Fault Refusal} {go : State}
    (h : o = .next (s.engFails r 20 fun _ => go)) : s.FailsLate r o go :=
  ⟨fun hdown => by rw [h, State.engFails_down hdown], fun t hdown =>
    ⟨fun hearly => by rw [h, State.engFails_waits hdown hearly], fun hlate => by rw [h, State.engFails_late hdown hlate]⟩⟩

/-! ### CPYCSR (R267) -/

section
variable {s : State} {core req : Nat} {r : Req} (h : s.req? req = some r) (hcore : r.core = core) (hpark : r.parked = false)
  (hdrop : r.dropped = false) {f : Fmt} {idx val cap ch : Nat} (hkind : r.kind = .csr f idx val cap ch)
  (hhead : s.headOfChan r = true)
include h hcore hpark hdrop hkind hhead

theorem exec_cpycsrComplete_fails {k : Nat} (hdata : s.csrData r f cap = .error k) :
    exec (.cpycsrComplete core req) s = .next (s.engFails r k fun _ => s.barFault req k 0xFFFF) := by
  show execCpycsrComplete core req s = _
  simp only [execCpycsrComplete, h, hcore, hpark, hdrop, hkind, hhead, hdata, bne_self_eq_false, Bool.or_false,
    Bool.not_true, Bool.false_eq_true, if_false]

theorem exec_cpycsrComplete_delivers {is vs : List Byte} {reads : List Int} (hdata : s.csrData r f cap = .ok (is, vs, reads)) :
    let u := ((s.engNotes core r.cohort false false reads).deliver r idx is).deliver r val vs
    let n := is.length + vs.length
    exec (.cpycsrComplete core req) s =
      .next ((((u.wpAdd core ch n).setReq { r with delivered := n }).barArrive req).dropReq req) := by
  show execCpycsrComplete core req s = _
  simp only [execCpycsrComplete, h, hcore, hpark, hdrop, hkind, hhead, hdata, bne_self_eq_false, Bool.or_false,
    Bool.not_true, Bool.false_eq_true, if_false]

end

/-! ### CND (R282, R452) -/

/-- A burst list that does not begin with a burst that has been read. -/
theorem match_unread {α : Type} {l : List BState} (f : List Byte → List BState → α) (g : α) :
    (∀ b, l.head? ≠ some (.read b)) → (match l with | .read bs :: rest => f bs rest | _ => g) = g := by
  intro h
  split
  · next bs rest => exact absurd rfl (h bs)
  · rfl

section
variable {s : State} {core req : Nat} {r : Req} (h : s.req? req = some r) (hcore : r.core = core) (hpark : r.parked = false)
  (hdrop : r.dropped = false) {f : Fmt} (hkind : r.kind = .cnd f)
include h hcore hpark hdrop hkind

/-- The fields of a request's parameters. -/
def Req.shape (r : Req) : CndShape := cndShape (r.params.getD 2 0) (r.params.getD 3 0)

theorem exec_cndComplete_misshapen (hok : r.shape.ok = false) :
    exec (.cndComplete core req) s = .next (s.barFault req 25 0xFFFF) := by
  rw [Req.shape] at hok
  show execCndComplete core req s = _
  simp only [execCndComplete, h, hcore, hpark, hdrop, hkind, hok, bne_self_eq_false, Bool.or_false, Bool.not_false,
    Bool.false_eq_true, if_false, if_true]

variable (hok : r.shape.ok = true)
include hok

theorem exec_cndComplete_counts {bs : List Byte} {rest : List BState} (hread : r.bursts = .read bs :: rest) :
    exec (.cndComplete core req) s =
      .next (((s.deliver r r.shape.y (s.cndTaken r r.shape.y (fun k => bs.getD k 0) bs)).reqFlags req).countAndEnd req
        bs.length) := by
  rw [Req.shape] at hok ⊢
  show execCndComplete core req s = _
  simp only [execCndComplete, h, hcore, hpark, hdrop, hkind, hok, hread, bne_self_eq_false, Bool.or_false, Bool.not_true,
    Bool.false_eq_true, if_false]

variable (hnew : ∀ b, r.bursts.head? ≠ some (.read b))
include hnew

theorem exec_cndComplete_fails {k : Nat} (herr : s.cndStream r = .error k ∨
      ∃ bs, s.cndStream r = .ok bs ∧ s.cndRun r f r.shape (s.cndReads r bs) = .error k) :
    exec (.cndComplete core req) s = .next (s.engFails r k fun _ => (s.cndSpoiled r r.shape).barFault req k 0xFFFF) := by
  rw [Req.shape] at hok herr ⊢
  show execCndComplete core req s = _
  simp only [execCndComplete, h, hcore, hpark, hdrop, hkind, hok, bne_self_eq_false, Bool.or_false, Bool.not_true,
    Bool.false_eq_true, if_false]
  refine (match_unread _ _ hnew).trans ?_
  obtain hstream | ⟨bs, hstream, hrun⟩ := herr
  · simp only [hstream, Except.bind]
  · simp only [hstream, Except.bind, hrun, Except.map]

theorem exec_cndComplete_writes {bs : List Byte} {o : CndOut} (hstream : s.cndStream r = .ok bs)
    (hrun : s.cndRun r f r.shape (s.cndReads r bs) = .ok o) :
    let u := s.engNotes core r.cohort false false ((pagesOf (r.params.getD 0 0).toNat bs.length).map fun q : Nat => (q : Int))
    let q := cndBytes o
    exec (.cndComplete core req) s =
      .next ((u.deliver r r.shape.y (u.cndTaken r r.shape.y (fun k => u.cndWas r (r.shape.y + k)) q.1)).setReq
        { r.setBurst 0 (.read q.1) with flags := q.2, delivered := q.1.length, down := none }) := by
  rw [Req.shape] at hok hrun ⊢
  show execCndComplete core req s = _
  simp only [execCndComplete, h, hcore, hpark, hdrop, hkind, hok, bne_self_eq_false, Bool.or_false, Bool.not_true,
    Bool.false_eq_true, if_false]
  refine (match_unread _ _ hnew).trans ?_
  simp only [hstream, Except.bind, hrun, Except.map, Int.toNat_natCast]

end

theorem State.cndSees_cases (s : State) (r : Req) (off : Nat) (now : Byte) :
    s.cndSees r off now = now ∨ s.cndSees r off now = s.cndWas r off := by
  unfold State.cndSees
  extract_lets old
  split
  · exact .inr rfl
  · exact .inl rfl

/-! ### COLL (R292, R293) -/

section
variable {s : State} {core req : Nat} {r : Req} (h : s.req? req = some r) {kind : CollKind} {op : RedOp} {fast cnt : Bool}
  {f : Fmt} {o : CollOp} (hkind : r.kind = .coll kind op fast cnt f o)
include h hkind

theorem exec_collComplete_waits (hwaits : s.collWaits req = true) : exec (.collComplete core req) s = .next s := by
  show execCollComplete core req s = _
  simp only [execCollComplete, h, hkind, hwaits, Bool.or_true, if_true]

/-- The contributions in the order of their ranks. -/
def Req.contributions (r : Req) (o : CollOp) : List (List Byte) :=
  (List.range o.ranks).map fun k => ((r.parts.find? fun p => p.1 == k).map (·.2)).getD []

/-- The result of a collective and its kept counts, as they are written. -/
def Req.collNodes (r : Req) (kind : CollKind) (op : RedOp) (fast : Bool) (f : Fmt) (o : CollOp) (seed : Nat) : List Node :=
  collResult kind op fast f o (collArgs r.params).e seed (r.contributions o)

def nodeData (f : Fmt) (ns : List Node) : List Byte := ns.flatMap fun n => natLe (Fmt.width f / 8) (n.val.getD (Fmt.absent f))

def nodeCounts (cnt : Bool) (ns : List Node) : List Byte := if cnt then ns.flatMap fun n => natLe 2 (min n.count 65534) else []

variable (hcore : r.core = core) (hpark : r.parked = false) (hdrop : r.dropped = false)
  (hall : r.parts.length = o.ranks) (hwhole : ∀ d ∈ r.contributions o, (collArgs r.params).e * (Fmt.width f / 8) ≤ d.length)
  (hreached : s.collWaits req = false)
include hcore hpark hdrop hall hwhole hreached

/-- With every contribution whole and every member reached, the result is written, or its region is outside the window. -/
theorem exec_collComplete_judges :
    let a := collArgs r.params
    let ns := r.collNodes kind op fast f o s.free
    let w := ((s.cohort? r.cohort).map (·.wsize)).getD 0
    let n := (nodeData f ns).length + (nodeCounts cnt ns).length
    let fl := orFlags (ns.map fun n => n.flags ||| if n.count ≥ 65534 then SAT else 0)
    exec (.collComplete core req) s =
      if a.dst + (nodeData f ns).length > w || (cnt && decide (a.cnt + (nodeCounts cnt ns).length > w)) then
        .next (s.collFault req 19)
      else
        .next (((((s.deliver r a.dst (nodeData f ns)).deliver r a.cnt (nodeCounts cnt ns)).setReq
          { r with flags := fl, delivered := n }).reqFlags req).countAndEnd req n) := by
  have hnone : ((r.contributions o).any fun d => decide (d.length < (collArgs r.params).e * (Fmt.width f / 8))) = false := by
    rw [List.any_eq_false]
    exact fun d hd => by simpa using hwhole d hd
  rw [Req.contributions] at hnone
  show execCollComplete core req s = _
  simp only [execCollComplete, h, hcore, hpark, hdrop, hkind, hall, hnone, hreached, bne_self_eq_false, Bool.or_false,
    Bool.false_eq_true, if_false]
  rfl

theorem exec_collComplete_outside
    (hout : ((s.cohort? r.cohort).map (·.wsize)).getD 0 <
      (collArgs r.params).dst + (nodeData f (r.collNodes kind op fast f o s.free)).length) :
    exec (.collComplete core req) s = .next (s.collFault req 19) :=
  (exec_collComplete_judges h hkind hcore hpark hdrop hall hwhole hreached).trans
    (if_pos (Bool.or_eq_true_iff.mpr (.inl (decide_eq_true hout))))

theorem exec_collComplete_writes
    (hdata : (collArgs r.params).dst + (nodeData f (r.collNodes kind op fast f o s.free)).length ≤
      ((s.cohort? r.cohort).map (·.wsize)).getD 0)
    (hcounts : cnt = true → (collArgs r.params).cnt + (nodeCounts cnt (r.collNodes kind op fast f o s.free)).length ≤
      ((s.cohort? r.cohort).map (·.wsize)).getD 0) :
    let a := collArgs r.params
    let ns := r.collNodes kind op fast f o s.free
    let n := (nodeData f ns).length + (nodeCounts cnt ns).length
    let fl := orFlags (ns.map fun n => n.flags ||| if n.count ≥ 65534 then SAT else 0)
    exec (.collComplete core req) s =
      .next (((((s.deliver r a.dst (nodeData f ns)).deliver r a.cnt (nodeCounts cnt ns)).setReq
        { r with flags := fl, delivered := n }).reqFlags req).countAndEnd req n) := by
  refine (exec_collComplete_judges h hkind hcore hpark hdrop hall hwhole hreached).trans (if_neg ?_)
  rw [Bool.or_eq_true, Bool.and_eq_true, decide_eq_true_eq, decide_eq_true_eq]
  rintro (hout | ⟨hcnt, hout⟩)
  · omega
  · have := hcounts hcnt
    omega

end

/-! ### The statement -/

/-- Settles O34: ENGINE_FAULT by the request's kind and its bursts, each engine's end by what its data are; a fault read back
from the window of a resident cohort. -/
theorem engineEnds : Obligations.EngineEnds := by
  refine ⟨fun s core req r h hcore hpark hdrop => ⟨?read, fun st image ch k kind hkind hopen hlow => ?_,
      fun st image ch hkind hopen => ?_, fun target user mode log hkind hopen => ?_, fun hkind => ?_⟩,
    fun s core req r h hcore hpark hdrop => ?ends⟩
  case read =>
    intro k kind target log user mode c hkind hopen hlow hk hcode hc hst hlive hroom hzero
    obtain ⟨r', hr', hrest⟩ := State.barFault_reads h hpark hk hcode hc hst hlive (hcore ▸ hroom) hzero
    exact ⟨_, r', exec_engineFault_readFaulted h hcore hpark hdrop hkind hopen hlow, hr', hrest⟩
  · exact exec_engineFault_copyFaulted h hcore hpark hdrop hkind hopen hlow
  · exact exec_engineFault_copyOpen h hcore hpark hdrop hkind hopen
  · exact exec_engineFault_readOpen h hcore hpark hdrop hkind hopen
  · exact exec_engineFault_whole h hcore hpark hdrop hkind
  case ends =>
    subst hcore
    refine ⟨fun f idx val cap ch hkind hhead => ?csr, fun f hkind => ?cnd, fun kind op fast cnt f o hkind hall => ?coll⟩
    case csr =>
      refine ⟨fun k hk hdata => ?_, fun hdata => ?_, fun is vs reads hdata => ?_⟩
      · rw [exec_cpycsrComplete_fails h rfl hpark hdrop hkind hhead hdata, State.engFails_now hk]
      · exact State.failsLate (exec_cpycsrComplete_fails h rfl hpark hdrop hkind hhead hdata)
      · exact exec_cpycsrComplete_delivers h rfl hpark hdrop hkind hhead hdata
    case cnd =>
      refine ⟨fun hok => exec_cndComplete_misshapen h rfl hpark hdrop hkind hok, fun bs hok hnew => ⟨fun k hk herr => ?_,
        fun hstream => ?_, fun o hstream hrun => ?_⟩, fun bs rest hok hread => ?_, s.cndSees_cases r⟩
      · have hfails := exec_cndComplete_fails h rfl hpark hdrop hkind hok hnew (herr.imp_right fun hrun => ⟨bs, hrun⟩)
        rw [hfails, State.engFails_now hk]
        rfl
      · exact State.failsLate (exec_cndComplete_fails h rfl hpark hdrop hkind hok hnew (.inl hstream))
      · exact exec_cndComplete_writes h rfl hpark hdrop hkind hok hnew hstream hrun
      · exact exec_cndComplete_counts h rfl hpark hdrop hkind hok hread
    case coll =>
      exact ⟨fun hwaits => exec_collComplete_waits h hkind hwaits, fun hwhole hreached =>
        ⟨fun hout => exec_collComplete_outside h hkind rfl hpark hdrop hall hwhole hreached hout,
          fun hdata hcounts => exec_collComplete_writes h hkind rfl hpark hdrop hall hwhole hreached hdata hcounts⟩⟩

end Sys2Proof.Machine
end

section
/-! Glints: how one is born with its burst, and how GDONE ends it (R269 to R271, R314). -/

namespace Sys2Proof.Machine

/-! ### The birth (R269) -/

/-- A burst of 128 bytes is a glint's data as it is, without padding. -/
theorem glintBytes_whole (f : Fmt) {bs : List Byte} (h : bs.length = 128) : glintBytes f false bs = bs := by
  simp only [glintBytes, h, Bool.false_eq_true, if_false, Nat.sub_self, List.range_zero, List.map_nil, List.append_nil]

section
variable (r : Req) (k slot target : Nat) (user : DWord) (bs : List Byte) (seed : Nat)

/-- A glint's truth registers are FALSE. -/
theorem Req.glint_truth : (∀ l ∈ (r.glint k slot target user bs seed).c, ∀ q ∈ l, q = 0) ∧
    ∀ q ∈ (r.glint k slot target user bs seed).k, q = 0 := by
  refine ⟨fun l hl q hq => ?_, fun q hq => List.eq_of_mem_replicate hq⟩
  obtain rfl := List.eq_of_mem_replicate hl
  exact List.eq_of_mem_replicate hq

/-- Every vector register but the first is absent. -/
theorem Req.glint_vl_absent {n i : Nat} (hlo : 1 ≤ n) (hhi : n < 16) (hi : i < 32) :
    (r.glint k slot target user bs seed).vl n i = ~~~0 := by
  obtain ⟨m, rfl⟩ := Nat.exists_eq_add_of_le' hlo
  show ((List.replicate 15 (List.replicate 32 (~~~0 : Word))).getD m []).getD i 0 = _
  rw [List.getD_replicate _ (by omega), List.getD_replicate _ hi]

/-- Does the piece of a burst end in half a byte? -/
def Req.endsHalf (r : Req) (k : Nat) : Bool :=
  let m := TMap.ofBytes r.map
  match m.piece k with
  | .row .. => Fmt.four m.fmt && m.valid (m.piece k) % 2 == 1
  | .scales .. => false

theorem Req.endsHalf_of_bytes (hfmt : Fmt.four (TMap.ofBytes r.map).fmt = false) : r.endsHalf k = false := by
  unfold Req.endsHalf
  extract_lets m
  split
  · rw [hfmt, Bool.false_and]
  · rfl

/-- The first vector register holds the burst's bytes. -/
theorem Req.glint_vl_data (hlen : bs.length = 128) (hfmt : Fmt.four (TMap.ofBytes r.map).fmt = false) {i : Nat} (hi : i < 32) :
    (r.glint k slot target user bs seed).vl 0 i = BitVec.ofNat 32 (leNat (Xfer.slice bs (4 * i) 4)) := by
  show ((List.range 32).map fun i => BitVec.ofNat 32
    (leNat (Xfer.slice (glintBytes (TMap.ofBytes r.map).fmt (r.endsHalf k) bs) (4 * i) 4))).getD i 0 = _
  rw [r.endsHalf_of_bytes k hfmt, glintBytes_whole _ hlen]
  exact (getD_range_map ..).trans (if_pos hi)

end

/-- The state with a plain read's burst born as a glint. -/
def State.born (s : State) (r : Req) (k slot target : Nat) (user : DWord) (bs : List Byte) : State :=
  let t := s.setReq { r.setBurst k .running with births := r.births ++ [k] }
  { t with beams := t.beams ++ [r.glint k slot target user bs t.free] }

theorem exec_glintBirth_plain {s : State} {core req burst slot target log : Nat} {user : DWord} {r : Req} {bs : List Byte}
    (h : s.req? req = some r) (hcore : r.core = core) (hdrop : r.dropped = false) (hlo : 64 ≤ slot) (hhi : slot < 80)
    (hfree : s.beam? ⟨core, slot⟩ = none) (hkind : r.kind = .gread target user .plain log)
    (hburst : r.bursts[burst]? = some (.read bs)) :
    exec (.glintBirth core req burst slot) s = .next (s.born r burst slot target user bs) := by
  have hno : (r.core != core || r.dropped || decide (slot < 64) || decide (slot ≥ 80) ||
      (s.beam? ⟨core, slot⟩).isSome) = false := by
    simp [hcore, hdrop, hlo, hhi, hfree]
  show execGlintBirth core req burst slot s = _
  simp only [execGlintBirth, h, hno, hkind, hburst, Bool.false_eq_true, if_false]
  rfl

section
variable {s : State} {r : Req} {burst slot target : Nat} {user : DWord} {bs : List Byte}

theorem State.beam?_born (hfree : s.beam? ⟨r.core, slot⟩ = none) :
    (s.born r burst slot target user bs).beam? ⟨r.core, slot⟩ = some (r.glint burst slot target user bs s.free) := by
  have hhead : s.beams.find? (fun b => b.key == ⟨r.core, slot⟩) = none := hfree
  show (s.beams ++ [r.glint burst slot target user bs s.free]).find? _ = _
  rw [List.find?_append, hhead, Option.none_or]
  exact List.find?_cons_of_pos (beq_self_eq_true _)

theorem State.beam?_born_other {k : BeamKey} (hk : k ≠ ⟨r.core, slot⟩) :
    (s.born r burst slot target user bs).beam? k = s.beam? k := by
  show (s.beams ++ [r.glint burst slot target user bs s.free]).find? _ = s.beams.find? _
  rw [List.find?_append, List.find?_cons_of_neg (by exact fun h => hk (beq_iff_eq.mp h).symm), List.find?_nil, Option.or_none]

end

/-! ### GDONE (R271, R314) -/

theorem State.raise_mem_reqs (s : State) (k : BeamKey) (f : Flags) :
    (s.raise k f).mem = s.mem ∧ (s.raise k f).reqs = s.reqs := by
  unfold State.raise
  split
  · exact ⟨rfl, rfl⟩
  · exact ⟨rfl, rfl⟩

theorem State.beam?_dropGlint (s : State) (k : BeamKey) : (s.dropGlint k).beam? k = none := by
  rw [State.beam?, List.find?_eq_none]
  intro b hb hkey
  have hne : (b.key != k) = true := (List.mem_filter.mp hb).2
  exact bne_iff_ne.mp hne (beq_iff_eq.mp hkey)

section
variable {s : State} {x : Frag}

theorem gdone_noGlint (hg : x.b.glint = none) : Means s x (plain []) .gdone (.trap (x.glintTrap 2)) :=
  ⟨_, rfl, by simp only [hg]⟩

/-- The state with a glint gone: its flags have reached the issuing beam. -/
def State.unglinted (s : State) (x : Frag) (g : Glint) : State := (s.raise g.issuer x.b.status).dropGlint x.b.key

variable {g : Glint} (hg : x.b.glint = some g)
include hg

theorem gdone_diverged (hconv : x.b.converged = false) : Means s x (plain []) .gdone (.trap (x.glintTrap 3)) :=
  ⟨_, rfl, by simp only [hg, hconv, Bool.not_false, if_true]⟩

variable (hconv : x.b.converged = true) {r : Req} (hr : s.req? g.req = some r)
include hconv hr

theorem gdone_waits (hun : s.unperformed x r.scope = true) : Means s x (plain []) .gdone (.stay s) :=
  ⟨_, rfl, by simp only [hg, hconv, hr, hun, Option.map_some, Option.getD_some, Bool.not_true, Bool.false_eq_true, if_false,
    if_true]⟩

theorem gdone_ends (hdone : s.unperformed x r.scope = false) :
    let u := (s.unglinted x g).setReq { r.setBurst g.burst .done with delivered := r.delivered + 128 }
    Means s x (plain []) .gdone (.stay ((u.barCount g.req 128).reqEnds g.req)) := by
  have hr' : ((s.raise g.issuer x.b.status).dropGlint x.b.key).req? g.req = some r :=
    (State.req?_congr (s.raise_mem_reqs ..).2 _).trans hr
  refine ⟨_, rfl, ?_⟩
  simp only [hg, hconv, hr, hdone, hr', Option.map_some, Option.getD_some, Bool.not_true, Bool.false_eq_true, if_false]
  rfl

end

/-! ### The statement -/

/-- Settles O35: a birth adds the glint to the beams and marks its burst; GDONE takes it away and counts. -/
theorem glints : Obligations.Glints := by
  refine ⟨fun s core req burst slot target log user r bs h hcore hdrop hlo hhi hfree hkind hburst => ?birth, fun s x h =>
    ⟨fun hg => Means.traps h (gdone_noGlint hg), fun g hg => ⟨fun hconv => Means.traps h (gdone_diverged hg hconv),
      fun hconv r hr hun => Means.stays h (gdone_waits hg hconv hr hun), fun hconv r hr hdone => ?ends⟩⟩⟩
  case birth =>
    subst hcore
    obtain ⟨hlane, huniform⟩ := r.glint_truth burst slot target user bs s.free
    exact ⟨_, r.glint burst slot target user bs s.free, { r.setBurst burst .running with births := r.births ++ [burst] },
      exec_glintBirth_plain h rfl hdrop hlo hhi hfree hkind hburst, rfl, rfl, State.beam?_born hfree,
      fun k hk => State.beam?_born_other hk, State.req?_setReq_of_id h rfl, rfl, rfl, rfl, rfl, rfl, rfl, rfl, rfl,
      ⟨rfl, rfl, rfl⟩, rfl, hlane, huniform, rfl, rfl, rfl, rfl,
      fun n i => r.glint_vl_absent burst slot target user bs s.free,
      fun hlen hfmt i => r.glint_vl_data burst slot target user bs s.free hlen hfmt⟩
  case ends =>
    exact ⟨_, _, rfl, Means.stays h (gdone_ends hg hconv hr hdone), rfl, State.beam?_dropGlint _ x.b.key,
      (s.raise_mem_reqs g.issuer x.b.status).1⟩

end Sys2Proof.Machine
end

section
/-! Memory keeps its canonical form (log entry 1), first part: what a result and an outcome of a step must hold for it, changes
made again and again, and what every instruction shares: bytes, translations, messages, queues, traps and the frame. Each
function of the model that gives a state has one lemma, that a canonical memory stays canonical. -/

namespace Sys2Proof.Machine

/-- Where the instruction ends in a state, its memory is in canonical form. -/
def Res.Canonical : Res → Prop
  | .done s | .jump s _ | .stay s => s.mem.wf = true
  | .trap _ => True

/-- Where a step goes on, the memory of its next state is in canonical form. -/
def Canonical : Host.Outcome State Fault Refusal → Prop
  | .next s => s.mem.wf = true
  | .fault _ | .refused _ => True

theorem foldl_wf {α : Type} {f : State → α → State} {s : State} (hf : ∀ s a, s.mem.wf = true → (f s a).mem.wf = true)
    {l : List α} (h : s.mem.wf = true) : (l.foldl f s).mem.wf = true := by
  induction l generalizing s with
  | nil => exact h
  | cons a l ih => exact ih (hf s a h)

theorem ite_canonical {p : Prop} [Decidable p] {a b : Res} (ha : a.Canonical) (hb : b.Canonical) :
    (if p then a else b).Canonical := by
  split
  · exact ha
  · exact hb

theorem ite_outcome {p : Prop} [Decidable p] {a b : Host.Outcome State Fault Refusal} (ha : Canonical a) (hb : Canonical b) :
    Canonical (if p then a else b) := by
  split
  · exact ha
  · exact hb

theorem ite_fst_wf {α : Type} {p : Prop} [Decidable p] {a b : State × α} (ha : a.1.mem.wf = true) (hb : b.1.mem.wf = true) :
    (if p then a else b).1.mem.wf = true := by
  split
  · exact ha
  · exact hb

section
open State

variable {s : State}

/-! ### Bytes and cells (R13, R226, R314) -/

theorem State.setBeam_wf {b : Beam} (h : s.mem.wf = true) : (s.setBeam b).mem.wf = true := h

theorem State.setReq_wf {r : Req} (h : s.mem.wf = true) : (s.setReq r).mem.wf = true := h

theorem State.writeByte_wf {who : Option Nat} {pa : Nat} {x : Byte} (h : s.mem.wf = true) :
    (s.writeByte who pa x).mem.wf = true := by
  rw [State.writeByte_mem]
  exact Memory.write_wf h pa x

theorem State.fitNear_wf {pa : Nat} (h : s.mem.wf = true) : (s.fitNear pa).mem.wf = true := by
  unfold State.fitNear
  split
  · exact h
  · exact ite_wf h (ite_wf h h)

theorem State.keepFar_wf {pa : Nat} (h : s.mem.wf = true) : (s.keepFar pa).mem.wf = true :=
  ite_wf h (fitNear_wf h)

theorem State.coreReadNote_wf {c : Nat} {wide : Bool} {pa n : Nat} (h : s.mem.wf = true) :
    (s.coreReadNote c wide pa n).mem.wf = true :=
  modCore_wf h ..

theorem State.poolByte_wf {pa : Nat} {x : Byte} (h : s.mem.wf = true) : (s.poolByte pa x).mem.wf = true := by
  unfold State.poolByte
  refine ite_wf h (ite_wf h ?_)
  extract_lets old t
  have ht : t.mem.wf = true := writeByte_wf h
  exact ite_wf ht (fitNear_wf ht)

theorem State.poolWrite_wf {pa : Nat} {bs : List Byte} (h : s.mem.wf = true) : (s.poolWrite pa bs).mem.wf = true :=
  foldl_wf (fun _ _ h => poolByte_wf h) h

theorem State.flush_wf {who : Writer} {ls : List Nat} (h : s.mem.wf = true) : (s.flush who ls).mem.wf = true := by
  unfold State.flush
  refine foldl_wf (fun s a h => ?_) ?_
  · exact h
  · exact h

/-! ### Translation (R379, R381) -/

theorem State.fillL1_wf {v : Via} {t : TlbEntry} (h : s.mem.wf = true) : (s.fillL1 v t).mem.wf = true := by
  unfold State.fillL1
  split
  · exact modCore_wf h ..
  · exact h

/-! ### The register page (R419 to R422, R432) -/

theorem State.packet_wf {x : Site} {typ : Byte} {pieces : List TracePiece} (h : s.mem.wf = true) :
    (s.packet x typ pieces).mem.wf = true := by
  rw [State.packet_mem]
  exact h

theorem State.brPacket_wf {b : Beam} {e pc kind : Nat} {mask t u : Mask} (h : s.mem.wf = true) :
    (s.brPacket b e pc kind mask t u).mem.wf = true :=
  ite_wf (packet_wf h) h

theorem State.jmpPacket_wf {b : Beam} {e pc : Nat} {mask : Mask} {target : Nat} (h : s.mem.wf = true) :
    (s.jmpPacket b e pc mask target).mem.wf = true :=
  ite_wf (packet_wf h) h

theorem State.rcvPackets_wf {b : Beam} {js : List Returned} (h : s.mem.wf = true) :
    (s.rcvPackets b js).mem.wf = true :=
  foldl_wf (fun _ _ h => ite_wf (packet_wf h) h) h

theorem State.psctl_wf {core : Nat} {w : DWord} (h : s.mem.wf = true) : (s.psctl core w).mem.wf = true :=
  ite_wf (modCore_wf h ..) (modCore_wf h ..)

theorem State.spctl_wf {core : Nat} {w : DWord} (h : s.mem.wf = true) : (s.spctl core w).mem.wf = true :=
  modCore_wf h ..

theorem State.sgctl_wf {core : Nat} {w : DWord} (h : s.mem.wf = true) : (s.sgctl core w).mem.wf = true :=
  modCore_wf h ..

theorem State.sgSet_wf {core q n : Nat} {w : DWord} (h : s.mem.wf = true) : (s.sgSet core q n w).mem.wf = true :=
  modCore_wf h ..

theorem State.sgstat_wf {core q : Nat} {w : DWord} (h : s.mem.wf = true) : (s.sgstat core q w).mem.wf = true :=
  modCore_wf h ..

theorem State.regPlain_wf {core off : Nat} {w : DWord} (h : s.mem.wf = true) :
    (s.regPlain core off w).mem.wf = true :=
  modCore_wf h ..

theorem State.regWrite_wf {core off : Nat} {w : DWord} (h : s.mem.wf = true) :
    (s.regWrite core off w).mem.wf = true := by
  unfold State.regWrite
  split
  · exact ite_wf (sgstat_wf h) (sgSet_wf h)
  · exact ite_wf (psctl_wf h) (ite_wf (sgctl_wf h) (ite_wf (spctl_wf h) (regPlain_wf h)))

theorem State.pageWrite_wf {pa : Nat} {bs : List Byte} (h : s.mem.wf = true) : (s.pageWrite pa bs).mem.wf = true := by
  unfold State.pageWrite
  split
  · exact regWrite_wf h

/-! ### Fetches (R109) -/

theorem State.fetchNote_wf {core : Nat} {x : Context} {va : Nat} (h : s.mem.wf = true) :
    (s.fetchNote core x va).mem.wf = true := by
  unfold State.fetchNote
  extract_lets t n
  have hn : n.mem.wf = true := xlNote_wf h ..
  clear_value t
  split
  · exact modCore_wf hn ..
  · exact hn

/-! ### Messages and their flows (R391, R393) -/

theorem State.send_wf {port : Option Nat} {m : OutMsg} (h : s.mem.wf = true) : (s.send port m).mem.wf = true := by
  unfold State.send
  split <;> exact h

theorem State.transmit_wf {peer vc vfn : Nat} {mk : Nat → OutMsg} (h : s.mem.wf = true) :
    (s.transmit peer vc vfn mk).mem.wf = true :=
  send_wf h

theorem State.respond_wf {f : From} {status : Nat} {body : List Byte} (h : s.mem.wf = true) :
    (s.respond f status body).mem.wf = true :=
  transmit_wf h

theorem State.pathFails_wf {dest vc : Nat} (h : s.mem.wf = true) : (s.pathFails dest vc).mem.wf = true :=
  ite_wf h (foldl_wf (fun _ _ h1 => send_wf h1) h)

theorem State.sendWaiting_wf (h : s.mem.wf = true) : s.sendWaiting.mem.wf = true := by
  unfold State.sendWaiting
  refine ite_wf h ?_
  refine foldl_wf (fun s a h => ?_) ?_
  · exact send_wf h
  · exact h

theorem State.reroute_wf (h : s.mem.wf = true) : s.reroute.mem.wf = true :=
  foldl_wf (fun _ _ h => pathFails_wf h) h

theorem State.flitLost_wf {port lseq : Nat} (h : s.mem.wf = true) : (s.flitLost port lseq).mem.wf = true := by
  unfold State.flitLost
  split
  · exact h
  · refine ite_wf h ?_
    extract_lets n p
    refine ite_wf h ?_
    split <;> exact h

/-! ### Windows and requests over the fabric (R249, R395) -/

theorem State.winPut_wf {key : CohortKey} {off : Nat} {bs : List Byte} (h : s.mem.wf = true) :
    (s.winPut key off bs).mem.wf = true := by
  unfold State.winPut
  split
  · exact h
  · split
    · exact writeBytes_wf h ..
    · exact h

theorem State.winData_wf {key : CohortKey} {off : Nat} {bs : List Byte} (h : s.mem.wf = true) :
    (s.winData key off bs).mem.wf = true := by
  unfold State.winData
  split
  · exact h
  · exact ite_wf (foldl_wf (fun s a h => ite_wf h (winPut_wf h)) h) (winPut_wf h)

/-! ### Queues, kernels, traps, and the frame of a beam instruction (R126, R338, R341, R345, R406) -/

theorem State.landAll_wf {k : BeamKey} (h : s.mem.wf = true) : (s.landAll k).mem.wf = true := by
  unfold State.landAll
  split <;> exact h

theorem State.putQueue_wf {q : Queue} (h : s.mem.wf = true) : (s.putQueue q).mem.wf = true :=
  writeBytes_wf (s := s.setQueue q) h ..

theorem State.queueEnd_wf {num seq : Nat} (h : s.mem.wf = true) : (s.queueEnd num seq).mem.wf = true := by
  unfold State.queueEnd
  split
  · exact h
  · exact putQueue_wf h

theorem State.queueFault_wf {num code seq : Nat} (h : s.mem.wf = true) :
    (s.queueFault num code seq).mem.wf = true := by
  unfold State.queueFault
  extract_lets s1
  have hs1 : s1.mem.wf = true := by
    unfold s1
    split
    · exact h
    · exact ite_wf h (putQueue_wf h)
  split
  · exact hs1
  · exact ite_wf (queueEnd_wf hs1) hs1

theorem State.cohortsGone_wf {gone : CohortKey → Bool} (h : s.mem.wf = true) : (s.cohortsGone gone).mem.wf = true :=
  foldl_wf (fun _ _ h => queueEnd_wf h) h

theorem State.stopsOver_wf {which : Cohort → Bool} (h : s.mem.wf = true) : (s.stopsOver which).mem.wf = true := by
  unfold State.stopsOver
  refine foldl_wf (fun s a h => ?_) ?_
  · extract_lets s1
    have hs1 : s1.mem.wf = true := by
      unfold s1
      split
      · exact respond_wf h
      · exact h
    split
    · exact respond_wf hs1
    · exact hs1
  · exact h

theorem State.settleContext_wf {ctx : Nat} (h : s.mem.wf = true) : (s.settleContext ctx).mem.wf = true := by
  unfold State.settleContext
  split
  · exact h
  · exact ite_wf h h

theorem State.kernelFault_wf {kid : Nat} {code : Option Nat} (h : s.mem.wf = true) :
    (s.kernelFault kid code).mem.wf = true := by
  unfold State.kernelFault
  split
  · exact h
  · refine ite_wf h ?_
    extract_lets s1 s2 s3
    have hs1 : s1.mem.wf = true := stopsOver_wf h
    have hs2 : s2.mem.wf = true := hs1
    have hs3 : s3.mem.wf = true := settleContext_wf (cohortsGone_wf hs2)
    split
    · exact queueFault_wf hs3
    · exact queueEnd_wf hs3

theorem State.trapEntry_wf {k : BeamKey} {e pc words : Nat} {t : Trap} (h : s.mem.wf = true) :
    (s.trapEntry k e pc words t).mem.wf = true := by
  unfold State.trapEntry
  split
  · exact h
  · split
    · exact h
    · refine ite_wf h (ite_wf (kernelFault_wf h) ?_)
      extract_lets s1
      have hs1 : s1.mem.wf = true := landAll_wf h
      split <;> exact hs1

theorem State.later_wf {k : BeamKey} {e n : Nat} (h : s.mem.wf = true) : (s.later k e n).mem.wf = true := by
  unfold State.later
  refine ite_wf ?_ h
  split <;> exact h

theorem State.noteReady_wf {k : BeamKey} {uses : List Use} (h : s.mem.wf = true) :
    (s.noteReady k uses).mem.wf = true := by
  unfold State.noteReady
  refine ite_wf ?_ h
  split <;> exact h

/-- The end of an instruction by its result (R118, R126). -/
theorem State.finish_wf {x : Frag} {uses : List Use} {r : Res} (h : s.mem.wf = true) (hr : r.Canonical) :
    (s.finish x uses r).mem.wf = true := by
  unfold State.finish
  split
  · exact trapEntry_wf h
  · exact hr
  · split
    · exact noteReady_wf (later_wf hr)
    · exact hr
  · split
    · exact noteReady_wf (later_wf hr)
    · exact hr

theorem State.takePending_wf {x : Frag} {p : Pending} (h : s.mem.wf = true) : (s.takePending x p).mem.wf = true :=
  ite_wf h (trapEntry_wf h)

theorem State.runOwn_wf {g : Guard} {body : Frag → State → Res} {x : Frag} (h : s.mem.wf = true)
    (hbody : ∀ f s, s.mem.wf = true → (body f s).Canonical) : (s.runOwn g body x).mem.wf = true := by
  unfold State.runOwn
  split
  · exact trapEntry_wf h
  · exact ite_wf h (finish_wf h (hbody _ _ h))

/-- A beam instruction keeps memory canonical where its own effect does, on every fragment and state. -/
theorem State.runFrag_canonical {g : Guard} {body : Frag → State → Res} (h : s.mem.wf = true)
    (hbody : ∀ f s, s.mem.wf = true → (body f s).Canonical) : Canonical (s.runFrag g body) := by
  unfold State.runFrag
  split
  · exact trivial
  · split
    · exact takePending_wf h
    · split
      · exact trapEntry_wf h
      · exact ite_outcome h (runOwn_wf h (fun x s h => hbody _ _ h))

theorem State.goto_canonical {x : Frag} {target : Nat} {s' : State} (h1 : s'.mem.wf = true) :
    (s.goto x target s').Canonical := by
  unfold State.goto
  split
  · exact trivial
  · exact h1

theorem State.beamDone_canonical {b : Beam} (h : s.mem.wf = true) : (s.beamDone b).Canonical := h

end

end Sys2Proof.Machine
end

section
/-! Memory keeps its canonical form: the accesses of the memory instructions, which write through translations or in a window. -/

namespace Sys2Proof.Machine

section
open State

variable {s : State}

/-! ### A lane's access, and several in turn (R62, R220, R428) -/

theorem State.migWait_wf {x : Frag} {k : Acc} {i : Instr} {ls : List (Nat × Int)} (h : s.mem.wf = true) :
    (s.migWait x k i ls).mem.wf = true :=
  ite_wf h h

theorem State.access_canonical {x : Frag} {k : Acc} {i : Instr} {ls : List (Nat × Int)} {go : Res}
    (h : s.mem.wf = true) (hgo : go.Canonical) : (s.access x k i ls go).Canonical := by
  unfold State.access
  split
  · exact trivial
  · split
    · exact hgo
    · exact migWait_wf h

theorem execMigrationWaitExpiry_canonical {b : BeamKey} {e : Nat} (h : s.mem.wf = true) :
    Canonical (execMigrationWaitExpiry b e s) := by
  unfold execMigrationWaitExpiry
  split
  · exact h
  · extract_lets y
    split
    · refine ite_outcome ?_ h
      extract_lets hi f
      split
      · exact takePending_wf h
      · exact trapEntry_wf h
    · exact h

theorem State.laneNote_wf {x : Frag} {k : Acc} {a : Nat} (h : s.mem.wf = true) :
    (s.laneNote x k a).mem.wf = true := by
  unfold State.laneNote
  split
  · split
    · exact ite_wf h h
    · exact h
  · split
    · exact h
    · extract_lets t s1
      have hs1 : s1.mem.wf = true := xlNoteAs_wf h ..
      clear_value t
      split
      · exact ite_wf hs1 (coreReadNote_wf hs1)
      · exact hs1

theorem State.newest_wf {c : CohortKey} {a n : Nat} (h : s.mem.wf = true) : (s.newest c a n).mem.wf = true :=
  ite_wf h h

theorem State.spadPut_wf {c : Cohort} {a : Nat} {bs : List Byte} (h : s.mem.wf = true) :
    (s.spadPut c a bs).mem.wf = true :=
  newest_wf h

theorem State.laneWrite_wf {x : Frag} {k : Acc} {a : Nat} {bs : List Byte} (h : s.mem.wf = true) :
    (s.laneWrite x k a bs).mem.wf = true := by
  unfold State.laneWrite
  split
  · split
    · exact spadPut_wf h
    · exact h
  · split
    · exact h
    · extract_lets s1
      have hs1 : s1.mem.wf = true := ite_wf (xlNote_wf h ..) h
      split
      · exact ite_wf (pageWrite_wf hs1) (ite_wf (writeBytes_wf hs1 ..) (writeBytes_wf hs1 ..))
      · exact hs1

theorem State.memrec_wf {x : Frag} {k : Acc} {ls : List (Nat × Int)} (h : s.mem.wf = true) :
    (s.memrec x k ls).mem.wf = true :=
  ite_wf h (packet_wf h)

theorem State.dval_wf {x : Frag} {k : Acc} {a old new : Nat} (h : s.mem.wf = true) :
    (s.dval x k a old new).mem.wf = true :=
  ite_wf (packet_wf h) h

theorem State.lanePut_wf {x : Frag} {k : Acc} {a v : Nat} (h : s.mem.wf = true) : (s.lanePut x k a v).mem.wf = true :=
  dval_wf (laneWrite_wf (laneNote_wf h))

theorem State.catchUp_wf {k : BeamKey} (h : s.mem.wf = true) : (s.catchUp k).mem.wf = true := by
  unfold State.catchUp
  split <;> exact h

theorem State.acquire_wf {x : Frag} {acq : Bool} {sc : Scope} (h : s.mem.wf = true) :
    (s.acquire x acq sc).mem.wf = true :=
  ite_wf (modCore_wf (ite_wf (catchUp_wf h) h) ..) (ite_wf (catchUp_wf h) h)

theorem State.delivered_wf {by_ : BeamKey} {c : Cohort} {off : Nat} {bs : List Byte} (h : s.mem.wf = true) :
    (s.delivered by_ c off bs).mem.wf = true := by
  unfold State.delivered
  extract_lets t
  have ht : t.mem.wf = true := winData_wf h
  split
  · exact ht
  · exact ite_wf ht ht

theorem State.deliver_wf {r : Req} {off : Nat} {bs : List Byte} (h : s.mem.wf = true) :
    (s.deliver r off bs).mem.wf = true := by
  unfold State.deliver
  split
  · exact delivered_wf h
  · exact h

/-! ### Loads, stores, atomics, fences and the tag table (R227 to R244) -/

theorem State.notes_wf {x : Frag} {k : Acc} {ls : List (Nat × Int)} (h : s.mem.wf = true) :
    (s.notes x k ls).mem.wf = true :=
  foldl_wf (fun _ _ h => laneNote_wf h) h

theorem State.sendV_wf {x : Frag} {t : Ty} {d : Reg} {f : Nat → Nat} {ready : Arrival}
    {take : optParam (Option LoadTake) none} (h : s.mem.wf = true) : (s.sendV x t d f ready take).mem.wf = true := by
  unfold State.sendV
  split <;> exact h

theorem State.sendS_wf {x : Frag} {t : Ty} {d : Reg} {v : Nat} {ready : Arrival}
    {take : optParam (Option LoadTake) none} (h : s.mem.wf = true) : (s.sendS x t d v ready take).mem.wf = true := by
  unfold State.sendS
  split <;> exact h

theorem State.raise_wf {k : BeamKey} {f : Flags} (h : s.mem.wf = true) : (s.raise k f).mem.wf = true := by
  unfold State.raise
  split <;> exact h

theorem State.load_canonical {i : Instr} {spad acq : Bool} {sc : Scope} {t : Ty} {d : Reg} {m : MemArg}
    (h : s.mem.wf = true) : Canonical (s.load i spad acq sc t d m) :=
  runFrag_canonical h fun _ _ h => access_canonical h
      (memrec_wf (sendV_wf (acquire_wf (notes_wf h))))

theorem execLdu_canonical {sp : Bool} {sc : Scope} {t : Ty} {d : Reg} {m : MemArg} (h : s.mem.wf = true) :
    Canonical (execLdu sp sc t d m s) :=
  runFrag_canonical h fun _ _ h => access_canonical h
      (memrec_wf (sendS_wf (notes_wf h)))

theorem State.storeAll_wf {x : Frag} {k : Acc} {f : Nat → Nat} {ls : List (Nat × Int)} (h : s.mem.wf = true) :
    (s.storeAll x k f ls).mem.wf = true :=
  foldl_wf (fun _ _ h => lanePut_wf h) h

theorem State.store_canonical {i : Instr} {spad rel : Bool} {sc : Scope} {t : Ty} {d : StSrc} {m : MemArg}
    (h : s.mem.wf = true) : Canonical (s.store i spad rel sc t d m) :=
  runFrag_canonical h fun _ _ h => ite_canonical h (access_canonical h
      (memrec_wf (raise_wf (storeAll_wf h))))

theorem execStu_canonical {sp : Bool} {sc : Scope} {t : Ty} {d : Reg} {m : MemArg} (h : s.mem.wf = true) :
    Canonical (execStu sp sc t d m s) :=
  runFrag_canonical h fun _ _ h => access_canonical h
      (memrec_wf (raise_wf (storeAll_wf h)))

theorem State.atomLane_wf {x : Frag} {k : Acc} {op : AtomOp} {t : Ty} {f y : Nat → Nat} {l : Nat × Int}
    (h : s.mem.wf = true) : (s.atomLane x k op t f y l).1.mem.wf = true :=
  ite_wf (laneNote_wf h) (laneWrite_wf (laneNote_wf h))

theorem State.atomAll_wf {x : Frag} {k : Acc} {op : AtomOp} {t : Ty} {f y : Nat → Nat} {ls : List (Nat × Int)}
    (h : s.mem.wf = true) : (s.atomAll x k op t f y ls).1.mem.wf = true := by
  induction ls generalizing s with
  | nil => exact h
  | cons l ls ih => exact ih (atomLane_wf h)

theorem State.dvals_wf {x : Frag} {k : Acc} {op : AtomOp} {t : Ty} {f y old : Nat → Nat} {ls : List (Nat × Int)}
    (h : s.mem.wf = true) : (s.dvals x k op t f y old ls).mem.wf = true :=
  foldl_wf (fun _ _ h => ite_wf h (dval_wf h)) h

theorem State.atomic_canonical {i : Instr} {spad : Bool} {op : AtomOp} {o : AOrd} {nr : Bool} {sc : Scope} {t : Ty}
    {d : Reg} {a : VArg} {b : VArgI} (h : s.mem.wf = true) : Canonical (s.atomic i spad op o nr sc t d a b) :=
  runFrag_canonical h fun _ _ h => ite_canonical h (access_canonical h
      (memrec_wf (ite_wf (acquire_wf (raise_wf (dvals_wf (atomAll_wf h))))
      (sendV_wf (acquire_wf (raise_wf (dvals_wf (atomAll_wf h))))))))

theorem execAtomu_canonical {op : AtomOp} {o : AOrd} {sp : Bool} {sc : Scope} {t : Ty} {d : Reg} {a : SArg}
    {b : SArgI} (h : s.mem.wf = true) : Canonical (execAtomu op o sp sc t d a b s) :=
  runFrag_canonical h fun _ _ h => ite_canonical h (access_canonical h
      (memrec_wf (sendS_wf (acquire_wf (raise_wf (dvals_wf (atomAll_wf h)))))))

theorem execChunk_canonical {d a : Reg} (h : s.mem.wf = true) : Canonical (execChunk d a s) := by
  unfold execChunk
  refine runFrag_canonical h fun x s h => ?_
  extract_lets k ls ready put
  clear_value ls
  split
  · exact sendS_wf (sendS_wf h)
  · extract_lets m f c s1 s2
    have hs1 : s1.mem.wf = true := laneNote_wf h
    have hs2 : s2.mem.wf = true := by
      unfold s2
      clear_value c
      split
      · exact laneWrite_wf hs1
      · exact hs1
    exact access_canonical h (sendS_wf (sendS_wf hs2))

theorem execFence_canonical {o : FOrd} {sc : Scope} (h : s.mem.wf = true) : Canonical (execFence o sc s) := by
  unfold execFence
  refine runFrag_canonical h fun x s h => ?_
  extract_lets rel acq
  refine ite_canonical ?_ (acquire_wf h)
  split <;> exact h

theorem State.sleep_wf {x : Frag} {w : Wait} (h : s.mem.wf = true) : (s.sleep x w).mem.wf = true := by
  unfold State.sleep
  split <;> exact h

theorem execWaitv_canonical {cmp : Cmp} {acq sp : Bool} {sc : Scope} {t : Ty} {d : Reg} {a b : SArg}
    (h : s.mem.wf = true) : Canonical (execWaitv cmp acq sp sc t d a b s) :=
  runFrag_canonical h fun _ _ h => ite_canonical (memrec_wf (acquire_wf h))
      (ite_canonical h (access_canonical h (ite_canonical
      (sendS_wf (acquire_wf (ite_wf (notes_wf h)
      (memrec_wf (raise_wf (notes_wf h))))))
      (sleep_wf (ite_wf (notes_wf h) (memrec_wf (raise_wf (notes_wf h))))))))

theorem State.wake_wf {b : BeamKey} {e : Nat} {kind : WaitKind} {ok : Wait → Bool} (h : s.mem.wf = true) :
    (s.wake b e kind ok).mem.wf = true := by
  unfold State.wake
  split
  · exact h
  · extract_lets mine at_
    split
    · exact ite_wf h h
    · exact h

theorem execCflush_canonical {sc : Scope} {m : MemArg} (h : s.mem.wf = true) : Canonical (execCflush sc m s) := by
  unfold execCflush
  refine runFrag_canonical h fun x s h => ite_canonical h ?_
  extract_lets ls
  split
  · exact ite_canonical h h
  · exact ite_canonical h (sleep_wf (flush_wf h))

theorem execCinv_canonical {sc : Scope} {m : MemArg} (h : s.mem.wf = true) : Canonical (execCinv sc m s) :=
  runFrag_canonical h fun _ _ h => ite_wf (foldl_wf (fun _ _ h => modCore_wf h ..) h) h

theorem execPref_canonical {sc : Scope} {m : MemArg} (h : s.mem.wf = true) : Canonical (execPref sc m s) :=
  runFrag_canonical h fun _ _ h => ite_canonical h (modCore_wf h ..)

theorem State.tagOp_canonical {d a : Reg} {f : List TagEntry → Nat → List TagEntry × Option Nat} (h : s.mem.wf = true)
    : Canonical (s.tagOp d a f) := by
  unfold State.tagOp
  refine runFrag_canonical h fun x s h => ?_
  extract_lets t
  refine ite_canonical trivial ?_
  split
  · exact h
  · exact ite_canonical (sendS_wf h) (sendS_wf h)

end

end Sys2Proof.Machine
end

section
/-! Memory keeps its canonical form: the instructions that change beams, barriers and registers; what they write of memory is what
a trap or a fault writes of a queue. -/

namespace Sys2Proof.Machine

section
open State

variable {s : State}

/-! ### Branches, calls and traps (R141 to R152, R425) -/

theorem State.laterAll_wf {k : BeamKey} {js : List Returned} (h : s.mem.wf = true) :
    (s.laterAll k js).mem.wf = true :=
  foldl_wf (fun _ _ h => later_wf h) h

theorem execHdr_canonical {hdr : Header} (h : s.mem.wf = true) : Canonical (execHdr hdr s) := by
  unfold execHdr
  refine runFrag_canonical h fun x s h => ite_canonical trivial ?_
  split
  · exact laterAll_wf (rcvPackets_wf h)
  · exact h

theorem execBra_canonical {off : BitVec 22} (h : s.mem.wf = true) : Canonical (execBra off s) :=
  runFrag_canonical h fun _ _ h => goto_canonical h

theorem State.past_canonical {x : Frag} (h : s.mem.wf = true) : (s.past x).Canonical := later_wf h

theorem State.branch_canonical {x : Frag} {zeroNext : Bool} {off : Int} {s' : State} (h1 : s'.mem.wf = true) :
    (s.branch x zeroNext off s').Canonical :=
  ite_canonical (past_canonical h1) (goto_canonical h1)

theorem execBrs_canonical {u : Disp} {k : BitVec 3} {t f n : BitVec 16} (h : s.mem.wf = true) :
    Canonical (execBrs u k t f n s) := by
  unfold execBrs
  refine runFrag_canonical h fun x s h => ?_
  split
  · exact trivial
  · extract_lets s'
    have hs' : s'.mem.wf = true := brPacket_wf h
    split <;> exact branch_canonical hs'

theorem execBrv_canonical {u : Disp} {c : BitVec 4} {t f n : BitVec 16} (h : s.mem.wf = true) :
    Canonical (execBrv u c t f n s) := by
  refine runFrag_canonical h fun x s h => ite_canonical trivial ?_
  extract_lets ps packet
  have hpacket (t : State) (ht : t.mem.wf = true) : (packet t).mem.wf = true := brPacket_wf ht
  clear_value ps packet
  split
  · exact trivial
  · split
    · exact past_canonical (hpacket s h)
    · exact ite_canonical (past_canonical (hpacket s h)) (hpacket s h)
    · split
      · exact trivial
      · split
        · exact trivial
        · exact foldl_wf (fun s e h => later_wf h) (hpacket _ h)

theorem execJmpi_canonical {a : SArg} (h : s.mem.wf = true) : Canonical (execJmpi a s) :=
  runFrag_canonical h fun _ _ h => ite_canonical trivial
      (ite_canonical trivial (goto_canonical (jmpPacket_wf h)))

theorem execCall_canonical {off : BitVec 22} (h : s.mem.wf = true) : Canonical (execCall off s) :=
  runFrag_canonical h fun _ _ h => ite_canonical trivial (goto_canonical h)

theorem execRet_canonical (h : s.mem.wf = true) : Canonical (execRet s) := by
  unfold execRet
  refine runFrag_canonical h fun x s h => ?_
  split
  · exact trivial
  · exact goto_canonical h

theorem execBdec_canonical {n : BitVec 6} {off : BitVec 16} (h : s.mem.wf = true) : Canonical (execBdec n off s) :=
  runFrag_canonical h fun _ _ h => ite_canonical (past_canonical (brPacket_wf h))
      (ite_canonical (goto_canonical (brPacket_wf h)) (past_canonical (brPacket_wf h)))

theorem execNop_canonical (h : s.mem.wf = true) : Canonical (execNop s) := runFrag_canonical h fun _ _ h => h

theorem execYield_canonical (h : s.mem.wf = true) : Canonical (execYield s) :=
  runFrag_canonical h fun _ _ h => ite_canonical h (beamDone_canonical h)

theorem execBrk_canonical {tag : BitVec 16} (h : s.mem.wf = true) : Canonical (execBrk tag s) :=
  runFrag_canonical h fun _ _ _ => trivial

theorem execTrap_canonical {code : BitVec 16} (h : s.mem.wf = true) : Canonical (execTrap code s) :=
  runFrag_canonical h fun _ _ _ => trivial

theorem execEret_canonical {skip : Bool} (h : s.mem.wf = true) : Canonical (execEret skip s) := by
  unfold execEret
  refine runFrag_canonical h fun x s h => ?_
  split
  · exact h
  · split
    · exact later_wf (rcvPackets_wf h)

theorem execDelay_canonical {a : SArgI} (h : s.mem.wf = true) : Canonical (execDelay a s) :=
  runFrag_canonical h fun _ _ h => ite_canonical h h

theorem execGets_canonical {d : GReg} {sp : Reg} (h : s.mem.wf = true) : Canonical (execGets d sp s) := by
  unfold execGets
  split <;> exact runFrag_canonical h fun x s h => ite_canonical h (beamDone_canonical h)

theorem execSets_canonical {sp : Reg} {a : SetSrc} (h : s.mem.wf = true) : Canonical (execSets sp a s) := by
  unfold execSets
  extract_lets sp1 w
  refine runFrag_canonical h fun x s h => ?_
  extract_lets f
  refine ite_canonical h (ite_canonical (beamDone_canonical h) ?_)
  refine ite_canonical ?_ (beamDone_canonical h)
  split <;> exact h

theorem execDelayExpiry_canonical {b : BeamKey} {e : Nat} (h : s.mem.wf = true) :
    Canonical (execDelayExpiry b e s) := by
  unfold execDelayExpiry
  split
  · exact h
  · split
    · exact ite_outcome h h
    · exact h

theorem execAgingPromotion_canonical {b : BeamKey} {e : Nat} (h : s.mem.wf = true) :
    Canonical (execAgingPromotion b e s) := by
  unfold execAgingPromotion
  split
  · exact h
  · exact ite_outcome h h

/-! ### An issue (R128, R353) -/

theorem State.fetchedNote_wf {b : Beam} {e words : Nat} (h : s.mem.wf = true) :
    (s.fetchedNote b e words).mem.wf = true := by
  unfold State.fetchedNote
  split
  · exact h
  · exact ite_wf h (foldl_wf (fun s a h => fetchNote_wf h) h)

theorem State.noteIssue_wf {b : Beam} {e : Nat} {i : Instr} {op : Nat} (h : s.mem.wf = true) :
    (s.noteIssue b e i op).mem.wf = true := by
  rw [State.noteIssue, State.modCore_mem]
  exact h

theorem State.ready_wf {b : Beam} {e : Nat} {i : Instr} {r : Raw} {words : Nat} (h : s.mem.wf = true) :
    (s.ready b e i r words).mem.wf = true :=
  ite_wf (fetchedNote_wf h) (noteIssue_wf (fetchedNote_wf h))

theorem State.fetchTrap_wf {b : Beam} {e words : Nat} {t : Trap} (h : s.mem.wf = true) :
    (s.fetchTrap b e words t).mem.wf = true := by
  unfold State.fetchTrap
  extract_lets pc x
  split
  · exact takePending_wf h
  · exact trapEntry_wf h

/-! ### Retirement and width changes (R92 to R95, R347) -/

theorem State.leaveAll_wf {b : Beam} (h : s.mem.wf = true) : (s.leaveAll b).mem.wf = true := by
  unfold State.leaveAll
  split <;> exact h

theorem execGnew_canonical {d : Reg} (h : s.mem.wf = true) : Canonical (execGnew d s) := by
  unfold execGnew
  refine runFrag_canonical h fun x s h => ?_
  extract_lets none_
  have hnone_ : none_.Canonical := beamDone_canonical h
  split
  · exact hnone_
  · split
    · exact hnone_
    · exact ite_canonical hnone_ h

theorem execGjoin_canonical {d a : Reg} (h : s.mem.wf = true) : Canonical (execGjoin d a s) := by
  unfold execGjoin
  refine runFrag_canonical h fun x s h => ?_
  extract_lets ends
  split
  · exact beamDone_canonical h
  · exact ite_canonical (beamDone_canonical h) (ite_canonical (beamDone_canonical h)
      (beamDone_canonical h))

theorem execGleave_canonical {d a : Reg} (h : s.mem.wf = true) : Canonical (execGleave d a s) := by
  unfold execGleave
  refine runFrag_canonical h fun x s h => ?_
  extract_lets ends
  split
  · exact beamDone_canonical h
  · exact ite_canonical (beamDone_canonical h) (beamDone_canonical h)

theorem State.retire_wf {k : BeamKey} (h : s.mem.wf = true) : (s.retire k).mem.wf = true := by
  unfold State.retire
  split
  · exact h
  · exact leaveAll_wf h

theorem State.afterExit_wf {k : BeamKey} (h : s.mem.wf = true) : (s.afterExit k).mem.wf = true := by
  unfold State.afterExit
  split
  · exact h
  · exact ite_wf h (ite_wf h (retire_wf h))

theorem State.takeSlot_wf {c : CohortKey} {slot : Nat} (h : s.mem.wf = true) : (s.takeSlot c slot).mem.wf = true := by
  unfold State.takeSlot
  split
  · exact ite_wf h h
  · exact h

theorem State.joinAll_wf {b upper : Beam} (h : s.mem.wf = true) : (s.joinAll b upper).mem.wf = true := by
  unfold State.joinAll
  split <;> exact h

theorem State.splitBeam_wf {x : Frag} {d : Reg} {slot : Nat} (h : s.mem.wf = true) :
    (s.splitBeam x d slot).mem.wf = true :=
  ite_wf (retire_wf (ite_wf (retire_wf (joinAll_wf h)) (takeSlot_wf (joinAll_wf h))))
      (ite_wf (retire_wf (joinAll_wf h)) (takeSlot_wf (joinAll_wf h)))

theorem execBsplit_canonical {d : Reg} (h : s.mem.wf = true) : Canonical (execBsplit d s) := by
  unfold execBsplit
  refine runFrag_canonical h fun x s h => ?_
  extract_lets fail
  refine ite_canonical (beamDone_canonical h) (ite_canonical (beamDone_canonical h) ?_)
  refine ite_canonical (beamDone_canonical h) ?_
  split
  · exact beamDone_canonical h
  · exact ite_canonical (beamDone_canonical h) (splitBeam_wf h)

theorem State.fuseEnds_wf {k : BeamKey} {e next : Nat} {d : Reg} {code : Nat} (h : s.mem.wf = true) :
    (s.fuseEnds k e next d code).mem.wf = true := by
  unfold State.fuseEnds
  split <;> exact h

theorem State.fusePair_wf {x : Frag} {d : Reg} {y : Beam} {ye : Nat} {yd : Reg} {yw : Wait} (h : s.mem.wf = true) :
    (s.fusePair x d y ye yd yw).mem.wf = true := by
  unfold State.fusePair
  extract_lets ypc ynext mine lower upper
  split
  · exact fuseEnds_wf (fuseEnds_wf h)
  · exact retire_wf h

theorem execBfuse_canonical {d : Reg} (h : s.mem.wf = true) : Canonical (execBfuse d s) := by
  unfold execBfuse
  refine runFrag_canonical h fun x s h => ?_
  extract_lets fail met
  split
  · clear_value met
    split
    · exact fusePair_wf h
    · exact h
  · refine ite_canonical (beamDone_canonical h) (ite_canonical (beamDone_canonical h) ?_)
    refine ite_canonical (beamDone_canonical h) ?_
    clear_value met
    split
    · exact beamDone_canonical h
    · exact fusePair_wf h
    · exact ite_canonical (beamDone_canonical h) h

theorem execFuseWindowExpiry_canonical {b : BeamKey} (h : s.mem.wf = true) :
    Canonical (execFuseWindowExpiry b s) := by
  unfold execFuseWindowExpiry
  split
  · exact h
  · split
    · exact ite_outcome (fuseEnds_wf h) h
    · exact h

/-! ### Barriers (R274 to R280, R372) -/

theorem State.putBar_wf {c : CohortKey} {off : Nat} {b : Bar} (h : s.mem.wf = true) :
    (s.putBar c off b).mem.wf = true :=
  winPut_wf h

theorem State.marksOver_wf {c : CohortKey} {off : Nat} (h : s.mem.wf = true) : (s.marksOver c off).mem.wf = true := by
  unfold State.marksOver
  split
  · exact ite_wf h h
  · exact h

theorem State.barChanged_wf {c : CohortKey} {off : Nat} {b : Bar} (h : s.mem.wf = true) :
    (s.barChanged c off b).mem.wf = true :=
  ite_wf (marksOver_wf (putBar_wf h)) (putBar_wf h)

theorem State.acquirePhase_wf {k : BeamKey} {off : Nat} (h : s.mem.wf = true) :
    (s.acquirePhase k off).mem.wf = true := by
  unfold State.acquirePhase
  split
  · exact h
  · extract_lets s1
    have hs1 : s1.mem.wf = true := catchUp_wf h
    split
    · exact ite_wf hs1 hs1
    · exact hs1

theorem State.orphaned_wf {core : Nat} {o : Orphan} (h : s.mem.wf = true) : (s.orphaned core o).mem.wf = true :=
  modCore_wf h ..

theorem State.barFault_wf {id kind index : Nat} (h : s.mem.wf = true) : (s.barFault id kind index).mem.wf = true := by
  unfold State.barFault
  split
  · exact h
  · exact ite_wf (orphaned_wf h) (putBar_wf h)

theorem State.barRefuse_wf {r : Req} {n : Nat} (h : s.mem.wf = true) : (s.barRefuse r n).mem.wf = true :=
  barFault_wf h

theorem State.barCount_wf {id n : Nat} (h : s.mem.wf = true) : (s.barCount id n).mem.wf = true := by
  unfold State.barCount
  split
  · exact h
  · refine ite_wf (orphaned_wf h) ?_
    split
    · exact barRefuse_wf h
    · exact barChanged_wf h

theorem State.barArrive_wf {id : Nat} (h : s.mem.wf = true) : (s.barArrive id).mem.wf = true := by
  unfold State.barArrive
  split
  · exact h
  · exact ite_wf (orphaned_wf h) (barChanged_wf h)

theorem State.reqFlags_wf {id : Nat} (h : s.mem.wf = true) : (s.reqFlags id).mem.wf = true := by
  unfold State.reqFlags
  split
  · exact h
  · exact raise_wf h

theorem State.onBar_canonical {x : Frag} {acc : Access} {off : Nat} {go : Bar → Res} (hgo : ∀ b, (go b).Canonical) :
    (s.onBar x acc off go).Canonical := by
  unfold State.onBar
  split
  · exact trivial
  · exact ite_canonical (hgo _) trivial

theorem execBinit_canonical {grp : Bool} {a : SArg} {b : SArgI} (h : s.mem.wf = true) :
    Canonical (execBinit grp a b s) := by
  unfold execBinit
  refine runFrag_canonical h fun x s h => ?_
  extract_lets off c
  refine ite_canonical h ?_
  split
  · exact trivial
  · split
    · exact trivial
    · refine ite_canonical trivial ?_
      split <;> exact h

theorem execBarv_canonical {a : Reg} (h : s.mem.wf = true) : Canonical (execBarv a s) :=
  runFrag_canonical h fun _ _ h => ite_canonical h (onBar_canonical
      (fun _ => ite_canonical trivial (barChanged_wf h)))

theorem execBexp_canonical {a : SArg} {b : SArgI} {c : Option SArg} (h : s.mem.wf = true) :
    Canonical (execBexp a b c s) := by
  unfold execBexp
  refine runFrag_canonical h fun x s h => ?_
  extract_lets off n q
  refine ite_canonical h ?_
  refine onBar_canonical fun b1 => ite_canonical h ?_
  refine ite_canonical trivial (ite_canonical h ?_)
  refine ite_canonical trivial ?_
  split
  · exact trivial
  · exact barChanged_wf h

theorem execBinv_canonical {a : Reg} (h : s.mem.wf = true) : Canonical (execBinv a s) := by
  unfold execBinv
  refine runFrag_canonical h fun x s h => ?_
  extract_lets off c
  refine ite_canonical h ?_
  split
  · exact trivial
  · split <;> exact putBar_wf h

theorem State.replayTrap_canonical {x : Frag} {off : Nat} {go : Res} (h : s.mem.wf = true) (hgo : go.Canonical) :
    (s.replayTrap x off go).Canonical := by
  unfold State.replayTrap
  split
  · exact ite_canonical h (trapEntry_wf h)
  · exact hgo

theorem State.bwaitEnds_canonical {x : Frag} {d : Reg} {off phase : Nat} (h : s.mem.wf = true) :
    (s.bwaitEnds x d off phase).Canonical :=
  acquirePhase_wf h

theorem State.bwaitCheck_canonical {x : Frag} {d a : Reg} {off : Nat} (h : s.mem.wf = true) :
    (s.bwaitCheck x d a off).Canonical :=
  onBar_canonical fun _ => ite_canonical trivial (replayTrap_canonical h
      (ite_canonical (bwaitEnds_canonical h) (sleep_wf h)))

theorem execBwait_canonical {d a : Reg} (h : s.mem.wf = true) : Canonical (execBwait d a s) := by
  unfold execBwait
  refine runFrag_canonical h fun x s h => ?_
  extract_lets off
  split
  · exact ite_canonical (bwaitCheck_canonical h) (ite_canonical h
      (ite_canonical trivial (ite_canonical (bwaitCheck_canonical h)
      (replayTrap_canonical h (bwaitEnds_canonical h)))))
  · exact ite_canonical (beamDone_canonical h) (bwaitCheck_canonical h)

theorem execBtest_canonical {d a : Reg} (h : s.mem.wf = true) : Canonical (execBtest d a s) := by
  refine runFrag_canonical h fun x s h => ?_
  refine ite_canonical h (onBar_canonical fun b => ?_)
  have hs : (if (b.phase != ((x.b.sreg d.toNat).toNat) % 2 && (b.st == 1 || b.st == 3)) = true then
      (s.setBeam (x.putS d b.word)).acquirePhase x.b.key (x.b.sreg a.toNat).toNat else s.setBeam
          (x.putS d b.word)).mem.wf = true :=
    ite_wf (acquirePhase_wf h) h
  exact ite_canonical (modCore_wf (putBar_wf hs) ..) hs

/-! ### Scalar instructions (R168 to R178) -/

theorem State.scalar_canonical {d : Reg} {uses : List Use} {f : Frag → Coded} (h : s.mem.wf = true) :
    Canonical (s.scalar d uses f) :=
  runFrag_canonical h fun _ _ h => beamDone_canonical h

theorem State.scalar2_canonical {t : STy} {d : Reg} {a : SArg} {b : SArgI} {f : Nat → Nat → Coded}
    (h : s.mem.wf = true) : Canonical (s.scalar2 t d a b f) :=
  scalar_canonical h

theorem State.scalarInt_canonical {t : STy} {d : Reg} {a : SArg} {b : SArgI} {op : Int → Int → Int}
    (h : s.mem.wf = true) : Canonical (s.scalarInt t d a b op) :=
  scalar2_canonical h

theorem State.scalarBits_canonical {d : Reg} {a : SArg} {b : SArgI} {op : Nat → Nat → Nat} (h : s.mem.wf = true) :
    Canonical (s.scalarBits d a b op) :=
  scalar2_canonical h

theorem execSmin_canonical {t : STy} {d : Reg} {a : SArg} {b : SArgI} (h : s.mem.wf = true) :
    Canonical (execSmin t d a b s) :=
  scalarInt_canonical h

theorem execSmax_canonical {t : STy} {d : Reg} {a : SArg} {b : SArgI} (h : s.mem.wf = true) :
    Canonical (execSmax t d a b s) :=
  scalarInt_canonical h

theorem execScmp_canonical {c : Cmp} {t : STy} {d : Reg} {a : SArg} {b : SArgI} (h : s.mem.wf = true) :
    Canonical (execScmp c t d a b s) :=
  runFrag_canonical h fun _ _ h => beamDone_canonical h

theorem execKlog_canonical {op : LogOp} {d a b : Reg} (h : s.mem.wf = true) : Canonical (execKlog op d a b s) :=
  runFrag_canonical h fun _ _ h => beamDone_canonical h

theorem execSfill_canonical {t : STy} {d : Reg} {a : SArg} {b : SArgI} (h : s.mem.wf = true) :
    Canonical (execSfill t d a b s) :=
  scalar2_canonical h

theorem execStov_canonical {t : Ty} {d : Reg} {a : SArg} (h : s.mem.wf = true) : Canonical (execStov t d a s) :=
  runFrag_canonical h fun _ _ h => beamDone_canonical h

theorem execVtos_canonical {t : Ty} {d : Reg} {a : VArg} {l : LaneSel} (h : s.mem.wf = true) :
    Canonical (execVtos t d a l s) := by
  unfold execVtos
  refine runFrag_canonical h fun x s h => ?_
  split
  · exact h

/-! ### Vector instructions (R180 to R205) -/

theorem State.vec1_canonical {dw : Bool} {t : Ty} {d : Reg} {a : VArgI} {f : Nat → Coded} (h : s.mem.wf = true) :
    Canonical (s.vec1 dw t d a f) :=
  runFrag_canonical h fun _ _ h => beamDone_canonical h

theorem State.vec2_canonical {dw : Bool} {ta tb : Ty} {d : Reg} {a : VArg} {b : VArgI} {f : Nat → Nat → Coded}
    (h : s.mem.wf = true) : Canonical (s.vec2 dw ta tb d a b f) :=
  runFrag_canonical h fun _ _ h => beamDone_canonical h

theorem State.vec3_canonical {dw : Bool} {ta tb tc : Ty} {d : Reg} {a : VArg} {b : VArgI} {c : VArg}
    {f : Nat → Nat → Nat → Coded} (h : s.mem.wf = true) : Canonical (s.vec3 dw ta tb tc d a b c f) :=
  runFrag_canonical h fun _ _ h => beamDone_canonical h

theorem State.vecCmp_canonical {c : Cmp} {t : Ty} {d : Reg} {a : VArg} {b : VArgI} (h : s.mem.wf = true) :
    Canonical (s.vecCmp c t d a b) :=
  runFrag_canonical h fun _ _ h => beamDone_canonical h

theorem State.int1_canonical {t : Ty} {d : Reg} {a : VArgI} {op : Int → Int} (h : s.mem.wf = true) :
    Canonical (s.int1 t d a op) :=
  vec1_canonical h

theorem State.int2_canonical {t : Ty} {d : Reg} {a : VArg} {b : VArgI} {op : Int → Int → Int} (h : s.mem.wf = true) :
    Canonical (s.int2 t d a b op) :=
  vec2_canonical h

theorem State.bits2_canonical {t : Ty} {d : Reg} {a : VArg} {b : VArgI} {op : Nat → Nat → Nat} (h : s.mem.wf = true) :
    Canonical (s.bits2 t d a b op) :=
  vec2_canonical h

theorem State.float2_canonical {t : Ty} {r : Rnd} {d : Reg} {a : VArg} {b : VArgI} {op : Num → Num → Num × Bool}
    (h : s.mem.wf = true) : Canonical (s.float2 t r d a b op) :=
  vec2_canonical h

theorem execImad_canonical {t : Ty} {d : Reg} {a : VArg} {b : VArgI} {c : VArg} (h : s.mem.wf = true) :
    Canonical (execImad t d a b c s) :=
  vec3_canonical h

theorem execImulh_canonical {t : Ty} {d : Reg} {a : VArg} {b : VArgI} (h : s.mem.wf = true) :
    Canonical (execImulh t d a b s) :=
  int2_canonical h

theorem execImin_canonical {t : Ty} {d : Reg} {a : VArg} {b : VArgI} (h : s.mem.wf = true) :
    Canonical (execImin t d a b s) :=
  int2_canonical h

theorem execImax_canonical {t : Ty} {d : Reg} {a : VArg} {b : VArgI} (h : s.mem.wf = true) :
    Canonical (execImax t d a b s) :=
  int2_canonical h

theorem execIabs_canonical {t : Ty} {d : Reg} {a : VArgI} (h : s.mem.wf = true) : Canonical (execIabs t d a s) :=
  int1_canonical h

theorem execNot_canonical {t : Ty} {d : Reg} {a : VArgI} (h : s.mem.wf = true) : Canonical (execNot t d a s) :=
  vec1_canonical h

theorem movIdx_canonical {t : Ty} {d a : Reg} {ea : Bool} {b : VOp} {x : Frag} (h : s.mem.wf = true) :
    (movIdx t d a ea b x s).Canonical := by
  unfold movIdx
  extract_lets ix rs bad regs gone
  clear_value bad
  clear_value gone
  split
  · exact trivial
  · exact ite_canonical trivial h
  · exact beamDone_canonical h

theorem execMov_canonical {t : Ty} {d : Reg} {a : MovSrc} (h : s.mem.wf = true) : Canonical (execMov t d a s) := by
  unfold execMov
  split
  · exact vec1_canonical h
  · exact runFrag_canonical h fun x s h => movIdx_canonical h

theorem execFadd_canonical {t : Ty} {r : Rnd} {d : Reg} {a : VArg} {b : VArgI} (h : s.mem.wf = true) :
    Canonical (execFadd t r d a b s) :=
  float2_canonical h

theorem execFsub_canonical {t : Ty} {r : Rnd} {d : Reg} {a : VArg} {b : VArgI} (h : s.mem.wf = true) :
    Canonical (execFsub t r d a b s) :=
  float2_canonical h

theorem execFfma_canonical {t : Ty} {r : Rnd} {d : Reg} {a : VArg} {b : VArgI} {c : VArg} (h : s.mem.wf = true) :
    Canonical (execFfma t r d a b c s) :=
  vec3_canonical h

theorem execFmin_canonical {t : Ty} {d : Reg} {a : VArg} {b : VArgI} (h : s.mem.wf = true) :
    Canonical (execFmin t d a b s) :=
  vec2_canonical h

theorem execFmax_canonical {t : Ty} {d : Reg} {a : VArg} {b : VArgI} (h : s.mem.wf = true) :
    Canonical (execFmax t d a b s) :=
  vec2_canonical h

theorem execFclass_canonical {d : Reg} {a : VArgI} (h : s.mem.wf = true) : Canonical (execFclass d a s) :=
  vec1_canonical h

theorem execFdot2_canonical {t : Ty} {r : Rnd} {d : Reg} {a : VArg} {b : VArgI} {c : VArg} (h : s.mem.wf = true) :
    Canonical (execFdot2 t r d a b c s) :=
  vec3_canonical h

theorem execPfma_canonical {t : Ty} {r : Rnd} {d : Reg} {a : VArg} {b : VArgI} {c : VArg} (h : s.mem.wf = true) :
    Canonical (execPfma t r d a b c s) :=
  vec3_canonical h

theorem execPadd_canonical {t : Ty} {r : Rnd} {d : Reg} {a : VArg} {b : VArgI} (h : s.mem.wf = true) :
    Canonical (execPadd t r d a b s) :=
  vec2_canonical h

theorem execFscale_canonical {t : Ty} {r : Rnd} {d : Reg} {a : VArg} {b : VArgI} (h : s.mem.wf = true) :
    Canonical (execFscale t r d a b s) :=
  vec2_canonical h

theorem execFrnd_canonical {t : Ty} {r : Rnd} {d : Reg} {a : VArgI} (h : s.mem.wf = true) :
    Canonical (execFrnd t r d a s) :=
  vec1_canonical h

theorem State.special_canonical {fn : SFn} {t : Ty} {r : Rnd} {d : Reg} {a : VArgI} (h : s.mem.wf = true) :
    Canonical (s.special fn t r d a) :=
  runFrag_canonical h fun _ _ h => h

theorem execPack_canonical {f : Fmt} {sat : Bool} {t : Ty} {p : BitVec 2} {r : Rnd} {d : Reg} {a : VArg} {b : VArgI}
    (h : s.mem.wf = true) : Canonical (execPack f sat t p r d a b s) :=
  runFrag_canonical h fun _ _ h => beamDone_canonical h

theorem execUnpk_canonical {t : Ty} {f : Fmt} {e : BitVec 3} {r : Rnd} {d : Reg} {a : VArgI} (h : s.mem.wf = true) :
    Canonical (execUnpk t f e r d a s) :=
  runFrag_canonical h fun _ _ h => beamDone_canonical h

/-! ### Instructions across lanes (R206 to R216) -/

theorem execPres_canonical {t : Ty} {d : Reg} {a : VArgI} (h : s.mem.wf = true) : Canonical (execPres t d a s) :=
  runFrag_canonical h fun _ _ h => beamDone_canonical h

theorem execFill_canonical {t : Ty} {d : Reg} {a : VArg} {b : VArgI} (h : s.mem.wf = true) :
    Canonical (execFill t d a b s) :=
  vec2_canonical h

theorem execMkab_canonical {t : Ty} {d : Reg} {a : VArg} {c : Reg} (h : s.mem.wf = true) :
    Canonical (execMkab t d a c s) :=
  runFrag_canonical h fun _ _ h => beamDone_canonical h

theorem execTsel_canonical {t : Ty} {d : Reg} {a : VArg} {b : VArgI} {c : Reg} (h : s.mem.wf = true) :
    Canonical (execTsel t d a b c s) :=
  runFrag_canonical h fun _ _ h => beamDone_canonical h

theorem execTlog_canonical {op : LogOp} {d a b : Reg} (h : s.mem.wf = true) : Canonical (execTlog op d a b s) :=
  runFrag_canonical h fun _ _ h => beamDone_canonical h

theorem execTval_canonical {t : Ty} {d a : Reg} (h : s.mem.wf = true) : Canonical (execTval t d a s) :=
  runFrag_canonical h fun _ _ h => beamDone_canonical h

theorem execShfl_canonical {m : ShMode} {t : Ty} {d : Reg} {a : VArg} {b : VArgI} (h : s.mem.wf = true) :
    Canonical (execShfl m t d a b s) :=
  runFrag_canonical h fun _ _ h => beamDone_canonical h

theorem execPrm_canonical {t : Ty} {d : Reg} {a : VArg} {b : VArgI} {c : VArg} (h : s.mem.wf = true) :
    Canonical (execPrm t d a b c s) :=
  runFrag_canonical h fun _ _ h => beamDone_canonical h

theorem execVote_canonical {kind : VoteKind} {d a : Reg} (h : s.mem.wf = true) : Canonical (execVote kind d a s) :=
  runFrag_canonical h fun _ _ h => beamDone_canonical h

theorem execBallot_canonical {d a : Reg} (h : s.mem.wf = true) : Canonical (execBallot d a s) :=
  runFrag_canonical h fun _ _ h => h

theorem execLaneMatch_canonical {all : Bool} {t : Ty} {d : Reg} {a : VArgI} (h : s.mem.wf = true) :
    Canonical (execLaneMatch all t d a s) :=
  runFrag_canonical h fun _ _ h => ite_canonical (beamDone_canonical h) (beamDone_canonical h)

theorem execElect_canonical {d : Reg} {a : Option Reg} (h : s.mem.wf = true) : Canonical (execElect d a s) :=
  runFrag_canonical h fun _ _ h => beamDone_canonical h

theorem State.reduce_canonical {op : RedOp} {cnt : Bool} {t : Ty} {d : Reg} {a : VArgI} {upTo : Nat → Nat → Nat}
    (h : s.mem.wf = true) : Canonical (s.reduce op cnt t d a upTo) :=
  runFrag_canonical h fun _ _ h => beamDone_canonical h

theorem execRed_canonical {op : RedOp} {cnt : Bool} {t : Ty} {d : Reg} {a : VArgI} (h : s.mem.wf = true) :
    Canonical (execRed op cnt t d a s) :=
  reduce_canonical h

theorem execScan_canonical {op : RedOp} {cnt : Bool} {t : Ty} {d : Reg} {a : VArgI} (h : s.mem.wf = true) :
    Canonical (execScan op cnt t d a s) :=
  reduce_canonical h

end

end Sys2Proof.Machine
end

section
/-! Memory keeps its canonical form: bursts of the engines, collectives, and control images. -/

namespace Sys2Proof.Machine

section
open State

variable {s : State}

/-! ### What a burst writes (R280, R456) -/

theorem State.engPut_wf {r : Req} {win : Bool} {a : Int} {b : Byte} (h : s.mem.wf = true) :
    (s.engPut r win a b).mem.wf = true := by
  unfold State.engPut
  refine ite_wf (deliver_wf h) ?_
  split
  · exact ite_wf (modCore_wf (writeBytes_wf h _ _ _ _) ..)
      (modCore_wf (writeBytes_wf h _ _ _ _) ..)
  · exact h

theorem State.engWrite_wf {r : Req} {win : Bool} {old : Option Byte} {a : Wr} (h : s.mem.wf = true) :
    (s.engWrite r win old a).mem.wf = true := by
  unfold State.engWrite
  split
  · exact foldl_wf (fun s a h => engPut_wf h) h
  · exact engPut_wf h

theorem State.engWrites_wf {r : Req} {win : Bool} {olds : List Byte} {ws : List Wr} {seen : List Int}
    (h : s.mem.wf = true) : (s.engWrites r win olds ws seen).mem.wf = true := by
  induction ws generalizing s olds seen with
  | nil => exact h
  | cons w ws ih => exact ih (engWrite_wf h)

theorem State.engNotes_wf {core : Nat} {c : CohortKey} {win write : Bool} {as : List Int} (h : s.mem.wf = true) :
    (s.engNotes core c win write as).mem.wf = true := by
  unfold State.engNotes
  refine ite_wf h ?_
  refine foldl_wf (fun s a h => ?_) ?_
  · split
    · exact ite_wf (xlNote_wf h ..) h
    · exact h
  · exact h

/-! ### Copies, handler reads and their faults (R262 to R281) -/

theorem execMapld_canonical {d : Reg} {sp : Bool} {a : Reg} (h : s.mem.wf = true) :
    Canonical (execMapld d sp a s) := by
  unfold execMapld
  refine runFrag_canonical h fun x s h => ?_
  extract_lets v
  refine ite_canonical h ?_
  split
  · exact trivial
  · split
    · exact trivial
    · split <;> exact notes_wf h

theorem State.engBarrier_canonical {x : Frag} {off : Nat} {go : Res} (h : s.mem.wf = true) (hgo : go.Canonical) :
    (s.engBarrier x off go).Canonical := by
  unfold State.engBarrier
  refine ite_canonical h ?_
  split
  · exact trivial
  · exact hgo

theorem execCpy_canonical {st : Bool} {map : BitVec 4} {ch : BitVec 3} {sc : Scope} {d a b : Reg}
    (h : s.mem.wf = true) : Canonical (execCpy st map ch sc d a b s) := by
  unfold execCpy
  extract_lets slot
  refine runFrag_canonical h fun x s h => ?_
  extract_lets off image
  refine engBarrier_canonical h (ite_canonical h ?_)
  split
  · exact trivial
  · extract_lets m coords
    split
    · exact trivial
    · exact ite_canonical trivial (ite_canonical trivial (ite_canonical trivial (ite_canonical h h)))

theorem State.wpAdd_wf {core ch n : Nat} (h : s.mem.wf = true) : (s.wpAdd core ch n).mem.wf = true :=
  modCore_wf h ..

theorem State.burstNotes_wf {x : Xfer} {es : List (Nat × Nat)} {reads : List Int} (h : s.mem.wf = true) :
    (s.burstNotes x es reads).mem.wf = true :=
  engNotes_wf h

theorem State.engFails_wf {r : Req} {kind : Nat} {go : Req → State} (h : s.mem.wf = true)
    (hgo : ∀ r, (go r).mem.wf = true) : (s.engFails r kind go).mem.wf = true := by
  unfold State.engFails
  refine ite_wf (hgo _) ?_
  split
  · exact h
  · exact ite_wf h (hgo _)

theorem State.loadBurst_wf {r : Req} {image ch k : Nat} (h : s.mem.wf = true) :
    (s.loadBurst r image ch k).mem.wf = true := by
  unfold State.loadBurst
  extract_lets x p es aux
  split
  · exact engFails_wf h fun r1 => h
  · exact ite_wf (deliver_wf (burstNotes_wf h)) (wpAdd_wf
      (deliver_wf (burstNotes_wf h)))

theorem State.storeFails_wf {r : Req} {p : TMap.Piece} {kind : Nat} (h : s.mem.wf = true) :
    (s.storeFails r p kind).mem.wf = true :=
  ite_wf h (engWrites_wf h)

theorem State.storeBurst_wf {r : Req} {image k : Nat} (h : s.mem.wf = true) :
    (s.storeBurst r image k).mem.wf = true := by
  unfold State.storeBurst
  extract_lets x p es aux
  split
  · exact engFails_wf h fun r1 => storeFails_wf h
  · split
    · exact h
    · split
      · split
        · exact h
        · exact ite_wf h h
      · extract_lets olds read
        clear_value read
        split
        · exact h
        · exact engWrites_wf (engNotes_wf (burstNotes_wf h))

theorem State.reqEnds_wf {id : Nat} (h : s.mem.wf = true) : (s.reqEnds id).mem.wf = true := by
  unfold State.reqEnds
  split
  · exact h
  · exact ite_wf h h

theorem State.readBurst_wf {r : Req} {k : Nat} (h : s.mem.wf = true) : (s.readBurst r k).mem.wf = true := by
  unfold State.readBurst
  extract_lets x p es
  refine ite_wf h ?_
  split
  · exact engFails_wf h fun r1 => h
  · exact reqEnds_wf (barCount_wf (burstNotes_wf h))
  · split
    · exact engFails_wf h fun r1 => h
    · exact reqFlags_wf (burstNotes_wf h)

theorem execCopyBurst_canonical {core req burst : Nat} (h : s.mem.wf = true) :
    Canonical (execCopyBurst core req burst s) := by
  unfold execCopyBurst
  split
  · exact h
  · refine ite_outcome h ?_
    split
    · exact ite_outcome h (ite_outcome (storeBurst_wf h) (loadBurst_wf h))
    · exact ite_wf h (readBurst_wf h)
    · exact h

theorem State.countAndEnd_wf {id n : Nat} (h : s.mem.wf = true) : (s.countAndEnd id n).mem.wf = true := by
  unfold State.countAndEnd
  extract_lets s1
  have hs1 : s1.mem.wf = true := barCount_wf h
  split
  · exact ite_wf hs1 hs1
  · exact hs1

theorem execCopyComplete_canonical {core req : Nat} (h : s.mem.wf = true) :
    Canonical (execCopyComplete core req s) := by
  unfold execCopyComplete
  split
  · exact h
  · split
    · exact ite_outcome (countAndEnd_wf (reqFlags_wf (ite_wf (wpAdd_wf h) h))) h
    · exact h

theorem State.copyFault_wf {r : Req} {st : Bool} {ch k kind : Nat} (h : s.mem.wf = true) :
    (s.copyFault r st ch k kind).mem.wf = true := by
  unfold State.copyFault
  extract_lets n rest s1 s2
  have hs1 : s1.mem.wf = true := reqFlags_wf (wpAdd_wf h)
  have hs2 : s2.mem.wf = true := ite_wf (barCount_wf hs1) hs1
  split
  · exact hs2
  · exact ite_wf hs2 (barFault_wf hs2)

theorem execEngineFault_canonical {core req : Nat} (h : s.mem.wf = true) :
    Canonical (execEngineFault core req s) := by
  unfold execEngineFault
  split
  · exact h
  · refine ite_outcome h ?_
    split
    · split
      · exact ite_wf h (copyFault_wf h)
      · exact h
      · exact h
    · split
      · exact barFault_wf h
      · exact h
      · exact h
    · exact barFault_wf h

theorem State.restartReq_wf {r : Req} (h : s.mem.wf = true) : (s.restartReq r).mem.wf = true := by
  unfold State.restartReq
  extract_lets s1 s2
  have hs1 : s1.mem.wf = true := h
  have hs2 : s2.mem.wf = true := hs1
  split
  · exact ite_wf (ite_wf hs2 (barCount_wf hs2)) (ite_wf hs2 (barCount_wf hs2))
  · exact ite_wf hs2 (barCount_wf hs2)

theorem State.rearm_wf {c : CohortKey} {off : Nat} (h : s.mem.wf = true) : (s.rearm c off).mem.wf = true :=
  ite_wf (barChanged_wf h) h

theorem State.resumeReqs_canonical {a : Reg} {eng : Nat} (h : s.mem.wf = true) : Canonical (s.resumeReqs a eng) :=
  runFrag_canonical h fun _ _ h => engBarrier_canonical h
      (ite_canonical h (foldl_wf (fun _ _ h => restartReq_wf h) (rearm_wf h)))

theorem execChwait_canonical {ch : BitVec 3} {a : Reg} (h : s.mem.wf = true) : Canonical (execChwait ch a s) :=
  runFrag_canonical h fun _ _ h => ite_canonical h (ite_canonical (catchUp_wf h)
      (ite_canonical h (sleep_wf h)))

/-! ### Collectives (R291 to R293, R402) -/

theorem State.collSpoiled_wf {r : Req} {kind : CollKind} {f : Fmt} {o : CollOp} (h : s.mem.wf = true) :
    (s.collSpoiled r kind f o).mem.wf = true :=
  deliver_wf h

theorem State.collFault_wf {id kind : Nat} (h : s.mem.wf = true) : (s.collFault id kind).mem.wf = true := by
  unfold State.collFault
  split
  · exact h
  · split
    · exact ite_wf h (barFault_wf (collSpoiled_wf (ite_wf h h)))
    · exact h

theorem State.collSend_wf {id vfn : Nat} {p : Partition} {o : CollOp} {devs : List Nat} {data : List Byte}
    (h : s.mem.wf = true) : (s.collSend id vfn p o devs data).mem.wf = true := by
  unfold State.collSend
  refine foldl_wf (fun s a h => ?_) ?_
  · refine foldl_wf (fun s a h => ?_) ?_
    · exact transmit_wf h
    · exact h
  · exact h

theorem State.collStart_wf {id : Nat} {kind : CollKind} {op : RedOp} {fast cnt : Bool} {f : Fmt} {g : LinkGroup}
    {p : Partition} (h : s.mem.wf = true) : (s.collStart id kind op fast cnt f g p).mem.wf = true := by
  unfold State.collStart
  split
  · exact h
  · extract_lets a o s1
    have hs1 : s1.mem.wf = true := h
    refine ite_wf (collFault_wf hs1) (ite_wf (barFault_wf hs1) ?_)
    refine ite_wf (collFault_wf hs1) (ite_wf (collFault_wf (collSend_wf hs1)) ?_)
    split <;> exact collSend_wf hs1

theorem execColl_canonical {kind : CollKind} {op : RedOp} {fast cnt : Bool} {f : Fmt} {sc : Scope} {a b : Reg}
    (h : s.mem.wf = true) : Canonical (execColl kind op fast cnt f sc a b s) := by
  unfold execColl
  refine runFrag_canonical h fun x s h => ?_
  extract_lets bar
  refine engBarrier_canonical h (ite_canonical h ?_)
  split
  · exact collFault_wf h
  · exact collStart_wf h

theorem execCollComplete_canonical {core req : Nat} (h : s.mem.wf = true) :
    Canonical (execCollComplete core req s) := by
  unfold execCollComplete
  split
  · exact h
  · split
    · exact ite_outcome h (ite_outcome (collFault_wf h)
        (countAndEnd_wf (reqFlags_wf (deliver_wf (deliver_wf h)))))
    · exact h

theorem State.collDeliver_wf {g : LinkGroup} {op rank : Nat} {head : List Nat} {data : List Byte}
    (h : s.mem.wf = true) : (s.collDeliver g op rank head data).mem.wf = true := by
  unfold State.collDeliver
  split
  · split
    · exact ite_wf (collFault_wf h) h
    · exact h
  · exact ite_wf h h

/-! ### Beam control images (R329, R331) -/

theorem execCtxsv_canonical {a : Reg} (h : s.mem.wf = true) : Canonical (execCtxsv a s) := by
  unfold execCtxsv
  refine runFrag_canonical h fun x s h => ?_
  extract_lets p
  split
  · exact h
  · exact ite_canonical h (access_canonical h (foldl_wf
      (fun s1 a1 h1 => laneWrite_wf (laneNote_wf h1)) h))

theorem execCtxld_canonical {a : Reg} (h : s.mem.wf = true) : Canonical (execCtxld a s) := by
  unfold execCtxld
  refine runFrag_canonical h fun x s h => ?_
  extract_lets p
  split
  · exact h
  · refine ite_canonical h (access_canonical h ?_)
    split
    · exact trivial
    · exact beamDone_canonical (notes_wf h)

end

end Sys2Proof.Machine
end

section
/-! Memory keeps its canonical form: rings, queues, save records, the scheduler and the commands. -/

namespace Sys2Proof.Machine

section
open State

variable {s : State}

/-! ### Rings (R245 to R251, R400) -/

theorem State.ringNotes_wf {core ctx a n : Nat} (h : s.mem.wf = true) : (s.ringNotes core ctx a n).mem.wf = true := by
  unfold State.ringNotes
  split
  · exact foldl_wf (fun s a1 h => xlNote_wf h ..) h
  · exact h

theorem State.spPut_wf {sp : Space} {a : Nat} {bs : List Byte} (h : s.mem.wf = true) :
    (s.spPut sp a bs).mem.wf = true := by
  unfold State.spPut
  split
  · exact winData_wf h
  · refine foldl_wf (fun s a h => ?_) ?_
    · split
      · exact writeByte_wf h
      · exact h
    · exact ringNotes_wf h

theorem State.ringPut_wf {r : RingDesc} {seq : Nat} {data : List Byte} (h : s.mem.wf = true) :
    (s.ringPut r seq data).mem.wf = true :=
  spPut_wf (spPut_wf (spPut_wf (ite_wf h (spPut_wf h))))

theorem State.append_wf {sp : Space} {d seq : Nat} {data : List Byte} (h : s.mem.wf = true) :
    (s.append sp d seq data).1.mem.wf = true := by
  unfold State.append
  split
  · exact h
  · exact ite_fst_wf (ringPut_wf h) h

theorem State.msendDone_canonical {x : Frag} {d : Reg} {code : Nat} (h : s.mem.wf = true) :
    (s.msendDone x d code).Canonical :=
  sendS_wf h

theorem State.msendAway_wf {x : Frag} {d : Reg} {dev vc : Nat} {handle : DWord} {seq : Nat} {data : List Byte}
    (h : s.mem.wf = true) : (s.msendAway x d dev vc handle seq data).mem.wf = true := by
  unfold State.msendAway
  split
  · exact h
  · exact transmit_wf h

theorem State.msendWindow_canonical {x : Frag} {d : Reg} {handle : DWord} {dev kernel cohort off : Nat}
    {data : List Byte} (h : s.mem.wf = true) : (s.msendWindow x d handle dev kernel cohort off data).Canonical := by
  unfold State.msendWindow
  extract_lets q s1
  have hs1 : s1.mem.wf = true := h
  refine ite_canonical (ite_canonical (msendAway_wf hs1) (msendDone_canonical hs1)) ?_
  split
  · exact msendDone_canonical hs1
  · exact ite_canonical (msendDone_canonical hs1) (msendDone_canonical (append_wf hs1))

theorem State.msendMem_canonical {x : Frag} {d : Reg} {i : Instr} {handle : DWord} {va : Nat} {data : List Byte}
    (h : s.mem.wf = true) : (s.msendMem x d i handle va data).Canonical := by
  unfold State.msendMem
  split
  · exact h
  · extract_lets sp q ls
    refine access_canonical h ?_
    split
    · exact msendDone_canonical (laneNote_wf h)
    · exact ite_canonical (access_canonical h (ite_canonical
        (access_canonical h (msendDone_canonical (ringPut_wf (laneNote_wf h))))
        (msendDone_canonical (laneNote_wf h)))) (msendDone_canonical (laneNote_wf h))

theorem execMsend_canonical {d : Reg} {a b : SArg} (h : s.mem.wf = true) : Canonical (execMsend d a b s) := by
  unfold execMsend
  refine runFrag_canonical h fun x s h => ?_
  extract_lets h1 p n
  refine ite_canonical (beamDone_canonical h) (ite_canonical trivial ?_)
  split
  · exact trivial
  · split
    · exact trivial
    · split
      · exact trivial
      · split
        · exact trivial
        · exact msendWindow_canonical h
      · exact msendMem_canonical h

theorem State.consume_canonical {x : Frag} {i : Instr} {off : Nat} {go : State → RingDesc → Res} (h : s.mem.wf = true)
    (hgo : ∀ s r, s.mem.wf = true → (go s r).Canonical) : (s.consume x i off go).Canonical := by
  unfold State.consume
  split
  · exact trivial
  · split
    · exact trivial
    · split
      · exact trivial
      · exact hgo _ _ h
  · split
    · exact h
    · refine access_canonical h ?_
      extract_lets s1
      have hs1 : s1.mem.wf = true := laneNote_wf h
      split
      · exact trivial
      · exact access_canonical h (ite_canonical (hgo _ _ (notes_wf hs1)) trivial)

theorem State.putHead_wf {r : RingDesc} {head : Nat} (h : s.mem.wf = true) : (s.putHead r head).mem.wf = true :=
  ite_wf h (spPut_wf h)

theorem State.moveHead_canonical {x : Frag} {i : Instr} {r : RingDesc} {head : Nat} {go : State → Res}
    (h : s.mem.wf = true) (hgo : ∀ s, s.mem.wf = true → (go s).Canonical) : (s.moveHead x i r head go).Canonical := by
  unfold State.moveHead
  split
  · exact hgo _ (putHead_wf h)
  · exact ite_canonical (hgo _ h) (access_canonical h (hgo _ (putHead_wf h)))

theorem State.polled_canonical {x : Frag} {i : Instr} {d : Reg} {r : RingDesc} (h : s.mem.wf = true) :
    (s.polled x i d r).Canonical := by
  unfold State.polled
  exact moveHead_canonical h fun s1 h1 => ite_canonical (sendS_wf h1)
      (sendS_wf (acquire_wf h1))

theorem execMpoll_canonical {d a : Reg} (h : s.mem.wf = true) : Canonical (execMpoll d a s) :=
  runFrag_canonical h fun _ _ h => ite_canonical (beamDone_canonical h)
      (consume_canonical h (fun _ _ h => polled_canonical h))

theorem execMwait_canonical {d : Reg} {a b : SArg} (h : s.mem.wf = true) : Canonical (execMwait d a b s) :=
  runFrag_canonical h fun _ _ h => ite_canonical (beamDone_canonical h)
      (ite_canonical h (consume_canonical h (fun _ _ h => ite_canonical (polled_canonical h)
      (sleep_wf h))))

theorem execMpop_canonical {d a : Reg} (h : s.mem.wf = true) : Canonical (execMpop d a s) :=
  runFrag_canonical h fun _ _ h => ite_canonical (beamDone_canonical h)
      (consume_canonical h (fun _ _ h => ite_canonical (sendS_wf h)
      (moveHead_canonical h (fun _ h1 => sendS_wf h1))))

/-! ### Accesses from outside the cores, and appends to queues (R167, R336, R381) -/

theorem State.ioUnit_wf {who : Writer} {v : Via} {x : Context} {va : Nat} {bs : List Byte} (h : s.mem.wf = true) :
    (s.ioUnit who v x va bs).mem.wf = true := by
  unfold State.ioUnit
  split
  · exact ite_wf (ite_wf (pageWrite_wf h) h) (ite_wf (writeBytes_wf h ..)
      (ite_wf (flush_wf (writeBytes_wf h ..)) (writeBytes_wf h ..)))
  · exact h

theorem State.ioWrite_wf {who : Writer} {v : Via} {x : Context} {va : Nat} {bs : List Byte} (h : s.mem.wf = true) :
    (s.ioWrite who v x va bs).mem.wf = true :=
  foldl_wf (fun _ _ h => ioUnit_wf h) h

theorem State.ioNotes_wf {v : Via} {x : Context} {va n : Nat} {write : Bool} (h : s.mem.wf = true) :
    (s.ioNotes v x va n write).mem.wf = true :=
  foldl_wf (fun _ _ h => xlNote_wf h ..) h

theorem State.queueAppend_wf {device : Bool} {num : Nat} {owned : Queue → Bool} {rcd : List Byte}
    (h : s.mem.wf = true) : (s.queueAppend device num owned rcd).1.mem.wf = true := by
  unfold State.queueAppend
  split
  · exact h
  · refine ite_fst_wf h (ite_fst_wf h ?_)
    split
    · exact h
    · refine ite_fst_wf h (ite_fst_wf h ?_)
      refine ite_fst_wf h ?_
      extract_lets bs at_ s1
      have hs1 : s1.mem.wf = true := ioWrite_wf (ioNotes_wf h)
      dsimp only
      exact putQueue_wf hs1

theorem execLaunch_canonical {d : Reg} {a b : SArg} (h : s.mem.wf = true) : Canonical (execLaunch d a b s) := by
  unfold execLaunch
  refine runFrag_canonical h fun x s h => ?_
  extract_lets q p
  refine ite_canonical (beamDone_canonical h) (access_canonical h ?_)
  split <;> exact queueAppend_wf (notes_wf h)

/-! ### Save records (R325, R326) -/

theorem State.saveBeam_wf {at_ : Nat} {l : Launch} {k : SavedBeam} {t : Nat} {b : Beam} (h : s.mem.wf = true) :
    (s.saveBeam at_ l k t b).mem.wf = true :=
  foldl_wf (fun _ _ h => writeBytes_wf h ..) (foldl_wf (fun _ _ h => writeBytes_wf h ..)
      (writeBytes_wf (writeBytes_wf (writeBytes_wf h _ _ _ _) _ _ _ _) ..))

theorem State.saveOrphans_wf {c : Cohort} (h : s.mem.wf = true) : (s.saveOrphans c).mem.wf = true :=
  foldl_wf (fun _ _ h => ite_wf (putBar_wf h) h) (modCore_wf h ..)

theorem State.saveRecord_wf {k : Kernel} {c : Cohort} {at_ : Nat} {bs : List Beam} (h : s.mem.wf = true) :
    (s.saveRecord k c at_ bs).mem.wf = true :=
  writeBytes_wf (writeBytes_wf (foldl_wf (fun _ _ h => saveBeam_wf h)
      (writeBytes_wf (writeBytes_wf (writeBytes_wf h _ _ _ _) _ _ _ _) ..)) _ _ _ _) _ _ _ _

/-! ### The scheduler (R97, R100, R323, R347 to R350, R418) -/

theorem State.placeCohort_wf {k : Kernel} {sp : Spot} {save : Nat × Nat} (h : s.mem.wf = true) :
    (s.placeCohort k sp save).mem.wf = true :=
  modCore_wf h sp.core _

theorem State.evict_wf {k : CohortKey} (h : s.mem.wf = true) : (s.evict k).mem.wf = true := by
  unfold State.evict
  split
  · exact ite_wf h h
  · exact h

theorem State.evictFor_wf {w : Work} {l : Launch} {quads : List Nat} {ks : List CohortKey} {core : Nat} {tied : Bool}
    (h : s.mem.wf = true) : (s.evictFor w l quads ks core tied).mem.wf = true :=
  foldl_wf (fun _ _ h => evict_wf h) h

theorem State.makeRoom_wf {w : Work} {p : Partition} {l : Launch} {quads : List Nat} (h : s.mem.wf = true) :
    (s.makeRoom w p l quads).mem.wf = true := by
  unfold State.makeRoom
  refine ite_wf h ?_
  extract_lets best
  clear_value best
  split
  · exact evictFor_wf h
  · exact h

theorem execCohortPlace_canonical {kernel core : Nat} (h : s.mem.wf = true) :
    Canonical (execCohortPlace kernel core s) := by
  unfold execCohortPlace
  split
  · exact h
  · split
    · exact h
    · refine ite_outcome h ?_
      split
      · exact ite_wf (placeCohort_wf h) h
      · exact ite_wf (makeRoom_wf h) h

theorem State.holdStop_wf {n : Nat} {b : Beam} (h : s.mem.wf = true) : (s.holdStop n b).mem.wf = true := ite_wf h h

theorem State.park_wf {k : Kernel} {c : Cohort} {at_ : Nat} (h : s.mem.wf = true) :
    (s.park k c at_).mem.wf = true := by
  unfold State.park
  extract_lets s1 s2 bs saved s3
  have hs1 : s1.mem.wf = true := by
    unfold s1
    split
    · exact foldl_wf (fun s a h => holdStop_wf h) h
    · exact h
  have hs2 : s2.mem.wf = true := by
    unfold s2
    split
    · exact respond_wf hs1
    · exact hs1
  have hs3 : s3.mem.wf = true := saveOrphans_wf hs2
  split
  · exact hs3
  · exact settleContext_wf (cohortsGone_wf (ite_wf (saveRecord_wf hs3) (saveRecord_wf hs3)))

theorem execEvictionSave_canonical {c : CohortKey} (h : s.mem.wf = true) : Canonical (execEvictionSave c s) := by
  unfold execEvictionSave
  split
  · refine ite_outcome h ?_
    split
    · exact park_wf h
    · exact respond_wf (foldl_wf (fun s a h => holdStop_wf h) h)
    · exact h
  · exact h

theorem State.restoreAt_wf {k : Kernel} {c : Cohort} {at_ : Nat} {sp : Spot} (h : s.mem.wf = true) :
    (s.restoreAt k c at_ sp).mem.wf = true := by
  unfold State.restoreAt
  extract_lets old
  split
  · exact kernelFault_wf h
  · exact foldl_wf (fun s a h => putBar_wf h) (modCore_wf h ..)

theorem execCohortRestore_canonical {c : CohortKey} {core : Nat} (h : s.mem.wf = true) :
    Canonical (execCohortRestore c core s) := by
  unfold execCohortRestore
  split
  · split
    · refine ite_outcome h ?_
      split
      · exact ite_wf (restoreAt_wf h) h
      · exact ite_wf (makeRoom_wf h) h
    · exact h
  · exact h

theorem execWakeRecheck_canonical {c : CohortKey} (h : s.mem.wf = true) : Canonical (execWakeRecheck c s) := by
  unfold execWakeRecheck
  split
  · exact h
  · exact ite_outcome h h

theorem execExchange_canonical {victim woken : CohortKey} (h : s.mem.wf = true) :
    Canonical (execExchange victim woken s) := by
  unfold execExchange
  split
  · split
    · exact h
    · exact ite_outcome (evictFor_wf h) h
  · exact h

theorem execTimeSliceExpiry_canonical {part : Nat} (h : s.mem.wf = true) :
    Canonical (execTimeSliceExpiry part s) := by
  unfold execTimeSliceExpiry
  split
  · exact h
  · split
    · exact evictFor_wf h
    · exact h

theorem State.complete_wf {k : Kernel} (h : s.mem.wf = true) : (s.complete k).mem.wf = true := queueEnd_wf h

theorem execCohortRetire_canonical {c : CohortKey} (h : s.mem.wf = true) : Canonical (execCohortRetire c s) := by
  unfold execCohortRetire
  split
  · exact h
  · refine ite_outcome h ?_
    extract_lets s1 s2 s3 s4 s5
    have hs1 : s1.mem.wf = true := stopsOver_wf h
    have hs2 : s2.mem.wf = true := foldl_wf (fun s a h => retire_wf h) hs1
    have hs3 : s3.mem.wf = true := hs2
    have hs4 : s4.mem.wf = true := modCore_wf hs3 ..
    have hs5 : s5.mem.wf = true := hs4
    split
    · exact hs5
    · exact settleContext_wf (ite_wf (complete_wf (cohortsGone_wf hs5)) (cohortsGone_wf hs5))

/-! ### Commands (R338 to R344) -/

theorem State.taken_wf {part : Nat} {x : Context} {q : Queue} (h : s.mem.wf = true) :
    (s.taken part x q).mem.wf = true :=
  putQueue_wf (ite_wf h h)

theorem State.blocked_wf {p : Partition} {x : Context} {q : Queue} {r : List Byte} (h : s.mem.wf = true) :
    (s.blocked p x q r).mem.wf = true :=
  ite_wf (makeRoom_wf (putQueue_wf h)) (putQueue_wf h)

theorem State.judgeNotes_wf {x : Context} {q : Queue} {r : List Byte} (h : s.mem.wf = true) :
    (s.judgeNotes x q r).mem.wf = true :=
  ite_wf (ioNotes_wf (ioNotes_wf h)) (ioNotes_wf h)

/-- A command is judged, refused or taken before its own effect. -/
theorem State.command_wf {num ty : Nat} {act : Partition → Context → Queue → List Byte → State → State}
    (h : s.mem.wf = true) (hact : ∀ p c q l s, s.mem.wf = true → (act p c q l s).mem.wf = true) :
    (s.command num ty act).mem.wf = true := by
  unfold State.command
  split
  · exact h
  · split
    · exact h
    · split
      · exact h
      · refine ite_wf h ?_
        split
        · exact queueFault_wf h
        · refine ite_wf h ?_
          extract_lets t
          have ht : t.mem.wf = true := judgeNotes_wf h
          split
          · exact queueFault_wf ht
          · exact blocked_wf ht
          · exact ite_wf (hact _ _ _ _ _ (taken_wf ht)) (ite_wf (putQueue_wf ht) ht)

theorem State.launched_wf {q : Queue} {l : Launch} {n : Nat} {sp : Spot} {save : Nat × Nat} (h : s.mem.wf = true) :
    (s.launched q l n sp save).mem.wf = true :=
  placeCohort_wf h

theorem execLaunchCmd_canonical {q core : Nat} (h : s.mem.wf = true) : Canonical (execLaunchCmd q core s) := by
  unfold execLaunchCmd
  refine command_wf h fun p x q1 l s1 h1 => ?_
  split
  · exact ite_wf (launched_wf h1) h
  · exact h

theorem execCopyCmd_canonical {q : Nat} (h : s.mem.wf = true) : Canonical (execCopyCmd q s) :=
  command_wf h fun _ _ _ _ _ h => h

theorem State.copyFails_wf {q seq : Nat} (h : s.mem.wf = true) : (s.copyFails q seq).mem.wf = true :=
  queueFault_wf h

theorem State.copyWaits_wf {q seq : Nat} {since : Option Nat} {n : Nat} {f : Cmd → Cmd} (h : s.mem.wf = true) :
    (s.copyWaits q seq since n f).mem.wf = true := by
  unfold State.copyWaits
  split
  · exact ite_wf (copyFails_wf h) h
  · exact h

theorem State.cmdEnds_wf {q seq : Nat} (h : s.mem.wf = true) : (s.cmdEnds q seq).mem.wf = true :=
  ite_wf h (queueEnd_wf h)

theorem execCopyCmdComplete_canonical {q seq : Nat} (h : s.mem.wf = true) :
    Canonical (execCopyCmdComplete q seq s) := by
  unfold execCopyCmdComplete
  split
  · exact h
  · split
    · exact copyFails_wf h
    · exact ite_outcome (cmdEnds_wf h) (ite_outcome (copyFails_wf h)
        (ite_outcome (copyWaits_wf h) (ite_outcome (copyWaits_wf h)
        (cmdEnds_wf (ioWrite_wf (ioNotes_wf (ioNotes_wf h)))))))
    · exact h

theorem State.waitCmd_wf {q : Nat} (h : s.mem.wf = true) : (s.waitCmd q).mem.wf = true :=
  command_wf h fun _ _ _ _ _ h => queueEnd_wf h

theorem State.wordWritten_wf {q seq va : Nat} (h : s.mem.wf = true) : (s.wordWritten q seq va).mem.wf = true :=
  ite_wf h (queueEnd_wf h)

theorem execSignal_canonical {q : Nat} (h : s.mem.wf = true) : Canonical (execSignal q s) :=
  command_wf h fun _ _ _ _ _ h => wordWritten_wf
      (ite_wf (ioNotes_wf h) (ioWrite_wf (ioNotes_wf h)))

theorem execTimestamp_canonical {q : Nat} (h : s.mem.wf = true) : Canonical (execTimestamp q s) :=
  command_wf h fun _ _ _ _ _ h => wordWritten_wf (ioWrite_wf (ioNotes_wf h))

theorem execPreempt_canonical {q : Nat} (h : s.mem.wf = true) : Canonical (execPreempt q s) :=
  command_wf h fun _ _ _ _ _ h => ite_wf (queueEnd_wf h) (foldl_wf (fun _ _ h => evict_wf h) h)

theorem execFenceCmd_canonical {q : Nat} (h : s.mem.wf = true) : Canonical (execFenceCmd q s) :=
  command_wf h fun _ _ _ _ _ h => queueEnd_wf h

end

end Sys2Proof.Machine
end

section
/-! Memory keeps its canonical form: what comes from outside the cores: errors, the host's requests, messages and the board. -/

namespace Sys2Proof.Machine

section
open State

variable {s : State}

/-! ### Translation, firmware calls, errors (R332, R381 to R386, R412, R413) -/

theorem State.tlbDrop_wf {core : Nat} {sc : Scope} {drop : TlbEntry → Bool} {walks : WalkEntry → Bool}
    (h : s.mem.wf = true) : (s.tlbDrop core sc drop walks).mem.wf = true := by
  unfold State.tlbDrop
  split <;> exact h

theorem execTlbinv_canonical {sc : Scope} {a : Option Reg} (h : s.mem.wf = true) : Canonical (execTlbinv sc a s) := by
  unfold execTlbinv
  refine runFrag_canonical h fun x s h => ?_
  split
  · exact h
  · split
    · exact tlbDrop_wf h
    · exact ite_canonical h (tlbDrop_wf h)

theorem State.pgset_wf {x : Context} {lvl va e : Nat} (h : s.mem.wf = true) :
    (s.pgset x lvl va e).1.mem.wf = true := by
  unfold State.pgset
  split
  · exact h
  · split
    · exact h
    · exact ite_fst_wf h (ite_fst_wf h (writeNat_wf h ..))

theorem execPgset_canonical {d a b : Reg} {lvl : BitVec 2} (h : s.mem.wf = true) :
    Canonical (execPgset d a b lvl s) := by
  unfold execPgset
  refine runFrag_canonical h fun x s h => ?_
  extract_lets va ends
  have hends : ∀ p, p.1.mem.wf = true → (ends p).Canonical := by
    intro p h1
    unfold ends
    split <;> exact h1
  refine ite_canonical (hends _ h) (ite_canonical (hends _ h) ?_)
  split
  · exact h
  · exact hends _ (pgset_wf h)

theorem execWalkComplete_canonical {core ctx : Nat} {va : Addr} {write : Bool} (h : s.mem.wf = true) :
    Canonical (execWalkComplete core ctx va write s) := by
  unfold execWalkComplete
  split
  · exact h
  · exact ite_outcome (xlNote_wf h ..) h

theorem State.sendNote_wf {v : Nat} (h : s.mem.wf = true) : (s.sendNote v).mem.wf = true := by
  unfold State.sendNote
  split
  · exact h
  · split
    · exact h
    · split
      · exact h
      · exact transmit_wf h

theorem State.notify_wf {x : Context} {value : Nat} (h : s.mem.wf = true) : (s.notify x value).1.mem.wf = true := by
  unfold State.notify
  split
  · exact h
  · exact ite_fst_wf h (ite_wf (sendNote_wf h) h)

theorem execFwcall_canonical {d a : Reg} {fn : BitVec 6} (h : s.mem.wf = true) : Canonical (execFwcall d a fn s) := by
  unfold execFwcall
  refine runFrag_canonical h fun x s h => ?_
  split
  · exact ite_canonical (beamDone_canonical h) h
  · exact sleep_wf h

theorem State.fwAnswer_wf {x : Context} {fn value : Nat} (h : s.mem.wf = true) :
    (s.fwAnswer x fn value).1.mem.wf = true :=
  ite_fst_wf h (ite_fst_wf h (ite_fst_wf (notify_wf h) h))

theorem State.fwEnd_wf {b : BeamKey} {e n : Nat} (h : s.mem.wf = true) : (s.fwEnd b e n).mem.wf = true := by
  unfold State.fwEnd
  split <;> exact h

theorem execFwcallAnswer_canonical {b : BeamKey} {e : Nat} (h : s.mem.wf = true) :
    Canonical (execFwcallAnswer b e s) := by
  unfold execFwcallAnswer
  split
  · exact h
  · split
    · split
      · exact ite_outcome h (fwEnd_wf (fwAnswer_wf h))
      · exact h
    · exact h

theorem execFwcallTimeout_canonical {b : BeamKey} {e : Nat} (h : s.mem.wf = true) :
    Canonical (execFwcallTimeout b e s) := by
  unfold execFwcallTimeout
  split
  · exact ite_wf (fwEnd_wf h) h
  · exact h

theorem State.hwError_wf {code unit at_ : Nat} (h : s.mem.wf = true) : (s.hwError code unit at_).mem.wf = true :=
  ite_wf h h

theorem State.hwPend_wf {k : BeamKey} {pc unit n : Nat} {lanes : Mask} (h : s.mem.wf = true) :
    (s.hwPend k pc unit n lanes).mem.wf = true := by
  unfold State.hwPend
  split
  · exact h
  · exact ite_wf (kernelFault_wf h) (ite_wf h h)

theorem State.returned_wf {f : Fill} {lanes : Mask} (h : s.mem.wf = true) : (s.returned f lanes).mem.wf = true :=
  hwPend_wf (hwError_wf h)

theorem execRegisterFill_canonical {b : BeamKey} {n : Nat} {err : Mask} (h : s.mem.wf = true) :
    Canonical (execRegisterFill b n err s) := by
  unfold execRegisterFill
  split
  · exact ite_outcome h (ite_wf h (returned_wf h))
  · exact h

theorem execCongestionLevelChange_canonical {region level : Nat} (h : s.mem.wf = true) :
    Canonical (execCongestionLevelChange region level s) := by
  unfold execCongestionLevelChange
  refine foldl_wf (fun s a h => ?_) ?_
  · split
    · exact modCore_wf h ..
    · exact h
  · exact h

/-! ### Management requests (R319 to R322, R333, R385, R401, R417) -/

theorem State.tookNext_wf {f : From} (h : s.mem.wf = true) : (s.tookNext f).mem.wf = true := h

/-- A message has an effect only where it is the next of its flow and admitted. -/
theorem State.arriving_wf {f : From} {typ : Nat} {p : Option Partition} {go : State → State} (h : s.mem.wf = true)
    (hgo : ∀ s, s.mem.wf = true → (go s).mem.wf = true) : (s.arriving f typ p go).mem.wf = true := by
  unfold State.arriving
  refine ite_wf h ?_
  extract_lets s1
  have hs1 : s1.mem.wf = true := tookNext_wf h
  exact ite_wf hs1 (ite_wf hs1 (ite_wf (hgo _ hs1) (respond_wf hs1)))

theorem State.request_wf {f : From} {go : State → State × Nat × Nat} (h : s.mem.wf = true)
    (hgo : ∀ s, s.mem.wf = true → (go s).1.mem.wf = true) : (s.request f go).mem.wf = true :=
  arriving_wf h fun _ h => respond_wf (hgo _ h)

theorem State.refuse_wf {code : Nat} (h : s.mem.wf = true) : (s.refuse code).1.mem.wf = true := h

theorem State.owned_wf {f : From} {ctx : Nat} {go : Context → State × Nat × Nat} (h : s.mem.wf = true)
    (hgo : ∀ c, (go c).1.mem.wf = true) : (s.owned f ctx go).1.mem.wf = true := by
  unfold State.owned
  split
  · exact refuse_wf h
  · exact ite_fst_wf (hgo _) (refuse_wf h)

theorem execCreate_canonical {f : From} {world root handler save savesz : Nat} (h : s.mem.wf = true) :
    Canonical (execCreate f world root handler save savesz s) := by
  unfold execCreate
  refine request_wf h fun s h => ?_
  split
  · exact refuse_wf h
  · exact refuse_wf h
  · exact ite_fst_wf (refuse_wf h) (ite_fst_wf (refuse_wf h) h)

theorem State.modQueues_wf {ctx : Nat} {g : Queue → Queue} (h : s.mem.wf = true) :
    (s.modQueues ctx g).mem.wf = true :=
  foldl_wf (fun _ _ h => putQueue_wf h) h

theorem execStop_canonical {f : From} {ctx : Nat} (h : s.mem.wf = true) : Canonical (execStop f ctx s) :=
  request_wf h fun _ h => owned_wf h (fun _ => ite_fst_wf (refuse_wf h)
      (settleContext_wf (foldl_wf (fun _ _ h => evict_wf h) (modQueues_wf h))))

theorem execResume_canonical {f : From} {ctx : Nat} (h : s.mem.wf = true) : Canonical (execResume f ctx s) :=
  request_wf h fun _ h => owned_wf h (fun _ => ite_fst_wf (refuse_wf h) (modQueues_wf h))

theorem State.dropNotes_wf {x : Context} (h : s.mem.wf = true) : (s.dropNotes x).mem.wf = true := by
  unfold State.dropNotes
  split
  · exact h
  · exact ite_wf h (sendNote_wf h)

theorem execDestroy_canonical {f : From} {ctx : Nat} (h : s.mem.wf = true) : Canonical (execDestroy f ctx s) :=
  request_wf h fun _ h => owned_wf h (fun _ => ite_fst_wf (refuse_wf h)
      (dropNotes_wf (foldl_wf (fun _ _ h => kernelFault_wf h) h)))

theorem execQuery_canonical {f : From} {ctx : Nat} (h : s.mem.wf = true) : Canonical (execQuery f ctx s) :=
  request_wf h fun _ h => owned_wf h (fun _ => h)

theorem execContextFault_canonical {ctx : Nat} (h : s.mem.wf = true) : Canonical (execContextFault ctx s) := by
  unfold execContextFault
  split
  · exact h
  · exact ite_outcome h (foldl_wf (fun s a h => kernelFault_wf h) (modQueues_wf (hwError_wf h)))

theorem State.stopParked_wf {c : Cohort} {at_ n : Nat} (h : s.mem.wf = true) :
    (s.stopParked c at_ n).mem.wf = true := by
  unfold State.stopParked
  refine foldl_wf (fun s a h => ?_) ?_
  · exact ite_wf h (writeBytes_wf (writeNat_wf h _ _ _) ..)
  · exact h

theorem execDbgstop_canonical {f : From} {ctx kernel cohort stop : Nat} (h : s.mem.wf = true) :
    Canonical (execDbgstop f ctx kernel cohort stop s) := by
  unfold execDbgstop
  refine arriving_wf h fun s h => ?_
  extract_lets no
  split
  · exact respond_wf h
  · refine ite_wf (respond_wf h) (ite_wf (respond_wf h) ?_)
    split
    · refine ite_wf (respond_wf h) (ite_wf (respond_wf h) ?_)
      split
      · exact respond_wf (stopParked_wf h)
      · exact h
      · exact h
    · exact respond_wf h

theorem execQcreate_canonical {f : From} {args : List Nat} (h : s.mem.wf = true) :
    Canonical (execQcreate f args s) := by
  unfold execQcreate
  refine request_wf h fun s h => ?_
  extract_lets a
  refine owned_wf h fun x => ?_
  split
  · exact refuse_wf h
  · split
    · exact refuse_wf h
    · extract_lets q
      dsimp only
      exact putQueue_wf h

theorem State.ownQueue_wf {f : From} {num : Nat} {go : Queue → State × Nat × Nat} (h : s.mem.wf = true)
    (hgo : ∀ q, (go q).1.mem.wf = true) : (s.ownQueue f num go).1.mem.wf = true := by
  unfold State.ownQueue
  split
  · exact refuse_wf h
  · exact ite_fst_wf (hgo _) (refuse_wf h)

theorem execQstop_canonical {f : From} {q : Nat} (h : s.mem.wf = true) : Canonical (execQstop f q s) := by
  refine request_wf h fun s h => ownQueue_wf h fun y => ite_fst_wf ?_ (refuse_wf h)
  dsimp only
  exact putQueue_wf h

theorem execQresume_canonical {f : From} {q : Nat} (h : s.mem.wf = true) : Canonical (execQresume f q s) := by
  refine request_wf h fun s h => ownQueue_wf h fun y => ite_fst_wf ?_ (refuse_wf h)
  dsimp only
  exact putQueue_wf h

theorem execQreset_canonical {f : From} {q : Nat} (h : s.mem.wf = true) : Canonical (execQreset f q s) := by
  refine request_wf h fun s h => ownQueue_wf h fun y => ite_fst_wf ?_ (refuse_wf h)
  dsimp only
  exact putQueue_wf h

theorem execQdestroy_canonical {f : From} {q : Nat} (h : s.mem.wf = true) : Canonical (execQdestroy f q s) := by
  unfold execQdestroy
  refine request_wf h fun s h => ?_
  refine ownQueue_wf h fun q1 => ite_fst_wf (refuse_wf h) ?_
  refine ite_fst_wf (refuse_wf h) ?_
  dsimp only
  refine writeNat_wf ?_ ..
  exact h

theorem execTlbflush_canonical {f : From} {ctx : Nat} {va : Option Addr} (h : s.mem.wf = true) :
    Canonical (execTlbflush f ctx va s) := by
  unfold execTlbflush
  refine request_wf h fun s h => ?_
  refine owned_wf h fun x => ?_
  dsimp only
  split <;> exact tlbDrop_wf h

theorem execLgcreate_canonical {f : From} {ctx va count : Nat} (h : s.mem.wf = true) :
    Canonical (execLgcreate f ctx va count s) := by
  unfold execLgcreate
  refine request_wf h fun s h => ?_
  refine owned_wf h fun x => ?_
  split
  · exact refuse_wf h
  · extract_lets mine
    split
    · exact refuse_wf h
    · exact refuse_wf h
    · exact ite_fst_wf (refuse_wf h) (ite_fst_wf (refuse_wf h) (ioNotes_wf h))

theorem execLgdestroy_canonical {f : From} {ctx handle : Nat} (h : s.mem.wf = true) :
    Canonical (execLgdestroy f ctx handle s) := by
  unfold execLgdestroy
  refine request_wf h fun s h => ?_
  refine owned_wf h fun x => ?_
  split
  · exact refuse_wf h
  · exact h

theorem State.domain_wf {f : From} (h : s.mem.wf = true) : (s.domain f).mem.wf = true := respond_wf h

theorem execDomain_canonical {f : From} (h : s.mem.wf = true) : Canonical (execDomain f s) :=
  ite_outcome (arriving_wf h (fun _ h => domain_wf h))
      (ite_outcome h (ite_wf (domain_wf (tookNext_wf h)) (respond_wf (tookNext_wf h))))

theorem execUnknownRequestCode_canonical {f : From} {code : Nat} (h : s.mem.wf = true) :
    Canonical (execUnknownRequestCode f code s) :=
  ite_wf h (ite_wf (arriving_wf h (fun _ h => h)) (request_wf h (fun _ h => refuse_wf h)))

/-! ### Messages from outside, ports and far memory (R386 to R405) -/

theorem State.hostAccess_wf {f : From} {ctx : Nat} {acc : Access} {va n : Nat} {hw : Bool}
    {go : Context → State → State} (h : s.mem.wf = true) (hgo : ∀ c s, s.mem.wf = true → (go c s).mem.wf = true) :
    (s.hostAccess f ctx acc va n hw go).mem.wf = true := by
  unfold State.hostAccess
  split
  · exact respond_wf h
  · split
    · exact respond_wf h
    · exact ite_wf (respond_wf h) (ite_wf (respond_wf (hwError_wf (ioNotes_wf h)))
        (ite_wf (respond_wf (hwError_wf (ioNotes_wf h))) (hgo _ _ (ioNotes_wf h))))

theorem State.hostArrives_wf {f : From} {ctx : Nat} {acc : Access} {va n : Nat} {i : Instr} {go : State}
    (h : s.mem.wf = true) (h1 : go.mem.wf = true) : (s.hostArrives f ctx acc va n i go).mem.wf = true := by
  unfold State.hostArrives
  extract_lets w
  split
  · exact h1
  · split
    · exact h
    · exact ite_wf h1 h

theorem State.memwr_wf {f : From} {ctx : Nat} {va : Addr} {data : List Byte} {hw : Bool} (h : s.mem.wf = true) :
    (s.memwr f ctx va data hw).mem.wf = true :=
  ite_wf (arriving_wf h (fun _ h => ite_wf h (hostAccess_wf h
      (fun _ _ h => ite_wf (ioWrite_wf h) (respond_wf (ioWrite_wf h))))))
      (hostArrives_wf h (arriving_wf h (fun _ h => ite_wf h
      (hostAccess_wf h (fun _ _ h => ite_wf (ioWrite_wf h) (respond_wf (ioWrite_wf h)))))))

theorem State.memrd_wf {f : From} {ctx : Nat} {va : Addr} {len : Nat} {hw : Bool} (h : s.mem.wf = true) :
    (s.memrd f ctx va len hw).mem.wf = true :=
  ite_wf (arriving_wf h (fun _ h => ite_wf h (hostAccess_wf h (fun _ _ h => respond_wf h))))
      (hostArrives_wf h (arriving_wf h (fun _ h => ite_wf h
      (hostAccess_wf h (fun _ _ h => respond_wf h)))))

theorem execQueueAppend_canonical {f : From} {q : Nat} {record : List Byte} (h : s.mem.wf = true) :
    Canonical (execQueueAppend f q record s) :=
  arriving_wf h fun _ h => respond_wf (queueAppend_wf h)

theorem execRingAppend_canonical {f : From} {handle : DWord} {seq : Nat} {data : List Byte} (h : s.mem.wf = true) :
    Canonical (execRingAppend f handle seq data s) := by
  unfold execRingAppend
  split
  · exact arriving_wf h fun s1 h1 => ite_wf (respond_wf h1)
      (ite_wf (respond_wf h1) (respond_wf (append_wf h1)))
  · exact arriving_wf h fun s h => respond_wf h

theorem execCollMessage_canonical {f : From} {group op crc kind redop fmt e : Nat} {data : List Byte}
    (h : s.mem.wf = true) : Canonical (execCollMessage f group op crc kind redop fmt e data s) := by
  unfold execCollMessage
  extract_lets p
  refine arriving_wf h fun s h => ?_
  extract_lets g s1
  have hs1 : s1.mem.wf = true := by
    unfold s1
    clear_value g
    split
    · exact collDeliver_wf h
    · exact h
  exact respond_wf hs1

theorem State.msendEnds_wf {c : CohortKey} {b : BeamKey} {e d : Nat} {drop : Bool} {code : Nat} (h : s.mem.wf = true)
    : (s.msendEnds c b e d drop code).mem.wf = true := by
  unfold State.msendEnds
  split <;> exact h

theorem State.answered_wf {r : FabReq} {status : Nat} (h : s.mem.wf = true) :
    (s.answered r status).mem.wf = true := by
  unfold State.answered
  split
  · exact msendEnds_wf h
  · exact ite_wf h (collFault_wf h)
  · split
    · exact h
    · split
      · exact ite_wf (sendNote_wf h) h
      · exact h

theorem State.acked_wf {f : From} (h : s.mem.wf = true) : (s.acked f).mem.wf = true := by
  unfold State.acked
  extract_lets w
  split <;> exact h

theorem execReply_canonical {f : From} {status : Nat} (h : s.mem.wf = true) : Canonical (execReply f status s) := by
  unfold execReply
  refine ite_outcome h ?_
  extract_lets s1
  have hs1 : s1.mem.wf = true := tookNext_wf h
  split
  · exact acked_wf hs1
  · exact ite_outcome hs1 (answered_wf (acked_wf hs1))

theorem execNotifyResend_canonical {vf : Nat} (h : s.mem.wf = true) : Canonical (execNotifyResend vf s) := by
  unfold execNotifyResend
  extract_lets mine
  split
  · exact ite_wf (sendNote_wf h) h
  · exact h

theorem execFabricTimeout_canonical {tag : Nat} (h : s.mem.wf = true) : Canonical (execFabricTimeout tag s) := by
  unfold execFabricTimeout
  split
  · exact h
  · refine ite_outcome h ?_
    extract_lets t
    have ht : t.mem.wf = true := h
    split
    · exact msendEnds_wf ht
    · exact collFault_wf ht
    · exact h

theorem execFlitReceive_canonical {port : Nat} {lseq ackseq : BitVec 12} {credit : BitVec 2 × BitVec 6}
    {rest : List Byte} (h : s.mem.wf = true) : Canonical (execFlitReceive port lseq ackseq credit rest s) := by
  unfold execFlitReceive
  split
  · exact h
  · exact ite_outcome h (ite_outcome h (ite_outcome h h))

theorem execLinkRetrain_canonical {port : Nat} (h : s.mem.wf = true) : Canonical (execLinkRetrain port s) := by
  unfold execLinkRetrain
  split
  · exact h
  · exact ite_outcome h h

theorem State.bringUp_wf (h : s.mem.wf = true) : s.bringUp.mem.wf = true := ite_wf h h

theorem State.portUp_wf {p : Port} {st : LinkSt} {lanes : Nat} (h : s.mem.wf = true) :
    (s.portUp p st lanes).mem.wf = true := by
  unfold State.portUp
  extract_lets s1 s2
  have hs1 : s1.mem.wf = true := h
  have hs2 : s2.mem.wf = true := by
    unfold s2
    split <;> exact hs1
  exact bringUp_wf (sendWaiting_wf hs2)

theorem execTrainingComplete_canonical {port lanes : Nat} (h : s.mem.wf = true) :
    Canonical (execTrainingComplete port lanes s) := by
  unfold execTrainingComplete
  split
  · exact h
  · exact ite_outcome h (ite_outcome (portUp_wf h) (ite_outcome (portUp_wf h)
      (ite_outcome (bringUp_wf h) h)))

theorem execLaneLockLoss_canonical {port : Nat} (h : s.mem.wf = true) : Canonical (execLaneLockLoss port s) := by
  unfold execLaneLockLoss
  split
  · exact h
  · exact ite_wf h h

theorem execPortFence_canonical {port : Nat} (h : s.mem.wf = true) : Canonical (execPortFence port s) := by
  unfold execPortFence
  split
  · exact h
  · exact ite_wf (bringUp_wf h) h

theorem execPortUnfence_canonical {port : Nat} (h : s.mem.wf = true) : Canonical (execPortUnfence port s) := by
  unfold execPortUnfence
  split
  · exact h
  · exact ite_wf h h

theorem execDcdCapacityAdd_canonical {part base limit : Nat} (h : s.mem.wf = true) :
    Canonical (execDcdCapacityAdd part base limit s) := by
  unfold execDcdCapacityAdd
  split <;> exact h

theorem execDcdRelease_canonical {part base limit : Nat} {confirmed : Bool} (h : s.mem.wf = true) :
    Canonical (execDcdRelease part base limit confirmed s) := by
  unfold execDcdRelease
  split
  · exact h
  · exact ite_outcome h h

theorem State.writeLost_wf {line n : Nat} (h : s.mem.wf = true) : (s.writeLost line n).mem.wf = true :=
  foldl_wf (fun _ _ h => hwPend_wf h) h

theorem State.writeEnds_wf {ok : Bool} {who : Writer} (h : s.mem.wf = true) : (s.writeEnds ok who).mem.wf = true := by
  unfold State.writeEnds
  extract_lets t
  have ht : t.mem.wf = true := ite_wf h h
  split
  · exact ite_wf ht (respond_wf ht)
  · exact ite_wf (copyFails_wf ht) ht
  · exact h

theorem execCxlWriteAcknowledgement_canonical {pa : Nat} {ok : Bool} (h : s.mem.wf = true) :
    Canonical (execCxlWriteAcknowledgement pa ok s) :=
  ite_outcome h (foldl_wf (fun _ _ h => writeEnds_wf h) (ite_wf h (writeLost_wf (hwError_wf h))))

/-! ### Reset, boot and the board (R412, R438 to R443, R460) -/

theorem State.cgSet_wf {p : Partition} (h : s.mem.wf = true) : (s.cgSet p).mem.wf = true :=
  foldl_wf (fun _ _ h => modCore_wf h ..) h

theorem State.setting_wf {v : Setting} (h : s.mem.wf = true) : (s.setting v).mem.wf = true := by
  unfold State.setting
  refine ite_wf h ?_
  split
  · split <;> exact h
  · split
    · exact ite_wf h h
    · exact h
  · split
    · exact cgSet_wf h
    · exact h
  · exact h
  · exact ite_wf h (ite_wf h (ite_wf h h))

/-- A reset leaves memory with some of the near cache's newer bytes written (log entry 47). -/
theorem execResetNAssert_canonical (h : s.mem.wf = true) : Canonical (execResetNAssert s) := by
  show s.farLost.wf = true
  refine List.foldlRecOn (motive := fun m : Memory => m.wf = true) s.dirty _ h fun m hm c _ => ?_
  split
  · exact Memory.write_wf hm c.1 c.2
  · exact hm

theorem execResetNRelease_canonical {img : BootImage} (h : s.mem.wf = true) :
    Canonical (execResetNRelease img s) := by
  unfold execResetNRelease
  refine ite_outcome h ?_
  extract_lets stopped
  split
  · exact h
  · split <;> exact h

theorem execSupplyTrip_canonical {part mhz : Nat} (h : s.mem.wf = true) : Canonical (execSupplyTrip part mhz s) := by
  unfold execSupplyTrip
  split <;> exact h

theorem execPowerClockSetting_canonical {part : Nat} {watts mhz : Option Nat} (h : s.mem.wf = true) :
    Canonical (execPowerClockSetting part watts mhz s) := by
  unfold execPowerClockSetting
  split <;> exact h

theorem execFaultNAssertionEnd_canonical (h : s.mem.wf = true) : Canonical (execFaultNAssertionEnd s) := by
  unfold execFaultNAssertionEnd
  split
  · exact ite_wf h h
  · exact h

theorem execI3cAccess_canonical {op : I3cOp} (h : s.mem.wf = true) : Canonical (execI3cAccess op s) := by
  unfold execI3cAccess
  refine ite_outcome h ?_
  split
  · exact h
  · exact h
  · exact h
  · split <;> exact h
  · split
    · exact ite_wf h h
    · exact h

end

end Sys2Proof.Machine
end

section
/-! Memory keeps its canonical form: the condenser, glints, the matrix unit, observation and attestation. -/

namespace Sys2Proof.Machine

section
open State

variable {s : State}

/-! ### CPYCSR and CND (R267, R282 to R290) -/

theorem execCpycsr_canonical {f : Fmt} {ch : BitVec 3} {sc : Scope} {d a b c : Reg} (h : s.mem.wf = true) :
    Canonical (execCpycsr f ch sc d a b c s) := by
  unfold execCpycsr
  refine runFrag_canonical h fun x s h => ?_
  extract_lets v idx val cap n
  refine engBarrier_canonical h (ite_canonical h ?_)
  split
  · exact trivial
  · exact ite_canonical h h

theorem execCpycsrComplete_canonical {core req : Nat} (h : s.mem.wf = true) :
    Canonical (execCpycsrComplete core req s) := by
  unfold execCpycsrComplete
  split
  · exact h
  · split
    · refine ite_outcome h ?_
      split
      · exact engFails_wf h fun r => barFault_wf h
      · exact barArrive_wf (wpAdd_wf (deliver_wf (deliver_wf (engNotes_wf h))))
    · exact h

theorem execCnd_canonical {f : Fmt} {sc : Scope} {a b : Reg} (h : s.mem.wf = true) :
    Canonical (execCnd f sc a b s) := by
  unfold execCnd
  refine runFrag_canonical h fun x s h => ?_
  extract_lets bar sh
  refine engBarrier_canonical h ?_
  split
  · exact trivial
  · exact ite_canonical h h

theorem State.cndSpoiled_wf {r : Req} {sh : CndShape} (h : s.mem.wf = true) : (s.cndSpoiled r sh).mem.wf = true :=
  deliver_wf h

theorem execCndComplete_canonical {core req : Nat} (h : s.mem.wf = true) :
    Canonical (execCndComplete core req s) := by
  unfold execCndComplete
  split
  · exact h
  · split
    · extract_lets sh
      refine ite_outcome h (ite_outcome (barFault_wf h) ?_)
      split
      · exact countAndEnd_wf (reqFlags_wf (deliver_wf h))
      · split
        · exact engFails_wf h fun r => barFault_wf (cndSpoiled_wf h)
        · exact deliver_wf (engNotes_wf h)
    · exact h

/-! ### Glints (R269 to R272, R314) -/

theorem execGread_canonical {mode : GMode} {map : BitVec 4} {sc : Scope} {d a c : Reg} {off : Word}
    (h : s.mem.wf = true) : Canonical (execGread mode map sc d a c off s) := by
  unfold execGread
  extract_lets slot
  refine runFrag_canonical h fun x s h => ?_
  extract_lets bar log target
  refine engBarrier_canonical h (ite_canonical h ?_)
  split
  · exact trivial
  · extract_lets m
    refine ite_canonical trivial (ite_canonical trivial ?_)
    refine ite_canonical trivial ?_
    split
    · exact trivial
    · exact ite_canonical h (ite_wf (deliver_wf h) h)

theorem State.addMark_wf {r : Req} {j code logged : Nat} (h : s.mem.wf = true) :
    (s.addMark r j code logged).mem.wf = true := by
  unfold State.addMark
  split <;> exact h

theorem State.replayDiverges_wf {r : Req} {code logged k : Nat} (h : s.mem.wf = true) :
    (s.replayDiverges r code logged k).mem.wf = true :=
  ite_wf (packet_wf h) (addMark_wf (packet_wf h))

theorem execGlintBirth_canonical {core req burst slot : Nat} (h : s.mem.wf = true) :
    Canonical (execGlintBirth core req burst slot s) := by
  unfold execGlintBirth
  split
  · exact h
  · refine ite_outcome h ?_
    split
    · split
      · exact ite_wf (deliver_wf (deliver_wf h)) h
      · exact ite_outcome (ite_wf (deliver_wf (deliver_wf h)) h) h
      · exact h
      · exact replayDiverges_wf h
    · exact h

theorem execGdone_canonical (h : s.mem.wf = true) : Canonical (execGdone s) := by
  unfold execGdone
  refine runFrag_canonical h fun x s h => ?_
  split
  · exact trivial
  · refine ite_canonical trivial (ite_canonical h ?_)
    extract_lets s1 s2
    have hs1 : s1.mem.wf = true := raise_wf h
    have hs2 : s2.mem.wf = true := by
      unfold s2
      split <;> exact hs1
    exact reqEnds_wf (barCount_wf hs2)

theorem State.glintLost_wf {k : BeamKey} {g : Glint} (h : s.mem.wf = true) : (s.glintLost k g).mem.wf = true := by
  unfold State.glintLost
  extract_lets s1
  have hs1 : s1.mem.wf = true := h
  split
  · exact hs1
  · exact barFault_wf hs1

theorem execExit_canonical (h : s.mem.wf = true) : Canonical (execExit s) := by
  unfold execExit
  refine runFrag_canonical h fun x s h => ?_
  extract_lets k
  split
  · exact glintLost_wf h
  · exact afterExit_wf (laterAll_wf (rcvPackets_wf h))
  · exact trivial
  · exact afterExit_wf (laterAll_wf (rcvPackets_wf h))

/-! ### The matrix unit (R283 to R288) -/

theorem State.multiply_canonical {x : Frag} {d : Nat} {m : MmaOp} (h : s.mem.wf = true) :
    (s.multiply x d m).Canonical :=
  ite_canonical h (modCore_wf h ..)

theorem execMma_canonical {fa fb : Fmt} {d : Reg} {a : VArg} {b : SArg} (h : s.mem.wf = true) :
    Canonical (execMma fa fb d a b s) := by
  unfold execMma
  refine runFrag_canonical h fun x s h => ?_
  extract_lets off
  split
  · exact trivial
  · exact multiply_canonical h

theorem execMmas_canonical {fa : Fmt} {mixed : Bool} {d : Reg} {a : VArg} {b : SArg} {c : VArg} (h : s.mem.wf = true)
    : Canonical (execMmas fa mixed d a b c s) := by
  unfold execMmas
  refine runFrag_canonical h fun x s h => ?_
  extract_lets off fb nb
  split
  · exact trivial
  · exact multiply_canonical h

theorem execMmaComplete_canonical {b : BeamKey} (h : s.mem.wf = true) : Canonical (execMmaComplete b s) := by
  unfold execMmaComplete
  split <;> exact h

theorem execMclr_canonical {d : Reg} (h : s.mem.wf = true) : Canonical (execMclr d s) :=
  runFrag_canonical h fun _ _ h => ite_canonical h (beamDone_canonical h)

theorem execMlda_canonical {t : Ty} {d : Reg} {a : VArg} {c : Option VArg} (h : s.mem.wf = true) :
    Canonical (execMlda t d a c s) := by
  unfold execMlda
  refine runFrag_canonical h fun x s h => ?_
  split
  · exact trivial
  · exact ite_canonical h (beamDone_canonical h)

theorem State.matPut_wf {x : Frag} {off : Nat} {bs : List Byte} (h : s.mem.wf = true) :
    (s.matPut x off bs).mem.wf = true :=
  ite_wf h (newest_wf (winData_wf h))

theorem execMsta_canonical {f : Fmt} {r : Rnd} {d a : Reg} {b c : Option SArg} (h : s.mem.wf = true) :
    Canonical (execMsta f r d a b c s) := by
  unfold execMsta
  extract_lets opt
  refine runFrag_canonical h fun x s h => ?_
  extract_lets val off
  split
  · exact trivial
  · exact ite_canonical h (raise_wf (matPut_wf (matPut_wf (matPut_wf h))))

/-! ### Trace marks and samples (R427 to R433) -/

theorem execTmark_canonical {a : Reg} (h : s.mem.wf = true) : Canonical (execTmark a s) :=
  runFrag_canonical h fun _ _ h => ite_canonical (packet_wf h) h

theorem execClock_canonical {d : Reg} (h : s.mem.wf = true) : Canonical (execClock d s) :=
  runFrag_canonical h fun _ _ h => ite_canonical (beamDone_canonical h) (sleep_wf h)

theorem State.countQuad_wf {core q : Nat} (h : s.mem.wf = true) : (s.countQuad core q).mem.wf = true :=
  modCore_wf h ..

theorem State.sample_wf {core : Nat} {bs : List Byte} (h : s.mem.wf = true) : (s.sample core bs).mem.wf = true :=
  ite_wf (modCore_wf (ringWrite_wf h _ _ _ _) ..) (modCore_wf h ..)

theorem execSample_canonical {a : Reg} (h : s.mem.wf = true) : Canonical (execSample a s) :=
  runFrag_canonical h fun _ _ h => ite_canonical (sample_wf h) h

theorem State.sampleQuad_wf {core q : Nat} (h : s.mem.wf = true) : (s.sampleQuad core q).mem.wf = true := by
  unfold State.sampleQuad
  split
  · exact h
  · exact modCore_wf (sample_wf h) ..

theorem execSamplePeriod_canonical {core : Nat} (h : s.mem.wf = true) : Canonical (execSamplePeriod core s) :=
  ite_outcome (modCore_wf (foldl_wf (fun _ _ h => sampleQuad_wf h) h) ..) h

theorem execSliceIssueSlotCount_canonical {core : Nat} (h : s.mem.wf = true) :
    Canonical (execSliceIssueSlotCount core s) :=
  ite_outcome (modCore_wf (foldl_wf (fun _ _ h => countQuad_wf h) h) ..) h

/-! ### Attestation (R440 to R442) -/

theorem State.spdm_wf {f : From} {go : State → State × List Byte} (h : s.mem.wf = true)
    (hgo : ∀ s, s.mem.wf = true → (go s).1.mem.wf = true) : (s.spdm f go).mem.wf = true :=
  arriving_wf h fun _ h => respond_wf (hgo _ h)

theorem State.spdmIn_wf {ok : SpdmSt → Bool} {go : State × List Byte} (h : s.mem.wf = true) (hgo : go.1.mem.wf = true)
    : (s.spdmIn ok go).1.mem.wf = true :=
  ite_fst_wf hgo h

theorem execGetVersion_canonical {f : From} (h : s.mem.wf = true) : Canonical (execGetVersion f s) :=
  spdm_wf h fun _ h => h

theorem execGetCapabilities_canonical {f : From} (h : s.mem.wf = true) : Canonical (execGetCapabilities f s) :=
  spdm_wf h fun _ h => spdmIn_wf h h

theorem execNegotiateAlgorithms_canonical {f : From} {asym hash meas : Bool} (h : s.mem.wf = true) :
    Canonical (execNegotiateAlgorithms f asym hash meas s) :=
  spdm_wf h fun _ h => spdmIn_wf h (ite_fst_wf h h)

theorem execGetDigests_canonical {f : From} (h : s.mem.wf = true) : Canonical (execGetDigests f s) :=
  spdm_wf h fun _ h => spdmIn_wf h h

theorem execGetCertificate_canonical {f : From} {slot offset len : Nat} (h : s.mem.wf = true) :
    Canonical (execGetCertificate f slot offset len s) :=
  spdm_wf h fun _ h => spdmIn_wf h (ite_fst_wf h h)

theorem execChallenge_canonical {f : From} {slot : Nat} {nonce : List Byte} (h : s.mem.wf = true) :
    Canonical (execChallenge f slot nonce s) :=
  spdm_wf h fun _ h => spdmIn_wf h (ite_fst_wf h h)

theorem execGetMeasurements_canonical {f : From} {index : Nat} {nonce : List Byte} (h : s.mem.wf = true) :
    Canonical (execGetMeasurements f index nonce s) :=
  spdm_wf h fun _ h => spdmIn_wf h (ite_fst_wf h h)

end

end Sys2Proof.Machine
end

section
/-! Memory keeps its canonical form: every instruction and every turn, and so every step. -/

namespace Sys2Proof.Machine

section
open State

variable {s : State}

/-! ### Instructions and steps of the device -/

/-- Whatever an instruction or a step of the device does, it leaves memory in canonical form. -/
theorem exec_canonical {i : Instr} (h : s.mem.wf = true) : Canonical (exec i s) := by
  cases i with
  | hdr => exact execHdr_canonical h
  | bra => exact execBra_canonical h
  | brs => exact execBrs_canonical h
  | brv => exact execBrv_canonical h
  | jmpi => exact execJmpi_canonical h
  | call => exact execCall_canonical h
  | ret => exact execRet_canonical h
  | exit => exact execExit_canonical h
  | nop => exact execNop_canonical h
  | yield => exact execYield_canonical h
  | brk => exact execBrk_canonical h
  | trap => exact execTrap_canonical h
  | eret => exact execEret_canonical h
  | bdec => exact execBdec_canonical h
  | delay => exact execDelay_canonical h
  | chunk => exact execChunk_canonical h
  | bsplit => exact execBsplit_canonical h
  | bfuse => exact execBfuse_canonical h
  | gjoin => exact execGjoin_canonical h
  | gleave => exact execGleave_canonical h
  | gnew => exact execGnew_canonical h
  | gets => exact execGets_canonical h
  | sets => exact execSets_canonical h
  | launch => exact execLaunch_canonical h
  | smov | smovi | smad | ssel | spopc | sclz => exact scalar_canonical h
  | sadd | ssub | smul => exact scalarInt_canonical h
  | sand | sor | sxor => exact scalarBits_canonical h
  | sshl | sshr | ssar | slea | sbfe => exact scalar2_canonical h
  | smin => exact execSmin_canonical h
  | smax => exact execSmax_canonical h
  | scmp => exact execScmp_canonical h
  | klog => exact execKlog_canonical h
  | stov => exact execStov_canonical h
  | vtos => exact execVtos_canonical h
  | sfill => exact execSfill_canonical h
  | iadd | isub | imul => exact int2_canonical h
  | imad => exact execImad_canonical h
  | imulh => exact execImulh_canonical h
  | imin => exact execImin_canonical h
  | imax => exact execImax_canonical h
  | iabs => exact execIabs_canonical h
  | ineg => exact int1_canonical h
  | and | or | xor => exact bits2_canonical h
  | not => exact execNot_canonical h
  | shl | shr | sar | bfe | lea => exact vec2_canonical h
  | bfi | idot4 => exact vec3_canonical h
  | popc | clz | cvt => exact vec1_canonical h
  | icmp | fcmp => exact vecCmp_canonical h
  | mov => exact execMov_canonical h
  | fadd => exact execFadd_canonical h
  | fsub => exact execFsub_canonical h
  | fmul => exact float2_canonical h
  | ffma => exact execFfma_canonical h
  | fmin => exact execFmin_canonical h
  | fmax => exact execFmax_canonical h
  | frcp | frsq | fsqrt | fexp2 | flog2 | fsin | fcos | ftanh => exact special_canonical h
  | fclass => exact execFclass_canonical h
  | fdot2 => exact execFdot2_canonical h
  | pfma => exact execPfma_canonical h
  | padd => exact execPadd_canonical h
  | fscale => exact execFscale_canonical h
  | pack => exact execPack_canonical h
  | unpk => exact execUnpk_canonical h
  | pres => exact execPres_canonical h
  | fill => exact execFill_canonical h
  | mkab => exact execMkab_canonical h
  | tsel => exact execTsel_canonical h
  | tlog => exact execTlog_canonical h
  | tval => exact execTval_canonical h
  | frnd => exact execFrnd_canonical h
  | shfl => exact execShfl_canonical h
  | prm => exact execPrm_canonical h
  | vote => exact execVote_canonical h
  | ballot => exact execBallot_canonical h
  | red => exact execRed_canonical h
  | scan => exact execScan_canonical h
  | laneMatch => exact execLaneMatch_canonical h
  | elect => exact execElect_canonical h
  | ld | lds | lda => exact load_canonical h
  | st | sts | stl => exact store_canonical h
  | ldu => exact execLdu_canonical h
  | stu => exact execStu_canonical h
  | atom | atoms => exact atomic_canonical h
  | atomu => exact execAtomu_canonical h
  | fence => exact execFence_canonical h
  | waitv => exact execWaitv_canonical h
  | cflush => exact execCflush_canonical h
  | cinv => exact execCinv_canonical h
  | pref => exact execPref_canonical h
  | tlook | tins | tdel => exact tagOp_canonical h
  | msend => exact execMsend_canonical h
  | mpoll => exact execMpoll_canonical h
  | mwait => exact execMwait_canonical h
  | mpop => exact execMpop_canonical h
  | cpy => exact execCpy_canonical h
  | cpyResume | greadResume => exact resumeReqs_canonical h
  | cpycsr => exact execCpycsr_canonical h
  | gread => exact execGread_canonical h
  | gdone => exact execGdone_canonical h
  | binit => exact execBinit_canonical h
  | barv => exact execBarv_canonical h
  | bexp => exact execBexp_canonical h
  | bwait => exact execBwait_canonical h
  | binv => exact execBinv_canonical h
  | btest => exact execBtest_canonical h
  | cnd => exact execCnd_canonical h
  | mma => exact execMma_canonical h
  | mmas => exact execMmas_canonical h
  | mclr => exact execMclr_canonical h
  | mlda => exact execMlda_canonical h
  | msta => exact execMsta_canonical h
  | coll => exact execColl_canonical h
  | chwait => exact execChwait_canonical h
  | mapld => exact execMapld_canonical h
  | tmark => exact execTmark_canonical h
  | sample => exact execSample_canonical h
  | tlbinv => exact execTlbinv_canonical h
  | ctxsv => exact execCtxsv_canonical h
  | ctxld => exact execCtxld_canonical h
  | pgset => exact execPgset_canonical h
  | fwcall => exact execFwcall_canonical h
  | clock => exact execClock_canonical h
  | registerFill => exact execRegisterFill_canonical h
  | mmaComplete => exact execMmaComplete_canonical h
  | walkComplete => exact execWalkComplete_canonical h
  | copyBurst => exact execCopyBurst_canonical h
  | copyComplete => exact execCopyComplete_canonical h
  | engineFault => exact execEngineFault_canonical h
  | glintBirth => exact execGlintBirth_canonical h
  | cpycsrComplete => exact execCpycsrComplete_canonical h
  | cndComplete => exact execCndComplete_canonical h
  | collComplete => exact execCollComplete_canonical h
  | fuseWindowExpiry => exact execFuseWindowExpiry_canonical h
  | delayExpiry => exact execDelayExpiry_canonical h
  | waitvWake | waitvTimeout | mwaitWake | mwaitTimeout => exact wake_wf h
  | fwcallAnswer => exact execFwcallAnswer_canonical h
  | fwcallTimeout => exact execFwcallTimeout_canonical h
  | agingPromotion => exact execAgingPromotion_canonical h
  | throttleRotation => exact ite_outcome (modCore_wf h ..) h
  | timeSliceExpiry => exact execTimeSliceExpiry_canonical h
  | cohortPlace => exact execCohortPlace_canonical h
  | cohortRestore => exact execCohortRestore_canonical h
  | exchange => exact execExchange_canonical h
  | wakeRecheck => exact execWakeRecheck_canonical h
  | evictionSave => exact execEvictionSave_canonical h
  | cohortRetire => exact execCohortRetire_canonical h
  | launchCmd => exact execLaunchCmd_canonical h
  | copyCmd => exact execCopyCmd_canonical h
  | copyCmdComplete => exact execCopyCmdComplete_canonical h
  | wait => exact waitCmd_wf h
  | waitRecheck => exact ite_wf (waitCmd_wf h) h
  | signal => exact execSignal_canonical h
  | timestamp => exact execTimestamp_canonical h
  | preempt => exact execPreempt_canonical h
  | fenceCmd => exact execFenceCmd_canonical h
  | contextFault => exact execContextFault_canonical h
  | migrationWaitExpiry => exact execMigrationWaitExpiry_canonical h
  | memwr => exact memwr_wf h
  | memrd => exact memrd_wf h
  | queueAppend => exact execQueueAppend_canonical h
  | ringAppend => exact execRingAppend_canonical h
  | collMessage => exact execCollMessage_canonical h
  | reply => exact execReply_canonical h
  | notifyResend => exact execNotifyResend_canonical h
  | fabricTimeout => exact execFabricTimeout_canonical h
  | flitReceive => exact execFlitReceive_canonical h
  | pathFailure => exact pathFails_wf h
  | linkRetrain => exact execLinkRetrain_canonical h
  | trainingComplete => exact execTrainingComplete_canonical h
  | laneLockLoss => exact execLaneLockLoss_canonical h
  | portFence => exact execPortFence_canonical h
  | portUnfence => exact execPortUnfence_canonical h
  | dcdCapacityAdd => exact execDcdCapacityAdd_canonical h
  | dcdRelease => exact execDcdRelease_canonical h
  | psctlWrite | psrpWrite | spctlWrite | sprpWrite | sgctlWrite => exact regWrite_wf h
  | sgWrite | sgstatW1c | registerPageWrite => exact ite_wf (regWrite_wf h) h
  | samplePeriod => exact execSamplePeriod_canonical h
  | i3cAccess => exact execI3cAccess_canonical h
  | pwrgood | thermtrip | boundaryScanAccess => exact h
  | resetNAssert => exact execResetNAssert_canonical h
  | resetNRelease => exact execResetNRelease_canonical h
  | supplyTrip => exact execSupplyTrip_canonical h
  | cxlWriteAcknowledgement => exact execCxlWriteAcknowledgement_canonical h
  | congestionLevelChange => exact execCongestionLevelChange_canonical h
  | sliceIssueSlotCount => exact execSliceIssueSlotCount_canonical h
  | diaphragmWrite => exact ite_wf h h
  | powerClockSetting => exact execPowerClockSetting_canonical h
  | faultNAssertionEnd => exact execFaultNAssertionEnd_canonical h
  | unknownRequestCode => exact execUnknownRequestCode_canonical h
  | discardedMessage => exact ite_wf (tookNext_wf h) h
  | create => exact execCreate_canonical h
  | stop => exact execStop_canonical h
  | resume => exact execResume_canonical h
  | destroy => exact execDestroy_canonical h
  | query => exact execQuery_canonical h
  | dbgstop => exact execDbgstop_canonical h
  | qcreate => exact execQcreate_canonical h
  | qstop => exact execQstop_canonical h
  | qresume => exact execQresume_canonical h
  | qreset => exact execQreset_canonical h
  | qdestroy => exact execQdestroy_canonical h
  | tlbflush => exact execTlbflush_canonical h
  | lgcreate => exact execLgcreate_canonical h
  | lgdestroy => exact execLgdestroy_canonical h
  | domain => exact execDomain_canonical h
  | getVersion => exact execGetVersion_canonical h
  | getCapabilities => exact execGetCapabilities_canonical h
  | negotiateAlgorithms => exact execNegotiateAlgorithms_canonical h
  | getDigests => exact execGetDigests_canonical h
  | getCertificate => exact execGetCertificate_canonical h
  | challenge => exact execChallenge_canonical h
  | getMeasurements => exact execGetMeasurements_canonical h

/-! ### Turns (log entry 46) -/

theorem State.beforeEvent_wf {a : Instr} (h : s.mem.wf = true) : (s.beforeEvent a).mem.wf = true := by
  unfold State.beforeEvent
  split <;> exact h

theorem State.flushTraces_wf (h : s.mem.wf = true) : s.flushTraces.mem.wf = true :=
  foldl_wf (fun _ _ h => flushTrace_wf h _) h

theorem State.tick_wf (h : s.mem.wf = true) : s.tick.mem.wf = true :=
  ite_wf h (reroute_wf (flushTraces_wf h))

theorem State.ifIssued_canonical {issue : State} {k : BeamKey} {e : Nat} {o : Host.Outcome State Fault Refusal}
    (h : s.mem.wf = true) (ho : Canonical o) : Canonical (s.ifIssued issue k e o) := by
  unfold State.ifIssued
  split
  · exact ite_outcome h ho
  · exact ho

theorem State.seen_canonical {who : Option BeamKey} {o : Host.Outcome State Fault Refusal} (ho : Canonical o) :
    Canonical (s.seen who o) := by
  unfold State.seen
  split <;> exact ho

theorem State.runTurn_canonical {k : BeamKey} {e : Nat} (h : s.mem.wf = true) : Canonical (s.runTurn k e) := by
  unfold State.runTurn
  split
  · exact h
  · refine ite_outcome h ?_
    split
    · exact fetchTrap_wf h
    · exact seen_canonical (ifIssued_canonical h (exec_canonical (ready_wf h)))

theorem State.hwFetched_wf {b : Beam} {e va : Nat} (h : s.mem.wf = true) : (s.hwFetched b e va).mem.wf = true :=
  ite_wf h (fetchTrap_wf (hwError_wf h))

theorem State.hwOperand_canonical {b : Beam} {e : Nat} {bad : BadWord} (h : s.mem.wf = true) :
    Canonical (s.hwOperand b e bad) := by
  unfold State.hwOperand
  split
  · exact fetchTrap_wf h
  · next i r w _ =>
    extract_lets t hw
    have ht : t.mem.wf = true := ready_wf h
    have hhw : hw.mem.wf = true := fetchTrap_wf (noteIssue_wf (hwError_wf h))
    have hexec : Canonical (exec i t) := exec_canonical ht
    split
    · next u hu =>
      rw [hu] at hexec
      exact ifIssued_canonical h (ite_wf hexec hhw)
    · exact hexec

theorem State.hwIssue_canonical {k : BeamKey} {e : Nat} {bad : BadWord} (h : s.mem.wf = true) :
    Canonical (s.hwIssue k e bad) := by
  unfold State.hwIssue
  split
  · exact h
  · extract_lets x
    refine ite_outcome h (ite_outcome (runTurn_canonical h) ?_)
    split
    · exact hwFetched_wf h
    · exact ite_outcome h (hwOperand_canonical h)
    · exact ite_outcome h (hwOperand_canonical h)

theorem State.hwFail_wf {i : Instr} (h : s.mem.wf = true) : (s.hwFail i).mem.wf = true := by
  unfold State.hwFail
  split
  · exact ite_wf (copyFails_wf (hwError_wf h)) h
  · exact memwr_wf h
  · exact memrd_wf h
  · exact h

theorem State.cxlTurn_wf {port : Nat} {up : Bool} (h : s.mem.wf = true) : (s.cxlTurn port up).mem.wf = true :=
  bringUp_wf h

theorem step_canonical (h : s.mem.wf = true) : Canonical (step s) := by
  have hbegin : s.begin.mem.wf = true := h
  unfold step
  split
  · exact runTurn_canonical hbegin
  · exact seen_canonical (exec_canonical (beforeEvent_wf hbegin))
  · exact tick_wf hbegin
  · exact hwIssue_canonical hbegin
  · exact hwFail_wf hbegin
  · exact hbegin
  · exact poolWrite_wf hbegin
  · exact cxlTurn_wf hbegin
  · exact flitLost_wf hbegin
  · exact setting_wf hbegin

end

/-! ### The statement -/

/-- Settles O59: every function that gives a state writes memory, if at all, by `Memory.write`, which keeps the form. -/
theorem memoryStaysCanonical : Obligations.MemoryStaysCanonical := by
  intro s t h hstep
  have hnext : Canonical (step s) := step_canonical h
  rw [hstep] at hnext
  exact hnext

end Sys2Proof.Machine
end

section
/-! Messages from outside (R248, R314, R336, R386, R393, R397, R402, R404, R437): when one is applied, the accesses of a host with
what they wait for, and appends. -/

namespace Sys2Proof.Machine

/-! ### A translation reads no flow -/

section
variable (s : State) (w : Flow)

theorem State.tableEntry_setFlow (v : Via) (ctx lvl va a : Nat) :
    (s.setFlow w).tableEntry v ctx lvl va a = s.tableEntry v ctx lvl va a := by
  have hread : (s.setFlow w).readNat a 8 = s.readNat a 8 := State.readNat_congr rfl a 8
  unfold State.tableEntry
  rw [hread]
  rfl

theorem State.walkFrom_setFlow (v : Via) (p : Partition) (ctx va : Nat) (lvls : List Nat) (table : Nat) :
    (s.setFlow w).walkFrom v p ctx va lvls table = s.walkFrom v p ctx va lvls table := by
  induction lvls generalizing table with
  | nil => rfl
  | cons lvl rest ih => simp only [State.walkFrom, State.tableEntry_setFlow, ih]

theorem State.walk_setFlow (v : Via) (x : Context) (va : Nat) : (s.setFlow w).walk v x va = s.walk v x va := by
  simp only [State.walk, State.walkFrom_setFlow]
  rfl

theorem State.xlate_setFlow (v : Via) (write : Bool) (x : Context) (va : Nat) :
    (s.setFlow w).xlate v write x va = s.xlate v write x va := by
  have hleaf : (s.setFlow w).leafFrom v write x va = s.leafFrom v write x va := by
    unfold State.leafFrom
    rw [State.walk_setFlow]
    rfl
  unfold State.xlate
  rw [hleaf]
  rfl

end

section
variable (s : State) (f : From) (v : Via) (x : Context) (va n : Nat)

theorem State.ioFault_tookNext (acc : Access) : (s.tookNext f).ioFault v x acc va n = s.ioFault v x acc va n := by
  simp only [State.ioFault, State.tookNext, State.xlate_setFlow]

theorem State.ioMigrates_tookNext : (s.tookNext f).ioMigrates v x va n = s.ioMigrates v x va n := by
  simp only [State.ioMigrates, State.tookNext, State.xlate_setFlow]

end

/-! ### A message is applied (R392, R393, R396) -/

section
variable {s : State} {f : From} (hrun : s.mgmt.running = true) (hexp : s.expects f = true)
include hrun hexp

theorem State.arriving_admitted {typ : Nat} {p : Option Partition} {go : State → State}
    (hch : (channelsOf typ).contains f.vc = true) (hacc : s.accepts f p = true) :
    s.arriving f typ p go = go (s.tookNext f) := by
  have hrun' : (s.tookNext f).mgmt.running = true := hrun
  have hacc' : (s.tookNext f).accepts f p = true := hacc
  unfold State.arriving
  simp only [hexp, hrun', hch, hacc', Bool.not_true, Bool.false_eq_true, if_false, if_true]

theorem State.arriving_refused {typ : Nat} {p : Option Partition} {go : State → State}
    (hch : (channelsOf typ).contains f.vc = true) (hacc : s.accepts f p = false) :
    s.arriving f typ p go = (s.tookNext f).respond f 3 [] := by
  have hrun' : (s.tookNext f).mgmt.running = true := hrun
  have hacc' : (s.tookNext f).accepts f p = false := hacc
  unfold State.arriving
  simp only [hexp, hrun', hch, hacc', Bool.not_true, Bool.false_eq_true, if_false]

end

/-! ### How long an access of the host waits (R386, R404) -/

section
variable {s : State} {f : From} {ctx : Nat} {acc : Access} {va n : Nat}

/-- The context that an access names is its function's. -/
theorem State.filter_of_notOwned (h : s.context? ctx = none ∨ ∃ c, s.context? ctx = some c ∧ c.vf ≠ f.vfn) :
    (s.context? ctx).filter (fun x => x.vf == f.vfn) = none := by
  obtain h | ⟨c, h, hvf⟩ := h
  · rw [h, Option.filter_none]
  · rw [h, Option.filter_some, if_neg (by simpa using hvf)]

theorem State.hostWait_notOwned (h : s.context? ctx = none ∨ ∃ c, s.context? ctx = some c ∧ c.vf ≠ f.vfn) :
    s.hostWait f ctx acc va n = none := by
  unfold State.hostWait
  obtain h | ⟨c, h, hvf⟩ := h
  · rw [h, Option.filter_none, Option.bind_none]
  · rw [h, Option.filter_some, if_neg (by simp [hvf]), Option.bind_none]

variable {c : Context} (hc : s.context? ctx = some c)
include hc

theorem State.hostWait_fault {e : Nat × Nat} (he : s.ioFault viaHost c acc va n = some e) :
    s.hostWait f ctx acc va n = none := by
  unfold State.hostWait
  rw [hc, Option.filter_some, if_neg (by simp [he]), Option.bind_none]

theorem State.hostWait_noFault (hvf : c.vf = f.vfn) (he : s.ioFault viaHost c acc va n = none) :
    s.hostWait f ctx acc va n =
      if acc.writes && s.ioMigrates viaHost c va n then some 65536
      else if s.ioDown viaHost acc.writes c va n then some (s.limitOf f.vfn) else none := by
  unfold State.hostWait
  rw [hc, Option.filter_some, if_pos (by simp [he, hvf]), Option.bind_some]

end

section
variable {s : State} {f : From} {ctx : Nat} {acc : Access} {va n : Nat} {i : Instr} {go : State}

theorem State.hostArrives_goes (h : s.hostWait f ctx acc va n = none) : s.hostArrives f ctx acc va n i go = go := by
  unfold State.hostArrives
  simp only [h, ite_self]

theorem State.hostArrives_takesFlow (hrun : s.mgmt.running = true) (hexp : s.expects f = true)
    (hacc : s.accepts f (s.partOfVf f.vfn) = true) (hvc : f.vc = 1) {m : Nat} (h : s.hostWait f ctx acc va n = some m)
    (hw : (s.flow f.src f.vc).waits = none) :
    s.hostArrives f ctx acc va n i go = s.setFlow { s.flow f.src f.vc with waits := some (s.clock, i) } := by
  have hadm : (s.expects f && s.mgmt.running && f.vc == 1 && s.accepts f (s.partOfVf f.vfn)) = true := by
    simp [hrun, hexp, hvc, hacc]
  unfold State.hostArrives
  simp only [hadm, if_true, h, hw]

theorem State.hostArrives_stays (hrun : s.mgmt.running = true) (hexp : s.expects f = true)
    (hacc : s.accepts f (s.partOfVf f.vfn) = true) (hvc : f.vc = 1) {m : Nat} (h : s.hostWait f ctx acc va n = some m)
    {t0 : Nat} {j : Instr} (hw : (s.flow f.src f.vc).waits = some (t0, j)) (ht : s.clock < t0 + m) :
    s.hostArrives f ctx acc va n i go = s := by
  have hadm : (s.expects f && s.mgmt.running && f.vc == 1 && s.accepts f (s.partOfVf f.vfn)) = true := by
    simp [hrun, hexp, hvc, hacc]
  unfold State.hostArrives
  simp only [hadm, if_true, h, hw]
  exact if_neg (by omega)

theorem State.hostArrives_over {m : Nat} (h : s.hostWait f ctx acc va n = some m) {t0 : Nat} {j : Instr}
    (hw : (s.flow f.src f.vc).waits = some (t0, j)) (ht : t0 + m ≤ s.clock) : s.hostArrives f ctx acc va n i go = go := by
  unfold State.hostArrives
  split
  · rfl
  · next m' hm =>
    have hmm : m' = m := by
      split at hm
      · exact Option.some.inj (hm.symm.trans h)
      · exact absurd hm (by simp)
    simp only [hw, hmm, if_pos ht]

end

/-! ### What an access of the host answers (R397) -/

section
variable {s : State} {f : From} {ctx : Nat} {acc : Access} {va n : Nat} {go : Context → State → State}

theorem State.hostAccess_notOwned (h : s.context? ctx = none ∨ ∃ c, s.context? ctx = some c ∧ c.vf ≠ f.vfn) :
    s.hostAccess f ctx acc va n false go = s.respond f 1 [] := by
  unfold State.hostAccess
  rw [State.filter_of_notOwned h]

variable {c : Context} (hc : s.context? ctx = some c) (hvf : c.vf = f.vfn)
include hc hvf

theorem State.hostAccess_fault {e : Nat × Nat} (he : s.ioFault viaHost c acc va n = some e) :
    s.hostAccess f ctx acc va n false go = s.respond f (hostStatus e) [] := by
  unfold State.hostAccess
  rw [hc, Option.filter_some, if_pos (by simp [hvf])]
  simp only [he]

theorem State.hostAccess_migrates (he : s.ioFault viaHost c acc va n = none)
    (hm : (acc.writes && s.ioMigrates viaHost c va n) = true) :
    s.hostAccess f ctx acc va n false go = s.respond f 2 [] := by
  unfold State.hostAccess
  rw [hc, Option.filter_some, if_pos (by simp [hvf])]
  simp only [he, hm, if_true]

theorem State.hostAccess_made (he : s.ioFault viaHost c acc va n = none)
    (hm : (acc.writes && s.ioMigrates viaHost c va n) = false) :
    let t := s.ioNotes viaHost c va n acc.writes
    s.hostAccess f ctx acc va n false go =
      if t.ioDown viaHost acc.writes c va n then (t.hwError 0 5 va).respond f 5 [] else go c t := by
  unfold State.hostAccess
  rw [hc, Option.filter_some, if_pos (by simp [hvf])]
  simp only [he, hm, Bool.false_eq_true, if_false]

end

/-! ### MEMRD and MEMWR on channel 1 -/

section
variable {s : State} {f : From} (hrun : s.mgmt.running = true) (hexp : s.expects f = true)
  (hacc : s.accepts f (s.partOfVf f.vfn) = true) (hvc : f.vc = 1) {n len : Nat} {va : Addr} {data : List Byte}
include hrun hexp hacc hvc

theorem exec_memrd_badLength (h : len = 0 ∨ 4096 < len) :
    exec (.memrd f n va len) s = .next ((s.tookNext f).logged (.badMessage f.src 2)) := by
  have hbad : (len == 0 || decide (4096 < len)) = true := by simpa using h
  show Host.Outcome.next (s.memrd f n va len false) = _
  unfold State.memrd
  simp only [hbad, if_true]
  rw [State.arriving_admitted hrun hexp (by rw [hvc]; decide) hacc]

theorem exec_memrd (h0 : 1 ≤ len) (h1 : len ≤ 4096) :
    exec (.memrd f n va len) s = .next (s.hostArrives f n .read va.toNat len (.memrd f n va len)
      ((s.tookNext f).hostAccess f n .read va.toNat len false fun x t => t.respond f 0 (t.ioRead viaHost x va.toNat len))) := by
  have hgood : (len == 0 || decide (4096 < len)) = false := by simp; omega
  show Host.Outcome.next (s.memrd f n va len false) = _
  unfold State.memrd
  simp only [hgood, Bool.false_eq_true, if_false]
  rw [State.arriving_admitted hrun hexp (by rw [hvc]; decide) hacc]

theorem exec_memwr_badLength (h : 4088 < data.length) :
    exec (.memwr f n va data) s = .next ((s.tookNext f).logged (.badMessage f.src 1)) := by
  show Host.Outcome.next (s.memwr f n va data false) = _
  unfold State.memwr
  simp only [gt_iff_lt, h, if_true]
  rw [State.arriving_admitted hrun hexp (by rw [hvc]; decide) hacc]

theorem exec_memwr (h : data.length ≤ 4088) :
    exec (.memwr f n va data) s = .next (s.hostArrives f n .write va.toNat data.length (.memwr f n va data)
      ((s.tookNext f).hostAccess f n .write va.toNat data.length false fun x t =>
        let t' := t.ioWrite (.msg f) viaHost x va.toNat data
        if t'.unacked (.msg f) then t' else t'.respond f 0 [])) := by
  have hgood : ¬ data.length > 4088 := by omega
  show Host.Outcome.next (s.memwr f n va data false) = _
  unfold State.memwr
  simp only [hgood, if_false]
  rw [State.arriving_admitted hrun hexp (by rw [hvc]; decide) hacc]

end

/-! ### The outcomes of an access that arrives -/

section
variable {s : State} {f : From} {ctx : Nat} {acc : Access} {va n : Nat} {i : Instr} {go : Context → State → State}
  (hi : exec i s = .next (s.hostArrives f ctx acc va n i ((s.tookNext f).hostAccess f ctx acc va n false go)))
include hi

theorem exec_access_noWait {r : State} (h : s.hostWait f ctx acc va n = none)
    (hr : (s.tookNext f).hostAccess f ctx acc va n false go = r) : exec i s = .next r := by
  rw [hi, State.hostArrives_goes h, hr]

/-- An access that has to wait: it takes the head of its flow, waits, and is applied when its time is over. -/
theorem exec_access_waits (hrun : s.mgmt.running = true) (hexp : s.expects f = true)
    (hacc : s.accepts f (s.partOfVf f.vfn) = true) (hvc : f.vc = 1) {m : Nat} {r : State}
    (h : s.hostWait f ctx acc va n = some m) (hr : (s.tookNext f).hostAccess f ctx acc va n false go = r) :
    ((s.flow f.src f.vc).waits = none →
      exec i s = .next (s.setFlow { s.flow f.src f.vc with waits := some (s.clock, i) })) ∧
    ∀ t0 j, (s.flow f.src f.vc).waits = some (t0, j) →
      (s.clock < t0 + m → exec i s = .next s) ∧ (t0 + m ≤ s.clock → exec i s = .next r) := by
  rw [hi, hr]
  refine ⟨fun hw => ?_, fun t0 j hw => ⟨fun ht => ?_, fun ht => ?_⟩⟩
  · rw [State.hostArrives_takesFlow hrun hexp hacc hvc h hw]
  · rw [State.hostArrives_stays hrun hexp hacc hvc h hw ht]
  · rw [State.hostArrives_over h hw ht]

theorem exec_access_notOwned (h : s.context? ctx = none ∨ ∃ c, s.context? ctx = some c ∧ c.vf ≠ f.vfn) :
    exec i s = .next ((s.tookNext f).respond f 1 []) :=
  exec_access_noWait hi (State.hostWait_notOwned h) (State.hostAccess_notOwned (s := s.tookNext f) h)

variable {c : Context} (hc : s.context? ctx = some c) (hvf : c.vf = f.vfn)
include hc hvf

theorem exec_access_fault {e : Nat × Nat} (he : s.ioFault viaHost c acc va n = some e) :
    exec i s = .next ((s.tookNext f).respond f (hostStatus e) []) :=
  exec_access_noWait hi (State.hostWait_fault hc he)
    (State.hostAccess_fault (s := s.tookNext f) hc hvf ((s.ioFault_tookNext ..).trans he))

end

/-! ### Appends and contributions (R249, R336, R402) -/

section
variable {s : State} {f : From} (hrun : s.mgmt.running = true) (hexp : s.expects f = true)
include hrun hexp

theorem exec_ringAppend_window {handle : DWord} {dev kernel cohort off : Nat} {k : Kernel} {p : Partition} {c : Context}
    (hring : ringOf handle.toNat = .window dev kernel cohort off) (hk : s.kernel? kernel = some k)
    (hhome : s.home k = some (p, c)) (hvc : f.vc = 0 ∨ f.vc = 1) (hacc : s.accepts f (some p) = true) (seq : Nat)
    (data : List Byte) :
    let u := s.tookNext f
    exec (.ringAppend f handle seq data) s = .next (
      if p.world && (s.partOfVf f.vfn).any (fun q => !q.world) then u.respond f 3 []
      else if dev != s.mgmt.device || (s.receiver kernel cohort).isNone || data.isEmpty || decide (256 < data.length) then
        u.respond f 2 []
      else
        let r := u.append (.window ⟨kernel, cohort⟩) off seq data
        r.1.respond f (r.2 % 256) []) := by
  intro u
  have hch : (channelsOf 4).contains f.vc = true := by rcases hvc with h | h <;> rw [h] <;> decide
  show execRingAppend f handle seq data s = _
  unfold execRingAppend
  simp only [hring, hk, hhome, Option.bind_some, Option.map_some, Option.any_some]
  rw [State.arriving_admitted hrun hexp hch hacc]
  rfl


/-- A ring append whose window's kernel is of a partition that does not accept the source. -/
theorem exec_ringAppend_refused {handle : DWord} {dev kernel cohort off : Nat} {k : Kernel} {p : Partition} {c : Context}
    (hring : ringOf handle.toNat = .window dev kernel cohort off) (hk : s.kernel? kernel = some k)
    (hhome : s.home k = some (p, c)) (hvc : f.vc = 0 ∨ f.vc = 1) (hacc : s.accepts f (some p) = false) (seq : Nat)
    (data : List Byte) : exec (.ringAppend f handle seq data) s = .next ((s.tookNext f).respond f 3 []) := by
  have hch : (channelsOf 4).contains f.vc = true := by rcases hvc with h | h <;> rw [h] <;> decide
  show execRingAppend f handle seq data s = _
  unfold execRingAppend
  simp only [hring, hk, hhome, Option.bind_some, Option.map_some]
  rw [State.arriving_refused hrun hexp hch hacc]

theorem exec_ringAppend_noWindow {handle : DWord}
    (hring : ∀ dev kernel cohort off, ringOf handle.toNat ≠ .window dev kernel cohort off) (hvc : f.vc = 0 ∨ f.vc = 1)
    (hacc : s.accepts f (s.partOfVf f.vfn) = true) (seq : Nat) (data : List Byte) :
    exec (.ringAppend f handle seq data) s = .next ((s.tookNext f).respond f 2 []) := by
  have hch : (channelsOf 4).contains f.vc = true := by rcases hvc with h | h <;> rw [h] <;> decide
  show execRingAppend f handle seq data s = _
  unfold execRingAppend
  split
  · next dev kernel cohort off h => exact absurd h (hring dev kernel cohort off)
  · rw [State.arriving_admitted hrun hexp hch hacc]

theorem exec_collMessage (hvc : f.vc = 2) (hacc : s.accepts f (s.partOfVf f.vfn) = true)
    (g op crc kind redop fmt e : Nat) (data : List Byte) :
    let u := s.tookNext f
    let group := s.links.find? (fun l => some l.part == (s.partOfVf f.vfn).map (·.id) && l.index == g && l.live)
    (∀ lg, group = some lg → exec (.collMessage f g op crc kind redop fmt e data) s =
      .next ((u.collDeliver lg op ((lg.devs.findIdx? (· == f.src)).getD lg.devs.length) [kind, redop, fmt, e, crc] data).respond
        f 0 [])) ∧
    (group = none → exec (.collMessage f g op crc kind redop fmt e data) s = .next (u.respond f 0 [])) := by
  intro u group
  have hch : (channelsOf 7).contains f.vc = true := by rw [hvc]; decide
  have harrives : exec (.collMessage f g op crc kind redop fmt e data) s = .next ((match group with
      | some lg => u.collDeliver lg op ((lg.devs.findIdx? (· == f.src)).getD lg.devs.length) [kind, redop, fmt, e, crc] data
      | none => u).respond f 0 []) := congrArg Host.Outcome.next (State.arriving_admitted hrun hexp hch hacc)
  exact ⟨fun lg h => by rw [harrives, h], fun h => by rw [harrives, h]⟩

end

/-! ### The statement -/

/-- Settles O47: an access by whether it waits and what it then answers, an append and a contribution by what they do once
admitted, a ring append by the partition that admits it and by the append's own answer. -/
theorem hostMessages : Obligations.HostMessages := by
  refine ⟨fun s f hrun hexp hacc => ?fromHost, fun s f handle seq data hrun hexp hvc => ?toRing⟩
  case fromHost =>
    intro w u waits
    refine ⟨fun hvc n len va data => ⟨exec_memrd_badLength hrun hexp hacc hvc, exec_memwr_badLength hrun hexp hacc hvc,
      fun h => ⟨fun hlen => exec_access_notOwned (exec_memwr hrun hexp hacc hvc hlen) h,
        fun h0 h1 => exec_access_notOwned (exec_memrd hrun hexp hacc hvc h0 h1) h⟩,
      fun c hc hvf => ⟨fun h0 h1 => ?read, fun hlen => ?write⟩⟩, fun q bs hvc => ?append,
      fun hvc => exec_collMessage hrun hexp hvc hacc⟩
    case read =>
      have hi := exec_memrd (va := va) (n := n) hrun hexp hacc hvc h0 h1
      refine ⟨fun e => exec_access_fault hi hc hvf, fun he => ?_⟩
      have hwait := State.hostWait_noFault hc hvf he
      have hmade := State.hostAccess_made (s := u) (go := fun x t => t.respond f 0 (t.ioRead viaHost x va.toNat len))
        hc hvf ((s.ioFault_tookNext f ..).trans he) rfl
      exact ⟨fun hd => exec_access_noWait hi (hwait.trans (if_neg (ne_true_of_eq_false hd))) hmade,
        fun hd => exec_access_waits hi hrun hexp hacc hvc (hwait.trans (if_pos hd)) hmade⟩
    case write =>
      have hi := exec_memwr (va := va) (n := n) hrun hexp hacc hvc hlen
      refine ⟨fun e => exec_access_fault hi hc hvf, fun he => ?_⟩
      have he' : u.ioFault viaHost c .write va.toNat data.length = none := (s.ioFault_tookNext f ..).trans he
      have hwait := State.hostWait_noFault hc hvf he
      refine ⟨fun hm => ?_, fun hm => ?_⟩
      · have hm' : u.ioMigrates viaHost c va.toNat data.length = true := (s.ioMigrates_tookNext f ..).trans hm
        exact exec_access_waits hi hrun hexp hacc hvc (hwait.trans (if_pos hm)) (State.hostAccess_migrates hc hvf he' hm')
      · have hm' : u.ioMigrates viaHost c va.toNat data.length = false := (s.ioMigrates_tookNext f ..).trans hm
        have hwait' := hwait.trans (if_neg (ne_true_of_eq_false hm))
        have hmade := State.hostAccess_made (s := u) (go := fun x t =>
          let t' := t.ioWrite (.msg f) viaHost x va.toNat data
          if t'.unacked (.msg f) then t' else t'.respond f 0 []) hc hvf he' hm'
        exact ⟨fun hd => exec_access_noWait hi (hwait'.trans (if_neg (ne_true_of_eq_false hd))) hmade,
          fun hd => exec_access_waits hi hrun hexp hacc hvc (hwait'.trans (if_pos hd)) hmade⟩
    case append =>
      have hch : (channelsOf 5).contains f.vc = true := by rcases hvc with h | h <;> rw [h] <;> decide
      exact congrArg Host.Outcome.next (State.arriving_admitted hrun hexp hch hacc)
  case toRing =>
    intro u i
    refine ⟨fun hring hacc => exec_ringAppend_noWindow hrun hexp hring hvc hacc seq data,
      fun dev kernel cohort off k p c hring hk hhome =>
        ⟨fun hacc => exec_ringAppend_refused hrun hexp hring hk hhome hvc hacc seq data, fun hacc hw hq => ?foreign,
          fun hacc hsame => ?admitted⟩⟩
    case foreign =>
      obtain ⟨q, hq, hqw⟩ := hq
      have hforeign : (p.world && (s.partOfVf f.vfn).any (fun q => !q.world)) = true := by simp [hw, hq, hqw]
      rw [exec_ringAppend_window hrun hexp hring hk hhome hvc hacc, if_pos hforeign]
    case admitted =>
      have hsame' : ¬ (p.world && (s.partOfVf f.vfn).any (fun q => !q.world)) = true := by
        obtain hp | hall := hsame
        · simp [hp]
        · cases hq : s.partOfVf f.vfn with
          | none => simp
          | some q => simp [hall q hq]
      have happend := exec_ringAppend_window hrun hexp hring hk hhome hvc hacc seq data
      simp only [if_neg hsame'] at happend
      refine ⟨fun hbad => ?_, fun hdev hrecv hne hlen => ?_⟩
      · have hbad' : (dev != s.mgmt.device || (s.receiver kernel cohort).isNone || data.isEmpty
            || decide (256 < data.length)) = true := by
          simpa [or_assoc] using hbad
        rw [if_pos hbad'] at happend
        exact happend
      · have hgood : ¬ (dev != s.mgmt.device || (s.receiver kernel cohort).isNone || data.isEmpty
            || decide (256 < data.length)) = true := by
          simp [hdev, hne, hlen, Option.isSome_iff_ne_none.mp hrecv]
        rw [if_neg hgood] at happend
        refine ⟨fun h => ?_, fun r h => ⟨fun hfits => ?_, fun hfits => ?_⟩⟩
        · rw [State.append_noRing h] at happend
          simpa only [Nat.reduceMod] using happend
        · rw [State.append_full h hfits] at happend
          simpa only [Nat.reduceMod] using happend
        · rw [State.append_fits h hfits] at happend
          exact happend

end Sys2Proof.Machine
end

section
/-! The state after reset (R162, R389, R420, R438, R460, R461). -/

namespace Sys2Proof.Machine

/-! ### The registers of a core (R420) -/

theorem State.coreOf_reset (core : Nat) : State.reset.coreOf core = Core.reset core := rfl

theorem getD_replicate_self {α : Type} (n i : Nat) (d : α) : (List.replicate n d).getD i d = d := by
  rw [List.getD_eq_getElem?_getD, List.getElem?_replicate]
  split <;> rfl

/-- Every counter of a core at reset, of whichever quadrant, is 0. -/
theorem Spectro.counter_reset (q n : Nat) : (Spectro.reset.sg.getD q []).getD n 0 = 0 := by
  rw [show Spectro.reset.sg = List.replicate 4 (List.replicate 18 0) from rfl, List.getD_eq_getElem?_getD (l := .replicate ..),
    List.getElem?_replicate]
  split
  · exact getD_replicate_self 18 n 0
  · rfl

/-- The bases and limits of the trace windows of a core at reset are 0. -/
theorem TraceUnit.window_reset (base : Bool) (n : Nat) :
    (if base then TraceUnit.reset.wbase else TraceUnit.reset.wlimit).getD n 0 = 0 := by
  rw [show TraceUnit.reset.wlimit = TraceUnit.reset.wbase from rfl, ite_self]
  exact getD_replicate_self 8 n 0

theorem State.regRead_reset (core off : Nat) : State.reset.regRead core off = 0 := by
  unfold State.regRead
  rw [State.coreOf_reset]
  extract_lets c t p
  have ht : t = TraceUnit.reset := rfl
  have hp : p = Spectro.reset := rfl
  split
  next q n _ =>
    rw [hp, Spectro.counter_reset, show Spectro.reset.stat = List.replicate 4 0 from rfl, getD_replicate_self, ite_self]
    rfl
  next =>
    rw [ht, hp, TraceUnit.window_reset]
    simp only [TraceUnit.reset, Spectro.reset, ite_self]

/-! ### The first step -/

/-- With no fragment to go on and no step of the device due, the cycle ends. -/
theorem State.turn_reset : State.reset.turn = .tick := by
  have hentering : State.reset.entering = none := rfl
  have hdue : State.reset.due = none := rfl
  have hissuing : State.reset.issuing = none := rfl
  have hlast : State.reset.dueLast = none := rfl
  show State.reset.policy = .tick
  simp only [State.policy, hentering, hdue, hissuing, hlast]

theorem State.ports_reset {p : Port} (h : p ∈ State.reset.ports) : p.st = .down ∧ p.lnkst = 0 := by
  obtain ⟨n, -, rfl⟩ := List.mem_map.1 h
  exact ⟨rfl, by simp [Port.lnkst, Port.reset, LinkSt.code]⟩

/-- Settles O55: the registers one by one, the first step by its turn, everything else as `State.reset` lists it. -/
theorem resetState : Obligations.ResetState :=
  ⟨State.regRead_reset, rfl, rfl, rfl, rfl, rfl, rfl, rfl, rfl, rfl, rfl, fun _ => State.ports_reset, rfl, rfl, by
    simp only [step, State.turn_reset]⟩

end Sys2Proof.Machine
end

section
/-! Records found by their numbers, once one has been replaced. -/

namespace Sys2Proof.Machine

theorem State.part?_id {s : State} {n : Nat} {p : Partition} (h : s.part? n = some p) : p.id = n := by
  simpa using List.find?_some h

theorem State.queue?_num {s : State} {n : Nat} {q : Queue} (h : s.queue? n = some q) : q.num = n := by
  simpa using List.find?_some h

theorem State.context?_id {s : State} {n : Nat} {c : Context} (h : s.context? n = some c) : c.id = n := by
  simpa using List.find?_some h

theorem State.kernel?_id {s : State} {n : Nat} {k : Kernel} (h : s.kernel? n = some k) : k.id = n := by
  simpa using List.find?_some h

theorem State.port?_id {s : State} {n : Nat} {p : Port} (h : s.port? n = some p) : p.id = n := by
  simpa using List.find?_some h

theorem State.part?_setPart_same {s : State} {n : Nat} {p y : Partition} (h : s.part? n = some y) (hid : p.id = n) :
    (s.setPart p).part? n = some p := by
  rw [State.part?_setPart, if_pos hid, h]
  rfl

theorem State.queue?_setQueue_same {s : State} {n : Nat} {q y : Queue} (h : s.queue? n = some y) (hid : q.num = n) :
    (s.setQueue q).queue? n = some q := by
  rw [State.queue?_setQueue, if_pos hid, h]
  rfl

theorem State.context?_setContext_same {s : State} {n : Nat} {c y : Context} (h : s.context? n = some y) (hid : c.id = n) :
    (s.setContext c).context? n = some c := by
  rw [State.context?_setContext, if_pos hid, h]
  rfl

theorem State.kernel?_setKernel_same {s : State} {n : Nat} {k y : Kernel} (h : s.kernel? n = some y) (hid : k.id = n) :
    (s.setKernel k).kernel? n = some k := by
  rw [State.kernel?_setKernel, if_pos hid, h]
  rfl

theorem State.cohort?_setCohort_same {s : State} {n : CohortKey} {c y : Cohort} (h : s.cohort? n = some y)
    (hid : c.key = n) : (s.setCohort c).cohort? n = some c := by
  rw [State.cohort?_setCohort, if_pos hid, h]
  rfl

theorem State.port?_setPort_same {s : State} {n : Nat} {p y : Port} (h : s.port? n = some y) (hid : p.id = n) :
    (s.setPort p).port? n = some p := by
  rw [State.port?_setPort, if_pos hid, h]
  rfl

end Sys2Proof.Machine
end

section
/-! Settings of the firmware, power and clocks, and the board's pins (R323, R354, R395, R443, R444, R458, R459, R462). -/

namespace Sys2Proof.Machine

theorem exec_i3cAccess_eq (s : State) (op : I3cOp) : exec (.i3cAccess op) s = execI3cAccess op s := rfl

section
variable {s : State} {p : Partition} {n : Nat} (hp : s.part? n = some p)
include hp

/-! ### Power and clocks (R444, R462) -/

theorem exec_supplyTrip (mhz : Nat) : exec (.supplyTrip n mhz) s =
    .next ((s.logged (.trip n mhz)).setPart { p with clk := min p.clk mhz, trip := some s.clock }) := by
  show execSupplyTrip n mhz s = _
  rw [execSupplyTrip, hp]

theorem exec_powerClockSetting (w m : Option Nat) : exec (.powerClockSetting n w m) s = .next (s.setPart { p with
    pwr := w.elim p.pwr fun x => min x (min p.pwrMax p.ceiling)
    clk := m.elim p.clk fun x => if p.trip == some s.clock then p.clk else min x p.clkMax }) := by
  rw [show exec (.powerClockSetting n w m) s = execPowerClockSetting n w m s from rfl, execPowerClockSetting, hp]
  cases w <;> cases m <;> rfl

theorem exec_readPower (hr : s.mgmt.inReset = false) : exec (.i3cAccess (.readPower n)) s =
    .next (s.emit (.i3c [p.pwr, p.ceiling, p.pwrMax])) := by
  rw [exec_i3cAccess_eq]
  simp only [execI3cAccess, hr, Bool.false_eq_true, if_false, hp]

theorem exec_setCeiling (hr : s.mgmt.inReset = false) (v : Nat) : exec (.i3cAccess (.setCeiling n v)) s =
    .next (if s.mgmt.pins.getLsbD 1 && decide (v < p.pwrMax) then s.setPart { p with ceiling := v, pwr := min p.pwr v }
      else s) := by
  rw [exec_i3cAccess_eq]
  simp only [execI3cAccess, hr, Bool.false_eq_true, if_false, hp]

/-! ### What the firmware sets (R323, R354, R395) -/

variable (hrun : s.mgmt.running = true)
include hrun

theorem State.part?_setting_slice (v : Nat) : (s.setting (.slice n v)).part? n = some { p with slice := v } := by
  simp only [State.setting, hrun, Bool.not_true, Bool.false_eq_true, if_false, hp]
  exact State.part?_setPart_same hp (State.part?_id hp :)

theorem State.part?_setting_timeout (v : Nat) : (s.setting (.timeout n v)).part? n =
    some (if 2250 ≤ v ∧ v ≤ 2250000000 then { p with timeout := v } else p) := by
  simp only [State.setting, hrun, Bool.not_true, Bool.false_eq_true, if_false, hp]
  split
  · exact State.part?_setPart_same hp (State.part?_id hp :)
  · exact hp

omit hp hrun in
/-- The throttle of the partition's quadrants is set in the cores alone. -/
theorem State.parts_cgSet (s : State) (p : Partition) : (s.cgSet p).parts = (s.setPart p).parts := by
  unfold State.cgSet
  generalize s.setPart p = t
  induction p.cores generalizing t with
  | nil => rfl
  | cons core cores ih =>
    obtain ⟨cs, hcs⟩ := t.modCore_only core fun c => { c with quads := c.quads.map fun q =>
      { q with engaged := cgEngaged p.cgctl (t.levels.getD (core / 16) 0) q.engaged } }
    rw [List.foldl_cons, hcs]
    exact ih _

theorem State.part?_setting_cgctl (v : BitVec 32) :
    (s.setting (.cgctl n v)).part? n = some { p with cgctl := v &&& 0x8FFFFF00 } := by
  simp only [State.setting, hrun, Bool.not_true, Bool.false_eq_true, if_false, hp]
  rw [State.part?, State.parts_cgSet]
  exact State.part?_setPart_same hp (State.part?_id hp :)

end

theorem step_of_setting {s : State} {v : Setting} (h : s.turn = .setting v) : step s = .next (s.begin.setting v) := by
  simp only [step, h]

/-! ### The pins and the management bus (R443, R458, R462) -/

theorem exec_diaphragmWrite (s : State) (part reg v : Nat) : exec (.diaphragmWrite part reg v) s =
    .next (if s.mgmt.locked then s.logged (.diaphragm part reg) else s) := rfl

theorem exec_i3cAccess_inReset {s : State} (h : s.mgmt.inReset = true) (op : I3cOp) :
    exec (.i3cAccess op) s = .next s := if_pos h

theorem exec_i3cAccess {s : State} (h : s.mgmt.inReset = false) :
    exec (.i3cAccess .readBootst) s = .next (s.emit (.i3c [s.mgmt.bootst.toNat])) ∧
    exec (.i3cAccess .readLog) s = .next (s.emit (.i3c (s.log.flatMap LogEntry.words))) ∧
    exec (.i3cAccess .readSensors) s =
      .next (s.emit (.i3c ((List.range 8).map fun k => Config.sensor (8 * s.free + k)))) := by
  have hr : ¬ s.mgmt.inReset = true := by simp [h]
  exact ⟨if_neg hr, if_neg hr, if_neg hr⟩

theorem exec_faultNAssertionEnd {s : State} {e : Nat} (h : s.mgmt.faultn = some e) : exec .faultNAssertionEnd s =
    .next (if e ≤ s.clock then { s with mgmt := { s.mgmt with faultn := none } } else s) := by
  show execFaultNAssertionEnd s = _
  rw [execFaultNAssertionEnd, h]

/-! ### The statement -/

/-- Settles O54: each setting by the partition that it leaves, each access of the board by what it emits. -/
theorem boardAndPower : Obligations.BoardAndPower := by
  refine ⟨fun s part reg v => ?diaphragm, fun s p hp => ⟨fun mhz => ?trip, fun w m => ?clocks, fun hr => ?power⟩,
    fun s part p hrun hp => ?settings, fun s => ⟨fun die => ?therm, fun hr => exec_i3cAccess_inReset hr, fun hr => ?board,
      fun tms tdi => ?scan, fun e he => ?faultn⟩⟩
  case diaphragm =>
    rw [exec_diaphragmWrite]
    exact ⟨fun h => by rw [if_pos h]; rfl, fun h => by rw [if_neg (by simp [h])]⟩
  case trip =>
    exact ⟨_, exec_supplyTrip hp mhz, rfl, State.part?_setPart_same (s := s.logged _) hp rfl⟩
  case clocks =>
    refine ⟨_, _, exec_powerClockSetting hp w m, State.part?_setPart_same hp rfl, ?_, ?_, ?_, ?_⟩
    · rintro x rfl
      rfl
    · rintro rfl
      rfl
    · rintro x rfl htrip
      exact if_neg (by simpa using htrip)
    · rintro (rfl | htrip)
      · rfl
      · cases m with
        | none => rfl
        | some m => exact if_pos (by simpa using htrip)
  case power =>
    refine ⟨⟨_, exec_readPower hp hr, rfl⟩, fun v => ⟨fun hpin hv => ?_, fun h => ?_⟩⟩ <;> rw [exec_setCeiling hp hr]
    · rw [if_pos (by simp [hpin, hv])]
      exact ⟨_, rfl, State.part?_setPart_same hp rfl⟩
    · rcases h with h | h
      · rw [h, Bool.false_and, if_neg Bool.false_ne_true]
      · rw [decide_eq_false (Nat.not_lt.2 h), Bool.and_false, if_neg Bool.false_ne_true]
  case settings =>
    have hp' : s.begin.part? part = some p := hp
    have hrun' : s.begin.mgmt.running = true := hrun
    exact ⟨fun n h => ⟨_, step_of_setting h, State.part?_setting_slice hp' hrun' n⟩,
      fun n h => ⟨_, step_of_setting h, State.part?_setting_timeout hp' hrun' n⟩,
      fun v h => ⟨_, step_of_setting h, State.part?_setting_cgctl hp' hrun' v⟩⟩
  case therm => exact ⟨_, rfl, rfl, rfl, rfl, rfl⟩
  case board =>
    obtain ⟨hboot, hlog, hsensors⟩ := exec_i3cAccess hr
    exact ⟨⟨_, hboot, rfl⟩, ⟨_, hlog, rfl⟩, _, _, hsensors, rfl, by simp⟩
  case scan =>
    exact ⟨_, _, rfl, rfl, fun h => by rw [h, Bool.false_and], rfl, rfl⟩
  case faultn =>
    rw [exec_faultNAssertionEnd he]
    refine ⟨fun h => ?_, fun h => by rw [if_neg (Nat.not_le.2 h)]⟩
    rw [if_pos h]
    exact ⟨_, rfl, rfl, rfl⟩

end Sys2Proof.Machine
end

section
/-! Reset, the boot ROM's checks, and the far memory that a configuration image maps (R403, R438, R439, R442, R460, R461). -/

namespace Sys2Proof.Machine

/-! ### Far memory that the configuration image maps (R403) -/

/-- Bytes of some far ranges. -/
def farSize (rs : List (Nat × Nat)) : Nat := (rs.map fun r => r.2 - r.1).sum

theorem farSize_append (rs qs : List (Nat × Nat)) : farSize (rs ++ qs) = farSize rs + farSize qs := by
  simp only [farSize, List.map_append, List.sum_append]

theorem State.farBytes_eq (s : State) : s.farBytes = farSize (s.parts.flatMap (·.far)) := by
  rw [farSize, List.map_flatMap]
  rfl

/-- Ranges that may hold so many bytes hold no more. -/
theorem farSize_farWithin (left : Nat) (rs : List (Nat × Nat)) : farSize (farWithin left rs) ≤ left := by
  induction rs generalizing left with
  | nil => exact Nat.zero_le _
  | cons r rs ih =>
    unfold farWithin
    split
    next h =>
      have hrest := ih (left - (r.2 - r.1))
      show r.2 - r.1 + farSize (farWithin (left - (r.2 - r.1)) rs) ≤ left
      omega
    next => exact ih left

theorem farSize_cfgPartition (b : List Byte) (old : List Partition) (p : Nat) :
    farSize (cfgPartition b old p).far ≤ 2 ^ 44 - farSize (old.flatMap (·.far)) := farSize_farWithin ..

/-- Partitions that are set up one after the other keep within what far memory may hold. -/
theorem farSize_addPartitions (b : List Byte) (ids : List Nat) (ps : List Partition)
    (h : farSize (ps.flatMap (·.far)) ≤ 2 ^ 44) :
    farSize ((ids.foldl (fun ps p => ps ++ [cfgPartition b ps p]) ps).flatMap (·.far)) ≤ 2 ^ 44 := by
  induction ids generalizing ps with
  | nil => exact h
  | cons p rest ih =>
    refine ih _ ?_
    have hp := farSize_cfgPartition b ps p
    rw [List.flatMap_append, farSize_append, List.flatMap_singleton]
    omega

theorem farSize_cfgParts (b : List Byte) : farSize ((cfgParts b).flatMap (·.far)) ≤ 2 ^ 44 :=
  farSize_addPartitions b _ [] (Nat.zero_le _)

/-! ### The checks of an image (R439) -/

theorem imgFault_short {b : List Byte} {magic : Nat} (h : b.length < 192) : imgFault b magic = some 1 := by
  rw [imgFault, decide_eq_true h, Bool.true_or, if_pos rfl]

theorem imgFault_oldVersion {b : List Byte} {magic : Nat} (hlen : 192 ≤ b.length) (hmagic : recAt b 0 4 = magic)
    (hkey : sm3 (imgBytes b 16 64) = Config.fuseKeyDigest) (hsvn : recAt b 8 2 < minSvn) : imgFault b magic = some 3 := by
  have h1 : ¬ (decide (b.length < 192) || recAt b 0 4 != magic) = true := by simp [hlen, hmagic]
  have h2 : ¬ (sm3 (imgBytes b 16 64) != Config.fuseKeyDigest) = true := by simp [hkey]
  rw [imgFault, if_neg h1, if_neg h2, if_pos hsvn]

theorem bootFailed_two (c : Nat) : bootFailed 2 c = BitVec.ofNat 32 (0x40020000 + 256 * c) :=
  congrArg (BitVec.ofNat 32) (by omega)

theorem bootFailed_three (c : Nat) : bootFailed 3 c = BitVec.ofNat 32 (0x40030000 + 256 * c) :=
  congrArg (BitVec.ofNat 32) (by omega)

/-! ### RESET_N is released (R438) -/

/-- The boot ROM has stopped at a check: the management port trains, no other port does, and no firmware runs. -/
def State.bootStopped (s : State) (step check : Nat) : State :=
  { s with
    ports := s.ports.map fun p => if p.id == 0 then { (p.train s.clock) with failed := 0 } else p
    mgmt := { s.mgmt with inReset := false, running := false, bootst := bootFailed step check } }

theorem State.ports_bootStopped {s : State} {step check : Nat} {q : Port} (h : q ∈ (s.bootStopped step check).ports)
    (hq : q.id ≠ 0) : q ∈ s.ports := by
  obtain ⟨p, hp, rfl⟩ := List.mem_map.1 h
  by_cases h0 : p.id = 0
  · exact absurd (by rw [if_pos (beq_iff_eq.2 h0)]; exact h0) hq
  · rwa [if_neg (by simpa using h0)]

theorem State.ports_booted {s : State} {img : BootImage} {p : Port} (h : p ∈ (s.booted img).ports) : p.st = .training := by
  obtain ⟨q, -, rfl⟩ := List.mem_map.1 h
  rfl

theorem exec_resetNRelease_held {s : State} (h : s.mgmt.inReset = false ∨ s.mgmt.pwrgood = false) (img : BootImage) :
    exec (.resetNRelease img) s = .next s :=
  if_pos (by rcases h with h | h <;> simp [h])

section
variable {s : State} {img : BootImage} (hreset : s.mgmt.inReset = true) (hpower : s.mgmt.pwrgood = true)
include hreset hpower

theorem exec_resetNRelease : exec (.resetNRelease img) s = .next
    (match imgFault img.firmware 0x4E5A4657 with
    | some c => s.bootStopped 2 c
    | none => match imgFault img.config 0x4E5A4347 with
      | some c => s.bootStopped 3 c
      | none => s.booted img) := by
  show execResetNRelease img s = _
  rw [execResetNRelease, if_neg (by simp [hreset, hpower])]
  cases imgFault img.firmware 0x4E5A4657 with
  | some c => rfl
  | none => cases imgFault img.config 0x4E5A4347 <;> rfl

theorem exec_resetNRelease_badFirmware {c : Nat} (h : imgFault img.firmware 0x4E5A4657 = some c) :
    exec (.resetNRelease img) s = .next (s.bootStopped 2 c) := by
  rw [exec_resetNRelease hreset hpower, h]

variable (hfirmware : imgFault img.firmware 0x4E5A4657 = none)
include hfirmware

theorem exec_resetNRelease_badConfig {c : Nat} (h : imgFault img.config 0x4E5A4347 = some c) :
    exec (.resetNRelease img) s = .next (s.bootStopped 3 c) := by
  rw [exec_resetNRelease hreset hpower, hfirmware, h]

theorem exec_resetNRelease_boots (h : imgFault img.config 0x4E5A4347 = none) :
    exec (.resetNRelease img) s = .next (s.booted img) := by
  rw [exec_resetNRelease hreset hpower, hfirmware, h]

end

/-- Of a device without newer bytes in the near cache memory outlives the reset (R226, R460). -/
theorem State.farLost_clean {s : State} (h : s.dirty = []) : s.farLost = s.mem := by
  rw [State.farLost, h, List.foldl_nil]

/-! ### The statement -/

/-- Settles O53: a release by the first image that fails a check, the partitions of a boot by the room that far memory has. -/
theorem resetAndBoot : Obligations.ResetAndBoot := by
  intro s
  refine ⟨⟨_, rfl, rfl, rfl⟩, ⟨_, rfl, rfl, rfl, rfl, rfl, rfl, rfl, rfl, rfl, rfl, rfl, rfl, State.farLost_clean⟩,
    fun img h => exec_resetNRelease_held h img, fun img hreset hpower => ⟨fun c hc => ?firmware, fun c hf hc => ?config,
      fun hf hc => ?boots⟩, fun b magic => ⟨imgFault_short, imgFault_oldVersion⟩⟩
  case firmware =>
    exact ⟨_, exec_resetNRelease_badFirmware hreset hpower hc, rfl, rfl, bootFailed_two c,
      fun q hq h0 => State.ports_bootStopped hq h0⟩
  case config =>
    exact ⟨_, exec_resetNRelease_badConfig hreset hpower hf hc, rfl, bootFailed_three c⟩
  case boots =>
    refine ⟨_, exec_resetNRelease_boots hreset hpower hf hc, rfl, rfl, rfl, rfl, ?_, fun p hp => State.ports_booted hp,
      rfl, rfl, rfl, rfl⟩
    rw [State.farBytes_eq]
    exact farSize_cfgParts img.config

end Sys2Proof.Machine
end

section
/-! Management requests that the Diaphragm admits (R393, R396, R398), and the SPDM responder (R440 to R442). -/

namespace Sys2Proof.Machine

/-- The firmware runs, and a message from `f` is the next of its flow on channel 3, from a source that the Diaphragm admits
for its own partition (R392, R393, R396, R438). -/
structure State.Admits (s : State) (f : From) : Prop where
  running : s.mgmt.running = true
  expects : s.expects f = true
  channel : f.vc = 3
  accepts : s.accepts f (s.partOfVf f.vfn) = true

section
variable {s : State} {f : From} (h : s.Admits f)
include h

theorem State.Admits.arriving {go : State → State} :
    s.arriving f 6 (s.partOfVf f.vfn) go = go (s.tookNext f) :=
  State.arriving_admitted h.running h.expects (by rw [h.channel]; rfl) h.accepts

theorem State.Admits.request {go : State → State × Nat × Nat} {r : State × Nat × Nat} (hr : go (s.tookNext f) = r) :
    s.request f go = r.1.respond f r.2.1 (mgmtBody r.2.2) := by
  rw [State.request, h.arriving, hr]

/-- What an SPDM request that is admitted answers. -/
theorem State.Admits.spdm {go : State → State × List Byte} {c : SpdmSt} {body : List Byte}
    (hr : go (s.tookNext f) = ((s.tookNext f).setSpdm c, body)) :
    s.spdm f go = ((s.tookNext f).setSpdm c).respond f 0 (natLe 7 0 ++ body) := by
  rw [State.spdm, h.arriving, hr]

end

/-! ### The connection's state (R441) -/

theorem State.setSpdm_self {s : State} {c : SpdmSt} (h : s.mgmt.spdm = c) : s.setSpdm c = s := by
  rw [← h]
  rfl

theorem State.spdmIn_unexpected {s : State} {ok : SpdmSt → Bool} {go : State × List Byte} (h : ok s.mgmt.spdm = false) :
    s.spdmIn ok go = (s.setSpdm s.mgmt.spdm, spdmError 4) := by
  rw [State.spdmIn, if_neg (by simp [h]), State.setSpdm_self rfl]

theorem State.spdmIn_expected {s : State} {ok : SpdmSt → Bool} {go : State × List Byte} (h : ok s.mgmt.spdm = true) :
    s.spdmIn ok go = go := if_pos h

/-- The answer `body` to an SPDM request, which leaves the connection in a state. -/
def Tells (s : State) (f : From) (i : Instr) (c : SpdmSt) (body : List Byte) : Prop :=
  exec i s = .next (((s.tookNext f).setSpdm c).respond f 0 (natLe 7 0 ++ body))

section
variable {s : State} {f : From} (h : s.Admits f) {i : Instr} {ok : SpdmSt → Bool} {go : State → State × List Byte}
  (hi : exec i s = .next (s.spdm f fun s => s.spdmIn ok (go s)))
include h hi

theorem tells_unexpected (hst : ok s.mgmt.spdm = false) : Tells s f i s.mgmt.spdm [0x13, 0x7F, BitVec.ofNat 8 4, 0] :=
  hi.trans (congrArg Host.Outcome.next (h.spdm (State.spdmIn_unexpected (s := s.tookNext f) hst)))

theorem tells_expected (hst : ok s.mgmt.spdm = true) {c : SpdmSt} {body : List Byte}
    (hgo : go (s.tookNext f) = ((s.tookNext f).setSpdm c, body)) : Tells s f i c body :=
  hi.trans (congrArg Host.Outcome.next (h.spdm ((State.spdmIn_expected (s := s.tookNext f) hst).trans hgo)))

/-- A request that asks for what the responder does not have is answered ERROR 1. -/
theorem tells_invalid (hst : ok s.mgmt.spdm = true) (hgo : go (s.tookNext f) = (s.tookNext f, spdmError 1)) :
    Tells s f i s.mgmt.spdm [0x13, 0x7F, BitVec.ofNat 8 1, 0] :=
  tells_expected h hi hst (hgo.trans (congrArg (·, spdmError 1) (State.setSpdm_self (s := s.tookNext f) rfl).symm))

end

/-! ### Certificates (R440) -/

/-- The vendor's chain to the device certificate depends on the seed alone. -/
theorem State.chain_zero (s t : State) : t.chain 0 = s.chain 0 := by
  simp only [State.chain, BEq.rfl, if_true]

theorem State.chain_tookNext (s : State) (f : From) (slot : Nat) : (s.tookNext f).chain slot = s.chain slot := by
  have hid : (s.tookNext f).mgmt.identity = s.mgmt.identity := rfl
  simp only [State.chain, hid]

/-! ### Measurements (R442) -/

theorem filter_zipIdx_index {α : Type} (l : List α) (k i : Nat) (hk : k ≤ i) {d : α} (h : l[i - k]? = some d) :
    (l.zipIdx k).filter (fun p => p.2 == i) = [(d, i)] := by
  induction l generalizing k with
  | nil => simp at h
  | cons x xs ih =>
    rw [List.zipIdx_cons, List.filter_cons]
    by_cases hi : k = i
    · subst hi
      have hrest : (xs.zipIdx (k + 1)).filter (fun p => p.2 == k) = [] := by
        refine List.filter_eq_nil_iff.2 fun p hp => ?_
        have := List.le_snd_of_mem_zipIdx hp
        simp only [beq_iff_eq]
        omega
      rw [Nat.sub_self, List.getElem?_cons_zero, Option.some.injEq] at h
      simp [hrest, h]
    · rw [if_neg (by simpa using hi)]
      refine ih (k + 1) (by omega) ?_
      rwa [show i - k = i - (k + 1) + 1 by omega, List.getElem?_cons_succ] at h

section
variable {s : State} {f : From} (h : s.Admits f) (hst : s.mgmt.spdm = .negotiated)
include h hst

/-- What GET_MEASUREMENTS answers with the measurement blocks `rcd`, of which there are `n`. -/
theorem tells_measurements (nonce : List Byte) {index n total : Nat} {rcd : List Byte}
    (hgo : (let all := s.mgmt.measures.zipIdx 1
      let bs := if index == 0 then [] else if index == 0xFF then all else all.filter fun p => p.2 == index
      (bs.isEmpty && index != 0) = false ∧ bs.length = n ∧ (bs.flatMap fun p => measureBlock p.2 p.1) = rcd ∧
        (if index == 0 then all.length else 0) = total)) :
    let body := spdmHead 0x60 total 0 ++ natLe 1 n ++ natLe 3 rcd.length ++ rcd ++ Config.spdmNonce s.free ++ natLe 2 0
    Tells s f (.getMeasurements f index nonce) .negotiated (if nonce = [] then body else s.signed nonce body) := by
  obtain ⟨hsome, rfl, rfl, rfl⟩ := hgo
  refine tells_expected h (i := .getMeasurements f index nonce) rfl (by rw [hst]; rfl) ?_
  rw [State.setSpdm_self (s := s.tookNext f) hst]
  refine (if_neg (ne_true_of_eq_false hsome)).trans ?_
  simp only [List.isEmpty_iff]
  rfl

theorem tells_measurementCount (nonce : List Byte) :
    let body := [0x13, 0x60, BitVec.ofNat 8 s.mgmt.measures.length, 0] ++ [0] ++ natLe 3 0 ++ Config.spdmNonce s.free ++
      natLe 2 0
    Tells s f (.getMeasurements f 0 nonce) .negotiated (if nonce = [] then body else s.signed nonce body) :=
  tells_measurements h hst nonce (index := 0) (n := 0) (rcd := []) ⟨rfl, rfl, rfl, List.length_zipIdx⟩

theorem tells_measurement (nonce : List Byte) {i : Nat} {d : List Byte} (h1 : 1 ≤ i) (h2 : i < 0xFF)
    (hd : s.mgmt.measures[i - 1]? = some d) :
    let body := [0x13, 0x60, 0, 0] ++ [1] ++ natLe 3 (measureBlock i d).length ++ measureBlock i d ++
      Config.spdmNonce s.free ++ natLe 2 0
    Tells s f (.getMeasurements f i nonce) .negotiated (if nonce = [] then body else s.signed nonce body) := by
  refine tells_measurements h hst nonce (index := i) (n := 1) (total := 0) ?_
  have h0 : (i == 0) = false := by simpa using Nat.ne_of_gt h1
  have hall : (i == 0xFF) = false := by simpa using Nat.ne_of_lt h2
  simp only [h0, hall, Bool.false_eq_true, if_false, filter_zipIdx_index _ 1 i h1 hd]
  exact ⟨rfl, rfl, List.append_nil _, trivial⟩

end

/-! ### The statement -/

/-- Settles O51: each request by the state that it is for, and then by what it asks for. -/
theorem spdmResponses : Obligations.SpdmResponses := by
  intro s f hrun hexp hvc hacc
  have h : s.Admits f := ⟨hrun, hexp, hvc, hacc⟩
  refine ⟨?version, fun hst => ?capabilities, fun hst => ?early, fun a hash m => ⟨fun hst => ?unasked, fun hst hno => ?offers,
    fun hst hyes => ?agreed⟩, fun n m k bs i hi hst => ?unready, fun hst => ⟨?digests, fun t => State.chain_zero s t,
      fun slot off len => ?certificate, fun slot nonce => ?challenge, fun nonce => tells_measurementCount h hst nonce,
      fun i d nonce h1 h2 hd => tells_measurement h hst nonce h1 h2 hd⟩⟩
  case version =>
    exact congrArg Host.Outcome.next (h.spdm rfl)
  case capabilities =>
    exact tells_expected h (i := .getCapabilities f) rfl (by rw [hst]; rfl) rfl
  case early =>
    exact tells_unexpected h (i := .getCapabilities f) rfl (by simpa using hst)
  case unasked =>
    exact tells_unexpected h (i := .negotiateAlgorithms f a hash m) rfl (by simpa using hst)
  case offers =>
    exact tells_invalid h (i := .negotiateAlgorithms f a hash m) rfl (by rw [hst]; rfl) (if_neg (ne_true_of_eq_false hno))
  case agreed =>
    exact tells_expected h (i := .negotiateAlgorithms f a hash m) rfl (by rw [hst]; rfl) (if_pos hyes)
  case unready =>
    have hne : (s.mgmt.spdm == .negotiated) = false := by simpa using hst
    simp only [List.mem_cons, List.not_mem_nil, or_false] at hi
    rcases hi with rfl | rfl | rfl | rfl
    · exact tells_unexpected h (i := .getDigests f) rfl hne
    · exact tells_unexpected h (i := .getCertificate f n m k) rfl hne
    · exact tells_unexpected h (i := .challenge f n bs) rfl hne
    · exact tells_unexpected h (i := .getMeasurements f n bs) rfl hne
  case digests =>
    refine tells_expected h (i := .getDigests f) rfl (by rw [hst]; rfl) ?_
    rw [State.setSpdm_self (s := s.tookNext f) hst, State.chain_tookNext, State.chain_tookNext]
    rfl
  case certificate =>
    refine ⟨fun hbad => tells_invalid h (i := .getCertificate f slot off len) rfl (by rw [hst]; rfl) (if_pos ?_),
      fun hslot hoff => tells_expected h (i := .getCertificate f slot off len) rfl (by rw [hst]; rfl) ?_⟩
    · exact Bool.or_eq_true_iff.2 (hbad.imp decide_eq_true decide_eq_true)
    · rw [State.setSpdm_self (s := s.tookNext f) hst]
      exact if_neg (by
        rw [Bool.or_eq_true, decide_eq_true_eq, decide_eq_true_eq]
        exact fun hbad => hbad.elim (Nat.not_lt.2 hslot) (Nat.not_le.2 hoff))
  case challenge =>
    refine ⟨fun hslot => tells_invalid h (i := .challenge f slot nonce) rfl (by rw [hst]; rfl) (if_pos hslot),
      fun hslot => tells_expected h (i := .challenge f slot nonce) rfl (by rw [hst]; rfl) ?_⟩
    rw [State.setSpdm_self (s := s.tookNext f) hst]
    exact if_neg (Nat.not_lt.2 hslot)

end Sys2Proof.Machine
end

section
/-! FWCALL by a fragment whose entry of the split table stands elsewhere than the instruction that it executes: the wait
leaves the entry where it stands (R332; log entry 3). -/

namespace Sys2Proof.Machine

/-- A beam at PL1 whose fragment executes an FWCALL one word behind the address that its entry holds. -/
def strayCaller : State :=
  { State.reset with
    cur := some ⟨⟨0, 0⟩, 0, loadPc + 4, ⟨0, 0, 0⟩, 1⟩
    beams := [{ loadBeam false with pl := true }], contexts := [loadContext], kernels := [loadKernel], cohorts := [loadCohort]
    parts := [loadPart] }

/-- The issuing fragment of `strayCaller`. -/
def strayFrag : Frag := { b := { loadBeam false with pl := true }, e := 0, pc := loadPc + 4, raw := ⟨0, 0, 0⟩, words := 1 }

theorem strayCaller_clear :
    Clear strayCaller strayFrag { priv := true, noGlint := false, uses := dstS 1 ++ regUses .s 2 false 1 false false } where
  frag := by decide
  runs := by decide
  pending := by decide
  check := by decide
  source := by decide
  early := by decide
  full := by decide
  dest := by decide

/-- Where the entry of beam 0 stands after an instruction; none where it has no next state. -/
def pcAfter (i : Instr) (s : State) : Option Nat :=
  match exec i s with
  | .next t => (t.beam? ⟨0, 0⟩).map fun b => (b.entry 0).pc
  | _ => none

theorem pcAfter_strayCaller : pcAfter (.fwcall 1 2 0) strayCaller = some loadPc := by decide

/-- Refutes O40: in `strayCaller` nothing holds the FWCALL up, and the entry that waits stands at `loadPc`, not at the
instruction's address `loadPc + 4`. -/
theorem not_firmwareCalls : ¬ Obligations.FirmwareCalls := by
  intro h
  obtain ⟨hcall, -⟩ := h strayCaller strayFrag 1 2 0
  obtain ⟨hwaits, -⟩ := hcall strayCaller_clear
  obtain ⟨t, b, w, hexec, hb, -, -, -, -, -, hpc, -⟩ := hwaits (by decide)
  have hafter := pcAfter_strayCaller
  simp only [pcAfter, hexec, show t.beam? ⟨0, 0⟩ = some b from hb, Option.map_some, Option.some.injEq] at hafter
  exact absurd (hafter.symm.trans hpc) (by decide)

end Sys2Proof.Machine
end

section
/-! Requests that arrive out of order, before the firmware runs, on a channel that does not carry them, or from a source that
the Diaphragm keeps out (R392, R393, R396, R438, R458, R461). -/

namespace Sys2Proof.Machine

/-! ### What is not applied -/

theorem State.expects_iff (s : State) (f : From) : s.expects f = true ↔ s.mgmt.inReset = false ∧
    (s.mgmt.running = true ∨ f.port = 0 ∧ f.vc = 3) ∧ f.eseq = (s.flow f.src f.vc).inSeq := by
  simp [State.expects, and_assoc]

section
variable {s : State} {f : From} {typ : Nat} {p : Option Partition} {go : State → State}

theorem State.arriving_unexpected (h : s.expects f = false) : s.arriving f typ p go = s :=
  if_pos (by rw [h]; rfl)

theorem State.arriving_notRunning (hexp : s.expects f = true) (hrun : s.mgmt.running = false) :
    s.arriving f typ p go = s.tookNext f := by
  have hrun' : (s.tookNext f).mgmt.running = false := hrun
  simp only [State.arriving, hexp, hrun', Bool.not_true, Bool.not_false, Bool.false_eq_true, if_false, if_true]

theorem State.arriving_notCarried (hexp : s.expects f = true) (hrun : s.mgmt.running = true)
    (hch : (channelsOf typ).contains f.vc = false) : s.arriving f typ p go = (s.tookNext f).logged (.badMessage f.src typ) := by
  have hrun' : (s.tookNext f).mgmt.running = true := hrun
  simp only [State.arriving, hexp, hrun', hch, Bool.not_true, Bool.not_false, Bool.false_eq_true, if_false, if_true]

end

/-! ### The requests -/

/-- Until it is applied, the request `i` from `f` is the arrival of a message of a TYPE. -/
def Arrives (s : State) (f : From) (typ : Nat) (i : Instr) : Prop :=
  (s.expects f && s.mgmt.running && (channelsOf typ).contains f.vc && s.accepts f (s.partOfVf f.vfn)) = false →
    ∃ go, exec i s = .next (s.arriving f typ (s.partOfVf f.vfn) go)

/-- A request that is not applied is out of order, too early, on a wrong channel or from a source that is not admitted. -/
theorem Arrives.unapplied {s : State} {f : From} {typ : Nat} {i : Instr} (h : Arrives s f typ i) :
    (s.expects f = false → exec i s = .next s) ∧
    (s.expects f = true → s.mgmt.running = false → exec i s = .next (s.tookNext f)) ∧
    (s.expects f = true → s.mgmt.running = true →
      ((channelsOf typ).contains f.vc = false → exec i s = .next ((s.tookNext f).logged (.badMessage f.src typ))) ∧
      ((channelsOf typ).contains f.vc = true → s.accepts f (s.partOfVf f.vfn) = false →
        exec i s = .next ((s.tookNext f).respond f 3 []))) := by
  refine ⟨fun hexp => ?order, fun hexp hrun => ?early, fun hexp hrun => ⟨fun hch => ?channel, fun hch hacc => ?source⟩⟩
  case order =>
    obtain ⟨go, hgo⟩ := h (by simp [hexp])
    rw [hgo, State.arriving_unexpected hexp]
  case early =>
    obtain ⟨go, hgo⟩ := h (by simp [hrun])
    rw [hgo, State.arriving_notRunning hexp hrun]
  case channel =>
    obtain ⟨go, hgo⟩ := h (by rw [hch]; simp)
    rw [hgo, State.arriving_notCarried hexp hrun hch]
  case source =>
    obtain ⟨go, hgo⟩ := h (by simp [hacc])
    rw [hgo, State.arriving_refused hrun hexp hch hacc]

/-- An access of the host waits only where it would be applied. -/
theorem State.hostArrives_unapplied {s : State} {f : From}
    (h : (s.expects f && s.mgmt.running && f.vc == 1 && s.accepts f (s.partOfVf f.vfn)) = false) (ctx : Nat) (acc : Access)
    (va n : Nat) (i : Instr) (go : State) (c : Prop) [Decidable c] :
    (if c then go else s.hostArrives f ctx acc va n i go) = go := by
  simp only [State.hostArrives, h, Bool.false_eq_true, if_false, ite_self]

theorem arrives_memwr (s : State) (f : From) (n : Nat) (va : Addr) (bs : List Byte) : Arrives s f 1 (.memwr f n va bs) := by
  intro h
  have h1 : (s.expects f && s.mgmt.running && f.vc == 1 && s.accepts f (s.partOfVf f.vfn)) = false := by
    simpa [channelsOf] using h
  exact ⟨_, congrArg Host.Outcome.next (State.hostArrives_unapplied h1 n .write va.toNat bs.length ..)⟩

theorem arrives_memrd (s : State) (f : From) (n : Nat) (va : Addr) (m : Nat) : Arrives s f 2 (.memrd f n va m) := by
  intro h
  have h1 : (s.expects f && s.mgmt.running && f.vc == 1 && s.accepts f (s.partOfVf f.vfn)) = false := by
    simpa [channelsOf] using h
  exact ⟨_, congrArg Host.Outcome.next (State.hostArrives_unapplied h1 n .read va.toNat m ..)⟩

/-- Settles O46: every request but DOMAIN by the arrival of its message; DOMAIN is answered before the firmware runs. -/
theorem arrivingRequests : Obligations.ArrivingRequests := by
  intro s f n m k e typ va ov bs ns b1 b2 b3 i hi
  refine ⟨s.expects_iff f, ?_⟩
  by_cases hdomain : i = .domain f
  case pos =>
    subst hdomain
    obtain rfl : typ = 6 := by simpa using hi
    refine ⟨fun hexp => ?_, fun hexp hrun => ⟨fun hne => absurd rfl hne, fun _ => ?_⟩, fun hexp hrun => ⟨fun hch => ?_,
      fun hch hacc => ?_⟩⟩
    all_goals show execDomain f s = _
    · by_cases hrun : s.mgmt.running = true
      · rw [execDomain, if_pos hrun, State.arriving_unexpected hexp]
      · rw [execDomain, if_neg hrun, if_pos (by rw [hexp]; rfl)]
    · rw [execDomain, if_neg (ne_true_of_eq_false hrun), if_neg (by simp [hexp])]
    · rw [execDomain, if_pos hrun, State.arriving_notCarried hexp hrun hch]
    · rw [execDomain, if_pos hrun, State.arriving_refused hrun hexp hch hacc]
  case neg =>
    have harrives : Arrives s f typ i := by
      simp only [List.mem_cons, List.not_mem_nil, or_false, Prod.mk.injEq] at hi
      rcases hi with ⟨rfl, rfl⟩ | ⟨rfl, rfl⟩ | hi
      · exact arrives_memwr s f n va bs
      · exact arrives_memrd s f n va m
      · intro _
        rcases hi with ⟨rfl, rfl⟩ | ⟨rfl, rfl⟩ | ⟨rfl, rfl⟩ | ⟨rfl, rfl⟩ | ⟨rfl, rfl⟩ | ⟨rfl, rfl⟩ | ⟨rfl, rfl⟩ | ⟨rfl, rfl⟩ |
          ⟨rfl, rfl⟩ | ⟨rfl, rfl⟩ | ⟨rfl, rfl⟩ | ⟨rfl, rfl⟩ | ⟨rfl, rfl⟩ | ⟨rfl, rfl⟩ | ⟨rfl, rfl⟩ | ⟨rfl, rfl⟩ | ⟨hd, -⟩ |
          ⟨rfl, rfl⟩ | ⟨rfl, rfl⟩ | ⟨rfl, rfl⟩ | ⟨rfl, rfl⟩ | ⟨rfl, rfl⟩ | ⟨rfl, rfl⟩ | ⟨rfl, rfl⟩
        rotate_left 16
        · exact absurd hd hdomain
        all_goals exact ⟨_, rfl⟩
    obtain ⟨horder, hearly, happlied⟩ := harrives.unapplied
    exact ⟨horder, fun hexp hrun => ⟨fun _ => hearly hexp hrun, fun hd => absurd hd hdomain⟩, happlied⟩

end Sys2Proof.Machine
end

section
/-! The system instructions (R329 to R331, R382, R384, R429, R433): what each leaves, and the entry that PGSET writes. -/

namespace Sys2Proof.Machine

/-! ### What they leave of the beams and of memory -/

section
variable (s : State)

theorem State.sameBesideMemory_dropTlb (core die : Nat → Bool) (drop : TlbEntry → Bool) (walks : Nat × WalkEntry → Bool) :
    s.SameBesideMemory (s.dropTlb core die drop walks) := rfl

theorem State.sameBesideMemory_writeNat (pa n x : Nat) : s.SameBesideMemory (s.writeNat pa n x) :=
  s.sameBesideMemory_writeBytes ..

theorem State.sameBesideMemory_tlbDrop (core : Nat) (sc : Scope) (drop : TlbEntry → Bool) (walks : WalkEntry → Bool) :
    s.SameBesideMemory (s.tlbDrop core sc drop walks) := by
  cases sc <;> rfl

theorem State.sameBesideMemory_ringWrite (base size wp : Nat) (bs : List Byte) :
    s.SameBesideMemory (s.ringWrite base size wp bs) :=
  .foldl (f := fun s (x : Byte × Nat) => s.writeByte none (base + x.2 % size) x.1) (fun _ _ => rfl) (bs.zipIdx wp) s

theorem State.sameBesideMemory_sample (core : Nat) (bs : List Byte) : s.SameBesideMemory (s.sample core bs) :=
  .ite ((s.sameBesideMemory_ringWrite ..).trans (State.sameBesideMemory_modCore ..)) (s.sameBesideMemory_modCore ..)

end

/-! ### PGSET (R382) -/

/-- Does R382 refuse the entry: its reserved bits, and for a valid one those of R378? -/
def pteRefused (lvl e : Nat) : Bool := bits e 52 12 != 0 || (pteV e && pteBroken lvl e)

/-- A table entry is written, and no translation below it stays cached. -/
def State.pgWritten (s : State) (c : Context) (lvl va e a : Nat) : State :=
  (s.writeNat a 8 e).dropTlb (fun _ => true) (fun _ => true) (fun t => t.below c.id lvl va) fun w => w.2.covers c.id lvl va

section
variable {s : State} {c : Context} {p : Partition} {lvl va e : Nat} (hp : s.part? c.part = some p)
include hp

theorem State.pgset_noTable (h : s.tableAt p va ((List.range (lvl - 1)).map (· + 1)) c.root = none) :
    s.pgset c lvl va e = (s, pgRefusal 1) := by
  simp only [State.pgset, hp, h]

variable {table : Nat} (htable : s.tableAt p va ((List.range (lvl - 1)).map (· + 1)) c.root = some table)
include htable

theorem State.pgset_broken (h : pteRefused lvl e = true) : s.pgset c lvl va e = (s, pgRefusal 2) := by
  rw [pteRefused] at h
  simp only [State.pgset, hp, htable, h, if_true]

theorem State.pgset_outside (h : pteRefused lvl e = false) (hout : (pteV e && pteOutside p lvl e) = true) :
    s.pgset c lvl va e = (s, pgRefusal 3) := by
  rw [pteRefused] at h
  simp only [State.pgset, hp, htable, h, hout, Bool.false_eq_true, if_false, if_true]

theorem State.pgset_writes (h : pteRefused lvl e = false) (hout : (pteV e && pteOutside p lvl e) = false) :
    s.pgset c lvl va e = (s.pgWritten c lvl va e (table + 8 * levelIndex lvl va), s.readNat (table + 8 * levelIndex lvl va) 8) := by
  rw [pteRefused] at h
  simp only [State.pgset, hp, htable, h, hout, Bool.false_eq_true, if_false]
  rfl

end

/-- The cores and dies that a drop reaches keep no translation that it names. -/
theorem State.dropTlb_drops (s : State) (drop : TlbEntry → Bool) (walks : Nat × WalkEntry → Bool) :
    let t := s.dropTlb (fun _ => true) (fun _ => true) drop walks
    (∀ k ∈ t.cores, ∀ e ∈ k.tlb, drop e = false) ∧ (∀ e ∈ t.dieTlb, drop e.2 = false) ∧ ∀ e ∈ t.walkc, walks e = false := by
  refine ⟨fun k hk e he => ?_, fun e he => ?_, fun e he => ?_⟩
  · obtain ⟨y, -, rfl⟩ := List.mem_map.1 hk
    simpa using (List.mem_filter.1 he).2
  · simpa using (List.mem_filter.1 he).2
  · simpa using (List.mem_filter.1 he).2

section
variable (s : State) (c : Context) (lvl va e at_ : Nat)

theorem State.readNat_pgWritten (he : e < 2 ^ 64) : (s.pgWritten c lvl va e at_).readNat at_ 8 = e := by
  have hmem : (s.pgWritten c lvl va e at_).mem = (s.writeNat at_ 8 e).mem := rfl
  rw [State.readNat_congr hmem, State.readNat_writeNat]
  exact Nat.mod_eq_of_lt he

theorem State.read_pgWritten_other {a : Nat} (ha : a < at_ ∨ at_ + 8 ≤ a) :
    (s.pgWritten c lvl va e at_).mem.read a = s.mem.read a :=
  s.writeBytes_read_other none false at_ (natLe 8 e) a (by rwa [natLe_length])

theorem State.pgWritten_drops :
    (∀ k ∈ (s.pgWritten c lvl va e at_).cores, ∀ t ∈ k.tlb, t.below c.id lvl va = false) ∧
      ∀ t ∈ (s.pgWritten c lvl va e at_).dieTlb, t.2.below c.id lvl va = false := by
  obtain ⟨hcores, hdies, -⟩ := (s.writeNat at_ 8 e).dropTlb_drops (fun t => t.below c.id lvl va)
    (fun w => w.2.covers c.id lvl va)
  exact ⟨hcores, hdies⟩

theorem State.beams_pgWritten : (s.pgWritten c lvl va e at_).beams = s.beams :=
  (State.sameBesideMemory_dropTlb ..).beams.trans (s.sameBesideMemory_writeNat ..).beams

end

theorem State.beams_pgset (s : State) (c : Context) (lvl va e : Nat) : (s.pgset c lvl va e).1.beams = s.beams := by
  unfold State.pgset
  split
  · rfl
  · split
    · rfl
    · split
      · rfl
      · split
        · rfl
        · exact s.beams_pgWritten ..

/-! ### Each instruction -/

section
variable {s : State} {x : Frag}

/-- The frame of an instruction for PL1. -/
def kernelMode (us : List Use) : Guard := { priv := true, noGlint := false, uses := us }

theorem means_tlbinv_all (sc : Scope) {k : Kernel} (hk : s.kernelOf x.b = some k) :
    Means s x (kernelMode []) (.tlbinv sc none)
      (.done (s.tlbDrop x.core sc (fun t => t.ctx == k.ctx) fun w => w.ctx == k.ctx)) := by
  refine ⟨_, rfl, ?_⟩
  simp only [hk]

theorem means_tlbinv (sc : Scope) (a : Reg) {k : Kernel} (hk : s.kernelOf x.b = some k) :
    Means s x (kernelMode (regUses .s a false 1 false false)) (.tlbinv sc (some a))
      (if Fmt.isAbsent .n64 (x.b.sreg a.toNat).toNat then .done s
      else .done (s.tlbDrop x.core sc (fun t => t.covers k.ctx (x.b.sreg a.toNat).toNat)
        fun w => w.covers k.ctx w.lvl (x.b.sreg a.toNat).toNat)) := by
  refine ⟨_, rfl, ?_⟩
  simp only [hk]

/-- PGSET ends with its result in sD. -/
theorem goes_pgset {d a b : Reg} {lvl : BitVec 2} {r : State × Nat} (hbeams : r.1.beams = s.beams)
    (h : Clear s x (kernelMode (dstS d ++ regUses .s a false 1 false false ++ regUses .s b false 2 false false)))
    (hr : ∀ c, s.contextOf x.b = some c → (if Fmt.isAbsent .n64 (x.b.sreg a.toNat).toNat then (s, pgRefusal 4)
      else if 2 ^ 56 ≤ (x.b.sreg a.toNat).toNat then (s, pgRefusal 5)
      else s.pgset c (lvl.toNat + 1) (x.b.sreg a.toNat).toNat (x.b.sreg b.toNat).toNat) = r)
    {c : Context} (hc : s.contextOf x.b = some c) : Goes s x (.pgset d a b lvl) (r.1.setBeam (x.putS d r.2)) := by
  have hb : r.1.beam? x.b.key = some x.b := by
    rw [State.beam?, hbeams]
    exact State.frag_beam h.frag
  refine Means.goes h ⟨_, rfl, ?_⟩ (State.KeepsPlaces.trans (.of_beams hbeams) (.setBeam hb (x.b.samePlace_putS ..)))
  have hres := hr c hc
  subst hres
  by_cases habs : Fmt.isAbsent .n64 (x.b.sreg a.toNat).toNat = true
  · simp only [if_pos habs] at hb ⊢
    simp only [hb]
    rfl
  · by_cases hbig : 2 ^ 56 ≤ (x.b.sreg a.toNat).toNat
    · simp only [if_neg habs, if_pos hbig] at hb ⊢
      simp only [hb]
      rfl
    · simp only [if_neg habs, if_neg hbig] at hb ⊢
      simp only [hc, hb]
      rfl

section
variable {a : Reg} (h : Clear s x (kernelMode (regUses .s a false 1 false false))) {tm : TrapMode} (htm : x.b.trap = some tm)
include h htm

theorem goes_image_absent (habs : Fmt.isAbsent .n64 (x.b.sreg a.toNat).toNat = true) :
    Goes s x (.ctxsv a) s ∧ Goes s x (.ctxld a) s :=
  ⟨Means.goes h ⟨_, rfl, by simp only [htm, habs, if_true]⟩ (.refl s),
    Means.goes h ⟨_, rfl, by simp only [htm, habs, if_true]⟩ (.refl s)⟩

variable (habs : Fmt.isAbsent .n64 (x.b.sreg a.toNat).toNat = false)
include habs

theorem goes_ctxsv (hpass : Passes s x (imageAcc .write) (x.imageUnits (x.b.sreg a.toNat).toNat)) :
    let us := x.imageUnits (x.b.sreg a.toNat).toNat
    let bs := (x.b.userImage tm s.openBytes).bytes x.b.live s.openBytes
    Goes s x (.ctxsv a) (us.zipIdx.foldl (fun (s : State) (u : (Nat × Int) × Nat) =>
      (s.laneNote x (imageAcc .write) u.1.2.toNat).laneWrite x (imageAcc .write) u.1.2.toNat
        ((bs.drop (64 * u.2)).take 64)) s) := by
  intro us bs
  refine Means.goes h ⟨_, rfl, ?_⟩ (.foldl (fun s u =>
    State.KeepsPlaces.trans (s.laneNote_keepsPlaces x _ _) (State.laneWrite_keepsPlaces _ x _ _ _)) _ s)
  simp only [htm, habs, Bool.false_eq_true, if_false]
  exact State.access_of_passes hpass _ _

omit h htm habs in
theorem State.notes_setBeam_keepsPlaces {b : Beam} (hb : s.beam? x.b.key = some x.b) (hp : x.b.SamePlace b) (k : Acc)
    (ls : List (Nat × Int)) : s.KeepsPlaces ((s.notes x k ls).setBeam b) := by
  have hnotes := s.notes_keepsPlaces x k ls
  obtain ⟨y, hy, hplace⟩ := hnotes x.b.key x.b hb
  exact State.KeepsPlaces.trans hnotes (.setBeam hy ⟨hp.key.trans hplace.key.symm, hp.split.trans hplace.split.symm⟩)

omit h htm habs in
theorem Beam.samePlace_loadImage (b : Beam) (tm : TrapMode) (m : Image) : b.SamePlace (b.loadImage tm m) := ⟨rfl, rfl⟩

/-- The bytes of the image that CTXLD reads. -/
def Frag.imageRead (x : Frag) (s : State) (a : Reg) : List Byte :=
  (x.imageUnits (x.b.sreg a.toNat).toNat).flatMap fun u => s.laneRead x (imageAcc .read) (2 ^ 512 - 1) u.2.toNat

section
omit h
variable (hpass : Passes s x (imageAcc .read) (x.imageUnits (x.b.sreg a.toNat).toNat))
include hpass

theorem means_ctxld_faults {n : Nat} (hn : imageFault (x.imageRead s a) x.w x.b.live = some n) :
    Means s x (kernelMode (regUses .s a false 1 false false)) (.ctxld a)
      (.trap { group := gREGISTER, code := 5, lanes := none, x := 0, y := 0, z := n }) := by
  refine ⟨_, rfl, ?_⟩
  rw [Frag.imageRead] at hn
  simp only [htm, habs, Bool.false_eq_true, if_false]
  refine (State.access_of_passes hpass _ _).trans ?_
  simp only [hn]

theorem means_ctxld_loads (hn : imageFault (x.imageRead s a) x.w x.b.live = none) :
    Means s x (kernelMode (regUses .s a false 1 false false)) (.ctxld a)
      (.done ((s.notes x (imageAcc .read) (x.imageUnits (x.b.sreg a.toNat).toNat)).setBeam
        (x.b.loadImage tm (Image.ofBytes (x.imageRead s a))))) := by
  refine ⟨_, rfl, ?_⟩
  rw [Frag.imageRead] at hn ⊢
  simp only [htm, habs, Bool.false_eq_true, if_false]
  refine (State.access_of_passes hpass _ _).trans ?_
  simp only [hn]
  rfl

end

theorem ctxld_loads (hpass : Passes s x (imageAcc .read) (x.imageUnits (x.b.sreg a.toNat).toNat)) :
    (∀ n, imageFault (x.imageRead s a) x.w x.b.live = some n →
      Traps s x (.ctxld a) { group := gREGISTER, code := 5, lanes := none, x := 0, y := 0, z := n }) ∧
    (imageFault (x.imageRead s a) x.w x.b.live = none →
      Goes s x (.ctxld a) ((s.notes x (imageAcc .read) (x.imageUnits (x.b.sreg a.toNat).toNat)).setBeam
        (x.b.loadImage tm (Image.ofBytes (x.imageRead s a))))) := by
  exact ⟨fun n hn => Means.traps h (means_ctxld_faults htm habs hpass hn),
    fun hn => Means.goes h (means_ctxld_loads htm habs hpass hn)
      (State.notes_setBeam_keepsPlaces (State.frag_beam h.frag) (x.b.samePlace_loadImage tm _) _ _)⟩

end

end

/-! ### The statement -/

/-- Settles O39: each instruction by its meaning, PGSET's entry by the three checks of R382 in their order. -/
theorem systemInstructions : Obligations.SystemInstructions := by
  refine ⟨fun s x d a b sc lvl k c hk hc => ⟨fun h => ?all, fun h => ?page, fun h => ?pgset, fun h tm htm => ?image,
    fun h => ?marks, fun h hq => ?clock⟩, fun s c p lvl va e hp he => ?entry⟩
  case all =>
    exact Means.goes h (means_tlbinv_all sc hk) (.of_beams (s.sameBesideMemory_tlbDrop ..).beams)
  case page =>
    have hm := means_tlbinv sc a hk
    exact ⟨fun habs => Means.goes h (hm.congr (if_pos habs)) (.refl s), fun habs => Means.goes h
      (hm.congr (if_neg (ne_true_of_eq_false habs))) (.of_beams (s.sameBesideMemory_tlbDrop ..).beams)⟩
  case pgset =>
    refine ⟨fun habs => goes_pgset (r := (s, pgRefusal 4)) rfl h (fun _ _ => if_pos habs) hc,
      fun habs hbig => goes_pgset (r := (s, pgRefusal 5)) rfl h
        (fun _ _ => (if_neg (ne_true_of_eq_false habs)).trans (if_pos hbig)) hc, fun hva => ?_⟩
    have habs : ¬ Fmt.isAbsent .n64 (x.b.sreg a.toNat).toNat = true := by
      intro hyes
      have hcode : (x.b.sreg a.toNat).toNat = 2 ^ 64 - 1 := Fmt.eq_absent hyes
      omega
    refine goes_pgset (s.beams_pgset ..) h (fun c' hc' => ?_) hc
    obtain rfl : c = c' := Option.some.inj (hc.symm.trans hc')
    exact (if_neg habs).trans (if_neg (Nat.not_le.2 hva))
  case image =>
    exact ⟨goes_image_absent h htm, goes_ctxsv h htm, ctxld_loads h htm⟩
  case marks =>
    refine ⟨fun hm => Means.goes h ⟨_, rfl, if_neg (ne_true_of_eq_false hm)⟩ (.refl s),
      fun hm => Means.goes h ⟨_, rfl, if_pos hm⟩ (s.packet_keepsPlaces _ _ _),
      fun hm => Means.goes h ⟨_, rfl, if_neg (ne_true_of_eq_false hm)⟩ (.refl s),
      fun hm => Means.goes h ⟨_, rfl, if_pos hm⟩ (.of_beams (s.sameBesideMemory_sample ..).beams)⟩
  case clock =>
    exact Means.puts h ⟨_, rfl, if_pos hq⟩
  case entry =>
    intro r broken outside
    have hbroken : broken ↔ pteRefused lvl e = true := by
      simp only [broken, pteRefused, Bool.or_eq_true, bne_iff_ne, Bool.and_eq_true, ne_eq]
    have houtside : outside ↔ (pteV e && pteOutside p lvl e) = true := (Bool.and_eq_true_iff).symm
    split
    next hnone => exact State.pgset_noTable hp hnone
    next table htable =>
      refine ⟨fun hb => State.pgset_broken hp htable (hbroken.1 hb), fun hb ho => State.pgset_outside hp htable
        (Bool.eq_false_iff.2 (mt hbroken.2 hb)) (houtside.1 ho), fun hb ho => ?_⟩
      intro at_
      have hr : r = (s.pgWritten c lvl va e at_, s.readNat at_ 8) := State.pgset_writes hp htable
        (Bool.eq_false_iff.2 (mt hbroken.2 hb)) (Bool.eq_false_iff.2 (mt houtside.2 ho))
      obtain ⟨hcores, hdies⟩ := s.pgWritten_drops c lvl va e at_
      rw [hr]
      exact ⟨rfl, s.readNat_pgWritten c lvl va e at_ he, fun a => s.read_pgWritten_other c lvl va e at_, hcores, hdies⟩

end Sys2Proof.Machine
end

section
/-! What messages leave of the state: the ports, the flows, what waits for a port and the requests that wait for a REPLY
(R387, R391, R393, R395). -/

namespace Sys2Proof.Machine

/-- The state `t` with the ports, flows and fabric requests of `s`, and with what has left `s`. -/
def State.withWireOf (t s : State) : State :=
  { t with ports := s.ports, flows := s.flows, unsent := s.unsent, fabric := s.fabric, nextId := s.nextId, out := s.out }

/-- The states differ in their ports, flows and fabric requests, and in what has left them, alone. -/
def State.SameBesideWire (s t : State) : Prop := t.withWireOf s = s

namespace State.SameBesideWire

variable {s t u : State}

theorem refl (s : State) : s.SameBesideWire s := rfl

theorem trans (h : s.SameBesideWire t) (h' : t.SameBesideWire u) : s.SameBesideWire u :=
  (congrArg (fun v : State => v.withWireOf s) h').trans h

theorem field {α : Type} (h : s.SameBesideWire t) (f : State → α) : f (t.withWireOf s) = f s := congrArg f h

theorem beams (h : s.SameBesideWire t) : t.beams = s.beams := h.field State.beams
theorem mem (h : s.SameBesideWire t) : t.mem = s.mem := h.field State.mem
theorem kernels (h : s.SameBesideWire t) : t.kernels = s.kernels := h.field State.kernels
theorem cohorts (h : s.SameBesideWire t) : t.cohorts = s.cohorts := h.field State.cohorts
theorem queues (h : s.SameBesideWire t) : t.queues = s.queues := h.field State.queues
theorem contexts (h : s.SameBesideWire t) : t.contexts = s.contexts := h.field State.contexts

theorem ite {p : Prop} [Decidable p] (ht : s.SameBesideWire t) (hu : s.SameBesideWire u) :
    s.SameBesideWire (if p then t else u) := by
  split
  · exact ht
  · exact hu

theorem foldl {α : Type} {f : State → α → State} (hf : ∀ (s : State) (a : α), s.SameBesideWire (f s a)) (l : List α)
    (s : State) : s.SameBesideWire (l.foldl f s) := by
  induction l generalizing s with
  | nil => exact refl s
  | cons a l ih => exact (hf s a).trans (ih _)

end State.SameBesideWire

/-! ### Messages and paths -/

section
variable (s : State)

theorem State.sameBesideWire_send (port : Option Nat) (m : OutMsg) : s.SameBesideWire (s.send port m) := by
  unfold State.send
  split <;> rfl

theorem State.flows_send (port : Option Nat) (m : OutMsg) : (s.send port m).flows = s.flows := by
  unfold State.send
  split <;> rfl

theorem State.sameBesideWire_setFlow (f : Flow) : s.SameBesideWire (s.setFlow f) := rfl

theorem State.sameBesideWire_transmit (peer vc vfn : Nat) (mk : Nat → OutMsg) :
    s.SameBesideWire (s.transmit peer vc vfn mk) :=
  (s.sameBesideWire_setFlow _).trans (State.sameBesideWire_send ..)

theorem State.sameBesideWire_respond (f : From) (status : Nat) (body : List Byte) :
    s.SameBesideWire (s.respond f status body) := s.sameBesideWire_transmit ..

theorem State.sameBesideWire_await (part : Option Partition) (peer : Nat) (what : Pend) :
    s.SameBesideWire (s.await part peer what) := rfl

theorem State.sameBesideWire_tookNext (f : From) : s.SameBesideWire (s.tookNext f) := rfl

theorem State.sameBesideWire_sendNote (v : Nat) : s.SameBesideWire (s.sendNote v) := by
  unfold State.sendNote
  split
  · rfl
  · split
    · rfl
    · split
      · rfl
      · exact (s.sameBesideWire_await ..).trans (State.sameBesideWire_transmit ..)

theorem State.sameBesideWire_acked (f : From) : s.SameBesideWire (s.acked f) := by
  unfold State.acked
  extract_lets w
  split <;> rfl

theorem State.sameBesideWire_pathFails (dest vc : Nat) : s.SameBesideWire (s.pathFails dest vc) := by
  unfold State.pathFails
  extract_lets f mine port t
  have ht : s.SameBesideWire t := rfl
  exact .ite ht (ht.trans ((t.sameBesideWire_setFlow _).trans (.foldl (fun s m => s.sameBesideWire_send port m) _ _)))

theorem State.flow_setFlow (f : Flow) : (s.setFlow f).flow f.peer f.vc = f := by
  simp [State.flow, State.setFlow]

theorem State.flow_peer (peer vc : Nat) : (s.flow peer vc).peer = peer ∧ (s.flow peer vc).vc = vc := by
  unfold State.flow
  cases h : s.flows.find? fun f => f.peer == peer && f.vc == vc with
  | none => exact ⟨rfl, rfl⟩
  | some f => simpa using List.find?_some h

end

end Sys2Proof.Machine
end

section
/-! Replies and their absence, paths that fail, and messages that are discarded (R391, R393, R395, R396, R399, R400). -/

namespace Sys2Proof.Machine

/-! ### REPLY (R393, R396, R400) -/

section
variable {s : State} {f : From} {status : Nat}

theorem exec_reply_unexpected (h : s.expects f = false) : exec (.reply f status) s = .next s :=
  if_pos (by rw [h]; rfl)

variable (hexp : s.expects f = true)
include hexp

theorem exec_reply_late (hf : (s.fabric.find? fun r => r.tag == f.tag && r.peer == f.src) = none) :
    exec (.reply f status) s = .next ((s.tookNext f).acked f) := by
  have hf' : ((s.tookNext f).fabric.find? fun r => r.tag == f.tag && r.peer == f.src) = none := hf
  show execReply f status s = _
  simp only [execReply, hexp, hf', Bool.not_true, Bool.false_eq_true, if_false]

variable {r : FabReq} (hf : (s.fabric.find? fun r => r.tag == f.tag && r.peer == f.src) = some r)
include hf

theorem exec_reply_refused (hacc : s.accepts f (r.part.bind s.part?) = false) :
    exec (.reply f status) s = .next (s.tookNext f) := by
  have hf' : ((s.tookNext f).fabric.find? fun r => r.tag == f.tag && r.peer == f.src) = some r := hf
  have hacc' : (s.tookNext f).accepts f (r.part.bind (s.tookNext f).part?) = false := hacc
  show execReply f status s = _
  simp only [execReply, hexp, hf', hacc', Bool.not_true, Bool.not_false, Bool.false_eq_true, if_false, if_true]

theorem exec_reply_answers (hacc : s.accepts f (r.part.bind s.part?) = true) : exec (.reply f status) s =
    .next (((({ s.tookNext f with fabric := s.fabric.filter fun q => q != r } : State).acked f)).answered r status) := by
  have hf' : ((s.tookNext f).fabric.find? fun r => r.tag == f.tag && r.peer == f.src) = some r := hf
  have hacc' : (s.tookNext f).accepts f (r.part.bind (s.tookNext f).part?) = true := hacc
  show execReply f status s = _
  simp only [execReply, hexp, hf', hacc', Bool.not_true, Bool.false_eq_true, if_false]
  rfl

end

/-! ### The result of an MSEND (R248, R400) -/

theorem Beam.land_lowScalar (b : Beam) {d : Nat} (hd : d < 56) (code : DWord) (f : Fill) (hf : f.dst = .s (d % 64) code false
    (decide (64 ≤ d))) : b.land f = (b.setSfull d true).storeS d code := by
  have hmod : d % 64 = d := Nat.mod_eq_of_lt (by omega)
  have hbank : decide (64 ≤ d) = false := decide_eq_false (by omega)
  simp only [Beam.land, hf, hmod, hbank, Bool.false_and, Bool.false_eq_true, if_false]

theorem Beam.sfullAt_storeS (b : Beam) (d r : Nat) (v : DWord) : (b.storeS d v).sfullAt r = b.sfullAt r := by
  unfold Beam.storeS Beam.sfullAt
  cases hb : b.trap with
  | none => rfl
  | some t => by_cases h : 56 ≤ d <;> simp only [h, if_true, if_false]

section
variable (b : Beam) {d : Nat} (hd : d < 56)
include hd

theorem Beam.sfullAt_setSfull_low : (b.setSfull d true).sfullAt d = true := by
  have h56 : ¬ 56 ≤ d := Nat.not_le.2 hd
  have hset : (b.sfull.set d true).getD d true = true := by
    rw [getD_set_eq]
    split
    next => rfl
    next h => exact List.getD_eq_default _ _ (by omega)
  unfold Beam.setSfull Beam.sfullAt
  cases b.trap <;> simp only [h56, if_false, hset]

theorem Beam.sreg_storeS_low (hs : d < b.s.length) (v : DWord) : (b.storeS d v).sreg d = v := by
  have h56 : ¬ 56 ≤ d := Nat.not_le.2 hd
  have hset : (b.s.set d v).getD d 0 = v := by rw [getD_set_eq, if_pos ⟨rfl, hs⟩]
  unfold Beam.storeS Beam.sreg
  cases b.trap <;> simp only [h56, if_false, hset]

theorem Beam.s_setSfull_low : (b.setSfull d true).s = b.s := by
  unfold Beam.setSfull
  cases b.trap <;> simp only [if_neg (Nat.not_le.2 hd)]

end

/-- The result lands in the sender's register, full. -/
theorem State.msendEnds_lands {s : State} {k : CohortKey} {b : BeamKey} {y : Beam} (hb : s.beam? b = some y) (hk : y.cohort = k)
    {d : Nat} (hd : d < 56) (hs : d < y.s.length) (e code : Nat) :
    ∃ z, (s.msendEnds k b e d false code).beam? b = some z ∧ z.sfullAt d = true ∧ z.sreg d = BitVec.ofNat 64 code := by
  have hmine : (s.beam? b).filter (fun x => x.cohort == k) = some y := by
    rw [hb, Option.filter_some, if_pos (by simpa using hk)]
  have hplace : y.SamePlace ((y.setSfull d true).storeS d (BitVec.ofNat 64 code)) :=
    (y.samePlace_setSfull d true).trans (Beam.samePlace_storeS ..)
  refine ⟨(y.setSfull d true).storeS d (BitVec.ofNat 64 code), ?_, ?_, ?_⟩
  · have hends : s.msendEnds k b e d false code = s.setBeam ((y.setSfull d true).storeS d (BitVec.ofNat 64 code)) := by
      rw [State.msendEnds, hmine]
      exact congrArg s.setBeam (y.land_lowScalar hd _ _ rfl)
    rw [hends]
    exact State.beam?_setBeam_of_key hb (hplace.key.trans (State.beam?_key hb))
  · rw [Beam.sfullAt_storeS, y.sfullAt_setSfull_low hd]
  · exact Beam.sreg_storeS_low _ hd (by rwa [y.s_setSfull_low hd]) _

/-! ### Requests that are not answered (R395, R399) -/

theorem FabReq.expired_iff (r : FabReq) (clock : Nat) : r.expired clock = true ↔ r.since + r.limit ≤ clock := decide_eq_true_iff

section
variable {s : State} {tag : Nat} {r : FabReq} (hr : s.fabric.find? (fun r => r.tag == tag) = some r)
include hr

theorem exec_fabricTimeout_waits (h : s.clock < r.since + r.limit) : exec (.fabricTimeout tag) s = .next s := by
  have hexp : r.expired s.clock = false := Bool.eq_false_iff.2 (mt (r.expired_iff _).1 (Nat.not_le.2 h))
  show execFabricTimeout tag s = _
  simp only [execFabricTimeout, hr, hexp, Bool.not_false, if_true]

variable (h : r.since + r.limit ≤ s.clock)
include h

theorem exec_fabricTimeout_msend {c : CohortKey} {b : BeamKey} {e d : Nat} {drop : Bool} (hw : r.what = .msend c b e d drop) :
    exec (.fabricTimeout tag) s =
      .next (({ s with fabric := s.fabric.filter fun q => q.tag != tag } : State).msendEnds c b e d drop 0x104) := by
  show execFabricTimeout tag s = _
  simp only [execFabricTimeout, hr, (r.expired_iff _).2 h, hw, Bool.not_true, Bool.false_eq_true, if_false]

theorem exec_fabricTimeout_coll {req peer : Nat} (hw : r.what = .coll req peer) : exec (.fabricTimeout tag) s =
    .next (({ s with fabric := s.fabric.filter fun q => q.tag != tag } : State).collFault req 31) := by
  show execFabricTimeout tag s = _
  simp only [execFabricTimeout, hr, (r.expired_iff _).2 h, hw, Bool.not_true, Bool.false_eq_true, if_false]

end

/-- Is the request a notification of the virtual function? -/
def FabReq.notifies (v : Nat) (r : FabReq) : Bool :=
  match r.what with
  | .note k _ => k == v
  | _ => false

theorem exec_notifyResend {s : State} {v : Nat} {r : FabReq} (hr : s.fabric.find? (FabReq.notifies v) = some r) :
    exec (.notifyResend v) s = .next (if r.expired s.clock then
      ({ s with fabric := s.fabric.filter fun q => !FabReq.notifies v q } : State).sendNote v else s) := by
  have hexec : exec (.notifyResend v) s = (match s.fabric.find? (FabReq.notifies v) with
    | some r => .next (if r.expired s.clock then
        ({ s with fabric := s.fabric.filter fun q => !FabReq.notifies v q } : State).sendNote v else s)
    | none => .next s) := rfl
  rw [hexec, hr]

/-! ### A path fails (R391, R393) -/

/-- Does a message belong to the flow with a peer on a channel? -/
def OutMsg.ofFlow (dest vc : Nat) (m : OutMsg) : Bool := m.dest == dest && m.vc == vc

/-- The state behind a path that fails, before the flow's messages go again: its flits and messages have left the ports. -/
def State.pathCleared (s : State) (dest vc : Nat) : State :=
  { s with
    ports := s.ports.map fun p => { p with queue := p.queue.filter fun x => !(x.dest == dest && x.vc == vc) }
    unsent := s.unsent.filter fun m => !m.ofFlow dest vc }

theorem State.pathFails_eq (s : State) (dest vc : Nat) : s.pathFails dest vc =
    if (s.flow dest vc).unacked.isEmpty then s.pathCleared dest vc
    else ((s.flow dest vc).unacked.map (·.1)).foldl (fun (t : State) m => t.send (s.freePort (s.flow dest vc).port) m)
      ((s.pathCleared dest vc).setFlow { s.flow dest vc with port := s.freePort (s.flow dest vc).port }) := rfl

theorem State.flows_sendAll (port : Option Nat) (ms : List OutMsg) (t : State) :
    (ms.foldl (fun (t : State) m => t.send port m) t).flows = t.flows := by
  induction ms generalizing t with
  | nil => rfl
  | cons m ms ih => exact (ih _).trans (t.flows_send port m)

/-- The flow keeps its sequence numbers and what nothing has acknowledged. -/
theorem State.flow_pathFails (s : State) (dest vc : Nat) :
    ∃ port, (s.pathFails dest vc).flow dest vc = { s.flow dest vc with port := port } := by
  rw [State.pathFails_eq]
  split
  · exact ⟨(s.flow dest vc).port, rfl⟩
  · refine ⟨s.freePort (s.flow dest vc).port, ?_⟩
    obtain ⟨hpeer, hvc⟩ := s.flow_peer dest vc
    rw [State.flow, State.flows_sendAll]
    have hset := (s.pathCleared dest vc).flow_setFlow { s.flow dest vc with port := s.freePort (s.flow dest vc).port }
    rw [hpeer, hvc] at hset
    exact hset

/-- Without a port that carries flits messages wait, in their order. -/
theorem State.sendAll_none (ms : List OutMsg) (t : State) :
    ms.foldl (fun (t : State) m => t.send none m) t = { t with unsent := t.unsent ++ ms } := by
  induction ms generalizing t with
  | nil => rw [List.append_nil]; rfl
  | cons m ms ih =>
    have hsend : t.send none m = { t with unsent := t.unsent ++ [m] } := by
      unfold State.send
      rw [show (none.bind t.port? : Option Port) = none from rfl, ite_self]
    rw [List.foldl_cons, ih, hsend, List.append_assoc]
    rfl

theorem State.freePort_none {s : State} (h : ∀ p ∈ s.ports, p.usable = false) (not : Option Nat) : s.freePort not = none := by
  have hnone : (s.ports.filter Port.usable).map (·.id) = [] := by
    rw [List.filter_eq_nil_iff.2 fun p hp => ne_true_of_eq_false (h p hp), List.map_nil]
  simp only [State.freePort, hnone, List.find?_nil, List.head?_nil]

theorem State.pathFails_noPort {s : State} {dest vc : Nat} (h : ∀ p ∈ s.ports, p.usable = false) :
    (s.pathFails dest vc).out = s.out ∧ (s.pathFails dest vc).unsent =
      s.unsent.filter (fun m => !m.ofFlow dest vc) ++ (s.flow dest vc).unacked.map (·.1) := by
  rw [State.pathFails_eq, State.freePort_none h, State.sendAll_none]
  split
  next hnone =>
    rw [List.isEmpty_iff.1 hnone]
    exact ⟨rfl, (List.append_nil _).symm⟩
  next => exact ⟨rfl, rfl⟩

/-! ### The statement -/

/-- Settles O48: a reply by the request that waits for it, a timeout by what waits, a path by what its flow keeps. -/
theorem repliesAndTimeouts : Obligations.RepliesAndTimeouts := by
  refine ⟨fun s f status => ⟨exec_reply_unexpected, fun hexp => ⟨exec_reply_late hexp, fun r hr =>
      ⟨exec_reply_refused hexp hr, fun hacc => ⟨exec_reply_answers hexp hr hacc, ?sender⟩⟩⟩⟩,
    fun s tag r hr => ⟨exec_fabricTimeout_waits hr, fun h => ⟨fun c b e d drop => exec_fabricTimeout_msend hr h,
      fun req peer => exec_fabricTimeout_coll hr h⟩⟩,
    fun s v r => ?notify, fun s dest vc => ?path, fun s f typ => rfl⟩
  case sender =>
    intro k b e d y hw hb hk hd hs
    let w : State := ({ s.tookNext f with fabric := s.fabric.filter fun q => q != r } : State).acked f
    have hbeams : w.beams = s.beams := (State.sameBesideWire_acked _ f).beams
    have hb' : w.beam? b = some y := by rw [State.beam?, hbeams]; exact hb
    obtain ⟨z, hz, hfull, hval⟩ := State.msendEnds_lands hb' hk hd hs e (if status = 0 then 0 else 0x100 + status)
    refine ⟨_, z, exec_reply_answers hexp hr hacc, ?_, hfull, hval⟩
    rw [State.answered, hw]
    simpa only [beq_iff_eq] using hz
  case notify =>
    intro mine hr
    refine ⟨fun h => ?_, fun h => ?_⟩
    · rw [exec_notifyResend hr, if_neg (mt (r.expired_iff _).1 (Nat.not_le.2 h))]
    · rw [exec_notifyResend hr, if_pos ((r.expired_iff _).2 h)]
      rfl
  case path =>
    have hframe := s.sameBesideWire_pathFails dest vc
    obtain ⟨port, hflow⟩ := s.flow_pathFails dest vc
    refine ⟨_, rfl, hframe.mem, hframe.beams, ?_, ?_, ?_, State.pathFails_noPort⟩ <;> rw [hflow]

end Sys2Proof.Machine
end

section
/-! What the scheduler's changes leave of the records: a queue that is put, a context's queues that change together, cohorts
that are marked for eviction, and kernels that fault (R322, R323, R333, R345). -/

namespace Sys2Proof.Machine

/-- What no change of a list of changes alters stays. -/
theorem foldl_field {α β : Type} {f : State → α → State} {p : State → β} (hf : ∀ s a, p (f s a) = p s) (l : List α)
    (s : State) : p (l.foldl f s) = p s := by
  induction l generalizing s with
  | nil => rfl
  | cons a l ih => exact (ih _).trans (hf s a)

/-- What every change of a list of changes keeps holds behind them. -/
theorem foldl_keeps {α : Type} {f : State → α → State} {P : State → Prop} (hf : ∀ s a, P s → P (f s a)) (l : List α)
    {s : State} (h : P s) : P (l.foldl f s) := by
  induction l generalizing s with
  | nil => exact h
  | cons a l ih => exact ih (hf s a h)

/-- What one change of the list brings, and every change keeps, holds behind the list. -/
theorem foldl_brings {α : Type} {f : State → α → State} {P : State → Prop} {Q : State → Prop}
    (hf : ∀ s a, P s → P (f s a)) (hq : ∀ s a, Q s → Q (f s a)) {a : α} (ha : ∀ s, Q s → P (f s a)) {l : List α}
    (hl : a ∈ l) {s : State} (h : Q s) : P (l.foldl f s) := by
  induction l generalizing s with
  | nil => cases hl
  | cons b l ih =>
    obtain rfl | hl := List.mem_cons.1 hl
    · exact foldl_keeps hf l (ha s h)
    · exact ih hl (hq s b h)

/-! ### Queues (R333) -/

theorem State.SameBesideMemory.queues {s t : State} (h : s.SameBesideMemory t) : t.queues = s.queues := h.field State.queues
theorem State.SameBesideMemory.contexts {s t : State} (h : s.SameBesideMemory t) : t.contexts = s.contexts :=
  h.field State.contexts

section
variable (s : State)

/-- A queue's descriptor is written beside its record. -/
theorem State.putQueue_beside (q : Queue) : (s.setQueue q).SameBesideMemory (s.putQueue q) :=
  (s.setQueue q).sameBesideMemory_writeBytes none false q.desc q.image

theorem State.queues_putQueue (q : Queue) : (s.putQueue q).queues = replaceBy Queue.num q s.queues :=
  (s.putQueue_beside q).queues

theorem State.contexts_putQueue (q : Queue) : (s.putQueue q).contexts = s.contexts :=
  (s.putQueue_beside q).contexts

theorem State.queue?_putQueue (q : Queue) (i : Nat) :
    (s.putQueue q).queue? i = if q.num = i then (s.queue? i).map (fun _ => q) else s.queue? i := by
  rw [State.queue?, s.queues_putQueue q]
  exact s.queue?_setQueue q i

end

theorem State.queue?_putQueue_same {s : State} {n : Nat} {q y : Queue} (h : s.queue? n = some y) (hid : q.num = n) :
    (s.putQueue q).queue? n = some q := by
  rw [State.queue?_putQueue, if_pos hid, h]
  rfl

/-- A queue behind a list of puts is one of those put, or was there before and none of them names it. -/
theorem State.mem_queues_foldl_putQueue {g : Queue → Queue} (hg : ∀ y, (g y).num = y.num) {q : Queue} (l : List Queue)
    (s : State) (hq : q ∈ (l.foldl (fun (s : State) y => s.putQueue (g y)) s).queues) :
    (∃ y ∈ l, q = g y) ∨ q ∈ s.queues ∧ ∀ y ∈ l, y.num ≠ q.num := by
  induction l generalizing s with
  | nil => exact .inr ⟨hq, fun y hy => absurd hy List.not_mem_nil⟩
  | cons a l ih =>
    rw [List.foldl_cons] at hq
    obtain ⟨y, hy, rfl⟩ | ⟨hmem, hne⟩ := ih _ hq
    · exact .inl ⟨y, List.mem_cons_of_mem a hy, rfl⟩
    · rw [State.queues_putQueue] at hmem
      obtain ⟨z, hz, hrep⟩ := List.mem_map.1 hmem
      by_cases hnum : z.num = (g a).num
      · exact .inl ⟨a, List.mem_cons_self, by rw [← hrep, if_pos (by simpa using hnum)]⟩
      · rw [if_neg (by simpa using hnum)] at hrep
        subst hrep
        refine .inr ⟨hz, fun y hy => ?_⟩
        obtain rfl | hy := List.mem_cons.1 hy
        · exact fun h => hnum ((hg y).symm ▸ h.symm)
        · exact hne y hy

section
variable (s : State) (ctx : Nat) (g : Queue → Queue)

theorem State.sameWork_modQueues : s.SameWork (s.modQueues ctx g) :=
  .foldl (fun s q => s.sameWork_putQueue (g q)) _ s

theorem State.contexts_modQueues : (s.modQueues ctx g).contexts = s.contexts :=
  foldl_field (fun s q => s.contexts_putQueue (g q)) _ s

/-- Every queue of the context has changed. -/
theorem State.mem_queues_modQueues (hg : ∀ y, (g y).num = y.num) {q : Queue} (hq : q ∈ (s.modQueues ctx g).queues)
    (hctx : q.ctx = ctx) : ∃ y ∈ s.queues, q = g y := by
  obtain ⟨y, hy, rfl⟩ | ⟨hmem, hne⟩ := State.mem_queues_foldl_putQueue hg _ s hq
  · exact ⟨y, (List.mem_filter.1 hy).1, rfl⟩
  · exact absurd rfl (hne q (List.mem_filter.2 ⟨hmem, by simpa using hctx⟩))

end

/-! ### Evictions (R323) -/

/-- An eviction marks one resident cohort, or nothing. -/
theorem State.evict_cases (s : State) (k : CohortKey) :
    s.evict k = s ∨ ∃ c, s.cohort? k = some c ∧ c.st = .resident ∧ s.evict k = s.setCohort { c with stop := some .evict } := by
  unfold State.evict
  split
  · next c hc =>
    split
    · next h => exact .inr ⟨c, hc, by simpa using (Bool.and_eq_true_iff.1 h).1, rfl⟩
    · exact .inl rfl
  · exact .inl rfl

theorem State.evict_marks {s : State} {k : CohortKey} {y : Cohort} (h : s.cohort? k = some y) (hst : y.st = .resident)
    (hstop : y.stop = none) : s.evict k = s.setCohort { y with stop := some .evict } := by
  simp only [State.evict, h, hst, hstop, BEq.rfl, Option.isNone_none, Bool.and_self, if_true]

theorem State.evict_field {β : Type} (p : State → β) (hp : ∀ (s : State) (c : Cohort), p (s.setCohort c) = p s) (s : State)
    (k : CohortKey) : p (s.evict k) = p s := by
  obtain h | ⟨c, -, -, h⟩ := s.evict_cases k <;> rw [h]
  exact hp s _

/-- The cohort is resident, and where `stops` holds it stops. -/
def State.Stays (k : CohortKey) (stops : Prop) (s : State) : Prop :=
  ∃ y, s.cohort? k = some y ∧ y.st = .resident ∧ (stops → y.stop.isSome = true)

theorem State.Stays.evict {s : State} {k : CohortKey} {stops : Prop} (h : s.Stays k stops) (j : CohortKey) :
    (s.evict j).Stays k stops := by
  obtain ⟨y, hy, hst, hstop⟩ := h
  obtain hsame | ⟨c, hc, hres, hset⟩ := s.evict_cases j
  · rw [hsame]
    exact ⟨y, hy, hst, hstop⟩
  · rw [hset]
    have hkey : c.key = j := State.cohort?_key hc
    by_cases hj : j = k
    · subst hj
      exact ⟨_, State.cohort?_setCohort_same hy hkey, hres, fun _ => rfl⟩
    · refine ⟨y, ?_, hst, hstop⟩
      rw [State.cohort?_setCohort]
      exact (if_neg (show ¬ c.key = k from hkey ▸ hj)).trans hy

theorem State.Stays.evict_self {s : State} {k : CohortKey} (h : s.Stays k False) : (s.evict k).Stays k True := by
  obtain ⟨y, hy, hst, -⟩ := h
  by_cases hstop : y.stop = none
  · rw [State.evict_marks hy hst hstop]
    exact ⟨_, State.cohort?_setCohort_same hy (State.cohort?_key hy :), hst, fun _ => rfl⟩
  · have hsame : s.evict k = s := by
      simp only [State.evict, hy]
      exact if_neg (by simp [hstop])
    rw [hsame]
    exact ⟨y, hy, hst, fun _ => Option.isSome_iff_ne_none.2 hstop⟩

/-- A resident cohort among those that are evicted stops. -/
theorem State.evictAll_stops {s : State} {k : CohortKey} {y : Cohort} (hy : s.cohort? k = some y) (hst : y.st = .resident)
    {ks : List CohortKey} (hk : k ∈ ks) : ∃ y', (ks.foldl State.evict s).cohort? k = some y' ∧ y'.stop.isSome = true := by
  have hstops : (ks.foldl State.evict s).Stays k True :=
    foldl_brings (P := State.Stays k True) (Q := State.Stays k False) (fun s j h => h.evict j) (fun s j h => h.evict j)
      (fun s h => h.evict_self) hk ⟨y, hy, hst, False.elim⟩
  obtain ⟨y', hy', -, hstop⟩ := hstops
  exact ⟨y', hy', hstop trivial⟩

/-! ### Kernels that fault (R345) -/

/-- A kernel that faults is the one kernel whose record changes. -/
theorem State.kernelFault_kernels (s : State) (kid : Nat) (code : Option Nat) : (s.kernelFault kid code).kernels = s.kernels ∨
    ∃ k, s.kernel? kid = some k ∧
      (s.kernelFault kid code).kernels = replaceBy Kernel.id { k with st := .faulted, groups := [] } s.kernels := by
  unfold State.kernelFault
  split
  · exact .inl rfl
  · next k hk =>
    split
    · exact .inl rfl
    · extract_lets u v w
      have hu : u.kernels = replaceBy Kernel.id { k with st := .faulted, groups := [] } s.kernels :=
        (State.sameWork_stopsOver _ _).kernels
      have hw : w.kernels = v.kernels := ((v.sameWork_cohortsGone _).trans (State.sameWork_settleContext _ _)).kernels
      refine .inr ⟨k, hk, ?_⟩
      split
      · exact (State.sameWork_queueFault _ _ _ _).kernels.trans (hw.trans hu)
      · exact (State.sameWork_queueEnd _ _ _).kernels.trans (hw.trans hu)

/-- Has the kernel of a number ended, if it is one of the context? -/
def State.KernelOver (i ctx : Nat) (s : State) : Prop := ∀ k, s.kernel? i = some k → k.ctx = ctx → k.st = .faulted ∨ k.st = .completed

theorem State.KernelOver.of_kernels {s t : State} {i ctx : Nat} (h : s.KernelOver i ctx) (hk : t.kernels = s.kernels) :
    t.KernelOver i ctx := by
  rw [State.KernelOver, State.kernel?, hk]
  exact h

theorem State.KernelOver.kernelFault {s : State} {i ctx : Nat} (h : s.KernelOver i ctx) (j : Nat) (code : Option Nat) :
    (s.kernelFault j code).KernelOver i ctx := by
  obtain hsame | ⟨k, hk, hset⟩ := s.kernelFault_kernels j code
  · exact h.of_kernels hsame
  · intro z hz hctx
    rw [State.kernel?, hset] at hz
    replace hz := (s.kernel?_setKernel { k with st := .faulted, groups := [] } i).symm.trans hz
    split at hz
    · obtain ⟨y, -, rfl⟩ := Option.map_eq_some_iff.1 hz
      exact .inl rfl
    · exact h z hz hctx

theorem State.kernelOver_kernelFault (s : State) (i ctx : Nat) (code : Option Nat) : (s.kernelFault i code).KernelOver i ctx := by
  cases hk : s.kernel? i with
  | none =>
    have hsame : s.kernelFault i code = s := by
      unfold State.kernelFault
      rw [hk]
    rw [hsame]
    intro k h
    rw [hk] at h
    cases h
  | some k =>
    by_cases hover : k.st = .faulted ∨ k.st = .completed
    · have hsame : s.kernelFault i code = s := by
        simp only [State.kernelFault, hk]
        exact if_pos (by simpa using hover)
      rw [hsame]
      intro z hz _
      rw [hk] at hz
      obtain rfl := Option.some.inj hz
      exact hover
    · rw [not_or] at hover
      intro z hz _
      rw [(State.kernelFault_leaves hk hover.1 hover.2 code).1] at hz
      obtain rfl := Option.some.inj hz
      exact .inl rfl

/-- The kernels of a context fault without a code of their queues. -/
def State.faultKernels (s : State) (ctx : Nat) : State :=
  ((s.kernels.filter fun k => k.ctx == ctx).map (·.id)).foldl (fun (s : State) k => s.kernelFault k none) s

/-- No kernel of the context goes on. -/
theorem State.kernelOver_faultKernels (s : State) (ctx i : Nat) : (s.faultKernels ctx).KernelOver i ctx := by
  by_cases hk : ∃ k, s.kernel? i = some k ∧ k.ctx = ctx
  · obtain ⟨k, hk, hctx⟩ := hk
    have hmem : i ∈ (s.kernels.filter fun k => k.ctx == ctx).map (·.id) :=
      List.mem_map.2 ⟨k, List.mem_filter.2 ⟨List.mem_of_find?_eq_some hk, by simpa using hctx⟩, State.kernel?_id hk⟩
    exact foldl_brings (P := State.KernelOver i ctx) (Q := fun _ => True) (fun s j h => h.kernelFault j none)
      (fun _ _ _ => trivial) (fun s _ => s.kernelOver_kernelFault i ctx none) hmem trivial
  · have hover : s.KernelOver i ctx := fun k h hctx => absurd ⟨k, h, hctx⟩ hk
    exact foldl_keeps (P := State.KernelOver i ctx) (fun s j h => h.kernelFault j none) _ hover

end Sys2Proof.Machine
end

section
/-! The management requests that name a context (R319 to R322, R398, R399, R417). -/

namespace Sys2Proof.Machine

/-! ### Requests -/

/-- What a request that is admitted answers. -/
theorem State.Admits.answers {s : State} {f : From} (h : s.Admits f) {i : Instr} {go : State → State × Nat × Nat}
    (hi : exec i s = .next (s.request f go)) {t : State} {status result : Nat} (hgo : go (s.tookNext f) = (t, status, result)) :
    Answers s f i t status result :=
  hi.trans (congrArg Host.Outcome.next (h.request hgo))

section
variable {s : State} {f : From} {n : Nat} {go : Context → State × Nat × Nat}

theorem State.owned_found {c : Context} (hc : s.context? n = some c) (hv : c.vf = f.vfn) : s.owned f n go = go c := by
  simp only [State.owned, hc, hv, BEq.rfl, if_true]

theorem State.owned_refused (h : s.context? n = none ∨ ∃ c, s.context? n = some c ∧ c.vf ≠ f.vfn) :
    s.owned f n go = (s, 5, 0) := by
  obtain h | ⟨c, hc, hv⟩ := h
  · simp only [State.owned, h]
    rfl
  · simp only [State.owned, hc]
    exact if_neg (by simpa using hv)

end

/-- The lowest free number is below the limit and free, and no lower one is. -/
theorem lowestFree_spec {limit n : Nat} {used : List Nat} (h : lowestFree limit used = some n) :
    n < limit ∧ n ∉ used ∧ ∀ m, m < n → m ∈ used := by
  obtain ⟨hfree, hn, hlow⟩ := List.find?_range_eq_some.1 h
  have hlt := List.mem_range.1 hn
  exact ⟨by omega, by simpa using hfree, fun m hm => by simpa using hlow m hm⟩

/-! ### STOP (R321, R322) -/

section
variable {s t : State}

theorem State.residents_of_sameWork (h : s.SameWork t) (ctx : Nat) : t.residents ctx = s.residents ctx := by
  simp only [State.residents, h.cohorts, State.kernel?, h.kernels]

/-- Is a cohort of the context resident? -/
def State.HasResident (ctx : Nat) (s : State) : Prop :=
  ∃ y ∈ s.cohorts, y.st = .resident ∧ ((s.kernel? y.key.kernel).any fun k => k.ctx == ctx) = true

theorem State.hasResident_iff {ctx : Nat} : s.HasResident ctx ↔ s.residents ctx ≠ [] := by
  rw [State.residents, ne_eq, List.filter_eq_nil_iff]
  simp [State.HasResident]

theorem State.HasResident.evict {ctx : Nat} (h : s.HasResident ctx) (j : CohortKey) : (s.evict j).HasResident ctx := by
  obtain hsame | ⟨c, -, hres, hset⟩ := s.evict_cases j
  · rwa [hsame]
  · rw [hset]
    obtain ⟨y, hy, hst, hk⟩ := h
    by_cases hkey : y.key = c.key
    · exact ⟨_, List.mem_map.2 ⟨y, hy, if_pos (by simpa using hkey)⟩, hres, by rw [hkey] at hk; exact hk⟩
    · exact ⟨y, List.mem_map.2 ⟨y, hy, if_neg (by simpa using hkey)⟩, hst, hk⟩

/-- The evictions of a context's resident cohorts leave one resident, if one was. -/
theorem State.residents_evictAll (ctx : Nat) :
    (((s.residents ctx).map (·.key)).foldl State.evict s).residents ctx = [] ↔ s.residents ctx = [] := by
  by_cases h : s.residents ctx = []
  · simp only [h, List.map_nil, List.foldl_nil]
  · exact iff_of_false (State.hasResident_iff.1
      (foldl_keeps (P := State.HasResident ctx) (fun s j h => h.evict j) _ (State.hasResident_iff.2 h))) h

/-- A Stopping context is Stopped once no cohort of it is resident. -/
theorem State.context?_settleContext {n : Nat} {x : Context} (hx : s.context? n = some x) (hst : x.st = .stopping) :
    ∃ c, (s.settleContext n).context? n = some c ∧ c.st = if s.residents n = [] then .stopped else .stopping := by
  have hany : (s.cohorts.any fun c => c.st == .resident && (s.kernel? c.key.kernel).any fun k => k.ctx == n) =
      !(s.residents n).isEmpty := by
    rw [Bool.eq_iff_iff, List.any_eq_true, Bool.not_eq_true', ← Bool.not_eq_true, List.isEmpty_iff, ← ne_eq,
      ← State.hasResident_iff]
    simp [State.HasResident]
  simp only [State.settleContext, hx, hst, hany, BEq.rfl, Bool.true_and, Bool.not_not, List.isEmpty_iff]
  split
  · exact ⟨_, State.context?_setContext_same hx (State.context?_id hx :), rfl⟩
  · exact ⟨x, hx, hst⟩

end

/-- A queue stops with its context. -/
def Queue.stopped (q : Queue) : Queue := { q with ctxStop := true, st := if q.serving then .stopped else q.st }

theorem Queue.serving_stopped (q : Queue) : q.stopped.serving = false := by
  unfold Queue.stopped
  by_cases h : q.serving = true
  · rw [if_pos h]
    rfl
  · rw [if_neg h]
    exact Bool.eq_false_iff.2 h

/-- STOP: what becomes of the state, before the answer. -/
def State.stopContext (s : State) (x : Context) (ctx : Nat) : State :=
  let s := s.setContext { x with st := .stopping }
  let s := s.modQueues ctx Queue.stopped
  (((s.residents ctx).map (·.key)).foldl State.evict s).settleContext ctx

theorem State.stopContext_spec {s : State} {n : Nat} {c : Context} (hc : s.context? n = some c) :
    (s.stopContext c n).beams = s.beams ∧
    (∃ c', (s.stopContext c n).context? n = some c' ∧ c'.st = if s.residents n = [] then .stopped else .stopping) ∧
    (∀ q ∈ (s.stopContext c n).queues, q.ctx = n → q.ctxStop = true ∧ q.serving = false) ∧
    ∀ k y z, s.cohort? k = some y → y.st = .resident → s.kernel? k.kernel = some z → z.ctx = n →
      ∃ y', (s.stopContext c n).cohort? k = some y' ∧ y'.stop.isSome = true := by
  let marked := (s.setContext { c with st := .stopping }).modQueues n Queue.stopped
  let evicted := ((marked.residents n).map (·.key)).foldl State.evict marked
  have hmarked : s.SameWork marked :=
    State.SameWork.trans (t := s.setContext { c with st := .stopping }) ⟨rfl, rfl, rfl, rfl⟩ (State.sameWork_modQueues ..)
  have hsettled : evicted.SameWork (s.stopContext c n) := evicted.sameWork_settleContext n
  have hkept {β : Type} (p : State → β) (hp : ∀ (s : State) (c : Cohort), p (s.setCohort c) = p s) : p evicted = p marked :=
    foldl_field (State.evict_field p hp) _ marked
  have hcontext : evicted.context? n = some { c with st := .stopping } := by
    have hcontexts : evicted.contexts = (s.setContext { c with st := .stopping }).contexts :=
      (hkept State.contexts fun _ _ => rfl).trans (State.contexts_modQueues ..)
    rw [State.context?, hcontexts]
    exact State.context?_setContext_same hc (State.context?_id hc :)
  have hqueues : (s.stopContext c n).queues = marked.queues := by
    refine Eq.trans ?_ (hkept State.queues fun _ _ => rfl)
    show (evicted.settleContext n).queues = evicted.queues
    unfold State.settleContext
    split
    · rfl
    · split <;> rfl
  refine ⟨hsettled.beams.trans ((hkept State.beams fun _ _ => rfl).trans hmarked.beams), ?_, fun q hq hctx => ?_,
    fun k y z hy hst hz hctx => ?_⟩
  · obtain ⟨c', hc', hst⟩ := State.context?_settleContext hcontext rfl
    refine ⟨c', hc', hst.trans ?_⟩
    rw [if_congr (State.residents_evictAll n) rfl rfl, State.residents_of_sameWork hmarked]
  · rw [hqueues] at hq
    obtain ⟨y, -, rfl⟩ := State.mem_queues_modQueues _ n Queue.stopped (fun _ => rfl) hq hctx
    exact ⟨rfl, y.serving_stopped⟩
  · have hmem : y ∈ s.residents n := List.mem_filter.2 ⟨List.mem_of_find?_eq_some hy, by
      rw [State.cohort?_key hy, hz, hst]
      simpa using hctx⟩
    rw [← State.residents_of_sameWork hmarked] at hmem
    obtain ⟨y', hy', hstop⟩ := State.evictAll_stops ((hmarked.cohort? k).trans hy) hst
      (List.mem_map.2 ⟨y, hmem, State.cohort?_key hy⟩)
    exact ⟨y', (hsettled.cohort? k).trans hy', hstop⟩

/-! ### RESUME -/

theorem Queue.num_resumed (q : Queue) : q.resumed.num = q.num := by
  unfold Queue.resumed
  split <;> rfl

theorem Queue.ctxStop_resumed (q : Queue) : q.resumed.ctxStop = q.ctxStop := by
  unfold Queue.resumed
  split <;> rfl

/-- A queue that stays stopped is stopped by the host, or by its context. -/
theorem Queue.hostStop_resumed {q : Queue} (hc : q.ctxStop = false) (h : q.resumed.st = .stopped) : q.resumed.hostStop = true := by
  unfold Queue.resumed at h ⊢
  split at h
  next => cases h
  next hnot =>
    rw [if_neg hnot]
    simpa [h, hc] using hnot

/-! ### DESTROY (R321) -/

/-- Notifications that go change what leaves the state, and the virtual functions. -/
theorem State.dropNotes_beside (s : State) (x : Context) : ∃ vs, ({ s with vfs := vs } : State).SameBesideWire (s.dropNotes x) := by
  unfold State.dropNotes
  split
  · exact ⟨s.vfs, rfl⟩
  · extract_lets kept first t
    split
    · exact ⟨_, .refl t⟩
    · refine ⟨_, State.SameBesideWire.trans (s := t) ?_ (State.sameBesideWire_sendNote _ _)⟩
      rfl

/-- DESTROY: what becomes of the state, before the answer. -/
def State.destroyContext (s : State) (x : Context) (ctx : Nat) : State :=
  let s := (s.faultKernels ctx).dropTlb (fun _ => true) (fun _ => true) (fun t => t.ctx == ctx) fun w => w.2.ctx == ctx
  { s.dropNotes x with contexts := (s.dropNotes x).contexts.filter fun y => y.id != ctx }

theorem State.destroyContext_spec (s : State) (x : Context) (n : Nat) :
    (s.destroyContext x n).context? n = none ∧
    (∀ i k, (s.destroyContext x n).kernel? i = some k → k.ctx = n → k.st = .faulted ∨ k.st = .completed) ∧
    (∀ k ∈ (s.destroyContext x n).cores, ∀ e ∈ k.tlb, e.ctx ≠ n) ∧ (∀ e ∈ (s.destroyContext x n).dieTlb, e.2.ctx ≠ n) ∧
    ∀ e ∈ (s.destroyContext x n).walkc, e.2.ctx ≠ n := by
  let flushed := (s.faultKernels n).dropTlb (fun _ => true) (fun _ => true) (fun t => t.ctx == n) fun w => w.2.ctx == n
  obtain ⟨hcores, hdie, hwalk⟩ := (s.faultKernels n).dropTlb_drops (fun t => t.ctx == n) fun w => w.2.ctx == n
  obtain ⟨vs, hnotes⟩ := flushed.dropNotes_beside x
  have hkept {β : Type} (p : State → β) (hp : ∀ (s t : State), s.SameBesideWire t → p t = p s)
      (hv : p ({ flushed with vfs := vs }) = p flushed) : p (flushed.dropNotes x) = p flushed := (hp _ _ hnotes).trans hv
  refine ⟨?_, ?_, ?_, ?_, ?_⟩
  · refine List.find?_eq_none.2 fun y hy => ?_
    simpa using (List.mem_filter.1 hy).2
  · have hkernels : (s.destroyContext x n).kernels = (s.faultKernels n).kernels :=
      hkept State.kernels (fun _ _ h => h.kernels) rfl
    exact fun i => (s.kernelOver_faultKernels n i).of_kernels hkernels
  · have hsame : (s.destroyContext x n).cores = flushed.cores := hkept State.cores (fun _ _ h => h.field State.cores) rfl
    rw [hsame]
    exact fun k hk e he => by simpa using hcores k hk e he
  · have hsame : (s.destroyContext x n).dieTlb = flushed.dieTlb := hkept State.dieTlb (fun _ _ h => h.field State.dieTlb) rfl
    rw [hsame]
    exact fun e he => by simpa using hdie e he
  · have hsame : (s.destroyContext x n).walkc = flushed.walkc := hkept State.walkc (fun _ _ h => h.field State.walkc) rfl
    rw [hsame]
    exact fun e he => by simpa using hwalk e he

end Sys2Proof.Machine
end

section
/-! CREATE, DBGSTOP, and the requests about contexts together (R319 to R322, R399, R417). -/

namespace Sys2Proof.Machine

/-! ### RESUME and DESTROY -/

/-- A queue that its context's RESUME reaches. -/
def Queue.reopened (q : Queue) : Queue := { q with ctxStop := false }.resumed

/-- RESUME: what becomes of the state, before the answer. -/
def State.resumeContext (s : State) (x : Context) (ctx : Nat) : State :=
  (s.setContext { x with st := .open_ }).modQueues ctx Queue.reopened

theorem State.resumeContext_spec {s : State} {n : Nat} {c : Context} (hc : s.context? n = some c) :
    (s.resumeContext c n).context? n = some { c with st := .open_ } ∧
    ∀ q ∈ (s.resumeContext c n).queues, q.ctx = n → q.ctxStop = false ∧ (q.st = .stopped → q.hostStop = true) := by
  constructor
  · rw [State.context?, State.resumeContext, State.contexts_modQueues]
    exact State.context?_setContext_same hc (State.context?_id hc :)
  · intro q hq hctx
    obtain ⟨y, -, rfl⟩ := State.mem_queues_modQueues _ n Queue.reopened (fun y => Queue.num_resumed _) hq hctx
    exact ⟨Queue.ctxStop_resumed _, Queue.hostStop_resumed rfl⟩

theorem exec_destroy (s : State) (f : From) (n : Nat) : exec (.destroy f n) s = .next (s.request f fun s => s.owned f n fun x =>
    if x.st != .stopped && x.st != .faulted then s.refuse 4 else (s.destroyContext x n, 0, 0)) := rfl

/-! ### CREATE -/

/-- The context that CREATE makes. -/
def createdContext (f : From) (p : Partition) (n world root handler save savesz : Nat) : Context :=
  { id := n, root := root, handler := handler % 2 ^ 56, save := save, savesz := savesz, vf := f.vfn
    world := world % 2 == 1, st := .open_, part := p.id, fusewin := 4096, host := f.src }

section
variable {s : State} {f : From} (h : s.Admits f)
include h

section
variable {n : Nat} {p : Partition} (hn : lowestFree 4096 (s.contexts.map (·.id)) = some n) (hp : s.partOfVf f.vfn = some p)
  (world root handler save savesz : Nat)
include hn hp

/-- What CREATE answers, with an identifier free and the partition known. -/
theorem answers_create {r : State × Nat × Nat}
    (hr : (if world % 2 == 1 && !p.world then (s.tookNext f).refuse 2
      else if !p.holdsContext root save savesz then (s.tookNext f).refuse 3
      else ({ s.tookNext f with contexts := s.contexts ++ [createdContext f p n world root handler save savesz] }, 0, n)) = r) :
    Answers s f (.create f world root handler save savesz) r.1 r.2.1 r.2.2 := by
  refine h.answers rfl ?_
  have hn' : lowestFree 4096 ((s.tookNext f).contexts.map (·.id)) = some n := hn
  have hp' : (s.tookNext f).partOfVf f.vfn = some p := hp
  simp only [hn', hp']
  exact hr

theorem answers_create_denied (hd : world % 2 = 1 ∧ p.world = false) :
    Answers s f (.create f world root handler save savesz) (s.tookNext f) 2 0 :=
  answers_create h hn hp world root handler save savesz (if_pos (by simp [hd]))

variable (hd : ¬ (world % 2 = 1 ∧ p.world = false))
include hd

theorem answers_create_notHeld (hold : p.holdsContext root save savesz = false) :
    Answers s f (.create f world root handler save savesz) (s.tookNext f) 3 0 :=
  answers_create h hn hp world root handler save savesz ((if_neg (by simpa using hd)).trans (if_pos (by rw [hold]; rfl)))

theorem answers_create_makes (hold : p.holdsContext root save savesz = true) :
    Answers s f (.create f world root handler save savesz)
      { s.tookNext f with contexts := s.contexts ++ [createdContext f p n world root handler save savesz] } 0 n :=
  answers_create h hn hp world root handler save savesz ((if_neg (by simpa using hd)).trans (if_neg (by rw [hold]; decide)))

end

section
variable {n : Nat} {i : Instr} {go : Context → State → State × Nat × Nat}
  (hi : exec i s = .next (s.request f fun s => s.owned f n fun x => go x s))
include hi

/-- A request that names no context of the virtual function's is refused. -/
theorem answers_unowned (hno : s.context? n = none ∨ ∃ c, s.context? n = some c ∧ c.vf ≠ f.vfn) :
    Answers s f i (s.tookNext f) 5 0 :=
  h.answers hi (State.owned_refused (s := s.tookNext f) hno)

variable {c : Context} (hc : s.context? n = some c) (hv : c.vf = f.vfn)
include hc hv

theorem answers_owned {t : State} {status result : Nat} (hgo : go c (s.tookNext f) = (t, status, result)) :
    Answers s f i t status result :=
  h.answers hi ((State.owned_found (s := s.tookNext f) hc hv).trans hgo)

end

/-! ### DBGSTOP (R417) -/

section
variable {n kernel cohort stop : Nat} {c : Context} {k : Kernel} {y : Cohort} (hc : s.context? n = some c) (hv : c.vf = f.vfn)
  (hst : c.st = .open_) (hk : s.kernel? kernel = some k) (hctx : k.ctx = n) (hy : s.cohort? ⟨kernel, cohort⟩ = some y)
  (hp : s.stopPends y = false)
include hc hv hst hk hctx hy hp

/-- What DBGSTOP does to a cohort that no stop pends for. -/
theorem exec_dbgstop (hcoh : y.st = .resident ∨ y.st = .parked) {t : State}
    (ht : (match y.st, y.stop, y.save with
      | .parked, _, some (at_, _) =>
        ((s.tookNext f).stopParked y at_ (stop % 2 ^ 32)).respond f 0 (mgmtBody 0)
      | .resident, some .evict, _ => (s.tookNext f).setCohort { y with dbg := some (stop % 2 ^ 32, f) }
      | _, _, _ => (s.tookNext f).setCohort { y with stop := some (.debug (stop % 2 ^ 32) f) }) = t) :
    exec (.dbgstop f n kernel cohort stop) s = .next t := by
  have hc' : (s.tookNext f).context? n = some c := hc
  have hk' : ((s.tookNext f).kernel? kernel).filter (fun k => k.ctx == n) = some k := by
    rw [show (s.tookNext f).kernel? kernel = some k from hk, Option.filter_some, if_pos (by simpa using hctx)]
  have hy' : (s.tookNext f).cohort? ⟨kernel, cohort⟩ = some y := hy
  have hp' : (s.tookNext f).stopPends y = false := hp
  have hthere : ¬ (y.st != .resident && y.st != .parked) = true := by simpa using fun h => hcoh.resolve_left h
  have hown : ¬ (c.vf != f.vfn) = true := by simp [hv]
  have hopen : ¬ (c.st != .open_) = true := by simp [hst]
  refine congrArg Host.Outcome.next (h.arriving.trans ?_)
  simp only [hc', hk', hy', if_neg hown, if_neg hopen, if_neg hthere, hp', Bool.false_eq_true, if_false]
  exact ht

end

end

/-- Settles O49: each request by what it does before its answer, DBGSTOP by what the cohort's state and stop are. -/
theorem contextRequests : Obligations.ContextRequests := by
  intro s f hrun hexp hvc hacc
  have h : s.Admits f := ⟨hrun, hexp, hvc, hacc⟩
  refine ⟨fun world root handler save savesz n p hn hp => ?create, fun n i hi hno => ?unowned, fun n c hc hv =>
    ⟨fun hst => answers_owned h rfl hc hv (if_pos (by simpa using hst)), fun hst => ?stop,
      fun hst => answers_owned h rfl hc hv (if_pos (by simpa using hst)), fun hst => ?resume,
      fun hst => answers_owned h rfl hc hv (if_pos (by simpa using hst)), fun hst => ?destroy,
      answers_owned h rfl hc hv rfl, fun hst kernel cohort stop k y hk hctx hy hp => ?dbgstop⟩⟩
  case create =>
    intro i denied
    obtain ⟨hlt, hfree, hlow⟩ := lowestFree_spec hn
    refine ⟨answers_create_denied h hn hp world root handler save savesz, answers_create_notHeld h hn hp world root handler save savesz, fun hd hold => ⟨_, _,
      answers_create_makes h hn hp world root handler save savesz hd hold, rfl, rfl, rfl, rfl, rfl, rfl, rfl, rfl, rfl, hlt,
      fun x hx hid => hfree (List.mem_map.2 ⟨x, hx, hid⟩), fun m hm => by simpa using hlow m hm⟩⟩
  case unowned =>
    simp only [List.mem_cons, List.not_mem_nil, or_false] at hi
    obtain rfl | rfl | rfl | rfl := hi <;> exact answers_unowned h rfl hno
  case stop =>
    obtain ⟨hbeams, ⟨c', hc', hst'⟩, hqueues, hstops⟩ := State.stopContext_spec (s := s.tookNext f) hc
    exact ⟨(s.tookNext f).stopContext c n, c', answers_owned h rfl hc hv (if_neg (by simp [hst])), hbeams, hc', hst', hqueues,
      hstops⟩
  case resume =>
    obtain ⟨hc', hqueues⟩ := State.resumeContext_spec (s := s.tookNext f) hc
    exact ⟨(s.tookNext f).resumeContext c n, _, answers_owned h rfl hc hv (if_neg (by simp [hst])), hc', rfl, hqueues⟩
  case destroy =>
    have hends : ¬ (c.st != .stopped && c.st != .faulted) = true := by simpa using fun h => hst.resolve_left h
    exact ⟨(s.tookNext f).destroyContext c n, answers_owned h (exec_destroy s f n) hc hv (if_neg hends),
      (s.tookNext f).destroyContext_spec c n⟩
  case dbgstop =>
    refine ⟨fun hres hstop => exec_dbgstop h hc hv hst hk hctx hy hp (.inl hres) ?_,
      fun hres hstop => exec_dbgstop h hc hv hst hk hctx hy hp (.inl hres) ?_,
      fun at_ size hpark hsave => exec_dbgstop h hc hv hst hk hctx hy hp (.inr hpark) ?_⟩
    · simp only [hres, hstop]
    · simp only [hres, hstop]
    · simp only [hpark, hsave]

end Sys2Proof.Machine
end

section
/-! The management requests about queues, translations and link groups (R333, R340, R342, R385, R389, R398, R401). -/

namespace Sys2Proof.Machine

/-! ### The registers of a core's page rest on its record -/

theorem State.regRead_congr {s t : State} {core : Nat} (h : t.coreOf core = s.coreOf core) (off : Nat) :
    t.regRead core off = s.regRead core off := by
  unfold State.regRead
  rw [h]

theorem State.pageRead_congr {s t : State} (h : ∀ core, t.coreOf core = s.coreOf core) (pa n : Nat) :
    t.pageRead pa n = s.pageRead pa n := by
  simp only [State.pageRead, State.regRead_congr (h _)]

/-! ### What the host reads through a translation rests on no flow -/

theorem State.coreOf_setFlow (s : State) (w : Flow) (core : Nat) : (s.setFlow w).coreOf core = s.coreOf core := rfl

section
variable (s : State) (f : From) (v : Via) (x : Context) (va n : Nat)

theorem State.ioByte_tookNext : (s.tookNext f).ioByte v x va = s.ioByte v x va := by
  have hx : (s.tookNext f).xlate v false x va = s.xlate v false x va := s.xlate_setFlow _ v false x va
  have hread (pa : Nat) : (s.tookNext f).pageRead pa 8 = s.pageRead pa 8 := State.pageRead_congr (s.coreOf_setFlow _) pa 8
  have hmem : (s.tookNext f).mem = s.mem := rfl
  simp only [State.ioByte, hx, hread, hmem]

theorem State.ioRead_tookNext : (s.tookNext f).ioRead v x va n = s.ioRead v x va n := by
  induction n generalizing va with
  | zero => rfl
  | succ n ih => simp only [State.ioRead, State.ioByte_tookNext, ih]

theorem State.ioNat_tookNext : (s.tookNext f).ioNat v x va n = s.ioNat v x va n := by
  rw [State.ioNat, State.ioRead_tookNext, State.ioNat]

theorem State.nearPages_tookNext : (s.tookNext f).nearPages x va n = s.nearPages x va n := by
  simp only [State.nearPages, State.tookNext, State.xlate_setFlow]

theorem State.deviceList_tookNext : (s.tookNext f).deviceList x va n = s.deviceList x va n := by
  simp only [State.deviceList, State.ioFault_tookNext, State.nearPages_tookNext, State.ioNat_tookNext]

end

/-! ### QRESET (R340) -/

/-- DONE passes every number of a run that has ended. -/
theorem le_advanceDone {l : List Nat} {m : Nat} (fuel done : Nat) (hall : ∀ k, done < k → k ≤ m → l.contains k = true)
    (hm : m ≤ done + fuel) : m ≤ advanceDone l fuel done := by
  induction fuel generalizing done with
  | zero => exact hm
  | succ fuel ih =>
    unfold advanceDone
    by_cases hdone : m ≤ done
    · split
      · exact ih (done + 1) (fun k hk => hall k (by omega)) (by omega)
      · exact hdone
    · rw [if_pos (hall (done + 1) (by omega) (by omega))]
      exact ih (done + 1) (fun k hk => hall k (by omega)) (by omega)

/-- DONE reaches the last command that QRESET skips, where all before them are done. -/
theorem Queue.tail_le_done_skipAll {q : Queue} (hd : q.done = q.head) (hle : q.head ≤ q.tail) : q.tail ≤ q.skipAll.done := by
  have hskipped : ∀ k, q.done < k → k ≤ q.tail →
      (q.finished ++ (List.range (q.tail - q.head)).map (fun k => q.head + 1 + k) ++ []).contains k = true := by
    intro k hlow hhigh
    simp only [List.append_nil, List.contains_iff_mem, List.mem_append, List.mem_map, List.mem_range]
    exact .inr ⟨k - q.head - 1, by omega, by omega⟩
  refine le_advanceDone _ q.done hskipped ?_
  simp only [List.append_nil, List.length_append, List.length_map, List.length_range]
  omega

theorem Queue.skipAll_spec (q : Queue) : q.skipAll.num = q.num ∧ q.skipAll.head = q.tail ∧ q.skipAll.tail = q.tail ∧
    q.skipAll.fcode = 0 ∧ q.skipAll.st = if q.hostStop ∨ q.ctxStop then .stopped else .running := by
  refine ⟨rfl, rfl, rfl, rfl, ?_⟩
  show (if (q.hostStop || q.ctxStop) = true then _ else _) = _
  simp only [Bool.or_eq_true]

/-! ### QCREATE (R333) -/

theorem Queue.length_image (q : Queue) : q.image.length = 64 := by
  simp only [Queue.image, List.length_append, natLe_length]

/-- A queue of a free number stands beside the others, its descriptor written. -/
theorem State.addQueue_spec {s : State} {q : Queue} (hfree : q.num ∉ s.queues.map (·.num)) :
    (({ s with queues := s.queues ++ [q] } : State).putQueue q).queue? q.num = some q ∧
    (({ s with queues := s.queues ++ [q] } : State).putQueue q).readBytes q.desc 64 = q.image := by
  constructor
  · refine State.queue?_putQueue_same (y := q) ?_ rfl
    have hnone : s.queues.find? (fun y => y.num == q.num) = none :=
      List.find?_eq_none.2 fun y hy => by simpa using fun h => hfree (List.mem_map.2 ⟨y, hy, h⟩)
    rw [State.queue?, List.find?_append, hnone, List.find?_cons_of_pos (by simp)]
    rfl
  · rw [← q.length_image]
    exact State.readBytes_writeBytes _ none false q.desc q.image

/-! ### QDESTROY -/

/-- A queue that is destroyed is found no more, and its descriptor is Free. -/
theorem State.dropQueue_spec (s : State) (n desc : Nat) :
    ((({ s with queues := s.queues.filter fun z => z.num != n } : State).writeNat (desc + 14) 2 0).queue? n = none) ∧
    (({ s with queues := s.queues.filter fun z => z.num != n } : State).writeNat (desc + 14) 2 0).mem.read (desc + 14) = 0 ∧
    (({ s with queues := s.queues.filter fun z => z.num != n } : State).writeNat (desc + 14) 2 0).mem.read (desc + 15) = 0 := by
  have hread (k : Nat) (hk : k < (natLe 2 0).length) := State.writeBytes_read
    ({ s with queues := s.queues.filter fun z => z.num != n } : State) none false (desc + 14) (natLe 2 0) k hk
  refine ⟨?_, hread 0 (by decide), hread 1 (by decide)⟩
  rw [State.queue?, (State.sameBesideMemory_writeNat _ _ _ _).queues]
  refine List.find?_eq_none.2 fun y hy => ?_
  simpa using (List.mem_filter.1 hy).2

/-! ### The queue that a request names -/

section
variable {s : State} {f : From} {n : Nat} {go : Queue → State × Nat × Nat}

theorem State.ownQueue_refused (h : s.queue? n = none ∨
    ∃ q, s.queue? n = some q ∧ (s.context? q.ctx).any (fun x => x.vf == f.vfn) = false) : s.ownQueue f n go = (s, 5, 0) := by
  obtain h | ⟨q, hq, hv⟩ := h
  · simp only [State.ownQueue, h]
    rfl
  · simp only [State.ownQueue, hq]
    exact if_neg (by simpa using hv)

theorem State.ownQueue_found {q : Queue} (hq : s.queue? n = some q) (hv : (s.context? q.ctx).any (fun x => x.vf == f.vfn) = true) :
    s.ownQueue f n go = go q := by
  simp only [State.ownQueue, hq]
  exact if_pos hv

end

section
variable {s : State} {f : From} (h : s.Admits f)
include h

section
variable {n : Nat} {i : Instr} {go : Queue → State → State × Nat × Nat}
  (hi : exec i s = .next (s.request f fun s => s.ownQueue f n fun q => go q s))
include hi

theorem answers_queueUnowned (hno : s.queue? n = none ∨
    ∃ q, s.queue? n = some q ∧ (s.context? q.ctx).any (fun x => x.vf == f.vfn) = false) : Answers s f i (s.tookNext f) 5 0 :=
  h.answers hi (State.ownQueue_refused (s := s.tookNext f) hno)

theorem answers_queueOwned {q : Queue} (hq : s.queue? n = some q)
    (hv : (s.context? q.ctx).any (fun x => x.vf == f.vfn) = true) {t : State} {status result : Nat}
    (hgo : go q (s.tookNext f) = (t, status, result)) : Answers s f i t status result :=
  h.answers hi ((State.ownQueue_found (s := s.tookNext f) hq hv).trans hgo)

end

/-- The queue that QCREATE makes. -/
def createdQueue (n ctx pa base size cls weight : Nat) : Queue :=
  { num := n, ctx := ctx, desc := pa, base := base, size := size, cls := cls, weight := weight % 256, st := .running
    fcode := 0, tail := 0, head := 0, done := 0, fseq := 0, hostStop := false, ctxStop := false, finished := []
    offered := none, credit := 0, recs := [] }

theorem answers_qcreate {ctx desc base size cls weight n pa va : Nat} {c : Context} (hc : s.context? ctx = some c)
    (hv : c.vf = f.vfn) (hn : lowestFree 8192 (s.queues.map (·.num)) = some n) (hdesc : desc % 64 = 0) (hbase : base % 4096 = 0)
    (hsize : 16 ≤ size ∧ size ≤ 65536 ∧ size = 2 ^ Nat.log2 size) (hcls : cls ≤ 3) (hweight : cls = 0 ∨ 1 ≤ weight ∧ weight ≤ 255)
    (hring : s.nearPages c base (64 * size) = some va) (hpa : s.nearPages c desc 64 = some pa) :
    Answers s f (.qcreate f [ctx, desc, base, size, cls, weight])
      (({ s.tookNext f with queues := s.queues ++ [createdQueue n c.id pa base size cls weight] } : State).putQueue
        (createdQueue n c.id pa base size cls weight)) 0 n := by
  refine answers_owned h (n := ctx) rfl hc hv ?_
  have hn' : lowestFree 8192 ((s.tookNext f).queues.map (·.num)) = some n := hn
  have hgood : (desc % 64 == 0 && base % 4096 == 0 && decide (16 ≤ size ∧ size ≤ 65536 ∧ size = 2 ^ Nat.log2 size) &&
      decide (cls ≤ 3) && (cls == 0 || decide (1 ≤ weight ∧ weight ≤ 255))) = true := by
    rw [decide_eq_true hsize]
    simpa [hdesc, hbase, hcls] using hweight
  simp only [List.getD_cons_succ, List.getD_cons_zero, hn', State.nearPages_tookNext, hring, hpa, hgood, Option.isSome_some,
    Bool.and_self, if_true]
  rfl

end

end Sys2Proof.Machine
end

section
/-! TLBFLUSH, link groups and the domain, and the requests about queues and groups together. -/

namespace Sys2Proof.Machine

/-! ### Requests about one queue (R340, R342) -/

theorem exec_qstop (s : State) (f : From) (n : Nat) : exec (.qstop f n) s = .next (s.request f fun s => s.ownQueue f n fun y =>
    if y.serving then (s.putQueue { y with hostStop := true, st := .stopped }, 0, 0) else s.refuse 4) := rfl

theorem exec_qresume (s : State) (f : From) (n : Nat) : exec (.qresume f n) s = .next (s.request f fun s =>
    s.ownQueue f n fun y => if y.st == .stopped then (s.putQueue (Queue.resumed { y with hostStop := false }), 0, 0)
      else s.refuse 4) := rfl

theorem exec_qreset (s : State) (f : From) (n : Nat) : exec (.qreset f n) s = .next (s.request f fun s =>
    s.ownQueue f n fun y => if y.st == .faulted then (s.putQueue y.skipAll, 0, 0) else s.refuse 4) := rfl

/-! ### TLBFLUSH (R385) -/

/-- The translations of a context that TLBFLUSH names are in no core and no die. -/
theorem State.tlbDrop_dev (s : State) (drop : TlbEntry → Bool) (walks : WalkEntry → Bool) :
    let t := s.tlbDrop 0 .dev drop walks
    t.mem = s.mem ∧ t.beams = s.beams ∧ (∀ k ∈ t.cores, ∀ e ∈ k.tlb, drop e = false) ∧ (∀ e ∈ t.dieTlb, drop e.2 = false) ∧
      ∀ e ∈ t.walkc, walks e.2 = false :=
  ⟨rfl, rfl, s.dropTlb_drops drop fun w => walks w.2⟩

/-! ### Link groups (R401) -/

/-- The link group that LGCREATE makes. -/
def createdGroup (part index gen : Nat) (devs : List Nat) : LinkGroup :=
  { part := part, index := index, gen := gen, live := true, devs := devs, crc := Config.listCrc devs, issued := 0
    broken := false }

/-- The generation that the next group of a partition at an index has. -/
def State.nextGen (s : State) (part index : Nat) : Nat :=
  (((s.links.filter fun g => g.part == part).find? fun g => g.index == index).map (·.gen)).getD 1

/-- A new group stands before the others, in place of the one at its index. -/
def State.addGroup (s : State) (x : Context) (va count : Nat) (g : LinkGroup) : State :=
  { s.ioNotes viaHost x va (2 * count) false with
    links := g :: s.links.filter fun h => !(h.part == g.part && h.index == g.index) }

theorem State.linkOf_addGroup (s : State) (x : Context) (va count part index gen : Nat) (devs : List Nat) :
    (s.addGroup x va count (createdGroup part index gen devs)).linkOf part (index + gen * 2 ^ 16) =
      some (createdGroup part index gen devs) :=
  List.find?_cons_of_pos (by simp [createdGroup])

theorem State.mem_links_setLink {s : State} {g z : LinkGroup} (hz : z ∈ (s.setLink g).links) (hp : z.part = g.part)
    (hi : z.index = g.index) : z = g := by
  obtain ⟨x, -, rfl⟩ := List.mem_map.1 hz
  split
  · rfl
  next hne => rw [if_neg hne] at hp hi; simp [hp, hi] at hne

/-- The generation of a group that has ended advances. -/
def LinkGroup.ended (g : LinkGroup) : LinkGroup := { g with live := false, gen := (g.gen + 1) % 2 ^ 16 }

/-- LGDESTROY: what becomes of the state, before the answer. -/
def State.endGroup (s : State) (g : LinkGroup) : State :=
  { s.setLink g.ended with collIn := s.collIn.filter fun m => !(m.part == g.part && m.group == g.index) }

section
variable {s : State} {f : From} (h : s.Admits f)
include h

section
variable {n va count g : Nat} {devs : List Nat} {c : Context} {p : Partition} (hc : s.context? n = some c) (hv : c.vf = f.vfn)
  (hp : s.part? c.part = some p)
  (hg : lowestFree 64 (((s.links.filter fun g => g.part == p.id).filter fun g => g.live).map (·.index)) = some g)
  (hd : s.deviceList c va count = some devs)
include hc hv hp hg hd

/-- What LGCREATE answers, with an index free and the list of devices read. -/
theorem answers_lgcreate {r : State × Nat × Nat} (hr : (
    if (devs.filter (· == s.mgmt.device)).length != 1 then (s.tookNext f).refuse 6
    else if !(devs.all fun d => d == s.mgmt.device || (p.egress.contains d && p.ingress.contains d)) then (s.tookNext f).refuse 7
    else ((s.tookNext f).addGroup c va count (createdGroup p.id g (s.nextGen p.id g) devs), 0, g + s.nextGen p.id g * 2 ^ 16)) = r) :
    Answers s f (.lgcreate f n va count) r.1 r.2.1 r.2.2 := by
  refine answers_owned h rfl hc hv ?_
  have hp' : (s.tookNext f).part? c.part = some p := hp
  have hg' : lowestFree 64 ((((s.tookNext f).links.filter fun g => g.part == p.id).filter fun g => g.live).map (·.index)) = some g := hg
  simp only [hp', hg', State.deviceList_tookNext, hd]
  exact hr

theorem answers_lgcreate_notOnce (hone : (devs.filter (· == s.mgmt.device)).length ≠ 1) :
    Answers s f (.lgcreate f n va count) (s.tookNext f) 6 0 :=
  answers_lgcreate h hc hv hp hg hd (r := (s.tookNext f, 6, 0)) (if_pos (by simpa using hone))

variable (hone : (devs.filter (· == s.mgmt.device)).length = 1)
include hone

theorem answers_lgcreate_notAdmitted
    (hfar : (devs.all fun d => d == s.mgmt.device || (p.egress.contains d && p.ingress.contains d)) = false) :
    Answers s f (.lgcreate f n va count) (s.tookNext f) 7 0 :=
  answers_lgcreate h hc hv hp hg hd (r := (s.tookNext f, 7, 0))
    ((if_neg (by simpa using hone)).trans (if_pos (by rw [hfar]; rfl)))

theorem answers_lgcreate_makes
    (hfar : (devs.all fun d => d == s.mgmt.device || (p.egress.contains d && p.ingress.contains d)) = true) :
    Answers s f (.lgcreate f n va count) ((s.tookNext f).addGroup c va count (createdGroup p.id g (s.nextGen p.id g) devs)) 0
      (g + s.nextGen p.id g * 2 ^ 16) :=
  answers_lgcreate h hc hv hp hg hd
    (r := ((s.tookNext f).addGroup c va count (createdGroup p.id g (s.nextGen p.id g) devs), 0, g + s.nextGen p.id g * 2 ^ 16))
    ((if_neg (by simpa using hone)).trans (if_neg (by rw [hfar]; decide)))

end

section
variable {n : Nat} {q : Queue} (hq : s.queue? n = some q) (hv : (s.context? q.ctx).any (fun x => x.vf == f.vfn) = true)
include hq hv

/-- A request that puts the queue. -/
theorem answers_put {i : Instr} {ok : Queue → Bool} {g : Queue → Queue} (hi : exec i s = .next (s.request f fun s =>
      s.ownQueue f n fun y => if ok y then (s.putQueue (g y), 0, 0) else s.refuse 4)) (hok : ok q = true) (hg : (g q).num = q.num) :
    Answers s f i ((s.tookNext f).putQueue (g q)) 0 0 ∧ ((s.tookNext f).putQueue (g q)).queue? n = some (g q) :=
  ⟨answers_queueOwned h (go := fun y s => if ok y then (s.putQueue (g y), 0, 0) else s.refuse 4) hi hq hv (if_pos hok),
    State.queue?_putQueue_same (s := s.tookNext f) hq (hg.trans (State.queue?_num hq))⟩

theorem answers_put_refused {i : Instr} {ok : Queue → Bool} {g : Queue → Queue} (hi : exec i s = .next (s.request f fun s =>
      s.ownQueue f n fun y => if ok y then (s.putQueue (g y), 0, 0) else s.refuse 4)) (hok : ok q = false) :
    Answers s f i (s.tookNext f) 4 0 :=
  answers_queueOwned h (go := fun y s => if ok y then (s.putQueue (g y), 0, 0) else s.refuse 4) hi hq hv
    (if_neg (ne_true_of_eq_false hok))

theorem answers_qdestroy {r : State × Nat × Nat} (hr : (if q.st != .stopped && q.st != .faulted then (s.tookNext f).refuse 4
    else if q.done != q.head then (s.tookNext f).refuse 6
    else ((({ s.tookNext f with queues := s.queues.filter fun z => z.num != n } : State).writeNat (q.desc + 14) 2 0), 0, 0)) = r) :
    Answers s f (.qdestroy f n) r.1 r.2.1 r.2.2 :=
  answers_queueOwned h rfl hq hv hr

end

theorem answers_lgdestroy {n k : Nat} {c : Context} (hc : s.context? n = some c) (hv : c.vf = f.vfn) {y : LinkGroup}
    (hk : s.linkOf c.part k = some y) : Answers s f (.lgdestroy f n k) ((s.tookNext f).endGroup y) 0 0 := by
  have hk' : (s.tookNext f).linkOf c.part k = some y := hk
  refine answers_owned h rfl hc hv ?_
  simp only [hk']
  rfl

theorem exec_domain : exec (.domain f) s = .next ((s.tookNext f).respond f 0
    (mgmtBody (s.mgmt.device % 2 ^ 16 + s.mgmt.bootst.toNat * 2 ^ 32) ++ s.ports.flatMap fun p => natLe 4 p.lnkst)) := by
  show execDomain f s = _
  rw [execDomain, if_pos h.running, h.arriving]
  rfl

theorem exec_unknownRequestCode_spdm : exec (.unknownRequestCode f 0x40) s = .next (s.tookNext f) :=
  congrArg Host.Outcome.next ((if_neg (by decide)).trans ((if_pos rfl).trans h.arriving))

theorem answers_unknownRequestCode {code : Nat} (hcode : 0x40 < code) :
    Answers s f (.unknownRequestCode f code) (s.tookNext f) 8 0 := by
  refine h.answers (go := fun s => s.refuse 8) ?_ rfl
  have hknown : [0x01, 0x02, 0x03, 0x04, 0x05, 0x06, 0x10, 0x11, 0x12, 0x13, 0x14, 0x20, 0x30, 0x31, 0x32].contains code = false := by
    rw [← Bool.not_eq_true, List.contains_iff_mem]
    intro hmem
    have hle : ∀ k ∈ [0x01, 0x02, 0x03, 0x04, 0x05, 0x06, 0x10, 0x11, 0x12, 0x13, 0x14, 0x20, 0x30, 0x31, 0x32], k ≤ 0x40 := by
      decide
    exact Nat.not_le.2 hcode (hle code hmem)
  have hne : ¬ (code == 0x40) = true := by simpa using Nat.ne_of_gt hcode
  show execUnknownRequestCode f code s = _
  rw [execUnknownRequestCode]
  simp only [hknown, if_neg hne, Bool.false_eq_true, if_false]

end

/-! ### The statement -/

/-- Settles O50: each request by its queue, its context or its group. -/
theorem queueAndGroupRequests : Obligations.QueueAndGroupRequests := by
  refine ⟨fun s f hrun hexp hvc hacc => ?queues, fun s f n c p hrun hexp hvc hacc hc hv hp => ?groups⟩ <;>
    have h : s.Admits f := ⟨hrun, hexp, hvc, hacc⟩
  case queues =>
    refine ⟨fun ctx desc base size cls weight c n pa va hc hv hn hdesc hbase h16 h65536 hpow hcls hweight hring hpa => ?create,
      fun n i hi hno => ?unowned, fun n q hq hv => ?owned, exec_domain h, exec_unknownRequestCode_spdm h,
      fun code => answers_unknownRequestCode h⟩
    case create =>
      obtain ⟨hfind, hbytes⟩ := State.addQueue_spec (s := s.tookNext f) (q := createdQueue n c.id pa base size cls weight)
        (lowestFree_spec hn).2.1
      exact ⟨_, _, answers_qcreate h hc hv hn hdesc hbase ⟨h16, h65536, hpow⟩ hcls hweight hring hpa, hfind, rfl, rfl, rfl, rfl,
        rfl, rfl, rfl, rfl, rfl, hbytes⟩
    case unowned =>
      simp only [List.mem_cons, List.not_mem_nil, or_false] at hi
      obtain rfl | rfl | rfl | rfl := hi <;> exact answers_queueUnowned h rfl hno
    case owned =>
      have hends (hst : q.st = .stopped ∨ q.st = .faulted) : ¬ (q.st != .stopped && q.st != .faulted) = true := by
        simpa using fun h => hst.resolve_left h
      refine ⟨fun hst => answers_put_refused h hq hv (ok := Queue.serving) (exec_qstop s f n) hst,
        fun hst => ⟨_, answers_put h hq hv (ok := Queue.serving) (exec_qstop s f n) hst rfl⟩,
        fun hst => answers_put_refused h hq hv (ok := fun y => y.st == .stopped) (exec_qresume s f n) (by simpa using hst), fun hst => ?resume,
        fun hst => answers_put_refused h hq hv (ok := fun y => y.st == .faulted) (exec_qreset s f n) (by simpa using hst), fun hst => ?reset,
        fun hst => answers_qdestroy h hq hv (if_pos (by simpa using hst)),
        fun hst hd => answers_qdestroy h hq hv ((if_neg (hends hst)).trans (if_pos (by simpa using hd))),
        fun hst hd => ⟨_, answers_qdestroy h hq hv ((if_neg (hends hst)).trans (if_neg (by simpa using hd))),
          State.dropQueue_spec (s.tookNext f) n q.desc⟩⟩
      case resume =>
        obtain ⟨hans, hput⟩ := answers_put h hq hv (ok := fun y => y.st == .stopped) (exec_qresume s f n) (by simpa using hst) (Queue.num_resumed _)
        refine ⟨_, hans, hput.trans (congrArg some ?_)⟩
        unfold Queue.resumed
        cases q.ctxStop <;> simp [hst]
      case reset =>
        obtain ⟨hnum, hhead, htail, hcode, hstate⟩ := q.skipAll_spec
        obtain ⟨hans, hput⟩ := answers_put h hq hv (ok := fun y => y.st == .faulted) (exec_qreset s f n) (by simpa using hst) hnum
        exact ⟨_, _, hans, hput, hhead, htail, hcode, hstate, Queue.tail_le_done_skipAll⟩
  case groups =>
    refine ⟨fun va => ?flush, fun va count g devs hg hd => ?create, fun k hk => ?unnamed, fun k y hk => ?destroy⟩
    case flush =>
      cases va with
      | none => exact ⟨_, answers_owned h rfl hc hv rfl, (s.tookNext f).tlbDrop_dev _ _⟩
      | some a => exact ⟨_, answers_owned h rfl hc hv rfl, (s.tookNext f).tlbDrop_dev _ _⟩
    case create =>
      exact ⟨answers_lgcreate_notOnce h hc hv hp hg hd, answers_lgcreate_notAdmitted h hc hv hp hg hd,
        fun hone hfar => ⟨_, createdGroup p.id g (s.nextGen p.id g) devs, answers_lgcreate_makes h hc hv hp hg hd hone hfar,
          State.linkOf_addGroup .., rfl, rfl, rfl, rfl⟩⟩
    case unnamed =>
      have hk' : (s.tookNext f).linkOf c.part k = none := hk
      refine answers_owned h rfl hc hv ?_
      simp only [hk']
      rfl
    case destroy =>
      refine ⟨_, answers_lgdestroy h hc hv hk, fun z hz hpart hindex => ?_⟩
      obtain rfl := State.mem_links_setLink (g := y.ended) hz hpart hindex
      exact ⟨rfl, rfl⟩

end Sys2Proof.Machine
end

section
/-! The frame of a queue's commands: what the scheduler finds at HEAD, and what it does with it (R334, R338, R339, R341). -/

namespace Sys2Proof.Machine

/-! ### What evictions for some work keep -/

section
variable {β : Type} {p : State → β} (hc : ∀ (s : State) (c : Cohort), p (s.setCohort c) = p s)
  (hr : ∀ (s : State) (rs : List Room), p { s with rooms := rs } = p s) (s : State)
include hc hr

theorem State.evictFor_field (w : Work) (l : Launch) (quads : List Nat) (ks : List CohortKey) (core : Nat) (tied : Bool) :
    p (s.evictFor w l quads ks core tied) = p s :=
  (foldl_field (State.evict_field p hc) ks _).trans (hr s _)

theorem State.makeRoom_field (w : Work) (q : Partition) (l : Launch) (quads : List Nat) :
    p (s.makeRoom w q l quads) = p s := by
  unfold State.makeRoom
  split
  · rfl
  · extract_lets best
    clear_value best
    split
    · exact State.evictFor_field hc hr s ..
    · rfl

end

/-! ### What the look at HEAD leaves -/

section
variable (s : State)

theorem State.sameBesideMemory_ioNotes (v : Via) (x : Context) (va n : Nat) (write : Bool) :
    s.SameBesideMemory (s.ioNotes v x va n write) := by
  unfold State.ioNotes
  exact .foldl (fun s a => s.sameBesideMemory_xlNoteAs v write write x a) _ s

theorem State.sameBesideMemory_judgeNotes (x : Context) (q : Queue) (r : List Byte) : s.SameBesideMemory (s.judgeNotes x q r) :=
  State.SameBesideMemory.trans (s.sameBesideMemory_ioNotes ..) (.ite (State.sameBesideMemory_ioNotes ..) (.refl _))

end

theorem State.SameBesideMemory.queue? {s t : State} (h : s.SameBesideMemory t) (n : Nat) : t.queue? n = s.queue? n := by
  rw [State.queue?, h.queues, State.queue?]

/-- The queue is Blocked; beams and kernels stay. -/
theorem State.blocked_spec {s : State} {num : Nat} {q : Queue} (hq : s.queue? num = some q) (p : Partition) (x : Context)
    (r : List Byte) : (∃ y, (s.blocked p x q r).queue? num = some y ∧ y.st = .blocked ∧ y.head = q.head) ∧
      (s.blocked p x q r).beams = s.beams ∧ (s.blocked p x q r).kernels = s.kernels := by
  unfold State.blocked
  extract_lets ty l starts since t
  have hwork : s.SameWork t := s.sameWork_putQueue _
  have hput : t.queue? num = some { q with st := .blocked, offered := since } :=
    State.queue?_putQueue_same hq (State.queue?_num hq :)
  have hroom {β : Type} (f : State → β) (hc : ∀ (s : State) (c : Cohort), f (s.setCohort c) = f s)
      (hr : ∀ (s : State) (rs : List Room), f { s with rooms := rs } = f s) (b : Bool) :
      f (if b then t.makeRoom q.work p l l.quads else t) = f t := by
    split
    · exact State.makeRoom_field hc hr t ..
    · rfl
  exact ⟨⟨_, (hroom (·.queue? num) (fun _ _ => rfl) (fun _ _ => rfl) _).trans hput, rfl, rfl⟩,
    (hroom State.beams (fun _ _ => rfl) (fun _ _ => rfl) _).trans hwork.beams,
    (hroom State.kernels (fun _ _ => rfl) (fun _ _ => rfl) _).trans hwork.kernels⟩

/-! ### A command that is taken -/

/-- A change of every record that no search minds. -/
theorem find?_map_of_eq {α : Type} {p : α → Bool} {f : α → α} (h : ∀ y, p (f y) = p y) (l : List α) :
    (l.map f).find? p = (l.find? p).map f := by
  rw [List.find?_map, show p ∘ f = p from funext h]

/-- A queue whose command at HEAD has been taken. -/
def Queue.moved (q : Queue) : Queue :=
  { q with
    recs := q.recs.filter (fun r => decide (q.head + 1 < r.1)), head := q.head + 1, st := .running, offered := none
    credit := (if q.credit == 0 then q.turns else q.credit) - 1 }

/-- The state `t` with the memory, what is kept of it, and the queues of `s`. -/
def State.withQueuesOf (t s : State) : State := { t.withMemoryOf s with queues := s.queues }

/-- The states differ in memory, what is kept of it, and queues. -/
def State.BesideQueues (s t : State) : Prop := t.withQueuesOf s = s

section
variable {s t : State}

theorem State.BesideQueues.of_memory (h : s.SameBesideMemory t) : s.BesideQueues t := by
  rw [State.BesideQueues, State.withQueuesOf, h]

theorem State.BesideQueues.trans {u : State} (h : s.BesideQueues t) (h' : t.BesideQueues u) : s.BesideQueues u :=
  (congrArg (fun v : State => v.withQueuesOf s) h').trans h

variable (h : s.BesideQueues t)
include h

theorem State.BesideQueues.field {β : Type} (p : State → β) : p (t.withQueuesOf s) = p s := congrArg p h
theorem State.BesideQueues.cmds : t.cmds = s.cmds := h.field State.cmds
theorem State.BesideQueues.clock : t.clock = s.clock := h.field State.clock
theorem State.BesideQueues.cohorts : t.cohorts = s.cohorts := h.field State.cohorts
theorem State.BesideQueues.kernels : t.kernels = s.kernels := h.field State.kernels
theorem State.BesideQueues.beams : t.beams = s.beams := h.field State.beams

end

theorem State.besideQueues_setQueues (s : State) (qs : List Queue) : s.BesideQueues { s with queues := qs } := rfl

theorem State.besideQueues_putQueue (s : State) (q : Queue) : s.BesideQueues (s.putQueue q) :=
  (s.besideQueues_setQueues (replaceBy Queue.num q s.queues)).trans (.of_memory (s.putQueue_beside q))

theorem State.besideQueues_taken (s : State) (part : Nat) (x : Context) (q : Queue) : s.BesideQueues (s.taken part x q) := by
  unfold State.taken
  extract_lets peers t
  have ht : s.BesideQueues t := by
    unfold t
    split
    · exact s.besideQueues_setQueues _
    · exact .of_memory (.refl s)
  exact ht.trans (t.besideQueues_putQueue _)

theorem State.queue?_taken {s : State} {num : Nat} {q : Queue} (hq : s.queue? num = some q) (part : Nat) (x : Context) :
    (s.taken part x q).queue? num = some q.moved := by
  unfold State.taken
  extract_lets peers t
  have ht : ∃ y, t.queue? num = some y := by
    unfold t
    split
    · have hkey (y : Queue) : ((if peers y then { y with credit := y.turns } else y).num == num) = (y.num == num) := by
        split <;> rfl
      have hfind := (find?_map_of_eq hkey s.queues).trans (congrArg _ hq)
      exact ⟨_, hfind⟩
    · exact ⟨q, hq⟩
  obtain ⟨y, hy⟩ := ht
  exact State.queue?_putQueue_same hy (State.queue?_num hq :)

/-- A command that ends leaves HEAD and STATE. -/
theorem State.queue?_queueEnd {s : State} {num : Nat} {q : Queue} (hq : s.queue? num = some q) (seq : Nat) :
    (s.queueEnd num seq).queue? num = some (q.ended [seq]) := by
  simp only [State.queueEnd, hq]
  exact State.queue?_putQueue_same hq (State.queue?_num hq :)

/-- DONE reaches the number of a command that ends, where every one before it has ended. -/
theorem Queue.le_done_ended {q : Queue} {n : Nat} (h : q.done = n) : n + 1 ≤ (q.ended [n + 1]).done := by
  refine le_advanceDone _ _ (fun k hlow hhigh => ?_) ?_
  · rw [show k = n + 1 by omega, List.contains_iff_mem]
    exact List.mem_append_right _ List.mem_cons_self
  · rw [List.length_append, List.length_singleton]
    omega

/-! ### The frame -/

section
variable {s : State} {num ty : Nat} {act : Partition → Context → Queue → List Byte → State → State} {q : Queue} {c : Context}
  {p : Partition} (hq : s.queue? num = some q) (hc : s.context? q.ctx = some c) (hp : s.part? c.part = some p)
include hq hc hp

theorem State.command_closed (h : c.st ≠ .open_ ∨ q.serves = false) : s.command num ty act = s := by
  simp only [State.command, hq, hc, hp]
  exact if_pos (by simpa using h)

variable (hopen : c.st = .open_) (hserves : q.serves = true)
include hopen hserves

theorem State.command_noRecord (hr : s.headCmd q = none) : s.command num ty act = s.queueFault num 7 (q.head + 1) := by
  simp only [State.command, hq, hc, hp, hr]
  exact if_neg (by simp [hopen, hserves])

variable {r : List Byte} (hr : s.headCmd q = some r)
include hr

theorem State.command_other (h : recAt r 0 1 ≠ ty) : s.command num ty act = s := by
  simp only [State.command, hq, hc, hp, hr]
  exact (if_neg (by simp [hopen, hserves])).trans (if_pos (by simpa using h))

variable (hty : recAt r 0 1 = ty)
include hty

/-- A command of the type is judged. -/
theorem State.command_judged {t : State} (h : (match s.judge p c q r with
      | .fault e => (s.judgeNotes c q r).queueFault num e (q.head + 1)
      | .wait => (s.judgeNotes c q r).blocked p c q r
      | .go =>
        if s.nextQueue p == some num then act p c q r ((s.judgeNotes c q r).taken p.id c q)
        else if q.st == .blocked then (s.judgeNotes c q r).putQueue { q with st := .running }
        else s.judgeNotes c q r) = t) : s.command num ty act = t := by
  simp only [State.command, hq, hc, hp, hr]
  exact (if_neg (by simp [hopen, hserves])).trans ((if_neg (by simp [hty])).trans h)

theorem State.command_fault {e : Nat} (h : s.judge p c q r = .fault e) :
    s.command num ty act = (s.judgeNotes c q r).queueFault num e (q.head + 1) :=
  State.command_judged hq hc hp hopen hserves hr hty (by simp only [h])

theorem State.command_wait (h : s.judge p c q r = .wait) : s.command num ty act = (s.judgeNotes c q r).blocked p c q r :=
  State.command_judged hq hc hp hopen hserves hr hty (by simp only [h])

theorem State.command_taken (h : s.judge p c q r = .go) (hnext : s.nextQueue p = some num) :
    s.command num ty act = act p c q r ((s.judgeNotes c q r).taken p.id c q) :=
  State.command_judged hq hc hp hopen hserves hr hty (by simp only [h, hnext, BEq.rfl, if_true])

theorem State.command_notTurn (h : s.judge p c q r = .go) (hnext : s.nextQueue p ≠ some num) :
    ∃ y, (s.command num ty act).queue? num = some y ∧ y.st = .running ∧ y.head = q.head ∧
      (s.command num ty act).beams = s.beams ∧ (s.command num ty act).kernels = s.kernels := by
  have hnotes := s.sameBesideMemory_judgeNotes c q r
  have hq' := (hnotes.queue? num).trans hq
  have hnot : ¬ (s.nextQueue p == some num) = true := by simpa using hnext
  by_cases hb : q.st = .blocked
  · rw [State.command_judged hq hc hp hopen hserves hr hty (t := (s.judgeNotes c q r).putQueue { q with st := .running })
      (by simp only [h, if_neg hnot, hb, BEq.rfl, if_true])]
    have hwork := State.sameWork_putQueue (s.judgeNotes c q r) { q with st := .running }
    exact ⟨_, State.queue?_putQueue_same hq' (State.queue?_num hq :), rfl, rfl, hwork.beams.trans hnotes.beams,
      hwork.kernels.trans (hnotes.field State.kernels)⟩
  · rw [State.command_judged hq hc hp hopen hserves hr hty (t := s.judgeNotes c q r)
      (by simp only [h, if_neg hnot]; exact if_neg (by simpa using hb))]
    refine ⟨q, hq', ?_, rfl, hnotes.beams, hnotes.field State.kernels⟩
    simp only [Queue.serves, Bool.and_eq_true, Bool.or_eq_true, beq_iff_eq] at hserves
    exact hserves.1.resolve_right hb

end

end Sys2Proof.Machine
end

section
/-! The commands of a queue that are taken, and the copies that run (R314, R338, R339, R341, R386, R404). -/

namespace Sys2Proof.Machine

/-! ### Commands and their types -/

/-- Each command is the frame with an act of its own. -/
theorem exec_command {i : Instr} {num core ty : Nat} (h : (i, ty) ∈ [(Instr.launchCmd num core, 1), (.copyCmd num, 2),
      (.wait num, 3), (.signal num, 4), (.timestamp num, 5), (.preempt num, 6), (.fenceCmd num, 7)]) (s : State) :
    ∃ act, exec i s = .next (s.command num ty act) := by
  simp only [List.mem_cons, Prod.mk.injEq, List.not_mem_nil, or_false] at h
  obtain ⟨rfl, rfl⟩ | ⟨rfl, rfl⟩ | ⟨rfl, rfl⟩ | ⟨rfl, rfl⟩ | ⟨rfl, rfl⟩ | ⟨rfl, rfl⟩ | ⟨rfl, rfl⟩ := h <;> exact ⟨_, rfl⟩

/-- A SIGNAL that is taken: the atomic max of VALUE into the word. -/
def State.signalled (t : State) (num : Nat) (x : Context) (y : Queue) (r : List Byte) : State :=
  let va := recAt r 16 8
  let m := t.ioNat viaQueue x va 8
  let v := (atomNew .max .n64 m (recAt r 24 8) 0).1
  let t := t.ioNotes viaQueue x va 8 (v != m)
  (if v == m then t else t.ioWrite (.cmd num (y.head + 1)) viaQueue x va (natLe 8 v)).wordWritten num (y.head + 1) va

/-- A TIMESTAMP that is taken: `clock` is stored. -/
def State.stamped (t : State) (num : Nat) (x : Context) (y : Queue) (r : List Byte) : State :=
  let va := recAt r 16 8
  ((t.ioNotes viaQueue x va 8 true).ioWrite (.cmd num (y.head + 1)) viaQueue x va (natLe 8 t.clock)).wordWritten num (y.head + 1) va

/-- A COPY that is taken enters the list of commands. -/
def State.copyTaken (t : State) (num : Nat) (y : Queue) (r : List Byte) : State :=
  { t with cmds := t.cmds ++ [{ queue := num, seq := y.head + 1, copy := some (recAt r 16 8, recAt r 24 8, recAt r 32 8)
                                cohorts := [], waits := none, down := none, written := false }] }

/-- The cohorts that a PREEMPT names. -/
def State.preemptNames (t : State) (p : Partition) (r : List Byte) : List Cohort :=
  t.cohorts.filter fun c => c.st == .resident && p.clusters.contains (c.core / 4) && bits (recAt r 16 8) (c.core / 4) 1 == 1 &&
    (t.kernel? c.key.kernel).any fun k => k.cls != 0

/-- A PREEMPT that is taken evicts the cohorts that it names. -/
def State.preempted (t : State) (num : Nat) (p : Partition) (y : Queue) (r : List Byte) : State :=
  let ks := (t.preemptNames p r).map (·.key)
  if ks.isEmpty then t.queueEnd num (y.head + 1)
  else ks.foldl State.evict { t with cmds := t.cmds ++ [{ queue := num, seq := y.head + 1, copy := none, cohorts := ks, waits := none
                                                          down := none, written := false }] }

section
variable (s : State) (num : Nat)

theorem exec_copyCmd : exec (.copyCmd num) s = .next (s.command num 2 fun _ _ y r t => t.copyTaken num y r) := rfl
theorem exec_wait : exec (.wait num) s = .next (s.command num 3 fun _ _ y _ t => t.queueEnd num (y.head + 1)) := rfl
theorem exec_signal : exec (.signal num) s = .next (s.command num 4 fun _ x y r t => t.signalled num x y r) := by
  unfold State.signalled
  rfl
theorem exec_timestamp : exec (.timestamp num) s = .next (s.command num 5 fun _ x y r t => t.stamped num x y r) := by
  unfold State.stamped
  rfl
theorem exec_preempt : exec (.preempt num) s = .next (s.command num 6 fun p _ y r t => t.preempted num p y r) := by
  unfold State.preempted
  rfl
theorem exec_fenceCmd : exec (.fenceCmd num) s = .next (s.command num 7 fun _ _ y _ t => t.queueEnd num (y.head + 1)) := rfl

end

/-! ### The word that SIGNAL and TIMESTAMP write -/

section
variable (s : State) (num seq va : Nat)

theorem State.wordWritten_acked (h : s.unacked (.cmd num seq) = false) : s.wordWritten num seq va = s.queueEnd num seq :=
  if_neg (ne_true_of_eq_false h)

theorem State.wordWritten_waits (h : s.unacked (.cmd num seq) = true) : s.wordWritten num seq va =
    { s with cmds := s.cmds ++ [{ queue := num, seq := seq, copy := some (0, va, 0), cohorts := [], waits := none, down := none
                                  written := true }] } :=
  if_pos h

end

/-- Behind the word the queue stands where the command was taken; DONE reaches the command once nothing of it is on its way. -/
theorem State.queue?_wordWritten {s : State} {num : Nat} {y : Queue} (hy : s.queue? num = some y) (seq va : Nat) :
    ∃ z, (s.wordWritten num seq va).queue? num = some z ∧ z.head = y.head ∧ z.st = y.st ∧
      ((s.wordWritten num seq va).unacked (.cmd num seq) = false → y.done + 1 = seq → seq ≤ z.done) := by
  cases hun : s.unacked (.cmd num seq) with
  | false =>
    rw [s.wordWritten_acked num seq va hun]
    refine ⟨_, State.queue?_queueEnd hy seq, rfl, rfl, fun _ hd => ?_⟩
    subst hd
    exact Queue.le_done_ended rfl
  | true =>
    rw [s.wordWritten_waits num seq va hun]
    refine ⟨y, hy, rfl, rfl, fun hno => ?_⟩
    exact absurd (hun.symm.trans hno) (by decide)

section
variable {t : State} {num : Nat} {y : Queue} (hy : t.queue? num = some y) (x : Context) (q : Queue) (r : List Byte)
include hy

theorem State.queue?_signalled : ∃ z, (t.signalled num x q r).queue? num = some z ∧ z.head = y.head ∧ z.st = y.st ∧
    ((t.signalled num x q r).unacked (.cmd num (q.head + 1)) = false → y.done = q.head → q.head + 1 ≤ z.done) := by
  have hwritten {u : State} (hu : t.SameQueues u) := State.queue?_wordWritten ((hu.queue? num).trans hy) (q.head + 1) (recAt r 16 8)
  unfold State.signalled
  extract_lets va m v u
  have hu : t.SameQueues u := t.sameQueues_ioNotes ..
  obtain ⟨z, hz, hhead, hst, hdone⟩ := hwritten (.ite (p := (v == m) = true) hu (hu.trans (u.sameQueues_ioWrite
    (.cmd num (q.head + 1)) viaQueue x va (natLe 8 v))))
  exact ⟨z, hz, hhead, hst, fun hun hd => hdone hun (by rw [hd])⟩

theorem State.queue?_stamped : ∃ z, (t.stamped num x q r).queue? num = some z ∧ z.head = y.head ∧ z.st = y.st ∧
    ((t.stamped num x q r).unacked (.cmd num (q.head + 1)) = false → y.done = q.head → q.head + 1 ≤ z.done) := by
  have hu := (t.sameQueues_ioNotes viaQueue x (recAt r 16 8) 8 true).trans
    (State.sameQueues_ioWrite _ (.cmd num (q.head + 1)) viaQueue x (recAt r 16 8) (natLe 8 t.clock))
  obtain ⟨z, hz, hhead, hst, hdone⟩ := State.queue?_wordWritten ((hu.queue? num).trans hy) (q.head + 1) (recAt r 16 8)
  exact ⟨z, hz, hhead, hst, fun hun hd => hdone hun (by rw [hd])⟩

end

/-! ### PREEMPT -/

theorem State.preempted_stops {t : State} {k : CohortKey} {y : Cohort} (hy : t.cohort? k = some y) (hst : y.st = .resident)
    {p : Partition} (hp : p.clusters.contains (y.core / 4) = true) {r : List Byte} (hbit : bits (recAt r 16 8) (y.core / 4) 1 = 1)
    {z : Kernel} (hz : t.kernel? k.kernel = some z) (hcls : z.cls ≠ 0) (num : Nat) (q : Queue) :
    ∃ y', (t.preempted num p q r).cohort? k = some y' ∧ y'.stop.isSome = true := by
  have hmem : k ∈ (t.preemptNames p r).map (·.key) := by
    refine List.mem_map.2 ⟨y, List.mem_filter.2 ⟨List.mem_of_find?_eq_some hy, ?_⟩, State.cohort?_key hy⟩
    rw [State.cohort?_key hy, hz, hst, hp, hbit]
    simpa using hcls
  unfold State.preempted
  rw [if_neg (by simpa using List.ne_nil_of_mem (List.mem_map.1 hmem).choose_spec.1)]
  exact State.evictAll_stops (by exact hy) hst hmem

/-! ### COPY that runs -/

section
variable (s : State) (num seq : Nat)

/-- A change of the commands alone. -/
theorem State.modCmd_only (f : Cmd → Cmd) : ({ s.modCmd num seq f with cmds := s.cmds } : State) = s := rfl

theorem State.find?_modCmd {f : Cmd → Cmd} (hf : ∀ m, (f m).queue = m.queue ∧ (f m).seq = m.seq) {m : Cmd}
    (hm : s.cmds.find? (fun c => c.queue == num && c.seq == seq) = some m) :
    (s.modCmd num seq f).cmds.find? (fun c => c.queue == num && c.seq == seq) = some (f m) := by
  have hkey (c : Cmd) : ((if c.queue == num && c.seq == seq then f c else c).queue == num &&
      (if c.queue == num && c.seq == seq then f c else c).seq == seq) = (c.queue == num && c.seq == seq) := by
    split
    · rw [(hf c).1, (hf c).2]
    · rfl
  have hmine : (m.queue == num && m.seq == seq) = true := by simpa using List.find?_some hm
  refine (find?_map_of_eq hkey s.cmds).trans ?_
  rw [hm, Option.map_some, if_pos hmine]

end

section
variable {s : State} {num seq : Nat} {q : Queue} {c : Context} {m : Cmd} {src dst len : Nat} (hq : s.queue? num = some q)
  (hc : s.context? q.ctx = some c) (hm : s.cmds.find? (fun c => c.queue == num && c.seq == seq) = some m)
  (hcopy : m.copy = some (src, dst, len))
include hq hc hm hcopy

theorem exec_copyCmdComplete_eq : exec (.copyCmdComplete num seq) s =
    if m.written then .next (s.cmdEnds num seq)
    else if (decide (2 ^ 32 < len) || (s.ioFault viaQueue c .read src len).isSome ||
        (s.ioFault viaQueue c .write dst len).isSome) = true then .next (s.copyFails num seq)
    else if s.ioMigrates viaQueue c dst len then
      .next (s.copyWaits num seq m.waits 65536 fun d => { d with waits := some s.clock })
    else if s.ioDown viaQueue false c src len || s.ioDown viaQueue true c dst len then
      .next (s.copyWaits num seq m.down (((s.part? c.part).map (·.timeout)).getD 0) fun d => { d with down := some s.clock })
    else .next (((((s.ioNotes viaQueue c src len false).ioNotes viaQueue c dst len true).ioWrite (.cmd num seq) viaQueue c dst
      (s.ioRead viaQueue c src len)).modCmd num seq fun d => { d with written := true }).cmdEnds num seq) := by
  have hctx : (s.queue? num).bind (fun y => s.context? y.ctx) = some c := by rw [hq, Option.bind_some, hc]
  show execCopyCmdComplete num seq s = _
  simp only [execCopyCmdComplete, hm, hcopy, hctx]

theorem exec_copyCmdComplete_written (hw : m.written = true) :
    exec (.copyCmdComplete num seq) s = .next (s.cmdEnds num seq) :=
  (exec_copyCmdComplete_eq hq hc hm hcopy).trans (if_pos hw)

variable (hw : m.written = false)
include hw

theorem exec_copyCmdComplete_fails (hf : 2 ^ 32 < len ∨ (s.ioFault viaQueue c .read src len).isSome = true ∨
      (s.ioFault viaQueue c .write dst len).isSome = true) :
    exec (.copyCmdComplete num seq) s = .next (s.copyFails num seq) := by
  rw [exec_copyCmdComplete_eq hq hc hm hcopy, if_neg (ne_true_of_eq_false hw), if_pos]
  simpa only [Bool.or_eq_true, decide_eq_true_eq, or_assoc] using hf

variable (hf : ¬ (2 ^ 32 < len ∨ (s.ioFault viaQueue c .read src len).isSome = true ∨
  (s.ioFault viaQueue c .write dst len).isSome = true))
include hf

/-- Behind the checks of its ranges. -/
theorem exec_copyCmdComplete_unfailed {o : Host.Outcome State Fault Refusal}
    (h : (if s.ioMigrates viaQueue c dst len then
      .next (s.copyWaits num seq m.waits 65536 fun d => { d with waits := some s.clock })
    else if s.ioDown viaQueue false c src len || s.ioDown viaQueue true c dst len then
      .next (s.copyWaits num seq m.down (((s.part? c.part).map (·.timeout)).getD 0) fun d => { d with down := some s.clock })
    else .next (((((s.ioNotes viaQueue c src len false).ioNotes viaQueue c dst len true).ioWrite (.cmd num seq) viaQueue c dst
      (s.ioRead viaQueue c src len)).modCmd num seq fun d => { d with written := true }).cmdEnds num seq)) = o) :
    exec (.copyCmdComplete num seq) s = o := by
  rw [exec_copyCmdComplete_eq hq hc hm hcopy, if_neg (ne_true_of_eq_false hw), if_neg]
  · exact h
  · simpa only [Bool.or_eq_true, decide_eq_true_eq, or_assoc] using hf

theorem exec_copyCmdComplete_migrates (hmig : s.ioMigrates viaQueue c dst len = true) :
    exec (.copyCmdComplete num seq) s =
      .next (s.copyWaits num seq m.waits 65536 fun d => { d with waits := some s.clock }) :=
  exec_copyCmdComplete_unfailed hq hc hm hcopy hw hf (if_pos hmig)

variable (hmig : ¬ s.ioMigrates viaQueue c dst len = true)
include hmig

theorem exec_copyCmdComplete_down {p : Partition} (hp : s.part? c.part = some p)
    (hdown : s.ioDown viaQueue false c src len = true ∨ s.ioDown viaQueue true c dst len = true) :
    exec (.copyCmdComplete num seq) s =
      .next (s.copyWaits num seq m.down p.timeout fun d => { d with down := some s.clock }) := by
  refine exec_copyCmdComplete_unfailed hq hc hm hcopy hw hf ((if_neg hmig).trans ((if_pos (by simpa using hdown)).trans ?_))
  rw [hp]
  rfl

theorem exec_copyCmdComplete_moves
    (hdown : ¬ (s.ioDown viaQueue false c src len = true ∨ s.ioDown viaQueue true c dst len = true)) :
    exec (.copyCmdComplete num seq) s =
      .next (((((s.ioNotes viaQueue c src len false).ioNotes viaQueue c dst len true).ioWrite (.cmd num seq) viaQueue c dst
        (s.ioRead viaQueue c src len)).modCmd num seq fun d => { d with written := true }).cmdEnds num seq) :=
  exec_copyCmdComplete_unfailed hq hc hm hcopy hw hf ((if_neg hmig).trans (if_neg (by simpa using hdown)))

end

end Sys2Proof.Machine
end

section
/-! The commands of a queue together (R314, R334, R338 to R341, R386, R404). -/

namespace Sys2Proof.Machine

/-! ### A command that is taken, type by type -/

section
variable {s : State} {num : Nat} {q : Queue} {c : Context} {p : Partition} {r : List Byte} (hq : s.queue? num = some q)

/-- The state in which a command that is taken acts. -/
def State.atTurn (s : State) (p : Partition) (c : Context) (q : Queue) (r : List Byte) : State :=
  (s.judgeNotes c q r).taken p.id c q

theorem State.besideQueues_atTurn : s.BesideQueues (s.atTurn p c q r) :=
  State.BesideQueues.trans (.of_memory (s.sameBesideMemory_judgeNotes ..)) (State.besideQueues_taken ..)

section
include hq

theorem State.queue?_atTurn : (s.atTurn p c q r).queue? num = some q.moved :=
  State.queue?_taken (((s.sameBesideMemory_judgeNotes c q r).queue? num).trans hq) p.id c

end

variable (hc : s.context? q.ctx = some c) (hp : s.part? c.part = some p) (hopen : c.st = .open_) (hserves : q.serves = true)
  (hr : s.headCmd q = some r) (hgo : s.judge p c q r = .go) (hnext : s.nextQueue p = some num)
include hq hc hp hopen hserves hr hgo hnext

section
variable (hty : recAt r 0 1 = 3)
include hty

theorem exec_wait_taken : exec (.wait num) s = .next ((s.atTurn p c q r).queueEnd num (q.head + 1)) :=
  (exec_wait s num).trans (congrArg _ (State.command_taken hq hc hp hopen hserves hr hty hgo hnext))

theorem wait_moves : ∃ t y, exec (.wait num) s = .next t ∧ t.queue? num = some y ∧ y.head = q.head + 1 ∧ y.st = .running :=
  ⟨_, _, exec_wait_taken hq hc hp hopen hserves hr hgo hnext hty, State.queue?_queueEnd (State.queue?_atTurn hq) _, rfl, rfl⟩

end

section
variable (hty : recAt r 0 1 = 7)
include hty

theorem exec_fenceCmd_taken : exec (.fenceCmd num) s = .next ((s.atTurn p c q r).queueEnd num (q.head + 1)) :=
  (exec_fenceCmd s num).trans (congrArg _ (State.command_taken hq hc hp hopen hserves hr hty hgo hnext))

theorem fenceCmd_moves : ∃ t y, exec (.fenceCmd num) s = .next t ∧ t.queue? num = some y ∧ y.head = q.head + 1 ∧
    y.st = .running ∧ (q.done = q.head → q.head + 1 ≤ y.done) :=
  ⟨_, _, exec_fenceCmd_taken hq hc hp hopen hserves hr hgo hnext hty, State.queue?_queueEnd (State.queue?_atTurn hq) _, rfl, rfl,
    fun hd => Queue.le_done_ended (q := q.moved) hd⟩

end

section
variable (hty : recAt r 0 1 = 4)
include hty

theorem exec_signal_taken : exec (.signal num) s = .next ((s.atTurn p c q r).signalled num c q r) :=
  (exec_signal s num).trans (congrArg _ (State.command_taken hq hc hp hopen hserves hr hty hgo hnext))

theorem signal_moves : ∃ t y, exec (.signal num) s = .next t ∧ t.queue? num = some y ∧ y.head = q.head + 1 ∧ y.st = .running ∧
    (t.unacked (.cmd num (q.head + 1)) = false → q.done = q.head → q.head + 1 ≤ y.done) := by
  obtain ⟨y, hy, hhead, hst, hdone⟩ := State.queue?_signalled (State.queue?_atTurn (p := p) (c := c) (r := r) hq) c q r
  exact ⟨_, y, exec_signal_taken hq hc hp hopen hserves hr hgo hnext hty, hy, hhead, hst, hdone⟩

end

section
variable (hty : recAt r 0 1 = 5)
include hty

theorem exec_timestamp_taken : exec (.timestamp num) s = .next ((s.atTurn p c q r).stamped num c q r) :=
  (exec_timestamp s num).trans (congrArg _ (State.command_taken hq hc hp hopen hserves hr hty hgo hnext))

theorem timestamp_moves : ∃ t y, exec (.timestamp num) s = .next t ∧ t.queue? num = some y ∧ y.head = q.head + 1 ∧
    y.st = .running ∧ (t.unacked (.cmd num (q.head + 1)) = false → q.done = q.head → q.head + 1 ≤ y.done) := by
  obtain ⟨y, hy, hhead, hst, hdone⟩ := State.queue?_stamped (State.queue?_atTurn (p := p) (c := c) (r := r) hq) c q r
  exact ⟨_, y, exec_timestamp_taken hq hc hp hopen hserves hr hgo hnext hty, hy, hhead, hst, hdone⟩

end

theorem exec_copyCmd_taken (hty : recAt r 0 1 = 2) :
    exec (.copyCmd num) s = .next ((s.atTurn p c q r).copyTaken num q r) :=
  (exec_copyCmd s num).trans (congrArg _ (State.command_taken hq hc hp hopen hserves hr hty hgo hnext))

theorem exec_preempt_taken (hty : recAt r 0 1 = 6) :
    exec (.preempt num) s = .next ((s.atTurn p c q r).preempted num p q r) :=
  (exec_preempt s num).trans (congrArg _ (State.command_taken hq hc hp hopen hserves hr hty hgo hnext))

end

/-- What SIGNAL writes, and where it writes nothing. -/
theorem State.signalled_eq (t : State) (num : Nat) (x : Context) (q : Queue) (r : List Byte) :
    let va := recAt r 16 8
    let m := t.ioNat viaQueue x va 8
    let v := (atomNew .max .n64 m (recAt r 24 8) 0).1
    (v ≠ m → t.signalled num x q r = ((t.ioNotes viaQueue x va 8 true).ioWrite (.cmd num (q.head + 1)) viaQueue x va
      (natLe 8 v)).wordWritten num (q.head + 1) va) ∧
    (v = m → t.signalled num x q r = (t.ioNotes viaQueue x va 8 false).wordWritten num (q.head + 1) va) := by
  intro va m v
  have hdef : t.signalled num x q r = (if v == m then t.ioNotes viaQueue x va 8 (v != m)
      else (t.ioNotes viaQueue x va 8 (v != m)).ioWrite (.cmd num (q.head + 1)) viaQueue x va (natLe 8 v)).wordWritten num
        (q.head + 1) va := by
    unfold State.signalled
    rfl
  refine ⟨fun hne => ?_, fun heq => ?_⟩
  · rw [hdef, if_neg (by simpa using hne), show (v != m) = true by simpa using hne]
  · rw [hdef, if_pos (by simpa using heq), show (v != m) = false by simpa using heq]

/-! ### The parts of the statement -/

theorem exec_waitRecheck_blocked {s : State} {num : Nat} {q : Queue} (hq : s.queue? num = some q) (hst : q.st = .blocked) :
    exec (.waitRecheck num) s = exec (.wait num) s := by
  show Host.Outcome.next (if (s.queue? num).any (fun y => y.st == .blocked) then s.waitCmd num else s) = .next (s.waitCmd num)
  rw [hq, Option.any_some, hst]
  rfl

section
variable {s : State} {num seq : Nat} {n : Nat} {f : Cmd → Cmd}

theorem State.copyWaits_since {since : Nat} : (s.clock < since + n → s.copyWaits num seq (some since) n f = s) ∧
    (since + n ≤ s.clock → s.copyWaits num seq (some since) n f = (s.dropCmd num seq).queueFault num 3 seq) :=
  ⟨fun h => if_neg (Nat.not_le.2 h), fun h => if_pos h⟩

end

/-- What a COPY that runs does, by its ranges and by how long it has waited. -/
theorem copyCmdComplete_spec {s : State} {num seq : Nat} {q : Queue} {c : Context} {p : Partition} {m : Cmd} {src dst len : Nat}
    (hq : s.queue? num = some q) (hc : s.context? q.ctx = some c) (hp : s.part? c.part = some p)
    (hm : s.cmds.find? (fun c => c.queue == num && c.seq == seq) = some m) (hcopy : m.copy = some (src, dst, len))
    (hw : m.written = false) :
    let fails := 2 ^ 32 < len ∨ (s.ioFault viaQueue c .read src len).isSome = true ∨
      (s.ioFault viaQueue c .write dst len).isSome = true
    let waits := s.ioMigrates viaQueue c dst len = true
    let down := s.ioDown viaQueue false c src len = true ∨ s.ioDown viaQueue true c dst len = true
    let faulted := exec (.copyCmdComplete num seq) s = .next ((s.dropCmd num seq).queueFault num 3 seq)
    (fails → faulted) ∧
    (¬ fails → waits → m.waits = none → ∃ t, exec (.copyCmdComplete num seq) s = .next t ∧ { t with cmds := s.cmds } = s ∧
      t.cmds.find? (fun c => c.queue == num && c.seq == seq) = some { m with waits := some s.clock }) ∧
    (∀ since, ¬ fails → waits → m.waits = some since →
      (s.clock < since + 65536 → exec (.copyCmdComplete num seq) s = .next s) ∧ (since + 65536 ≤ s.clock → faulted)) ∧
    (¬ fails → ¬ waits → down → m.down = none → ∃ t, exec (.copyCmdComplete num seq) s = .next t ∧
      { t with cmds := s.cmds } = s ∧
      t.cmds.find? (fun c => c.queue == num && c.seq == seq) = some { m with down := some s.clock }) ∧
    (∀ since, ¬ fails → ¬ waits → down → m.down = some since →
      (s.clock < since + p.timeout → exec (.copyCmdComplete num seq) s = .next s) ∧ (since + p.timeout ≤ s.clock → faulted)) ∧
    (¬ fails → ¬ waits → ¬ down →
      let u := ((s.ioNotes viaQueue c src len false).ioNotes viaQueue c dst len true).ioWrite (.cmd num seq) viaQueue c dst
        (s.ioRead viaQueue c src len)
      exec (.copyCmdComplete num seq) s = .next ((u.modCmd num seq fun d => { d with written := true }).cmdEnds num seq)) := by
  intro fails waits down faulted
  have hmigrates (hf : ¬ fails) (hmig : waits) := exec_copyCmdComplete_migrates hq hc hm hcopy hw hf hmig
  have hisDown (hf : ¬ fails) (hmig : ¬ waits) (hdown : down) := exec_copyCmdComplete_down hq hc hm hcopy hw hf hmig hp hdown
  refine ⟨exec_copyCmdComplete_fails hq hc hm hcopy hw, fun hf hmig hsince => ?_, fun since hf hmig hsince => ?_,
    fun hf hmig hdown hsince => ?_, fun since hf hmig hdown hsince => ?_, exec_copyCmdComplete_moves hq hc hm hcopy hw⟩
  · exact ⟨s.modCmd num seq fun d => { d with waits := some s.clock }, (hmigrates hf hmig).trans (by rw [hsince]; rfl),
      s.modCmd_only num seq _, s.find?_modCmd num seq (f := fun d => { d with waits := some s.clock }) (fun _ => ⟨rfl, rfl⟩) hm⟩
  · obtain ⟨hearly, hlate⟩ := State.copyWaits_since (s := s) (num := num) (seq := seq) (n := 65536)
      (f := fun d => { d with waits := some s.clock }) (since := since)
    exact ⟨fun h => by rw [hmigrates hf hmig, hsince, hearly h], fun h => (hmigrates hf hmig).trans (by rw [hsince, hlate h])⟩
  · exact ⟨s.modCmd num seq fun d => { d with down := some s.clock }, (hisDown hf hmig hdown).trans (by rw [hsince]; rfl),
      s.modCmd_only num seq _, s.find?_modCmd num seq (f := fun d => { d with down := some s.clock }) (fun _ => ⟨rfl, rfl⟩) hm⟩
  · obtain ⟨hearly, hlate⟩ := State.copyWaits_since (s := s) (num := num) (seq := seq) (n := p.timeout)
      (f := fun d => { d with down := some s.clock }) (since := since)
    exact ⟨fun h => by rw [hisDown hf hmig hdown, hsince, hearly h],
      fun h => (hisDown hf hmig hdown).trans (by rw [hsince, hlate h])⟩

/-- Settles O42: the frame of a command by what is found at HEAD, each command by its act, a COPY by its ranges. -/
theorem queueCommands : Obligations.QueueCommands := by
  refine ⟨fun s num core ty i q c p hi hq hc hp => ?frame, fun s num ty q c p r hq hc hp hopen hserves hr hty hgo hnext => ?taken,
    fun s num q c p hq hc hp => ⟨fun r hopen hserves hr hgo hnext => ⟨fun hty => ?copy, fun hty => ?preempt⟩,
      fun seq m src dst len hm hcopy => ⟨fun hw hun => ?unacked, fun hw hun => ?acked, copyCmdComplete_spec hq hc hp hm hcopy⟩⟩⟩
  case frame =>
    obtain ⟨act, hexec⟩ := exec_command hi s
    simp only [hexec]
    refine ⟨fun h => congrArg _ (State.command_closed hq hc hp h), fun hopen hserves =>
      ⟨fun hr => congrArg _ (State.command_noRecord hq hc hp hopen hserves hr), fun r hr =>
        ⟨fun hty => congrArg _ (State.command_other hq hc hp hopen hserves hr hty), fun hty =>
          ⟨fun code hj => congrArg _ (State.command_fault hq hc hp hopen hserves hr hty hj), fun hj => ?_, fun hj hnext => ?_⟩⟩⟩⟩
    · have hnotes := s.sameBesideMemory_judgeNotes c q r
      obtain ⟨⟨y, hy, hst, hhead⟩, hbeams, hkernels⟩ := State.blocked_spec ((hnotes.queue? num).trans hq) p c r
      exact ⟨_, y, congrArg _ (State.command_wait hq hc hp hopen hserves hr hty hj), hy, hst, hhead, hbeams.trans hnotes.beams,
        hkernels.trans (hnotes.field State.kernels)⟩
    · obtain ⟨y, hy, hst, hhead, hbeams, hkernels⟩ := State.command_notTurn (act := act) hq hc hp hopen hserves hr hty hj hnext
      exact ⟨_, y, rfl, hy, hst, hhead, hbeams, hkernels⟩
  case taken =>
    intro u va moves
    subst hty
    refine ⟨fun hty => ⟨wait_moves hq hc hp hopen hserves hr hgo hnext hty,
        exec_wait_taken hq hc hp hopen hserves hr hgo hnext hty, exec_waitRecheck_blocked hq⟩, fun hty => ⟨?_, ?_⟩,
      fun hty => ⟨?_, ?_⟩, fun hty => ⟨?_, exec_fenceCmd_taken hq hc hp hopen hserves hr hgo hnext hty⟩, fun i hi hd => ?_,
      fun w a => ⟨w.wordWritten_acked num _ a, fun hun => ?_⟩⟩
    · obtain ⟨t, y, hexec, hy, hhead, hst, -⟩ := signal_moves hq hc hp hopen hserves hr hgo hnext hty
      exact ⟨t, y, hexec, hy, hhead, hst⟩
    · obtain ⟨hnew, hsame⟩ := u.signalled_eq num c q r
      have hexec := exec_signal_taken hq hc hp hopen hserves hr hgo hnext hty
      exact ⟨fun hne => hexec.trans (congrArg _ (hnew hne)), fun heq => hexec.trans (congrArg _ (hsame heq))⟩
    · obtain ⟨t, y, hexec, hy, hhead, hst, -⟩ := timestamp_moves hq hc hp hopen hserves hr hgo hnext hty
      exact ⟨t, y, hexec, hy, hhead, hst⟩
    · have hexec := exec_timestamp_taken hq hc hp hopen hserves hr hgo hnext hty
      rw [State.stamped, State.besideQueues_atTurn.clock] at hexec
      exact hexec
    · obtain ⟨t, y, hexec, hy, hhead, hst, -⟩ := fenceCmd_moves hq hc hp hopen hserves hr hgo hnext hty
      exact ⟨t, y, hexec, hy, hhead, hst⟩
    · simp only [List.mem_cons, Prod.mk.injEq, List.not_mem_nil, or_false] at hi
      obtain ⟨rfl, hty⟩ | ⟨rfl, hty⟩ | ⟨rfl, hty⟩ := hi
      · obtain ⟨t, y, hexec, hy, -, -, hdone⟩ := signal_moves hq hc hp hopen hserves hr hgo hnext hty
        exact ⟨t, y, hexec, hy, fun h => hdone (h.resolve_left (by omega)) hd⟩
      · obtain ⟨t, y, hexec, hy, -, -, hdone⟩ := timestamp_moves hq hc hp hopen hserves hr hgo hnext hty
        exact ⟨t, y, hexec, hy, fun h => hdone (h.resolve_left (by omega)) hd⟩
      · obtain ⟨t, y, hexec, hy, -, -, hdone⟩ := fenceCmd_moves hq hc hp hopen hserves hr hgo hnext hty
        exact ⟨t, y, hexec, hy, fun _ => hdone hd⟩
    · rw [w.wordWritten_waits num _ a hun]
      exact ⟨rfl, _, List.mem_append_right _ List.mem_cons_self, rfl, rfl, rfl⟩
  case copy =>
    refine ⟨_, exec_copyCmd_taken hq hc hp hopen hserves hr hgo hnext hty, ?_⟩
    rw [State.copyTaken, State.besideQueues_atTurn.cmds]
  case preempt =>
    refine ⟨_, exec_preempt_taken hq hc hp hopen hserves hr hgo hnext hty, fun k y hy hst hcl hbit hz => ?_⟩
    obtain ⟨z, hz, hcls⟩ := hz
    have hbeside : s.BesideQueues (s.atTurn p c q r) := State.besideQueues_atTurn
    have hy' : (s.atTurn p c q r).cohort? k = some y := by rw [State.cohort?, hbeside.cohorts]; exact hy
    have hz' : (s.atTurn p c q r).kernel? k.kernel = some z := by rw [State.kernel?, hbeside.kernels]; exact hz
    exact State.preempted_stops hy' hst hcl hbit hz' hcls num q
  case unacked =>
    exact (exec_copyCmdComplete_written hq hc hm hcopy hw).trans (congrArg _ (if_pos hun))
  case acked =>
    exact (exec_copyCmdComplete_written hq hc hm hcopy hw).trans (congrArg _ (if_neg (ne_true_of_eq_false hun)))

end Sys2Proof.Machine
end

section
/-! Cohorts are placed (R343 to R345, R348, R350): the place that is chosen, the cohort and the beams that stand there. -/

namespace Sys2Proof.Machine

/-! ### The place (R349, R350) -/

/-- What a search for the best of a list finds is of the list, or where it began, and no worse than any of them. -/
theorem foldl_best {α : Type} {f : Option α → α → Option α} {m : α → Nat} (hnone : ∀ x, f none x = some x)
    (hsome : ∀ x y, f (some y) x = some x ∧ m y ≤ m x ∨ f (some y) x = some y ∧ m x ≤ m y) (l : List α) (best : Option α)
    {z : α} (h : l.foldl f best = some z) : (z ∈ l ∨ best = some z) ∧ (∀ x ∈ l, m x ≤ m z) ∧ ∀ y, best = some y → m y ≤ m z := by
  induction l generalizing best with
  | nil => exact ⟨.inr h, fun x hx => absurd hx List.not_mem_nil, fun y hy => by rw [Option.some.inj (hy.symm.trans h)]⟩
  | cons x l ih =>
    obtain ⟨hmem, hle, hbest⟩ := ih (f best x) h
    cases best with
    | none =>
      rw [hnone] at hmem hbest
      refine ⟨.inl ?_, List.forall_mem_cons.2 ⟨hbest x rfl, hle⟩, fun y hy => absurd hy (by simp)⟩
      exact hmem.elim (List.mem_cons_of_mem x) fun h => Option.some.inj h ▸ List.mem_cons_self
    | some y =>
      obtain ⟨hx, hyx⟩ | ⟨hy, hxy⟩ := hsome x y
      · rw [hx] at hmem hbest
        refine ⟨.inl ?_, List.forall_mem_cons.2 ⟨hbest x rfl, hle⟩, fun y' hy' => ?_⟩
        · exact hmem.elim (List.mem_cons_of_mem x) fun h => Option.some.inj h ▸ List.mem_cons_self
        · rw [← Option.some.inj hy']
          exact hyx.trans (hbest x rfl)
      · rw [hy] at hmem hbest
        exact ⟨hmem.imp_left (List.mem_cons_of_mem x), List.forall_mem_cons.2 ⟨hxy.trans (hbest y rfl), hle⟩, hbest⟩

theorem length_assign {quads : List Nat} {free : Nat → List Nat} {slots : List Nat} (h : assign free quads = some slots) :
    slots.length = quads.length := by
  induction quads generalizing free slots with
  | nil => rw [← Option.some.inj h]
  | cons q qs ih =>
    unfold assign at h
    split at h
    · cases h
    · obtain ⟨rest, hrest, rfl⟩ := Option.map_eq_some_iff.1 h
      rw [List.length_cons, ih hrest, List.length_cons]

/-- A place is on the core that it was looked for on, with a slot for each beam. -/
theorem State.spot_spec {s : State} {w : Work} {gone : CohortKey → Bool} {l : Launch} {quads : List Nat} {core : Nat} {sp : Spot}
    (h : s.spot w gone l quads core = some sp) : sp.core = core ∧ sp.slots.length = quads.length := by
  unfold State.spot at h
  extract_lets hs ks cols tiles at h
  split at h
  · next hslots =>
    obtain rfl := Option.some.inj h
    exact ⟨rfl, length_assign hslots⟩
  · cases h

/-- The best place is a place, on a core with no fewer free slots than any other on which the work may stand. -/
theorem State.bestSpot_spec {s : State} {w : Work} {p : Partition} {l : Launch} {quads : List Nat} {sp : Spot}
    (h : s.bestSpot w p l quads = some sp) : sp.slots.length = quads.length ∧
      ∀ core z, core ∈ p.cores → (∀ r, s.room? w = some r → r.tied = false) → s.spot w (fun _ => false) l quads core = some z →
        s.freeCount core ≤ s.freeCount sp.core := by
  unfold State.bestSpot at h
  extract_lets cores at h
  obtain ⟨hmem, hle, -⟩ := foldl_best (m := fun x : Spot => s.freeCount x.core) (fun _ => rfl) (fun x y => by
    by_cases hb : (s.freeCount y.core < s.freeCount x.core ||
        (s.freeCount y.core == s.freeCount x.core && decide (x.core < y.core))) = true
    · refine .inl ⟨if_pos hb, ?_⟩
      simp only [Bool.or_eq_true, decide_eq_true_eq, Bool.and_eq_true, beq_iff_eq] at hb
      exact hb.elim Nat.le_of_lt fun h => h.1.le
    · refine .inr ⟨if_neg hb, ?_⟩
      simp only [Bool.or_eq_true, decide_eq_true_eq, not_or] at hb
      exact Nat.not_lt.1 hb.1) _ none h
  refine ⟨?_, fun core z hcore htied hz => ?_⟩
  · obtain ⟨k, -, hk⟩ := List.mem_filterMap.1 (hmem.resolve_right (by simp))
    exact (State.spot_spec hk).2
  · have hroom : ((s.room? w).all fun r => !r.tied || r.core == core) = true := by
      cases hr : s.room? w with
      | none => rfl
      | some r => rw [Option.all_some, htied r hr]; rfl
    have hin := hle z (List.mem_filterMap.2 ⟨core, List.mem_filter.2 ⟨hcore, hroom⟩, hz⟩)
    rwa [(State.spot_spec hz).1] at hin

/-! ### The cohort and its beams (R348) -/

/-- The kernel once its next cohort has been placed. -/
def Kernel.placedNext (k : Kernel) (clock : Nat) : Kernel :=
  { k with placed := k.placed + 1, lastPlaced := clock, st := if k.placed + 1 == k.launch.cohorts then .running else k.st }

theorem State.placeCohort_spec (s : State) (k : Kernel) (sp : Spot) (save : Nat × Nat) :
    (s.placeCohort k sp save).mem = s.mem ∧ (s.placeCohort k sp save).queues = s.queues ∧
    (s.placeCohort k sp save).kernels = replaceBy Kernel.id (k.placedNext s.clock) s.kernels ∧
    (∃ y, (s.placeCohort k sp save).cohorts = s.cohorts ++ [y] ∧ y.key = ⟨k.id, k.placed⟩ ∧ y.core = sp.core ∧ y.st = .resident ∧
      y.wsize = k.launch.window ∧ y.save = some save) ∧
    (s.placeCohort k sp save).beams = s.beams ++ sp.slots.zipIdx.map fun n =>
      k.launch.beam ⟨k.id, k.placed⟩ ⟨sp.core, n.1⟩ s.clock n.2 := by
  obtain ⟨cs, hcs⟩ := s.modCore_only sp.core fun x => x.dropLines fun _ => true
  unfold State.placeCohort
  rw [hcs]
  exact ⟨rfl, rfl, rfl, ⟨_, rfl, rfl, rfl, rfl, rfl, rfl⟩, rfl⟩

theorem State.kernel?_placeCohort {s : State} {k y : Kernel} (hk : s.kernel? k.id = some y) (sp : Spot) (save : Nat × Nat) :
    (s.placeCohort k sp save).kernel? k.id = some (k.placedNext s.clock) := by
  obtain ⟨-, -, hkernels, -, -⟩ := s.placeCohort_spec k sp save
  rw [State.kernel?, hkernels]
  exact State.kernel?_setKernel_same hk rfl

section
variable (l : Launch) (key : CohortKey) (place : BeamKey) (clock j : Nat)

/-- A beam of a new cohort begins at the entry, with the launch's arguments. -/
theorem Launch.beam_begins :
    ((l.beam key place clock j).entry 0).st = .run ∧ ((l.beam key place clock j).entry 0).pc = l.entry ∧
    ((l.beam key place clock j).entry 0).mask = fullMask l.width :=
  ⟨rfl, rfl, rfl⟩

theorem Launch.sreg_beam {r : Nat} (hr : r < l.s) : (l.beam key place clock j).sreg r =
    if r == 0 then l.args else if r == 1 then BitVec.ofNat 64 l.cohorts else ~~~0 := by
  refine (Beam.sreg_untrapped (b := l.beam key place clock j) rfl r).trans ((getD_range_map l.s r _ 0).trans ?_)
  exact if_pos hr

theorem Launch.vl_beam {r i : Nat} (hr : r < l.v) (hi : i < l.width) : (l.beam key place clock j).vl r i = ~~~0 := by
  have hreg : (l.beam key place clock j).v = List.replicate l.v (List.replicate l.width 0xFFFFFFFF) := rfl
  rw [Beam.vl_untrapped (b := l.beam key place clock j) rfl, hreg]
  simp only [List.getD_eq_getElem?_getD, List.getElem?_replicate, if_pos hr, if_pos hi, Option.getD_some]
  rfl

end

/-- The beams of a cohort of a launch that stand in the slots of a core. -/
def Launch.beamsAt (l : Launch) (key : CohortKey) (core : Nat) (slots : List Nat) (clock : Nat) : List Beam :=
  slots.zipIdx.map fun i => l.beam key ⟨core, i.1⟩ clock i.2

/-- The beams of a new cohort: each its number, its core, the entry and the registers of the launch. -/
theorem Launch.beamsAt_spec (l : Launch) (key : CohortKey) (core : Nat) (slots : List Nat) (clock j : Nat) (b : Beam)
    (hb : (l.beamsAt key core slots clock)[j]? = some b) : b.cohort = key ∧ b.id = j ∧ b.key.core = core ∧ (b.entry 0).st = .run ∧
      (b.entry 0).pc = l.entry ∧ (b.entry 0).mask = fullMask l.width ∧ (0 < l.s → b.sreg 0 = l.args) ∧
      (1 < l.s → b.sreg 1 = BitVec.ofNat 64 l.cohorts) ∧ (∀ k, 1 < k → k < l.s → b.sreg k = ~~~(0 : DWord)) ∧
      ∀ k i, k < l.v → i < l.width → b.vl k i = ~~~(0 : Word) := by
  rw [Launch.beamsAt, List.getElem?_map] at hb
  obtain ⟨⟨slot, i⟩, hi, rfl⟩ := Option.map_eq_some_iff.1 hb
  have hji : i = j := by
    rw [List.getElem?_zipIdx] at hi
    obtain ⟨_, _, hpair⟩ := Option.map_eq_some_iff.1 hi
    rw [← (Prod.mk.inj hpair).2, Nat.zero_add]
  obtain ⟨hst, hpc, hmask⟩ := l.beam_begins key ⟨core, slot⟩ clock i
  refine ⟨rfl, hji, rfl, hst, hpc, hmask, fun h => ?_, fun h => ?_, fun k h1 hk => ?_,
    fun k i hk hi => Launch.vl_beam _ _ _ _ _ hk hi⟩
  · rw [Launch.sreg_beam _ _ _ _ _ h]
    rfl
  · rw [Launch.sreg_beam _ _ _ _ _ h]
    rfl
  · rw [Launch.sreg_beam _ _ _ _ _ hk, if_neg (by simp; omega), if_neg (by simp; omega)]

theorem Launch.length_beamsAt (l : Launch) (key : CohortKey) (core : Nat) (slots : List Nat) (clock : Nat) :
    (l.beamsAt key core slots clock).length = slots.length := by
  rw [Launch.beamsAt, List.length_map, List.length_zipIdx]

/-! ### LAUNCH (R343 to R345) -/

/-- The kernel's identifier is free, and no lower one is. -/
theorem State.idHeld_below {s : State} {n : Nat} (h : s.nextKernelId = some n) : ∀ m, m < n → s.idHeld m = true := by
  have hfind := (Option.filter_eq_some_iff.1 h).1
  obtain ⟨-, -, hlow⟩ := List.find?_range_eq_some.1 hfind
  exact fun m hm => by simpa using hlow m hm

/-- The kernel that a LAUNCH makes, with no cohort placed. -/
def State.newKernel (s : State) (q : Queue) (l : Launch) (n : Nat) : Kernel :=
  { id := n, launch := l, queue := q.num, seq := q.head + 1, ctx := q.ctx, cls := q.cls, st := .placing, placed := 0
    retired := 0, lastPlaced := s.clock, order := s.nextId, groups := [] }

/-- The state with the kernel, before its first cohort is placed. -/
def State.withKernel (s : State) (k : Kernel) : State :=
  { s with kernels := s.kernels.filter (fun j : Kernel => j.id != k.id) ++ [k]
           cohorts := s.cohorts.filter fun c : Cohort => c.key.kernel != k.id }

theorem State.launched_eq (s : State) (q : Queue) (l : Launch) (n : Nat) (sp : Spot) (save : Nat × Nat) :
    s.launched q l n sp save = (s.withKernel (s.newKernel q l n)).placeCohort (s.newKernel q l n) sp save := rfl

theorem State.kernel?_withKernel (s : State) (k : Kernel) : (s.withKernel k).kernel? k.id = some k := by
  have hnone : (s.kernels.filter fun j : Kernel => j.id != k.id).find? (fun j => j.id == k.id) = none :=
    List.find?_eq_none.2 fun j hj => by simpa using (List.mem_filter.1 hj).2
  show List.find? _ (_ ++ [k]) = _
  rw [List.find?_append, hnone, List.find?_cons_of_pos (by simp)]
  rfl

/-- The kernel, its first cohort and its beams, once a LAUNCH has been taken. -/
theorem State.launched_spec (s : State) (q : Queue) (l : Launch) (n : Nat) (sp : Spot) (save : Nat × Nat) :
    (s.launched q l n sp save).kernel? n = some ((s.newKernel q l n).placedNext s.clock) ∧
    (∃ y, (s.launched q l n sp save).cohort? ⟨n, 0⟩ = some y ∧ y.core = sp.core ∧ y.st = .resident ∧ y.wsize = l.window ∧
      y.save = some save) ∧
    (s.launched q l n sp save).queues = s.queues ∧
    (s.launched q l n sp save).beams = s.beams ++ l.beamsAt ⟨n, 0⟩ sp.core sp.slots s.clock := by
  obtain ⟨-, hqueues, -, ⟨y, hcohorts, hkey, hcore, hst, hwin, hsave⟩, hbeams⟩ :=
    (s.withKernel (s.newKernel q l n)).placeCohort_spec (s.newKernel q l n) sp save
  rw [← State.launched_eq] at hqueues hcohorts hbeams
  refine ⟨?_, ⟨y, ?_, hcore, hst, hwin, hsave⟩, hqueues, hbeams⟩
  · rw [State.launched_eq]
    exact State.kernel?_placeCohort (s.kernel?_withKernel (s.newKernel q l n)) sp save
  · have hnone : (s.withKernel (s.newKernel q l n)).cohorts.find? (fun c => c.key == ⟨n, 0⟩) = none := by
      refine List.find?_eq_none.2 fun c hc => ?_
      have hne : c.key.kernel ≠ n := by simpa [State.newKernel] using (List.mem_filter.1 hc).2
      simpa using fun h => hne (congrArg CohortKey.kernel h)
    have hmine : (y.key == (⟨n, 0⟩ : CohortKey)) = true := by rw [hkey]; exact beq_self_eq_true _
    rw [State.cohort?, hcohorts, List.find?_append, hnone, List.find?_cons_of_pos (p := fun c : Cohort => c.key == ⟨n, 0⟩) hmine]
    rfl

section
variable {s : State} {num core : Nat} {q : Queue} {c : Context} {p : Partition} {r : List Byte} {n : Nat} {sp : Spot}
  {save : Nat × Nat} (hq : s.queue? num = some q)
  (hc : s.context? q.ctx = some c) (hp : s.part? c.part = some p) (hopen : c.st = .open_) (hserves : q.serves = true)
  (hr : s.headCmd q = some r) (hty : recAt r 0 1 = 1) (hgo : s.judge p c q r = .go) (hnext : s.nextQueue p = some num)
  (hplace : s.launchPlace q.work p c (launchOf r) = some (n, sp, save))
include hq hc hp hopen hserves hr hty hgo hnext hplace

theorem exec_launchCmd_taken : exec (.launchCmd num core) s =
    .next (if sp.core == core then (s.atTurn p c q r).launched q (launchOf r) n sp save else s) := by
  have hframe : exec (.launchCmd num core) s = .next (s.command num 1 fun p x y r t =>
    match s.launchPlace y.work p x (launchOf r) with
    | some (n, sp, save) => if sp.core == core then t.launched y (launchOf r) n sp save else s
    | none => s) := rfl
  rw [hframe, State.command_taken hq hc hp hopen hserves hr hty hgo hnext, hplace]
  rfl

end

/-- What the place of a LAUNCH is made of. -/
theorem State.launchPlace_spec {s : State} {w : Work} {p : Partition} {x : Context} {l : Launch} {n : Nat} {sp : Spot}
    {save : Nat × Nat} (h : s.launchPlace w p x l = some (n, sp, save)) :
    s.nextKernelId = some n ∧ s.bestSpot w p l l.quads = some sp := by
  unfold State.launchPlace at h
  split at h
  · next hn hsp _ =>
    simp only [Option.some.injEq, Prod.mk.injEq] at h
    obtain ⟨rfl, rfl, -⟩ := h
    exact ⟨hn, hsp⟩
  · cases h

/-- Settles O43: the kernel and the beams by what a placed cohort begins with, the core by the search for the best place. -/
theorem launchCommand : Obligations.LaunchCommand := by
  intro s num core q c p r n sp save hq hc hp hopen hserves hr hty hgo hnext hplace l
  have hexec := exec_launchCmd_taken (core := core) hq hc hp hopen hserves hr hty hgo hnext hplace
  obtain ⟨hid, hspot⟩ := State.launchPlace_spec hplace
  obtain ⟨hslots, hmost⟩ := State.bestSpot_spec hspot
  refine ⟨fun hne => by rw [hexec, if_neg (by simpa using hne)], fun hcore => ?_⟩
  subst hcore
  rw [if_pos (beq_self_eq_true _)] at hexec
  have hbeside : s.BesideQueues (s.atTurn p c q r) := State.besideQueues_atTurn
  have hturn : (s.atTurn p c q r).queue? num = some q.moved := State.queue?_atTurn hq
  generalize s.atTurn p c q r = u at hexec hbeside hturn
  obtain ⟨hkernel, ⟨y, hy, hycore, hyst, hywin, hysave⟩, hqueues, hbeams⟩ := u.launched_spec q l n sp save
  have hqueue : (u.launched q l n sp save).queue? num = some q.moved := by rwa [State.queue?, hqueues]
  have hrunning : ((u.newKernel q l n).placedNext u.clock).st = if l.cohorts = 1 then .running else .placing := by
    show (if (0 + 1 == l.cohorts) = true then _ else _) = _
    simp only [Nat.zero_add, beq_iff_eq, eq_comm (a := 1)]
    rfl
  rw [hbeside.beams] at hbeams
  exact ⟨_, _, y, hexec, hkernel, rfl, rfl, rfl, State.queue?_num hq, rfl, rfl, hrunning, hy, hycore, hyst, hywin, hysave,
    ⟨_, hqueue, rfl, rfl⟩, State.idHeld_below hid, hmost, _, hbeams,
    (l.length_beamsAt ..).trans (hslots.trans (by rw [Launch.quads, List.length_map, List.length_range])),
    l.beamsAt_spec ⟨n, 0⟩ sp.core sp.slots u.clock⟩

end Sys2Proof.Machine
end

section
/-! The scheduler places, evicts and retires, and a context faults (R100, R320, R323, R345, R347, R350). -/

namespace Sys2Proof.Machine

/-! ### COHORT_PLACE and EXCHANGE -/

section
variable {s : State} {k : Kernel} {c : Context} {p : Partition} (hk : s.kernel? k.id = some k) (hh : s.home k = some (p, c))
  (hst : k.st = .placing) (hopen : c.st = .open_)
include hk hh hst hopen

theorem exec_cohortPlace {core : Nat} {sp : Spot} {r : Nat × Nat} (hn : s.nextPlace k = some (sp, r)) :
    exec (.cohortPlace k.id core) s = .next (if s.cohortWork p == some (.cohortPlace k.id core) && sp.core == core
      then s.placeCohort k sp r else s) := by
  show execCohortPlace k.id core s = _
  simp only [execCohortPlace, hk, hh]
  rw [if_neg (by simp [hst, hopen])]
  simp only [hn]

end

theorem exec_exchange {s : State} {v y : CohortKey} {z zv : Cohort} {k : Kernel} {p : Partition} {c : Context}
    (hz : s.cohort? y = some z) (hv : s.cohort? v = some zv) (hk : s.kernel? y.kernel = some k) (hh : s.home k = some (p, c))
    (hst : z.st = .parked) (hw : z.woken.isSome = true) (hopen : c.st = .open_) (hspot : s.parkedSpot z k = none)
    (hvictim : (s.exchangeVictim p k z).map (·.key) = some v) : exec (.exchange v y) s =
      .next (if s.leaving (.restore y) then s
        else s.evictFor (.restore y) k.launch (s.savedQuads z) [v] zv.core true) := by
  show execExchange v y s = _
  simp only [execExchange, hz, hv, hk, hh, hst, hw, hopen, hspot, hvictim]
  cases s.leaving (.restore y) <;> simp

/-- The one victim of an eviction stops, and is as it was besides. -/
theorem State.cohort?_evict {s : State} {k : CohortKey} {y : Cohort} (hy : s.cohort? k = some y) (hst : y.st = .resident)
    (hstop : y.stop = none) : (s.evict k).cohort? k = some { y with stop := some .evict } := by
  rw [State.evict_marks hy hst hstop]
  exact State.cohort?_setCohort_same hy (State.cohort?_key hy :)

theorem State.cohort?_evictFor {s : State} {k : CohortKey} {y : Cohort} (hy : s.cohort? k = some y) (hst : y.st = .resident)
    (hstop : y.stop = none) (w : Work) (l : Launch) (qs : List Nat) (core : Nat) (tied : Bool) :
    (s.evictFor w l qs [k] core tied).cohort? k = some { y with stop := some .evict } := by
  unfold State.evictFor
  exact State.cohort?_evict (by exact hy) hst hstop

/-! ### COHORT_RETIRE (R347) -/

/-- The kernel of an identifier differs in its groups. -/
def State.SameKernel (i : Nat) (k : Kernel) (s : State) : Prop := ∃ g, s.kernel? i = some { k with groups := g }

theorem State.SameKernel.leaveAll {s : State} {i : Nat} {k : Kernel} (h : s.SameKernel i k) (b : Beam) :
    (s.leaveAll b).SameKernel i k := by
  obtain ⟨g, hg⟩ := h
  unfold State.leaveAll
  split
  · exact ⟨g, hg⟩
  · next z hz =>
    have hz : s.kernel? b.cohort.kernel = some z := hz
    have hid : z.id = b.cohort.kernel := State.kernel?_id hz
    rw [State.SameKernel]
    by_cases hi : b.cohort.kernel = i
    · subst hi
      rw [Option.some.inj (hz.symm.trans hg)] at hid ⊢
      exact ⟨_, State.kernel?_setKernel_same hg hid⟩
    · rw [State.kernel?_setKernel]
      exact ⟨g, (if_neg (show ¬ z.id = i from hid ▸ hi)).trans hg⟩

theorem State.SameKernel.retire {s : State} {i : Nat} {k : Kernel} (h : s.SameKernel i k) (j : BeamKey) :
    (s.retire j).SameKernel i k := by
  unfold State.retire
  split
  · exact h
  · exact h.leaveAll _

theorem State.cohorts_retire (s : State) (j : BeamKey) : (s.retire j).cohorts = s.cohorts := by
  unfold State.retire
  split
  · rfl
  · unfold State.leaveAll
    split <;> rfl

/-- A beam that stands behind another's retirement stood before it, in another place. -/
theorem State.mem_beams_retire {s : State} {j : BeamKey} {x : Beam} (hx : x ∈ (s.retire j).beams) :
    ∃ y ∈ s.beams, y.key = x.key ∧ y.cohort = x.cohort ∧ y.key ≠ j := by
  unfold State.retire at hx
  split at hx
  · next hnone =>
    exact ⟨x, hx, rfl, rfl, by simpa using List.find?_eq_none.1 hnone x hx⟩
  · obtain ⟨y, hy, rfl⟩ := List.mem_map.1 hx
    rw [State.leaveAll_beams] at hy
    obtain ⟨hmem, hne⟩ := List.mem_filter.1 hy
    exact ⟨y, hmem, rfl, rfl, by simpa using hne⟩

theorem State.mem_beams_retireAll {l : List Beam} {s : State} {x : Beam}
    (hx : x ∈ (l.foldl (fun (s : State) b => s.retire b.key) s).beams) :
    ∃ y ∈ s.beams, y.key = x.key ∧ y.cohort = x.cohort ∧ ∀ b ∈ l, y.key ≠ b.key := by
  induction l generalizing s with
  | nil => exact ⟨x, hx, rfl, rfl, fun b hb => absurd hb List.not_mem_nil⟩
  | cons a l ih =>
    rw [List.foldl_cons] at hx
    obtain ⟨y, hy, hkey, hcohort, hne⟩ := ih hx
    obtain ⟨z, hz, hzkey, hzcohort, hza⟩ := State.mem_beams_retire hy
    exact ⟨z, hz, hzkey.trans hkey, hzcohort.trans hcohort, List.forall_mem_cons.2 ⟨hza, fun b hb => hzkey ▸ hne b hb⟩⟩

/-- The beams of a cohort have retired. -/
def State.beamsRetired (s : State) (c : CohortKey) : State :=
  (s.beams.filter fun b => b.cohort == c).foldl (fun (s : State) b => s.retire b.key) s

theorem State.beamsRetired_spec (s : State) (c : CohortKey) : (s.beamsRetired c).cohorts = s.cohorts ∧
    (∀ b ∈ (s.beamsRetired c).beams, b.cohort ≠ c) ∧
    ∀ i k, s.kernel? i = some k → (s.beamsRetired c).SameKernel i k := by
  refine ⟨foldl_field (f := fun s (b : Beam) => s.retire b.key) (fun s b => s.cohorts_retire b.key) _ s, fun b hb hc => ?_, fun i k hk => ?_⟩
  · obtain ⟨y, hy, -, hcohort, hne⟩ := State.mem_beams_retireAll hb
    exact hne y (List.mem_filter.2 ⟨hy, by simpa using hcohort.trans hc⟩) rfl
  · exact foldl_keeps (P := State.SameKernel i k) (fun s b h => h.retire b.key) _ ⟨k.groups, hk⟩

/-- The cohort itself has retired: its beams, its requests and what its core keeps of it are gone. -/
def State.cohortRetired (s : State) (c : CohortKey) (y : Cohort) : State :=
  let s := (s.stopsOver (·.key == c)).beamsRetired c
  let s : State := { s with reqs := s.reqs.filter fun r => r.cohort != c }
  let s := s.modCore y.core fun k => { k with orphans := k.orphans.filter fun o => o.cohort != c }
  s.setCohort { y with st := .retired, win := [], tags := [], save := none, stop := none, dbg := none, slots := [] }

theorem State.cohortRetired_spec {s : State} {c : CohortKey} {y : Cohort} (hy : s.cohort? c = some y) :
    (∀ b ∈ (s.cohortRetired c y).beams, b.cohort ≠ c) ∧
    (∃ y', (s.cohortRetired c y).cohort? c = some y' ∧ y'.st = .retired) ∧
    ∀ i k, s.kernel? i = some k → (s.cohortRetired c y).SameKernel i k := by
  have hstops := s.sameWork_stopsOver (·.key == c)
  obtain ⟨hcohorts, hbeams, hkernels⟩ := (s.stopsOver (·.key == c)).beamsRetired_spec c
  unfold State.cohortRetired
  generalize (s.stopsOver (·.key == c)).beamsRetired c = u at hcohorts hbeams hkernels
  have hcore := State.sameWork_modCore ({ u with reqs := u.reqs.filter fun r => r.cohort != c } : State) y.core
    fun k => { k with orphans := k.orphans.filter fun o => o.cohort != c }
  refine ⟨?_, ?_, fun i k hk => ?_⟩
  · have hsame := hcore.beams
    exact fun b hb => hbeams b (hsame ▸ hb)
  · refine ⟨_, State.cohort?_setCohort_same (y := y) ?_ (State.cohort?_key hy :), rfl⟩
    refine (hcore.cohort? c).trans ?_
    rw [State.cohort?, hcohorts, hstops.cohorts]
    exact hy
  · obtain ⟨g, hg⟩ := hkernels i k ((hstops.kernel? i).trans hk)
    exact ⟨g, (hcore.kernel? i).trans hg⟩

/-- Once the kernel has counted a cohort that retires, and is Completed with its last. -/
def State.countedOff (s : State) (c : CohortKey) (k : Kernel) : State :=
  let k := { k with retired := k.retired + 1 }
  let s := (s.setKernel k).cohortsGone (· == c)
  (if k.retired == k.launch.cohorts then s.complete k else s).settleContext k.ctx

theorem State.countedOff_beams (s : State) (c : CohortKey) (k : Kernel) : (s.countedOff c k).beams = s.beams := by
  unfold State.countedOff
  extract_lets k' t
  have ht : t.beams = s.beams := (State.sameWork_cohortsGone (s.setKernel k') (· == c)).beams
  refine (State.sameWork_settleContext _ _).beams.trans ?_
  split
  · exact (State.sameWork_queueEnd _ _ _).beams.trans ht
  · exact ht

section
variable {s : State} {c : CohortKey} {k : Kernel} (hk : s.kernel? c.kernel = some k)
include hk

/-- A kernel with more cohorts to come counts the one that retires. -/
theorem State.countedOff_more (h : k.retired + 1 ≠ k.launch.cohorts) :
    (s.countedOff c k).kernel? c.kernel = some { k with retired := k.retired + 1 } ∧ (s.countedOff c k).cohorts = s.cohorts := by
  have hgone := State.sameWork_cohortsGone (s.setKernel { k with retired := k.retired + 1 }) (· == c)
  have hsettle := State.sameWork_settleContext
    ((s.setKernel { k with retired := k.retired + 1 }).cohortsGone (· == c)) k.ctx
  have hcounted : s.countedOff c k =
      ((s.setKernel { k with retired := k.retired + 1 }).cohortsGone (· == c)).settleContext k.ctx := by
    unfold State.countedOff
    exact congrArg (fun u : State => u.settleContext k.ctx) (if_neg (by simpa using h))
  rw [hcounted]
  exact ⟨(hsettle.kernel? _).trans ((hgone.kernel? _).trans (State.kernel?_setKernel_same hk (State.kernel?_id hk :))),
    hsettle.cohorts.trans hgone.cohorts⟩

/-- A kernel whose last cohort retires is Completed: neither it nor a cohort of it is kept. -/
theorem State.countedOff_last (h : k.retired + 1 = k.launch.cohorts) :
    (s.countedOff c k).kernel? c.kernel = none ∧ (s.countedOff c k).cohort? c = none := by
  let t := (s.setKernel { k with retired := k.retired + 1 }).cohortsGone (· == c)
  have hid : k.id = c.kernel := State.kernel?_id hk
  have hsettle := State.sameWork_settleContext (t.complete { k with retired := k.retired + 1 }) k.ctx
  have hcounted : s.countedOff c k = (t.complete { k with retired := k.retired + 1 }).settleContext k.ctx := by
    unfold State.countedOff
    exact congrArg (fun u : State => u.settleContext k.ctx) (if_pos (by simpa using h))
  have hcomplete : State.SameWork ({ t with kernels := t.kernels.filter (fun j => j.id != k.id)
                                            cohorts := t.cohorts.filter fun c => c.key.kernel != k.id } : State)
      (t.complete { k with retired := k.retired + 1 }) := State.sameWork_queueEnd _ _ _
  rw [hcounted, hsettle.kernel?, hsettle.cohort?, hcomplete.kernel?, hcomplete.cohort?]
  constructor
  · exact List.find?_eq_none.2 fun j hj => by simpa [hid] using (List.mem_filter.1 hj).2
  · refine List.find?_eq_none.2 fun y hy => ?_
    have hne : y.key.kernel ≠ c.kernel := by simpa [hid] using (List.mem_filter.1 hy).2
    simpa using fun h => hne (congrArg CohortKey.kernel h)

end

theorem exec_cohortRetire {s : State} {c : CohortKey} {y : Cohort} (hy : s.cohort? c = some y) : exec (.cohortRetire c) s =
    if y.st != .resident || !s.mayRetire c then .next s
    else match (s.cohortRetired c y).kernel? c.kernel with
      | none => .next (s.cohortRetired c y)
      | some k => .next ((s.cohortRetired c y).countedOff c k) := by
  show execCohortRetire c s = _
  rw [execCohortRetire, hy]
  rfl

end Sys2Proof.Machine
end

section
/-! CONTEXT_FAULT (R320, R341), and the scheduler's events together. -/

namespace Sys2Proof.Machine

/-- The context of a number is `x`, and every queue of it is Faulted. -/
structure State.ContextDown (n : Nat) (x : Context) (s : State) : Prop where
  context : s.context? n = some x
  queues : ∀ q ∈ s.queues, q.ctx = n → q.st = .faulted

namespace State.ContextDown

variable {s t : State} {n : Nat} {x : Context} (h : s.ContextDown n x)
include h

theorem of_same (hc : t.contexts = s.contexts) (hq : t.queues = s.queues) : t.ContextDown n x :=
  ⟨by rw [State.context?, hc]; exact h.context, hq ▸ h.queues⟩

theorem putQueue {q : Queue} (hq : q.ctx = n → q.st = .faulted) : (s.putQueue q).ContextDown n x := by
  refine ⟨by rw [State.context?, State.contexts_putQueue]; exact h.context, fun y hy hctx => ?_⟩
  rw [State.queues_putQueue] at hy
  obtain ⟨z, hz, rfl⟩ := List.mem_map.1 hy
  split at hctx
  next heq => rw [if_pos heq]; exact hq hctx
  next hne => rw [if_neg hne]; exact h.queues z hz hctx

theorem queueEnd (num seq : Nat) : (s.queueEnd num seq).ContextDown n x := by
  unfold State.queueEnd
  split
  · exact h
  · next q hq =>
    exact h.putQueue fun hctx => h.queues q (List.mem_of_find?_eq_some hq) hctx

theorem respond (f : From) (status : Nat) (body : List Byte) : (s.respond f status body).ContextDown n x :=
  h.of_same (s.sameBesideWire_respond f status body).contexts (s.sameBesideWire_respond f status body).queues

theorem stopsOver (which : Cohort → Bool) : (s.stopsOver which).ContextDown n x := by
  refine foldl_keeps (P := State.ContextDown n x) (fun t c ht => ?_) _ h
  extract_lets u
  have hu : u.ContextDown n x := by
    unfold u
    split
    · exact ht.respond ..
    · exact ht
  split
  · exact hu.respond ..
  · exact hu

theorem cohortsGone (gone : CohortKey → Bool) : (s.cohortsGone gone).ContextDown n x :=
  foldl_keeps (P := State.ContextDown n x) (fun _ c ht => ht.queueEnd c.queue c.seq) _ (h.of_same rfl rfl)

/-- A context that does not stop is not Stopped when another one is. -/
theorem settleContext (hst : x.st = .faulted) (ctx : Nat) : (s.settleContext ctx).ContextDown n x := by
  unfold State.settleContext
  split
  · exact h
  · next y hy =>
    split
    · next hstops =>
      have hid : y.id = ctx := State.context?_id hy
      by_cases hn : ctx = n
      · rw [hn, h.context] at hy
        obtain rfl := Option.some.inj hy
        simp [hst] at hstops
      · refine ⟨?_, h.queues⟩
        rw [State.context?_setContext]
        exact (if_neg (show ¬ y.id = n from hid ▸ hn)).trans h.context
    · exact h

theorem kernelFault (hst : x.st = .faulted) (kid : Nat) : (s.kernelFault kid none).ContextDown n x := by
  unfold State.kernelFault
  split
  · exact h
  · next k _ =>
    split
    · exact h
    · extract_lets u v w
      have hu : u.ContextDown n x :=
        (h.of_same (t := s.setKernel { k with st := .faulted, groups := [] }) rfl rfl).stopsOver _
      have hv : v.ContextDown n x := hu.of_same rfl rfl
      have hw : w.ContextDown n x := (hv.cohortsGone _).settleContext hst _
      exact hw.queueEnd k.queue k.seq

theorem faultKernels (hst : x.st = .faulted) (ctx : Nat) : (s.faultKernels ctx).ContextDown n x :=
  foldl_keeps (P := State.ContextDown n x) (fun _ k ht => ht.kernelFault hst k) _ h

end State.ContextDown

/-- A queue of a context that faults. -/
def Queue.contextFaulted (q : Queue) : Queue :=
  if q.st == .faulted then q else { q with st := .faulted, fcode := 6, fseq := q.head + 1 }

theorem Queue.contextFaulted_spec (q : Queue) : q.contextFaulted.num = q.num ∧ q.contextFaulted.st = .faulted := by
  unfold Queue.contextFaulted
  split
  next h => exact ⟨rfl, by simpa using h⟩
  next => exact ⟨rfl, rfl⟩

/-- The context and its queues are Faulted. -/
def State.faultQueues (s : State) (x : Context) (ctx : Nat) : State :=
  ((s.hwError 0 4 x.root).setContext { x with st := .faulted }).modQueues ctx Queue.contextFaulted

theorem State.contextDown_faultQueues {s : State} {n : Nat} {x : Context} (hx : s.context? n = some x) :
    (s.faultQueues x n).ContextDown n { x with st := .faulted } := by
  refine ⟨?_, fun q hq hctx => ?_⟩
  · have herror : (s.hwError 0 4 x.root).context? n = some x := by
      unfold State.hwError
      extract_lets t
      split <;> exact hx
    rw [State.faultQueues, State.context?, State.contexts_modQueues]
    exact State.context?_setContext_same herror (State.context?_id hx :)
  · obtain ⟨y, -, rfl⟩ := State.mem_queues_modQueues _ n Queue.contextFaulted (fun y => y.contextFaulted_spec.1) hq hctx
    exact y.contextFaulted_spec.2

section
variable {s : State} {n : Nat} {x : Context} (hx : s.context? n = some x)
include hx

theorem exec_contextFault_faulted (hst : x.st = .faulted) : exec (.contextFault n) s = .next s := by
  show execContextFault n s = _
  simp only [execContextFault, hx, hst, BEq.rfl, if_true]

theorem exec_contextFault (hst : x.st ≠ .faulted) :
    exec (.contextFault n) s = .next ((s.faultQueues x n).faultKernels n) := by
  show execContextFault n s = _
  rw [execContextFault, hx]
  exact if_neg (by simpa using hst)

end

/-- Settles O44: placement by what a placed cohort begins with, retirement stage by stage, a faulted context by what its faulting
kernels keep. -/
theorem placementAndRetirement : Obligations.PlacementAndRetirement := by
  refine ⟨⟨fun s k c p sp r hk hh hst hopen hn => ?place, fun s p hp => ?slice,
      fun s v y z zv k p c hz hv hk hh hst hw hopen hspot hvictim => ?exchange, fun s k y w l qs core tied hy hst hstop =>
        State.cohort?_evictFor hy hst hstop w l qs core tied⟩,
    fun s key y hy => ?retire, fun s n c hc => ⟨exec_contextFault_faulted hc, fun hst => ?fault⟩⟩
  case place =>
    have hexec := exec_cohortPlace (core := sp.core) hk hh hst hopen hn
    refine ⟨fun hne => by rw [hexec, if_neg (by simp [hne])], fun hwork => ?_⟩
    rw [if_pos (by simp [hwork])] at hexec
    obtain ⟨hmem, -, -, hcohorts, hbeams⟩ := s.placeCohort_spec k sp r
    have hrunning : (k.placedNext s.clock).st = if k.placed + 1 = k.launch.cohorts then .running else .placing := by
      show (if (k.placed + 1 == k.launch.cohorts) = true then _ else k.st) = _
      rw [hst]
      simp only [beq_iff_eq]
    exact ⟨_, _, hexec, hmem, State.kernel?_placeCohort hk sp r, rfl, hrunning, hcohorts, hbeams⟩
  case slice =>
    refine ⟨fun hnone => ?_, fun w y hsome => ?_⟩ <;> show execTimeSliceExpiry p.id s = _
    · simp only [execTimeSliceExpiry, hp, hnone]
    · simp only [execTimeSliceExpiry, hp, hsome]
  case exchange =>
    have hexec := exec_exchange hz hv hk hh hst hw hopen hspot hvictim
    exact ⟨fun hl => by rw [hexec, hl]; rfl, fun hl => by rw [hexec, hl]; rfl⟩
  case retire =>
    have hexec := exec_cohortRetire hy
    refine ⟨fun hno => hexec.trans (if_pos (by simpa using hno)), fun hst hmay => ?_⟩
    rw [if_neg (by simp [hst, hmay])] at hexec
    obtain ⟨hbeams, hcohort, hkernels⟩ := State.cohortRetired_spec hy
    generalize s.cohortRetired key y = u at hexec hbeams hcohort hkernels
    cases hu : u.kernel? key.kernel with
    | none =>
      rw [hu] at hexec
      refine ⟨u, hexec, hbeams, fun k hk => ?_⟩
      obtain ⟨g, hg⟩ := hkernels _ k hk
      exact absurd (hg.symm.trans hu) (by simp)
    | some z =>
      rw [hu] at hexec
      refine ⟨_, hexec, fun b hb => hbeams b (State.countedOff_beams .. ▸ hb), fun k hk => ?_⟩
      obtain ⟨g, hg⟩ := hkernels _ k hk
      obtain rfl := Option.some.inj (hu.symm.trans hg)
      refine ⟨fun hmore => ?_, State.countedOff_last hu⟩
      obtain ⟨hkernel, hcohorts⟩ := State.countedOff_more hu hmore
      obtain ⟨y', hy', hretired⟩ := hcohort
      exact ⟨⟨_, hkernel, rfl, rfl⟩, y', by rwa [State.cohort?, hcohorts], hretired⟩
  case fault =>
    have hdown := (State.contextDown_faultQueues hc).faultKernels rfl n
    exact ⟨_, _, exec_contextFault hc hst, hdown.context, rfl, hdown.queues, State.kernelOver_faultKernels _ n⟩

end Sys2Proof.Machine
end

section
/-! The ports (R387 to R391, R438, R460): what a port keeps while it sends, and what each of its events makes of it. -/

namespace Sys2Proof.Machine

/-! ### Flits and their check (R387) -/

section
variable (lseq ack : BitVec 12) (credit : BitVec 2 × BitVec 6) (rest : List Byte)

/-- What the check of a flit covers. -/
def flitCovered : List Byte :=
  natLe 4 (credit.1.toNat + 2 ^ 2 * lseq.toNat + 2 ^ 14 * ack.toNat + 2 ^ 26 * credit.2.toNat) ++ rest.take 244

theorem flitIntact_iff : flitIntact lseq ack credit rest = true ↔
    rest.length = 252 ∧ leNat (rest.drop 244) = (Config.flitCheck (flitCovered lseq ack credit rest)).toNat := by
  have hhead : flitHead credit.1.toNat lseq.toNat ack.toNat credit.2.toNat =
      natLe 4 (credit.1.toNat + 2 ^ 2 * lseq.toNat + 2 ^ 14 * ack.toNat + 2 ^ 26 * credit.2.toNat) := by
    rw [flitHead, Nat.mod_eq_of_lt credit.1.isLt, Nat.mod_eq_of_lt lseq.isLt, Nat.mod_eq_of_lt ack.isLt,
      Nat.mod_eq_of_lt credit.2.isLt, Nat.mul_comm lseq.toNat, Nat.mul_comm ack.toNat, Nat.mul_comm credit.2.toNat]
  rw [flitIntact, hhead, Bool.and_eq_true, beq_iff_eq, beq_iff_eq, flitCovered]

end

/-! ### A port that sends (R388, R391) -/

/-- The ports have the same number, state, lanes, failures and expected flit. -/
structure Port.Same (p q : Port) : Prop where
  id : q.id = p.id
  st : q.st = p.st
  lanes : q.lanes = p.lanes
  failed : q.failed = p.failed
  rxSeq : q.rxSeq = p.rxSeq
  badRun : q.badRun = p.badRun

theorem Port.Same.trans {p q r : Port} (h : p.Same q) (h' : q.Same r) : p.Same r :=
  ⟨h'.id.trans h.id, h'.st.trans h.st, h'.lanes.trans h.lanes, h'.failed.trans h.failed, h'.rxSeq.trans h.rxSeq,
    h'.badRun.trans h.badRun⟩

theorem Port.Same.refl (p : Port) : p.Same p := ⟨rfl, rfl, rfl, rfl, rfl, rfl⟩

/-- A port that sends keeps its replay buffer, to which the flits that it sends are added. -/
theorem Port.pump_spec (p : Port) (fuel : Nat) : p.Same (p.pump fuel).1 ∧ ∃ new, (p.pump fuel).1.buffer = p.buffer ++ new := by
  induction fuel generalizing p with
  | zero => exact ⟨.refl p, [], (List.append_nil _).symm⟩
  | succ fuel ih =>
    unfold Port.pump
    split
    · exact ⟨.refl p, [], (List.append_nil _).symm⟩
    · split
      · exact ⟨.refl p, [], (List.append_nil _).symm⟩
      · next f _ =>
        extract_lets r q
        obtain ⟨hsame, new, hnew⟩ := ih r.1
        have hsent : p.Same r.1 := ⟨rfl, rfl, rfl, rfl, rfl, rfl⟩
        exact ⟨hsent.trans hsame, _, hnew.trans (List.append_assoc ..)⟩

theorem State.sameBesideWire_pump (s : State) (p : Port) : s.SameBesideWire (s.pump p) := rfl

theorem State.port?_pump {s : State} {n : Nat} {p y : Port} (hy : s.port? n = some y) (hid : p.id = n) :
    (s.pump p).port? n = some (p.pump p.queue.length).1 :=
  State.port?_setPort_same hy ((p.pump_spec _).1.id.trans hid)

/-- The port of a number is still as `p` is. -/
def State.PortSame (n : Nat) (p : Port) (s : State) : Prop := ∃ q, s.port? n = some q ∧ p.Same q

theorem State.PortSame.send {s : State} {n : Nat} {p : Port} (h : s.PortSame n p) (port : Option Nat) (m : OutMsg) :
    (s.send port m).PortSame n p := by
  obtain ⟨q, hq, hsame⟩ := h
  unfold State.send
  split
  · exact ⟨q, hq, hsame⟩
  · next y hy =>
    obtain ⟨k, hk⟩ : ∃ k, s.port? k = some y := by
      split at hy
      · cases hy
      · obtain ⟨k, -, hk⟩ := Option.bind_eq_some_iff.1 hy
        exact ⟨k, hk⟩
    have hkid : y.id = k := State.port?_id hk
    obtain ⟨hpump, -⟩ := Port.pump_spec { y with queue := y.queue ++ m.flits s.mgmt.device }
      (y.queue ++ m.flits s.mgmt.device).length
    by_cases hn : k = n
    · subst hn
      obtain rfl := Option.some.inj (hk.symm.trans hq)
      have hqueued : y.Same { y with queue := y.queue ++ m.flits s.mgmt.device } := ⟨rfl, rfl, rfl, rfl, rfl, rfl⟩
      exact ⟨_, State.port?_pump hq hkid, hsame.trans (hqueued.trans hpump)⟩
    · refine ⟨q, ?_, hsame⟩
      refine (State.port?_setPort s _ n).trans ((if_neg ?_).trans hq)
      exact fun h => hn ((hkid.symm.trans hpump.id.symm).trans h)

theorem State.sendWaiting_spec {s : State} {n : Nat} {p : Port} (h : s.PortSame n p) :
    s.SameBesideWire s.sendWaiting ∧ s.sendWaiting.PortSame n p := by
  unfold State.sendWaiting
  split
  · exact ⟨.refl s, h⟩
  · refine ⟨State.SameBesideWire.trans (t := { s with unsent := [] }) rfl (.foldl (fun t m => ?_) _ _),
      foldl_keeps (P := State.PortSame n p) (fun t m ht => ?_) _ h⟩
    · exact (t.sameBesideWire_setFlow _).trans (State.sameBesideWire_send ..)
    · exact State.PortSame.send (s := t.setFlow _) ht _ _

/-- Bring-up changes what the firmware tells alone. -/
theorem State.bringUp_only (s : State) : ∃ m, s.bringUp = { s with mgmt := m } := by
  unfold State.bringUp
  split
  · exact ⟨_, rfl⟩
  · exact ⟨s.mgmt, rfl⟩

/-! ### What an event makes of a port -/

/-- The event makes of the port one for which `q` holds, and touches neither memory nor beams. -/
def Becomes (s : State) (n : Nat) (i : Instr) (q : Port → Prop) : Prop :=
  ∃ t p', exec i s = .next t ∧ t.port? n = some p' ∧ q p' ∧ t.mem = s.mem ∧ t.beams = s.beams

section
variable {s : State} {n : Nat} {p : Port} (hp : s.port? n = some p)
include hp

/-- An event that sets the port. -/
theorem becomes_of_setPort {i : Instr} {y : Port} {q : Port → Prop} (hi : exec i s = .next (s.setPort y)) (hid : y.id = p.id)
    (hq : q y) : Becomes s n i q :=
  ⟨_, y, hi, State.port?_setPort_same hp (hid.trans (State.port?_id hp)), hq, rfl, rfl⟩

theorem becomes_of_bringUp {i : Instr} {y : Port} {q : Port → Prop} (hi : exec i s = .next (s.setPort y).bringUp)
    (hid : y.id = p.id) (hq : q y) : Becomes s n i q := by
  obtain ⟨m, hm⟩ := (s.setPort y).bringUp_only
  rw [hm] at hi
  exact ⟨_, y, hi, State.port?_setPort_same hp (hid.trans (State.port?_id hp)), hq, rfl, rfl⟩

/-! ### FLIT_RECEIVE (R387, R388) -/

section
variable (lseq ack : BitVec 12) (credit : BitVec 2 × BitVec 6) (rest : List Byte)

theorem exec_flitReceive : exec (.flitReceive n lseq ack credit rest) s =
    if !p.usable then .next s
    else if !flitIntact lseq ack credit rest then
      .next (s.setPort (Port.judged { (p.replayed s.clock 1) with badRun := p.badRun + 1 } s.mgmt.replayMax s.clock))
    else if lseq.toNat == (p.acked ack.toNat).rxSeq then
      .next (s.pump { p.acked ack.toNat with
        rxSeq := ((p.acked ack.toNat).rxSeq + 1) % 4096, badRun := 0
        owed := (p.acked ack.toNat).owed.modify credit.1.toNat (· + 1)
        used := (p.acked ack.toNat).used.modify credit.1.toNat (· - 4 * credit.2.toNat) })
    else .next (s.pump (p.acked ack.toNat)) := by
  show execFlitReceive n lseq ack credit rest s = _
  simp only [execFlitReceive, hp]

end

end

/-- What a flit that fails its check makes of the port. -/
theorem Port.judged_replayed (p : Port) (most clock : Nat) :
    let q := Port.judged { (p.replayed clock 1) with badRun := p.badRun + 1 } most clock
    q.id = p.id ∧ q.replays = min 65535 (p.replays + 1) ∧ q.rxSeq = p.rxSeq ∧ q.buffer = p.buffer ∧
      (16 ≤ p.badRun → q.st = .training ∧ q.lanes = 0 ∧ q.badRun = 0) ∧
      (p.badRun < 16 → p.lost = none → p.recent.length < most → q.st = p.st ∧ q.badRun = p.badRun + 1) := by
  intro q
  let y : Port := { (p.replayed clock 1) with badRun := p.badRun + 1 }
  by_cases hunfit : y.unfit most = true
  · have hq : q = y.train clock := if_pos hunfit
    rw [hq]
    refine ⟨rfl, rfl, rfl, rfl, fun _ => ⟨rfl, rfl, rfl⟩, fun hrun hlost hrecent => ?_⟩
    have hkept := List.length_filter_le (fun t => decide (clock < t + Config.replayWindow)) p.recent
    simp only [y, Port.unfit, Port.replayed, hlost, Option.any_none, Bool.or_false, Bool.or_eq_true, decide_eq_true_eq,
      List.length_append, List.length_replicate] at hunfit
    omega
  · have hq : q = y := if_neg hunfit
    rw [hq]
    refine ⟨rfl, rfl, rfl, rfl, fun hrun => absurd ?_ hunfit, fun _ _ _ => ⟨rfl, rfl⟩⟩
    have hbad : 16 < y.badRun := Nat.lt_succ_of_le hrun
    rw [Port.unfit, decide_eq_true hbad, Bool.true_or, Bool.true_or]

/-- The flits up to the one that the peer acknowledges leave the replay buffer. -/
theorem Port.acked_spec (p : Port) (ack : Nat) : p.Same (p.acked ack) ∧ ∃ k, (p.acked ack).buffer = p.buffer.drop k ∧
    (∀ b ∈ p.buffer.take (k - 1), b.lseq ≠ ack) ∧ (0 < k → (p.buffer[k - 1]?).map (·.lseq) = some ack) ∧
    (k = 0 → ∀ b ∈ p.buffer, b.lseq ≠ ack) := by
  unfold Port.acked
  split
  · next k hk =>
    obtain ⟨hlt, hfound, hbefore⟩ := List.findIdx?_eq_some_iff_getElem.1 hk
    refine ⟨⟨rfl, rfl, rfl, rfl, rfl, rfl⟩, k + 1, rfl, fun b hb => ?_, fun _ => ?_, fun h => absurd h (by omega)⟩
    · obtain ⟨j, hj, rfl⟩ := List.mem_take_iff_getElem.1 hb
      simpa using hbefore j (by omega)
    · rw [Nat.add_sub_cancel, List.getElem?_eq_getElem hlt, Option.map_some]
      exact congrArg some (by simpa using hfound)
  · next hnone =>
    refine ⟨.refl p, 0, rfl, fun b hb => absurd hb (by simp), fun h => absurd h (by omega), fun _ b hb => ?_⟩
    simpa using List.findIdx?_eq_none_iff.1 hnone b hb

section
variable {s : State} {n : Nat} {p : Port} (hp : s.port? n = some p) (lseq ack : BitVec 12) (credit : BitVec 2 × BitVec 6)
  (rest : List Byte) (hu : p.usable = true)
include hp hu

theorem becomes_flitReceive_bad (hbad : ¬ flitIntact lseq ack credit rest = true) :
    Becomes s n (.flitReceive n lseq ack credit rest) fun q =>
      q.replays = min 65535 (p.replays + 1) ∧ q.rxSeq = p.rxSeq ∧ q.buffer = p.buffer ∧
      (16 ≤ p.badRun → q.st = .training ∧ q.lanes = 0 ∧ q.badRun = 0) ∧
      (p.badRun < 16 → p.lost = none → p.recent.length < s.mgmt.replayMax → q.st = p.st ∧ q.badRun = p.badRun + 1) := by
  obtain ⟨hid, hrest⟩ := p.judged_replayed s.mgmt.replayMax s.clock
  refine becomes_of_setPort hp ?_ hid hrest
  rw [exec_flitReceive hp, if_neg (by simp [hu]), if_pos (by simpa using hbad)]

theorem becomes_flitReceive_good (hgood : flitIntact lseq ack credit rest = true) :
    Becomes s n (.flitReceive n lseq ack credit rest) fun q => q.st = p.st ∧
      (lseq.toNat = p.rxSeq → q.rxSeq = (p.rxSeq + 1) % 4096 ∧ q.badRun = 0) ∧
      (lseq.toNat ≠ p.rxSeq → q.rxSeq = p.rxSeq ∧ q.badRun = p.badRun) ∧
      ∃ k new, q.buffer = p.buffer.drop k ++ new ∧ (∀ b ∈ p.buffer.take (k - 1), b.lseq ≠ ack.toNat) ∧
        (0 < k → (p.buffer[k - 1]?).map (·.lseq) = some ack.toNat) ∧ (k = 0 → ∀ b ∈ p.buffer, b.lseq ≠ ack.toNat) := by
  obtain ⟨hsame, k, hbuf, hk⟩ := p.acked_spec ack.toNat
  have hid : (p.acked ack.toNat).id = n := hsame.id.trans (State.port?_id hp)
  have hexec := exec_flitReceive hp lseq ack credit rest
  rw [if_neg (by simp [hu]), if_neg (by simp [hgood])] at hexec
  by_cases hnext : lseq.toNat = p.rxSeq
  · rw [if_pos (by simpa [hsame.rxSeq] using hnext)] at hexec
    generalize hy : ({ p.acked ack.toNat with
      rxSeq := ((p.acked ack.toNat).rxSeq + 1) % 4096, badRun := 0
      owed := (p.acked ack.toNat).owed.modify credit.1.toNat (· + 1)
      used := (p.acked ack.toNat).used.modify credit.1.toNat (· - 4 * credit.2.toNat) } : Port) = y at hexec
    obtain ⟨hpump, new, hnew⟩ := y.pump_spec y.queue.length
    subst hy
    exact ⟨_, _, hexec, State.port?_pump hp hid, ⟨hpump.st.trans hsame.st,
      fun _ => ⟨hpump.rxSeq.trans (by rw [hsame.rxSeq]), hpump.badRun⟩, fun hne => absurd hnext hne, k, new,
      hnew.trans (by rw [hbuf]), hk⟩, rfl, rfl⟩
  · rw [if_neg (by simpa [hsame.rxSeq] using hnext)] at hexec
    obtain ⟨hpump, new, hnew⟩ := (p.acked ack.toNat).pump_spec (p.acked ack.toNat).queue.length
    exact ⟨_, _, hexec, State.port?_pump hp hid, ⟨hpump.st.trans hsame.st, fun h => absurd h hnext,
      fun _ => ⟨hpump.rxSeq.trans hsame.rxSeq, hpump.badRun.trans hsame.badRun⟩, k, new, hnew.trans (by rw [hbuf]), hk⟩, rfl, rfl⟩

end

/-! ### TRAINING_COMPLETE (R390, R391) -/

/-- A port that comes up keeps its lanes while its replay buffer and what waits is sent. -/
theorem State.portUp_spec {s : State} {n : Nat} {p : Port} (hp : s.port? n = some p) (st : LinkSt) (lanes : Nat) :
    (∃ q, (s.portUp p st lanes).port? n = some q ∧ q.st = st ∧ q.lanes = lanes ∧ q.failed = 0) ∧
    (s.portUp p st lanes).mem = s.mem ∧ (s.portUp p st lanes).beams = s.beams := by
  have hid : p.id = n := State.port?_id hp
  let up : Port := { p with st := st, lanes := lanes, failed := 0, left := none }
  unfold State.portUp
  extract_lets t u
  have ht : t.port? n = some (up.replayed s.clock p.buffer.length) := State.port?_setPort_same hp hid
  have hwire : s.SameBesideWire t := rfl
  have hu : t.SameBesideWire u ∧ u.PortSame n up := by
    unfold u
    rw [hid, ht]
    have hcounted : up.Same (up.replayed s.clock p.buffer.length) := ⟨rfl, rfl, rfl, rfl, rfl, rfl⟩
    exact ⟨rfl, _, State.port?_pump ht hid, hcounted.trans (Port.pump_spec _ _).1⟩
  obtain ⟨hsent, q, hq, hsame⟩ := State.sendWaiting_spec hu.2
  have hall : s.SameBesideWire u.sendWaiting := (hwire.trans hu.1).trans hsent
  obtain ⟨m, hm⟩ := u.sendWaiting.bringUp_only
  rw [hm]
  exact ⟨⟨q, hq, hsame.st, hsame.lanes, hsame.failed⟩, hall.mem, hall.beams⟩

section
variable {s : State} {n : Nat} {p : Port} (hp : s.port? n = some p)
include hp

theorem exec_trainingComplete (lanes : Nat) : exec (.trainingComplete n lanes) s =
    if p.st != .training then .next s
    else if lanes ≥ 8 then .next (s.portUp p .up 8)
    else if lanes ≥ 2 then .next (s.portUp p .degraded (if lanes ≥ 4 then 4 else 2))
    else if p.failed ≥ 2 then .next (s.setPort { p with st := .down, failed := 0 }).bringUp
    else .next (s.setPort { p with failed := p.failed + 1 }) := by
  show execTrainingComplete n lanes s = _
  simp only [execTrainingComplete, hp]

theorem becomes_portUp {i : Instr} {st : LinkSt} {lanes : Nat} (hi : exec i s = .next (s.portUp p st lanes)) :
    Becomes s n i fun q => q.st = st ∧ q.lanes = lanes ∧ q.failed = 0 := by
  obtain ⟨⟨q, hq, hspec⟩, hmem, hbeams⟩ := State.portUp_spec hp st lanes
  exact ⟨_, q, hi, hq, hspec, hmem, hbeams⟩

end

theorem Becomes.mono {s : State} {n : Nat} {i : Instr} {q r : Port → Prop} (h : Becomes s n i q) (hqr : ∀ p, q p → r p) :
    Becomes s n i r := by
  obtain ⟨t, p', hexec, hp', hq, hrest⟩ := h
  exact ⟨t, p', hexec, hp', hqr p' hq, hrest⟩

/-- What the end of a training makes of the port. -/
theorem trainingComplete_spec {s : State} {n : Nat} {p : Port} (hp : s.port? n = some p) (lanes : Nat) (hst : p.st = .training) :
    (8 ≤ lanes → Becomes s n (.trainingComplete n lanes) fun q => q.st = .up ∧ q.lanes = 8 ∧ q.failed = 0) ∧
    (4 ≤ lanes → lanes < 8 → Becomes s n (.trainingComplete n lanes) fun q => q.st = .degraded ∧ q.lanes = 4) ∧
    (2 ≤ lanes → lanes < 4 → Becomes s n (.trainingComplete n lanes) fun q => q.st = .degraded ∧ q.lanes = 2) ∧
    (lanes < 2 → p.failed < 2 →
      Becomes s n (.trainingComplete n lanes) fun q => q.st = .training ∧ q.failed = p.failed + 1) ∧
    (lanes < 2 → 2 ≤ p.failed → Becomes s n (.trainingComplete n lanes) fun q => q.st = .down) := by
  have hexec := exec_trainingComplete hp lanes
  rw [if_neg (by simp [hst])] at hexec
  refine ⟨fun h8 => becomes_portUp hp (hexec.trans (if_pos h8)), fun h4 h8 => ?_, fun h2 h4 => ?_, fun h2 hf => ?_, fun h2 hf => ?_⟩
  · refine (becomes_portUp hp (hexec.trans ((if_neg (by omega)).trans ((if_pos (by omega)).trans (by rw [if_pos h4]))))).mono ?_
    exact fun q hq => ⟨hq.1, hq.2.1⟩
  · refine (becomes_portUp hp (hexec.trans ((if_neg (by omega)).trans ((if_pos h2).trans (by rw [if_neg (by omega)]))))).mono ?_
    exact fun q hq => ⟨hq.1, hq.2.1⟩
  · exact becomes_of_setPort hp (hexec.trans ((if_neg (by omega)).trans ((if_neg (by omega)).trans (if_neg (by omega))))) rfl
      ⟨hst, rfl⟩
  · exact becomes_of_bringUp hp (hexec.trans ((if_neg (by omega)).trans ((if_neg (by omega)).trans (if_pos hf)))) rfl rfl

end Sys2Proof.Machine
end

section
/-! Far memory (R239, R314, R403 to R405, R444): ranges that join and leave it, and lines that reach it. -/

namespace Sys2Proof.Machine

/-! ### Ranges that are cut (R405) -/

/-- Does an address lie in one of the ranges? -/
def Covered (rs : List (Nat × Nat)) (a : Nat) : Prop := ∃ r ∈ rs, r.1 ≤ a ∧ a < r.2

/-- What is left of a range lies in it, beside what has been cut. -/
theorem mem_cutRange {rs : List (Nat × Nat)} {base limit : Nat} {r : Nat × Nat} (h : r ∈ cutRange rs base limit) :
    (∃ q ∈ rs, q.1 ≤ r.1 ∧ r.2 ≤ q.2) ∧ (r.2 ≤ base ∨ limit ≤ r.1) := by
  obtain ⟨hmem, -⟩ := List.mem_filter.1 h
  obtain ⟨q, hq, hr⟩ := List.mem_flatMap.1 hmem
  simp only [List.mem_cons, List.not_mem_nil, or_false] at hr
  obtain rfl | rfl := hr
  · exact ⟨⟨q, hq, le_rfl, min_le_left _ _⟩, .inl (min_le_right _ _)⟩
  · exact ⟨⟨q, hq, le_max_left _ _, le_rfl⟩, .inr (le_max_right _ _)⟩

/-- An address beside what is cut stays covered. -/
theorem covered_cutRange {rs : List (Nat × Nat)} {base limit a : Nat} (h : Covered rs a) (ha : a < base ∨ limit ≤ a) :
    Covered (cutRange rs base limit) a := by
  obtain ⟨r, hr, hlow, hhigh⟩ := h
  have hpieces : ∀ q ∈ [(r.1, min r.2 base), (max r.1 limit, r.2)], q.1 ≤ a → a < q.2 → q ∈ cutRange rs base limit :=
    fun q hq h1 h2 => List.mem_filter.2 ⟨List.mem_flatMap.2 ⟨r, hr, hq⟩, decide_eq_true (h1.trans_lt h2)⟩
  obtain hb | hl := ha
  · have hin : r.1 ≤ a ∧ a < min r.2 base := ⟨hlow, lt_min hhigh hb⟩
    exact ⟨_, hpieces _ List.mem_cons_self hin.1 hin.2, hin⟩
  · have hin : max r.1 limit ≤ a ∧ a < r.2 := ⟨max_le hlow hl, hhigh⟩
    exact ⟨_, hpieces _ (List.mem_cons_of_mem _ List.mem_cons_self) hin.1 hin.2, hin⟩

/-- What is left of some ranges once others have been cut out of them. -/
def cutAll (rs os : List (Nat × Nat)) : List (Nat × Nat) := os.foldl (fun rs o => cutRange rs o.1 o.2) rs

theorem mem_cutAll {os rs : List (Nat × Nat)} {r : Nat × Nat} (h : r ∈ cutAll rs os) :
    (∃ q ∈ rs, q.1 ≤ r.1 ∧ r.2 ≤ q.2) ∧ ∀ o ∈ os, r.2 ≤ o.1 ∨ o.2 ≤ r.1 := by
  induction os generalizing rs with
  | nil => exact ⟨⟨r, h, le_rfl, le_rfl⟩, fun o ho => absurd ho List.not_mem_nil⟩
  | cons o os ih =>
    obtain ⟨⟨q, hq, hlow, hhigh⟩, hapart⟩ := ih h
    obtain ⟨⟨p, hp, hplow, hphigh⟩, hcut⟩ := mem_cutRange hq
    exact ⟨⟨p, hp, hplow.trans hlow, hhigh.trans hphigh⟩,
      List.forall_mem_cons.2 ⟨hcut.imp hhigh.trans fun h => h.trans hlow, hapart⟩⟩

theorem covered_cutAll {os rs : List (Nat × Nat)} {a : Nat} (h : Covered rs a) (ha : ∀ o ∈ os, a < o.1 ∨ o.2 ≤ a) :
    Covered (cutAll rs os) a := by
  induction os generalizing rs with
  | nil => exact h
  | cons o os ih =>
    obtain ⟨ho, hos⟩ := List.forall_mem_cons.1 ha
    exact ih (covered_cutRange h ho) hos

/-! ### Capacity that joins (R444) -/

/-- The parts of some ranges that are nobody's yet, one range after the other. -/
def gather (old inside new : List (Nat × Nat)) : List (Nat × Nat) :=
  inside.foldl (fun new q => new ++ cutAll [q] (old ++ new)) new

/-- What is gathered lies in one of the ranges and beside the old ones. -/
theorem mem_gather {old inside new : List (Nat × Nat)} {r : Nat × Nat} (h : r ∈ gather old inside new) :
    r ∈ new ∨ (∃ q ∈ inside, q.1 ≤ r.1 ∧ r.2 ≤ q.2) ∧ ∀ o ∈ old, r.2 ≤ o.1 ∨ o.2 ≤ r.1 := by
  induction inside generalizing new with
  | nil => exact .inl h
  | cons q qs ih =>
    obtain hmem | ⟨⟨p, hp, hin⟩, hapart⟩ := ih h
    · obtain hmem | hcut := List.mem_append.1 hmem
      · exact .inl hmem
      · obtain ⟨⟨p, hp, hin⟩, hapart⟩ := mem_cutAll hcut
        obtain rfl := List.mem_singleton.1 hp
        exact .inr ⟨⟨p, List.mem_cons_self, hin⟩, fun o ho => hapart o (List.mem_append_left _ ho)⟩
    · exact .inr ⟨⟨p, List.mem_cons_of_mem _ hp, hin⟩, hapart⟩

/-- An address of the ranges that is nobody's is gathered. -/
theorem covered_gather {old inside new : List (Nat × Nat)} {a : Nat} (hold : ∀ o ∈ old, a < o.1 ∨ o.2 ≤ a)
    (h : Covered new a ∨ Covered inside a) : Covered (gather old inside new) a := by
  induction inside generalizing new with
  | nil => exact h.elim id fun ⟨r, hr, _⟩ => absurd hr List.not_mem_nil
  | cons q qs ih =>
    refine ih ?_
    by_cases hnew : Covered new a
    · obtain ⟨r, hr, hin⟩ := hnew
      exact .inl ⟨r, List.mem_append_left _ hr, hin⟩
    · obtain ⟨r, hr, hin⟩ := h.resolve_left hnew
      obtain rfl | hr := List.mem_cons.1 hr
      · have hfree : ∀ o ∈ old ++ new, a < o.1 ∨ o.2 ≤ a := by
          intro o ho
          obtain ho | ho := List.mem_append.1 ho
          · exact hold o ho
          · by_contra hno
            rw [not_or, Nat.not_lt, Nat.not_le] at hno
            exact hnew ⟨o, ho, hno⟩
        obtain ⟨p, hp, hpin⟩ := covered_cutAll ⟨r, List.mem_singleton_self r, hin⟩ hfree
        exact .inl ⟨p, List.mem_append_right _ hp, hpin⟩
      · exact .inr ⟨r, hr, hin⟩

/-- The parts of a range that lie in windows. -/
def inWindows (wins : List (Nat × Nat)) (r : Nat × Nat) : List (Nat × Nat) :=
  (wins.map fun w => (max w.1 r.1, min w.2 r.2)).filter fun q => decide (q.1 < q.2)

theorem newFar_eq (old wins : List (Nat × Nat)) (r : Nat × Nat) :
    newFar old wins r = (gather old (inWindows wins r) []).filter (farFree []) := rfl

/-- What counts of a range lies in it, inside a window and beside what was far memory before. -/
theorem mem_newFar {old wins : List (Nat × Nat)} {base limit : Nat} {r : Nat × Nat} (h : r ∈ newFar old wins (base, limit)) :
    base ≤ r.1 ∧ r.1 < r.2 ∧ r.2 ≤ limit ∧ (∃ w ∈ wins, w.1 ≤ r.1 ∧ r.2 ≤ w.2) ∧ ∀ o ∈ old, r.2 ≤ o.1 ∨ o.2 ≤ r.1 := by
  rw [newFar_eq] at h
  obtain ⟨hmem, hfree⟩ := List.mem_filter.1 h
  obtain ⟨⟨q, hq, hlow, hhigh⟩, hapart⟩ := (mem_gather hmem).resolve_left List.not_mem_nil
  obtain ⟨w, hw, rfl⟩ := List.mem_map.1 (List.mem_filter.1 hq).1
  simp only [farFree, Bool.and_eq_true, decide_eq_true_eq] at hfree
  exact ⟨(le_max_right _ _).trans hlow, hfree.1.1.1, hhigh.trans (min_le_right _ _),
    ⟨w, hw, (le_max_left _ _).trans hlow, hhigh.trans (min_le_left _ _)⟩, hapart⟩

/-- A range inside one that may be far memory may be too. -/
theorem farFree_inside {base limit : Nat} (h : farFree [] (base, limit) = true) {r : Nat × Nat} (hlow : base ≤ r.1)
    (hlt : r.1 < r.2) (hhigh : r.2 ≤ limit) : farFree [] r = true := by
  simp only [farFree, rangesMeet, List.any_nil, Bool.not_false, Bool.and_true, Bool.and_eq_true, decide_eq_true_eq,
    Bool.not_eq_true', decide_eq_false_iff_not, not_and] at h ⊢
  obtain ⟨⟨-, hpage⟩, hnear⟩ := h
  refine ⟨⟨hlt, hhigh.trans hpage⟩, fun hbelow habove => ?_⟩
  exact hnear (lt_of_le_of_lt hlow hbelow) (lt_of_lt_of_le habove hhigh)

/-- Every address of a range that may be far memory counts, where it lies in a window and is nobody's. -/
theorem covered_newFar {old wins : List (Nat × Nat)} {base limit a : Nat} (hfree : farFree [] (base, limit) = true)
    (hlow : base ≤ a) (hhigh : a < limit) (hwin : ∃ w ∈ wins, w.1 ≤ a ∧ a < w.2) (hold : ∀ o ∈ old, a < o.1 ∨ o.2 ≤ a) :
    Covered (newFar old wins (base, limit)) a := by
  obtain ⟨w, hw, hw1, hw2⟩ := hwin
  have hin : max w.1 base ≤ a ∧ a < min w.2 limit := ⟨max_le hw1 hlow, lt_min hw2 hhigh⟩
  have hpart : (max w.1 base, min w.2 limit) ∈ inWindows wins (base, limit) :=
    List.mem_filter.2 ⟨List.mem_map.2 ⟨w, hw, rfl⟩, decide_eq_true (hin.1.trans_lt hin.2)⟩
  obtain ⟨r, hr, hrin⟩ := covered_gather hold (new := []) (.inr ⟨_, hpart, hin⟩)
  obtain ⟨⟨q, hq, hqlow, hqhigh⟩, -⟩ := (mem_gather hr).resolve_left List.not_mem_nil
  obtain ⟨v, -, rfl⟩ := List.mem_map.1 (List.mem_filter.1 hq).1
  rw [newFar_eq]
  exact ⟨r, List.mem_filter.2 ⟨hr, farFree_inside hfree ((le_max_right _ _).trans hqlow) (hrin.1.trans_lt hrin.2)
    (hqhigh.trans (min_le_right _ _))⟩, hrin⟩

/-- Ranges that fit are all taken (R403). -/
theorem farWithin_all {rs : List (Nat × Nat)} {left : Nat} (h : farSize rs ≤ left) : farWithin left rs = rs := by
  induction rs generalizing left with
  | nil => rfl
  | cons r rs ih =>
    have hsum : farSize (r :: rs) = r.2 - r.1 + farSize rs := by simp only [farSize, List.map_cons, List.sum_cons]
    rw [hsum] at h
    unfold farWithin
    rw [if_pos (by omega), ih (by omega)]

theorem mem_farWithin {rs : List (Nat × Nat)} {left : Nat} {r : Nat × Nat} (h : r ∈ farWithin left rs) : r ∈ rs := by
  induction rs generalizing left with
  | nil => exact h
  | cons q rs ih =>
    unfold farWithin at h
    split at h
    · exact (List.mem_cons.1 h).elim (fun h => h ▸ List.mem_cons_self) fun h => List.mem_cons_of_mem _ (ih h)
    · exact List.mem_cons_of_mem _ (ih h)

section
variable {s : State} {p : Partition} (hp : s.part? p.id = some p) (base limit : Nat)
include hp

/-- The far ranges that a grant adds to the partition. -/
def State.joins (s : State) (p : Partition) (base limit : Nat) : List (Nat × Nat) :=
  farWithin (2 ^ 44 - s.farBytes) (newFar (s.parts.flatMap (·.far)) p.farWin (base, limit))

theorem exec_dcdCapacityAdd : exec (.dcdCapacityAdd p.id base limit) s =
    .next (s.setPart { p with far := p.far ++ s.joins p base limit }) := by
  show execDcdCapacityAdd p.id base limit s = _
  rw [execDcdCapacityAdd, hp]
  rfl

theorem exec_dcdRelease (confirmed : Bool) : exec (.dcdRelease p.id base limit confirmed) s = .next (s.setPart (if confirmed then
      { p with far := cutRange p.far base limit, held := p.held.filter fun r => r != (base, limit) }
    else { p with held := if p.held.contains (base, limit) then p.held else p.held ++ [(base, limit)] })) := by
  show execDcdRelease p.id base limit confirmed s = _
  rw [execDcdRelease, hp]
  cases confirmed <;> rfl

end

theorem State.joins_spec (s : State) (p : Partition) (base limit : Nat) :
    (∀ r ∈ s.joins p base limit, base ≤ r.1 ∧ r.1 < r.2 ∧ r.2 ≤ limit ∧ (∃ w ∈ p.farWin, w.1 ≤ r.1 ∧ r.2 ≤ w.2) ∧
      ∀ q ∈ s.parts, ∀ o ∈ q.far, r.2 ≤ o.1 ∨ o.2 ≤ r.1) ∧
    (s.farBytes ≤ 2 ^ 44 → s.farBytes + farSize (s.joins p base limit) ≤ 2 ^ 44) ∧
    (farFree [] (base, limit) = true →
      s.farBytes + farSize (newFar (s.parts.flatMap (·.far)) p.farWin (base, limit)) ≤ 2 ^ 44 →
      ∀ a, base ≤ a → a < limit → (∃ w ∈ p.farWin, w.1 ≤ a ∧ a < w.2) → (∀ q ∈ s.parts, ∀ o ∈ q.far, a < o.1 ∨ o.2 ≤ a) →
        ∃ r ∈ s.joins p base limit, r.1 ≤ a ∧ a < r.2) := by
  refine ⟨fun r hr => ?_, fun hle => ?_, fun hfree hfits a hlow hhigh hwin hold => ?_⟩
  · obtain ⟨hlow, hlt, hhigh, hwin, hapart⟩ := mem_newFar (mem_farWithin hr)
    exact ⟨hlow, hlt, hhigh, hwin, fun q hq o ho => hapart o (List.mem_flatMap.2 ⟨q, hq, ho⟩)⟩
  · have hsize := farSize_farWithin (2 ^ 44 - s.farBytes) (newFar (s.parts.flatMap (·.far)) p.farWin (base, limit))
    rw [State.joins]
    omega
  · rw [State.joins, farWithin_all (by omega)]
    refine covered_newFar hfree hlow hhigh hwin fun o ho => ?_
    obtain ⟨q, hq, ho⟩ := List.mem_flatMap.1 ho
    exact hold q hq o ho

end Sys2Proof.Machine
end

section
/-! Writes that far memory acknowledges, or that fail (R239, R314, R404), and the ports and far memory together. -/

namespace Sys2Proof.Machine

/-! ### What the report of a lost write leaves: the near cache, and the log but for new entries -/

/-- The near cache holds the same bytes, and the log has grown. -/
structure State.LogGrows (s t : State) : Prop where
  dirty : t.dirty = s.dirty
  log : ∃ rest, t.log = s.log ++ rest

namespace State.LogGrows

variable {s t u : State}

theorem of_same (hd : t.dirty = s.dirty) (hl : t.log = s.log) : s.LogGrows t := ⟨hd, [], hl.trans (List.append_nil _).symm⟩

theorem refl (s : State) : s.LogGrows s := of_same rfl rfl

theorem trans (h : s.LogGrows t) (h' : t.LogGrows u) : s.LogGrows u := by
  obtain ⟨hd, rest, hl⟩ := h
  obtain ⟨hd', rest', hl'⟩ := h'
  exact ⟨hd'.trans hd, rest ++ rest', by rw [hl', hl, List.append_assoc]⟩

theorem ite {p : Prop} [Decidable p] (ht : s.LogGrows t) (hu : s.LogGrows u) : s.LogGrows (if p then t else u) := by
  split
  · exact ht
  · exact hu

theorem foldl {α : Type} {f : State → α → State} (hf : ∀ (s : State) (a : α), s.LogGrows (f s a)) (l : List α) (s : State) :
    s.LogGrows (l.foldl f s) := by
  induction l generalizing s with
  | nil => exact refl s
  | cons a l ih => exact (hf s a).trans (ih _)

end State.LogGrows

section
variable (s : State)

theorem State.logGrows_logged (e : LogEntry) : s.LogGrows (s.logged e) := ⟨rfl, [e], rfl⟩

theorem State.logGrows_respond (f : From) (status : Nat) (body : List Byte) : s.LogGrows (s.respond f status body) := by
  obtain ⟨fl, ps, out, un, h⟩ := s.respond_only f status body
  rw [h]
  exact .of_same rfl rfl

/-- A write beneath the near cache leaves what it holds. -/
theorem State.dirty_writeBytes (who : Option Nat) (pa : Nat) (bs : List Byte) : (s.writeBytes who false pa bs).dirty = s.dirty := by
  induction bs generalizing s pa with
  | nil => rfl
  | cons x bs ih => exact (ih _ _).trans rfl

omit s in
theorem State.BesideQueues.log {s t : State} (h : s.BesideQueues t) : t.log = s.log := h.field State.log

theorem State.logGrows_putQueue (q : Queue) : s.LogGrows (s.putQueue q) :=
  .of_same ((s.setQueue q).dirty_writeBytes none q.desc q.image) (s.besideQueues_putQueue q).log

theorem State.logGrows_queueEnd (num seq : Nat) : s.LogGrows (s.queueEnd num seq) := by
  unfold State.queueEnd
  split
  · exact .refl s
  · exact s.logGrows_putQueue _

theorem State.logGrows_queueFault (num code seq : Nat) : s.LogGrows (s.queueFault num code seq) := by
  unfold State.queueFault
  extract_lets t
  have ht : s.LogGrows t := by
    unfold t
    split
    · exact .refl s
    · exact .ite (.refl s) (s.logGrows_putQueue _)
  split
  · exact ht
  · exact ht.trans (.ite (t.logGrows_queueEnd num seq) (.refl t))

theorem State.logGrows_cohortsGone (gone : CohortKey → Bool) : s.LogGrows (s.cohortsGone gone) := by
  unfold State.cohortsGone
  extract_lets cmds over_
  have hcmds : s.LogGrows { s with cmds := cmds.filter fun c => !(c.copy.isNone && c.cohorts.isEmpty) } := .of_same rfl rfl
  exact hcmds.trans (.foldl (fun t c => t.logGrows_queueEnd c.queue c.seq) over_ _)

theorem State.logGrows_settleContext (ctx : Nat) : s.LogGrows (s.settleContext ctx) := by
  unfold State.settleContext
  split
  · exact .refl s
  · exact .ite (.of_same rfl rfl) (.refl s)

theorem State.logGrows_stopsOver (which : Cohort → Bool) : s.LogGrows (s.stopsOver which) := by
  refine .foldl (fun t c => ?_) _ s
  extract_lets u
  have hu : t.LogGrows u := by
    unfold u
    split
    · exact t.logGrows_respond _ _ _
    · exact .refl t
  split
  · exact hu.trans (u.logGrows_respond _ _ _)
  · exact hu

theorem State.logGrows_kernelFault (kid : Nat) (code : Option Nat) : s.LogGrows (s.kernelFault kid code) := by
  unfold State.kernelFault
  split
  · exact .refl s
  · next k _ =>
    split
    · exact .refl s
    · extract_lets u v w
      have hkernel : s.LogGrows (s.setKernel { k with st := .faulted, groups := [] }) := .of_same rfl rfl
      have hu : s.LogGrows u := hkernel.trans (State.logGrows_stopsOver _ _)
      have hv : s.LogGrows v := hu.trans (.of_same rfl rfl)
      have hw : s.LogGrows w := (hv.trans (v.logGrows_cohortsGone _)).trans (State.logGrows_settleContext _ _)
      split
      · exact hw.trans (w.logGrows_queueFault _ _ _)
      · exact hw.trans (w.logGrows_queueEnd _ _)

theorem State.logGrows_hwPend (k : BeamKey) (pc unit n : Nat) (lanes : Mask) : s.LogGrows (s.hwPend k pc unit n lanes) := by
  unfold State.hwPend
  split
  · exact .refl s
  · exact .ite (s.logGrows_kernelFault _ _) (.ite (s.logGrows_logged _) (.of_same rfl rfl))

theorem State.logGrows_writeLost (line n : Nat) : s.LogGrows (s.writeLost line n) := by
  unfold State.writeLost
  exact .foldl (f := fun (t : State) (p : BeamKey × Entry) => t.hwPend p.1 p.2.pc 5 n p.2.mask)
    (fun t p => t.logGrows_hwPend p.1 p.2.pc 5 n p.2.mask) _ s

theorem State.logGrows_writeEnds_failed (who : Writer) : s.LogGrows (s.writeEnds false who) := by
  unfold State.writeEnds
  extract_lets t
  have ht : s.LogGrows t := .of_same rfl rfl
  split
  · exact .ite ht (ht.trans (t.logGrows_respond _ _ _))
  · next q seq =>
    have hdrop : t.LogGrows (t.dropCmd q seq) := .of_same rfl rfl
    exact .ite (ht.trans (hdrop.trans (State.logGrows_queueFault _ _ _ _))) ht
  · exact .refl s

/-- An acknowledgement answers a message, or changes nothing. -/
theorem State.sameBesideWire_writeEnds_acked (who : Writer) : s.SameBesideWire (s.writeEnds true who) := by
  unfold State.writeEnds
  extract_lets t
  have ht : t = s := if_pos rfl
  rw [ht]
  split
  · exact .ite (.refl s) (s.sameBesideWire_respond _ _ _)
  · split
    next hno => simp at hno
    next => exact .refl s
  · exact .refl s

end

/-! ### CXL_WRITE_ACKNOWLEDGEMENT -/

theorem State.SameBesideWire.flushing {s t : State} (h : s.SameBesideWire t) : t.flushing = s.flushing := h.field State.flushing
theorem State.SameBesideWire.posted {s t : State} (h : s.SameBesideWire t) : t.posted = s.posted := h.field State.posted
theorem State.SameBesideWire.dirty {s t : State} (h : s.SameBesideWire t) : t.dirty = s.dirty := h.field State.dirty

/-- Is a write of the line on its way? -/
def State.onWay (s : State) (line : Nat) : Prop := s.flushing.contains line = true ∨ ∃ f ∈ s.posted, f.line = line

/-- No write of the line is on its way any more. -/
def State.lineDone (s : State) (line : Nat) : State :=
  { s with flushing := s.flushing.filter (· != line), posted := s.posted.filter fun f => f.line != line }

/-- The state behind the end of a line's write, before its writers hear of it. -/
def State.lineEnded (s : State) (pa : Nat) (ok : Bool) : State :=
  if ok then
    State.lineDone { s with dirty := if s.flushing.contains (nearLine pa) then s.dirty.filter fun c => nearLine c.1 != nearLine pa
      else s.dirty } (nearLine pa)
  else (((s.logged (.writeFailed pa)).hwError 0 5 pa).writeLost (nearLine pa) s.log.length).lineDone (nearLine pa)

section
variable {s : State} {pa : Nat}

theorem State.onWay_iff (line : Nat) :
    s.onWay line ↔ ¬ (!s.flushing.contains line && !s.posted.any fun f => f.line == line) = true := by
  rw [State.onWay, ← Bool.not_or, Bool.not_eq_true', Bool.not_eq_false, Bool.or_eq_true, List.any_eq_true]
  simp only [beq_iff_eq]

theorem exec_cxlWriteAcknowledgement_none (h : ¬ s.onWay (nearLine pa)) (ok : Bool) :
    exec (.cxlWriteAcknowledgement pa ok) s = .next s := by
  show execCxlWriteAcknowledgement pa ok s = _
  exact if_pos (not_not.1 (mt (State.onWay_iff _).2 h))

theorem exec_cxlWriteAcknowledgement (h : s.onWay (nearLine pa)) (ok : Bool) : exec (.cxlWriteAcknowledgement pa ok) s =
    .next (((s.posted.filter fun f => f.line == nearLine pa).map (·.who)).eraseDups.foldl (State.writeEnds · ok)
      (s.lineEnded pa ok)) := by
  show execCxlWriteAcknowledgement pa ok s = _
  exact if_neg ((State.onWay_iff _).1 h)

/-- An acknowledged line is in far memory, and no write of it is on its way. -/
theorem cxlWriteAcknowledgement_acked (s : State) (pa : Nat) :
    ∃ t, exec (.cxlWriteAcknowledgement pa true) s = .next t ∧ t.mem = s.mem ∧ t.beams = s.beams ∧
      t.flushing.contains (nearLine pa) = false ∧ (∀ f ∈ t.posted, f.line ≠ nearLine pa) ∧
      (s.flushing.contains (nearLine pa) = true → ∀ c ∈ t.dirty, nearLine c.1 ≠ nearLine pa) := by
  by_cases h : s.onWay (nearLine pa)
  · refine ⟨_, exec_cxlWriteAcknowledgement h true, ?_⟩
    have hwire : (s.lineEnded pa true).SameBesideWire
        (((s.posted.filter fun f => f.line == nearLine pa).map (·.who)).eraseDups.foldl (State.writeEnds · true)
          (s.lineEnded pa true)) := .foldl (fun t who => t.sameBesideWire_writeEnds_acked who) _ _
    rw [hwire.mem, hwire.beams, hwire.flushing, hwire.posted, hwire.dirty]
    refine ⟨rfl, rfl, ?_, fun f hf => by simpa using (List.mem_filter.1 hf).2, fun hflush c hc => ?_⟩
    · rw [← Bool.not_eq_true, List.contains_iff_mem]
      exact fun hmem => absurd (List.mem_filter.1 hmem).2 (by simp)
    · have hkept : (s.lineEnded pa true).dirty = s.dirty.filter fun c => nearLine c.1 != nearLine pa := if_pos hflush
      rw [hkept] at hc
      simpa using (List.mem_filter.1 hc).2
  · have hno := h
    rw [State.onWay, not_or] at hno
    obtain ⟨hflush, hposted⟩ := hno
    exact ⟨s, exec_cxlWriteAcknowledgement_none h true, rfl, rfl, Bool.eq_false_iff.2 hflush,
      fun f hf hline => hposted ⟨f, hf, hline⟩, fun hyes => absurd hyes hflush⟩

/-- A write that fails is logged, with its error; the near cache keeps its bytes. -/
theorem cxlWriteAcknowledgement_failed (h : s.onWay (nearLine pa)) :
    ∃ t rest, exec (.cxlWriteAcknowledgement pa false) s = .next t ∧ t.dirty = s.dirty ∧
      t.log = s.log ++ LogEntry.writeFailed pa :: LogEntry.hwerr 0 5 pa :: rest := by
  have herror : ((s.logged (.writeFailed pa)).hwError 0 5 pa).dirty = s.dirty ∧
      ((s.logged (.writeFailed pa)).hwError 0 5 pa).log = s.log ++ [.writeFailed pa] ++ [.hwerr 0 5 pa] := by
    unfold State.hwError
    extract_lets t
    split <;> exact ⟨rfl, rfl⟩
  have hlost := State.logGrows_writeLost ((s.logged (.writeFailed pa)).hwError 0 5 pa) (nearLine pa) s.log.length
  have hdone : State.LogGrows ((s.logged (.writeFailed pa)).hwError 0 5 pa) (s.lineEnded pa false) := hlost.trans (.of_same rfl rfl)
  obtain ⟨hdirty, rest, hlog⟩ := hdone.trans (.foldl (fun t who => t.logGrows_writeEnds_failed who)
    ((s.posted.filter fun f => f.line == nearLine pa).map (·.who)).eraseDups _)
  refine ⟨_, rest, exec_cxlWriteAcknowledgement h false, hdirty.trans herror.1, hlog.trans ?_⟩
  rw [herror.2, List.append_assoc, List.append_assoc]
  rfl

end

/-! ### The statement -/

/-- Settles O52: each port event by the port that it sets, far ranges by what is cut from them, a line by whether a write of it
is on its way. -/
theorem portsAndFarMemory : Obligations.PortsAndFarMemory := by
  refine ⟨fun s n p hp => ⟨fun lseq ack credit rest => ?flit, ?retrain, fun lanes => ?training, fun hu => ?loss, fun hu => ?noLoss,
      fun hrun => ?fence, fun hrun => ?noFence, fun hst hrun => ?unfence, fun hno => ?noUnfence⟩,
    fun s p base limit hp => ⟨?add, ?hold, ?release⟩,
    fun s pa => ⟨fun ok h => exec_cxlWriteAcknowledgement_none h ok, cxlWriteAcknowledgement_acked s pa,
      cxlWriteAcknowledgement_failed⟩⟩
  case flit =>
    intro covered good i
    have hgood : flitIntact lseq ack credit rest = true ↔ good := flitIntact_iff lseq ack credit rest
    refine ⟨fun hu => ?_, fun hu hbad => becomes_flitReceive_bad hp lseq ack credit rest hu (mt hgood.1 hbad),
      fun hu hg => becomes_flitReceive_good hp lseq ack credit rest hu (hgood.2 hg)⟩
    exact (exec_flitReceive hp lseq ack credit rest).trans (if_pos (by simp [hu]))
  case retrain =>
    have hexec : exec (.linkRetrain n) s =
        if p.st != .down || !s.mgmt.running then .next s else .next (s.setPort { (p.train s.clock) with failed := 0 }) := by
      show execLinkRetrain n s = _
      rw [execLinkRetrain, hp]
    intro skips
    have hskips : skips ↔ (p.st != .down || !s.mgmt.running) = true := by simp [skips]
    exact ⟨fun h => hexec.trans (if_pos (hskips.1 h)), fun h =>
      becomes_of_setPort hp (hexec.trans (if_neg (mt hskips.2 h))) rfl ⟨rfl, rfl, rfl⟩⟩
  case training =>
    exact ⟨fun hst => (exec_trainingComplete hp lanes).trans (if_pos (by simpa using hst)), trainingComplete_spec hp lanes⟩
  case loss =>
    refine becomes_of_setPort hp (y := p.train s.clock) ?_ rfl ⟨rfl, rfl⟩
    show execLaneLockLoss n s = _
    rw [execLaneLockLoss, hp]
    exact congrArg _ (if_pos hu)
  case noLoss =>
    show execLaneLockLoss n s = _
    rw [execLaneLockLoss, hp]
    exact congrArg _ (if_neg (ne_true_of_eq_false hu))
  case fence =>
    refine becomes_of_bringUp hp (y := { (p.train s.clock) with st := .fenced }) ?_ rfl ⟨rfl, rfl⟩
    show execPortFence n s = _
    rw [execPortFence, hp]
    exact congrArg _ (if_pos hrun)
  case noFence =>
    show execPortFence n s = _
    rw [execPortFence, hp]
    exact congrArg _ (if_neg (ne_true_of_eq_false hrun))
  case unfence =>
    refine becomes_of_setPort hp (y := { (p.train s.clock) with failed := 0 }) ?_ rfl rfl
    show execPortUnfence n s = _
    rw [execPortUnfence, hp]
    exact congrArg _ (if_pos (by simp [hst, hrun]))
  case noUnfence =>
    show execPortUnfence n s = _
    rw [execPortUnfence, hp]
    exact congrArg _ (if_neg (by simpa using fun h => hno.resolve_left (not_not.2 h)))
  case add =>
    obtain ⟨hnew, hfits, hall⟩ := s.joins_spec p base limit
    exact ⟨_, s.joins p base limit, exec_dcdCapacityAdd hp base limit, rfl, rfl, State.part?_setPart_same hp rfl, hnew, hfits, hall⟩
  case hold =>
    refine ⟨_, _, exec_dcdRelease hp base limit false, State.part?_setPart_same hp rfl, rfl, ?_⟩
    show (base, limit) ∈ if p.held.contains (base, limit) then p.held else p.held ++ [(base, limit)]
    split
    next h => exact List.contains_iff_mem.1 h
    next => exact List.mem_append_right _ List.mem_cons_self
  case release =>
    refine ⟨_, _, exec_dcdRelease hp base limit true, State.part?_setPart_same hp rfl, fun h => ?_, fun r hr a hlow hhigh => ?_,
      fun a ha _ => ⟨fun h => covered_cutRange h ha, fun ⟨r, hr, hlow, hhigh⟩ => ?_⟩⟩
    · simpa using (List.mem_filter.1 h).2
    · exact (mem_cutRange hr).2.imp hhigh.trans_le fun h => h.trans hlow
    · obtain ⟨⟨q, hq, hqlow, hqhigh⟩, -⟩ := mem_cutRange hr
      exact ⟨q, hq, hqlow.trans hlow, hhigh.trans_le hqhigh⟩

end Sys2Proof.Machine
end

section
/-! The registers of Periscope and the Spectrograph (R419 to R422, R432): what a store to one leaves in it and in the
others. -/

namespace Sys2Proof.Machine

/-! ### The record of a core behind a change of one core -/

section
variable {s : State} {core : Nat} {f : Core → Core} (hf : ∀ y, (f y).id = y.id)
include hf

/-- One of the 256 cores has a record, so the change takes place. -/
theorem State.coreOf_modCore_of_lt (h : core < 256) : (s.modCore core f).coreOf core = f (s.coreOf core) :=
  (s.coreOf_modCore_self core hf).trans (if_pos (.inr h))

theorem State.coreOf_modCore_other {c : Nat} (h : c ≠ core) : (s.modCore core f).coreOf c = s.coreOf c := by
  have hskip {y : Core} (hy : (y.id == core) = true) : (y.id == c) = false := by
    simp only [beq_iff_eq] at hy
    simp [hy, h.symm]
  rw [State.modCore]
  split
  · have hfind : ((s.cores.map fun y => if y.id == core then f y else y).find? fun y => y.id == c)
        = s.cores.find? fun y => y.id == c := by
      induction s.cores with
      | nil => rfl
      | cons y l ih =>
        rw [List.map_cons, List.find?_cons, List.find?_cons, ih]
        cases hy : y.id == core with
        | false => rfl
        | true =>
          rw [if_pos rfl, hf, hskip hy]
    exact congrArg (fun o : Option Core => o.getD _) hfind
  · split
    · have hnew : ((f { Core.reset core with iold := s.stored }).id == c) = false := by
        rw [hf]
        exact beq_eq_false_iff_ne.2 h.symm
      have hfind : (s.cores ++ [f { Core.reset core with iold := s.stored }]).find? (fun y => y.id == c)
          = s.cores.find? fun y => y.id == c := by
        rw [List.find?_append, List.find?_cons_of_neg (by rw [hnew]; exact Bool.false_ne_true), List.find?_nil, Option.or_none]
      exact congrArg (fun o : Option Core => o.getD _) hfind
    · rfl

/-- The registers of the other cores read as before. -/
theorem State.regRead_modCore_other {c : Nat} (h : c ≠ core) (off : Nat) :
    (s.modCore core f).regRead c off = s.regRead c off :=
  State.regRead_congr (State.coreOf_modCore_other hf h) off

end

/-! ### The places of the counters -/

/-- The offset of counter `n` of a quadrant, or with n = 18 of its SGSTAT. -/
theorem sgPlace_eq_some {off q n : Nat} : sgPlace off = some (q, n) ↔ q < 4 ∧ n ≤ 18 ∧ off = 0x200 + 0x100 * q + 8 * n := by
  unfold sgPlace
  split
  · simp only [Option.some.injEq, Prod.mk.injEq]
    simp only [beq_iff_eq] at *
    omega
  · simp only [reduceCtorEq, false_iff]
    simp only [beq_iff_eq] at *
    omega

theorem sgPlace_of_lt {off : Nat} (h : off < 0x200) : sgPlace off = none := if_neg (by omega)

theorem sgPlace_of_le {off : Nat} (h : 0x600 ≤ off) : sgPlace off = none := if_neg (by omega)

/-! ### A store reaches one register -/

/-- Memory is as before, and so is every register but the one at `off` of a core's page. -/
structure State.OneRegister (s t : State) (core off : Nat) : Prop where
  mem : t.mem = s.mem
  same : ∀ o, o ≠ off → t.regRead core o = s.regRead core o
  other : ∀ c, c ≠ core → ∀ o, t.regRead c o = s.regRead c o

section
variable {s : State} {core : Nat} {f : Core → Core} (hcore : core < 256) (hf : ∀ y, (f y).id = y.id)
include hcore hf

/-- The store is a change of one core, whose registers are those of the core's new record. -/
theorem State.OneRegister.of_modCore {off : Nat}
    (h : ∀ t : State, t.coreOf core = f (s.coreOf core) → ∀ o, o ≠ off → t.regRead core o = s.regRead core o) :
    s.OneRegister (s.modCore core f) core off where
  mem := s.modCore_mem core f
  same := h _ (State.coreOf_modCore_of_lt hf hcore)
  other := fun _ hc => State.regRead_modCore_other hf hc

end

/-! ### PSCTL and SPCTL (R421) -/

/-- The register that a write of PSCTL leaves. -/
def State.psctlValue (s : State) (core : Nat) (w : DWord) : DWord :=
  let t := (s.coreOf core).trace
  (w &&& 0x7800FFFF00000000) |||
    (if w.getLsbD 63 && ringSizeOk t.size && s.ringPlaced core t.base t.size then 0x8000000000000000 else 0) |||
    (if (if s.coreBusy core then t.dim else w.getLsbD 58) then 0x0400000000000000 else 0)

def State.spctlValue (s : State) (core : Nat) (w : DWord) : DWord :=
  let p := (s.coreOf core).spec
  (w &&& 0xFFFFFFFF) |||
    (if w.getLsbD 63 && ringSizeOk p.spsize && s.ringPlaced core p.spbase p.spsize then 0x8000000000000000 else 0)

theorem State.ite_beams (s : State) (p : Prop) [Decidable p] (bs : List Beam) :
    ∃ beams, (if p then { s with beams := bs } else s) = { s with beams := beams } := by
  split
  · exact ⟨_, rfl⟩
  · exact ⟨_, rfl⟩

/-- A write of PSCTL changes the core's record and, when it enables the trace, what its beams owe. -/
theorem State.psctl_only (s : State) (core : Nat) (w : DWord) : ∃ last beams, s.psctl core w =
    { s.modCore core (fun c => { c with trace := { (s.coreOf core).trace with
        ctl := s.psctlValue core w, last := last } }) with beams := beams } := by
  unfold State.psctl
  exact ⟨_, State.ite_beams _ _ _⟩

section
variable {s : State} {core : Nat} (hcore : core < 256) (w : DWord)
include hcore

theorem State.regRead_psctl : (s.psctl core w).regRead core 0x000 = s.psctlValue core w := by
  obtain ⟨last, bs, h⟩ := s.psctl_only core w
  rw [h]
  show (s.modCore core _).regRead core 0x000 = _
  rw [State.regRead, State.coreOf_modCore_of_lt (by exact fun _ => rfl) hcore]
  rfl

theorem State.oneRegister_psctl : s.OneRegister (s.psctl core w) core 0x000 := by
  obtain ⟨last, bs, h⟩ := s.psctl_only core w
  have hone := State.OneRegister.of_modCore (s := s) (off := 0x000) (f := fun c => { c with trace :=
      { (s.coreOf core).trace with ctl := s.psctlValue core w, last := last } }) hcore (fun _ => rfl) fun t ht o ho => by
    simp only [State.regRead, ht, beq_iff_eq, ho, if_false]
  rw [h]
  exact ⟨hone.mem, hone.same, hone.other⟩

theorem State.regRead_spctl : (s.spctl core w).regRead core 0x600 = s.spctlValue core w := by
  rw [State.spctl, State.regRead, State.coreOf_modCore_of_lt (by exact fun _ => rfl) hcore]
  rfl

theorem State.oneRegister_spctl : s.OneRegister (s.spctl core w) core 0x600 := by
  rw [State.spctl]
  refine .of_modCore hcore (by exact fun _ => rfl) fun t ht o ho => ?_
  simp only [State.regRead, ht, beq_iff_eq, ho, if_false]

/-! ### SGCTL and the counters (R420, R432) -/

theorem State.regRead_sgctl : (s.sgctl core w).regRead core 0x100 = w &&& 0x8000000000000000 := by
  rw [State.sgctl, State.regRead, State.coreOf_modCore_of_lt (by exact fun _ => rfl) hcore]
  rfl

theorem State.oneRegister_sgctl (hclr : w.getLsbD 62 = false) : s.OneRegister (s.sgctl core w) core 0x100 := by
  rw [State.sgctl]
  refine .of_modCore hcore (by exact fun _ => rfl) fun t ht o ho => ?_
  simp only [State.regRead, ht, hclr, Bool.false_eq_true, beq_iff_eq, ho, if_false]

theorem State.regRead_sgctl_clear (hclr : w.getLsbD 62 = true) {q n : Nat} (hq : q < 4) (hn : n < 18) :
    (s.sgctl core w).regRead core (0x200 + 0x100 * q + 8 * n) = 0 := by
  rw [State.sgctl, State.regRead, State.coreOf_modCore_of_lt (by exact fun _ => rfl) hcore,
    sgPlace_eq_some.2 ⟨hq, hn.le, rfl⟩]
  simp only [hclr, if_true, beq_iff_eq, hn.ne, if_false, List.getD_eq_getElem?_getD, List.getElem?_replicate, hq, hn,
    Option.getD_some]
  rfl

theorem State.oneRegister_sgSet (q n : Nat) :
    s.OneRegister (s.sgSet core q n w) core (0x200 + 0x100 * q + 8 * n) := by
  rw [State.sgSet]
  refine .of_modCore hcore (by exact fun _ => rfl) fun t ht o ho => ?_
  simp only [State.regRead, ht]
  split
  next q' n' hplace =>
    obtain ⟨hq', hn', hoff⟩ := sgPlace_eq_some.1 hplace
    congr 2
    simp only [List.getD_eq_getElem?_getD, List.getElem?_modify]
    by_cases hqq : q = q'
    · have hnn : n ≠ n' := by
        rintro rfl
        exact ho (by rw [hoff, hqq])
      subst hqq
      cases (s.coreOf core).spec.sg[q]? with
      | none => rfl
      | some l => simp [List.getElem?_set_ne hnn]
    · simp [hqq]
  · rfl

theorem State.regRead_sgSet {q n : Nat} (hq : q < 4) (hn : n < 18) (hlen : (s.coreOf core).spec.sg.length = 4)
    (hl : ∀ l ∈ (s.coreOf core).spec.sg, l.length = 18) :
    (s.sgSet core q n w).regRead core (0x200 + 0x100 * q + 8 * n) = BitVec.ofNat 64 (w.toNat % 2 ^ 48) := by
  have hrow : n < ((s.coreOf core).spec.sg[q]).length := by rw [hl _ (List.getElem_mem _)]; exact hn
  rw [State.sgSet, State.regRead, State.coreOf_modCore_of_lt (by exact fun _ => rfl) hcore,
    sgPlace_eq_some.2 ⟨hq, hn.le, rfl⟩]
  simp [hn.ne, List.getD_eq_getElem?_getD, hlen, hq, hrow]

theorem State.oneRegister_sgstat (q : Nat) : s.OneRegister (s.sgstat core q w) core (0x290 + 0x100 * q) := by
  rw [State.sgstat]
  refine .of_modCore hcore (by exact fun _ => rfl) fun t ht o ho => ?_
  simp only [State.regRead, ht]
  split
  next q' n' hplace =>
    obtain ⟨hq', hn', hoff⟩ := sgPlace_eq_some.1 hplace
    by_cases h18 : n' = 18
    · have hqq : q ≠ q' := by
        rintro rfl
        omega
      simp [h18, List.getD_eq_getElem?_getD, hqq]
    · simp [h18]
  · rfl

theorem State.getLsbD_regRead_sgstat {q i : Nat} (hq : q < 4) (hi : i < 18) (hlen : (s.coreOf core).spec.stat.length = 4) :
    ((s.sgstat core q w).regRead core (0x290 + 0x100 * q)).getLsbD i =
      ((s.regRead core (0x290 + 0x100 * q)).getLsbD i && !w.getLsbD i) := by
  have hplace : sgPlace (0x290 + 0x100 * q) = some (q, 18) := sgPlace_eq_some.2 ⟨hq, le_rfl, by omega⟩
  have hlow : w.toNat % 2 ^ 18 < 2 ^ 18 := Nat.mod_lt _ (by decide)
  have hmask : 2 ^ 18 - 1 - w.toNat % 2 ^ 18 = 2 ^ 18 - (w.toNat % 2 ^ 18 + 1) := by omega
  rw [State.sgstat, State.regRead, State.coreOf_modCore_of_lt (by exact fun _ => rfl) hcore, State.regRead, hplace]
  have hi64 : i < 64 := by omega
  simp only [beq_self_eq_true, if_true, List.getD_eq_getElem?_getD, List.getElem?_modify, hlen, hq,
    List.getElem?_eq_getElem, Option.map_eq_map, Option.map_some, Option.getD_some, BitVec.getLsbD_ofNat, hi64, decide_true,
    Bool.true_and, Nat.testBit_and, hmask, Nat.testBit_two_pow_sub_succ hlow, Nat.testBit_mod_two_pow, hi]
  rfl

/-! ### The registers with no behaviour of their own (R6, R420) -/

theorem State.regPlain_base : (s.regPlain core 0x008 w).regRead core 0x008 = w &&& 0xFFFFFFFFFF000 ∧
    s.OneRegister (s.regPlain core 0x008 w) core 0x008 := by
  rw [State.regPlain]
  refine ⟨?_, .of_modCore hcore (by exact fun _ => rfl) fun t ht o ho => ?_⟩
  · rw [State.regRead, State.coreOf_modCore_of_lt (by exact fun _ => rfl) hcore]
    rfl
  · simp only [State.regRead, ht, beq_self_eq_true, if_true, beq_iff_eq, ho, if_false]

/-- SIZE, RP and SPRP have no reserved bits. -/
theorem State.regPlain_whole {off : Nat} (hoff : off ∈ [0x010, 0x020, 0x620]) :
    (s.regPlain core off w).regRead core off = w ∧ s.OneRegister (s.regPlain core off w) core off := by
  simp only [List.mem_cons, List.not_mem_nil, or_false] at hoff
  rw [State.regPlain]
  obtain rfl | rfl | rfl := hoff
  all_goals
    refine ⟨?_, .of_modCore hcore (by exact fun _ => rfl) fun t ht o ho => ?_⟩
    · rw [State.regRead, State.coreOf_modCore_of_lt (by exact fun _ => rfl) hcore]
      rfl
    · simp [State.regRead, ht, ho]

/-- WP, LOST, SPWP and SPDROP take no value from a store. -/
theorem State.coreOf_regPlain_readOnly {off : Nat} (hoff : off ∈ [0x018, 0x028, 0x618, 0x628]) (c : Nat) :
    (s.regPlain core off w).coreOf c = s.coreOf c := by
  have hsame : s.regPlain core off w = s.modCore core fun c => c := by
    simp only [List.mem_cons, List.not_mem_nil, or_false] at hoff
    obtain rfl | rfl | rfl | rfl := hoff
    · rfl
    · rfl
    · rfl
    · rfl
  rw [hsame]
  by_cases hc : c = core
  · rw [hc, State.coreOf_modCore_of_lt (fun _ => rfl) hcore]
  · exact State.coreOf_modCore_other (fun _ => rfl) hc

end

end Sys2Proof.Machine
end

section
/-! The stores to the registers of a page, as the instructions make them (R420 to R422, R432). -/

namespace Sys2Proof.Machine

/-! ### What the registers of Periscope and the Spectrograph read as after a store -/

/-- The instruction completes, one register of a core's page then satisfies `p`, and nothing else of memory and the pages
has changed. -/
def Reads (s : State) (core : Nat) (i : Instr) (off : Nat) (p : DWord → Prop) : Prop :=
  ∃ t, exec i s = .next t ∧ t.mem = s.mem ∧ p (t.regRead core off) ∧
    (∀ o, o ≠ off → t.regRead core o = s.regRead core o) ∧ ∀ c, c ≠ core → ∀ o, t.regRead c o = s.regRead c o

theorem State.OneRegister.reads {s t : State} {core off : Nat} (h : s.OneRegister t core off) {i : Instr}
    (hi : exec i s = .next t) {p : DWord → Prop} (hp : p (t.regRead core off)) : Reads s core i off p :=
  ⟨t, hi, h.mem, hp, h.same, h.other⟩

theorem or_and_distrib {n : Nat} (a b m : BitVec n) : (a ||| b) &&& m = (a &&& m) ||| (b &&& m) := by
  ext i
  simp [Bool.and_or_distrib_right]

/-- The enable bit stands above the bits that are kept, and DIM between them. -/
theorem psctl_bits (w : DWord) (en dim : Bool) :
    let v : DWord := (w &&& 0x7800FFFF00000000) ||| (if en then 0x8000000000000000 else 0) |||
      (if dim then 0x0400000000000000 else 0)
    v.getLsbD 63 = en ∧ v.getLsbD 58 = dim ∧
      v &&& 0x7BFFFFFFFFFFFFFF &&& ~~~0x0400000000000000 = w &&& 0x7800FFFF00000000 := by
  have hen : (if en then 0x8000000000000000 else 0 : DWord) &&& (0x7BFFFFFFFFFFFFFF &&& ~~~0x0400000000000000) = 0#64 := by
    cases en <;> rfl
  have hdim : (if dim then 0x0400000000000000 else 0 : DWord) &&& (0x7BFFFFFFFFFFFFFF &&& ~~~0x0400000000000000) = 0#64 := by
    cases dim <;> rfl
  refine ⟨?_, ?_, ?_⟩
  · cases en <;> cases dim <;> simp
  · cases en <;> cases dim <;> simp
  · rw [BitVec.and_assoc, or_and_distrib, or_and_distrib, hen, hdim, BitVec.or_zero, BitVec.or_zero, BitVec.and_assoc]
    rfl

theorem spctl_bits (w : DWord) (en : Bool) :
    let v : DWord := (w &&& 0xFFFFFFFF) ||| (if en then 0x8000000000000000 else 0)
    v.getLsbD 63 = en ∧ v &&& 0x7FFFFFFFFFFFFFFF = w &&& 0xFFFFFFFF := by
  have hen : (if en then 0x8000000000000000 else 0 : DWord) &&& 0x7FFFFFFFFFFFFFFF = 0#64 := by cases en <;> rfl
  refine ⟨?_, ?_⟩
  · cases en <;> simp
  · rw [or_and_distrib, hen, BitVec.or_zero, BitVec.and_assoc]
    rfl

section
variable {s : State} {core : Nat} (hcore : core < 256) (w : DWord)
include hcore

/-! ### The register stores -/

theorem reads_psctlWrite : Reads s core (.psctlWrite core w) 0x000 fun v =>
    v.getLsbD 63 = (w.getLsbD 63 && ringSizeOk (s.regRead core 0x010) &&
      s.ringPlaced core (s.regRead core 0x008) (s.regRead core 0x010)) ∧
    v.getLsbD 58 = (if s.coreBusy core then (s.regRead core 0x000).getLsbD 58 else w.getLsbD 58) ∧
    v &&& 0x7BFFFFFFFFFFFFFF &&& ~~~0x0400000000000000 = w &&& 0x7800FFFF00000000 := by
  refine (State.oneRegister_psctl hcore w).reads rfl ?_
  rw [State.regRead_psctl hcore w]
  exact psctl_bits w _ _

theorem reads_spctlWrite : Reads s core (.spctlWrite core w) 0x600 fun v =>
    v.getLsbD 63 = (w.getLsbD 63 && ringSizeOk (s.regRead core 0x610) &&
      s.ringPlaced core (s.regRead core 0x608) (s.regRead core 0x610)) ∧
    v &&& 0x7FFFFFFFFFFFFFFF = w &&& 0xFFFFFFFF := by
  refine (State.oneRegister_spctl hcore w).reads rfl ?_
  rw [State.regRead_spctl hcore w]
  exact spctl_bits w _

theorem reads_of_plain {off : Nat} (hoff : off ∈ [0x010, 0x020, 0x620]) {i : Instr}
    (hi : exec i s = .next (s.regPlain core off w)) : Reads s core i off (· = w) := by
  obtain ⟨hread, hone⟩ := State.regPlain_whole hcore w hoff
  exact hone.reads hi hread

theorem reads_psrpWrite : Reads s core (.psrpWrite core w) 0x020 (· = w) :=
  reads_of_plain hcore w (by decide) rfl

theorem reads_sprpWrite : Reads s core (.sprpWrite core w) 0x620 (· = w) :=
  reads_of_plain hcore w (by decide) rfl

theorem reads_sgctlWrite (hclr : w.getLsbD 62 = false) :
    Reads s core (.sgctlWrite core w) 0x100 (· = w &&& 0x8000000000000000) :=
  (State.oneRegister_sgctl hcore w hclr).reads rfl (State.regRead_sgctl hcore w)

theorem reads_registerPageWrite_base :
    Reads s core (.registerPageWrite core 0x008 w) 0x008 (· = w &&& 0xFFFFFFFFFF000) := by
  obtain ⟨hread, hone⟩ := State.regPlain_base hcore w
  exact hone.reads rfl hread

theorem reads_registerPageWrite_size : Reads s core (.registerPageWrite core 0x010 w) 0x010 (· = w) :=
  reads_of_plain hcore w (by decide) rfl

theorem reads_sgWrite {q n : Nat} (hq : q < 4) (hn : n < 18) (hlen : (s.coreOf core).spec.sg.length = 4)
    (hl : ∀ l ∈ (s.coreOf core).spec.sg, l.length = 18) :
    Reads s core (.sgWrite core q n w) (0x200 + 0x100 * q + 8 * n) (· = BitVec.ofNat 64 (w.toNat % 2 ^ 48)) := by
  have hplace : sgPlace (0x200 + 0x100 * q + 8 * n) = some (q, n) := sgPlace_eq_some.2 ⟨hq, hn.le, rfl⟩
  have hexec : exec (.sgWrite core q n w) s = .next (s.sgSet core q n w) := by
    simp only [exec, execSgWrite, hq, hn, and_self, if_true, State.regWrite, hplace, beq_iff_eq, hn.ne, if_false]
  exact (State.oneRegister_sgSet hcore w q n).reads hexec (State.regRead_sgSet hcore w hq hn hlen hl)

theorem reads_sgstatW1c {q : Nat} (hq : q < 4) (hlen : (s.coreOf core).spec.stat.length = 4) :
    Reads s core (.sgstatW1c core q w) (0x290 + 0x100 * q) fun v =>
      ∀ i, i < 18 → v.getLsbD i = ((s.regRead core (0x290 + 0x100 * q)).getLsbD i && !w.getLsbD i) := by
  have hplace : sgPlace (0x290 + 0x100 * q) = some (q, 18) := sgPlace_eq_some.2 ⟨hq, le_rfl, by omega⟩
  have hexec : exec (.sgstatW1c core q w) s = .next (s.sgstat core q w) := by
    simp only [exec, execSgstatW1c, hq, if_true, State.regWrite, hplace, beq_self_eq_true]
  exact (State.oneRegister_sgstat hcore w q).reads hexec fun i hi => State.getLsbD_regRead_sgstat hcore w hq hi hlen

/-- A store to a read-only register changes no register. -/
theorem registerPageWrite_readOnly {off : Nat} (hoff : off ∈ [0x018, 0x028, 0x618, 0x628]) :
    ∃ t, exec (.registerPageWrite core off w) s = .next t ∧ ∀ c o, t.regRead c o = s.regRead c o := by
  have hexec : exec (.registerPageWrite core off w) s = .next (s.regPlain core off w) := by
    simp only [List.mem_cons, List.not_mem_nil, or_false] at hoff
    obtain rfl | rfl | rfl | rfl := hoff
    · rfl
    · rfl
    · rfl
    · rfl
  exact ⟨_, hexec, fun c => State.regRead_congr (State.coreOf_regPlain_readOnly hcore w hoff c)⟩

end

end Sys2Proof.Machine
end

section
/-! Samples, counted cycles and the throttle (R354, R422, R430 to R433), and the register pages together. -/

namespace Sys2Proof.Machine

/-! ### Bytes that reach a ring leave the counters and the quadrants of every core -/

/-- What samples and counts read of a core besides the beams. -/
def Core.watch (c : Core) : Spectro × List Quad := (c.spec, c.quads)

section
variable (s : State)

theorem State.watch_writeByte (who : Option Nat) (pa : Nat) (x : Byte) (core : Nat) :
    ((s.writeByte who pa x).coreOf core).watch = (s.coreOf core).watch := by
  have hkeep (c : Core) (old : Byte) (may : Bool) (w : Word) :
      ((c.noteWrite who pa old).noteStored may pa w).id = c.id ∧
        ((c.noteWrite who pa old).noteStored may pa w).watch = c.watch := by
    unfold Core.noteStored Core.noteWrite
    refine ⟨?_, ?_⟩
    · repeat' split
      all_goals rfl
    · repeat' split
      all_goals rfl
  have hfind : (s.writeByte who pa x).core? core = (s.core? core).map _ :=
    find?_map_of_eq (fun y => congrArg (· == core) (hkeep y _ _ _).1) s.cores
  rw [State.coreOf, State.coreOf, hfind]
  cases s.core? core with
  | none => rfl
  | some c => exact (hkeep c _ _ _).2

theorem State.watch_ringWrite (base size wp : Nat) (bs : List Byte) (core : Nat) :
    ((s.ringWrite base size wp bs).coreOf core).watch = (s.coreOf core).watch :=
  foldl_field (f := fun s (x : Byte × Nat) => s.writeByte none (base + x.2 % size) x.1)
    (p := fun s : State => (s.coreOf core).watch) (fun s _ => s.watch_writeByte ..) _ s

end

/-! ### A sampling period (R422, R433) -/

/-- The bytes of the records that a core has made so far, those that the ring had no room for among them. -/
def Spectro.offered (p : Spectro) : DWord := p.spwp + 32 * p.spdrop

theorem sampleBytes_length (s : State) (b : Beam) (pc leaf tag : Nat) : (sampleBytes s b pc leaf tag).length = 32 := by
  simp [sampleBytes, natLe_length]

section
variable {s : State} {core : Nat} (hcore : core < 256)
include hcore

/-- A record goes into the ring or is dropped. -/
theorem State.offered_sample {bs : List Byte} (hbs : bs.length = 32) :
    ((s.sample core bs).coreOf core).spec.offered = (s.coreOf core).spec.offered + 32 ∧
      ((s.sample core bs).coreOf core).quads = (s.coreOf core).quads := by
  unfold State.sample
  dsimp only
  split
  · have hring := Prod.ext_iff.1 (s.watch_ringWrite (s.coreOf core).spec.spbase.toNat (s.coreOf core).spec.spsize.toNat
      (s.coreOf core).spec.spwp.toNat bs core)
    obtain ⟨hspec, hquads⟩ := hring
    rw [State.coreOf_modCore_of_lt (by exact fun _ => rfl) hcore]
    refine ⟨?_, hquads⟩
    have hdrop := congrArg Spectro.spdrop hspec
    simp only [Core.watch] at hdrop
    simp only [Spectro.offered, hbs, hdrop, show BitVec.ofNat 64 32 = (32 : DWord) from rfl]
    ring
  · rw [State.coreOf_modCore_of_lt (by exact fun _ => rfl) hcore]
    refine ⟨?_, rfl⟩
    simp only [Spectro.offered]
    ring

omit hcore in
theorem State.sampled_congr {t : State} {q : Nat} (hb : t.beams = s.beams)
    (hq : (t.coreOf core).quads.getD q Quad.reset = (s.coreOf core).quads.getD q Quad.reset) :
    t.sampled core q = s.sampled core q := by
  rw [State.sampled, State.sampled, hb, hq]

omit hcore in
theorem State.beams_sampleQuad (q : Nat) : (s.sampleQuad core q).beams = s.beams := by
  unfold State.sampleQuad
  split
  · rfl
  · rw [State.modCore_beams]
    exact (s.sameBesideMemory_sample ..).beams

/-- A quadrant with a beam makes one record, and the other quadrants sample as before. -/
theorem State.sampleQuad_spec (q : Nat) :
    ((s.sampleQuad core q).coreOf core).spec.offered =
      (s.coreOf core).spec.offered + 32 * BitVec.ofNat 64 (if (s.sampled core q).isSome then 1 else 0) ∧
    ∀ r, r ≠ q → (s.sampleQuad core q).sampled core r = s.sampled core r := by
  cases hb : s.sampled core q with
  | none =>
    have hsame : s.sampleQuad core q = s := by rw [State.sampleQuad, hb]
    rw [hsame]
    simp
  | some b =>
    have hquad : s.sampleQuad core q = (s.sample core (sampleBytes s b (b.entry ((b.entriesIn .run).headD 0)).pc
        (s.beamLeaf b) 0)).modCore core fun c =>
          { c with quads := c.quads.modify q fun y => { y with samp := (slotIndex b.key.slot + 1) % 16 } } := by
      rw [State.sampleQuad, hb]
    obtain ⟨hoffered, hquads⟩ := State.offered_sample (s := s) hcore
      (sampleBytes_length s b (b.entry ((b.entriesIn .run).headD 0)).pc (s.beamLeaf b) 0)
    refine ⟨?_, fun r hr => State.sampled_congr (State.beams_sampleQuad q) ?_⟩
    · rw [hquad, State.coreOf_modCore_of_lt (by exact fun _ => rfl) hcore]
      simpa using hoffered
    · rw [hquad, State.coreOf_modCore_of_lt (by exact fun _ => rfl) hcore]
      simp only [hquads, List.getD_eq_getElem?_getD, List.getElem?_modify_ne _ _ hr.symm]

/-- Quadrants that are sampled in turn make as many records as of them have a beam. -/
theorem State.offered_foldl_sampleQuad {l : List Nat} (hl : l.Nodup) :
    ((l.foldl (fun (s : State) q => s.sampleQuad core q) s).coreOf core).spec.offered =
      (s.coreOf core).spec.offered + 32 * BitVec.ofNat 64 (l.filter fun q => (s.sampled core q).isSome).length := by
  induction l generalizing s with
  | nil => simp
  | cons q l ih =>
    obtain ⟨hq, hl⟩ := List.nodup_cons.1 hl
    obtain ⟨hoffered, hother⟩ := State.sampleQuad_spec (s := s) hcore q
    have hfilter : (l.filter fun r => ((s.sampleQuad core q).sampled core r).isSome) =
        l.filter fun r => (s.sampled core r).isSome :=
      List.filter_congr fun r hr => by rw [hother r (ne_of_mem_of_not_mem hr hq)]
    rw [List.foldl_cons, ih hl, hoffered, hfilter, List.filter_cons]
    split
    · rw [List.length_cons, BitVec.ofNat_add]
      ring
    · simp

theorem samplePeriod_samples (h : s.samplesNow (s.coreOf core) = true) :
    ∃ t, exec (.samplePeriod core) s = .next t ∧ t.beams = s.beams ∧ (t.coreOf core).sampled = true ∧
      (t.coreOf core).spec.offered = (s.coreOf core).spec.offered +
        32 * BitVec.ofNat 64 ((List.range 4).filter fun q => (s.sampled core q).isSome).length := by
  refine ⟨_, if_pos h, ?_, ?_, ?_⟩
  · rw [State.modCore_beams]
    exact foldl_field (p := State.beams) (fun s q => State.beams_sampleQuad q) _ s
  · rw [State.coreOf_modCore_of_lt (by exact fun _ => rfl) hcore]
  · rw [State.coreOf_modCore_of_lt (by exact fun _ => rfl) hcore]
    exact State.offered_foldl_sampleQuad hcore List.nodup_range

end

/-! ### A counted cycle (R430 to R432) -/

theorem WaitKind.leaf_lt (k : WaitKind) : k.leaf < 16 := by cases k <;> decide

theorem FillSrc.leaf_lt (f : FillSrc) : f.leaf < 16 := by cases f <;> decide

theorem State.nextLeaf_lt (s : State) (b : Beam) (e : Nat) : s.nextLeaf b e < 16 := by
  have howed (o : Option FillSrc) : (o.map FillSrc.leaf).getD 8 < 16 := by
    cases o with
    | none => decide
    | some f => exact f.leaf_lt
  unfold State.nextLeaf
  split
  · decide
  · dsimp only
    repeat' split
    · decide
    · exact howed _
    all_goals decide

theorem State.leaf_lt (s : State) (b : Beam) (e : Nat) : s.leaf b e < 16 := by
  unfold State.leaf
  dsimp only
  repeat' split
  · decide
  · decide
  · decide
  · exact WaitKind.leaf_lt _
  · decide
  · exact s.nextLeaf_lt b e

theorem Issued.lt_of_mem_slots {x : Issued} {l : Nat} (h : l ∈ x.slots) : l < 16 := by
  obtain ⟨k, -, rfl⟩ := List.mem_map.1 h
  split
  · decide
  · decide

theorem lt_of_mem_spread {fs : List (Nat × Nat)} (hfs : ∀ f ∈ fs, f.2 < 16) (left : Nat) {l : Nat} (h : l ∈ spread left fs) :
    l < 16 := by
  induction fs generalizing left with
  | nil =>
    rw [List.eq_of_mem_replicate h]
    decide
  | cons f fs ih =>
    obtain h | h := List.mem_append.1 h
    · rw [List.eq_of_mem_replicate h]
      exact hfs f List.mem_cons_self
    · exact ih (fun g hg => hfs g (List.mem_cons_of_mem _ hg)) _ h

/-- The leaves of a quadrant's four slots in this cycle. -/
def State.slotLeaves (s : State) (core q : Nat) : List Nat :=
  let issued := (((s.coreOf core).quads.getD q Quad.reset).filled).flatMap Issued.slots
  issued ++ spread (4 - issued.length) ((s.idle core q).map fun p => (p.1.w, s.leaf p.1 p.2))

theorem State.lt_of_mem_slotLeaves {s : State} {core q l : Nat} (h : l ∈ s.slotLeaves core q) : l < 16 := by
  obtain h | h := List.mem_append.1 h
  · obtain ⟨x, -, hx⟩ := List.mem_flatMap.1 h
    exact Issued.lt_of_mem_slots hx
  · refine lt_of_mem_spread (fun f hf => ?_) _ h
    obtain ⟨p, -, rfl⟩ := List.mem_map.1 hf
    exact s.leaf_lt ..

/-- The increments that are due of one quadrant's cycle: of its slots, of the cycle, and of the lanes. -/
theorem State.countQuad_spec {s : State} {core : Nat} (hcore : core < 256) (q : Nat) :
    ∃ n, ((s.countQuad core q).coreOf core).spec =
      { (s.coreOf core).spec with due := (s.coreOf core).spec.due ++
          (((s.slotLeaves core q).map fun l => (q, l, 1)) ++ [(q, 16, 1), (q, 17, n)]) } := by
  rw [State.countQuad, State.coreOf_modCore_of_lt (by exact fun _ => rfl) hcore]
  simp only [List.append_assoc]
  exact ⟨_, rfl⟩

/-- Of the increments of one quadrant only one is due to a cycle counter: one, to its own. -/
theorem filter_due {q r n : Nat} {leaves : List Nat} (hleaves : ∀ l ∈ leaves, l < 16) :
    ((leaves.map fun l => (q, l, 1)) ++ [(q, 16, 1), (q, 17, n)]).filter (fun d => d.1 == r && d.2.1 == 16) =
      if q = r then [(r, 16, 1)] else [] := by
  have hnone : (leaves.map fun l => (q, l, 1)).filter (fun d => d.1 == r && d.2.1 == 16) = [] := by
    refine List.filter_eq_nil_iff.2 fun d hd => ?_
    obtain ⟨l, hl, rfl⟩ := List.mem_map.1 hd
    simp [(hleaves l hl).ne]
  rw [List.filter_append, hnone, List.nil_append]
  by_cases h : q = r
  · simp [h]
  · simp [h]

theorem State.foldl_countQuad {s : State} {core : Nat} (hcore : core < 256) {l : List Nat} (hl : l.Nodup) :
    ∃ ds, ((l.foldl (fun (s : State) q => s.countQuad core q) s).coreOf core).spec =
        { (s.coreOf core).spec with due := (s.coreOf core).spec.due ++ ds } ∧
      ∀ r, ds.filter (fun d => d.1 == r && d.2.1 == 16) = if r ∈ l then [(r, 16, 1)] else [] := by
  induction l generalizing s with
  | nil => exact ⟨[], by simp, by simp⟩
  | cons q l ih =>
    obtain ⟨hq, hl⟩ := List.nodup_cons.1 hl
    obtain ⟨n, hspec⟩ := State.countQuad_spec (s := s) hcore q
    obtain ⟨ds, hds, hfilter⟩ := ih (s := s.countQuad core q) hl
    refine ⟨(((s.slotLeaves core q).map fun l => (q, l, 1)) ++ [(q, 16, 1), (q, 17, n)]) ++ ds, ?_, fun r => ?_⟩
    · rw [List.foldl_cons, hds, hspec]
      simp only [List.append_assoc]
    · rw [List.filter_append, filter_due fun l => State.lt_of_mem_slotLeaves, hfilter]
      by_cases h : q = r
      · subst h
        simp [hq]
      · simp [h, Ne.symm h]

theorem sliceIssueSlotCount_counts {s : State} {core : Nat} (hcore : core < 256)
    (hen : (s.coreOf core).spec.ctl.getLsbD 63 = true) (hc : (s.coreOf core).counted = false) :
    ∃ t, exec (.sliceIssueSlotCount core) s = .next t ∧ t.beams = s.beams ∧ t.mem = s.mem ∧
      (t.coreOf core).counted = true ∧ ∃ ds,
        (t.coreOf core).spec = { (s.coreOf core).spec with due := (s.coreOf core).spec.due ++ ds } ∧
          ∀ q, q < 4 → ds.filter (fun d => d.1 == q && d.2.1 == 16) = [(q, 16, 1)] := by
  obtain ⟨ds, hds, hfilter⟩ := State.foldl_countQuad (s := s) hcore (List.nodup_range (n := 4))
  refine ⟨_, if_pos (by rw [hen, hc]; rfl), ?_, ?_, ?_, ds, ?_, fun q hq => ?_⟩
  · rw [State.modCore_beams]
    exact foldl_field (p := State.beams) (fun s q => State.modCore_beams ..) _ s
  · rw [State.modCore_mem]
    exact foldl_field (p := State.mem) (fun s q => State.modCore_mem ..) _ s
  · rw [State.coreOf_modCore_of_lt (by exact fun _ => rfl) hcore]
  · rw [State.coreOf_modCore_of_lt (by exact fun _ => rfl) hcore]
    exact hds
  · rw [hfilter, if_pos (List.mem_range.2 hq)]

theorem Spectro.tick_of_due_nil {p : Spectro} (h : p.due = []) : p.tick = p := by
  obtain ⟨_, _, _, _, _, _, _, _, _, due⟩ := p
  cases h
  rfl

/-- The increments of a cycle come in their order. -/
theorem Spectro.tick_of_due_append {p : Spectro} {ds : List (Nat × Nat × Nat)} {d : Nat × Nat × Nat} (h : p.due = ds ++ [d]) :
    p.tick = ({ p with due := ds }.tick).bump d.1 d.2.1 d.2.2 := by
  rw [Spectro.tick, h, List.foldl_append]
  rfl

/-- A counter wraps, and the overflow bit is set where it does. -/
theorem Spectro.bump_spec {p : Spectro} {q n k m : Nat} {l : List Nat} (hl : p.sg[q]? = some l) (hn : n < l.length)
    (hm : p.stat[q]? = some m) :
    ((p.bump q n k).sg.getD q []).getD n 0 = (l.getD n 0 + k) % 2 ^ 48 ∧
      (p.bump q n k).stat[q]? = some (if 2 ^ 48 ≤ l.getD n 0 + k then m ||| 2 ^ n else m) := by
  have hrow : p.sg.getD q [] = l := by rw [List.getD_eq_getElem?_getD, hl]; rfl
  refine ⟨?_, ?_⟩
  · simp only [Spectro.bump, hrow, List.getD_eq_getElem?_getD, List.getElem?_modify_eq, hl, Option.map_eq_map,
      Option.map_some, Option.getD_some, List.getElem?_set_self hn]
  · simp only [Spectro.bump, hrow, ge_iff_le]
    split
    · rw [List.getElem?_modify_eq, hm]
      rfl
    · exact hm

/-! ### The throttle (R354) -/

section
variable {s : State} {core : Nat} (hcore : core < 256)
include hcore

theorem throttleRotation_moves {quad : Nat} {q : Quad} (hq : (s.coreOf core).quads[quad]? = some q)
    (hen : q.engaged = true) (hrot : q.rotated = false) (hclock : s.clock % 256 = 0) :
    ∃ t, exec (.throttleRotation core quad) s = .next t ∧ t.beams = s.beams ∧
      (t.coreOf core).quads[quad]? = some { q with rotated := true, rot :=
        match (s.servedSlots core quad).getLast? with | some n => (n + 1) % 20 | none => q.rot } := by
  have hget : (s.coreOf core).quads.getD quad Quad.reset = q := by rw [List.getD_eq_getElem?_getD, hq]; rfl
  refine ⟨_, if_pos ?_, State.modCore_beams .., ?_⟩
  · simp only [hget, hen, hrot, hclock]
    rfl
  · rw [State.coreOf_modCore_of_lt (by exact fun _ => rfl) hcore]
    simp only [List.getElem?_modify_eq, hq, hget]
    rfl

omit hcore in
theorem throttleRotation_rests {quad : Nat} {q : Quad} (hq : (s.coreOf core).quads[quad]? = some q)
    (h : q.engaged = false ∨ q.rotated = true ∨ s.clock % 256 ≠ 0) :
    exec (.throttleRotation core quad) s = .next s := by
  have hget : (s.coreOf core).quads.getD quad Quad.reset = q := by rw [List.getD_eq_getElem?_getD, hq]; rfl
  refine if_neg ?_
  simp only [hget, Bool.and_eq_true, Bool.not_eq_true', decide_eq_true_eq, not_and]
  rintro ⟨hen, hrot⟩ hclock
  obtain h | h | h := h
  · exact Bool.false_ne_true (h.symm.trans hen)
  · exact Bool.false_ne_true (hrot.symm.trans h)
  · exact h hclock

end

/-- One core of a region whose averaged level has changed. -/
def State.congest (level : Nat) (s : State) (core : Nat) : State :=
  match s.partOfCore core with
  | some p => s.modCore core fun c => { c with quads := c.quads.map fun q => { q with engaged := cgEngaged p.cgctl level q.engaged } }
  | none => s

theorem exec_congestionLevelChange (region level : Nat) (s : State) : exec (.congestionLevelChange region level) s =
    .next (((List.range 16).map fun i => 16 * region + i).foldl (State.congest level)
      { s with levels := s.levels.set region level }) := rfl

section
variable (level : Nat) (s : State) (core : Nat)

/-- It changes nothing but the cores. -/
theorem State.congest_only : ∃ cs, s.congest level core = { s with cores := cs } := by
  unfold State.congest
  split
  · exact s.modCore_only ..
  · exact ⟨_, rfl⟩

theorem State.beams_congest : (s.congest level core).beams = s.beams := by
  obtain ⟨cs, h⟩ := s.congest_only level core
  rw [h]

theorem State.levels_congest : (s.congest level core).levels = s.levels := by
  obtain ⟨cs, h⟩ := s.congest_only level core
  rw [h]

theorem State.parts_congest : (s.congest level core).parts = s.parts := by
  obtain ⟨cs, h⟩ := s.congest_only level core
  rw [h]

theorem State.coreOf_congest_other {c : Nat} (h : c ≠ core) : (s.congest level core).coreOf c = s.coreOf c := by
  unfold State.congest
  split
  · exact State.coreOf_modCore_other (by exact fun _ => rfl) h
  · rfl

theorem State.quads_congest {core : Nat} (hcore : core < 256) {p : Partition} (hp : s.partOfCore core = some p) :
    ((s.congest level core).coreOf core).quads =
      (s.coreOf core).quads.map fun q => { q with engaged := cgEngaged p.cgctl level q.engaged } := by
  rw [State.congest, hp]
  exact congrArg Core.quads (State.coreOf_modCore_of_lt (by exact fun _ => rfl) hcore)

end

theorem State.coreOf_foldl_congest_other (level : Nat) {core : Nat} {l : List Nat} (h : core ∉ l) (s : State) :
    (l.foldl (State.congest level) s).coreOf core = s.coreOf core := by
  induction l generalizing s with
  | nil => rfl
  | cons c l ih =>
    obtain ⟨hc, hl⟩ := not_or.1 (List.mem_cons.not.1 h)
    exact (ih hl _).trans (s.coreOf_congest_other level c hc)

/-- Each core of a list is reached once. -/
theorem State.quads_foldl_congest (level : Nat) {core : Nat} (hcore : core < 256) {p : Partition} {l : List Nat}
    (hl : l.Nodup) (hmem : core ∈ l) {s : State} (hp : s.partOfCore core = some p) :
    ((l.foldl (State.congest level) s).coreOf core).quads =
      (s.coreOf core).quads.map fun q => { q with engaged := cgEngaged p.cgctl level q.engaged } := by
  induction l generalizing s with
  | nil => cases hmem
  | cons c l ih =>
    obtain ⟨hc, hl⟩ := List.nodup_cons.1 hl
    rw [List.foldl_cons]
    by_cases hcc : core = c
    · subst hcc
      rw [State.coreOf_foldl_congest_other level hc, s.quads_congest level hcore hp]
    · have hp' : (s.congest level c).partOfCore core = some p := by
        rw [State.partOfCore, s.parts_congest]
        exact hp
      rw [ih hl ((List.mem_cons.1 hmem).resolve_left hcc) hp', s.coreOf_congest_other level c hcc]

section
variable {r : BitVec 32} {level : Nat} (now : Bool)

/-- Above THRESH the throttle engages. -/
theorem cgEngaged_of_lt (hen : cgEn r = true) (h : cgThresh r < level) : cgEngaged r level now = true := by
  simp [cgEngaged, hen, h]

/-- Below THRESH − HYST, and without EN, it releases. -/
theorem cgEngaged_of_below (h : cgEn r = false ∨ level + cgHyst r < cgThresh r) : cgEngaged r level now = false := by
  obtain hen | hlt := h
  · simp [cgEngaged, hen]
  · simp [cgEngaged, hlt, show ¬ cgThresh r < level by omega]

/-- Between them it stays. -/
theorem cgEngaged_between (hen : cgEn r = true) (hle : cgThresh r ≤ level + cgHyst r) (h : level ≤ cgThresh r) :
    cgEngaged r level now = now := by
  simp [cgEngaged, hen, hle, h]

end

theorem congestionLevelChange_engages {s : State} {core region : Nat} (hcore : core < 256) (level : Nat) {p : Partition}
    (hregion : core / 16 = region) (hp : s.partOfCore core = some p) :
    ∃ t, exec (.congestionLevelChange region level) s = .next t ∧ t.beams = s.beams ∧
      t.levels = s.levels.set region level ∧
      (t.coreOf core).quads = (s.coreOf core).quads.map fun q => { q with engaged := cgEngaged p.cgctl level q.engaged } := by
  have hmem : core ∈ (List.range 16).map fun i => 16 * region + i :=
    List.mem_map.2 ⟨core % 16, List.mem_range.2 (Nat.mod_lt _ (by decide)), by omega⟩
  have hnodup : ((List.range 16).map fun i => 16 * region + i).Nodup :=
    List.nodup_range.map fun i j (h : 16 * region + i = 16 * region + j) => by omega
  refine ⟨_, exec_congestionLevelChange region level s, ?_, ?_, ?_⟩
  · exact foldl_field (p := State.beams) (State.beams_congest level) _ _
  · exact foldl_field (p := State.levels) (State.levels_congest level) _ _
  · exact State.quads_foldl_congest level hcore hnodup hmem (s := { s with levels := s.levels.set region level }) hp

/-! ### The register pages together -/

/-- Settles O41: a store to a register is a change of one core's record (`OneRegister`), and a sample, a counted cycle and
a congestion level go through the quadrants or cores of a list, each reached once. -/
theorem registerPages : Obligations.RegisterPages := by
  unfold Obligations.RegisterPages
  refine ⟨fun s core w hcore => ?_, fun s core hcore => ?_⟩
  · refine ⟨reads_psrpWrite hcore w, reads_sprpWrite hcore w, reads_psctlWrite hcore w, reads_spctlWrite hcore w,
      reads_sgctlWrite hcore w, fun hclr => ?_, fun hlen hl hstat q n hq hn => ?_, reads_registerPageWrite_base hcore w,
      reads_registerPageWrite_size hcore w, fun off hoff => registerPageWrite_readOnly hcore w hoff, rfl⟩
    · exact ⟨_, rfl, State.regRead_sgctl hcore w, fun q n => State.regRead_sgctl_clear hcore w hclr⟩
    · exact ⟨reads_sgWrite hcore w hq hn hlen hl, reads_sgstatW1c hcore w hq hstat⟩
  · refine ⟨fun h => if_neg (ne_true_of_eq_false h), samplePeriod_samples hcore, fun h => if_neg ?_,
      fun hen hc _ _ => sliceIssueSlotCount_counts hcore hen hc, fun p => ?_, fun quad q hq => ?_,
      fun region level p hregion hp => ?_⟩
    · rw [Bool.and_eq_true, Bool.not_eq_true']
      rintro ⟨hen, hc⟩
      obtain h | h := h
      · exact Bool.false_ne_true (h.symm.trans hen)
      · exact Bool.false_ne_true (hc.symm.trans h)
    · exact ⟨Spectro.tick_of_due_nil, fun ds d => Spectro.tick_of_due_append, fun q n k l m => Spectro.bump_spec⟩
    · exact ⟨throttleRotation_moves hcore hq, throttleRotation_rests hq⟩
    · obtain ⟨t, hexec, hbeams, hlevels, hquads⟩ := congestionLevelChange_engages hcore level hregion hp
      refine ⟨t, hexec, hbeams, hlevels, fun q => cgEngaged p.cgctl level q.engaged, hquads, ?_⟩
      exact ⟨fun hen hlt q => cgEngaged_of_lt _ hen hlt, fun h q => cgEngaged_of_below _ h,
        fun hen hle h q => cgEngaged_between _ hen hle h⟩

end Sys2Proof.Machine
end
